-- ==== Sys2Proof/Word.lean ====
section
/-! DEFINITION. The word types of the UA8 model and their plainest arithmetic. -/

namespace Sys2Proof

/-- A byte, the smallest addressable unit of every memory of the module (R12). -/
abbrev Byte := BitVec 8

/-- A 16-bit word: fault and event codes, sync counters (R216). -/
abbrev Word16 := BitVec 16

/-- A 32-bit word: FP32 bit patterns, tensor IDs. -/
abbrev Word32 := BitVec 32

/-- A 64-bit word: every chip register is 64 bits wide. -/
abbrev Word64 := BitVec 64

/-- A bundle, 512 bits (R19). -/
abbrev BundleBits := BitVec 512

end Sys2Proof
end

