-- ==== Sys2Proof/Syntax.lean ====
section
/-! DEFINITION. The commands of the module: one constructor of `Instr` per row of spec/opcode_table.json, with the operands
the model gives it (the table gives none; log entry 1), and the operand types. -/

namespace Sys2Proof

/-- Predicate and done fields of an M, V, T or X slot (R23, R24, R26). -/
structure Hdr where
  pred : BitVec 4
  done : BitVec 6
  deriving DecidableEq, Repr

/-- An operation of the M slot (R27). -/
inductive MOp where
  | nop
  | mld (tile : BitVec 5) (tag : BitVec 4) (turn : Bool)
  | mswap
  /-- MMUL, or MMULZ when `zero` holds. `rows1`, `depth1` and `cols1` are the fields, one less than the quantity. -/
  | mmul (zero : Bool) (areg : BitVec 4) (offset : BitVec 16) (rows1 dest : BitVec 11) (fmt : BitVec 4) (acc : BitVec 3)
      (depth1 cols1 : BitVec 6) (rowscale : Bool) (sareg : BitVec 4)
  | mdrain (first rows1 : BitVec 11) (tile : BitVec 5) (tag : BitVec 4) (mode : BitVec 3) (rnd : BitVec 2) (areg : BitVec 4)
      (offset : BitVec 16) (kind : BitVec 2)
  | mtopk (first rows1 : BitVec 11) (vtile : BitVec 5) (vtag : BitVec 4) (ptile : BitVec 5) (ptag : BitVec 4)
      (k1 : BitVec 4) (base : BitVec 24) (kind : BitVec 2)
  deriving DecidableEq, Repr

/-- The opcodes of the V slot (R28). -/
inductive VOpc where
  | vnop | vop | vcvt | vred | vscale | vrq | vfn | vsr | vadam
  deriving DecidableEq, Repr

/-- The one operand layout of the V slot (R28). -/
structure VArgs where
  dst : BitVec 5
  dtag : BitVec 4
  a : BitVec 5
  atag : BitVec 4
  b : BitVec 5
  btag : BitVec 4
  c : BitVec 5
  ctag : BitVec 4
  fn : BitVec 8
  rnd : BitVec 2
  fmt : BitVec 4
  imm : BitVec 32
  deriving DecidableEq, Repr

/-- An operation of the T slot (R30). -/
inductive TOp where
  | nop
  | tcfg (tile : BitVec 5) (tag : BitVec 4) (rows1 : BitVec 6) (elems1 : BitVec 10) (fmt : BitVec 4)
  | tld (tile : BitVec 5) (tag : BitVec 4) (areg : BitVec 4) (offset : BitVec 16) (pitch : BitVec 12)
  | tst (tile : BitVec 5) (tag : BitVec 4) (areg : BitVec 4) (offset : BitVec 16) (pitch : BitVec 12)
  | tmov (dst : BitVec 5) (dtag : BitVec 4) (src : BitVec 5) (stag : BitVec 4)
  | tzero (tile : BitVec 5) (tag : BitVec 4)
  | txp (dst : BitVec 5) (dtag : BitVec 4) (src : BitVec 5) (stag : BitVec 4)
  deriving DecidableEq, Repr

/-- An operation of the X slot (R31, R32). -/
inductive XOp where
  | nop
  | xloc (areg : BitVec 4) (offset : BitVec 16)
  | xstr (areg : BitVec 4) (offset : BitVec 16) (ctx : BitVec 14)
  | xcol (areg : BitVec 4) (offset : BitVec 16) (ctx : BitVec 14)
  | xwatch (areg : BitVec 4) (offset : BitVec 16)
  | xfence (wloc wstr wback inval : Bool)
  deriving DecidableEq, Repr

/-- An operation of the S slot (R33). -/
inductive SOp where
  | nop
  | sinc (ctr : BitVec 6) (n : BitVec 16)
  | swait (ctr : BitVec 6) (n : BitVec 16)
  | sdec (ctr : BitVec 6) (n : BitVec 16)
  | ssig (areg : BitVec 4) (offset : BitVec 16)
  | sbar (g : BitVec 9) (n : BitVec 16)
  deriving DecidableEq, Repr

/-- An operation of the C slot (R34). -/
inductive COp where
  | nop
  | cloop (fromReg : Bool) (areg : BitVec 4) (count1 : BitVec 16) (body1 : BitVec 16)
  | cbr (n : BitVec 10)
  | cvar (mode : BitVec 2) (index : BitVec 6)
  | cadd (dst src : BitVec 4) (imm : BitVec 32)
  | csetReg (areg : BitVec 4) (sub : BitVec 3) (imm : BitVec 32)
  | csetPred (areg : BitVec 4) (cmp : BitVec 3) (pdst : BitVec 3) (imm : BitVec 32)
  | cmark (kind : BitVec 4) (value : BitVec 32)
  | chalt (status : BitVec 16)
  deriving DecidableEq, Repr

/-- The six slots of a bundle with their predicate fields (R19, R23). -/
structure Slots where
  m : MOp := .nop
  mh : Hdr := ⟨0, 63⟩
  vop : VOpc := .vnop
  v : VArgs := ⟨0, 0, 0, 0, 0, 0, 0, 0, 0, 0, 0, 0⟩
  vh : Hdr := ⟨0, 63⟩
  t : TOp := .nop
  th : Hdr := ⟨0, 63⟩
  x : XOp := .nop
  xh : Hdr := ⟨0, 63⟩
  s : SOp := .nop
  sp : BitVec 4 := 0
  c : COp := .nop
  cp : BitVec 4 := 0
  deriving DecidableEq, Repr

/-- The completing unit an OPERATION_COMMIT names: the oldest operation of that slot (R23, R92). -/
inductive Unit3 where
  | m | v | t
  deriving DecidableEq, Repr

/-- A fabric packet with the header of R325. `kz` tells that a keep-zero bit of it is 1. A remote read carries two things more than its bytes (log
entry 53): RD_REQ the envelope of a guarded copy, RD_RSP whether the serving module saw that copy torn. -/
structure Packet where
  typ : BitVec 4
  cls : BitVec 2
  phase : BitVec 2
  hops : BitVec 4
  path : BitVec 2
  maskValid : Bool
  counted : Bool
  dst : BitVec 14
  src : BitVec 14
  ctx : BitVec 14
  seq : BitVec 16
  len : BitVec 13
  tag : BitVec 32
  addr : BitVec 46
  spec : BitVec 64
  kz : Bool
  payload : List Byte
  /-- the envelope of the guarded copy that an RD_REQ belongs to (R276, R339) -/
  guard : Option (Nat × Nat) := none
  /-- whether that copy was torn at the module that answers (R277) -/
  torn : Bool := false
  deriving DecidableEq, Repr

/-- A TC0 message (R343): kind, destination, source, sequence number of the pair, job tag and body. -/
structure Tc0 where
  kind : BitVec 4
  dst : BitVec 14
  src : BitVec 14
  seq : BitVec 16
  tag : BitVec 32
  body : List Byte
  /-- a form that its destination refuses (R328, R343) -/
  kz : Bool
  /-- the time of its arrival here, 0 for one of this module (R346) -/
  arrived : BitVec 64
  /-- the link by which it came, or by which a time message shall leave (R346); 63 for none -/
  via : Nat
  deriving DecidableEq, Repr

/-- What a memory device reports on one access (R305), an outcome of the outside world. -/
inductive EccOutcome where
  | clean
  | corrected
  /-- a CRC error, cleared by the given number (1 to 4) of retries -/
  | crcRetried (n : Nat)
  | uncorrectable
  deriving DecidableEq, Repr

/-- An error of a memory word (R135, R251, R257, R260), an outcome of the outside world: a word of the core's buffer by its offset,
of a Hive line or an L1 line by the line number, of an FP32 accumulator row by its logical number; or a line of the host window whose read
completion comes poisoned (R431). It shows at the next read of the word (log entry 95). -/
inductive Upset where
  | none
  | bufCorrected (off : BitVec 22)
  | bufPoisoned (off : BitVec 22)
  | hiveCorrected (line : BitVec 40)
  | hivePoisoned (line : BitVec 40)
  | accCorrected (row : BitVec 11)
  | accPoisoned (row : BitVec 11)
  | l1Poisoned (line : BitVec 40)
  | hostPoisoned (line : BitVec 40)
  deriving DecidableEq, Repr

/-- What went wrong while a pass ran (R135): nothing, a stationary value of bad parity, or a memory word. -/
inductive ArrayOutcome where
  | clean
  | statParity
  | word (u : Upset)
  deriving DecidableEq, Repr

/-- What the FEC of a link makes of a codeword (R317, R321), an outcome of the outside world. -/
inductive FecOutcome where
  | clean | corrected | uncorrectable
  deriving DecidableEq, Repr

/-- Who makes a register write (R9, and the chapters that let only the management core write). -/
inductive Agent where
  | mgmt | debug | host
  deriving DecidableEq, Repr

/-- Outcomes of the start-up stages of R530 and R547 that depend on the outside: what the boot ROM's verification of the image
slots gives, whether the configuration block's signature verifies, and what trains. -/
structure BootOutcome where
  /-- per slot: certificate, signature, body digest verify under R521 -/
  certA : Bool
  sigA : Bool
  certB : Bool
  sigB : Bool
  /-- the wrapped key is read from flash without an error -/
  keyUnwraps : Bool
  cfgSigOk : Bool
  /-- the logical core and block of a failed self-test -/
  selfTestFail : Option (BitVec 64)
  /-- controller and device position that did not train -/
  memFail : Option (BitVec 5)
  /-- per port: GiB, rate code, width code, sanitize support; none when absent or not up -/
  cxl : List (Option (BitVec 11 × BitVec 2 × BitVec 2 × Bool))
  /-- per port: a device is present but R306 does not use it -/
  cxlLevel : List Bool
  /-- ports present that did not come up in 300 ms -/
  cxlTimeout : List Bool
  wipeFails : Bool
  mllSigOk : Bool
  rate : BitVec 2
  width : BitVec 2
  /-- µs from the release of internal reset to enumeration, and of a start-up wipe that ends with it -/
  us : BitVec 32
  wipeUs : BitVec 32
  deriving DecidableEq, Repr

/-- A command of the module: one constructor per row of the table, in its order. -/
inductive Instr where
  -- the bundle stream
  | bundleFetch
  | bundleMulticast
  | bundleIssue (core : Nat)
  | mld (core : Nat) (h : Hdr) (tile : BitVec 5) (tag : BitVec 4) (turn : Bool)
  | mswap (core : Nat) (h : Hdr)
  | mmul (core : Nat) (h : Hdr) (areg : BitVec 4) (offset : BitVec 16) (rows1 dest : BitVec 11) (fmt : BitVec 4)
      (acc : BitVec 3) (depth1 cols1 : BitVec 6) (rowscale : Bool) (sareg : BitVec 4)
  | mmulz (core : Nat) (h : Hdr) (areg : BitVec 4) (offset : BitVec 16) (rows1 dest : BitVec 11) (fmt : BitVec 4)
      (acc : BitVec 3) (depth1 cols1 : BitVec 6) (rowscale : Bool) (sareg : BitVec 4)
  | mdrain (core : Nat) (h : Hdr) (first rows1 : BitVec 11) (tile : BitVec 5) (tag : BitVec 4) (mode : BitVec 3)
      (rnd : BitVec 2) (areg : BitVec 4) (offset : BitVec 16) (kind : BitVec 2)
  | mtopk (core : Nat) (h : Hdr) (first rows1 : BitVec 11) (vtile : BitVec 5) (vtag : BitVec 4) (ptile : BitVec 5)
      (ptag : BitVec 4) (k1 : BitVec 4) (base : BitVec 24) (kind : BitVec 2)
  | passStart (core : Nat) (outcome : ArrayOutcome)
  | chainCommit (core : Nat)
  | operationCommit (core : Nat) (unit : Unit3)
  | vop (core : Nat) (h : Hdr) (v : VArgs)
  | vcvt (core : Nat) (h : Hdr) (v : VArgs)
  | vred (core : Nat) (h : Hdr) (v : VArgs)
  | vscale (core : Nat) (h : Hdr) (v : VArgs)
  | vrq (core : Nat) (h : Hdr) (v : VArgs)
  | vfn (core : Nat) (h : Hdr) (v : VArgs)
  /-- VSR fn 0x00: only the immediate carries operands -/
  | vsrKey (core : Nat) (h : Hdr) (v : VArgs)
  | vsrDraw (core : Nat) (h : Hdr) (v : VArgs)
  | vadam (core : Nat) (h : Hdr) (v : VArgs)
  | tcfg (core : Nat) (h : Hdr) (tile : BitVec 5) (tag : BitVec 4) (rows1 : BitVec 6) (elems1 : BitVec 10) (fmt : BitVec 4)
  | tld (core : Nat) (h : Hdr) (tile : BitVec 5) (tag : BitVec 4) (areg : BitVec 4) (offset : BitVec 16) (pitch : BitVec 12)
  | tst (core : Nat) (h : Hdr) (tile : BitVec 5) (tag : BitVec 4) (areg : BitVec 4) (offset : BitVec 16) (pitch : BitVec 12)
  | tmov (core : Nat) (h : Hdr) (dst : BitVec 5) (dtag : BitVec 4) (src : BitVec 5) (stag : BitVec 4)
  | tzero (core : Nat) (h : Hdr) (tile : BitVec 5) (tag : BitVec 4)
  | txp (core : Nat) (h : Hdr) (dst : BitVec 5) (dtag : BitVec 4) (src : BitVec 5) (stag : BitVec 4)
  | xloc (core : Nat) (h : Hdr) (areg : BitVec 4) (offset : BitVec 16)
  | xstr (core : Nat) (h : Hdr) (areg : BitVec 4) (offset : BitVec 16) (ctx : BitVec 14)
  | xcol (core : Nat) (h : Hdr) (areg : BitVec 4) (offset : BitVec 16) (ctx : BitVec 14)
  | xwatchArm (core : Nat) (h : Hdr) (areg : BitVec 4) (offset : BitVec 16)
  | xwatchRelease (core : Nat) (h : Hdr) (areg : BitVec 4) (offset : BitVec 16)
  | xfence (core : Nat) (h : Hdr) (wloc wstr wback inval : Bool)
  | xfenceComplete (core : Nat)
  | sinc (core : Nat) (pred : BitVec 4) (ctr : BitVec 6) (n : BitVec 16)
  | swait (core : Nat) (pred : BitVec 4) (ctr : BitVec 6) (n : BitVec 16)
  | sdec (core : Nat) (pred : BitVec 4) (ctr : BitVec 6) (n : BitVec 16)
  | ssig (core : Nat) (pred : BitVec 4) (areg : BitVec 4) (offset : BitVec 16)
  | sbar (core : Nat) (pred : BitVec 4) (g : BitVec 9) (n : BitVec 16)
  | cloop (core : Nat) (pred : BitVec 4) (fromReg : Bool) (areg : BitVec 4) (count1 : BitVec 16) (body1 : BitVec 16)
  | cbr (core : Nat) (pred : BitVec 4) (n : BitVec 10)
  /-- executed by the sequencer at fetch (R59), so it names no core -/
  | cvar (mode : BitVec 2) (index : BitVec 6)
  | cadd (core : Nat) (pred : BitVec 4) (dst src : BitVec 4) (imm : BitVec 32)
  | cset (core : Nat) (pred : BitVec 4) (kind1 : Bool) (areg : BitVec 4) (sub : BitVec 3) (pdst : BitVec 3) (imm : BitVec 32)
  | cmark (core : Nat) (pred : BitVec 4) (kind : BitVec 4) (value : BitVec 32)
  | chalt (core : Nat) (status : BitVec 16)
  -- the end of a stream, steps, halt and resume
  | jobDone
  | trainingStepCommit
  | seqTablePoll
  | seqRun
  | seqHalt
  | haltDrainComplete
  | haltTimeout (core : Nat)
  | seqResume
  -- synchronisation
  | barrierRelease (g : BitVec 9)
  | signalRelease (src ctx : BitVec 14)
  | quietWindowElapsed
  | blockedReport (src : BitVec 14) (sent recv time : BitVec 64)
  | withdraw (src : BitVec 14)
  | jobDeadlockMessage (src : BitVec 14) (count : BitVec 32)
  -- the local copy unit
  /-- `fail`: fragments that meet a link, port or device error (R274) -/
  | lcuCopyStart (core : Nat) (fail : BitVec 64) (upset : Upset)
  | lcuCopyComplete (core : Nat)
  | tornReread (core : Nat) (fail : BitVec 64)
  | lcuRetryGo (core : Nat) (fail : BitVec 64)
  | lcuRetryAbort (core : Nat)
  -- memories
  | mcRequest (mc : BitVec 4) (outcome : EccOutcome)
  | gddr7Scrub (mc : BitVec 4) (line : BitVec 27) (outcome : EccOutcome)
  | cxlPortDown (port : BitVec 2)
  | sanitizeComplete (port : BitVec 2) (ok : Bool)
  | sanitizeTimeout (port : BitVec 2)
  -- fabric links
  | trainingAttemptEnd (link : Nat) (ok : Bool)
  | hello (link : Nat) (dev : BitVec 14) (index : BitVec 8) (fpl sfl : BitVec 8) (mll feed : BitVec 16)
  | laneUnhealthy (link : Nat) (lane : Option (BitVec 2))
  | retrainLock (link : Nat)
  | retrainTimeout (link : Nat)
  | flitSend (link : Nat)
  /-- a flit as 640 bytes, and what the FEC made of its codeword -/
  | dataFlit (link : Nat) (fec : FecOutcome) (raw : List Byte)
  | idleFlit (link : Nat) (fec : FecOutcome) (raw : List Byte)
  | nak (link : Nat) (lastGood : BitVec 12)
  -- packets arriving on a link
  | wr (link : Nat) (p : Packet)
  | rdReq (link : Nat) (p : Packet)
  | rdRsp (link : Nat) (p : Packet)
  | sig (link : Nat) (p : Packet)
  | ack (link : Nat) (p : Packet)
  | ackc (link : Nat) (p : Packet)
  | nack (link : Nat) (p : Packet)
  | err (link : Nat) (p : Packet)
  | e2eResendTimeout (dst ctx : BitVec 14)
  | nackResend (dst ctx : BitVec 14)
  | tc0Release
  | tc0GapTimeout (src : BitVec 14)
  -- time
  | syncExchangeTimer
  | syncReq (link : Nat) (child : BitVec 14) (t1 t2 : BitVec 64)
  | syncRsp (link : Nat) (t1 t2 t3 t4 : BitVec 64)
  | holdoverExpiry
  | ppsEdge
  | ppsTimeout
  -- copy engines and collectives
  | ceOperationStart (engine : BitVec 4) (fail : BitVec 64)
  | ceOperationComplete (engine : BitVec 4)
  /-- `ranges`: per rank of a canonical collective, the first index and the count of its own range (R390), which the members'
  descriptors hold and no rule says how a member learns -/
  | collectiveStep (engine : BitVec 4) (ranges : List (BitVec 48 × BitVec 48))
  | collectiveRelease (engine : BitVec 4)
  | bucketCommit (engine : BitVec 4)
  | ceRetryGo (engine : BitVec 4) (ctx : BitVec 14) (fail : BitVec 64)
  | ceRetryAbort (engine : BitVec 4) (ctx : BitVec 14) (unwritable : Bool)
  | snapRequest (t : BitVec 3)
  | recoveryRetry (isLcu : Bool) (index : Nat) (ctx : BitVec 14) (cannotClear : Bool)
  -- failures of members
  | heartbeatSend
  | heartbeat (src : BitVec 14) (time : BitVec 64)
  | heartbeatTimeout
  | failureNotice (src left orig : BitVec 14) (cause : BitVec 8) (code : BitVec 16) (time step : BitVec 64)
  | report (src : BitVec 14) (view : BitVec 32) (counter : BitVec 64)
  | reportResendTimeout
  | reportTimeout (dev : BitVec 14)
  | plan (src : BitVec 14) (path : BitVec 8) (view : BitVec 32) (b : BitVec 64) (gen : BitVec 32)
  | restoreComplete
  | permit (src : BitVec 14) (far : Bool) (gen : BitVec 32) (b : BitVec 64) (gp gf : BitVec 32)
  | securingCopiesComplete
  | securingCloseComplete
  | genDone (src : BitVec 14) (far late : Bool) (gen : BitVec 32) (b : BitVec 64) (partner farPartner : BitVec 16)
  | feedTagCheck
  -- the Ledger
  | ledgerFlushComplete (verifies : Bool)
  | ledgerClearComplete
  | accountingWindowBoundary
  | ldgFreeze (ms : BitVec 7)
  | unfreeze
  | freezeExpiry
  | ledgerQuery (src : BitVec 14) (count : BitVec 8) (seq : BitVec 32) (epoch : BitVec 16)
  | ledgerAnswer (src : BitVec 14) (status : BitVec 8) (record : List Byte)
  -- life cycle and wipes
  | registration (key : List Byte)
  | unlock
  | deregistration
  | retire
  | secRelock
  | lcTransitionComplete
  | wipeComplete (fails : Bool) (us : BitVec 32) (mllOk : Bool)
  | holdTimeExpiry
  -- start-up and resets
  | powerUp (o : BootOutcome)
  | cxlTrainTimeout (port : BitVec 2)
  | resetN
  | watchdogExpiry (o : BootOutcome)
  | bootWdogKick
  -- the host port; `hf`: a host-memory access of the command completes with an error (R559)
  | hostSqTail (q : BitVec 2) (tail : BitVec 12) (readError : Bool)
  | hostCqHead (q : BitVec 2) (head : BitVec 12)
  | hostQcfg (q : BitVec 2) (b a : BitVec 4) (en : Bool)
  | load (q : BitVec 2) (cid : BitVec 16) (addr len : BitVec 64) (hf : Bool)
  | start (q : BitVec 2) (cid : BitVec 16)
  | preempt (q : BitVec 2) (cid : BitVec 16)
  | resume (q : BitVec 2) (cid : BitVec 16)
  | unload (q : BitVec 2) (cid : BitVec 16)
  | restart (q : BitVec 2) (cid : BitVec 16) (addr len b : BitVec 64) (hf : Bool)
  | snapshot (q : BitVec 2) (cid : BitVec 16) (t : BitVec 8) (k : BitVec 64)
  | wipeOndie (q : BitVec 2) (cid : BitVec 16)
  | ledgerRead (q : BitVec 2) (cid : BitVec 16) (seq : BitVec 32) (epoch : BitVec 16) (count : BitVec 32) (buf : BitVec 64)
      (hf : Bool)
  | ledgerFreeze (q : BitVec 2) (cid : BitVec 16) (ms : BitVec 8) (unfreeze : Bool)
  | ledgerClear (q : BitVec 2) (cid : BitVec 16) (addr : BitVec 64) (sigOk hf : Bool)
  | security (q : BitVec 2) (cid : BitVec 16) (addr : BitVec 64) (len : BitVec 32) (sigOk hf : Bool)
  | attest (q : BitVec 2) (cid : BitVec 16) (nonce : List Byte) (buf : BitVec 64) (hf : Bool)
  | flashWrite (q : BitVec 2) (cid : BitVec 16) (region : BitVec 8) (addr len : BitVec 64) (hf : Bool)
  | reset (q : BitVec 2) (cid : BitVec 16) (key : BitVec 8) (o : BootOutcome)
  | hostCtrlReset (key : BitVec 8) (o : BootOutcome)
  | relock (q : BitVec 2) (cid : BitVec 16)
  -- job-wide rendezvous
  | ready (src : BitVec 14)
  | go (src : BitVec 14) (time : BitVec 64)
  | abort (src : BitVec 14) (time : BitVec 64)
  | startWindowExpiry
  | preemptMsg (src : BitVec 14) (time : BitVec 64)
  | drained (src : BitVec 14) (sent recv : BitVec 64)
  | quiesce (src : BitVec 14) (time : BitVec 64)
  | resumeMsg (src : BitVec 14) (time : BitVec 64)
  | restored (src : BitVec 14)
  | pcieLinkDown
  | hostPerstN
  | pwrFailN (mv : BitVec 16)
  -- power and time registers
  /-- `p10`, `p1ms` in W, `tj` and the four field junctions in 1/16 degree -/
  | powerLoopTick (p10 : Nat) (p1ms mw : Nat) (tj : List Int) (volts rate : Nat)
  | energyAdd (uj : BitVec 64)
  | overtempSense (field : BitVec 2) (degrees : Int)
  | tripRailTimeout
  | railOutOfRange
  | timSnap
  -- the TAP
  | tapReset
  /-- `cells`: what Update-DR leaves in the boundary register (R640) -/
  | extest (cells : BitVec 18)
  | idcode
  | samplePreload (cells : BitVec 18)
  | dap
  | dstat
  | bypass
  | dapRead (addr : BitVec 46)
  | dapWrite (addr : BitVec 46) (data : BitVec 64)
  | dapNop
  | dbgCoreHalt (core : Nat)
  | dbgCoreResume (core : Nat)
  | dbgCoreStep (core : Nat)
  | dbgChalt
  | dbgCresume
  | dbgReset (key : BitVec 8) (o : BootOutcome)
  | mboxSecurity (len : BitVec 13) (sigOk : Bool)
  | mboxLedgerClear (len : BitVec 13) (sigOk : Bool)
  | mboxFlashWrite (region : BitVec 4) (off : BitVec 15) (len : BitVec 13)
  | mboxProvision
  | mboxCertWrite (len : BitVec 13)
  | registerWrite (agent : Agent) (addr : BitVec 46) (data : BitVec 64)
  | neighbourRetrain (link : Nat)
  | securingOpenComplete
  | pcieLinkUp (rate width : BitVec 2)
  | resetNRelease (o : BootOutcome)
  deriving DecidableEq, Repr

end Sys2Proof
end

