-- ==== Sys2Proof/Decode.lean ====
section
/-! DEFINITION. The command that a word of the table spells. No row of the table has bits, so no word spells one. Bundles, slots and
packets, which have encodings, are read in Machine/Operands.lean and Machine/FabOps.lean. -/

namespace Sys2Proof

/-- The command of a word: none, as the table gives its rows no bits. -/
def decodeTableWord (_nbits _w : Nat) : Option Instr := none

end Sys2Proof
end

