-- ==== Sys2Proof/Config.lean ====
section
/-! DEFINITION. What an implementation of the module fixes and the spec leaves open: free values without a body. -/

namespace Sys2Proof.Config

/-- Byte `i` of a value the spec calls unspecified (partner rows after an abandoned chain, R102; outputs and staging of a
collective that lost a member, R392). Applied to the state's counter `free`. Log entry 2. -/
opaque freeByte : Nat → Nat → Byte

/-- A 64-bit word the spec calls fresh or leaves to entropy: nonces (R501, R518), wrapped keys (R509, R512). Log entry 2. -/
opaque freeWord : Nat → Word64

/-- The FP32 result of a library function on a finite input (R203: within 2 ulp, fixed by the math library level): level, fn,
input. Log entry 11. -/
opaque libFn : Word16 → Nat → Word32 → Word32

/-- Whether a requantised E4M3 element whose exact value is zero is written as −0 (R188 gives the value and no sign): multiplier,
bias, sign of the source. Log entry 40. -/
opaque reqZeroNeg : Int → Int → Bool → Bool

/-- A Falcon-1024 signature by the module key over a 64-byte digest: the key's index, the digest, the draw. Log entry 12. -/
opaque falconSign : Nat → List Byte → Nat → List Byte

/-- Whether the fixed-point increment of the time base (R582), which 32 fraction bits cannot hold exactly, is rounded up at
this trim. Log entry 8. -/
opaque timeRoundsUp : Int → Bool

/-- A Falcon-1024 public key, 1,793 bytes, of the key pair that provisioning draws (R509). Log entry 12. -/
opaque falconKey : Nat → List Byte

/-- The private key of that pair. Log entry 12. -/
opaque falconSecret : Nat → List Byte

/-- The partner that a member used for a generation, where the lead holds no answer of that member: a new lead is not told (R453, R460, R462). By
member, generation, far. Log entry 79. -/
opaque partnerUsed : Nat → Nat → Bool → Nat

/-- The Ledger payload of a code whose chapter defines none (R474), by code and source. Log entry 19. -/
opaque openPayload : Word16 → Word16 → Word64

/-- The Ledger payload of a code for which its chapter names the contents and not their places (R422, R528, R548): by code and contents.
Log entry 19. -/
opaque packPayload : Word16 → List Nat → Word64

end Sys2Proof.Config
end

