-- ==== Sys2Proof/Machine/Addr.lean ====
section
/-! DEFINITION. Where the registers lie: local addresses of the register blocks (R73, R78, R141, R215, R246, R286, R314 and the
register rule of each later chapter). -/

namespace Sys2Proof.Machine

/-- Per-core window (R78). -/
def aCore (id : Nat) : Nat := 0x3E0000000000 + id * 0x400000
def aCmbReuse (id : Nat) : Nat := aCore id + 0x3C1100
def aCmbReads (id : Nat) : Nat := aCore id + 0x3C1108
def aCmbStall (id : Nat) : Nat := aCore id + 0x3C1110

/-- SEQ_ registers (R73). -/
def aSeq : Nat := 0x3F0000010000
def aSeqImgBase : Nat := aSeq + 0x10
def aSeqImgLen : Nat := aSeq + 0x18
def aSeqVtab : Nat := aSeq + 0x20
def aSeqPaceStall : Nat := aSeq + 0x40
def aSeqFault : Nat := aSeq + 0x48
def aSeqCtxBase : Nat := aSeq + 0x50

/-- ARR_ registers of a core (R141, R192). -/
def aArr (id : Nat) : Nat := 0x3F0000200000 + id * 0x40
def aArrBeats (id : Nat) : Nat := aArr id + 0x08
def aArrGated (id : Nat) : Nat := aArr id + 0x10
def aArrMasked (id : Nat) : Nat := aArr id + 0x18
def aArrWait (id : Nat) : Nat := aArr id + 0x20
def aArrEcc (id : Nat) : Nat := aArr id + 0x28
def aArrSwin (id : Nat) : Nat := aArr id + 0x30
def aArrQclamp (id : Nat) : Nat := aArr id + 0x38

/-- VEC_ and MINT_ registers (R215). -/
def aVecOps (id : Nat) : Nat := 0x3F0000240000 + id * 0x40
def aVecWait (id : Nat) : Nat := aVecOps id + 8
def aMint (id : Nat) : Nat := 0x3F0000260000 + id * 0x40
def aMintDraws (id : Nat) : Nat := aMint id + 0x18
def aMintChip : Nat := 0x3F0000280000
def aMintSeed : Nat := aMintChip
def aMintStep0 : Nat := aMintChip + 0x08
def aMintCtrl : Nat := aMintChip + 0x10
def aMintTestStep : Nat := aMintChip + 0x18
def aMintTestTid : Nat := aMintChip + 0x20
def aMintTestIdx : Nat := aMintChip + 0x28
def aMintTestOut : Nat := aMintChip + 0x30
def aVecMll : Nat := aMintChip + 0x40

/-- SYN_ registers (R246). -/
def aSynS (id k : Nat) : Nat := 0x3F0000300000 + id * 0x80 + k * 8
def aSynG (k : Nat) : Nat := 0x3F0000400000 + k * 8
def aSynDl : Nat := 0x3F0000410000
def aSynDlWin : Nat := aSynDl + 0x08
def aSynDlMap : Nat := aSynDl + 0x18
def aSynSigFull : Nat := aSynDl + 0x28

/-- LCU_ registers of a core and HIVE_ registers of a slice (R286). -/
def aLcu (id : Nat) : Nat := 0x3F0000500000 + id * 0x80
def aLcuBytes (id : Nat) : Nat := aLcu id + 0x20
def aLcuStall (id c : Nat) : Nat := aLcu id + 0x28 + c * 8
def aHive (k : Nat) : Nat := 0x3F0000600000 + k * 0x100
def aHiveHits (k : Nat) : Nat := aHive k
def aHiveMisses (k : Nat) : Nat := aHive k + 0x08
def aHiveWback (k : Nat) : Nat := aHive k + 0x10
def aHiveEcc (k : Nat) : Nat := aHive k + 0x18

/-- MEM_ registers of the chip, of controller k, and CXL_ registers of port k (R314). -/
def aMem : Nat := 0x3F0000700000
def aMemWtBase : Nat := aMem
def aMemRefAddr : Nat := aMem + 0x08
def aMemRefInfo : Nat := aMem + 0x10
def aMc (k : Nat) : Nat := 0x3F0000701000 + k * 0x40
def aMcCorr (k : Nat) : Nat := aMc k + 0x08
def aMcCrc (k : Nat) : Nat := aMc k + 0x10
def aMcMerge (k : Nat) : Nat := aMc k + 0x18
def aMcPageHit (k : Nat) : Nat := aMc k + 0x20
def aCxl (k : Nat) : Nat := 0x3F0000710000 + k * 0x40
def aCxlRd (k : Nat) : Nat := aCxl k + 0x10
def aCxlWr (k : Nat) : Nat := aCxl k + 0x18
def aCxlPoison (k : Nat) : Nat := aCxl k + 0x20

/-- LDG_ registers (R507). -/
def aLdg : Nat := 0x3F0000C00000
def aLdgLost : Nat := aLdg + 0x20
def aLdgRdSeq : Nat := aLdg + 0x50

/-- FAB_ registers of the chip (R351). -/
def aFab : Nat := 0x3F0000800000

/-- PWR_ registers (R597). -/
def aPwr : Nat := 0x3F0001000000

end Sys2Proof.Machine
end

