-- ==== Sys2Proof/Machine/Store.lean ====
section
/-! DEFINITION. Sparse plain data by key: a list of (key, value) pairs with strictly rising keys that lists no value equal
to the default. One form for byte memories and for tables; and the byte-order helpers of R12. -/

namespace Sys2Proof.Machine

/-- A sparse map from Nat keys: strictly rising keys, no entry equal to the default its user names. -/
abbrev SMap (α : Type) := List (Nat × α)

/-- A byte memory: the cells that differ from what an unlisted address reads as, addresses strictly rising. -/
abbrev Memory := List Host.Cell

variable {α : Type}

/-- The value at key `k`, or the default `d` where the map lists none. -/
def smGet (d : α) : SMap α → Nat → α
  | [], _ => d
  | (j, v) :: m, k => if j = k then v else smGet d m k

/-- `m` with key `k` at `v`; the entry goes where `v` is the default. -/
def smSet [DecidableEq α] (d : α) : SMap α → Nat → α → SMap α
  | [], k, v => if v = d then [] else [(k, v)]
  | (j, u) :: m, k, v =>
    if j < k then (j, u) :: smSet d m k v
    else if j = k then (if v = d then m else (k, v) :: m)
    else (if v = d then (j, u) :: m else (k, v) :: (j, u) :: m)

/-- The entries of a run of values placed from key `k` on, without those equal to the default. -/
def smCells [DecidableEq α] (d : α) : Nat → List α → SMap α
  | _, [] => []
  | k, v :: vs => if v = d then smCells d (k + 1) vs else (k, v) :: smCells d (k + 1) vs

/-- The entries with keys below `k`. -/
def smBelow (m : SMap α) (k : Nat) : SMap α := m.filter (fun p => decide (p.1 < k))

/-- The entries with keys at or above `k`. -/
def smFrom (m : SMap α) (k : Nat) : SMap α := m.filter (fun p => decide (k ≤ p.1))

/-- `m` with the values `vs` at the keys from `k` on. -/
def smPut [DecidableEq α] (d : α) (m : SMap α) (k : Nat) (vs : List α) : SMap α :=
  smBelow m k ++ smCells d k vs ++ smFrom m (k + vs.length)

/-- `m` with the `n` keys from `k` on back at the default. -/
def smClear (m : SMap α) (k n : Nat) : SMap α := smBelow m k ++ smFrom m (k + n)

/-- The values at the `n` keys from `k` on, in order, of a map with rising keys. -/
def smTake (d : α) : SMap α → Nat → Nat → List α
  | _, _, 0 => []
  | [], _, n + 1 => List.replicate (n + 1) d
  | (j, v) :: m, k, n + 1 => if j = k then v :: smTake d m (k + 1) n else d :: smTake d ((j, v) :: m) (k + 1) n

/-- The values at the `n` keys from `k` on. -/
def smRange (d : α) (m : SMap α) (k n : Nat) : List α := smTake d (smFrom m k) k n

/-- Whether every key of the map is above `k`, they rise strictly, and no value is the default. -/
def smWfFrom [DecidableEq α] (d : α) : Option Nat → SMap α → Bool
  | _, [] => true
  | lo, (j, v) :: m => (match lo with | none => true | some b => decide (b < j)) && decide (v ≠ d) && smWfFrom d (some j) m

/-- The canonical form. -/
def smWf [DecidableEq α] (d : α) (m : SMap α) : Bool := smWfFrom d none m

/-- What a byte that nothing has written reads as. DESIGN CHOICE, log entry 3: the spec gives no contents at power-up; the
module's memories read zero after a wipe (R526). -/
def memDefault : Byte := 0

/-- One byte of a memory. -/
def memRead (m : Memory) (a : Nat) : Byte := smGet memDefault m a

/-- One byte written. -/
def memWrite (m : Memory) (a : Nat) (b : Byte) : Memory := smSet memDefault m a b

/-- `n` bytes of a memory. -/
def memReads (m : Memory) (a n : Nat) : List Byte := smRange memDefault m a n

/-- Bytes written from address `a` on. -/
def memWrites (m : Memory) (a : Nat) (bs : List Byte) : Memory := smPut memDefault m a bs

/-- The canonical form of a byte memory. -/
def Memory.wf (m : Memory) : Bool := smWf memDefault m

/-- Little-endian value of bytes (R12). -/
def leNat : List Byte → Nat
  | [] => 0
  | b :: bs => b.toNat + 256 * leNat bs

/-- The `n` little-endian bytes of a value (R12). -/
def leBytes : Nat → Nat → List Byte
  | 0, _ => []
  | n + 1, v => BitVec.ofNat 8 v :: leBytes n (v / 256)

/-- Bits [hi:lo] of a value. -/
def bitsOf (v hi lo : Nat) : Nat := (v >>> lo) % 2 ^ (hi + 1 - lo)

/-- Bit `i` of a value. -/
def bitOf (v i : Nat) : Bool := (v >>> i) % 2 == 1

/-- One for true. -/
def b2n (b : Bool) : Nat := if b then 1 else 0

/-- A two's complement reading of the low `w` bits. -/
def signedOf (w v : Nat) : Int := let u := v % 2 ^ w; if u ≥ 2 ^ (w - 1) then (u : Int) - 2 ^ w else u

/-- The low `w` bits of an integer, two's complement. -/
def wrapInt (w : Nat) (v : Int) : Nat := (v % (2 ^ w : Int)).toNat

/-- The list with element `i` replaced. -/
def listSet (l : List α) (i : Nat) (v : α) : List α := l.set i v

/-- `n` zero bytes. -/
def zeros (n : Nat) : List Byte := List.replicate n 0

/-- Bytes `[a, a + n)` of a byte list, zeros beyond its end. -/
def slice (l : List Byte) (a n : Nat) : List Byte :=
  let t := (l.drop a).take n
  t ++ zeros (n - t.length)

/-- The little-endian field of `n` bytes at `a` of a byte list. -/
def fieldAt (l : List Byte) (a n : Nat) : Nat := leNat (slice l a n)

/-- Round `n` up to a multiple of `m`. -/
def roundUp (n m : Nat) : Nat := (n + m - 1) / m * m

/-- Round `n` up in units of `m`. -/
def ceilDiv (n m : Nat) : Nat := (n + m - 1) / m

end Sys2Proof.Machine
end

