-- ==== Sys2Proof/Machine/Shake.lean ====
section
/-! DEFINITION. SHAKE256, which the spec names for chains, digests and checks (16 R485, R487; 17). The function itself is taken
from FIPS 202: PRESUMED, log entry 13. -/

namespace Sys2Proof.Machine

/-- Rotation of a 64-bit lane to the left. -/
def rotl64 (v n : Nat) : Nat := ((v <<< n) ||| (v >>> (64 - n))) % 2 ^ 64

/-- Rotation offsets of lane x + 5y. -/
def keccakRot : List Nat :=
  [0, 1, 62, 28, 27, 36, 44, 6, 55, 20, 3, 10, 43, 25, 39, 41, 45, 15, 21, 8, 18, 2, 61, 56, 14]

/-- Round constants. -/
def keccakRc : List Nat :=
  [0x0000000000000001, 0x0000000000008082, 0x800000000000808A, 0x8000000080008000, 0x000000000000808B, 0x0000000080000001,
   0x8000000080008081, 0x8000000000008009, 0x000000000000008A, 0x0000000000000088, 0x0000000080008009, 0x000000008000000A] ++
  [0x000000008000808B, 0x800000000000008B, 0x8000000000008089, 0x8000000000008003, 0x8000000000008002, 0x8000000000000080,
   0x000000000000800A, 0x800000008000000A, 0x8000000080008081, 0x8000000000008080, 0x0000000080000001, 0x8000000080008008]

/-- Lane (x, y) of a state. -/
def lane (a : List Nat) (x y : Nat) : Nat := a.getD (x % 5 + 5 * (y % 5)) 0

/-- One round of Keccak-f[1600]. -/
def keccakRound (a : List Nat) (rc : Nat) : List Nat :=
  let c := (List.range 5).map (fun x => lane a x 0 ^^^ lane a x 1 ^^^ lane a x 2 ^^^ lane a x 3 ^^^ lane a x 4)
  let d := (List.range 5).map (fun x => c.getD ((x + 4) % 5) 0 ^^^ rotl64 (c.getD ((x + 1) % 5) 0) 1)
  let t := (List.range 25).map (fun i => rotl64 (a.getD i 0 ^^^ d.getD (i % 5) 0) (keccakRot.getD i 0))
  -- pi: lane (x, y) of the new state comes from lane (x + 3y, x) of the old
  let b := (List.range 25).map (fun i => lane t (i % 5 + 3 * (i / 5)) (i % 5))
  let e := (List.range 25).map (fun i =>
    lane b (i % 5) (i / 5) ^^^ ((lane b (i % 5 + 1) (i / 5) ^^^ (2 ^ 64 - 1)) &&& lane b (i % 5 + 2) (i / 5)))
  match e with
  | [] => []
  | e0 :: es => (e0 ^^^ rc) :: es

/-- Keccak-f[1600]. -/
def keccakF (a : List Nat) : List Nat := keccakRc.foldl keccakRound a

/-- The rate of SHAKE256 in bytes. -/
def shakeRate : Nat := 136

/-- The message with its padding, in whole blocks. -/
def shakePad (m : List Byte) : List Byte :=
  let n := roundUp (m.length + 1) shakeRate
  let body := m ++ [0x1F] ++ zeros (n - m.length - 1)
  body.set (n - 1) (body.getD (n - 1) 0 ||| 0x80)

/-- Absorption of `k` blocks. -/
def shakeAbsorb : Nat → List Byte → List Nat → List Nat
  | 0, _, a => a
  | k + 1, m, a =>
    let blk := m.take shakeRate
    let x := (List.range 25).map (fun i => a.getD i 0 ^^^ (if i < 17 then leNat ((blk.drop (8 * i)).take 8) else 0))
    shakeAbsorb k (m.drop shakeRate) (keccakF x)

/-- The state after the whole message. -/
def shakeState (m : List Byte) : List Nat :=
  let p := shakePad m
  shakeAbsorb (p.length / shakeRate) p (List.replicate 25 0)

/-- SHAKE256 with 64 bytes of output. -/
def shake64 (m : List Byte) : List Byte := (List.range 8).flatMap (fun i => leBytes 8 ((shakeState m).getD i 0))

/-- `k` blocks of output. -/
def shakeSqueeze : Nat → List Nat → List Byte
  | 0, _ => []
  | k + 1, a => (List.range 17).flatMap (fun i => leBytes 8 (a.getD i 0)) ++ shakeSqueeze k (keccakF a)

/-- SHAKE256 with `n` bytes of output (R512). -/
def shakeOut (m : List Byte) (n : Nat) : List Byte := (shakeSqueeze ((n + shakeRate - 1) / shakeRate) (shakeState m)).take n

end Sys2Proof.Machine
end

