-- ==== Sys2Proof/Machine/State.lean ====
section
/-! DEFINITION. The state of one module as plain data, its value right after power is applied (`State.reset`), and the closed
lists of faults and refusals a command can end in. -/

namespace Sys2Proof.Machine

/-- SEQ_STATUS.state (R73). -/
inductive SeqSt where
  | idle | running | halting | halted | faulted | done
  deriving DecidableEq, Repr

/-- CORE_STATUS.state (R105). -/
inductive CoreSt where
  | idle | issuing | waiting | halted | faulted | done
  deriving DecidableEq, Repr

/-- The shape of a tile register (R79). Tag 0: unconfigured (R83). Rows and elements are the quantities. -/
structure Shape where
  tag : Nat
  fmt : Nat
  rows : Nat
  elems : Nat
  deriving DecidableEq, Repr

/-- No shape (R83). -/
def Shape.none : Shape := ⟨0, 0, 0, 0⟩

/-- One stationary set with the record MLD makes (R89, R139). `data` holds the tile rows it was loaded from. -/
structure StatSet where
  loaded : Bool
  turn : Bool
  faulty : Bool
  cls : Nat
  fmt : Nat
  k : Nat
  n : Nat
  rows : Nat
  elems : Nat
  data : List Byte
  deriving DecidableEq, Repr

/-- A set that is not loaded (R89). -/
def StatSet.none : StatSet := ⟨false, false, false, 0, 0, 0, 0, 0, 0, []⟩

/-- What an in-flight operation is (R92). -/
inductive OpBody where
  | m (o : MOp)
  | v (o : VOpc) (a : VArgs)
  | t (o : TOp)
  deriving DecidableEq, Repr

/-- The Mint key an operation captures at issue (R90, R206). -/
structure MKey where
  step : Word64
  tid : Word32
  pitch : Word32
  base : BitVec 48
  deriving DecidableEq, Repr

/-- The key at job start (R209). -/
def MKey.zero : MKey := ⟨0, 0, 0, 0⟩

/-- An M, V or T operation in flight or in the replay list, with all it captured at issue (R90). -/
structure FOp where
  /-- the core's issue number -/
  ord : Nat
  body : OpBody
  done : BitVec 6
  /-- the predicate field of its slot, which its replay entry keeps (R70) -/
  pred : BitVec 4
  /-- first and second resolved address; for an integer MMUL the second is the zero-point register's value (R175) -/
  addr1 : Word64
  addr2 : Word64
  /-- the tile registers it names, with their shapes at issue -/
  shapes : List (Nat × Shape)
  key : MKey
  /-- CMARK kind 1 bundles issued after it (R70) -/
  lag : Nat
  /-- the number of its chain, for MMUL and MMULZ (R100) -/
  chain : Nat
  /-- its pass has run to its last row (R120 order 7) -/
  started : Bool
  /-- the set its pass used (R112) -/
  set : StatSet
  /-- what happened inside the array while it ran (R135) -/
  outcome : ArrayOutcome
  /-- the buffer bytes its pass has used (R119) -/
  snap : List Byte
  /-- what the buffer bytes it reads held before each write into them since its issue, oldest first (R119, R190, R249) -/
  olds : List (List Byte)
  /-- image index of the bundle it came from -/
  idx : Nat
  /-- replayed or restored at a resume: it holds every pending training step commit back (R64) -/
  restored : Bool
  deriving DecidableEq, Repr

/-- An entry of a core's or the sequencer's loop stack (R54, R70). `endIdx` is the image index after the body. -/
structure Loop where
  startIdx : Nat
  bodyLen : Nat
  /-- iterations still to run, the current one included -/
  remaining : Nat
  streamed : Bool
  /-- stream position of the first body bundle (R48); not used in the sequencer -/
  startPos : Nat
  deriving DecidableEq, Repr

/-- An active schedule variant (R59): where it returns to, where it starts and how long it is, and how many streamed loops stood
open around its call. -/
structure Variant where
  retIdx : Nat
  startIdx : Nat
  len : Nat
  depth : Nat
  deriving DecidableEq, Repr

/-- The sequencer's place in the stream before a bundle: what R70 keeps for r_min. -/
structure SeqCtx where
  loops : List Loop
  variant : Option Variant
  vclass : Nat
  deriving DecidableEq, Repr

/-- A bundle that was fetched: its stream position (R47), image index, poison mark (R46), bits, and the sequencer's place
before it. -/
structure Bundle where
  pos : Nat
  idx : Nat
  poison : Bool
  bits : BundleBits
  ctx : SeqCtx
  deriving DecidableEq, Repr

/-- The chip sequencer (02). -/
structure Seq where
  st : SeqSt
  /-- SEQ_CTRL.run as it reads -/
  run : Bool
  /-- next image index to fetch (R44) -/
  fetchIdx : Nat
  /-- position that the next fetched bundle will take (R47) -/
  fetchPos : Nat
  /-- fetched bundles not yet multicast, oldest first, at most 256 (R47) -/
  fetchQ : List Bundle
  /-- next position to multicast: SEQ_POS -/
  nextPos : Nat
  /-- multicast bundles at or above r_min, oldest first: what the cores' bundle buffers hold (R49) -/
  log : List Bundle
  /-- fetching stopped at CHALT (R66) or at a fault (R45) -/
  stop : Bool
  ctx : SeqCtx
  /-- CMARK kind 2 positions fetched at or above r_min, oldest first, with the class each took (R61, R70) -/
  kind2 : List (Nat × Nat)
  /-- logged CMARK kind 2 positions still to be walked again after a resume (R69) -/
  walk : List (Nat × Nat)
  /-- the sequence table is being polled (R411), for the CMARK of kind 2 at this position (none: for micro-batch 0) -/
  poll : Bool
  pollPos : Option Nat
  /-- header of the last sequence table read (R413) -/
  hdr : List Byte
  /-- the line of the next bundle was asked for and the bundle is not taken yet (R44, R61) -/
  miss : Bool
  /-- lines of a table were asked for: 1 an entry or a header, 2 the whole sequence table (R59, R305, R409) -/
  tab : Nat
  /-- SEQ_STEP (R65) -/
  step : Word64
  /-- exit status of the CHALT the sequencer fetched (R66) -/
  exit : Word16
  deriving DecidableEq, Repr

/-- A copy held by an LCU (R271). -/
structure Copy where
  /-- the core's issue number -/
  ord : Nat
  desc : List Byte
  /-- buffer offset of the descriptor (LCU_FAIL.desc) -/
  descOff : Nat
  done : BitVec 6
  /-- fragments still to move, one bit each (R273) -/
  todo : BitVec 64
  /-- its reads have begun -/
  active : Bool
  failed : Bool
  code : Word16
  /-- fragments that will fail in this run, as the outside decides (R274) -/
  fails : BitVec 64
  /-- guarded: a write has torn the current reading (R277); it has been re-read once (R278) -/
  torn : Bool
  reread : Bool
  /-- the core's MINT_STEP at issue (R64, R270) -/
  mstep : Word64
  restored : Bool
  /-- destination bytes written from clean sources in earlier runs: address and count (R432) -/
  cover : List (Nat × Nat)
  /-- image index of its bundle -/
  idx : Nat
  /-- source bytes as they stood when its reads began, and bytes of the source overwritten since, by address (R279) -/
  snap : List Byte
  was : List (Nat × Byte)
  /-- how often go was written for it by default (R438) -/
  goes : Nat
  /-- its reads in no-prefetch granules have been made (R299) -/
  late : Bool
  deriving DecidableEq, Repr

/-- An XFENCE that holds later X-slot operations (R32). -/
structure Fence where
  bits : BitVec 4
  done : BitVec 6
  mstep : Word64
  restored : Bool
  deriving DecidableEq, Repr

/-- An XWATCH arm that waits for free slots (R281). -/
structure ArmWait where
  handle : Nat
  lo : Nat
  len : Nat
  done : BitVec 6
  mstep : Word64
  /-- a release that waits behind the arm: its result offset -/
  res : Option Nat
  deriving DecidableEq, Repr

/-- An XWATCH handle (R281). -/
structure Handle where
  armed : Bool
  torn : Bool
  deriving DecidableEq, Repr

/-- A handle that is not armed. -/
def Handle.none : Handle := ⟨false, false⟩

/-- An L1 line (R254), most recently used first in the core's list. -/
structure L1Line where
  line : Nat
  data : List Byte
  dirty : Bool
  poison : Bool
  /-- its fill has not come from the controller yet (R305) -/
  pend : Bool
  /-- bytes written since it was brought in or written back, which a no-prefetch granule gets back (R299) -/
  mask : BitVec 64
  deriving DecidableEq, Repr

/-- An engine operation that reads a buffer, by its number, and the bytes of the buffer overwritten since its reads began, by offset (R249). -/
structure BufReader where
  uid : Nat
  was : List (Nat × Byte)
  deriving DecidableEq, Repr

/-- A core (02 to 07, 09). -/
structure Core where
  st : CoreSt
  /-- the step of R39 at which the core waits, 0 when it does not; at step 5 what cannot accept, one bit each: 1 commit tiles,
  2 array, 3 vector unit, 4 T unit, 5 X unit, 6 the array under pacing (R591) -/
  wait : Nat
  cause : Nat
  /-- a0–a15 (R37) -/
  a : SMap Word64
  /-- p1–p7 (R37) -/
  p : SMap Bool
  /-- next position and image index (R70) -/
  nextPos : Nat
  nextIdx : Nat
  loops : List Loop
  /-- the place of a next position that is not fetched: position, image index and the streamed loops there (R55, R70) -/
  ahead : Option (Nat × Nat × List Loop)
  /-- position ranges [from, to) that the core has skipped and whose bundles may still arrive (R55, R56) -/
  skips : List (Nat × Nat)
  /-- the CHALT was issued (R68) -/
  chalted : Bool
  /-- the arrival at the SBAR that waits (R223) and the release token (R225) -/
  arrived : Option (BitVec 9 × Word16)
  token : Bool
  shapes : SMap Shape
  /-- T0–T31, 8,192 bytes each -/
  comb : Memory
  buf : Memory
  /-- poisoned 64-byte units of the buffer (R251) -/
  bufPoison : SMap Bool
  /-- accumulator memory by physical rows (R98) -/
  acc : Memory
  /-- pairs of FP32 rows j, j XOR 1,024 whose mapping is flipped (R98), keyed by the lower row -/
  flips : SMap Bool
  /-- poisoned FP32 rows, by physical row (R136) -/
  accPoison : SMap Bool
  act : StatSet
  shd : StatSet
  /-- issued operations in issue order (R94) -/
  flight : List FOp
  /-- the next issue number and chain number, and the chains that take no further member because an XLOC names their rows (R100) -/
  nextOrd : Nat
  nextChain : Nat
  closed : List Nat
  /-- operations a halt abandoned, in issue order (R67) -/
  replay : List FOp
  /-- the five comb read latches (R103): register and row -/
  latches : SMap (Option (Nat × Nat))
  /-- s0–s47 (R216) -/
  s : SMap Word16
  key : MKey
  /-- CORE_TRACE.mark -/
  trace : Word32
  /-- cell-beats below one unit of 64 for ARR_GATED and ARR_MASKED (R141) -/
  gatedRem : Nat
  maskedRem : Nat
  /-- when the last row of the last pass entered the array, and how long its rows took to enter, in time-base ns (R591) -/
  passAt : Nat
  passNs : Nat
  lcu : List Copy
  /-- a halt waits for the copies of this core: the bundle that it stopped after holds one (R221) -/
  finish : Bool
  /-- engine operations that read its buffer (R249) -/
  readers : List BufReader
  fence : Option Fence
  arms : List ArmWait
  handles : SMap Handle
  l1 : List L1Line
  /-- stopped by the debug port (R608) -/
  dbgHalt : Bool
  /-- the debug port lets exactly one bundle issue (R611) -/
  dbgStep : Bool
  /-- DBG_COREn: cause, k, agent, offset (R620) -/
  dbgCause : Nat
  dbgK : Nat
  dbgAgent : Nat
  dbgOff : Nat
  deriving DecidableEq, Repr

/-- A core at job start: registers, predicates, counters, tile registers and sets zero or empty (R37, R83, R89, R216). -/
def Core.init : Core where
  st := .idle
  wait := 0
  cause := 0
  a := []
  p := []
  nextPos := 0
  nextIdx := 0
  loops := []
  ahead := none
  skips := []
  chalted := false
  arrived := none
  token := false
  shapes := []
  comb := []
  buf := []
  bufPoison := []
  acc := []
  flips := []
  accPoison := []
  act := .none
  shd := .none
  flight := []
  nextOrd := 0
  nextChain := 0
  closed := []
  replay := []
  latches := []
  s := []
  key := .zero
  trace := 0
  gatedRem := 0
  maskedRem := 0
  passAt := 0
  passNs := 0
  lcu := []
  finish := false
  readers := []
  fence := none
  arms := []
  handles := []
  l1 := []
  dbgHalt := false
  dbgStep := false
  dbgCause := 0
  dbgK := 0
  dbgAgent := 0
  dbgOff := 0

/-- The sequencer right after power-up (R73). -/
def Seq.init : Seq where
  st := .idle
  run := false
  fetchIdx := 0
  fetchPos := 0
  fetchQ := []
  nextPos := 0
  log := []
  stop := false
  ctx := ⟨[], none, 0⟩
  kind2 := []
  walk := []
  poll := false
  pollPos := none
  hdr := []
  miss := false
  tab := 0
  step := 0
  exit := 0

/-- A barrier round (R224): the n of its arrivals and the arrived cores. -/
structure Round where
  n : Word16
  cores : List Nat
  deriving DecidableEq, Repr

/-- A remote signal (R228): where it goes and what it waits for. -/
structure Signal where
  src : BitVec 14
  ctx : BitVec 14
  core : Word16
  counter : Word16
  amount : Word16
  count : BitVec 48
  deriving DecidableEq, Repr

/-- SYN_DL_STATUS.state (R246). -/
inductive DetSt where
  | watch | quiet | blocked | deadlock
  deriving DecidableEq, Repr

/-- A BLOCKED report as the lead holds it (R242). -/
structure Report where
  src : BitVec 14
  sent : Word64
  recv : Word64
  deriving DecidableEq, Repr

/-- Synchronisation (08). -/
structure Sync where
  /-- g0–g511 -/
  g : SMap Word16
  /-- open rounds by chip counter -/
  rounds : SMap (Option Round)
  /-- held signals that have arrived in stream order, oldest first (R234); those ahead of a gap stand in `Fab.rx` -/
  held : List Signal
  /-- signals to the module itself that wait for a free entry, oldest first (R234) -/
  selfWait : List Signal
  /-- landing tallies by source × 16,384 + context (R231), and the pairs that hold an entry (R235) -/
  tally : SMap (BitVec 48)
  pairs : SMap Bool
  det : DetSt
  /-- time base at entry to QUIET, and to BLOCKED -/
  quietAt : Nat
  blockedAt : Nat
  /-- SYN_PKT_SENT and SYN_PKT_RECV (R241), and the sent tally of the last BLOCKED report -/
  sent : Word64
  recv : Word64
  reported : Word64
  /-- BLOCKED reports not withdrawn, at the lead (R242) -/
  reports : List Report
  deriving DecidableEq, Repr

/-- Synchronisation at power-up (R216, R246). -/
def Sync.init : Sync where
  g := []
  rounds := []
  held := []
  selfWait := []
  tally := []
  pairs := []
  det := .watch
  quietAt := 0
  blockedAt := 0
  sent := 0
  recv := 0
  reported := 0
  reports := []

/-- A line in a Hive slice (R258, R259), most recently used first in its set; STREAM lines stand last. -/
structure HiveLine where
  line : Nat
  dirty : Bool
  keep : Bool
  stream : Bool
  deriving DecidableEq, Repr

/-- A request in a controller's reorder window (R302), oldest first. `served` counts later-admitted requests that went
ahead of it (R303). -/
structure MReq where
  line : Nat
  write : Bool
  alloc : Bool
  hint : Nat
  served : Nat
  deriving DecidableEq, Repr

/-- Who holds armed watch slots (R276): an LCU's copy, an XWATCH handle, a copy-engine operation, or a remote module's
guarded read served here. -/
inductive Watcher where
  | lcu (core : Nat) (ord : Nat)
  | handle (core : Nat) (h : Nat)
  | ce (engine : Nat) (uid : Nat)
  | remote (dev ctx : BitVec 14)
  deriving DecidableEq, Repr

/-- An armed envelope (R276): local addresses lo ≤ a < hi. -/
structure Watch where
  who : Watcher
  lo : Nat
  hi : Nat
  torn : Bool
  deriving DecidableEq, Repr

/-- The memories (09, 10). Keys of `gddr` and `cxl` are local addresses, of `host` PCIe addresses. -/
structure MemSt where
  gddr : Memory
  cxl : Memory
  host : Memory
  /-- poison lists of the controllers, by line number of the local address (R305) -/
  poison : SMap Bool
  /-- those of them whose bad word is only in the line's Hive slice (R260) -/
  slicePoison : SMap Bool
  /-- CXL.mem poison, by line number of the local address (R308) -/
  cxlPoison : SMap Bool
  /-- lines of the host window whose bytes the host answers with EP set, by line number of the local address (R431) -/
  hostPoison : SMap Bool
  /-- Hive sets by slice × 16,384 + set -/
  hive : SMap (List HiveLine)
  /-- requests by controller; the first 256 are its reorder window -/
  win : SMap (List MReq)
  /-- open pages by ((mc × 2 + device) × 4 + channel) × 16 + bank: the row plus 1 -/
  pages : SMap Nat
  watch : List Watch
  /-- ports that went down since reset (R309) -/
  cxlDown : SMap Bool
  /-- errors of memory words that no read has met yet, with the core of a buffer, accumulator or L1 word (log entry 95) -/
  upsets : List (Nat × Upset)
  deriving DecidableEq, Repr

/-- The memories at power-up. -/
def MemSt.init : MemSt := ⟨[], [], [], [], [], [], [], [], [], [], [], [], []⟩

/-- What an entry of a copy engine is: an XSTR copy, an XCOL collective, or a signal to another module that waits behind the
copies issued earlier on its stream context (R230). -/
inductive CeKind where
  | copy
  | col
  | sig (dst : BitVec 14) (g : Signal)
  deriving DecidableEq, Repr

/-- An entry of a copy engine (12). -/
structure CeOp where
  core : Nat
  ctx : BitVec 14
  kind : CeKind
  desc : List Byte
  done : BitVec 6
  /-- image index of its bundle, and the core's MINT_STEP at issue (R64) -/
  idx : Nat
  mstep : Word64
  /-- its bytes move (R359) -/
  started : Bool
  /-- collective step (R376) -/
  step : Nat
  /-- fragments still to move and failed, one bit each (R368, R391) -/
  todo : BitVec 64
  failMask : BitVec 64
  failed : Bool
  afail : Bool
  code : Word16
  /-- fragments that will fail in this run, as the outside decides -/
  fails : BitVec 64
  /-- guarded: a write has torn the current reading; it has been re-read once (R278) -/
  torn : Bool
  reread : Bool
  /-- status word bits [2:1] (R362) and the range event of this operation (R379) -/
  rangeSeen : Bool
  flagSeen : Bool
  /-- completed: the slot waits for the peers' done words (R377) -/
  completed : Bool
  /-- restored from the quiesce image (R64) -/
  restored : Bool
  /-- remote reads of this run or step have been asked for, or a guarded copy's packets sent -/
  asked : Bool
  /-- bytes added to the landing tally of the module's own stream (R231) -/
  landed : Nat
  /-- local source bytes overwritten since its reads began, by address (R279) -/
  was : List (Nat × Byte)
  /-- source bytes at hand by place in the operation's source, and those of them that are poisoned (R279, R339) -/
  data : Memory
  dataBad : SMap Bool
  /-- destination bytes written from clean sources in earlier runs: address and count (R432) -/
  cover : List (Nat × Nat)
  /-- local lines of its next act were asked for: 1 the tables or a step's own lines, 2 the first input of a collective (R305) -/
  stage : Nat
  /-- a halt waits for it: the bundle that its core stopped after holds it (R221) -/
  must : Bool
  /-- the snapshot it belongs to and the job tag of that one's target (R418, R421) -/
  snapNo : Nat
  tag : Word32
  /-- its reads in no-prefetch granules have been made (R299) -/
  late : Bool
  /-- abort was written: it completes once the poisoned bytes are visible (R360, R391) -/
  aborting : Bool
  /-- a packet to a member was lost, or a notice named a member (R392) -/
  memberLost : Bool
  /-- its number, which packets carry as their owner -/
  uid : Nat
  /-- 0 for an operation of a core; issued by the management core: 1 snapshot (R418), 2 securing (R458), 3 restore (R463) -/
  mgmt : Nat
  /-- how often go was written for it by default (R438) -/
  goes : Nat
  deriving DecidableEq, Repr

/-- A copy engine: its operations, oldest first, at most 64 (R358), and the context last served (R359). -/
structure Engine where
  ops : List CeOp
  last : Nat
  deriving DecidableEq, Repr

/-- An engine without operations. -/
def Engine.init : Engine := ⟨[], 0⟩

/-- A Ledger record (R474). -/
structure Rec where
  stamp : Word64
  seq : Word32
  source : Word16
  code : Word16
  rep : Word16
  flags : Word16
  payload : Word64
  chain : Word32
  deriving DecidableEq, Repr

/-- An event at the Ledger unit's input (R475, R496). -/
structure LEvent where
  stamp : Word64
  source : Word16
  code : Word16
  cls : Nat
  rep : Word16
  payload : Word64
  usage : Bool
  winend : Bool
  prelock : Bool
  deriving DecidableEq, Repr

/-- LDG_STATUS.state (R495). -/
inductive LdgSt where
  | recording | frozen | clearing
  deriving DecidableEq, Repr

/-- A header copy in MRAM (R485), with its check field. -/
structure LHeader where
  check : List Byte
  flushCount : Word64
  nextSeq : Word32
  epoch : Word16
  oldSeq : Word32
  oldEpoch : Word16
  oldOff : Nat
  slot : Nat
  stamp : Word64
  chain : List Byte
  clear : List Byte
  deriving DecidableEq, Repr

/-- A header copy never written. -/
def LHeader.none : LHeader := ⟨[], 0, 0, 0, 0, 0, 0, 0, 0, [], []⟩

/-- The snapshot of a segment that ended at a window boundary and whose usage group is not written yet (R505): the boundary, the energy counter
once no addition can belong to the segment any more, and the accumulators. -/
structure SegSnap where
  at_ : Nat
  energy : Option Word64
  active : Nat
  steps : Nat
  preempts : Nat
  deriving DecidableEq, Repr

/-- The Ledger (16). -/
structure Ledger where
  st : LdgSt
  /-- retained records, oldest first: the first `nFlushed` of them are in MRAM, the others only in the ring -/
  recs : List (Rec × Word16)
  nFlushed : Nat
  /-- the newest record is open (R479) -/
  isOpen : Bool
  chain : List Byte
  nextSeq : Word32
  epoch : Word16
  /-- non-seal records since the last seal (R488) -/
  sinceSeal : Nat
  /-- events refused since the last LDG_LOST record (R480) -/
  lost : Nat
  /-- events refused or lost since the unit came up (R480, R496) -/
  lostSum : Nat
  /-- events accepted while holding, oldest first (R496) -/
  held : List LEvent
  heldLost : Nat
  /-- a flush runs; records below this count of `recs` are those it writes; one more flush is due (R481) -/
  flushing : Bool
  flushAgain : Bool
  flushTo : Nat
  /-- the chain state before and after the seal of the flush that runs (R485, R490) -/
  flushC0 : List Byte
  flushC1 : List Byte
  hdrA : LHeader
  hdrB : LHeader
  /-- seal blocks by slot, 2,048 bytes each (R490) -/
  seals : SMap (List Byte)
  slot : Nat
  flushCount : Word64
  /-- record area offset of the oldest retained record -/
  oldOff : Nat
  clearBlock : List Byte
  nearFull : Bool
  /-- a cleared run that the clear in progress will remove: s_t, its epoch and the command's bytes (R502) -/
  clearing : Option (Word32 × Word16 × List Byte)
  /-- end of the freeze and of the last unfreeze, on the time base (R497) -/
  freezeEnd : Nat
  lastUnfreeze : Option Nat
  /-- the time base has not locked since power-up (R492); LDG_TIME_BACK was recorded since power-up -/
  prelock : Bool
  timeBack : Bool
  /-- newest flushed stamp taken over at start-up (R492) -/
  floorStamp : Word64
  /-- the unit accepts events: it is up and no power-fail flush has ended its input (R483, R530) -/
  up : Bool
  /-- a power-fail flush runs, and MRAM is written no more after it (R483) -/
  pfail : Bool
  nonce0 : Word64
  nonce1 : Word64
  /-- segment accumulators since the last segment end (R504, R505) -/
  segJob : Word64
  segEnergy : Word64
  segActive : Nat
  segSteps : Nat
  segPreempts : Nat
  /-- window boundaries that passed and whose groups are still to be written, oldest first -/
  snaps : List SegSnap
  deriving DecidableEq, Repr

/-- The Ledger of a module that has just left manufacture (R487): no record, C of 64 zero bytes. -/
def Ledger.init : Ledger where
  st := .recording
  recs := []
  nFlushed := 0
  isOpen := false
  chain := zeros 64
  nextSeq := 0
  epoch := 0
  sinceSeal := 0
  lost := 0
  lostSum := 0
  held := []
  heldLost := 0
  flushing := false
  flushAgain := false
  flushTo := 0
  flushC0 := []
  flushC1 := []
  hdrA := .none
  hdrB := .none
  seals := []
  slot := 0
  flushCount := 0
  oldOff := 0
  clearBlock := []
  nearFull := false
  clearing := none
  freezeEnd := 0
  lastUnfreeze := none
  prelock := true
  timeBack := false
  floorStamp := 0
  up := false
  pfail := false
  nonce0 := 0
  nonce1 := 0
  segJob := 0
  segEnergy := 0
  segActive := 0
  segSteps := 0
  segPreempts := 0
  snaps := []

/-- HOST_STATUS.job (R560), in the order of its values. -/
inductive JobSt where
  | empty | loaded | starting | running | preempting | preempted | done | faulted | recovering | recovered | wiping
  deriving DecidableEq, Repr

/-- A failure notice as it is relayed and re-sent (R447, R452). -/
structure Notice where
  gone : BitVec 14
  orig : BitVec 14
  cause : Nat
  code : Word16
  time : Word64
  step : Word64
  deriving DecidableEq, Repr

/-- A PERMIT as a member keeps it (R451, R458): generation, boundary, whether a far round goes with it, newest complete generations. -/
structure Permit where
  gen : Word32
  b : Word64
  far : Bool
  gp : Word32
  gf : Word32
  deriving DecidableEq, Repr

/-- A GEN_DONE (R451). -/
structure GenAns where
  src : BitVec 14
  far : Bool
  late : Bool
  b : Word64
  partner : Word16
  farPartner : Word16
  deriving DecidableEq, Repr

/-- A generation as the lead knows it: number, boundary, what its members answered (R460, R462). -/
structure Gen where
  gen : Word32
  b : Word64
  answers : List GenAns
  deriving DecidableEq, Repr

/-- A PLAN (R451): path, view, boundary, generation, lead. -/
structure PlanMsg where
  path : Nat
  view : Word32
  b : Word64
  gen : Word32
  deriving DecidableEq, Repr

/-- Where a securing round stands (R458): none, open words on their way (order 1), copying (order 2), close words (order 4). -/
inductive RoundSt where
  | idle | opening | copying | closing
  deriving DecidableEq, Repr

/-- The job (15, 19). -/
structure Job where
  st : JobSt
  /-- job ID, tag (TC0 bytes 12–15) and member list in rank order -/
  id : Word64
  tag : Word32
  members : List (BitVec 14)
  /-- members known to have left -/
  gone : List (BitVec 14)
  /-- lead list, up to 8 device IDs (R452), and the lead last taken (R453) -/
  leads : List (BitVec 14)
  lead : Option (BitVec 14)
  /-- the JOB_FATAL code that ends the job once it is halted (R429), or the DEVICE_FATAL code (R430) -/
  fatal : Option Word16
  device : Option Word16
  /-- the halt under way has reached the end of order 4 of R67 -/
  order4 : Bool
  /-- this module has left the job: it sends no heartbeats and no TC1–TC3 packets (R445) -/
  left : Bool
  /-- pairs of departed member and originator already relayed (R448) -/
  relayed : List (BitVec 14 × BitVec 14)
  /-- the failure section, hold time in s, quiesce base, job measurement, and the bytes of the image up to its member list (R567 to R570) -/
  sect : List Byte
  hold : Nat
  quiesce : Nat
  measure : List Byte
  image : List Byte
  /-- the quiesce image is written with its header; an on-die wipe has run since (R567) -/
  saved : Bool
  wiped : Bool
  /-- a RESTART made it, so it has started and not ended (R9, R464, R571) -/
  restarted : Bool
  /-- the quiesce image has been restored and job packets are accepted again (R566) -/
  restoredHere : Bool
  /-- when the ward was last heard, and which member it is (R445) -/
  ward : Option (BitVec 14)
  wardAt : Nat
  /-- highest view seen; at the lead the view's notices, when the first one came, the REPORTs and who was sent notices again -/
  view : Word32
  notices : List Notice
  viewAt : Nat
  views : List (BitVec 14 × Word64)
  resent : List (BitVec 14)
  plan : Option PlanMsg
  /-- restart by ROLLBACK or FALLBACK: the boundary whose loss is compared (R468) -/
  verify : Option Word64
  /-- PERMITs received, newest first, the round in progress, and the last GEN_DONE not answered (R453, R458) -/
  permits : List Permit
  round : RoundSt
  unanswered : Option GenAns
  /-- at the lead: the generation whose GEN_DONEs arrive, newest complete ones (R460) -/
  gen : Option Gen
  genFar : Bool
  gp : Option Gen
  gf : Option Gen
  /-- partners refused under R471 -/
  feedBad : List Nat
  /-- at the lead: READY, DRAINED and RESTORED messages held, and whether the start window is open (R563 to R566) -/
  ready : List (BitVec 14)
  window : Bool
  drained : List (BitVec 14 × Word64 × Word64)
  restored : List (BitVec 14)
  /-- a snapshot: descriptors issued and the header's count and tag (R417, R418) -/
  snapNext : Nat
  snapCount : Nat
  snapTag : Word32
  /-- snapshots begun since load -/
  snapNo : Nat
  /-- the boundary of the request that was accepted (R418) -/
  snapK : Word64
  /-- the first debug write since load was recorded (R607) -/
  dbgWrite : Bool
  deriving DecidableEq, Repr

/-- No job. -/
def Job.init : Job where
  st := .empty
  id := 0
  tag := 0
  members := []
  gone := []
  leads := []
  lead := none
  fatal := none
  device := none
  order4 := false
  left := false
  relayed := []
  sect := []
  hold := 0
  quiesce := 0
  measure := []
  image := []
  saved := false
  wiped := false
  restarted := false
  restoredHere := false
  ward := none
  wardAt := 0
  view := 0
  notices := []
  viewAt := 0
  views := []
  resent := []
  plan := none
  verify := none
  permits := []
  round := .idle
  unanswered := none
  gen := none
  genFar := false
  gp := none
  gf := none
  feedBad := []
  ready := []
  window := false
  drained := []
  restored := []
  snapNext := 0
  snapCount := 0
  snapTag := 0
  snapNo := 0
  snapK := 0
  dbgWrite := false

/-- FAB_LINK_STATUS.state (R315). -/
inductive LinkSt where
  | down | training | up | retrain | failed
  deriving DecidableEq, Repr

/-- What a link carries: a TC1 to TC3 packet, or a TC0 message with the hops it has taken and its phase (R325, R332, R343). -/
inductive Wire where
  | pkt (p : Packet)
  | tc0 (m : Tc0) (hops phase : Nat)
  deriving DecidableEq, Repr

/-- An item of an output queue: the item as it arrived here, its bytes as they leave, and how many have left (R320). -/
structure OutItem where
  item : Wire
  bytes : List Byte
  sent : Nat
  /-- the input it came by: a link, or 36 for this module's own (R335) -/
  input : Nat
  deriving DecidableEq, Repr

/-- A data flit in the retry buffer (R321), with every item of which it carries a byte (R333). -/
structure TxFlit where
  seq : BitVec 12
  raw : List Byte
  items : List Wire
  deriving DecidableEq, Repr

/-- A link (R315 to R324). Lanes of an output queue are numbered class × 3 + phase (R318). -/
structure Link where
  st : LinkSt
  /-- training attempts begun; the attempt ended well and HELLO is awaited -/
  attempts : Nat
  hello : Bool
  /-- lanes that have been unhealthy (R324) -/
  sick : BitVec 4
  lanes : Nat
  pair : Nat
  /-- what the neighbour's HELLO said (R322): negotiated FPL, device, link index, SFL, MLL, feed tag -/
  fpl : Nat
  ndev : Nat
  nlink : Nat
  nsfl : Nat
  nmll : Nat
  nfeed : Nat
  /-- output queues by lane, oldest first -/
  q : SMap (List OutItem)
  /-- credit units (64 bytes) taken by lane and not returned (R334) -/
  used : SMap Nat
  /-- unacknowledged data flits, oldest first, and those still to be replayed (R321) -/
  retry : List TxFlit
  replay : List TxFlit
  txSeq : BitVec 12
  rxSeq : BitVec 12
  /-- a good data flit has been accepted; the receiver discards until the missing flit arrives; a NAK is due -/
  rxAny : Bool
  rxWait : Bool
  nakDue : Bool
  /-- how often in a row the oldest flit was NAKed -/
  naks : Nat
  /-- credit units to return, by lane -/
  ret : SMap Nat
  /-- bytes of a packet begun in an earlier flit, by lane -/
  part : SMap (List Byte)
  /-- signals that wait for an entry, oldest first, whose credits are withheld (R234) -/
  held : List Packet
  /-- classes of the last 15 flits sent, for TC1's share (R334) -/
  hist : List Nat
  /-- deficits of TC2 and TC3 and the phase served last, by class (R334, R335) -/
  deficit : SMap Int
  phase : SMap Nat
  /-- the last flit sent, as it stands on the wire -/
  wire : List Byte
  /-- the input served last, by lane (R335) -/
  rr : SMap Nat
  /-- the highest number discarded while a flit was missing (R350) -/
  rxTop : Option (BitVec 12)
  /-- times of the uncorrectable codewords of the last 1 ms (R324) -/
  uncorr : List Nat
  deriving DecidableEq, Repr

/-- A link at power-up. -/
def Link.init : Link where
  st := .down
  attempts := 0
  hello := false
  sick := 0
  lanes := 0
  pair := 0
  fpl := 0
  ndev := 0
  nlink := 0
  nsfl := 0
  nmll := 0
  nfeed := 0
  q := []
  used := []
  retry := []
  replay := []
  txSeq := 0
  rxSeq := 0
  rxAny := false
  rxWait := false
  nakDue := false
  naks := 0
  ret := []
  part := []
  held := []
  hist := []
  deficit := []
  phase := []
  wire := []
  rr := []
  rxTop := none
  uncorr := []

/-- For whom a packet travels: an engine's operation (engine, number, fragment), a signal, or the management core's securing and
restoring. -/
inductive Owner where
  | ce (engine uid frag : Nat)
  /-- arrive and done words of a collective (R374) -/
  | col (engine uid : Nat)
  | sig
  | mgmt (tag : Nat)
  deriving DecidableEq, Repr

/-- A numbered packet of a source (R336): how often it was re-sent and, once NACKed, that it goes again on its path. Among the lost
packets `nacked` marks one that was answered with ERR. -/
structure TxPkt where
  pkt : Packet
  owner : Owner
  tries : Nat
  nacked : Bool
  deriving DecidableEq, Repr

/-- A remote read that this module serves (R339): the request, and whether a guarded copy's slots are claimed and its lines asked for. -/
structure ServeRd where
  pkt : Packet
  asked : Bool
  deriving DecidableEq, Repr

/-- A pair of stream context and destination at the source: the next number, the packets in flight, those that wait (R336, R338), those lost. -/
structure TxPair where
  next : Word16
  air : List TxPkt
  wait : List TxPkt
  /-- packets lost or refused, which a go sends again with their numbers (R437) -/
  lost : List TxPkt
  deriving DecidableEq, Repr

/-- A packet that landed beyond the in-order point (R337): its number, its counted bytes, the signal it carries. -/
structure RxAhead where
  seq : Word16
  bytes : Nat
  sig : Option Signal
  deriving DecidableEq, Repr

/-- A pair of source and stream context at the destination (R336, R337, R241): the next number in order, the tracker, and numbers
answered with ERR that have not landed since. -/
structure RxPair where
  point : Word16
  ahead : List RxAhead
  refused : List Word16
  deriving DecidableEq, Repr

/-- A remote read that waits for its answer (R339): where it went, its number, for whom, the place of its data in that operation. -/
structure ReadWait where
  dst : BitVec 14
  ctx : BitVec 14
  seq : Word16
  owner : Owner
  key : Nat
  n : Nat
  deriving DecidableEq, Repr

/-- The fabric (11). -/
structure Fab where
  /-- TC0 messages waiting in the source queue, next to release first (R342, R448) -/
  tc0q : List Tc0
  /-- next TC0 sequence number by destination (R343), and by source the next one to deliver with the messages held (R344) -/
  tc0Seq : SMap Word16
  tc0Rx : SMap Word16
  tc0Held : List Tc0
  links : SMap Link
  /-- sources by context × 16,384 + destination; destinations by source × 16,384 + context -/
  tx : SMap TxPair
  rx : SMap RxPair
  /-- answers to remote reads not yet acknowledged (R339) -/
  rsp : List TxPkt
  reads : List ReadWait
  /-- remote reads taken here whose lines have not all come from their controllers (R305, R339) -/
  serve : List ServeRd
  /-- devices to which a packet of the job was lost since the collectives last looked (R392) -/
  lostDst : List (BitVec 14)
  deriving DecidableEq, Repr

/-- The fabric at power-up. -/
def Fab.init : Fab := ⟨[], [], [], [], [], [], [], [], [], [], []⟩

/-- The time base and its synchronisation (R345 to R348, R543 to R545, R582). -/
structure Tim where
  /-- 96-bit accumulator: ns in bits [95:32], fraction in bits [31:0] -/
  acc : Nat
  /-- exchanges in a row with an offset of at most 10 ns; the offset still to remove, in ns (R347, R545) -/
  good : Nat
  theta : Int
  /-- PPS edges since power-up, and whether the root follows PPS (R543, R544) -/
  edges : Nat
  follows : Bool
  /-- the fabric has been brought up and synchronisation started (order 8 of R530) -/
  started : Bool
  /-- the step at first lock, which interval counters leave out (R584) -/
  stepped : Bool
  /-- the parent was lost and none has returned (R348) -/
  holdover : Bool
  deriving DecidableEq, Repr

/-- The time base at power-up. -/
def Tim.init : Tim where
  acc := 0
  good := 0
  theta := 0
  edges := 0
  follows := false
  started := false
  stepped := false
  holdover := false

/-- A queue pair's own pointers (R554 to R557): next submission entry to take, completion tail, whether the phase written now
is 0, and the stop after HOST_Q_ERR. -/
structure HostQ where
  sqHead : Nat
  cqTail : Nat
  phase0 : Bool
  err : Bool
  deriving DecidableEq, Repr

/-- A queue pair not in use. -/
def HostQ.init : HostQ := ⟨0, 0, false, false⟩

/-- A host command taken and not yet complete (R558): opcode, queue pair, command ID. -/
structure HostCmd where
  op : Nat
  q : Nat
  cid : Nat
  deriving DecidableEq, Repr

/-- A completion that waits for room (R557). -/
structure HostPost where
  q : Nat
  cid : Nat
  more : Bool
  status : Nat
  r0 : Nat
  r1 : Nat
  deriving DecidableEq, Repr

/-- The host port (19). -/
structure HostPort where
  q : SMap HostQ
  /-- commands under way, and completions that wait for room -/
  cmds : List HostCmd
  posts : List HostPost
  /-- HOST_STATUS.evlost -/
  evlost : Word16
  /-- the loss of events is recorded since an event was last posted (R575) -/
  lossNoted : Bool
  /-- MSI-X vectors sent, newest last (R573) -/
  msix : List Nat
  /-- the PCIe link is up: rate and width codes of HOST_STATUS, 0 when down -/
  rate : BitVec 2
  width : BitVec 2
  /-- the exit status reported to the host when the job was done (R66; by which entry the spec does not say, log entry 96) -/
  exit : Option Word16
  deriving DecidableEq, Repr

/-- The host port at power-up. -/
def HostPort.init : HostPort := ⟨[], [], [], 0, false, [], 0, 0, none⟩

/-- The debug port and the TAP (21, 22). -/
structure Dbg where
  /-- chip halt in force (R608) -/
  chip : Bool
  /-- a DAP transaction has run since reset or wipe (R619) -/
  session : Bool
  /-- instruction register and boundary register (R599, R640) -/
  ir : BitVec 8
  boundary : BitVec 18
  /-- the data register of DAP as Capture-DR loads it (R603), and the bit of BYPASS -/
  dap : BitVec 112
  byp : Bool
  /-- what IDCODE, SAMPLE/PRELOAD or DSTAT captured last -/
  cap : Word64
  /-- the mailbox (R616), 4 KiB -/
  mbox : Memory
  deriving DecidableEq, Repr

/-- The debug port at power-up: IDCODE selected after TAP reset by IEEE 1149.1. -/
def Dbg.init : Dbg where
  chip := false
  session := false
  ir := 1
  boundary := 0
  dap := 0
  byp := false
  cap := 0
  mbox := []

/-- SEC_LC.state (R508, R523). -/
inductive LcSt where
  | blank | provisioned | deployed | service | retired
  deriving DecidableEq, Repr

/-- A life-cycle transition that runs (R509), with what it burns at its end. -/
inductive LcMove where
  | provision
  | register (key : List Byte)
  | unlock
  | deregister
  | retire
  | relock
  deriving DecidableEq, Repr

/-- What a running wipe was triggered for (R526). -/
inductive WipeWhy where
  | start
  | jobEnd
  | ondie (q cid : Nat)
  | move
  deriving DecidableEq, Repr

/-- A wipe that runs (R525 to R527): its scope (1 on-die, 2 job-boundary, 3 full), the CXL ports still running, those that use
Sanitize and those that did, the window-table entries of the owned CXL granules it covers, and its triggers. -/
structure Wipe where
  scope : Nat
  ports : BitVec 4
  sanit : BitVec 4
  used : BitVec 4
  owned : List Nat
  why : List WipeWhy
  deriving DecidableEq, Repr

/-- The fuses (R508, R512, R516, R521, R522): the die secret D, root hash, provisioned, retired, rollback count, the eight IAK hashes (empty: not burned)
and their revoke fuses. -/
structure Fuses where
  secret : List Byte
  root : List Byte
  provisioned : Bool
  retired : Bool
  rollback : Nat
  iak : SMap (List Byte)
  revoked : BitVec 8
  deriving DecidableEq, Repr

/-- Fuses as at manufacture (log entry 6). -/
def Fuses.init : Fuses := ⟨zeros 32, zeros 64, false, false, 0, [], 0⟩

/-- The security unit and the boot ROM (17, 18). -/
structure Sec where
  fuses : Fuses
  /-- the unlock flag of SERVICE, and that a reset has ended SERVICE, which LC_CHANGE tells once the Ledger unit is up -/
  unlocked : Bool
  wasOpen : Bool
  nonce0 : Word64
  nonce1 : Word64
  move : Option LcMove
  wipe : Option Wipe
  /-- op 5 has run and op 6 is awaited (R617) -/
  provisioning : Bool
  /-- which key pair the module holds (R509): none before provisioning, and whether its blob has been unwrapped -/
  key : Option Nat
  unwrapped : Bool
  /-- firmware running: slot, security version, version, measurement (R521) -/
  bslot : Bool
  v : Nat
  fwver : Word32
  fwMeasure : List Byte
  cfgMeasure : List Byte
  /-- the last wipe: sequence number of its WIPE_DONE (R523) -/
  wipeSeq : Word32
  /-- the ROM runs alone: no image verified (R521) -/
  recovery : Bool
  /-- ports that are present and have neither come up nor timed out (order 7 of R530) -/
  cxlWait : BitVec 4
  /-- the feed-tag check of R542 is done -/
  feedDone : Bool
  /-- time base at the last write of BOOT_WDOG.kick (R535); a step of the time base moves it along -/
  wdogAt : Int
  /-- sources, codes and payloads of events while a reset keeps the Ledger unit down (R348, R521): recorded once it is up -/
  romLog : List (Word16 × Word16 × Nat)
  /-- start-up waits for orders 6 to 8 with the outcome of what follows (R530) -/
  boot : Option BootOutcome
  deriving DecidableEq, Repr

/-- The security unit at power-up. -/
def Sec.init : Sec where
  fuses := .init
  unlocked := false
  wasOpen := false
  nonce0 := 0
  nonce1 := 0
  move := none
  wipe := none
  provisioning := false
  key := none
  unwrapped := false
  bslot := false
  v := 0
  fwver := 0
  fwMeasure := zeros 64
  cfgMeasure := zeros 64
  wipeSeq := 0
  recovery := false
  cxlWait := 0
  feedDone := false
  wdogAt := 0
  romLog := []
  boot := none

/-- The rails (R592, R593, R628): off, on, power failing while the Ledger flushes, or the core rail removed by a trip. -/
inductive Rails where
  | off | up | failing | tripped
  deriving DecidableEq, Repr

/-- The power controller (20). -/
structure Pwr where
  rails : Rails
  /-- a thermal trip waits for the flush (R592); THERM_ALERT_N is held low by it (R637) -/
  trip : Bool
  /-- time base at the last change of the pace level, and since when it is above 0 -/
  paceAt : Nat
  pacedFrom : Nat
  /-- fields whose junction is above 103 °C (R596) -/
  hot : BitVec 4
  /-- input power is in range and order 1 of R530 waits for RESET_N; internal reset waits for it (R628, R629) -/
  waits : Bool
  held : Bool
  deriving DecidableEq, Repr

/-- The power controller at power-up. -/
def Pwr.init : Pwr := ⟨.off, false, 0, 0, 0, false, false⟩

/-- The input pins as last seen (R635): true is high. -/
structure Pins where
  resetN : Bool
  pwrFailN : Bool
  hostPerstN : Bool
  deriving DecidableEq, Repr

/-- The pins with nothing asserted. -/
def Pins.init : Pins := ⟨true, true, true⟩

/-- Reasons a step can stop with a fault. -/
inductive Fault where
  /-- Raised by no command: the spec gives every command a next state. Safe. -/
  | noFault
  deriving DecidableEq, Repr

/-- Reasons a command is refused. -/
inductive Refusal where
  /-- An arm of the dispatcher that has no meaning yet. Safe. -/
  | notModelled (mnemonic : String)
  /-- The command names a core, engine, link, queue, port or controller that the part does not have, so there is nothing that
  could execute it. Safe. -/
  | noSuchUnit
  deriving DecidableEq, Repr

/-- The state of the module: everything the spec gives it, the commands that wait, and the model's own free-value counter. -/
structure State where
  /-- waiting commands, first in first out: the model's own -/
  pending : List Instr
  /-- counter of free values drawn: the model's own (log entry 2) -/
  free : Nat
  /-- the part is NM-UA8-832-128-L (R2) -/
  part832 : Bool
  /-- disabled physical rows by field × 16 + column (R74, R76) -/
  repair : SMap (List Nat)
  /-- chip registers that hold a value, by local address -/
  regs : SMap Word64
  /-- the accepted configuration block, empty when none is (R540) -/
  cfg : List Byte
  seq : Seq
  /-- cores by logical ID; an unlisted core is as at job start -/
  cores : SMap Core
  sync : Sync
  mem : MemSt
  /-- engines by number (R358) -/
  ce : SMap Engine
  /-- the next engine operation's number -/
  ceUid : Nat
  ldg : Ledger
  job : Job
  fab : Fab
  tim : Tim
  host : HostPort
  dbg : Dbg
  sec : Sec
  /-- NOR flash by offset (R537) -/
  nor : Memory
  pwr : Pwr
  pins : Pins
  deriving DecidableEq, Repr

/-- Chip registers whose power-up value is not zero and which no other field holds (R246, R351, R529, R576, R597): SYN_DL_CTRL.en,
SYN_DL_WIN.ms, FAB_LEVEL.hw, FAB_SYNC_STATUS.parent, SEC_WIPE, HOST_CTRL.evmask, PWR_STATUS. -/
def regsReset : SMap Word64 :=
  [(0x3F0000410000, 1), (0x3F0000410008, 50), (0x3F0000800008, 0x200), (0x3F0000800040, 0x1F8), (0x3F0000D00020, 0xD),
   (0x3F0000F00008, 0x3C), (0x3F0001000000, 0x25800000001)]

/-- The module right after power is applied: the power-up values of the register tables, no memory contents, the start-up sequence
of R530 not yet run. SEC_WIPE reads a full wipe running (R529). Part, repair map and fuses: log entries 5 and 6. -/
def State.reset : State where
  pending := []
  free := 0
  part832 := false
  repair := (List.range 64).map (fun i => (i, [14]))
  regs := regsReset
  cfg := []
  seq := .init
  cores := []
  sync := .init
  mem := .init
  ce := []
  ceUid := 0
  ldg := .init
  job := .init
  fab := .init
  tim := .init
  host := .init
  dbg := .init
  sec := { Sec.init with wipe := some ⟨3, 0, 0, 0, [], [.start]⟩ }
  nor := []
  pwr := .init
  pins := .init

end Sys2Proof.Machine
end

