-- ==== Sys2Proof/Machine/LedgerUnit.lean ====
section
/-! DEFINITION. The Ledger unit (16): its input, records, chain, seals, holding and flushes, as functions of the Ledger alone.
A function that writes records also answers the records it created, for the host's event entries (R572). -/

namespace Sys2Proof.Machine

/-- Ring capacity, flush threshold, seal distance, holding capacity (R480, R481, R488, R496). -/
def ldgRing : Nat := 8192
def ldgFlushAt : Nat := 6144
def ldgSealEvery : Nat := 255
def ldgHoldMax : Nat := 256

/-- Codes of R506. -/
def cLdgSeal : Word16 := 0x9001
def cLdgUnfreeze : Word16 := 0x9002
def cLdgLost : Word16 := 0x9003
def cLdgCleared : Word16 := 0x9004
def cLdgClearAuth : Word16 := 0x9005
def cLdgClearRefused : Word16 := 0x9006
def cLdgMramErr : Word16 := 0x9007
def cLdgPowerup : Word16 := 0x9008
def cLdgTimeBack : Word16 := 0x9009
def cLdgNearFull : Word16 := 0x900A

/-- Bytes 0–27 of a record (R474). -/
def recHead (r : Rec) : List Byte :=
  leBytes 8 r.stamp.toNat ++ leBytes 4 r.seq.toNat ++ leBytes 2 r.source.toNat ++ leBytes 2 r.code.toNat ++
  leBytes 2 r.rep.toNat ++ leBytes 2 r.flags.toNat ++ leBytes 8 r.payload.toNat

/-- The 32 bytes of a record (R474). -/
def recBytes (r : Rec) : List Byte := recHead r ++ leBytes 4 r.chain.toNat

/-- Replace the last element of a list. -/
def mapLast {α : Type} (f : α → α) : List α → List α
  | [] => []
  | [x] => [f x]
  | x :: y :: l => x :: mapLast f (y :: l)

/-- Close the open record (R479): the chain advances over it and its chain fragment is set (R487). -/
def ldgClose (l : Ledger) : Ledger :=
  if l.isOpen then
    match l.recs.getLast? with
    | none => { l with isOpen := false }
    | some (r, _) =>
      let c := shake64 (l.chain ++ recHead r)
      { l with
        isOpen := false
        chain := c
        recs := mapLast (fun p => ({ p.1 with chain := BitVec.ofNat 32 (leNat (c.take 4)) }, p.2)) l.recs }
  else l

/-- The flags of a record of an event (R477). -/
def evFlags (e : LEvent) (held : Bool) : Word16 :=
  BitVec.ofNat 16 (e.cls % 8 + b2n held * 8 + b2n e.usage * 32 + b2n e.winend * 64 + b2n e.prelock * 256)

/-- Append a record with the next sequence number (R475, R491); it is open. -/
def ldgAppend (l : Ledger) (stamp : Word64) (source code rep flags : Word16) (payload : Word64) : Ledger × Rec :=
  let r : Rec := ⟨stamp, l.nextSeq, source, code, rep, flags, payload, 0⟩
  ({ l with
     recs := l.recs ++ [(r, l.epoch)]
     isOpen := true
     nextSeq := l.nextSeq + 1
     epoch := if l.nextSeq + 1 = 0 then l.epoch + 1 else l.epoch }, r)

/-- Write a seal record, which closes at once (R488, R489). -/
def ldgSeal (l : Ledger) (now : Word64) : Ledger × List Rec :=
  let l1 := ldgClose l
  let p := BitVec.ofNat 64 (leNat (l1.chain.take 8))
  let (l2, r) := ldgAppend l1 now 0x7000 cLdgSeal l1.epoch 16 p
  (ldgClose { l2 with sinceSeal := 0 }, [r])

/-- Begin a flush, or note one more while one runs (R481, R482). -/
def ldgFlush (l : Ledger) (now : Word64) : Ledger × List Rec :=
  if l.flushing || l.pfail || l.st != .recording then ({ l with flushAgain := true }, [])
  else
    let (l1, rs) := ldgSeal l now
    ({ l1 with flushing := true, flushAgain := false, flushTo := l1.recs.length, flushC0 := (ldgClose l).chain, flushC1 := l1.chain }, rs)

/-- Records not yet in MRAM (R480). -/
def ldgUnflushed (l : Ledger) : Nat := l.recs.length - l.nFlushed

/-- Append a record that is no seal, with the seal before it where one is due (R488). -/
def ldgPut (l : Ledger) (stamp : Word64) (source code rep flags : Word16) (payload : Word64) : Ledger × List Rec :=
  let (l1, rs) := if l.sinceSeal ≥ ldgSealEvery then ldgSeal l stamp else (l, [])
  let (l2, r) := ldgAppend (ldgClose l1) stamp source code rep flags payload
  ({ l2 with sinceSeal := l2.sinceSeal + 1 }, rs ++ [r])

/-- Whether an event repeats the open record (R478). -/
def ldgRepeats (l : Ledger) (e : LEvent) : Bool :=
  l.isOpen &&
  match l.recs.getLast? with
  | some (r, _) => r.code == e.code && r.source == e.source && r.payload == e.payload && decide (r.rep.toNat < 65535)
      && bitOf r.flags.toNat 4 == false
  | none => false

/-- The seal, if any, that is due before a record when `n` records have come since the last one (R488). -/
def sealDue (n : Nat) : Nat := if n ≥ ldgSealEvery then 1 else 0

/-- The room in the ring that `n` new records take, with the seals and the LDG_LOST that come before them (R480, R488). -/
def ldgNeed (l : Ledger) (n : Nat) : Nat :=
  if l.lost > 0 then n + 1 + sealDue l.sinceSeal + sealDue (if l.sinceSeal ≥ ldgSealEvery then n else l.sinceSeal + n)
  else n + sealDue (l.sinceSeal + n - 1)

/-- Whether the ring has no room for the new record that an event needs (R480); a repeat of the open record needs none (R478). -/
def ldgFull (l : Ledger) (e : LEvent) : Bool := decide (ldgUnflushed l + ldgNeed l 1 > ldgRing) && !ldgRepeats l e

/-- Events that the ring refuses (R480). -/
def ldgLose (l : Ledger) (n : Nat) : Ledger := { l with lost := l.lost + n, lostSum := l.lostSum + n }

/-- LDG_LOST for what was refused, the first record once there is room again (R480). -/
def ldgLostRec (l : Ledger) (stamp : Word64) : Ledger × List Rec :=
  if l.lost > 0 then
    let (m, rs) := ldgPut l stamp 0x7000 cLdgLost 0 0 (BitVec.ofNat 64 l.lost)
    ({ m with lost := 0 }, rs)
  else (l, [])

/-- Whether a class triggers a flush and ends a freeze: CONTAINED, JOB_FATAL, DEVICE_FATAL (R481, R495). -/
def clsFatal (c : Nat) : Bool := c == 2 || c == 3 || c == 4

/-- The flush triggers of new records (R481): one of them is of a fatal class, or the unflushed count has reached 6,144 with them. -/
def ldgTrigger (before : Nat) (fatal : Bool) (l : Ledger) (stamp : Word64) : Ledger × List Rec :=
  if fatal || (decide (before < ldgFlushAt) && decide (ldgUnflushed l ≥ ldgFlushAt)) then ldgFlush l stamp else (l, [])

/-- Write an accepted event into the ring (R478, R480, R481). -/
def ldgWrite (l : Ledger) (e : LEvent) (held : Bool) : Ledger × List Rec :=
  if ldgFull l e then (ldgLose l 1, [])
  else if ldgRepeats l e then
    ({ l with recs := mapLast (fun p => ({ p.1 with rep := p.1.rep + 1, stamp := e.stamp }, p.2)) l.recs }, [])
  else
    let (l1, r1) := ldgLostRec l e.stamp
    let (l2, r2) := ldgPut l1 e.stamp e.source e.code e.rep (evFlags e held) e.payload
    let (l3, r3) := ldgTrigger (ldgUnflushed l) (clsFatal e.cls) l2 e.stamp
    (l3, r1 ++ r2 ++ r3)

/-- An event of the Ledger unit itself. -/
def ownEvent (stamp : Word64) (code : Word16) (payload : Word64) (prelock : Bool) : LEvent := ⟨stamp, 0x7000, code, 0, 0, payload, false, false, prelock⟩

/-- Write a record of the unit itself, by the same rules (R480). -/
def ldgOwn (l : Ledger) (stamp : Word64) (code : Word16) (payload : Word64) : Ledger × List Rec := ldgWrite l (ownEvent stamp code payload false) false

/-- Whether the holding queue takes one more event: 256, and beyond them the records of two usage groups (R496, R504). -/
def ldgHasRoom (l : Ledger) (e : LEvent) : Bool :=
  if e.usage then decide ((l.held.filter (fun h => h.usage)).length < 10) else decide ((l.held.filter (fun h => !h.usage)).length < ldgHoldMax)

/-- Add an event to the holding queue (R496). -/
def ldgHold (l : Ledger) (e : LEvent) : Ledger :=
  match l.held.getLast? with
  | some h =>
    if h.code == e.code && h.source == e.source && h.payload == e.payload && decide (h.rep.toNat < 65535) then
      { l with held := mapLast (fun h => { h with rep := h.rep + 1, stamp := e.stamp }) l.held }
    else if ldgHasRoom l e then { l with held := l.held ++ [e] }
    else { l with heldLost := l.heldLost + 1, lostSum := l.lostSum + 1 }
  | none => { l with held := [e] }

/-- Whether the unit holds what its input accepts: before the first lock, frozen, clearing (R492, R495). -/
def ldgHolds (l : Ledger) : Bool := l.prelock || l.st != .recording

/-- LDG_TIME_BACK, once per power-up, when a stamp was raised to that of the newest flushed record (R492). -/
def ldgBack (low : Bool) (l : Ledger) (stamp : Word64) : Ledger × List Rec :=
  if !low || l.timeBack then (l, [])
  else
    let m := { l with timeBack := true }
    if ldgHolds l then (ldgHold m (ownEvent stamp cLdgTimeBack 0 l.prelock), []) else ldgOwn m stamp cLdgTimeBack 0

/-- Write the held events, in order (R495, R499). -/
def ldgWriteHeld : List LEvent → Ledger → Ledger × List Rec
  | [], l => (l, [])
  | e :: es, l =>
    let (l1, r1) := ldgWrite l e true
    let (l2, r2) := ldgWriteHeld es l1
    (l2, r1 ++ r2)

/-- The end of a freeze (R498, R499), with its cause: the held records, LDG_UNFREEZE, then a flush that waited. Before the first lock the unit goes
on holding (R492), and LDG_UNFREEZE is held too. `at_` is the time of the unfreeze. -/
def ldgUnfreeze (l : Ledger) (stamp : Word64) (at_ cause : Nat) : Ledger × List Rec :=
  let p := BitVec.ofNat 64 (l.held.length % 2 ^ 16 + l.heldLost % 2 ^ 32 * 2 ^ 16 + cause * 2 ^ 48)
  let l0 := { l with st := .recording, flushAgain := false, lastUnfreeze := some at_ }
  let (l2, r2) :=
    if l.prelock then (ldgHold l0 (ownEvent stamp cLdgUnfreeze p true), [])
    else
      let (l1, r1) := ldgWriteHeld l.held { l0 with held := [], heldLost := 0 }
      let (m, rs) := ldgOwn l1 stamp cLdgUnfreeze p
      (m, r1 ++ rs)
  let (l3, r3) := if l.flushAgain then ldgFlush l2 stamp else (l2, [])
  (l3, r2 ++ r3)

/-- An event stamped below the newest flushed stamp takes that stamp (R492). -/
def ldgFloor (l : Ledger) (e : LEvent) : LEvent :=
  if e.stamp.toNat < l.floorStamp.toNat then { e with stamp := l.floorStamp } else e

/-- The input accepts an event (R475, R480, R492, R495, R496). A fault ends a freeze, before the first lock too. -/
def ldgAccept (l : Ledger) (e0 : LEvent) : Ledger × List Rec :=
  if !l.up || l.pfail then (l, [])
  else
    let e := ldgFloor l { e0 with prelock := l.prelock }
    let low := !l.prelock && e.stamp.toNat != e0.stamp.toNat
    let (m, r1) := if ldgHolds l then (ldgHold l e, []) else ldgWrite l e false
    let (n, r2) := ldgBack low m e.stamp
    let (o, r3) := if l.st = .frozen ∧ clsFatal e.cls = true then ldgUnfreeze n e.stamp e0.stamp.toNat 3 else (n, [])
    (o, r1 ++ r2 ++ r3)

/-- Records one after another, without a seal between them. -/
def ldgRow : List LEvent → Ledger → Ledger × List Rec
  | [], l => (l, [])
  | e :: es, l =>
    let (m, r) := ldgAppend (ldgClose l) e.stamp e.source e.code e.rep (evFlags e false) e.payload
    let (n, rs) := ldgRow es { m with sinceSeal := m.sinceSeal + 1 }
    (n, r :: rs)

/-- The input accepts a usage group: its records follow one another with nothing between them (R504). A seal that would come due within the group
is written before it, and a ring without room for all of it takes none of it (log entry 135). -/
def ldgGroup (l : Ledger) (es : List LEvent) : Ledger × List Rec :=
  if !l.up || l.pfail then (l, [])
  else
    let es1 := es.map (fun e => ldgFloor l { e with prelock := l.prelock })
    let low := !l.prelock && es.any (fun e => decide (e.stamp.toNat < l.floorStamp.toNat))
    let stamp := match es1.getLast? with | some e => e.stamp | none => 0
    if ldgHolds l then ldgBack low (es1.foldl ldgHold l) stamp
    else if ldgUnflushed l + ldgNeed l es.length > ldgRing then (ldgLose l es.length, [])
    else
      let (l1, r1) := ldgLostRec l stamp
      let (l2, r2) := if l1.sinceSeal + es.length > ldgSealEvery then ldgSeal l1 stamp else (l1, [])
      let (l3, r3) := ldgRow es1 l2
      let (l4, r4) := ldgBack low l3 stamp
      let (l5, r5) := ldgTrigger (ldgUnflushed l) false l4 stamp
      (l5, r1 ++ r2 ++ r3 ++ r4 ++ r5)

/-! ### MRAM as bytes (R484, R485) -/

/-- Where MRAM holds the header copies, the seal slots and the record area. -/
def mramHdrA : Nat := 0
def mramHdrB : Nat := 0x8000
def mramSeals : Nat := 0x10000
def mramRecs : Nat := 0x410000
def mramBytes : Nat := 0x4000000

/-- Records that the record area holds. -/
def ldgArea : Nat := 1964032

/-- Bytes 0 to 0x3FF of a header copy (R485). -/
def hdrBody (h : LHeader) : List Byte :=
  leBytes 8 h.flushCount.toNat ++ leBytes 4 h.nextSeq.toNat ++ leBytes 2 h.epoch.toNat ++ zeros 2 ++ leBytes 4 h.oldSeq.toNat
  ++ leBytes 2 h.oldEpoch.toNat ++ zeros 2 ++ leBytes 4 h.oldOff ++ leBytes 4 h.slot ++ leBytes 8 h.stamp.toNat ++ zeros 24
  ++ slice h.chain 0 64 ++ slice h.clear 0 0x380

/-- The check field that a header must have (R485). -/
def hdrCheck (h : LHeader) : List Byte := (shake64 (hdrBody h)).take 8

/-- A copy written with its check field last. -/
def hdrSeal (h : LHeader) : LHeader := { h with check := hdrCheck h }

/-- Whether a copy is valid. One never written has no check field. -/
def hdrValid (h : LHeader) : Bool := h.check.length == 8 && h.check == hdrCheck h

/-- The bytes of a header copy. -/
def hdrBytes (h : LHeader) : List Byte := hdrBody h ++ slice h.check 0 8 ++ zeros (0x8000 - 0x408)

/-- A byte of MRAM (R484). Records that were cleared are overwritten with zeros (R502). -/
def mramByte (l : Ledger) (a : Nat) : Byte :=
  if a < mramHdrB then (hdrBytes l.hdrA).getD a 0
  else if a < mramSeals then (hdrBytes l.hdrB).getD (a - mramHdrB) 0
  else if a < mramRecs then (smGet [] l.seals ((a - mramSeals) / 2048)).getD ((a - mramSeals) % 2048) 0
  else if a < mramRecs + 32 * ldgArea then
    let i := ((a - mramRecs) / 32 + ldgArea - l.oldOff) % ldgArea
    match (l.recs.take l.nFlushed)[i]? with
    | some p => (recBytes p.1).getD ((a - mramRecs) % 32) 0
    | none => 0
  else 0

end Sys2Proof.Machine
end

