-- ==== Sys2Proof/Machine/Mint.lean ====
section
/-! DEFINITION. The Mint, the stochastic-rounding generator (07 R205), and its element indices (R206). -/

namespace Sys2Proof.Machine

/-- Rotation of a 32-bit word to the left, n from 1 to 31. -/
def rotl32 (v n : Nat) : Nat := ((v <<< n) ||| (v >>> (32 - n))) % 2 ^ 32

/-- Rotation amounts of the first lane. -/
def mintRa : List Nat := [13, 7, 29, 11, 17, 23, 1, 15]

/-- Rotation amounts of the second lane. -/
def mintRb : List Nat := [19, 25, 3, 21, 5, 9, 27, 31]

/-- The Mint's four lanes. -/
structure MintX where
  x0 : Nat
  x1 : Nat
  x2 : Nat
  x3 : Nat
  deriving DecidableEq, Repr

/-- Lane additions of key words from word `s` on. -/
def mintInject (k : List Nat) (s : Nat) (x : MintX) : MintX :=
  ⟨(x.x0 + k.getD (s % 5) 0) % 2 ^ 32, (x.x1 + k.getD ((s + 1) % 5) 0) % 2 ^ 32, (x.x2 + k.getD ((s + 2) % 5) 0) % 2 ^ 32,
   (x.x3 + k.getD ((s + 3) % 5) 0) % 2 ^ 32⟩

/-- One of the 20 rounds (R205). -/
def mintRound (k : List Nat) (x : MintX) (r : Nat) : MintX :=
  let a0 := (x.x0 + x.x1) % 2 ^ 32
  let a1 := rotl32 x.x1 (mintRa.getD (r % 8) 1) ^^^ a0
  let a2 := (x.x2 + x.x3) % 2 ^ 32
  let a3 := rotl32 x.x3 (mintRb.getD (r % 8) 1) ^^^ a2
  let y : MintX := ⟨a0, a3, a2, a1⟩
  if r % 4 = 3 then
    let s := (r + 1) / 4
    let z := mintInject k s y
    { z with x3 := (z.x3 + s) % 2 ^ 32 }
  else y

/-- The Mint word of a key (R205): job seed u64, training step u64, tensor ID u32, element index u48. -/
def mintWord (seed step tid idx : Nat) : Nat :=
  let k0 := seed % 2 ^ 32
  let k1 := seed / 2 ^ 32 % 2 ^ 32
  let k2 := step % 2 ^ 32
  let k3 := step / 2 ^ 32 % 2 ^ 32
  let k := [k0, k1, k2, k3, 0x9E6B3C4D ^^^ k0 ^^^ k1 ^^^ k2 ^^^ k3]
  let x : MintX := ⟨tid % 2 ^ 32, idx % 2 ^ 32, idx / 2 ^ 32 % 2 ^ 16, 0x4D494E54⟩
  ((List.range 20).foldl (mintRound k) (mintInject k 0 x)).x0

/-- The element index of destination element (r, e) (R206); in mode 1 the logical core ID stands in bits [47:38]. -/
def mintIndex (mode1 : Bool) (core base pitch r e : Nat) : Nat :=
  let s := base + r * pitch + e
  if mode1 then core % 2 ^ 10 * 2 ^ 38 + s % 2 ^ 38 else s % 2 ^ 48

end Sys2Proof.Machine
end

