-- ==== Sys2Proof/Machine/Num.lean ====
section
/-! DEFINITION. The values of the number formats and their rounding (05 R142 to R153): exact values, decoding, conversion. -/

namespace Sys2Proof.Machine

/-- A value of a format: NaN, an infinity, or the exact (−1)^neg × m × 2^e. -/
inductive Num where
  | nan
  | inf (neg : Bool)
  | fin (neg : Bool) (m : Nat) (e : Int)
  deriving DecidableEq, Repr

/-- +0. -/
def Num.zero : Num := .fin false 0 0

/-- An integer as a value. -/
def Num.ofInt (i : Int) : Num := .fin (decide (i < 0)) i.natAbs 0

/-- Whether a value is ±0. -/
def numIsZero : Num → Bool
  | .fin _ 0 _ => true
  | _ => false

/-- Whether a value is NaN. -/
def numIsNan : Num → Bool
  | .nan => true
  | _ => false

/-- Whether a value is an infinity. -/
def numIsInf : Num → Bool
  | .inf _ => true
  | _ => false

/-- The sign bit; false for NaN. -/
def numNeg : Num → Bool
  | .nan => false
  | .inf s => s
  | .fin s _ _ => s

/-- The value with its sign reversed. -/
def numNegate : Num → Num
  | .nan => .nan
  | .inf s => .inf (!s)
  | .fin s m e => .fin (!s) m e

/-- The magnitude. -/
def numAbs : Num → Num
  | .nan => .nan
  | .inf _ => .inf false
  | .fin _ m e => .fin false m e

/-- floor(log2 |x|) of a non-zero finite value m × 2^e. -/
def magLog2 (m : Nat) (e : Int) : Int := (Nat.log2 m : Int) + e

/-- m × 2^e as a multiple of 2^lo, for lo at or below e. -/
def alignTo (m : Nat) (e lo : Int) : Nat := m <<< (e - lo).toNat

/-- The signed integer s·m. -/
def sgnInt (neg : Bool) (m : Nat) : Int := if neg then -(m : Int) else m

/-- The exact sum. Opposite infinities give NaN; a zero sum is −0 only when both terms are −0 (R155). -/
def numAdd (a b : Num) : Num :=
  match a, b with
  | .nan, _ => .nan
  | _, .nan => .nan
  | .inf s, .inf t => if s = t then .inf s else .nan
  | .inf s, .fin _ _ _ => .inf s
  | .fin _ _ _, .inf t => .inf t
  | .fin s m e, .fin t n f =>
    let lo := min e f
    let v := sgnInt s (alignTo m e lo) + sgnInt t (alignTo n f lo)
    if v = 0 then .fin (s && t && m == 0 && n == 0) 0 0 else .fin (decide (v < 0)) v.natAbs lo

/-- The exact difference. -/
def numSub (a b : Num) : Num := numAdd a (numNegate b)

/-- The exact product with the sign and special rules of R146. -/
def numMul (a b : Num) : Num :=
  match a, b with
  | .nan, _ => .nan
  | _, .nan => .nan
  | .inf s, .inf t => .inf (s != t)
  | .inf s, .fin t m _ => if m = 0 then .nan else .inf (s != t)
  | .fin s m _, .inf t => if m = 0 then .nan else .inf (s != t)
  | .fin s m e, .fin t n f => .fin (s != t) (m * n) (e + f)

/-- Multiplication by 2^k, exact. -/
def numScale (a : Num) (k : Int) : Num :=
  match a with
  | .fin s m e => .fin s m (e + k)
  | x => x

/-- How many quotient and root bits are kept below the leading one before the sticky bit; more than any target needs, with
32 further bits for SR. -/
def guardBits : Nat := 256

/-- The quotient, exact but for a sticky lowest bit far below every target's precision; IEEE special cases. -/
def numDiv (a b : Num) : Num :=
  match a, b with
  | .nan, _ => .nan
  | _, .nan => .nan
  | .inf _, .inf _ => .nan
  | .inf s, .fin t _ _ => .inf (s != t)
  | .fin s _ _, .inf t => .fin (s != t) 0 0
  | .fin s m e, .fin t n f =>
    if n = 0 then (if m = 0 then .nan else .inf (s != t))
    else if m = 0 then .fin (s != t) 0 0
    else
      let sh := guardBits + Nat.log2 n
      let q := (m <<< sh) / n
      let r := (m <<< sh) % n
      .fin (s != t) (2 * q + (if r = 0 then 0 else 1)) (e - f - sh - 1)

/-- Integer square root by bits, from the top: `k` bits remain, `r` is the root so far. -/
def isqrtGo (n : Nat) : Nat → Nat → Nat
  | 0, r => r
  | k + 1, r => let t := r + 2 ^ k; if t * t ≤ n then isqrtGo n k t else isqrtGo n k r

/-- The integer square root. -/
def isqrt (n : Nat) : Nat := isqrtGo n (Nat.log2 n / 2 + 1) 0

/-- The square root, exact but for a sticky lowest bit; sqrt −0 = −0, negative gives NaN (R202). -/
def numSqrt (a : Num) : Num :=
  match a with
  | .nan => .nan
  | .inf s => if s then .nan else .inf false
  | .fin s m e =>
    if m = 0 then .fin s 0 0
    else if s then .nan
    else
      let odd := e % 2 != 0
      let m1 := if odd then 2 * m else m
      let e1 : Int := if odd then e - 1 else e
      let n := m1 <<< (2 * guardBits)
      let r := isqrt n
      .fin false (2 * r + (if r * r = n then 0 else 1)) (e1 / 2 - guardBits - 1)

/-- Comparison of two non-NaN values by exact value; +0 equals −0. -/
def numCmp (a b : Num) : Ordering :=
  match a, b with
  | .inf s, .inf t => if s = t then .eq else if s then .lt else .gt
  | .inf s, _ => if s then .lt else .gt
  | _, .inf t => if t then .gt else .lt
  | .fin s m e, .fin t n f =>
    let lo := min e f
    compare (sgnInt s (alignTo m e lo)) (sgnInt t (alignTo n f lo))
  | _, _ => .eq

/-- a < b; false with NaN. -/
def numLt (a b : Num) : Bool := !numIsNan a && !numIsNan b && numCmp a b == .lt

/-- a = b by value; false with NaN. -/
def numEq (a b : Num) : Bool := !numIsNan a && !numIsNan b && numCmp a b == .eq

/-- The larger; NaN if either is NaN; +0 above −0 (R198). -/
def numMax (a b : Num) : Num :=
  if numIsNan a || numIsNan b then .nan
  else match numCmp a b with
    | .lt => b
    | .gt => a
    | .eq => if numNeg a then b else a

/-- The smaller, with the same rules. -/
def numMin (a b : Num) : Num :=
  if numIsNan a || numIsNan b then .nan
  else match numCmp a b with
    | .lt => a
    | .gt => b
    | .eq => if numNeg a then a else b

/-- A floating-point element format: exponent bits, mantissa bits, bias, largest finite code without sign. -/
structure FFmt where
  ebits : Nat
  mbits : Nat
  bias : Int
  maxCode : Nat
  deriving DecidableEq, Repr

def fmtFp32 : FFmt := ⟨8, 23, 127, 0x7F7FFFFF⟩
def fmtBf16 : FFmt := ⟨8, 7, 127, 0x7F7F⟩
def fmtFp16 : FFmt := ⟨5, 10, 15, 0x7BFF⟩
def fmtE4m3 : FFmt := ⟨4, 3, 7, 0x7E⟩
def fmtE5m2 : FFmt := ⟨5, 2, 15, 0x7B⟩
def fmtE2m3 : FFmt := ⟨2, 3, 1, 0x1F⟩
def fmtE3m2 : FFmt := ⟨3, 2, 3, 0x1F⟩
def fmtE2m1 : FFmt := ⟨2, 1, 1, 0x7⟩

/-- The element format of a floating-point format code, MX codes included (R142). -/
def fFmtOf (code : Nat) : Option FFmt :=
  match code with
  | 0 => some fmtFp32
  | 1 => some fmtBf16
  | 2 => some fmtFp16
  | 3 => some fmtE4m3
  | 4 => some fmtE5m2
  | 5 => some fmtE4m3
  | 6 => some fmtE5m2
  | 7 => some fmtE2m3
  | 8 => some fmtE3m2
  | 9 => some fmtE2m1
  | _ => none

/-- Whether a code is an MX format (R142). -/
def fmtIsMx (code : Nat) : Bool := 5 ≤ code && code ≤ 9

/-- Bits per element (R80, R142). -/
def fmtBits (code : Nat) : Nat :=
  match code with
  | 0 => 32
  | 1 => 16
  | 2 => 16
  | 7 => 6
  | 8 => 6
  | 9 => 4
  | 12 => 4
  | 13 => 128
  | _ => 8

/-- The value of an element code of a floating-point format (R142, R144). -/
def decodeF (f : FFmt) (v : Nat) : Num :=
  let man := v % 2 ^ f.mbits
  let ex := (v >>> f.mbits) % 2 ^ f.ebits
  let neg := bitOf v (f.mbits + f.ebits)
  let mag := v % 2 ^ (f.mbits + f.ebits)
  if mag > f.maxCode then
    -- only FP32, BF16, FP16, E5M2 and E4M3 have codes above the largest finite one; E4M3's is NaN
    if man = 0 then .inf neg else .nan
  else if ex = 0 then .fin neg man (1 - f.bias - f.mbits)
  else .fin neg (2 ^ f.mbits + man) ((ex : Int) - f.bias - f.mbits)

/-- The value of an element code without its block scale (R142). -/
def decodeElem (code v : Nat) : Num :=
  match fFmtOf code with
  | some f => decodeF f v
  | none =>
    if code = 10 then .ofInt (signedOf 8 v)
    else if code = 11 then .ofInt (v % 256)
    else if code = 12 then .ofInt (signedOf 4 v)
    else if code = 14 then (if v = 255 then .nan else .fin false 1 ((v : Int) - 127))
    else .nan

/-- An E8M0 scale byte as a value; 0xFF is NaN (R142). -/
def decodeScale (v : Nat) : Num := if v = 255 then .nan else .fin false 1 ((v : Int) - 127)

/-- The rounding codes of R147 used as numbers: 0 RNE, 1 RTZ, 2 SR, 3 RNE-IEEE. -/
abbrev Rnd := Nat

/-- The magnitude m × 2^e as a count of 2^lsb, rounded (R147, R148). `w` is the Mint word, used only by code 2. -/
def roundMag (m : Nat) (e lsb : Int) (rnd : Rnd) (w : Nat) : Nat :=
  if lsb ≤ e then m <<< (e - lsb).toNat
  else
    let sh := (lsb - e).toNat
    let q := m >>> sh
    let rem := m % 2 ^ sh
    if rnd = 1 then q
    else if rnd = 2 then
      let t := if 32 ≤ sh then rem >>> (sh - 32) else rem <<< (32 - sh)
      if w < t then q + 1 else q
    else
      let half := 2 ^ (sh - 1)
      if rem > half || (rem == half && q % 2 == 1) then q + 1 else q

/-- The sign bit of a format in place. -/
def signBit (f : FFmt) (neg : Bool) : Nat := if neg then 2 ^ (f.ebits + f.mbits) else 0

/-- What a floating-point conversion gives before specials are placed: a code, an overflow, or none of both. -/
def roundCode (f : FFmt) (m : Nat) (e : Int) (rnd : Rnd) (w : Nat) : Nat :=
  if m = 0 then 0
  else
    let emin := 1 - f.bias
    let ex := max (magLog2 m e) emin
    let q := roundMag m e (ex - f.mbits) rnd w
    (ex - emin).toNat * 2 ^ f.mbits + q

/-- The canonical NaN of FP32, BF16, FP16, E4M3, E5M2, E8M0 (R145). -/
def canonNan (code : Nat) : Nat :=
  match code with
  | 0 => 0x7FC00000
  | 1 => 0x7FC0
  | 2 => 0x7E00
  | 14 => 0xFF
  | _ => 0x7F

/-- The code of an infinity where the format has one: all exponent bits ones, mantissa zero. -/
def infCode (f : FFmt) : Nat := (2 ^ f.ebits - 1) * 2 ^ f.mbits

/-- Conversion into FP32, BF16, FP16, E4M3 or E5M2 (R147, R149). -/
def encodeFloat (code : Nat) (f : FFmt) (x : Num) (rnd : Rnd) (w : Nat) : Nat :=
  let e4 := code == 3 || code == 5
  let fp8 := e4 || code == 4 || code == 6
  match x with
  | .nan => canonNan code
  | .inf s => if e4 then canonNan code else signBit f s + infCode f
  | .fin s m e =>
    let c := roundCode f m e rnd w
    if c ≤ f.maxCode then signBit f s + c
    else if fp8 then
      if rnd = 3 then (if e4 then canonNan code else signBit f s + infCode f) else signBit f s + f.maxCode
    else if rnd = 1 then signBit f s + f.maxCode
    else signBit f s + infCode f

/-- The least and largest values of an integer format (R142). -/
def intRange (code : Nat) : Int × Int :=
  match code with
  | 10 => (-128, 127)
  | 11 => (0, 255)
  | _ => (-8, 7)

/-- A value rounded to an integer by the rounding field, code 3 acting as code 0 (R150). -/
def roundInt (neg : Bool) (m : Nat) (e : Int) (rnd : Rnd) (w : Nat) : Int :=
  sgnInt neg (roundMag m e 0 (if rnd = 3 then 0 else rnd) w)

/-- Saturation to a range. -/
def clampInt (lo hi v : Int) : Int := max lo (min hi v)

/-- Conversion into an integer range (R149, R150): saturating; NaN gives 0. -/
def convInt (lo hi : Int) (x : Num) (rnd : Rnd) (w : Nat) : Int :=
  match x with
  | .nan => 0
  | .inf s => if s then lo else hi
  | .fin s m e => clampInt lo hi (roundInt s m e rnd w)

/-- Conversion into E8M0 (R151). -/
def encodeE8 (x : Num) : Nat :=
  match x with
  | .nan => 0xFF
  | .inf _ => 0xFF
  | .fin _ m e => if m = 0 then 0 else (clampInt (-127) 127 (magLog2 m e) + 127).toNat

/-- Conversion into a format without blocks (R147 to R151): FP32 to E5M2, INT8, UINT8, INT4, E8M0. -/
def encodeElem (code : Nat) (x : Num) (rnd : Rnd) (w : Nat) : Nat :=
  match fFmtOf code with
  | some f => encodeFloat code f x rnd w
  | none =>
    if code = 14 then encodeE8 x
    else
      let r := intRange code
      wrapInt (if code = 12 then 4 else 8) (convInt r.1 r.2 x rnd w)

/-- Conversion of one element of an MX block, already divided by 2^e (R149): MXFP6 and MXFP4 overflow to the largest finite
with any code. -/
def encodeMxElem (code : Nat) (f : FFmt) (x : Num) (rnd : Rnd) (w : Nat) : Nat :=
  if code = 5 || code = 6 then encodeFloat code f x rnd w
  else
    match x with
    | .fin s m e => signBit f s + min (roundCode f m e rnd w) f.maxCode
    | _ => 0

/-- The element format's largest normal exponent (R152). -/
def mxEmax (code : Nat) : Int :=
  match code with
  | 5 => 8
  | 6 => 15
  | 7 => 2
  | 8 => 4
  | _ => 2

/-- The largest floor(log2 |x|) over the finite non-zero values, none when there is none. -/
def maxLog2 : List Num → Option Int
  | [] => none
  | .fin _ m e :: xs =>
    if m = 0 then maxLog2 xs
    else match maxLog2 xs with
      | none => some (magLog2 m e)
      | some k => some (max (magLog2 m e) k)
  | _ :: xs => maxLog2 xs

/-- Whether an element code of an MX format is a NaN or an infinity (only MXFP8 has such codes). -/
def mxCodeSpecial (f : FFmt) (code v : Nat) : Bool :=
  (code == 5 || code == 6) && decide (v % 2 ^ (f.ebits + f.mbits) > f.maxCode)

/-- Conversion of a block of up to 32 values into an MX format (R152): the scale byte and the element codes. Each value
comes with its Mint word. -/
def encodeMxBlock (code : Nat) (xs : List (Num × Nat)) (rnd : Rnd) : Nat × List Nat :=
  match fFmtOf code with
  | none => (255, xs.map (fun _ => 0))
  | some f =>
    let bad := (0xFF, xs.map (fun _ => 0))
    if xs.any (fun p => numIsNan p.1 || numIsInf p.1) then bad
    else
      match maxLog2 (xs.map Prod.fst) with
      | none => (0, xs.map (fun p => signBit f (numNeg p.1)))
      | some la =>
        let e := clampInt (-127) 127 (la - mxEmax code)
        let cs := xs.map (fun p => encodeMxElem code f (numScale p.1 (-e)) rnd p.2)
        if cs.any (mxCodeSpecial f code) then bad else ((e + 127).toNat, cs)

/-- FP32 rounding with RNE: the FP32 bit pattern of a value (R195). -/
def toF32 (x : Num) : Nat := encodeFloat 0 fmtFp32 x 0 0

/-- A value rounded once to FP32 with RNE. -/
def rnd32 (x : Num) : Num := decodeF fmtFp32 (toF32 x)

/-- An FP32 bit pattern as a value. -/
def ofF32 (v : Nat) : Num := decodeF fmtFp32 v

/-- The exact sum of a list, from its first element on (R200): NaN with a NaN or infinities of both signs; a zero sum is −0
only when every term is −0. -/
def numSum : List Num → Num
  | [] => .zero
  | x :: xs => xs.foldl numAdd x

end Sys2Proof.Machine
end

