-- ==== Sys2Proof/Machine/Flags.lean ====
section
/-! DEFINITION. Every flag computation: the Tally96 slot with its sticky flags (05 R158 to R168), the FP32 and INT32 accumulation
modes (R154 to R157), and the sticky overflow bit of a 48-bit counter (R105). -/

namespace Sys2Proof.Machine

/-- A Tally96 slot (R158): V modulo 2^96 and the five flags. -/
structure Slot96 where
  v : Nat
  nan : Bool
  pinf : Bool
  ninf : Bool
  range : Bool
  isInt : Bool
  deriving DecidableEq, Repr

/-- The zero of MMULZ (R126). -/
def Slot96.zero : Slot96 := ⟨0, false, false, false, false, false⟩

/-- Reading a slot: bits [127:101] read as zero whatever memory holds (R158). -/
def slotOf (x : Nat) : Slot96 := ⟨x % 2 ^ 96, bitOf x 96, bitOf x 97, bitOf x 98, bitOf x 99, bitOf x 100⟩

/-- Writing a slot (R158). -/
def slotNat (s : Slot96) : Nat :=
  s.v % 2 ^ 96 + b2n s.nan * 2 ^ 96 + b2n s.pinf * 2 ^ 97 + b2n s.ninf * 2 ^ 98 + b2n s.range * 2 ^ 99 + b2n s.isInt * 2 ^ 100

/-- Two slots combined (R163): values modulo 2^96, flags ORed, the int bit that of the operation. -/
def slotAdd (isInt : Bool) (a b : Slot96) : Slot96 :=
  ⟨(a.v + b.v) % 2 ^ 96, a.nan || b.nan, a.pinf || b.pinf, a.ninf || b.ninf, a.range || b.range, isInt⟩

/-- p × 2^32 truncated toward zero and clamped as R161 says; whether p lay within the exact range. -/
def tallySubst (neg : Bool) (m : Nat) (e : Int) : Int × Bool :=
  -- magnitude in units of 2^-32
  let sh := e + 32
  let q := if 0 ≤ sh then m <<< sh.toNat else m >>> (-sh).toNat
  let exact := if 0 ≤ sh then true else m % 2 ^ (-sh).toNat == 0
  let lim := 2 ^ 94
  let inside := exact && decide (q < lim)
  (sgnInt neg (if q < lim then q else lim - 1), inside)

/-- A mode 3 product added to a slot (R159, R161). -/
def slotAddProd (s : Slot96) (p : Num) : Slot96 :=
  match p with
  | .nan => { s with nan := true, isInt := false }
  | .inf neg => if neg then { s with ninf := true, isInt := false } else { s with pinf := true, isInt := false }
  | .fin neg m e =>
    let r := tallySubst neg m e
    { s with v := wrapInt 96 (s.v + r.1), range := s.range || !r.2, isInt := false }

/-- A mode 5 product added to a slot (R160). -/
def slotAddInt (s : Slot96) (p : Int) : Slot96 := { s with v := wrapInt 96 (s.v + p), isInt := true }

/-- The value a slot converts from (R166): the flags decide first, then the exact value that int selects. -/
def slotNum (s : Slot96) : Num :=
  if s.nan || (s.pinf && s.ninf) then .nan
  else if s.pinf then .inf false
  else if s.ninf then .inf true
  else
    let v := signedOf 96 s.v
    .fin (decide (v < 0)) v.natAbs (if s.isInt then 0 else -32)

/-- The flag marker of exchange form (R165). -/
def exchMarker : Nat := 2 ^ 95

/-- A slot packed into exchange form (R165). -/
def slotPack (s : Slot96) : Nat := if s.nan || s.pinf || s.ninf then exchMarker else s.v % 2 ^ 96

/-- An exchange value unpacked (R165); the unpacking operation sets the int bit. -/
def slotUnpack (isInt : Bool) (x : Nat) : Slot96 :=
  if x % 2 ^ 96 = exchMarker then ⟨0, true, false, false, false, isInt⟩ else ⟨x % 2 ^ 96, false, false, false, false, isInt⟩

/-- Two exchange values combined (R165). -/
def exchAdd (a b : Nat) : Nat :=
  if a % 2 ^ 96 = exchMarker || b % 2 ^ 96 = exchMarker then exchMarker else (a + b) % 2 ^ 96

/-- Whether every value is −0. -/
def allNegZero (ps : List Num) : Bool := ps.all (fun p => numIsZero p && numNeg p)

/-- A magnitude truncated to a multiple of 2^lo (R154). -/
def truncTo (lo : Int) (p : Num) : Num :=
  match p with
  | .fin s m e => if lo ≤ e then .fin s m e else .fin s (m >>> (lo - e).toNat) lo
  | x => x

/-- The group adder (R154): one group's result, an FP32 value. -/
def groupSum (ps : List Num) : Num :=
  if ps.any numIsNan || (ps.contains (.inf false) && ps.contains (.inf true)) then .nan
  else if ps.contains (.inf false) then .inf false
  else if ps.contains (.inf true) then .inf true
  else if allNegZero ps then .fin true 0 0
  else
    match maxLog2 ps with
    | none => .zero
    | some emax =>
      let s := numSum (ps.map (truncTo (emax - 39)))
      if numIsZero s then .zero else rnd32 s

/-- A list cut into groups of `n`; the number of groups bounds the recursion. -/
def chunksGo {α : Type} (n : Nat) : Nat → List α → List (List α)
  | 0, _ => []
  | k + 1, l => l.take n :: chunksGo n k (l.drop n)

/-- A list cut into groups of `n`, the last one short where the length is no multiple (R125). -/
def chunks {α : Type} (n : Nat) (l : List α) : List (List α) := chunksGo n (ceilDiv l.length n) l

/-- Modes 0 to 2 without blocks: the prior value, then each group in ascending k (R125, R155). -/
def accGroups (g : Nat) (prior : Num) (ps : List Num) : Num :=
  (chunks g ps).foldl (fun acc grp => rnd32 (numAdd acc (groupSum grp))) prior

/-- One MX block onto the running value (R156): the exact sum of the element products times both scales, one rounding. -/
def accBlock (acc : Num) (b : List Num × Num × Num) : Num :=
  rnd32 (numAdd acc (numMul (numMul (numSum b.1) b.2.1) b.2.2))

/-- A product of two values as an integer, for the integer classes. -/
def prodInt (p : Num) : Int :=
  match p with
  | .fin s m e => sgnInt s (m <<< e.toNat)
  | _ => 0

/-- The count of a 48-bit counter with sticky overflow in bit 63 raised by `n` (R105, R246). -/
def ctrAdd (w : Word64) (n : Nat) : Word64 :=
  let c := w.toNat % 2 ^ 48 + n
  let ovf := bitOf w.toNat 63 || decide (c ≥ 2 ^ 48)
  BitVec.ofNat 64 (c % 2 ^ 48 + b2n ovf * 2 ^ 63)

/-- A saturating 16-bit sync counter increment (R219): the new value and whether it overflowed. -/
def sincr (v : Word16) (n : Nat) : Word16 × Bool :=
  if v.toNat + n > 65535 then (65535, true) else (BitVec.ofNat 16 (v.toNat + n), false)

end Sys2Proof.Machine
end

