-- ==== Sys2Proof/Machine/Tile.lean ====
section
/-! DEFINITION. How rows of elements lie in tiles, memory and streamed regions (03 R80, 04 R115 to R117, 09 R265), and
conversion of whole rows. -/

namespace Sys2Proof.Machine

/-- Bytes of `n` packed elements of a format, scales not counted (R80). -/
def elemBytes (fmt n : Nat) : Nat := ceilDiv (n * fmtBits fmt) 8

/-- The row payload: packed elements and, in an MX format, one scale byte per 32 elements (R80). -/
def rowPayload (fmt n : Nat) : Nat := elemBytes fmt n + (if fmtIsMx fmt then n / 32 else 0)

/-- The row stride of a tile: the payload rounded up to a multiple of 16 bytes (R80). -/
def rowStride (fmt n : Nat) : Nat := roundUp (rowPayload fmt n) 16

/-- Element `e` of a row held as a little-endian number (R80). -/
def elemAt (fmt row e : Nat) : Nat := (row >>> (e * fmtBits fmt)) % 2 ^ fmtBits fmt

/-- The codes of the `n` elements of a row. -/
def elemsOf (fmt n row : Nat) : List Nat := (List.range n).map (elemAt fmt row)

/-- Codes packed from bit 0 on, `w` bits each. -/
def packCodes (w : Nat) : List Nat → Nat
  | [] => 0
  | c :: cs => c % 2 ^ w + 2 ^ w * packCodes w cs

/-- The value of an element with its block scale, exact (R142). -/
def elemVal (fmt : Nat) (scale code : Nat) : Num :=
  if fmtIsMx fmt then numMul (decodeElem fmt code) (decodeScale scale) else decodeElem fmt code

/-- The exact values of a packed row of `n` elements (R80, R142). A Tally row reads through its slots (R158, R166). -/
def rowVals (fmt n : Nat) (bs : List Byte) : List Num :=
  if fmt = 13 then (List.range n).map (fun e => slotNum (slotOf (fieldAt bs (16 * e) 16)))
  else
    let row := leNat bs
    let eb := elemBytes fmt n
    (List.range n).map (fun e =>
      elemVal fmt (if fmtIsMx fmt then (bs.getD (eb + e / 32) 0).toNat else 0) (elemAt fmt row e))

/-- Values with their Mint words packed into a row of a format: the elements, then the block scales (R80, R152). -/
def packRow (fmt : Nat) (xs : List (Num × Nat)) (rnd : Rnd) : List Byte :=
  if fmtIsMx fmt then
    let bl := (chunks 32 xs).map (fun b => encodeMxBlock fmt b rnd)
    leBytes (elemBytes fmt xs.length) (packCodes (fmtBits fmt) (bl.flatMap Prod.snd)) ++ bl.map (fun b => BitVec.ofNat 8 b.1)
  else leBytes (elemBytes fmt xs.length) (packCodes (fmtBits fmt) (xs.map (fun x => encodeElem fmt x.1 rnd x.2)))

/-- The class of a stationary or streamed format (R87), coded as byte 1 of R139: 0 F8, 1 MX8, 2 MX4, 3 I8, 4 I4, 5 BF, 6 HF. -/
def fmtClass (fmt : Nat) : Option Nat :=
  match fmt with
  | 1 => some 5
  | 2 => some 6
  | 3 => some 0
  | 4 => some 0
  | 5 => some 1
  | 6 => some 1
  | 7 => some 1
  | 8 => some 1
  | 9 => some 2
  | 10 => some 3
  | 11 => some 3
  | 12 => some 4
  | _ => none

/-- The factor d of a class (R87). -/
def classD (c : Nat) : Nat := if c = 2 || c = 4 then 2 else 1

/-- Whether an accumulation mode is listed for a class (R87). -/
def classMode (c acc : Nat) : Bool :=
  if c = 0 then acc ≤ 3
  else if c = 3 || c = 4 then acc == 4 || acc == 5
  else acc ≤ 2

/-- Bytes of the element section of a streamed line (R115). -/
def lineElems (fmt : Nat) : Nat :=
  match fmt with
  | 1 => 128
  | 2 => 128
  | 7 => 48
  | 8 => 48
  | _ => 64

/-- Bytes of a streamed line (R115). -/
def lineBytes (fmt : Nat) : Nat := lineElems fmt + (if fmtIsMx fmt then 16 else 0)

/-- Bits that one array row takes of a line: d elements. -/
def lineStep (fmt : Nat) : Nat := if fmt = 9 || fmt = 12 then 8 else if fmt = 7 || fmt = 8 then 6 else if fmt = 1 || fmt = 2 then 16 else 8

/-- Bit offset of streamed element S[m][k] in its line (R116). -/
def lineBit (fmt d k : Nat) : Nat := lineStep fmt * (k / d) + (k % d) * fmtBits fmt

/-- The line that holds array-row position i of streamed row m (R116). -/
def lineOf (mRows m i : Nat) : Nat := (m + i) % mRows

/-- The code of streamed element S[m][k] of a region given as bytes (R116). -/
def streamElem (fmt mRows : Nat) (region : List Byte) (m k : Nat) : Nat :=
  let d := if fmt = 9 || fmt = 12 then 2 else 1
  let line := slice region (lineOf mRows m (k / d) * lineBytes fmt) (lineElems fmt)
  (leNat line >>> lineBit fmt d k) % 2 ^ fmtBits fmt

/-- The line that holds the block scale b of streamed row m (R117). -/
def scaleLine (fmt mRows m b : Nat) : Nat :=
  let d := if fmt = 9 then 2 else 1
  (m + 32 * (b + 1) / d - 1) % mRows

/-- The block scale b of streamed row m (R117). -/
def streamScale (fmt mRows : Nat) (region : List Byte) (m b : Nat) : Nat :=
  (region.getD (scaleLine fmt mRows m b * lineBytes fmt + lineElems fmt + b) 0).toNat

/-- W[k][n] of a set, as a code, with the tile row and element MLD takes it from (R108). -/
def statElem (st : StatSet) (k n : Nat) : Nat :=
  let stride := rowStride st.fmt st.elems
  let r := if st.turn then n else k
  let e := if st.turn then k else n
  elemAt st.fmt (leNat (slice st.data (r * stride) stride)) e

/-- The block scale of W for column n and block b (R108). -/
def statScale (st : StatSet) (n b : Nat) : Nat :=
  let stride := rowStride st.fmt st.elems
  (st.data.getD (n * stride + elemBytes st.fmt st.elems + b) 0).toNat

end Sys2Proof.Machine
end

