-- ==== Sys2Proof/Machine/Operands.lean ====
section
/-! DEFINITION. Every operand form of a bundle: the slot encodings (02 R19 to R36), the static form of a slot (R41), which tile
registers a slot names (R42), and which operands a V fn uses (07 R198 to R210, R645). -/

namespace Sys2Proof.Machine

/-- A bundle from its 64 bytes: byte k holds bits [511 − 8k : 504 − 8k] (R20). -/
def bundleOfBytes (bs : List Byte) : BundleBits := BitVec.ofNat 512 (bs.foldl (fun v b => v * 256 + b.toNat) 0)

/-- The header word (R19, R22). -/
def bHeader (b : Nat) : Nat := bitsOf b 511 480
def bM (b : Nat) : Nat := bitsOf b 479 384
def bV (b : Nat) : Nat := bitsOf b 383 288
def bT (b : Nat) : Nat := bitsOf b 287 224
def bX (b : Nat) : Nat := bitsOf b 223 160
def bS (b : Nat) : Nat := bitsOf b 159 112
def bC (b : Nat) : Nat := bitsOf b 111 48

/-- bver (R22). -/
def bVer (b : Nat) : Nat := bitsOf b 511 508
/-- drain (R22). -/
def bDrain (b : Nat) : Bool := bitOf b 507
/-- idx12 (R22). -/
def bIdx12 (b : Nat) : Nat := bitsOf b 506 495

/-- A field of a slot as a bit vector of its width. -/
def fld (w : Nat) (v hi lo : Nat) : BitVec w := BitVec.ofNat w (bitsOf v hi lo)

/-- Predicate and done of a 96-bit slot (R23). -/
def hdr96 (v : Nat) : Hdr := ⟨fld 4 v 91 88, fld 6 v 87 82⟩
/-- Predicate and done of a T or X slot (R23). -/
def hdr64 (v : Nat) : Hdr := ⟨fld 4 v 59 56, fld 6 v 55 50⟩

/-- The M slot (R27); none for an undefined opcode. -/
def decM (v : Nat) : Option MOp :=
  match bitsOf v 95 92 with
  | 0 => some .nop
  | 1 => some (.mld (fld 5 v 81 77) (fld 4 v 76 73) (bitOf v 72))
  | 2 => some .mswap
  | 3 => some (.mmul false (fld 4 v 81 78) (fld 16 v 77 62) (fld 11 v 61 51) (fld 11 v 50 40) (fld 4 v 39 36) (fld 3 v 35 33)
      (fld 6 v 32 27) (fld 6 v 26 21) (bitOf v 20) (fld 4 v 19 16))
  | 4 => some (.mmul true (fld 4 v 81 78) (fld 16 v 77 62) (fld 11 v 61 51) (fld 11 v 50 40) (fld 4 v 39 36) (fld 3 v 35 33)
      (fld 6 v 32 27) (fld 6 v 26 21) (bitOf v 20) (fld 4 v 19 16))
  | 5 => some (.mdrain (fld 11 v 81 71) (fld 11 v 70 60) (fld 5 v 59 55) (fld 4 v 54 51) (fld 3 v 50 48) (fld 2 v 47 46)
      (fld 4 v 45 42) (fld 16 v 41 26) (fld 2 v 25 24))
  | 6 => some (.mtopk (fld 11 v 81 71) (fld 11 v 70 60) (fld 5 v 59 55) (fld 4 v 54 51) (fld 5 v 50 46) (fld 4 v 45 42)
      (fld 4 v 41 38) (fld 24 v 37 14) (fld 2 v 13 12))
  | _ => none

/-- How many low bits of an M slot are keep-zero, by opcode (R27). -/
def keepM (op : Nat) : Nat := match op with
  | 0 => 96 | 1 => 72 | 2 => 82 | 3 => 16 | 4 => 16 | 5 => 24 | 6 => 12 | _ => 0

/-- The V slot's opcode (R28). -/
def decVop (v : Nat) : Option VOpc :=
  match bitsOf v 95 92 with
  | 0 => some .vnop | 1 => some .vop | 2 => some .vcvt | 3 => some .vred | 4 => some .vscale | 5 => some .vrq
  | 6 => some .vfn | 7 => some .vsr | 8 => some .vadam | _ => none

/-- The V slot's operands (R28). -/
def decVargs (v : Nat) : VArgs :=
  ⟨fld 5 v 81 77, fld 4 v 76 73, fld 5 v 72 68, fld 4 v 67 64, fld 5 v 63 59, fld 4 v 58 55, fld 5 v 54 50, fld 4 v 49 46,
   fld 8 v 45 38, fld 2 v 37 36, fld 4 v 35 32, fld 32 v 31 0⟩

/-- The T slot (R30). -/
def decT (v : Nat) : Option TOp :=
  match bitsOf v 63 60 with
  | 0 => some .nop
  | 1 => some (.tcfg (fld 5 v 49 45) (fld 4 v 44 41) (fld 6 v 40 35) (fld 10 v 34 25) (fld 4 v 24 21))
  | 2 => some (.tld (fld 5 v 49 45) (fld 4 v 44 41) (fld 4 v 40 37) (fld 16 v 36 21) (fld 12 v 20 9))
  | 3 => some (.tst (fld 5 v 49 45) (fld 4 v 44 41) (fld 4 v 40 37) (fld 16 v 36 21) (fld 12 v 20 9))
  | 4 => some (.tmov (fld 5 v 49 45) (fld 4 v 44 41) (fld 5 v 40 36) (fld 4 v 35 32))
  | 5 => some (.tzero (fld 5 v 49 45) (fld 4 v 44 41))
  | 6 => some (.txp (fld 5 v 49 45) (fld 4 v 44 41) (fld 5 v 40 36) (fld 4 v 35 32))
  | _ => none

/-- Keep-zero low bits of a T slot (R30). -/
def keepT (op : Nat) : Nat := match op with
  | 0 => 64 | 1 => 21 | 2 => 9 | 3 => 9 | 4 => 32 | 5 => 41 | 6 => 32 | _ => 0

/-- The X slot (R31). -/
def decX (v : Nat) : Option XOp :=
  match bitsOf v 63 60 with
  | 0 => some .nop
  | 1 => some (.xloc (fld 4 v 49 46) (fld 16 v 45 30))
  | 2 => some (.xstr (fld 4 v 49 46) (fld 16 v 45 30) (fld 14 v 29 16))
  | 3 => some (.xcol (fld 4 v 49 46) (fld 16 v 45 30) (fld 14 v 29 16))
  | 4 => some (.xwatch (fld 4 v 49 46) (fld 16 v 45 30))
  | 5 => some (.xfence (bitOf v 49) (bitOf v 48) (bitOf v 47) (bitOf v 46))
  | _ => none

/-- Keep-zero low bits of an X slot (R31). -/
def keepX (op : Nat) : Nat := match op with
  | 0 => 64 | 1 => 30 | 2 => 16 | 3 => 16 | 4 => 30 | 5 => 46 | _ => 0

/-- The S slot (R33). -/
def decS (v : Nat) : Option SOp :=
  match bitsOf v 47 44 with
  | 0 => some .nop
  | 1 => some (.sinc (fld 6 v 39 34) (fld 16 v 33 18))
  | 2 => some (.swait (fld 6 v 39 34) (fld 16 v 33 18))
  | 3 => some (.sdec (fld 6 v 39 34) (fld 16 v 33 18))
  | 4 => some (.ssig (fld 4 v 39 36) (fld 16 v 35 20))
  | 5 => some (.sbar (fld 9 v 39 31) (fld 16 v 30 15))
  | _ => none

/-- Keep-zero low bits of an S slot (R33). -/
def keepS (op : Nat) : Nat := match op with
  | 0 => 48 | 1 => 18 | 2 => 18 | 3 => 18 | 4 => 20 | 5 => 15 | _ => 0

/-- The C slot (R34). -/
def decC (v : Nat) : Option COp :=
  match bitsOf v 63 60 with
  | 0 => some .nop
  | 1 => some (.cloop (bitOf v 55) (fld 4 v 54 51) (fld 16 v 50 35) (fld 16 v 34 19))
  | 2 => some (.cbr (fld 10 v 55 46))
  | 3 => some (.cvar (fld 2 v 55 54) (fld 6 v 53 48))
  | 4 => some (.cadd (fld 4 v 55 52) (fld 4 v 51 48) (fld 32 v 47 16))
  | 5 => if bitOf v 55 then some (.csetPred (fld 4 v 54 51) (fld 3 v 50 48) (fld 3 v 47 45) (fld 32 v 44 13))
         else some (.csetReg (fld 4 v 54 51) (fld 3 v 50 48) (fld 32 v 47 16))
  | 6 => some (.cmark (fld 4 v 55 52) (fld 32 v 51 20))
  | 7 => some (.chalt (fld 16 v 55 40))
  | _ => none

/-- Keep-zero low bits of a C slot (R34). -/
def keepC (v : Nat) : Nat := match bitsOf v 63 60 with
  | 0 => 64 | 1 => 19 | 2 => 46 | 3 => 48 | 4 => 16 | 5 => if bitOf v 55 then 13 else 16 | 6 => 20 | 7 => 40 | _ => 0

/-- The slots of a bundle; none when an opcode is undefined. -/
def decodeSlots (b : Nat) : Option Slots :=
  match decM (bM b), decVop (bV b), decT (bT b), decX (bX b), decS (bS b), decC (bC b) with
  | some m, some v, some t, some x, some s, some c =>
    some { m := m, mh := hdr96 (bM b), vop := v, v := decVargs (bV b), vh := hdr96 (bV b), t := t, th := hdr64 (bT b),
           x := x, xh := hdr64 (bX b), s := s, sp := fld 4 (bS b) 43 40, c := c, cp := fld 4 (bC b) 59 56 }
  | _, _, _, _, _, _ => none

/-- Whether the low `n` bits of a slot hold a one. -/
def lowBits (v n : Nat) : Bool := v % 2 ^ n != 0

/-- A set keep-zero bit of the bundle: header, tail, or a slot with a defined opcode (R22, R25, R27 to R34). -/
def keepZeroBad (b : Nat) : Bool :=
  lowBits (bHeader b) 15 || lowBits b 48 || lowBits (bM b) (keepM (bitsOf (bM b) 95 92))
  || (bitsOf (bV b) 95 92 == 0 && bV b != 0) || lowBits (bT b) (keepT (bitsOf (bT b) 63 60))
  || lowBits (bX b) (keepX (bitsOf (bX b) 63 60)) || lowBits (bS b) (keepS (bitsOf (bS b) 47 44)) || lowBits (bC b) (keepC (bC b))

/-- Which operand fields a V operation uses: destination, A, B, C, immediate. -/
structure VUse where
  d : Bool
  a : Bool
  b : Bool
  c : Bool
  imm : Bool
  deriving DecidableEq, Repr

/-- The operands of each fn (R198 to R210); none for an fn that no table lists. -/
def vUse (op : VOpc) (fn : Nat) : Option VUse :=
  match op with
  | .vnop => none
  | .vop =>
    match fn with
    | 0x00 => some ⟨true, true, true, false, false⟩
    | 0x01 => some ⟨true, true, true, false, false⟩
    | 0x02 => some ⟨true, true, true, false, false⟩
    | 0x03 => some ⟨true, true, true, true, false⟩
    | 0x04 => some ⟨true, true, true, false, false⟩
    | 0x05 => some ⟨true, true, true, false, false⟩
    | 0x06 => some ⟨true, true, true, false, false⟩
    | 0x07 => some ⟨true, true, false, false, false⟩
    | 0x08 => some ⟨true, true, false, false, false⟩
    | 0x09 => some ⟨true, true, true, true, false⟩
    | 0x0A => some ⟨true, true, true, false, false⟩
    | 0x0B => some ⟨true, true, true, false, false⟩
    | 0x0C => some ⟨true, true, false, false, true⟩
    | 0x0D => some ⟨true, true, false, false, true⟩
    | 0x0E => some ⟨true, true, true, true, false⟩
    | 0x0F => some ⟨true, true, false, false, true⟩
    | _ => none
  | .vcvt => if fn = 0 then some ⟨true, true, false, false, false⟩ else if fn = 1 then some ⟨true, true, false, false, true⟩ else none
  | .vred => if fn ≤ 5 then some ⟨true, true, false, false, false⟩ else if fn ≤ 7 then some ⟨true, true, true, false, false⟩ else none
  | .vscale => if fn = 0 then some ⟨true, true, false, false, false⟩ else if fn = 1 then some ⟨true, true, true, false, false⟩ else none
  | .vrq => if fn = 0 then some ⟨true, true, true, false, false⟩ else none
  | .vfn => if fn ≤ 0x0D then some ⟨true, true, false, false, false⟩ else none
  | .vsr => if fn = 0 then some ⟨false, false, false, false, true⟩ else if fn = 1 then some ⟨true, false, false, false, false⟩ else none
  | .vadam => if fn = 0 then some ⟨true, true, true, true, true⟩ else none

/-- Whether a V operation rounds a value, and so uses the rounding field (R29, R645): not VSR, which moves whole words, nor VRED
TOPKP, which moves positions, nor VSCALE fn 0x00, whose scales R180 and R182 fix. -/
def vRounds (op : VOpc) (fn : Nat) : Bool :=
  match op with
  | .vsr => false
  | .vred => fn != 7
  | .vscale => fn != 0
  | _ => true

/-- Whether a V slot's own bits break a rule (R29, R645, R199, R208, R210). -/
def vBad (op : VOpc) (v : VArgs) : Bool :=
  if op = .vnop then false
  else
    match vUse op v.fn.toNat with
    | none => true
    | some u =>
      (!u.d && (v.dst != 0 || v.dtag != 0 || v.fmt != 0)) || (!vRounds op v.fn.toNat && v.rnd != 0) || (!u.a && (v.a != 0 || v.atag != 0))
      || (!u.b && (v.b != 0 || v.btag != 0)) || (!u.c && (v.c != 0 || v.ctag != 0)) || (!u.imm && v.imm != 0)
      || (op == .vcvt && v.fn == 1 &&
            (decide (v.imm.toNat ≥ 2 ^ 16) || decide ((signedOf 16 v.imm.toNat).natAbs > 255)))
      || (op == .vsr && v.fn == 0 && decide (v.imm.toNat ≥ 2 ^ 8))
      || (op == .vadam && decide (v.imm.toNat ≥ 2 ^ 4))

/-- A done field outside its range (R24). -/
def doneBad (h : Hdr) : Bool := 48 ≤ h.done.toNat && h.done.toNat ≤ 62

/-- Accumulator rows available to a source kind or accumulation mode: Tally rows or FP32 rows (R27). -/
def accRows (tally : Bool) : Nat := if tally then 512 else 2048

/-- Whether an accumulation mode counts Tally rows (R27). -/
def accTally (acc : BitVec 3) : Bool := acc == 3 || acc == 5

/-- Whether an M slot's own bits break a range (R24, R27, R71). -/
def mBad (m : MOp) (h : Hdr) : Bool :=
  match m with
  | .nop => false
  | .mld _ _ _ => doneBad h
  | .mswap => doneBad h
  | .mmul _ _ _ rows1 dest _ acc _ _ _ _ =>
    doneBad h || decide (acc.toNat > 5) || decide (dest.toNat + rows1.toNat + 1 > accRows (accTally acc))
  | .mdrain first rows1 _ _ mode _ _ _ kind =>
    doneBad h || kind == 3 || decide (mode.toNat > 2) || decide (first.toNat + rows1.toNat + 1 > accRows (kind == 2))
  | .mtopk first rows1 _ _ _ _ _ _ kind =>
    doneBad h || kind == 3 || decide (first.toNat + rows1.toNat + 1 > accRows (kind == 2))

/-- Whether a T slot's own bits break a range (R24, R81). -/
def tBad (t : TOp) (h : Hdr) : Bool :=
  match t with
  | .nop => false
  | .tcfg _ tag _ _ _ => doneBad h || tag == 0
  | _ => doneBad h

/-- Whether an X slot's own bits break a range (R24, R32). -/
def xBad (x : XOp) (h : Hdr) : Bool :=
  match x with
  | .nop => false
  | .xfence a b c d => doneBad h || (!a && !b && !c && !d)
  | _ => doneBad h

/-- Whether an S slot's own bits break a range (R33). -/
def sBad (s : SOp) : Bool :=
  match s with
  | .sinc c _ => decide (c.toNat ≥ 48)
  | .swait c _ => decide (c.toNat ≥ 48)
  | .sdec c _ => decide (c.toNat ≥ 48)
  | _ => false

/-- Whether a C slot's own bits break a range (R34, R35, R63). -/
def cBad (c : COp) : Bool :=
  match c with
  | .cloop fromReg _ count1 _ => fromReg && count1 != 0
  | .cbr n => n == 0
  | .cvar mode _ => mode == 3
  | .csetPred areg cmp _ _ => decide (cmp.toNat ≥ 6) && areg != 0
  | .cmark kind _ => decide (kind.toNat ≥ 3)
  | _ => false

/-- Whether a field value lies outside its range, in any slot (R41: whatever the predicates). -/
def operandBad (s : Slots) : Bool :=
  mBad s.m s.mh || (s.vop != .vnop && doneBad s.vh) || vBad s.vop s.v || tBad s.t s.th || xBad s.x s.xh || sBad s.s || cBad s.c

/-- Whether a loop body is streamed (R52, R53). -/
def cStreamed (c : COp) : Bool :=
  match c with
  | .cloop _ _ _ body1 => decide (body1.toNat + 1 > 1024)
  | _ => false

/-- Whether a C operation is uniform (R36). -/
def cUniform (c : COp) : Bool :=
  match c with
  | .cvar _ _ => true
  | .chalt _ => true
  | .cmark kind _ => kind == 1 || kind == 2
  | c => cStreamed c

/-- A breach of the uniform rules (R36, R53). -/
def uniformBad (s : Slots) : Bool :=
  (cUniform s.c && s.cp != 0) || (match s.c with | .cloop fromReg _ _ _ => fromReg && cStreamed s.c | _ => false)

/-- The fault codes the stream raises (R71, R85, R191, R214, R245, R284). -/
def cBundleVersion : Word16 := 0x1001
def cBundleKeepzero : Word16 := 0x1002
def cBundleOpcode : Word16 := 0x1003
def cBundleOperand : Word16 := 0x1004
def cBundleHazard : Word16 := 0x1005
def cBundleUniform : Word16 := 0x1006
def cCtrlForm : Word16 := 0x1007
def cVariantMissing : Word16 := 0x1008
def cSeqFetch : Word16 := 0x1009
def cHaltTimeout : Word16 := 0x100A
def cTileShape : Word16 := 0x1011
def cTileDim : Word16 := 0x1012
def cTileFormat : Word16 := 0x1013
def cPoisonConsumed : Word16 := 0x1020

/-- The static form of a bundle in the order of R39 step 2: version, keep-zero, opcodes, operand ranges, uniform predicates.
None when the form holds. -/
def staticForm (b : Nat) : Option Word16 :=
  if bVer b ≠ 1 then some cBundleVersion
  else if keepZeroBad b then some cBundleKeepzero
  else
    match decodeSlots b with
    | none => some cBundleOpcode
    | some s =>
      if operandBad s then some cBundleOperand else if uniformBad s then some cBundleUniform else none

/-- A tile register that a slot names: its number, the tag expected, and whether it is written. -/
structure TUse where
  tile : Nat
  tag : Nat
  write : Bool
  deriving DecidableEq, Repr

/-- The tile registers an M slot names, in field order (R27). -/
def mUses (m : MOp) : List TUse :=
  match m with
  | .mld t g _ => [⟨t.toNat, g.toNat, false⟩]
  | .mdrain _ _ t g _ _ _ _ _ => [⟨t.toNat, g.toNat, true⟩]
  | .mtopk _ _ vt vg pt pg _ _ _ => [⟨vt.toNat, vg.toNat, true⟩, ⟨pt.toNat, pg.toNat, true⟩]
  | _ => []

/-- The tile registers a V slot names, in field order (R28, R29). -/
def vUses (op : VOpc) (v : VArgs) : List TUse :=
  match vUse op v.fn.toNat with
  | none => []
  | some u =>
    (if u.d then [⟨v.dst.toNat, v.dtag.toNat, true⟩] else []) ++ (if u.a then [⟨v.a.toNat, v.atag.toNat, false⟩] else [])
    ++ (if u.b then [⟨v.b.toNat, v.btag.toNat, op == .vadam⟩] else [])
    ++ (if u.c then [⟨v.c.toNat, v.ctag.toNat, op == .vadam⟩] else [])

/-- The tile registers a T slot names, in field order (R30); TCFG counts as a write (R82). -/
def tUses (t : TOp) : List TUse :=
  match t with
  | .nop => []
  | .tcfg t g _ _ _ => [⟨t.toNat, g.toNat, true⟩]
  | .tld t g _ _ _ => [⟨t.toNat, g.toNat, true⟩]
  | .tst t g _ _ _ => [⟨t.toNat, g.toNat, false⟩]
  | .tmov d dg s sg => [⟨d.toNat, dg.toNat, true⟩, ⟨s.toNat, sg.toNat, false⟩]
  | .tzero t g => [⟨t.toNat, g.toNat, true⟩]
  | .txp d dg s sg => [⟨d.toNat, dg.toNat, true⟩, ⟨s.toNat, sg.toNat, false⟩]

/-- The uses of an in-flight operation. -/
def bodyUses (b : OpBody) : List TUse :=
  match b with
  | .m o => mUses o
  | .v o a => vUses o a
  | .t o => tUses o

/-- Two lists of uses that clash: one register in both, written in at least one (R42). -/
def usesClash (xs ys : List TUse) : Bool :=
  xs.any (fun x => ys.any (fun y => x.tile == y.tile && (x.write || y.write)))

/-- Sign extension of a 32-bit immediate (R34). -/
def sext32 (v : BitVec 32) : Word64 := v.signExtend 64

/-- Whether a predicate field lets its slot execute (R26). -/
def predTrue (p : SMap Bool) (f : BitVec 4) : Bool :=
  let n := f.toNat % 8
  let v := if n = 0 then true else smGet false p n
  v != bitOf f.toNat 3

end Sys2Proof.Machine
end

