-- ==== Sys2Proof/Machine/Quant.lean ====
section
/-! DEFINITION. Per-row dynamic scales and per-channel requantisation (06 R179 to R189), shared by MDRAIN, the vector unit and
the LCU. -/

namespace Sys2Proof.Machine

/-- The largest magnitude of a row of finite values (R179). -/
def rowMax (xs : List Num) : Num := xs.foldl (fun a x => if numLt a (numAbs x) then numAbs x else a) .zero

/-- Whether a row is special: it holds a NaN or an infinity (R179). -/
def rowSpecial (xs : List Num) : Bool := xs.any (fun x => numIsNan x || numIsInf x)

/-- Fmax of an FP8 target (R180). -/
def fmaxOf (fmt : Nat) : Num := if fmt = 3 then .fin false 448 0 else .fin false 57344 0

/-- The smallest integer s with a × 2^-s at most Fmax, for a non-zero (R180). -/
def scaleExp (fmt : Nat) (a : Num) : Int :=
  match a with
  | .fin _ m e =>
    -- Fmax is 1.75 × 2^t: t = 8 for E4M3, 15 for E5M2
    let t : Int := if fmt = 3 then 8 else 15
    let s0 := magLog2 m e - t
    if numLt (fmaxOf fmt) (numScale a (-s0)) then s0 + 1 else s0
  | _ => 0

/-- An FP8 row scale (R180): the exponent s, the scale byte and whether the clamp changed s (R181); none for a special row. -/
def rowScale8 (fmt : Nat) (smin smax : Int) (xs : List Num) : Option (Int × Bool) :=
  if rowSpecial xs then none
  else
    let a := rowMax xs
    if numIsZero a then some (smin, false)
    else
      let s := scaleExp fmt a
      let c := clampInt smin smax s
      some (c, c != s)

/-- The scale byte of a row (R180). A window register written with −128, outside R192's range, is kept, and s + 127 wraps to 0xFF (log
entry 105). -/
def scaleByte8 (r : Option (Int × Bool)) : Nat :=
  match r with
  | none => 0xFF
  | some (s, _) => wrapInt 8 (s + 127)

/-- The FP8 elements of a row under its scale (R180): values with their Mint words. -/
def scaleRow8 (fmt : Nat) (r : Option (Int × Bool)) (xs : List (Num × Nat)) (rnd : Rnd) : List Nat :=
  match r with
  | none => xs.map (fun _ => 0x7F)
  | some (s, _) => xs.map (fun x => encodeElem fmt (numScale x.1 (-s)) rnd x.2)

/-- Q of an integer target (R182). -/
def qOf (fmt : Nat) : Nat := if fmt = 12 then 7 else 127

/-- The FP32 scale value of an integer-target row (R182). -/
def rowScaleI (fmt : Nat) (xs : List Num) : Nat :=
  if rowSpecial xs then 0x7FC00000
  else
    let a := rowMax xs
    if numIsZero a then 0 else toF32 (numDiv a (.ofInt (qOf fmt)))

/-- The integer elements of a row (R182): exactly x × Q / a, rounded once. -/
def scaleRowI (fmt : Nat) (xs : List (Num × Nat)) (rnd : Rnd) : List Nat :=
  let vs := xs.map Prod.fst
  if rowSpecial vs then xs.map (fun _ => 0)
  else
    let a := rowMax vs
    if numIsZero a then xs.map (fun _ => 0)
    else xs.map (fun x => encodeElem fmt (numDiv (numMul x.1 (.ofInt (qOf fmt))) a) rnd x.2)

/-- An entry of a requantisation table (R186). -/
structure ReqEntry where
  mult : Int
  bias : Int
  sh : Nat
  zo : Nat
  /-- no keep-zero bit is set -/
  clean : Bool
  deriving DecidableEq, Repr

/-- The entry in 16 bytes (R186). -/
def reqEntry (bs : List Byte) : ReqEntry :=
  ⟨signedOf 32 (fieldAt bs 0 4), signedOf 32 (fieldAt bs 4 4), fieldAt bs 8 1 % 64, fieldAt bs 9 1,
   decide (fieldAt bs 8 1 < 64) && fieldAt bs 10 6 == 0⟩

/-- Whether the entry is permitted for the target (R186, R189). -/
def reqOk (fmt : Nat) (e : ReqEntry) : Bool :=
  e.clean && (if fmt = 3 then e.zo == 0 else if fmt = 12 then decide (e.zo < 16) else true)

/-- zo as an integer in the target format (R186). -/
def reqZo (fmt : Nat) (e : ReqEntry) : Int :=
  if fmt = 10 then signedOf 8 e.zo else if fmt = 12 then signedOf 4 e.zo else e.zo

/-- One requantised element (R188), as a code of the target. The sign of an E4M3 zero is free (log entry 40). -/
def requant (fmt : Nat) (e : ReqEntry) (x : Num) (rnd : Rnd) (w : Nat) : Nat :=
  let isInt := fmt != 3
  let nanRes := if isInt then wrapInt (fmtBits fmt) (reqZo fmt e) else canonNan 3
  let r := intRange fmt
  match x with
  | .nan => nanRes
  | .inf s =>
    if e.mult = 0 then nanRes
    else if isInt then
      -- a positive y gives the largest value, a negative y the least
      wrapInt (fmtBits fmt) (if s == decide (e.mult < 0) then r.2 else r.1)
    else encodeElem 3 (.inf (s != decide (e.mult < 0))) rnd w
  | x =>
    let y := numScale (numMul (numAdd x (.ofInt e.bias)) (.ofInt e.mult)) (-(e.sh : Int))
    if isInt then
      match y with
      | .fin s m ex => wrapInt (fmtBits fmt) (clampInt r.1 r.2 (roundInt s m ex rnd w + reqZo fmt e))
      | _ => nanRes
    else if numIsZero y then signBit fmtE4m3 (Config.reqZeroNeg e.mult e.bias (numNeg x))
    else encodeElem 3 y rnd w

end Sys2Proof.Machine
end

