-- ==== Sys2Proof/Machine/Ops.lean ====
section
/-! DEFINITION. The named operations that the meanings share: cores and registers, counters, the Ledger's input with the host's
event entries, TC0 messages, sync counters, and taking a fault: JOB_FATAL, CONTAINED and DEVICE_FATAL (14 R426 to R430). -/

namespace Sys2Proof.Machine

/-! ### Cores, registers, time -/

/-- Enabled cores (R2). -/
def nCores (s : State) : Nat := if s.part832 then 832 else 896

/-- Whether a core with this logical ID is enabled (R4, R76). -/
def coreOk (s : State) (i : Nat) : Bool := decide (i < nCores s)

/-- The core with a logical ID. -/
def getCore (s : State) (i : Nat) : Core := smGet Core.init s.cores i

/-- A core replaced. -/
def setCore (s : State) (i : Nat) (c : Core) : State := { s with cores := smSet Core.init s.cores i c }

/-- A core changed. -/
def modCore (s : State) (i : Nat) (f : Core → Core) : State := setCore s i (f (getCore s i))

/-- A chip register that holds a value. -/
def reg (s : State) (a : Nat) : Word64 := smGet 0 s.regs a

/-- A chip register set. -/
def setReg (s : State) (a : Nat) (v : Word64) : State := { s with regs := smSet 0 s.regs a v }

/-- A field of a chip register as a number. -/
def regF (s : State) (a hi lo : Nat) : Nat := bitsOf (reg s a).toNat hi lo

/-- A number with the bits [hi:lo] replaced. -/
def putBits (v hi lo x : Nat) : Nat :=
  let w := 2 ^ (hi + 1 - lo)
  v % 2 ^ lo + (x % w) * 2 ^ lo + v / 2 ^ (hi + 1) * 2 ^ (hi + 1)

/-- A field of a chip register set. -/
def setRegF (s : State) (a hi lo x : Nat) : State := setReg s a (BitVec.ofNat 64 (putBits (reg s a).toNat hi lo x))

/-- A 48-bit counter advanced, with its sticky overflow bit (R105). -/
def bump (s : State) (a n : Nat) : State := if n = 0 then s else setReg s a (ctrAdd (reg s a) n)

/-- The 64-bit ns count of the time base: bits [95:32] of the accumulator (R582). -/
def now (s : State) : Nat := s.tim.acc / 2 ^ 32 % 2 ^ 64

/-- The same as a word. -/
def nowW (s : State) : Word64 := BitVec.ofNat 64 (now s)

/-- This module's device ID (R351). -/
def devId (s : State) : BitVec 14 := BitVec.ofNat 14 (regF s aFab 13 0)

/-- One free value drawn: the counter to apply the Config constant to, and the state with the counter advanced (log entry 2). -/
def draw (s : State) : Nat × State := (s.free, { s with free := s.free + 1 })

/-! ### Addresses (R287 to R293, R311) -/

/-- Where a local address lies (R287). -/
inductive Place where
  | gddr
  | cxl (k : Nat)
  | host
  | core (id off : Nat)
  | chip
  | hole
  deriving DecidableEq, Repr

/-- First address beyond GDDR7. -/
def gddrTop : Nat := 0x2000000000

/-- The range a local address falls in (R287). -/
def placeOf (a : Nat) : Place :=
  if a < gddrTop then .gddr
  else if a < 0x100000000000 then .hole
  else if a < 0x140000000000 then .cxl ((a - 0x100000000000) / 0x10000000000)
  else if a < 0x200000000000 then .hole
  else if a < 0x300000000000 then .host
  else if a < 0x3E0000000000 then .hole
  else if a < 0x3F0000000000 then .core ((a - 0x3E0000000000) / 0x400000) ((a - 0x3E0000000000) % 0x400000)
  else if a < 0x400000000000 then .chip
  else .hole

/-- The window table entry that covers a memory byte (R291, R293). -/
def wtIndex (a : Nat) : Nat :=
  match placeOf a with
  | .gddr => a / 0x200000
  | .cxl _ => 65536 + (a - 0x100000000000) / 0x40000000
  | _ => 69632 + (a - 0x200000000000) / 0x40000000

/-- Bytes of the granule that covers a memory byte (R291). -/
def granule (a : Nat) : Nat := if a < gddrTop then 0x200000 else 0x40000000

/-- Window table entry `i` (R292, R293). -/
def wtEntry (s : State) (i : Nat) : Nat := leNat (memReads s.mem.gddr (regF s aMemWtBase 45 16 * 0x10000 + 8 * i) 8)

/-- The entries that a run of `n` bytes from `a` touches, by their first bytes; the first argument bounds the count. -/
def granulesGo : Nat → Nat → Nat → List Nat
  | 0, _, _ => []
  | f + 1, a, e => if a < e then a :: granulesGo f ((a / granule a + 1) * granule a) e else []

/-- One address in each granule that the run touches. -/
def granulesOf (a n : Nat) : List Nat := granulesGo (n / 0x200000 + 2) a (a + n)

/-- The PCIe address of a host-window byte (R311). -/
def hostXlat (s : State) (a : Nat) : Nat := wtEntry s (wtIndex a) / 2 ^ 30 * 2 ^ 30 + a % 2 ^ 30

/-- Whether an envelope of the host window holds one of `n` bytes of host memory from `p` on (R277, R280). -/
def hostMeets (s : State) (p n : Nat) (w : Watch) : Bool :=
  (granulesOf w.lo (w.hi - w.lo)).any (fun g =>
    let e := min w.hi ((g / granule g + 1) * granule g)
    placeOf g == .host && decide (hostXlat s g < p + n) && decide (p < hostXlat s g + (e - g)))

/-- A write of host memory through the host port tears the envelopes it overlaps (R277, R280). -/
def hostTear (s : State) (p n : Nat) : State :=
  { s with mem := { s.mem with watch := s.mem.watch.map (fun w => if hostMeets s p n w then { w with torn := true } else w) } }

/-! ### Host completion entries (R556, R557, R572, R573) -/

/-- HOST_ registers of the chip and of queue pair n (R576). -/
def aHost : Nat := 0x3F0000F00000
def aHostCtrl : Nat := aHost + 0x08
def aHostSqBase (n : Nat) : Nat := aHost + 0x100 + n * 0x40
def aHostCqBase (n : Nat) : Nat := aHost + 0x108 + n * 0x40
def aHostQcfg (n : Nat) : Nat := aHost + 0x110 + n * 0x40
def aHostSqTail (n : Nat) : Nat := aHost + 0x118 + n * 0x40
def aHostCqHead (n : Nat) : Nat := aHost + 0x120 + n * 0x40
def aHostQstat (n : Nat) : Nat := aHost + 0x128 + n * 0x40

/-- Whether a queue pair is in use (R576). -/
def hostEn (s : State) (n : Nat) : Bool := regF s (aHostQcfg n) 0 0 == 1

/-- Entries of a queue pair's completion queue (R554). -/
def hostCqSize (s : State) (n : Nat) : Nat := 2 ^ regF s (aHostQcfg n) 8 5

/-- Whether an entry can be posted: the pair is in use, the link is up, the queue is not full (R557, R574). One entry stays
free, as head and tail alone tell a full queue (log entry 15). -/
def hostCanPost (s : State) (n : Nat) : Bool :=
  hostEn s n && s.host.width != 0 &&
  decide (((smGet HostQ.init s.host.q n).cqTail + 1) % hostCqSize s n ≠ regF s (aHostCqHead n) 11 0 % hostCqSize s n)

/-- A completion entry (R556). -/
def hostEntry (s : State) (n cid : Nat) (more : Bool) (status : Nat) (r0 r1 : Nat) : List Byte :=
  let q := smGet HostQ.init s.host.q n
  leBytes 2 cid ++ leBytes 1 n ++ leBytes 1 (b2n (!q.phase0) + 2 * b2n more) ++ leBytes 2 q.sqHead ++ leBytes 2 status ++
  leBytes 8 r0 ++ leBytes 8 r1 ++ leBytes 8 (now s)

/-- An MSI-X vector sent (R573), while the link is up. -/
def hostVector (s : State) (v : Nat) : State := if s.host.width = 0 then s else { s with host := { s.host with msix := s.host.msix ++ [v] } }

/-- The module writes host memory through the host port (R277). -/
def hostWrite (s : State) (a : Nat) (bs : List Byte) : State :=
  let t := hostTear s a bs.length
  { t with mem := { t.mem with host := memWrites t.mem.host a bs } }

/-- Post an entry that can be posted: into host memory at the completion tail, then the queue's vector (R557, R573). -/
def hostPut (s : State) (n cid : Nat) (more : Bool) (status r0 r1 : Nat) : State :=
  let q := smGet HostQ.init s.host.q n
  let base := (reg s (aHostCqBase n)).toNat / 4096 * 4096
  let s1 := hostWrite s (base + q.cqTail * 32) (hostEntry s n cid more status r0 r1)
  let t := (q.cqTail + 1) % hostCqSize s n
  let q1 := { q with cqTail := t, phase0 := if t = 0 then !q.phase0 else q.phase0 }
  hostVector { s1 with host := { s1.host with q := smSet HostQ.init s1.host.q n q1 } } n

/-- Codes posted whatever the mask (R572): JOB_STATE, JOB_RECOVERED, SNAP_DONE, SNAP_TORN, SNAP_FAILED, BOOT_DONE. -/
def hostAlways (code : Word16) : Bool :=
  [0xC002, 0xC003, 0x8004, 0x8005, 0x8006, 0xB007].contains code.toNat

/-- Whether a record is to be posted as an event entry (R572). -/
def hostWants (s : State) (r : Rec) : Bool :=
  hostAlways r.code || bitOf (regF s aHostCtrl 5 0) (r.flags.toNat % 8)

/-- Post one record as an event entry on Q0, or drop it (R557, R572). Answers whether it was dropped for want of room. -/
def hostEvent (s : State) (r : Rec) : State × Bool :=
  if hostWants s r then
    let r0 := r.seq.toNat + r.source.toNat * 2 ^ 32 + r.code.toNat * 2 ^ 48
    if hostCanPost s 0 then
      let s1 := hostPut s 0 0xFFFF false 0 r0 r.payload.toNat
      ({ s1 with host := { s1.host with lossNoted := false } }, false)
    else
      let n := s.host.evlost
      ({ s with host := { s.host with evlost := if n = 0xFFFF then n else n + 1 } }, !s.host.lossNoted)
  else (s, false)

/-- Post records as event entries, oldest first. -/
def hostEvents : List Rec → State → State × Bool
  | [], s => (s, false)
  | r :: rs, s =>
    let (s1, d1) := hostEvent s r
    let (s2, d2) := hostEvents rs s1
    (s2, d1 || d2)

/-! ### The Ledger's input -/

/-- Record classes (R477). -/
def kEvent : Nat := 0
def kCorrected : Nat := 1
def kContained : Nat := 2
def kJobFatal : Nat := 3
def kDeviceFatal : Nat := 4
def kRefusal : Nat := 5

/-- Sources (R476). -/
def srcCore (i : Nat) : Word16 := BitVec.ofNat 16 (i % 4096)
def srcSeq : Word16 := 0x1000
def srcCe (k : Nat) : Word16 := BitVec.ofNat 16 (0x2000 + k % 4096)
def srcMc (k : Nat) : Word16 := BitVec.ofNat 16 (0x3000 + k % 4096)
def srcCxl (k : Nat) : Word16 := BitVec.ofNat 16 (0x4000 + k % 4096)
def srcLink (k : Nat) : Word16 := BitVec.ofNat 16 (0x5000 + k % 4096)
def srcMgmt : Word16 := 0x6000
def srcLedger : Word16 := 0x7000
def srcSec : Word16 := 0x8000
def srcPower : Word16 := 0x9000
def srcHost : Word16 := 0xA000
def srcDebug : Word16 := 0xB000

/-- HOST_Q_ERR (R575). -/
def cHostQErr : Word16 := 0xC004

/-- The Ledger replaced, lost events counted in LDG_LOST, and the new records posted to the host; a first loss of event entries
is recorded as HOST_Q_ERR reason 3 (R575, log entry 16). -/
def ldgPost (s : State) (l : Ledger) (rs : List Rec) : State :=
  let s1 := bump { s with ldg := l } aLdgLost (l.lostSum - s.ldg.lostSum)
  let (s2, note) := hostEvents rs s1
  if note then
    let s3 := { s2 with host := { s2.host with lossNoted := true } }
    let (l3, r3) := ldgAccept s3.ldg ⟨nowW s3, srcHost, cHostQErr, kEvent, 0, 0x0300, false, false, false⟩
    (hostEvents r3 (bump { s3 with ldg := l3 } aLdgLost (l3.lostSum - s3.ldg.lostSum))).1
  else s2

/-- The payload of a code whose chapter defines none (log entry 19). -/
def openPay (code source : Word16) : Nat := (Config.openPayload code source).toNat

/-- Record an event: the Ledger unit's input accepts it now (R475). -/
def record (s : State) (cls : Nat) (source code : Word16) (payload : Nat) : State :=
  let (l, rs) := ldgAccept s.ldg ⟨nowW s, source, code, cls, 0, BitVec.ofNat 64 payload, false, false, false⟩
  ldgPost s l rs

/-! ### TC0 messages -/

/-- Whether a message goes ahead of every other one not yet released: notices, PLAN and PERMIT (R448). -/
def tc0Urgent (m : Tc0) : Bool :=
  m.kind == 1 || (m.kind == 6 && ((m.body.getD 0 0) == 2 || (m.body.getD 0 0) == 4))

/-- Put a message into the source queue behind the messages of its own rank (R342, R448). -/
def tc0Place (m : Tc0) : List Tc0 → List Tc0
  | [] => [m]
  | x :: xs => if tc0Urgent m && !tc0Urgent x then m :: x :: xs else x :: tc0Place m xs

/-- TC0_FORM (R343). -/
def cTc0Form : Word16 := 0x6009

/-- Send a TC0 message: it takes the pair's next sequence number and waits in the source queue (R342, R343). A body above 64
bytes is refused with TC0_FORM. -/
def tc0SendOn (via : Nat) (s : State) (kind : Nat) (dst : BitVec 14) (tag : Word32) (body : List Byte) : State :=
  if body.length > 64 then record s kEvent srcMgmt cTc0Form (openPay cTc0Form srcMgmt)
  else
    let n := smGet (0 : Word16) s.fab.tc0Seq dst.toNat
    let m : Tc0 := ⟨BitVec.ofNat 4 kind, dst, devId s, n, tag, body, false, 0, via⟩
    { s with fab := { s.fab with tc0q := tc0Place m s.fab.tc0q, tc0Seq := smSet 0 s.fab.tc0Seq dst.toNat (n + 1) } }

/-- A message that path choice sends on its way. -/
def tc0Send (s : State) (kind : Nat) (dst : BitVec 14) (tag : Word32) (body : List Byte) : State := tc0SendOn 63 s kind dst tag body

/-- The job lead: the first entry of the lead list not known to have left (R452). -/
def jobLead (j : Job) : Option (BitVec 14) := j.leads.find? (fun d => !j.gone.contains d)

/-- Rank of a device in the member list, its length when absent. -/
def rankOf (ms : List (BitVec 14)) (d : BitVec 14) : Nat := ms.idxOf d

/-- The positions that a relay from position p reaches: its children below G, a child that has left giving way to its own
children (R448). The first argument bounds the depth of the tree. -/
def relayKids (ms gone : List (BitVec 14)) (ro : Nat) : Nat → Nat → List (BitVec 14)
  | 0, _ => []
  | f + 1, p =>
    (List.range 8).flatMap (fun i =>
      let c := 8 * p + 1 + i
      if c < ms.length then
        let d := ms.getD ((c + ro) % ms.length) 0
        if gone.contains d then relayKids ms gone ro f c else [d]
      else [])

/-- The members to which this module relays a message that originated at rank `ro` (R448). -/
def relayTo (s : State) (ro : Nat) : List (BitVec 14) :=
  let g := s.job.members.length
  if g = 0 then []
  else relayKids s.job.members s.job.gone ro 6 ((rankOf s.job.members (devId s) + g - ro % g) % g)

/-- Send one body to several members. -/
def tc0SendAll (kind : Nat) (body : List Byte) : List (BitVec 14) → State → State
  | [], s => s
  | d :: ds, s => tc0SendAll kind body ds (tc0Send s kind d s.job.tag body)

/-- The body of a failure notice (R447). -/
def noticeBody (gone orig : BitVec 14) (cause code time step : Nat) : List Byte :=
  leBytes 2 gone.toNat ++ leBytes 2 orig.toNat ++ leBytes 1 cause ++ leBytes 1 0 ++ leBytes 2 code ++ leBytes 8 time ++ leBytes 8 step

/-- Originate a failure notice down the tree, once for each pair of departed member and originator (R443, R448). -/
def noticeSend (s : State) (gone : BitVec 14) (cause : Nat) (code : Word16) : State :=
  let me := devId s
  if s.job.members.isEmpty || s.job.relayed.contains (gone, me) then s
  else
    let s1 := { s with job := { s.job with relayed := s.job.relayed ++ [(gone, me)] } }
    tc0SendAll 1 (noticeBody gone me cause code.toNat (now s) s.seq.step.toNat) (relayTo s1 (rankOf s.job.members me)) s1

/-! ### The deadlock detector's messages (R240, R243) -/

/-- The body of a detector message (R243). -/
def detBody (typ : Nat) (src : BitVec 14) (a b t : Nat) : List Byte :=
  leBytes 1 typ ++ leBytes 1 0 ++ leBytes 2 src.toNat ++ zeros 4 ++ leBytes 8 a ++ leBytes 8 b ++ leBytes 8 t

/-- BLOCK_WITHDRAWN (R245). -/
def cBlockWithdrawn : Word16 := 0x4011

/-- A report kept by the lead, replacing the sender's earlier one (R242). -/
def reportKeep (rs : List Report) (r : Report) : List Report := rs.filter (fun x => x.src != r.src) ++ [r]

/-- Leave BLOCKED: WITHDRAW to the lead, BLOCK_WITHDRAWN recorded, back to WATCH (R240). -/
def detWithdraw (s : State) : State :=
  let s1 := record s kEvent srcSeq cBlockWithdrawn (now s - s.sync.blockedAt)
  let s2 := { s1 with sync := { s1.sync with det := .watch } }
  match jobLead s2.job with
  | none => s2
  | some d =>
    if d = devId s2 then { s2 with sync := { s2.sync with reports := s2.sync.reports.filter (fun x => x.src != d) } }
    else tc0Send s2 3 d s2.job.tag (detBody 2 (devId s2) 0 0 s.sync.blockedAt)

/-- What the detector does when SEQ_STATUS.state leaves RUNNING (R240). -/
def detLeave (s : State) : State :=
  match s.sync.det with
  | .quiet => { s with sync := { s.sync with det := .watch } }
  | .blocked => detWithdraw s
  | _ => s

/-- A counter changed or a job packet was accepted: QUIET falls back to WATCH, BLOCKED is withdrawn (R240). -/
def detStir (s : State) : State := detLeave s

/-- A copy of the module completes, so it is not quiet at that instant (R239): QUIET falls back to WATCH. -/
def detBreak (s : State) : State := if s.sync.det = .quiet then { s with sync := { s.sync with det := .watch } } else s

/-! ### Taking a fault -/

/-- Bytes that are unspecified, from address `a` on (R102): free values. -/
def freeBytes (ctr n : Nat) : List Byte := (List.range n).map (fun i => Config.freeByte ctr i)

/-- The accumulator address of a physical FP32 row. -/
def accRowAddr (r : Nat) : Nat := r * 256

/-- The physical row that holds a logical FP32 row (R97, R98). -/
def physRow (c : Core) (j : Nat) : Nat :=
  if smGet false c.flips (j % 1024) then (if j < 1024 then j + 1024 else j - 1024) else j

/-- The pair row of a logical FP32 row (R97). -/
def pairRow (j : Nat) : Nat := if j < 1024 then j + 1024 else j - 1024

/-- The FP32 rows that a range of accumulator rows covers: first row and count (R27). -/
def fpRows (tally : Bool) (first n : Nat) : Nat × Nat := if tally then (4 * first, 4 * n) else (first, n)

/-- The destination range of an MMUL as FP32 rows; none for another operation. -/
def mmulRange (b : OpBody) : Option (Nat × Nat) :=
  match b with
  | .m (.mmul _ _ _ rows1 dest _ acc _ _ _ _) => some (fpRows (accTally acc) dest.toNat (rows1.toNat + 1))
  | _ => none

/-- Physical rows filled with unspecified bytes, one row at a time. -/
def scrambleRows (ctr : Nat) : List Nat → Core → Core
  | [], c => c
  | r :: rs, c =>
    scrambleRows ctr rs { c with acc := memWrites c.acc (accRowAddr r) ((List.range 256).map (fun i => Config.freeByte ctr (r * 256 + i))) }

/-- Partner rows of the uncommitted chains, as physical rows (R98, R102). -/
def chainRows (c : Core) : List Nat :=
  c.flight.flatMap (fun o =>
    match mmulRange o.body with
    | some (f, n) => (List.range n).map (fun i => physRow c (pairRow (f + i)))
    | none => [])

/-- Abandon a core's in-flight operations (R67 order 3, R96, R102, R104): they enter the replay list in issue order, partner
rows of uncommitted chains become unspecified, latches are invalid, and an arrival without token is gone. A replayed MMUL reads the set
that is active when it runs again, also when a later MSWAP had completed (R112, log entry 102). -/
def abandonCore (ctr : Nat) (c : Core) : Core :=
  let c1 := scrambleRows ctr (chainRows c) c
  { c1 with
    replay := c.replay ++ c.flight.map (fun o => { o with started := false, set := .none, outcome := .clean, snap := [], olds := [] })
    flight := []
    closed := []
    latches := []
    arrived := none
    wait := 0 }

/-- All values of a sparse map changed; entries that become the default go. -/
def smMap {α : Type} [DecidableEq α] (d : α) (f : Nat → α → α) (m : SMap α) : SMap α :=
  (m.map (fun p => (p.1, f p.1 p.2))).filter (fun p => p.2 ≠ d)

/-- Withdrawn arrivals leave their counters (R227). -/
def withdrawAll : SMap Core → SMap Word16 → SMap Word16
  | [], g => g
  | (_, c) :: cs, g =>
    match c.arrived with
    | some (i, _) =>
      if c.token then withdrawAll cs g
      else
        let v := smGet 0 g i.toNat
        withdrawAll cs (smSet 0 g i.toNat (v - 1))
    | none => withdrawAll cs g

/-- The core number SEQ_FAULT gives to the sequencer, copy engines and chip counters (R73, R245, R434). -/
def noCore : Nat := 0x3FF

/-- Orders 1 to 3 of R67: multicast stops, cores stop at their bundle boundaries, arrivals are withdrawn (R227), and in-flight
M, V and T operations are abandoned, but for a core whose fault lets them run to completion (R221, R229; `noCore`: none does). -/
def haltOrders (keep : Nat) (s : State) : State :=
  let (ctr, s0) := draw s
  let s1 := { s0 with sync := { s0.sync with g := withdrawAll s0.cores s0.sync.g, rounds := [] } }
  { s1 with
    seq := { s1.seq with st := .halting }
    cores := smMap Core.init (fun i c => if i = keep then { c with arrived := none, wait := 0, latches := [] } else abandonCore ctr c) s1.cores }

/-- A halt request in RUNNING (R67), for any reason but JOB_DEADLOCK. -/
def haltStart (s : State) : State := detLeave (haltOrders noCore s)

/-- SEQ_FAULT takes a fault: the first one stands, later ones set more (R72). -/
def seqFault (s : State) (core idx : Nat) (code : Word16) : State :=
  if bitOf (reg s aSeqFault).toNat 27 then setRegF s aSeqFault 26 26 1
  else setReg s aSeqFault (BitVec.ofNat 64 (code.toNat + core % 1024 * 2 ^ 16 + 2 ^ 27 + idx % 2 ^ 32 * 2 ^ 28))

/-- Whether a code is job-wide (R444). -/
def jobWide (code : Word16) : Bool := [0x4012, 0xC108, 0xC109, 0xC10A].contains code.toNat

/-- Whether the job stands still without a halt under way: before GO, or quiesced (R427). -/
def jobStill (s : State) : Bool :=
  match s.job.st with
  | .starting => true
  | .preempted => true
  | .recovering => true
  | .recovered => true
  | _ => false

/-- SEQ_FAULT and the departure (R72, R443): the first fault of the job is the one its end reports. -/
def fatalMark (s : State) (core idx : Nat) (code : Word16) : State :=
  let s1 := seqFault s core idx code
  noticeSend { s1 with job := { s1.job with fatal := s1.job.fatal.orElse (fun _ => some code), left := s1.job.left || s1.seq.st != .halting } }
    (devId s1) (if jobWide code then 6 else 1) code

/-- The faulting core stops (R426): in a halt under way its operations in flight are abandoned. -/
def coreStops (s : State) (core : Nat) : State :=
  if core = noCore then s
  else
    let (ctr, s1) := draw s
    modCore s1 core (fun c => { abandonCore ctr c with st := .faulted })

/-- Take a JOB_FATAL fault (R426, R427, R71, R72): record it, fill SEQ_FAULT, stop the faulting core, halt the others, announce
the departure at order 3 (R443), and leave the rest of R429 to the end of the halt. While the job stands still, and in a job that is DONE and
has not ended (log entry 31), no further halt is made; in FAULTED, and with no job, it is recorded only. `keep` names a core whose issued operations run to completion (R221). -/
def jobFatalKeep (keep : Nat) (s : State) (core idx : Nat) (code source : Word16) (payload : Nat) : State :=
  let s1 := record s kJobFatal source code payload
  match s1.seq.st with
  | .running =>
    let s2 := if core = noCore then s1 else modCore s1 core (fun c => { c with st := .faulted })
    let s3 := haltOrders keep s2
    fatalMark (if code = 0x4012 then { s3 with sync := { s3.sync with det := .deadlock } } else detLeave s3) core idx code
  | .halting => fatalMark (coreStops s1 core) core idx code
  | .halted => fatalMark s1 core idx code
  | .idle => if jobStill s1 then fatalMark s1 core idx code else s1
  | .done => if s1.job.st = .done then fatalMark s1 core idx code else s1
  | _ => s1

/-- A JOB_FATAL fault that lets no operation of a core go on. -/
def jobFatal (s : State) (core idx : Nat) (code source : Word16) (payload : Nat) : State := jobFatalKeep noCore s core idx code source payload

/-- Record a CONTAINED fault (R426): the failing unit holds its operation, which its own meaning does. -/
def contained (s : State) (source code : Word16) (payload : Nat) : State := record s kContained source code payload

/-- BOOT_STATUS (R549). -/
def aBoot : Nat := 0x3F0000E00000

/-- A DEVICE_FATAL fault sets BOOT_STATUS.ready to 0, with vector 5 when it changed (R532, R573). -/
def readyDrop (s : State) : State := if regF s aBoot 8 8 = 1 then hostVector (setRegF s aBoot 8 8 0) 5 else s

/-- Whether an item of a link is no job packet, or an ERR (R430 order 2). -/
def wireStays (w : Wire) : Bool :=
  match w with
  | .pkt p => p.typ == 7
  | .tc0 _ _ _ => true

/-- Job packets that wait for a link leave its queues (R430 order 2); one begun in an earlier flit goes on. -/
def linkSilent (l : Link) : Link :=
  { l with q := (l.q.map (fun p => (p.1, p.2.filter (fun x => wireStays x.item || decide (x.sent ≠ 0))))).filter (fun p => p.2 ≠ []) }

/-- Take a DEVICE_FATAL fault (R430): multicast and cores stop, in-flight operations are abandoned and nothing is saved, job
packets stop, the departure is announced, the Ledger flushes (its record triggers that), vector 4 notifies the host, and the
module waits for reset with ready at 0. -/
def deviceFatal (s : State) (source code : Word16) (payload : Nat) : State :=
  let s1 := record s kDeviceFatal source code payload
  let (ctr, s2) := draw s1
  let s3 := { s2 with
    seq := { s2.seq with st := if s2.seq.st = .running ∨ s2.seq.st = .halting then .halting else s2.seq.st, stop := true }
    cores := smMap Core.init (fun _ c => { abandonCore ctr c with replay := [] }) s2.cores
    fab := { s2.fab with links := smMap Link.init (fun _ l => linkSilent l) s2.fab.links }
    job := { s2.job with device := some (s2.job.device.getD code), left := true } }
  let s4 := noticeSend (detLeave s3) (devId s3) 2 code
  hostVector (readyDrop s4) 4

/-- The per-core window address of a buffer offset (R78). -/
def winBuf (core off : Nat) : Nat := aCore core + off

/-- The per-core window address of an accumulator FP32 row (R78). -/
def winAcc (core row : Nat) : Nat := aCore core + 0x300000 + row * 256

/-- POISON_CONSUMED at a consumer (R433, R434). -/
def poisonConsumed (s : State) (core idx : Nat) (source : Word16) (addr consumer : Nat) : State :=
  jobFatal s core idx cPoisonConsumed source (addr % 2 ^ 46 + consumer * 2 ^ 48)

/-! ### Sync counters (R217 to R219) -/

/-- SYNC_OVERFLOW and SYNC_UNDERFLOW (R245). -/
def cSyncUnderflow : Word16 := 0x4001
def cSyncOverflow : Word16 := 0x4002
def cSyncBarrier : Word16 := 0x4003
def cSigDesc : Word16 := 0x4004
def cSigTarget : Word16 := 0x4005

/-- Add to s-counter `i` of a core, saturating with SYNC_OVERFLOW (R219). Zero has no effect. -/
def addS (s : State) (core i n : Nat) : State :=
  if n = 0 then s
  else
    let c := getCore s core
    let r := sincr (smGet 0 c.s i) n
    let s1 := detStir (setCore s core { c with s := smSet 0 c.s i r.1 })
    if r.2 then jobFatal s1 core c.nextIdx cSyncOverflow (srcCore core) (i % 512 + core % 1024 * 2 ^ 16) else s1

/-- Add to chip counter `i`, saturating with SYNC_OVERFLOW (R219). -/
def addG (s : State) (i n : Nat) : State :=
  if n = 0 then s
  else
    let r := sincr (smGet 0 s.sync.g i) n
    let s1 := detStir { s with sync := { s.sync with g := smSet 0 s.sync.g i r.1 } }
    if r.2 then jobFatal s1 noCore 0 cSyncOverflow srcSeq (i % 512 + 2 ^ 15) else s1

/-- A done field counts (R24): 63 names no counter. -/
def doneAdvance (s : State) (core : Nat) (done : BitVec 6) : State :=
  if done.toNat < 48 then addS s core done.toNat 1 else s

/-- A completion counter of a descriptor (R217, R261): bits [8:0] index, [14] enable, [15] kind. -/
def ctrAdvance (s : State) (core : Nat) (f : Nat) : State :=
  if bitOf f 14 then (if bitOf f 15 then addG s (f % 512) 1 else addS s core (f % 512) 1) else s

end Sys2Proof.Machine
end

