-- ==== Sys2Proof/Machine/MemOps.lean ====
section
/-! DEFINITION. Memory as every agent of the module reaches it (10): local addresses, the window table, the Hive slices and their
controllers' reorder windows, the CXL tier, the host window, poison and the source watch. -/

namespace Sys2Proof.Machine

/-! ### Addresses (R287 to R301) -/

/-- The global address of a local one (R289); a bit pattern that is no address stays as it is. -/
def globalOf (s : State) (a : Nat) : Nat := if a < 2 ^ 46 then 2 ^ 63 + (devId s).toNat * 2 ^ 46 + a else a

/-- Mapped capacity of a CXL port in GiB, 0 when it is never in use (R307, R314); a port that went down keeps its mapping (R309). -/
def cxlGib (s : State) (k : Nat) : Nat := if regF s (aCxl k) 0 0 = 1 ∨ smGet false s.mem.cxlDown k = true then regF s (aCxl k) 26 16 else 0

/-- Whether a byte exists and is memory (R288): GDDR7, a mapped CXL byte, or the host window. -/
def memExists (s : State) (a : Nat) : Bool :=
  match placeOf a with
  | .gddr => true
  | .cxl k => decide ((a - 0x100000000000) % 0x10000000000 < cxlGib s k * 2 ^ 30)
  | .host => true
  | _ => false

/-- Window bits: valid with write or read for local agents, with rwrite or rread for remote ones (R292, R296). -/
def wtAllows (e : Nat) (write remote : Bool) : Bool :=
  bitOf e 0 && bitOf e (if remote then (if write then 4 else 3) else (if write then 2 else 1))

/-- A check of a run of bytes (R288, R296): none when it passes, else the where code of MEM_REFUSE_INFO for a check at the
source. -/
def memCheck (s : State) (a n : Nat) (write remote : Bool) : Option Nat :=
  if n = 0 then none
  else if !(memExists s a && memExists s (a + n - 1)) || (granulesOf a n).any (fun g => !memExists s g) then some 2
  else if (granulesOf a n).all (fun g => wtAllows (wtEntry s (wtIndex g)) write remote) then none
  else some 0

/-- Whether a granule is no-prefetch (R292). -/
def wtNopf (s : State) (a : Nat) : Bool := bitOf (wtEntry s (wtIndex a)) 5

/-- WIN_REFUSED (R313). -/
def cWinRefused : Word16 := 0x5010

/-- Record a refused access (R313, R314): `place` 0 source, 1 destination, 2 R288; agent 0 LCU, 1 copy engine, 2 sequencer, 3 fabric. -/
def refuseAccess (s : State) (source : Word16) (gaddr place agent : Nat) (write : Bool) : State :=
  let acc := if write then 2 else 1
  let s1 := setReg s aMemRefAddr (BitVec.ofNat 64 gaddr)
  let s2 := setReg s1 aMemRefInfo (BitVec.ofNat 64 (acc + agent * 4 + place * 16 + 2 ^ 63))
  record s2 kEvent source cWinRefused (gaddr % 2 ^ 60 + place * 2 ^ 60 + acc * 2 ^ 62)

/-! ### Where a line lies (R301) -/

/-- The controller and slice of a GDDR7 address (R301). -/
def mcOf (a : Nat) : Nat := bitsOf a 11 8 ^^^ bitsOf a 15 12 ^^^ bitsOf a 19 16 ^^^ bitsOf a 23 20

/-- The controller-local address (R301). -/
def mcLocal (a : Nat) : Nat := a % 256 + bitsOf a 36 12 * 256

/-- Key of the bank of a line in `pages`, from its local address. -/
def bankKey (a : Nat) : Nat :=
  let l := mcLocal a
  ((mcOf a * 2 + bitsOf l 6 6) * 4 + bitsOf l 8 7) * 16 + bitsOf l 17 14

/-- The DRAM row of a line (R301). -/
def dramRow (a : Nat) : Nat := bitsOf (mcLocal a) 32 18

/-- Key of the Hive set of a line: slice × 16,384 + set. Which bits select the set the spec does not say: the low 14 bits of
the controller-local line number are a DESIGN CHOICE, log entry 17. -/
def hiveKey (line : Nat) : Nat := mcOf (line * 64) * 16384 + mcLocal (line * 64) / 64 % 16384

/-- The 64-byte lines that a run of `n` bytes from `a` touches. -/
def linesOf (a n : Nat) : List Nat := if n = 0 then [] else (List.range ((a + n - 1) / 64 - a / 64 + 1)).map (fun i => a / 64 + i)

/-! ### Poison of memory (R305, R308, R431) -/

/-- Whether a line of memory is poisoned (R305, R308). -/
def linePoison (s : State) (line : Nat) : Bool :=
  match placeOf (line * 64) with
  | .gddr => smGet false s.mem.poison line
  | .cxl _ => smGet false s.mem.cxlPoison line
  | .host => smGet false s.mem.hostPoison line
  | _ => false

/-- Whether a run meets a poisoned line. -/
def memPoisoned (s : State) (a n : Nat) : Bool := (linesOf a n).any (linePoison s)

/-- The first poisoned line of a run. -/
def firstPoison (s : State) (a n : Nat) : Option Nat := (linesOf a n).find? (linePoison s)

/-- MEM_POISON_FULL (R305). -/
def cMemPoisonFull : Word16 := 0x5013

/-- Entries of a controller's poison list (R305). -/
def poisonCount (s : State) (k : Nat) : Nat := (s.mem.poison.filter (fun p => mcOf (p.1 * 64) = k && !smGet false s.mem.slicePoison p.1)).length

/-- Mark or clear the poison of a line (R305, R431); a full list is fatal. A line written with EP set reads back with it, which is the host's affair
(log entry 123). -/
def setLinePoison (s : State) (line : Nat) (bad : Bool) : State :=
  match placeOf (line * 64) with
  | .gddr =>
    let k := mcOf (line * 64)
    if bad && (!smGet false s.mem.poison line || smGet false s.mem.slicePoison line) && decide (poisonCount s k ≥ 1024) then
      deviceFatal s (srcMc k) cMemPoisonFull (line * 64)
    else { s with mem := { s.mem with poison := smSet false s.mem.poison line bad, slicePoison := smSet false s.mem.slicePoison line false } }
  | .cxl _ => { s with mem := { s.mem with cxlPoison := smSet false s.mem.cxlPoison line bad } }
  | .host => { s with mem := { s.mem with hostPoison := smSet false s.mem.hostPoison line bad } }
  | _ => s

/-! ### Errors of memory words (R135, R251, R257, R260) -/

/-- The events of memory words (R135, R284). -/
def cAccCorrected : Word16 := 0x2002
def cAccPoisoned : Word16 := 0x2003
def cBufCorrected : Word16 := 0x5005
def cBufPoisoned : Word16 := 0x5006
def cHiveCorrected : Word16 := 0x5007
def cHivePoisoned : Word16 := 0x5008

/-- A line is bad in its Hive slice; GDDR7 still holds it as it was (R260). -/
def sliceBad (s : State) (line : Nat) : State :=
  { s with mem := { s.mem with poison := smSet false s.mem.poison line true, slicePoison := smSet false s.mem.slicePoison line true } }

/-- What an error of a word that is read does: it is corrected, or it poisons its unit, row or line. Poison is recorded once (R435): what is
poisoned already records nothing. That of the host window arises outside the module. -/
def strike (s : State) (core : Nat) (u : Upset) : State :=
  match u with
  | .none => s
  | .bufCorrected _ => record s kCorrected (srcCore core) cBufCorrected (openPay cBufCorrected (srcCore core))
  | .bufPoisoned off =>
    if smGet false (getCore s core).bufPoison (off.toNat / 64) then s
    else record (modCore s core (fun c => { c with bufPoison := smSet false c.bufPoison (off.toNat / 64) true }))
      kContained (srcCore core) cBufPoisoned (openPay cBufPoisoned (srcCore core))
  | .hiveCorrected line =>
    let k := mcOf (line.toNat * 64)
    record (bump s (aHive k + 0x18) 1) kCorrected (srcMc k) cHiveCorrected (openPay cHiveCorrected (srcMc k))
  | .hivePoisoned line =>
    let k := mcOf (line.toNat * 64)
    if linePoison s line.toNat then s else record (sliceBad s line.toNat) kContained (srcMc k) cHivePoisoned (openPay cHivePoisoned (srcMc k))
  | .accCorrected row => bump (record s kCorrected (srcCore core) cAccCorrected (winAcc core row.toNat % 2 ^ 46)) (aArrEcc core) 1
  | .accPoisoned row =>
    if smGet false (getCore s core).accPoison (physRow (getCore s core) row.toNat) then s
    else contained (modCore s core (fun c => { c with accPoison := smSet false c.accPoison (physRow c row.toNat) true }))
      (srcCore core) cAccPoisoned (winAcc core row.toNat % 2 ^ 46)
  | .l1Poisoned line => modCore s core (fun c => { c with l1 := c.l1.map (fun l => if l.line = line.toNat then { l with poison := true } else l) })
  | .hostPoisoned line => setLinePoison s line.toNat true

/-- A word goes bad; the next read of it meets the error. -/
def upsetNew (s : State) (core : Nat) (u : Upset) : State :=
  if u = .none then s else { s with mem := { s.mem with upsets := s.mem.upsets ++ [(core, u)] } }

/-- The errors that a reading meets strike, each once. -/
def meetBy (s : State) (reads : Nat → Upset → Bool) : State :=
  (s.mem.upsets.filter (fun p => reads p.1 p.2)).foldl (fun t p => strike t p.1 p.2)
    { s with mem := { s.mem with upsets := s.mem.upsets.filter (fun p => !reads p.1 p.2) } }

/-- Whether a buffer word is among the bytes read, in pieces. -/
def bufAmong (ps : List (Nat × Nat)) (u : Upset) : Bool :=
  let has (x : Nat) : Bool := ps.any (fun p => decide (p.1 ≤ x) && decide (x < p.1 + p.2))
  match u with
  | .bufCorrected off => has off.toNat
  | .bufPoisoned off => has off.toNat
  | _ => false

/-- Whether an accumulator word lies in one of some ranges of FP32 rows. -/
def accAmong (rs : List (Nat × Nat)) (u : Upset) : Bool :=
  let has (x : Nat) : Bool := rs.any (fun p => decide (p.1 ≤ x) && decide (x < p.1 + p.2))
  match u with
  | .accCorrected row => has row.toNat
  | .accPoisoned row => has row.toNat
  | _ => false

/-- Whether a Hive line is among the lines read. -/
def hiveAmong (has : Nat → Bool) (u : Upset) : Bool :=
  match u with
  | .hiveCorrected line => has line.toNat
  | .hivePoisoned line => has line.toNat
  | .hostPoisoned line => has line.toNat
  | _ => false

/-- The errors that a core's own reading meets: those of its words and of the Hive's. -/
def meet (s : State) (core : Nat) (reads : Upset → Bool) : State :=
  meetBy s (fun c u => (c == core || hiveAmong (fun _ => true) u) && reads u)

/-- The errors that a reading of window ranges meets: words of the cores' buffers and of the Hive (R251, R260). -/
def meetSpans (s : State) (rs : List (Nat × Nat)) : State :=
  meetBy s (fun c u => rs.any (fun r =>
    match placeOf r.1 with
    | .core id off => id == c && bufAmong [(off, r.2)] u
    | .gddr => r.2 != 0 && hiveAmong (fun l => decide (r.1 / 64 ≤ l) && decide (l * 64 < r.1 + r.2)) u
    | .host => r.2 != 0 && hiveAmong (fun l => decide (r.1 / 64 ≤ l) && decide (l * 64 < r.1 + r.2)) u
    | _ => false))

/-! ### Controllers and Hive slices (R258, R259, R301 to R305) -/

/-- Whether a request is pending in a controller for a line. -/
def mcPending (s : State) (line : Nat) : Bool := (smGet [] s.mem.win (mcOf (line * 64))).any (fun r => r.line == line && !r.write)

/-- Whether a request needs no access of its own behind those of the window (R303): a read of a line that one of them reads or writes, a write
of a line that one of them writes. -/
def mcMerges (w : List MReq) (r : MReq) : Bool := w.any (fun x => x.line == r.line && (x.write || !r.write))

/-- A request enters its controller's queue (R302). Those past the first 256 are outside the window: they wait. -/
def mcPush (s : State) (r : MReq) : State :=
  let k := mcOf (r.line * 64)
  let q := smGet [] s.mem.win k
  if decide (q.length < 256) && mcMerges q r then bump s (aMcMerge k) 1
  else { s with mem := { s.mem with win := smSet [] s.mem.win k (q ++ [r]) } }

/-- The line that leaves a full set: STREAM lines first, then the oldest that is not KEEP, then the oldest (R259). -/
def hiveVictim (ls : List HiveLine) : Option HiveLine :=
  match ls.reverse.find? (fun l => l.stream) with
  | some l => some l
  | none =>
    match ls.reverse.find? (fun l => !l.keep) with
    | some l => some l
    | none => ls.getLast?

/-- A dirty line is read and written back, and may be found bad (R260); what was bad only in the slice enters the poison list. -/
def hiveBack (s0 : State) (line : Nat) : State :=
  let s := meetBy s0 (fun _ => hiveAmong (fun l => l == line))
  let s1 := if smGet false s.mem.slicePoison line then setLinePoison s line true else s
  mcPush (bump s1 (aHiveWback (mcOf (line * 64))) 1) ⟨line, true, false, 0, 0⟩

/-- A line leaves its slice: a dirty one is written back; what is bad only in the slice goes with a clean one. -/
def hiveLeave (s0 : State) (v : HiveLine) : State :=
  if v.dirty then hiveBack s0 v.line
  else
    let s := { s0 with mem := { s0.mem with upsets := s0.mem.upsets.filter (fun p => !(hiveAmong (fun l => l == v.line) p.2)) } }
    if smGet false s.mem.slicePoison v.line then setLinePoison s v.line false else s

/-- Allocate a line in its set (R258, R259); a victim leaves. -/
def hiveAlloc (s : State) (line : Nat) (dirty : Bool) (hint : Nat) : State :=
  let key := hiveKey line
  let ls := smGet [] s.mem.hive key
  let (s1, ls1) :=
    if ls.length < 16 then (s, ls)
    else
      match hiveVictim ls with
      | none => (s, ls)
      | some v =>
        (hiveLeave s v, ls.filter (fun l => l.line != v.line))
  let keep := hint == 3 && decide ((ls1.filter (fun l => l.keep)).length < 12)
  { s1 with mem := { s1.mem with hive := smSet [] s1.mem.hive key (⟨line, dirty, keep, hint == 1⟩ :: ls1) } }

/-- One line access of a slice (R258, R259): hit or miss, allocation by the hint, and the requests to the controller. A write
that covers the whole line needs no fill, and in a no-prefetch granule a partial write is sent as it is (R299). -/
def hiveAccess (s : State) (line : Nat) (write whole nopf : Bool) (hint : Nat) : State :=
  let key := hiveKey line
  let k := key / 16384
  let ls := smGet [] s.mem.hive key
  match ls.find? (fun l => l.line == line) with
  | some l =>
    let s1 := bump s (aHiveHits k) 1
    let l1 := { l with dirty := l.dirty || write }
    let ls1 := if hint = 2 then ls.map (fun x => if x.line = line then l1 else x) else l1 :: ls.filter (fun x => x.line != line)
    { s1 with mem := { s1.mem with hive := smSet [] s1.mem.hive key ls1 } }
  | none =>
    let s1 := bump s (aHiveMisses k) 1
    if hint = 2 then mcPush s1 ⟨line, write, false, hint, 0⟩
    else if write && whole then hiveAlloc s1 line true hint
    else if write && nopf then mcPush s1 ⟨line, true, false, hint, 0⟩
    else mcPush (hiveAlloc s1 line write hint) ⟨line, false, true, hint, 0⟩

/-- Line accesses of a GDDR7 run, in address order. -/
def hiveRun (write : Bool) (hint a n : Nat) : List Nat → State → State
  | [], s => s
  | l :: ls, s =>
    hiveRun write hint a n ls (hiveAccess s l write (decide (a ≤ l * 64) && decide (l * 64 + 64 ≤ a + n)) (wtNopf s (l * 64)) hint)

/-! ### Bytes -/

/-- The bytes of a run of existing memory, as memory and the slices hold them together (R14, R258). -/
def memBytes (s : State) (a n : Nat) : List Byte :=
  match placeOf a with
  | .gddr => memReads s.mem.gddr a n
  | .cxl _ => memReads s.mem.cxl a n
  | .host => (List.range n).map (fun i => memRead s.mem.host (hostXlat s (a + i)))
  | _ => zeros n

/-- Poison updates over lines (R432): a line that receives bytes from a poisoned source is poisoned, a line wholly written from
clean sources becomes valid, any other keeps its mark. -/
def poisonLines (lo n : Nat) (bad : Bool) : List Nat → State → State
  | [], s => s
  | l :: ls, s =>
    poisonLines lo n bad ls
      (if bad then setLinePoison s l true
       else if lo ≤ l * 64 ∧ l * 64 + 64 ≤ lo + n then setLinePoison s l false else s)

/-- A write tears every armed envelope that it overlaps (R277). -/
def tearWatches (s : State) (a n : Nat) : State :=
  if n = 0 then s
  else { s with mem := { s.mem with watch := s.mem.watch.map (fun w => if a < w.hi && w.lo < a + n then { w with torn := true } else w) } }

/-- Store bytes into existing memory. -/
def storeBytes (s : State) (a : Nat) (bs : List Byte) : State :=
  match placeOf a with
  | .gddr => { s with mem := { s.mem with gddr := memWrites s.mem.gddr a bs } }
  | .cxl _ => { s with mem := { s.mem with cxl := memWrites s.mem.cxl a bs } }
  | .host => { s with mem := { s.mem with
      host := (List.range bs.length).foldl (fun m i => memWrite m (hostXlat s (a + i)) (bs.getD i 0)) s.mem.host } }
  | _ => s

/-- Bytes of a run that lie in some of its lines. -/
def bytesIn (a n : Nat) (ls : List Nat) : Nat := ls.foldl (fun m l => m + (min (a + n) (l * 64 + 64) - max a (l * 64))) 0

/-- A read of some lines of a run: the slice or port serves it (R258, R308, R311) and the counters advance. -/
def touchLines (s : State) (a n hint : Nat) (ls : List Nat) : State :=
  match placeOf a with
  | .gddr => hiveRun false hint a n ls s
  | .cxl k => bump (bump s (aCxlRd k) (bytesIn a n ls)) (aCxlPoison k) (ls.filter (linePoison s)).length
  | _ => s

/-- A read of a run by an agent of the module. -/
def touchRead (s : State) (a n hint : Nat) : State := touchLines s a n hint (linesOf a n)

/-- The part of a read that is made ahead (`late` false) or when the fragment is ready (true): lines of no-prefetch granules are never read
ahead (R272, R298, R299). -/
def touchPart (late : Bool) (s : State) (a n hint : Nat) : State := touchLines s a n hint ((linesOf a n).filter (fun l => wtNopf s (l * 64) == late))

/-- Bytes that a write changes, with what they held: address and old byte. -/
def lostOf (a : Nat) (old new : List Byte) : List (Nat × Byte) :=
  (old.zipIdx).filterMap (fun p => if new.getD p.2 p.1 = p.1 then none else some (a + p.2, p.1))

/-- What a write of memory overwrites, kept for the copies that read memory at the time (R279). -/
def keepMem (s : State) (a : Nat) (bs : List Byte) : State :=
  let l := lostOf a (memBytes s a bs.length) bs
  if l.isEmpty then s
  else { s with
    cores := s.cores.map (fun p => (p.1, { p.2 with lcu := p.2.lcu.map (fun q => if q.active && fieldAt q.desc 0 1 % 16 == 0 then { q with was := q.was ++ l } else q) }))
    ce := s.ce.map (fun p => (p.1, { p.2 with ops := p.2.ops.map (fun o => if o.started && !o.completed then { o with was := o.was ++ l } else o) })) }

/-- Whether an address lies behind a CXL port that went down, or in the host window with the host link down (R309). -/
def addrDown (s : State) (a : Nat) : Bool :=
  match placeOf a with
  | .cxl k => smGet false s.mem.cxlDown k
  | .host => decide (s.host.width = 0)
  | _ => false

/-- Whether a run touches a port that is down. -/
def spanDown (s : State) (a n : Nat) : Bool := addrDown s a || addrDown s (a + n - 1)

/-- A write by an agent of the module: bytes, poison, watch, slice or port (R14, R277, R305, R308). `bad`: a source unit was
poisoned. A port that is down takes no write (R309). -/
def memStore (s : State) (a : Nat) (bs : List Byte) (bad : Bool) (hint : Nat) : State :=
  if bs.isEmpty || spanDown s a bs.length then s
  else
    let n := bs.length
    let s1 := tearWatches (storeBytes (keepMem s a bs) a bs) a n
    let s2 := poisonLines a n bad (linesOf a n) s1
    match placeOf a with
    | .gddr => hiveRun true hint a n (linesOf a n) s2
    | .cxl k => bump s2 (aCxlWr k) n
    | _ => s2

/-- A write by the management core for the device itself: no window check (R296). -/
def devStore (s : State) (a : Nat) (bs : List Byte) : State := memStore s a bs false 0

/-- Lines of a run of GDDR7 that slice `k` serves (R301): every 4 KiB hold four of each slice. -/
def sliceLines (a n k : Nat) : Nat :=
  let l0 := a / 64
  let l1 := (a + n - 1) / 64
  let count (lo m : Nat) : Nat := ((List.range m).filter (fun i => mcOf ((lo + i) * 64) = k)).length
  if n = 0 then 0
  else if l1 / 64 ≤ l0 / 64 + 1 then count l0 (l1 - l0 + 1)
  else count l0 ((l0 / 64 + 1) * 64 - l0) + 4 * (l1 / 64 - l0 / 64 - 1) + count (l1 / 64 * 64) (l1 % 64 + 1)

/-- Lines of a run that slice `k` holds. -/
def sliceHeld (s : State) (a n k : Nat) : Nat :=
  ((s.mem.hive.filter (fun p => p.1 / 16384 = k)).flatMap (fun p =>
    p.2.filter (fun l => decide (a / 64 ≤ l.line) && decide (l.line * 64 < a + n)))).length

/-- How the slices see a transfer of the management core for the device itself (R14, R258, R296): each line is a hit or a miss, a write tears what it
overlaps and dirties the lines held, a read meets their errors. It allocates no line, and its requests to the controllers are served as it goes
(DESIGN CHOICE, log entry 114). -/
def devTouch (write : Bool) (a n : Nat) (s : State) : State :=
  if n = 0 ∨ a + n > gddrTop then s
  else
    let s1 := if write then tearWatches s a n else meetSpans s [(a, n)]
    let s2 := (List.range 16).foldl (fun t k =>
      bump (bump t (aHiveHits k) (sliceHeld s a n k)) (aHiveMisses k) (sliceLines a n k - sliceHeld s a n k)) s1
    if write then
      { s2 with mem := { s2.mem with hive := s2.mem.hive.map (fun p => (p.1, p.2.map (fun l =>
          if a / 64 ≤ l.line ∧ l.line * 64 < a + n then { l with dirty := true } else l))) } }
    else s2

/-! ### Watch slots (R276) -/

/-- The slices that an envelope of GDDR7 touches, as a list of 16 flags. -/
def slicesOf (lo hi : Nat) : List Nat :=
  if hi - lo ≥ 8192 then List.range 16
  else ((List.range ((hi - 1) / 256 - lo / 256 + 1)).map (fun i => mcOf ((lo / 256 + i) * 256))).dedup

/-- Where an envelope needs slots: slices 0 to 15, CXL ports 16 to 19, the host port 20 (R276). -/
def watchPlaces (lo hi : Nat) : List Nat :=
  (if lo < gddrTop then slicesOf lo (min hi gddrTop) else [])
  ++ (((List.range 4).filter (fun k => decide (lo < 0x100000000000 + (k + 1) * 0x10000000000) && decide (0x100000000000 + k * 0x10000000000 < hi))).map
      (fun k => 16 + k))
  ++ (if decide (lo < 0x300000000000) && decide (0x200000000000 < hi) then [20] else [])

/-- Slots armed at a place. -/
def slotsUsed (s : State) (p : Nat) : Nat := (s.mem.watch.filter (fun w => (watchPlaces w.lo w.hi).contains p)).length

/-- Slots a place has (R276). -/
def slotsMax (p : Nat) : Nat := if p < 16 then 56 else 32

/-- Whether every slot an envelope needs is free (R276). -/
def slotsFree (s : State) (lo hi : Nat) : Bool := (watchPlaces lo hi).all (fun p => decide (slotsUsed s p < slotsMax p))

/-- Arm an envelope. -/
def armWatch (s : State) (w : Watcher) (lo hi : Nat) : State :=
  { s with mem := { s.mem with watch := s.mem.watch ++ [⟨w, lo, hi, false⟩] } }

/-- Free a watcher's slots. -/
def freeWatch (s : State) (w : Watcher) : State := { s with mem := { s.mem with watch := s.mem.watch.filter (fun x => x.who ≠ w) } }

/-- Whether a watcher's envelope is torn. -/
def watchTorn (s : State) (w : Watcher) : Bool := s.mem.watch.any (fun x => decide (x.who = w) && x.torn)

/-! ### The buffer (R247, R251, R432) -/

/-- Bytes of the buffer. -/
def bufBytes : Nat := 0x300000

/-- Whether a run of the buffer meets a poisoned unit. -/
def bufPoisoned (c : Core) (a n : Nat) : Bool := (linesOf a n).any (fun u => smGet false c.bufPoison u)

/-- The first poisoned unit of a run. -/
def bufFirstPoison (c : Core) (a n : Nat) : Option Nat := (linesOf a n).find? (fun u => smGet false c.bufPoison u)

/-- Poison of buffer units after a write (R432). -/
def bufPoisonAfter (lo n : Nat) (bad : Bool) (m : SMap Bool) : List Nat → SMap Bool
  | [] => m
  | u :: us =>
    bufPoisonAfter lo n bad
      (if bad then smSet false m u true
       else if lo ≤ u * 64 ∧ u * 64 + 64 ≤ lo + n then smSet false m u false else m) us

/-- Bytes of the buffer. -/
def bufRead (c : Core) (a n : Nat) : List Byte := memReads c.buf a n

/-- A run lies within the buffer (R39 step 2, R643). -/
def inBuf (a n : Nat) : Bool := decide (a + n ≤ bufBytes)

/-- Pieces written by one copy or operation: address, bytes, poisoned source. Whether they cover byte `x` from a clean source. -/
def coveredByte (ps : List (Nat × List Byte × Bool)) (x : Nat) : Bool :=
  ps.any (fun p => decide (p.1 ≤ x) && decide (x < p.1 + p.2.1.length) && !p.2.2)

/-- Whether a byte lies in one of some runs. -/
def inRuns (rs : List (Nat × Nat)) (x : Nat) : Bool := rs.any (fun r => decide (r.1 ≤ x) && decide (x < r.1 + r.2))

/-- Whether a piece from a poisoned source touches a unit. -/
def dirtyUnit (ps : List (Nat × List Byte × Bool)) (u : Nat) : Bool :=
  ps.any (fun p => p.2.2 && decide (p.1 < u * 64 + 64) && decide (u * 64 < p.1 + p.2.1.length))

/-- Units that pieces complete, with what the copy or operation wrote before: wholly covered by clean bytes (R432). -/
def coveredUnits (before : List (Nat × Nat)) (ps : List (Nat × List Byte × Bool)) : List Nat :=
  ((ps.flatMap (fun p => linesOf p.1 p.2.1.length)).dedup).filter
    (fun u => !dirtyUnit ps u && (List.range 64).all (fun i => coveredByte ps (u * 64 + i) || inRuns before (u * 64 + i)))

/-- The clean bytes of pieces, as runs. -/
def cleanRuns (ps : List (Nat × List Byte × Bool)) : List (Nat × Nat) := (ps.filter (fun p => !p.2.2)).map (fun p => (p.1, p.2.1.length))

end Sys2Proof.Machine
end

