-- ==== Sys2Proof/Machine/CoreOps.lean ====
section
/-! DEFINITION. What the units of a core share: tile registers and latches (03), accumulator rows in their logical mapping (R97,
R98), Mint words (07 R206), and the tests by which operations in flight hold others back (R100, R101, R252). -/

namespace Sys2Proof.Machine

/-! ### Tiles -/

/-- Bytes of a tile register (R79). -/
def tileBytes : Nat := 8192

/-- The shape of a tile register (R79, R83). -/
def shapeOf (c : Core) (t : Nat) : Shape := smGet Shape.none c.shapes t

/-- The shape an operation captured for a register (R90). -/
def capShape (o : FOp) (t : Nat) : Shape := ((o.shapes.find? (fun p => p.1 == t)).map Prod.snd).getD Shape.none

/-- The payload of row `r` of a tile register under a shape (R80). -/
def tileRow (c : Core) (t : Nat) (sh : Shape) (r : Nat) : List Byte :=
  memReads c.comb (t * tileBytes + r * rowStride sh.fmt sh.elems) (rowPayload sh.fmt sh.elems)

/-- All bytes of a tile register that its shape covers. -/
def tileAll (c : Core) (t : Nat) (sh : Shape) : List Byte := memReads c.comb (t * tileBytes) (sh.rows * rowStride sh.fmt sh.elems)

/-- A commit to a register, or a TCFG of it, invalidates the latches that hold its rows (R104). -/
def dropLatches (c : Core) (t : Nat) : Core :=
  { c with latches := c.latches.filter (fun p => match p.2 with | some (reg, _) => reg != t | none => true) }

/-- Rows written into a tile register from row 0 on in one commit (R80, R92); bytes outside the rows keep their values. -/
def tileWrite (c : Core) (t : Nat) (sh : Shape) (rows : List (List Byte)) : Core :=
  let st := rowStride sh.fmt sh.elems
  let m := (rows.zipIdx).foldl (fun m p => memWrites m (t * tileBytes + p.2 * st) p.1) c.comb
  dropLatches { c with comb := m } t

/-- Reads of tile rows on a comb port through its latch (R103): answers the hits. -/
def latchReads (port : Nat) : List (Nat × Nat) → Core → Nat → Core × Nat
  | [], c, hits => (c, hits)
  | (t, r) :: l, c, hits =>
    if smGet none c.latches port = some (t, r) then latchReads port l c (hits + 1)
    else latchReads port l { c with latches := smSet none c.latches port (some (t, r)) } hits

/-- Row reads of a core on a port, counted in CMB_READS and CMB_REUSE (R103, R105). -/
def combReads (s : State) (core port : Nat) (rows : List (Nat × Nat)) : State :=
  let (c, hits) := latchReads port rows (getCore s core) 0
  bump (bump (setCore s core c) (aCmbReads core) rows.length) (aCmbReuse core) hits

/-- Reads of rows 0 to n − 1 of one register. -/
def allRows (t n : Nat) : List (Nat × Nat) := (List.range n).map (fun r => (t, r))

/-! ### The Mint -/

/-- Whether the Mint is core-keyed (R206, R215). -/
def mintMode1 (s : State) : Bool := regF s aMintCtrl 0 0 == 1

/-- The Mint word of an element with a captured key (R206). -/
def keyWord (s : State) (core : Nat) (k : MKey) (tidXor r e : Nat) : Nat :=
  mintWord (reg s aMintSeed).toNat k.step.toNat (k.tid.toNat ^^^ tidXor)
    (mintIndex (mintMode1 s) core k.base.toNat k.pitch.toNat r e)

/-- The word where the rounding draws one, else zero. -/
def drawWord (s : State) (core : Nat) (k : MKey) (rnd : BitVec 2) (r e : Nat) : Nat :=
  if rnd = 2 then keyWord s core k 0 r e else 0

/-- smin and smax of a core's ARR_SWIN (R192). -/
def swin (s : State) (core : Nat) : Int × Int :=
  (signedOf 8 (regF s (aArrSwin core) 7 0), signedOf 8 (regF s (aArrSwin core) 15 8))

/-- The declared window is empty (R184). -/
def swinEmpty (s : State) (core : Nat) : Bool := decide ((swin s core).1 > (swin s core).2)

/-! ### Accumulator rows -/

/-- The 256 bytes of a logical FP32 row (R78, R97). -/
def accRow (c : Core) (j : Nat) : List Byte := memReads c.acc (accRowAddr (physRow c j)) 256

/-- The bytes of `n` logical FP32 rows. -/
def accRowsAt (c : Core) (j n : Nat) : List Byte := (List.range n).flatMap (fun i => accRow c (j + i))

/-- Whether a logical FP32 row is poisoned (R136). -/
def accBad (c : Core) (j : Nat) : Bool := smGet false c.accPoison (physRow c j)

/-- The first poisoned row of a logical range. -/
def accFirstBad (c : Core) (j n : Nat) : Option Nat := ((List.range n).map (fun i => j + i)).find? (accBad c)

/-- A logical FP32 row written, with its poison mark, in place (R252). -/
def accPut (c : Core) (j : Nat) (bs : List Byte) (bad : Bool) : Core :=
  let p := physRow c j
  { c with acc := memWrites c.acc (accRowAddr p) bs, accPoison := smSet false c.accPoison p bad }

/-- The 64 source values of a drained row (R130): kind 0 FP32, 1 INT32, 2 Tally96 row `j`. -/
def srcVals (c : Core) (kind : Nat) (j : Nat) : List Num :=
  if kind = 2 then rowVals 13 64 (accRowsAt c (4 * j) 4)
  else
    let bs := accRow c j
    (List.range 64).map (fun e => let w := fieldAt bs (4 * e) 4; if kind = 1 then .ofInt (signedOf 32 w) else ofF32 w)

/-- Whether two FP32 row ranges overlap. -/
def rangesMeet (a b : Nat × Nat) : Bool := decide (a.1 < b.1 + b.2) && decide (b.1 < a.1 + a.2)

/-- The partner range (R97). -/
def partner (r : Nat × Nat) : Nat × Nat := (pairRow r.1, r.2)

/-- The accumulator rows an M operation names: MMUL's destination, the rows of MDRAIN and MTOPK. -/
def mRows (m : MOp) : Option (Nat × Nat) :=
  match m with
  | .mmul _ _ _ rows1 dest _ acc _ _ _ _ => some (fpRows (accTally acc) dest.toNat (rows1.toNat + 1))
  | .mdrain first rows1 _ _ _ _ _ _ kind => some (fpRows (kind == 2) first.toNat (rows1.toNat + 1))
  | .mtopk first rows1 _ _ _ _ _ _ kind => some (fpRows (kind == 2) first.toNat (rows1.toNat + 1))
  | _ => none

/-- Whether an operation in flight is an MMUL. -/
def isMmul (o : FOp) : Bool := match o.body with | .m (.mmul _ _ _ _ _ _ _ _ _ _ _) => true | _ => false

/-- The unit of an operation in flight. -/
def unitOf (o : FOp) : Unit3 := match o.body with | .m _ => .m | .v _ _ => .v | .t _ => .t

/-- Whether an M operation must wait for a chain in flight: it names a row of its destination or partner range, and is no MMUL
to the same range, which joins the chain or starts the next one inside the array (R100, R101). -/
def chainHolds (c : Core) (m : MOp) : Bool :=
  match mRows m with
  | none => false
  | some r =>
    let same := match m with | .mmul zero _ _ _ _ _ _ _ _ _ _ => !zero | _ => false
    c.flight.any (fun o =>
      match mmulRange o.body with
      | none => false
      | some d => !(same && r == d) && (rangesMeet r d || rangesMeet r (partner d)))

/-- Source and destination kind of a copy descriptor (R261, R262). -/
def dSrcKind (d : List Byte) : Nat := fieldAt d 0 1 % 16
def dDstKind (d : List Byte) : Nat := fieldAt d 0 1 / 16

/-- The accumulator rows of a copy, as FP32 rows (R262). -/
def copyRows (d : List Byte) : Option (Nat × Nat) :=
  let n := fieldAt d 32 4 + 1
  let one (k r : Nat) : Option (Nat × Nat) :=
    if k = 2 || k = 3 then some (r % 2048, n) else if k = 4 then some (4 * (r % 512), 4 * n) else none
  (one (dSrcKind d) (fieldAt d 8 8)).orElse (fun _ => one (dDstKind d) (fieldAt d 16 8))

/-- The tile use of a copy (R262, R264). -/
def copyTile (d : List Byte) : List TUse :=
  let sr := fieldAt d 8 8
  let dr := fieldAt d 16 8
  (if dSrcKind d = 5 then [⟨sr % 32, bitsOf sr 11 8, false⟩] else [])
  ++ (if dDstKind d = 5 then [⟨dr % 32, bitsOf dr 11 8, true⟩] else [])

/-- Whether a copy of the LCU reads or writes some of a range of accumulator rows (R252). -/
def rowsHeld (c : Core) (r : Option (Nat × Nat)) : Bool :=
  match r with
  | none => false
  | some r => c.lcu.any (fun q => match copyRows q.desc with | some x => rangesMeet r x | none => false)

/-- Whether an M operation must wait for an LCU copy on its rows (R252). -/
def lcuHolds (c : Core) (m : MOp) : Bool := rowsHeld c (mRows m)

/-- Whether a copy comes after an operation: by its issue, or because a resume re-issued both, the replay list first (R69). -/
def copyAfter (o : FOp) (q : Copy) : Bool := decide (o.ord < q.ord) || (o.restored && q.restored)

/-- Whether a copy's accumulator rows wait for a chain in flight on them or on their partners (R252). -/
def copyHeld (c : Core) (q : Copy) : Bool :=
  match copyRows q.desc with
  | none => false
  | some x => c.flight.any (fun o => copyAfter o q &&
      (match mmulRange o.body with | some d => rangesMeet x d || rangesMeet x (partner d) | none => false))

/-- Tile registers held by operations and copies in flight. -/
def heldUses (c : Core) : List TUse := c.flight.flatMap (fun o => bodyUses o.body) ++ c.lcu.flatMap (fun q => copyTile q.desc)

/-- Commit tiles an operation claims (R93). -/
def claimsOf (b : OpBody) : Nat := ((bodyUses b).filter (fun u => u.write)).length

/-- Commit tiles claimed in a core (R93, R264). -/
def claimed (c : Core) : Nat :=
  (c.flight.map (fun o => claimsOf o.body)).foldl (· + ·) 0
  + (c.lcu.map (fun q => ((copyTile q.desc).filter (fun u => u.write)).length)).foldl (· + ·) 0

/-- Operations of a unit in flight (R94). -/
def inFlight (c : Core) (u : Unit3) : Nat := (c.flight.filter (fun o => unitOf o == u)).length

/-- The resolved address a[areg] + offset × 64 modulo 2^64 (R643). -/
def resolve (c : Core) (areg : BitVec 4) (off : BitVec 16) : Word64 :=
  smGet 0 c.a areg.toNat + BitVec.ofNat 64 (off.toNat * 64)

/-- The record MLD makes for a shape: class, format, K and N (R88, R89). -/
def mldRecord (sh : Shape) (turn : Bool) : StatSet :=
  { StatSet.none with
    loaded := true, turn := turn, cls := (fmtClass sh.fmt).getD 0, fmt := sh.fmt
    k := if turn then sh.elems else sh.rows, n := if turn then sh.rows else sh.elems, rows := sh.rows, elems := sh.elems }

/-- The records of both sets as they stand after every MLD and MSWAP in flight (R89, R112). -/
def virtSets : List FOp → StatSet × StatSet → StatSet × StatSet
  | [], p => p
  | o :: os, (a, b) =>
    match o.body with
    | .m (.mld t _ turn) => virtSets os (a, mldRecord (capShape o t.toNat) turn)
    | .m .mswap => virtSets os (b, a)
    | _ => virtSets os (a, b)

end Sys2Proof.Machine
end

