-- ==== Sys2Proof/Machine/DebugOps.lean ====
section
/-! DEFINITION. How the debug port reaches into the cores (21 R608 to R614): halts of a core by request, breakpoint and watchpoint,
and the buffer accesses that watchpoints see. -/

namespace Sys2Proof.Machine

/-- DBG_ registers (R620). -/
def aDbg : Nat := 0x3F0001200000
def aDbgBp (k : Nat) : Nat := aDbg + 0x40 + k * 8
def aDbgWpA (k : Nat) : Nat := aDbg + 0x80 + k * 16
def aDbgWpB (k : Nat) : Nat := aDbg + 0x88 + k * 16

/-- Codes of R619. -/
def cDbgSession : Word16 := 0xE001
def cDbgHalted : Word16 := 0xE002
def cDbgJobWrite : Word16 := 0xE003
def cDbgRefused : Word16 := 0xE004

/-- A debug halt takes hold of a core (R608, R612, R613): a pending step is cancelled (R611), the cause recorded is the first
(R614), and the deadlock detector falls back to WATCH (R609). -/
def dbgHaltCore (s : State) (core cause k agent off : Nat) : State :=
  let c := getCore s core
  if c.dbgHalt && !c.dbgStep then s
  else
    let s1 := setCore s core { c with dbgHalt := true, dbgStep := false, dbgCause := cause, dbgK := k, dbgAgent := agent, dbgOff := off, latches := [] }
    detLeave (record s1 kEvent srcDebug cDbgHalted (core % 1024 + cause * 2 ^ 16 + k * 2 ^ 20))

/-- Whether watchpoint `k` sees an access (R613). -/
def wpSees (s : State) (k core off n : Nat) (write : Bool) : Bool :=
  let a := aDbgWpA k
  regF s a 63 63 == 1 && regF s a 57 48 == core && bitOf (regF s a 62 61) (b2n write)
  && decide (off ≤ regF s (aDbgWpB k) 21 0) && decide (regF s a 21 0 < off + n)

/-- The watchpoints from `k` on, `f` of them. -/
def wpGo (core off n agent : Nat) (write : Bool) : Nat → Nat → State → State
  | 0, _, s => s
  | f + 1, k, s =>
    wpGo core off n agent write f (k + 1)
      (if wpSees s k core off n write then dbgHaltCore s core 3 k agent (max off (regF s (aDbgWpA k) 21 0)) else s)

/-- An access to bytes of a core's buffer, as watchpoints see it (R613). Agents: 0 to 4 as the rows of R248, 5 the feed port. -/
def bufTouch (s : State) (core off n : Nat) (write : Bool) (agent : Nat) : State :=
  if n = 0 then s else wpGo core off n agent write 8 0 s

/-- An access: offset, bytes, write, agent. -/
abbrev Touch := Nat × Nat × Bool × Nat

/-- Accesses in order. -/
def touchAll (core : Nat) : List Touch → State → State
  | [], s => s
  | (off, n, w, ag) :: l, s => touchAll core l (bufTouch s core off n w ag)

/-- The row pitch of TLD and TST in bytes (R30). -/
def tPitch (sh : Shape) (pitch : Nat) : Nat := if pitch = 0 then roundUp (rowPayload sh.fmt sh.elems) 64 else pitch * 64

/-- The buffer accesses of TLD and TST, row by row. -/
def rowTouches (sh : Shape) (base pitch : Nat) (write : Bool) (agent : Nat) : List Touch :=
  (List.range sh.rows).map (fun r => (base + r * pitch, rowPayload sh.fmt sh.elems, write, agent))

/-- The buffer bytes an operation has accessed when it ends; for an MMUL, when its pass ends. -/
def opTouches (o : FOp) : List Touch :=
  let a := o.addr1.toNat
  match o.body with
  | .m (.mmul _ _ _ rows1 _ fmt _ _ _ rs _) =>
    let n := rows1.toNat + 1
    [(a, n * lineBytes fmt.toNat, false, 5)] ++ (if rs then [(o.addr2.toNat, n, false, 1)] else [])
  | .m (.mdrain _ rows1 t _ mode _ _ _ _) =>
    let f := (capShape o t.toNat).fmt
    let n := rows1.toNat + 1
    if mode = 1 then [(a, if f = 3 || f = 4 then n else 4 * n, true, 1)] else if mode = 2 then [(a, 1024, false, 1)] else []
  | .v .vadam _ => [(a, 64, false, 3)]
  | .t (.tld t _ _ _ p) => rowTouches (capShape o t.toNat) a (tPitch (capShape o t.toNat) p.toNat) false 2
  | .t (.tst t _ _ _ p) => rowTouches (capShape o t.toNat) a (tPitch (capShape o t.toNat) p.toNat) true 2
  | _ => []

/-! ### Writes into a buffer, and what its readers in flight may still see (R119, R190, R249, R279) -/

/-- The buffer bytes an operation in flight reads, piece after piece. -/
def opReads (o : FOp) : List (Nat × Nat) := ((opTouches o).filter (fun t => !t.2.2.1)).map (fun t => (t.1, t.2.1))

/-- The bytes of pieces, one after another. -/
def olderBytes (c : Core) (ps : List (Nat × Nat)) : List Byte := ps.flatMap (fun p => bufRead c p.1 p.2)

/-- Before a write of `n` bytes at `a`: every operation in flight that has still to read some of them keeps what it could read. -/
def keepOlds (c : Core) (a n : Nat) (o : FOp) : FOp :=
  if !o.started && (opReads o).any (fun p => decide (p.1 < a + n) && decide (a < p.1 + p.2)) then { o with olds := o.olds ++ [olderBytes c (opReads o)] }
  else o

/-- The same for copies that read the buffer. -/
def keepWas (c : Core) (a : Nat) (bs : List Byte) (q : Copy) : Copy :=
  if q.active && dSrcKind q.desc == 1 then { q with was := q.was ++ lostOf a (memReads c.buf a bs.length) bs } else q

/-- Write bytes into the buffer. -/
def bufWrite (c : Core) (a : Nat) (bs : List Byte) (bad : Bool) : Core :=
  { c with
    buf := memWrites c.buf a bs, bufPoison := bufPoisonAfter a bs.length bad c.bufPoison (linesOf a bs.length)
    flight := c.flight.map (keepOlds c a bs.length), lcu := c.lcu.map (keepWas c a bs)
    readers := c.readers.map (fun r => { r with was := r.was ++ lostOf a (memReads c.buf a bs.length) bs }) }

/-- Write the pieces of one copy or operation into the buffer; units that they complete, with the clean bytes that it wrote before, become valid
(R432). -/
def bufCover (before : List (Nat × Nat)) (c : Core) (ps : List (Nat × List Byte × Bool)) : Core :=
  let c1 := ps.foldl (fun c p => bufWrite c p.1 p.2.1 p.2.2) c
  { c1 with bufPoison := (coveredUnits before ps).foldl (fun m u => smSet false m u false) c1.bufPoison }

/-- The same for pieces that are all the writes of their operation. -/
def bufPieces (c : Core) (ps : List (Nat × List Byte × Bool)) : Core := bufCover [] c ps

/-- One of several values, freely (log entry 18). -/
def pickOf {α : Type} (ctr i : Nat) (x : α) (xs : List α) : α :=
  if xs.isEmpty then x else (x :: xs).getD ((Config.freeByte ctr i).toNat % (xs.length + 1)) x

/-- Bytes read while other agents wrote them: each is the value now or one that it held before (R190, R249). -/
def raceOlds (ctr : Nat) (olds : List (List Byte)) (cur : List Byte) : List Byte :=
  if olds.isEmpty then cur
  else (cur.zipIdx).map (fun p => pickOf ctr p.2 p.1 (((olds.map (fun l => l.getD p.2 p.1)).filter (fun x => x != p.1)).dedup))

/-- One line of a streamed region read while other agents wrote it: each element is the value now or one that it held before (R119),
the side section byte by byte. -/
def raceLine (ctr i fmt : Nat) (olds : List (List Byte)) (cur : List Byte) : List Byte :=
  let w := fmtBits fmt
  let ne := lineElems fmt
  let n := ne * 8 / w
  let old := olds.map (fun l => leNat (l.take ne))
  let now := leNat (cur.take ne)
  let at_ (x e : Nat) : Nat := x / 2 ^ (w * e) % 2 ^ w
  leBytes ne (packCodes w ((List.range n).map (fun e =>
    pickOf ctr (i * 256 + e) (at_ now e) (((old.map (fun x => at_ x e)).filter (fun x => x != at_ now e)).dedup))))
  ++ raceOlds (ctr + i) (olds.map (fun l => l.drop ne)) (cur.drop ne)

/-- A streamed region of `rows` lines read while other agents wrote it (R119). -/
def raceRegion (ctr fmt rows : Nat) (olds : List (List Byte)) (cur : List Byte) : List Byte :=
  if olds.isEmpty then cur
  else (List.range rows).flatMap (fun i =>
    let cut (l : List Byte) : List Byte := slice l (i * lineBytes fmt) (lineBytes fmt)
    raceLine ctr i fmt (olds.map cut) (cut cur))

end Sys2Proof.Machine
end

