-- ==== Sys2Proof/Machine/ArrayUnit.lean ====
section
/-! DEFINITION. The matrix array (04): the product of a pass in every accumulation mode, the start of a pass, the commit of a
chain, MLD, MSWAP, MDRAIN and MTOPK at completion. -/

namespace Sys2Proof.Machine

/-- What a pass needs beside its set: streamed format, row count, mode, active columns, MMULZ, row scales, zero points. -/
structure Pass where
  zero : Bool
  fmt : Nat
  rows : Nat
  mode : Nat
  cols : Nat
  depth : Nat
  rowscale : Bool
  zp : Nat
  deriving DecidableEq, Repr

/-- The pass of an MMUL with the zero-point value it captured (R175). -/
def passOf (m : MOp) (zp : Nat) : Option Pass :=
  match m with
  | .mmul zero _ _ rows1 _ fmt acc depth1 cols1 rs _ =>
    some ⟨zero, fmt.toNat, rows1.toNat + 1, acc.toNat, cols1.toNat + 1, depth1.toNat + 1, rs, zp⟩
  | _ => none

/-- The streamed values of row m: codes of the K elements (R116). -/
def rowCodes (p : Pass) (k : Nat) (region : List Byte) (m : Nat) : List Nat :=
  (List.range k).map (fun i => streamElem p.fmt p.rows region m i)

/-- The stationary codes of column j (R107, R108). -/
def colCodes (st : StatSet) (j : Nat) : List Nat := (List.range st.k).map (fun i => statElem st i j)

/-- The streamed zero point za (R174). -/
def zaOf (p : Pass) : Int :=
  if p.fmt = 12 then signedOf 4 p.zp else if p.fmt = 11 then (p.zp % 256 : Nat) else signedOf 8 p.zp

/-- The stationary zero point zw (R174). -/
def zwOf (p : Pass) (st : StatSet) : Int :=
  let b := p.zp / 256 % 256
  if p.fmt = 12 then signedOf 4 b else if st.fmt = 11 then (b : Nat) else signedOf 8 b

/-- An integer element code as an integer. -/
def intElem (fmt v : Nat) : Int := prodInt (decodeElem fmt v)

/-- The integer products of a row and a column with their zero points (R176, R177): the list of terms that are added, the
correction of class I4 last. -/
def intTerms (p : Pass) (st : StatSet) (ss ws : List Nat) : List Int :=
  if p.fmt = 12 then
    let c := (ws.map (intElem st.fmt)).foldl (· + ·) 0
    (ss.zip ws).map (fun x => intElem p.fmt x.1 * intElem st.fmt x.2) ++ (if zaOf p = 0 then [] else [-(zaOf p * c)])
  else (ss.zip ws).map (fun x => (intElem p.fmt x.1 - zaOf p) * (intElem st.fmt x.2 - zwOf p st))

/-- The floating-point products of a row and a column, row scale included, in ascending k (R125, R128, R146). -/
def fpProds (p : Pass) (st : StatSet) (scale : Option Nat) (ss ws : List Nat) : List Num :=
  (ss.zip ws).map (fun x =>
    let q := numMul (decodeElem p.fmt x.1) (decodeElem st.fmt x.2)
    match scale with
    | none => q
    | some e => if e = 255 then .nan else numScale q ((e : Int) - 127))

/-- The blocks of an MX row and column: products, streamed scale, stationary scale (R156). -/
def mxBlocks (p : Pass) (st : StatSet) (region : List Byte) (m j : Nat) (ss ws : List Nat) : List (List Num × Num × Num) :=
  ((chunks 32 (fpProds p st none ss ws)).zipIdx).map (fun b =>
    (b.1, decodeScale (streamScale p.fmt p.rows region m b.2), decodeScale (statScale st j b.2)))

/-- The group size of a mode (R125). -/
def groupOf (mode : Nat) : Nat := if mode = 0 then 4 else if mode = 1 then 8 else 16

/-- One destination element combined (R125, R126, R157, R159, R160): `prior` and the result are the element's bits, 32 or 128. -/
def combine (p : Pass) (st : StatSet) (region : List Byte) (scale : Option Nat) (m j prior : Nat) (ss : List Nat) : Nat :=
  let ws := colCodes st j
  let pr := if p.zero then 0 else prior
  if p.mode = 3 then slotNat ((fpProds p st scale ss ws).foldl slotAddProd { slotOf pr with isInt := false })
  else if p.mode = 5 then slotNat ((intTerms p st ss ws).foldl slotAddInt { slotOf pr with isInt := true })
  else if p.mode = 4 then wrapInt 32 ((intTerms p st ss ws).foldl (· + ·) (signedOf 32 pr))
  else if fmtIsMx p.fmt then toF32 ((mxBlocks p st region m j ss ws).foldl accBlock (ofF32 pr))
  else toF32 (accGroups (groupOf p.mode) (ofF32 pr) (fpProds p st scale ss ws))

/-- What a column at and beyond C holds after the pass (R127): unchanged by MMUL, zero by MMULZ. In mode 5 MMULZ leaves the int bit set
there, as every write of mode 5 does by R160, though R126 clears all flag bits (log entry 101). -/
def beyond (p : Pass) (prior : Nat) : Nat :=
  if p.zero then (if p.mode = 5 then slotNat { Slot96.zero with isInt := true } else 0) else prior

/-- One accumulator row of the pass: `prior` holds the row's bytes, 256 or 1,024. -/
def passRow (p : Pass) (st : StatSet) (region : List Byte) (scale : Option Nat) (m : Nat) (prior : List Byte) : List Byte :=
  let w := if p.mode = 3 || p.mode = 5 then 16 else 4
  let ss := rowCodes p st.k region m
  (List.range 64).flatMap (fun j =>
    let pr := fieldAt prior (w * j) w
    leBytes w (if j < p.cols then combine p st region scale m j pr ss else beyond p pr))

/-- All rows of the pass onto a working range (R109, R125): `work` holds the range's bytes row after row. -/
def passRows (p : Pass) (st : StatSet) (region scales : List Byte) (work : List (List Byte)) : List (List Byte) :=
  (work.zipIdx).map (fun r =>
    passRow p st region (if p.rowscale then some (scales.getD r.2 0).toNat else none) r.2 r.1)

/-- Bytes of the streamed region (R115). -/
def regionBytes (p : Pass) : Nat := p.rows * lineBytes p.fmt

/-- Bytes per row of the destination in units of FP32 rows (R27). -/
def rowUnits (mode : Nat) : Nat := if mode = 3 || mode = 5 then 4 else 1

/-- The cell-beats one row occupies (R120, R122). -/
def beatsPerRow (fmt : Nat) : Nat := if fmt = 1 || fmt = 2 then 2 else 1

/-- Whether a product is omitted by zero detection (R124). -/
def omitted (a b : Num) : Bool :=
  (numIsZero a && !numIsNan b && !numIsInf b) || (numIsZero b && !numIsNan a && !numIsInf a)

/-- Whether cell (i, j) omits a product of row m in some of its beats (R124, R176); the second value of the last array row is zero when
K is odd (R123). -/
def cellGated (p : Pass) (st : StatSet) (region : List Byte) (scale : Option Nat) (m i j : Nat) (ss ws : List Nat) : Bool :=
  let d := classD st.cls
  if scale = some 255 then false
  else
    (List.range d).any (fun u =>
      let k := d * i + u
      if k < st.k then
        let a := if p.fmt = 10 || p.fmt = 11 then Num.ofInt (intElem p.fmt (ss.getD k 0) - zaOf p) else decodeElem p.fmt (ss.getD k 0)
        let b := if p.fmt = 10 || p.fmt = 11 then Num.ofInt (intElem st.fmt (ws.getD k 0) - zwOf p st) else decodeElem st.fmt (ws.getD k 0)
        let bad := fmtIsMx p.fmt && (streamScale p.fmt p.rows region m (k / 32) == 255 || statScale st j (k / 32) == 255)
        omitted a b && !bad
      else true)

/-- Cell-beats in which a pass omits a product (R124, R141). -/
def gatedCount (p : Pass) (st : StatSet) (region scales : List Byte) : Nat :=
  ((List.range p.rows).map (fun m =>
    let ss := rowCodes p st.k region m
    let sc := if p.rowscale then some (scales.getD m 0).toNat else none
    ((List.range p.cols).map (fun j =>
      let ws := colCodes st j
      ((List.range p.depth).filter (fun i => cellGated p st region sc m i j ss ws)).length)).foldl (· + ·) 0)).foldl (· + ·) 0
  * beatsPerRow p.fmt

/-- Cell-beats masked in a pass (R123, R141). -/
def maskedCount (p : Pass) : Nat := (4096 - p.depth * p.cols) * p.rows * beatsPerRow p.fmt

/-- Add cell-beats to a counter in units of 64; what is left over stays for the next pass. -/
def bump64 (s : State) (a rem n : Nat) : State × Nat := (bump s a ((rem + n) / 64), (rem + n) % 64)

/-- Codes of the array (R135, R167, R191). -/
def cArrStatParity : Word16 := 0x2001
def cTallyRangeRead : Word16 := 0x2010
def cZpWeight : Word16 := 0x2011
def cReqEntry : Word16 := 0x2012

/-- Operations issued before `o`. -/
def earlier (c : Core) (o : FOp) : List FOp := c.flight.filter (fun x => x.ord < o.ord)

/-- Whether nothing but the order of the passes keeps the pass of `o` back (R99, R100, R112, R120): no MLD before an uncommitted earlier
MSWAP is pending, no earlier chain on rows of its ranges is uncommitted but its own, and no earlier reader of the partner range is in
flight. -/
def passFree (c : Core) (o : FOp) : Bool :=
  match mmulRange o.body with
  | none => false
  | some r =>
    let es := earlier c o
    let swaps := es.filter (fun x => x.body == .m .mswap)
    let mldOk := es.all (fun x => match x.body with
      | .m (.mld _ _ _) => swaps.all (fun w => decide (w.ord < x.ord))
      | _ => true)
    mldOk
    && es.all (fun x => !isMmul x || x.chain == o.chain ||
        (match mmulRange x.body with | some d => !(rangesMeet r d || rangesMeet r (partner d)) | none => true))
    && es.all (fun x => isMmul x || (match x.body with
        | .m m => (match mRows m with | some d => !rangesMeet (partner r) d | none => true)
        | _ => true))
    && c.lcu.all (fun q => copyAfter o q || (match copyRows q.desc with | some d => !rangesMeet (partner r) d | none => true))

/-- Whether the pass of `o` can run: it is free to, and every earlier pass has run. -/
def passReady (c : Core) (o : FOp) : Bool := passFree c o && (earlier c o).all (fun x => !isMmul x || x.started)

/-- Whether an MLD must let an earlier pass finish with the register it writes (R111): the pass still waits, and an MSWAP between them made
its set the shadow set. -/
def mldHeld (c : Core) (o : FOp) : Bool :=
  (earlier c o).any (fun x => isMmul x && !x.started
    && (earlier c o).any (fun w => w.body == .m .mswap && decide (x.ord < w.ord)))

/-- Whether the pass uses the shadow set: an odd number of earlier MSWAPs has not completed (R112). -/
def usesShadow (c : Core) (o : FOp) : Bool := ((earlier c o).filter (fun x => x.body == .m .mswap)).length % 2 == 1

/-- Replace an operation in flight, found by its issue number. -/
def setOp (c : Core) (o : FOp) : Core := { c with flight := c.flight.map (fun x => if x.ord = o.ord then o else x) }

/-- Take an operation out of flight. -/
def dropOp (c : Core) (o : FOp) : Core := { c with flight := c.flight.filter (fun x => x.ord != o.ord) }

/-- The end of an operation (R92, R24): it leaves flight and its done counter advances. -/
def finishOp (s : State) (core : Nat) (o : FOp) : State :=
  let s1 := if isMmul o then s else touchAll core (opTouches o) s
  doneAdvance (modCore s1 core (fun c => dropOp c o)) core o.done

/-- What happened to the stationary values or to a memory word while a pass ran (R135, R251). -/
def arrayEvent (s : State) (core : Nat) (shadow : Bool) (o : FOp) (first : Nat) (reads : Upset → Bool) : State :=
  match o.outcome with
  | .clean => meet s core reads
  | .statParity =>
    let s1 := modCore s core (fun c => if shadow then { c with shd := { c.shd with faulty := true } }
                                       else { c with act := { c.act with faulty := true } })
    meet (contained s1 (srcCore core) cArrStatParity (winAcc core first % 2 ^ 46)) core reads
  | .word u => meet (upsetNew s core u) core reads

/-- The working rows of a range hold nothing yet: marks of what their physical rows held before are gone (R98). -/
def freshRows (first n : Nat) (c : Core) : Core :=
  { c with accPoison := (List.range n).foldl (fun m i => smSet false m (physRow c (pairRow (first + i))) false) c.accPoison }

/-- Run the pass of `o` to its last row (R120 orders 1 to 7): poison is consumed (R136, R433), counters advance, and the set and
the streamed bytes it used are kept for the commit. -/
def runPass (s : State) (core : Nat) (o : FOp) (outcome : ArrayOutcome) : State :=
  let c := getCore s core
  match o.body, mmulRange o.body with
  | .m m, some (first, n) =>
    match passOf m o.addr2.toNat with
    | none => s
    | some p =>
      let sh := usesShadow c o
      let st := if sh then c.shd else c.act
      let ra := o.addr1.toNat
      let sa := o.addr2.toNat
      let nr := regionBytes p
      let ns := if p.rowscale then p.rows else 0
      if st.faulty then poisonConsumed s core o.idx (srcCore core) (winAcc core first) 9
      else
        let chainFirst := c.flight.all (fun x => !(isMmul x && x.chain == o.chain && decide (x.ord < o.ord)))
        -- the accumulator rows it reads: the destination's, for a later member of a chain the working rows
        let prior := if p.zero then [] else [(if chainFirst then first else pairRow first, n)]
        let o1 := { o with outcome := outcome }
        let s0 := if chainFirst then modCore s core (freshRows first n) else s
        let s1 := arrayEvent s0 core sh o1 first (fun u => bufAmong [(ra, nr), (sa, ns)] u || accAmong prior u)
        let c1 := getCore s1 core
        match (bufFirstPoison c1 ra nr).orElse (fun _ => if p.rowscale then bufFirstPoison c1 sa ns else none) with
        | some u => poisonConsumed s1 core o.idx (srcCore core) (winBuf core (u * 64)) 2
        | none =>
          match prior.findSome? (fun r => accFirstBad c1 r.1 r.2) with
          | some j => poisonConsumed s1 core o.idx (srcCore core) (winAcc core j) 3
          | none =>
            let (ctr, s2) := draw s1
            let used := raceRegion ctr p.fmt p.rows (o.olds.map (fun l => l.take nr)) (bufRead c1 ra nr)
              ++ raceOlds (ctr + nr) (o.olds.map (fun l => l.drop nr)) (bufRead c1 sa ns)
            let o2 := { o1 with started := true, set := st, snap := used, olds := [] }
            let s3 := modCore s2 core (fun c => setOp c o2)
            let s4 := bump s3 (aArrBeats core) p.rows
            let (s5, g) := bump64 s4 (aArrGated core) c.gatedRem (gatedCount p st (used.take nr) (used.drop nr))
            let (s6, k) := bump64 s5 (aArrMasked core) c.maskedRem (maskedCount p)
            touchAll core (opTouches o) (modCore s6 core (fun c =>
              { c with gatedRem := g, maskedRem := k, passAt := now s6, passNs := (Config.freeWord ctr).toNat }))
  | _, _ => s

/-- The oldest chain in flight. -/
def oldestChain (c : Core) : Option Nat := (c.flight.find? isMmul).map (fun o => o.chain)

/-- The members of a chain, in issue order (R100). -/
def chainMembers (c : Core) (k : Nat) : List FOp := c.flight.filter (fun o => isMmul o && o.chain == k)

/-- The rows of a range as rows of the mode's size. -/
def workRows (c : Core) (first n units : Nat) : List (List Byte) :=
  (List.range (n / units)).map (fun i => accRowsAt c (first + i * units) units)

/-- The members of a chain applied in issue order (R125). -/
def chainRun : List FOp → List (List Byte) → List (List Byte)
  | [], w => w
  | o :: os, w =>
    match o.body with
    | .m m =>
      match passOf m o.addr2.toNat with
      | some p => chainRun os (passRows p o.set (o.snap.take (regionBytes p)) (o.snap.drop (regionBytes p)) w)
      | none => chainRun os w
    | _ => chainRun os w

/-- Write the working rows into the partner's physical rows and flip every pair of the range (R98); a row is poisoned when a
member read bad stationary values or a word of the working row was bad (R135), and valid otherwise (R137). -/
def flipRows (bad : Bool) : List (Nat × List Byte) → Core → Core
  | [], c => c
  | (j, bs) :: l, c =>
    let p := physRow c (pairRow j)
    let k := j % 1024
    flipRows bad l { c with
      acc := memWrites c.acc (accRowAddr p) bs
      accPoison := smSet false c.accPoison p (bad || smGet false c.accPoison p)
      flips := smSet false c.flips k (!smGet false c.flips k) }

/-- Cut bytes into FP32 rows numbered from `j`. -/
def asRows (j : Nat) (bs : List Byte) : List (Nat × List Byte) := ((chunks 256 bs).zipIdx).map (fun p => (j + p.2, p.1))

/-- The done counters of the members of a committed chain advance in issue order (R100). -/
def finishDone (core : Nat) : List FOp → State → State
  | [], s => s
  | o :: os, s => finishDone core os (doneAdvance s core o.done)

/-- The members of a committed chain leave flight together, then their done counters advance: a halt that one of these advances brings
finds every member completed (R95). -/
def finishAll (core : Nat) (ms : List FOp) (s : State) : State :=
  finishDone core ms (modCore s core (fun c => { c with flight := c.flight.filter (fun x => !(ms.map (fun o => o.ord)).contains x.ord) }))

/-- The commit of a chain all of whose passes have run (R98, R100). -/
def commitChain (s : State) (core k : Nat) : State :=
  let c := getCore s core
  let ms := chainMembers c k
  match ms with
  | [] => s
  | o :: _ =>
    match mmulRange o.body, o.body with
    | some (first, n), .m (.mmul _ _ _ _ _ _ acc _ _ _ _) =>
      let w := chainRun ms (workRows c first n (rowUnits acc.toNat))
      let bad := ms.any (fun x => x.outcome == .statParity)
      finishAll core ms (setCore s core (flipRows bad (asRows first w.flatten) c))
    | _, _ => s

/-! ### MLD, MSWAP, MDRAIN, MTOPK at completion -/

/-- MLD (R108, R110, R138): the shadow set takes the tile with its record; a faulty mark is cleared. -/
def doMld (s : State) (core : Nat) (o : FOp) (t : Nat) (turn : Bool) : State :=
  let c := getCore s core
  let sh := capShape o t
  let st := { mldRecord sh turn with data := tileAll c t sh }
  combReads (setCore s core { c with shd := st }) core 0 (allRows t sh.rows)

/-- MSWAP (R112, R114). -/
def doMswap (s : State) (core : Nat) : State := modCore s core (fun c => { c with act := c.shd, shd := c.act })

/-- The Mint words of an M or V operation's row. -/
def wordsFor (s : State) (core : Nat) (o : FOp) (rnd : BitVec 2) (r n : Nat) : List Nat :=
  (List.range n).map (fun e => drawWord s core o.key rnd r e)

/-- Whether some slot of Tally row t has its range bit set (R167). -/
def rowRange (c : Core) (t : Nat) : Bool :=
  let bs := accRowsAt c (4 * t) 4
  (List.range 64).any (fun e => (slotOf (fieldAt bs (16 * e) 16)).range)

/-- TALLY_RANGE_READ, once for an operation, naming the first Tally row concerned (R167). -/
def rangeEvent (s : State) (core first n kind : Nat) (topk : Bool) : State :=
  if kind = 2 then
    match ((List.range n).map (fun i => first + i)).find? (rowRange (getCore s core)) with
    | some t => record s kEvent (srcCore core) cTallyRangeRead (t % 512 + core % 1024 * 2 ^ 16 + b2n topk * 2 ^ 32)
    | none => s
  else s

/-- FP32 rows of drained rows, for poison. -/
def drainRange (first n kind : Nat) : Nat × Nat := fpRows (kind == 2) first n

/-- MDRAIN at completion (R130 to R132, R179 to R190). In mode 2 the table's entries are tested before TALLY_RANGE_READ is recorded, so an
operation that ends in REQ_ENTRY records none (R167, log entry 104). -/
def doMdrain (s : State) (core : Nat) (o : FOp) (first n t mode rnd kind : Nat) : State :=
  let c := getCore s core
  let sh := capShape o t
  let (pf, pn) := drainRange first n kind
  let ta := o.addr1.toNat
  match accFirstBad c pf pn with
  | some j => poisonConsumed s core o.idx (srcCore core) (winAcc core j) 3
  | none =>
    match (if mode = 2 then bufFirstPoison c ta 1024 else none) with
    | some u => poisonConsumed s core o.idx (srcCore core) (winBuf core (u * 64)) 4
    | none =>
      let (ctr, s0) := draw s
      let tab := if mode = 2 then raceOlds ctr o.olds (bufRead c ta 1024) else []
      let es := (List.range 64).map (fun j => reqEntry (slice tab (16 * j) 16))
      if mode = 2 && !(es.all (reqOk sh.fmt)) then jobFatal s0 core o.idx cReqEntry (srcCore core) (openPay cReqEntry (srcCore core))
      else
        let s1 := rangeEvent s0 core first n kind false
        let rndB := BitVec.ofNat 2 rnd
        let (smin, smax) := swin s1 core
        let vals := (List.range n).map (fun i => srcVals c kind (first + i))
        let rows := (vals.zipIdx).map (fun p =>
          let xs := p.1.zip (wordsFor s1 core o rndB p.2 64)
          if mode = 0 then packRow sh.fmt xs rnd
          else if mode = 1 then
            let cs := if sh.fmt = 3 || sh.fmt = 4 then scaleRow8 sh.fmt (rowScale8 sh.fmt smin smax p.1) xs rnd
                      else scaleRowI sh.fmt xs rnd
            leBytes (elemBytes sh.fmt 64) (packCodes (fmtBits sh.fmt) cs)
          else leBytes (elemBytes sh.fmt 64) (packCodes (fmtBits sh.fmt)
                ((xs.zip es).map (fun q => requant sh.fmt q.2 q.1.1 rnd q.1.2))))
        let fp8 := sh.fmt == 3 || sh.fmt == 4
        let vec := vals.flatMap (fun v =>
          if fp8 then leBytes 1 (scaleByte8 (rowScale8 sh.fmt smin smax v)) else leBytes 4 (rowScaleI sh.fmt v))
        let clamps := if mode = 1 && fp8 then
            (vals.filter (fun v => match rowScale8 sh.fmt smin smax v with | some (_, k) => k | none => false)).length else 0
        let c1 := tileWrite (getCore s1 core) t sh rows
        let c2 := if mode = 1 then bufPieces c1 [(ta, vec, false)] else c1
        let s2 := bump (setCore s1 core c2) (aArrQclamp core) clamps
        let s3 := if rnd = 2 then bump s2 (aMintDraws core) (64 * n) else s2
        finishOp s3 core o

/-- Whether value `a` at a lower position key ranks above `b` (R169): NaN first, then larger values, ties to the lower key. -/
def rankAbove (a b : Num × Nat) : Bool :=
  match numIsNan a.1, numIsNan b.1 with
  | true, true => decide (a.2 < b.2)
  | true, false => true
  | false, true => false
  | false, false => match numCmp a.1 b.1 with
    | .gt => true
    | .lt => false
    | .eq => decide (a.2 < b.2)

/-- Insertion into a ranked list. -/
def rankInsert (x : Num × Nat) : List (Num × Nat) → List (Num × Nat)
  | [] => [x]
  | y :: ys => if rankAbove x y then x :: y :: ys else y :: rankInsert x ys

/-- A list ranked (R169). -/
def ranked (xs : List (Num × Nat)) : List (Num × Nat) := xs.foldl (fun acc x => rankInsert x acc) []

/-- The values MTOPK ranks in a row: those of the source kind, Tally slots by V, whatever their int bits; a slot that converts to NaN
or to an infinity ranks as that (R169). -/
def rankVals (c : Core) (kind j : Nat) : List Num :=
  if kind = 2 then
    let bs := accRowsAt c (4 * j) 4
    (List.range 64).map (fun e =>
      let x := slotOf (fieldAt bs (16 * e) 16)
      match slotNum x with
      | .fin _ _ _ => slotNum { x with isInt := true }
      | y => y)
  else srcVals c kind j

/-- MTOPK at completion (R134, R169). -/
def doMtopk (s : State) (core : Nat) (o : FOp) (first n vt pt k base kind : Nat) : State :=
  let c := getCore s core
  let (pf, pn) := drainRange first n kind
  match accFirstBad c pf pn with
  | some j => poisonConsumed s core o.idx (srcCore core) (winAcc core j) 3
  | none =>
    let vs := capShape o vt
    let ps := capShape o pt
    let s1 := rangeEvent s core first n kind true
    let tops := (List.range n).map (fun i => (ranked ((rankVals c kind (first + i)).zip (List.range 64))).take k)
    let vrows := (tops.zipIdx).map (fun r =>
      let xs := srcVals c kind (first + r.2)
      packRow vs.fmt (r.1.map (fun x => (xs.getD x.2 .nan, 0))) 0)
    let prows := tops.map (fun r => leBytes (4 * k) (packCodes 32 (r.map (fun x => (base + x.2) % 2 ^ 24))))
    let c1 := tileWrite (tileWrite (getCore s1 core) vt vs vrows) pt ps prows
    finishOp (setCore s1 core c1) core o

end Sys2Proof.Machine
end

