-- ==== Sys2Proof/Machine/VectorUnit.lean ====
section
/-! DEFINITION. The vector unit (07): the checks of step 6 for each fn, the FP32 functions, reductions, scaling, requantisation,
the math library, VSR DRAW and the fused AdamW update, at completion. -/

namespace Sys2Proof.Machine

/-- Codes of the vector unit (R214). -/
def cVecTable : Word16 := 0x3001
def cAdamParam : Word16 := 0x3002

/-! ### Step 6 checks (R84, R88, R195 to R202, R208, R210) -/

/-- The four accepted shapes of a source (R196). -/
def srcShapeOk (d s : Shape) : Bool := (s.rows == d.rows || s.rows == 1) && (s.elems == d.elems || s.elems == 1)

/-- Same rows and elements. -/
def sameDims (a b : Shape) : Bool := a.rows == b.rows && a.elems == b.elems

/-- Whether a VFN is evaluated from the library (R202). -/
def isLibrary (fn : Nat) : Bool := fn != 4 && fn != 5

/-- The format check of a V operation; true when it fails. -/
def vFmtBad (op : VOpc) (v : VArgs) (d a b c : Shape) : Bool :=
  let fn := v.fn.toNat
  let f := v.fmt.toNat
  match op with
  | .vnop => false
  | .vop => d.fmt != f || (fn == 0x0F && a.fmt != 0)
  | .vcvt => d.fmt != f
  | .vred => d.fmt != f || (decide (fn ≥ 6) && b.fmt != 0) || (fn == 7 && d.fmt != 0)
  | .vscale =>
    if fn = 0 then !([3, 4, 10, 12].contains f) || d.fmt != (if f = 3 || f = 4 then 14 else 0)
    else d.fmt != f || !([3, 4, 10, 12].contains d.fmt) || b.fmt != (if d.fmt = 3 || d.fmt = 4 then 14 else 0)
  | .vrq => d.fmt != f || !([3, 10, 11, 12].contains d.fmt) || fmtIsMx a.fmt || b.fmt != 11
  | .vfn => d.fmt != f
  | .vsr => fn == 1 && (d.fmt != f || d.fmt != 0)
  | .vadam => d.fmt != f || d.fmt != 1 || !([0, 1].contains a.fmt) || b.fmt != 1 || c.fmt != 1

/-- The dimension check of a V operation; true when it fails. -/
def vDimBad (op : VOpc) (v : VArgs) (d a b c : Shape) : Bool :=
  let fn := v.fn.toNat
  match vUse op fn with
  | none => false
  | some u =>
    match op with
    | .vred =>
      if fn ≤ 5 then d.rows != a.rows || d.elems != 1
      else !sameDims a b || d.rows != a.rows || decide (d.elems > a.elems) || decide (d.elems > 64)
    | .vscale =>
      if fn = 0 then d.rows != a.rows || d.elems != 1 else !srcShapeOk d a || b.rows != d.rows || b.elems != 1
    | .vrq => !srcShapeOk d a || b.elems != 512 || decide (b.rows < ceilDiv (16 * d.elems) 512)
    | .vadam =>
      !sameDims d a || !sameDims d b || !sameDims d c || v.dst == v.b || v.dst == v.c || v.b == v.c
    | _ => (u.a && !srcShapeOk d a) || (u.b && !srcShapeOk d b) || (u.c && !srcShapeOk d c)

/-! ### FP32 values of sources (R194) -/

/-- The FP32 values of a tile row (R194). -/
def vRow (c : Core) (t : Nat) (sh : Shape) (r : Nat) : List Num :=
  let xs := rowVals sh.fmt sh.elems (tileRow c t sh r)
  if fmtIsMx sh.fmt then xs.map rnd32 else xs

/-- The row that a source gives for destination row r, spread over n elements (R196). -/
def vSpread (c : Core) (t : Nat) (sh : Shape) (r n : Nat) : List Num :=
  let xs := vRow c t sh (if sh.rows = 1 then 0 else r)
  if sh.elems = 1 then List.replicate n (xs.getD 0 .nan) else xs

/-- The raw codes of a tile row of 32-bit elements. -/
def vCodes (c : Core) (t : Nat) (sh : Shape) (r : Nat) : List Nat := elemsOf sh.fmt sh.elems (leNat (tileRow c t sh r))

/-- The codes a source gives for destination row r. -/
def vCodesSpread (c : Core) (t : Nat) (sh : Shape) (r n : Nat) : List Nat :=
  let xs := vCodes c t sh (if sh.rows = 1 then 0 else r)
  if sh.elems = 1 then List.replicate n (xs.getD 0 0) else xs

/-- 1.0 or +0. -/
def boolNum (b : Bool) : Num := if b then .fin false 1 0 else .zero

/-- VOP on one element (R198). `raw` is A's bit pattern and `imm` the immediate. -/
def vopElem (fn : Nat) (a b c : Num) (raw imm : Nat) : Num :=
  match fn with
  | 0x00 => rnd32 (numAdd a b)
  | 0x01 => rnd32 (numSub a b)
  | 0x02 => rnd32 (numMul a b)
  | 0x03 => rnd32 (numAdd (numMul a b) c)
  | 0x04 => rnd32 (numDiv a b)
  | 0x05 => numMax a b
  | 0x06 => numMin a b
  | 0x07 => numAbs a
  | 0x08 => numNegate a
  | 0x09 => if numIsNan c || numIsZero c then b else a
  | 0x0A => boolNum (numLt b a)
  | 0x0B => boolNum (numEq a b)
  | 0x0C => rnd32 (numMul a (ofF32 imm))
  | 0x0D => rnd32 (numAdd a (ofF32 imm))
  | 0x0E => numMin (numMax a b) c
  | _ => boolNum (decide (raw < imm))

/-- The special values of a library function (R202): none where the library decides. -/
def libSpecial (fn : Nat) (a : Num) : Option Num :=
  match a with
  | .nan => some .nan
  | .inf s =>
    match fn with
    | 0x00 => some (if s then .zero else .inf false)
    | 0x01 => some (if s then .zero else .inf false)
    | 0x02 => if s then some .nan else none
    | 0x03 => if s then some .nan else none
    | 0x07 => some (if s then .zero else .fin false 1 0)
    | 0x08 => some (.fin s 1 0)
    | 0x09 => if s then some (.fin true 0 0) else none
    | 0x0A => if s then some (.fin true 0 0) else none
    | 0x0B => some (.fin s 1 0)
    | 0x0C => some .nan
    | 0x0D => some .nan
    | _ => none
  | .fin s m _ =>
    match fn with
    | 0x02 => if m = 0 then some (.inf true) else if s then some .nan else none
    | 0x03 => if m = 0 then some (.inf true) else if s then some .nan else none
    | 0x06 => if m = 0 then some (.inf false) else none
    | _ => none

/-- VFN on one element (R202, R203). The library's results are free values of its level (log entry 11). -/
def vfnElem (level : Word16) (fn : Nat) (a : Num) : Num :=
  if fn = 4 then rnd32 (numDiv (.fin false 1 0) a)
  else if fn = 5 then rnd32 (numSqrt a)
  else
    match libSpecial fn a with
    | some x => x
    | none => ofF32 (Config.libFn level fn (BitVec.ofNat 32 (toF32 a))).toNat

/-- VRED fns 0x00 to 0x05 on a row (R200). -/
def vredRow (fn : Nat) (xs : List Num) : Num :=
  let sumsq := rnd32 (numSum (xs.map (fun x => numMul x x)))
  match fn with
  | 0 => rnd32 (numSum xs)
  | 1 => match xs with | [] => .nan | y :: ys => ys.foldl numMax y
  | 2 => match xs with | [] => .nan | y :: ys => ys.foldl numMin y
  | 3 => match xs with | [] => .nan | y :: ys => ys.foldl (fun m x => numMax m (numAbs x)) (numAbs y)
  | 4 => sumsq
  | _ => rnd32 (numSqrt (rnd32 (numDiv sumsq (.ofInt xs.length))))

/-- VSCALE fn 0x01 on one element (R199), as a code of the destination. The model follows R199's formula, a divided by the rounded f, also
where the bits of MDRAIN mode 1 (R182) would differ (log entry 106). -/
def vscaleElem (fmt : Nat) (a f : Num) (scale : Nat) (rnd : Rnd) (w : Nat) : Nat :=
  if fmt = 3 || fmt = 4 then encodeElem fmt (if scale = 255 then .nan else numScale a (127 - (scale : Int))) rnd w
  else
    let q : Int := qOf fmt
    let v : Int :=
      match numDiv a f with
      | .nan => 0
      | .inf s => if numIsZero f then 0 else (if s then -q else q)
      | .fin s m e => if numIsZero f then 0 else clampInt (-q) q (roundInt s m e rnd w)
    wrapInt (fmtBits fmt) v

/-! ### AdamW (R210, R211) -/

/-- A parameter block (R210). -/
structure AdamBlock where
  lr : Num
  beta1 : Num
  beta2 : Num
  eps : Num
  wd : Num
  gscale : Num
  bc1 : Num
  bc2 : Num
  skip : Bool
  deriving DecidableEq, Repr

/-- The block in 64 bytes. -/
def adamBlock (bs : List Byte) : AdamBlock :=
  let f (i : Nat) := ofF32 (fieldAt bs (4 * i) 4)
  ⟨f 0, f 1, f 2, f 3, f 4, f 5, f 6, f 7, fieldAt bs 32 4 != 0⟩

/-- FMA with one rounding. -/
def fma32 (a b c : Num) : Num := rnd32 (numAdd (numMul a b) c)

/-- One element of VADAM (R211): the new FP32 weight, first and second moment. -/
def adamElem (p : AdamBlock) (g0 w m v : Num) : Num × Num × Num :=
  let one : Num := .fin false 1 0
  let ob1 := rnd32 (numSub one p.beta1)
  let ob2 := rnd32 (numSub one p.beta2)
  let g := rnd32 (numMul p.gscale g0)
  let m1 := fma32 p.beta1 m (rnd32 (numMul ob1 g))
  let v1 := fma32 p.beta2 v (rnd32 (numMul (rnd32 (numMul ob2 g)) g))
  let mh := rnd32 (numMul m1 p.bc1)
  let vh := rnd32 (numMul v1 p.bc2)
  let u := rnd32 (numDiv mh (rnd32 (numAdd (rnd32 (numSqrt vh)) p.eps)))
  let w1 := rnd32 (numSub w (rnd32 (numMul p.lr (fma32 p.wd w u))))
  (w1, m1, v1)

/-- A BF16 row with the words of a moment's tensor ID. -/
def bf16Row (s : State) (core : Nat) (k : MKey) (xor r : Nat) (rnd : BitVec 2) (xs : List Num) : List Byte :=
  packRow 1 ((xs.zipIdx).map (fun p => (p.1, if rnd = 2 then keyWord s core k xor r p.2 else 0))) rnd.toNat

/-! ### Completion -/

/-- The rows of destination codes that a V operation other than VADAM computes, and the rows whose scale a clamp changed. -/
def vRows (s : State) (core : Nat) (o : FOp) (op : VOpc) (v : VArgs) : List (List Byte) × Nat :=
  let c := getCore s core
  let fn := v.fn.toNat
  let d := capShape o v.dst.toNat
  let a := capShape o v.a.toNat
  let b := capShape o v.b.toNat
  let cc := capShape o v.c.toNat
  let rnd := v.rnd.toNat
  let n := d.elems
  let rs := List.range d.rows
  let pack (r : Nat) (xs : List Num) : List Byte := packRow d.fmt (xs.zip (wordsFor s core o v.rnd r n)) rnd
  let codes (xs : List Nat) : List Byte := leBytes (elemBytes d.fmt n) (packCodes (fmtBits d.fmt) xs)
  match op with
  | .vop => (rs.map (fun r =>
      let xa := vSpread c v.a.toNat a r n
      let ra := if fn = 0x0F then vCodesSpread c v.a.toNat a r n else []
      let xb := if (vUse op fn).any (fun u => u.b) then vSpread c v.b.toNat b r n else []
      let xc := if (vUse op fn).any (fun u => u.c) then vSpread c v.c.toNat cc r n else []
      pack r ((List.range n).map (fun e =>
        vopElem fn (xa.getD e .nan) (xb.getD e .nan) (xc.getD e .nan) (ra.getD e 0) v.imm.toNat))), 0)
  | .vcvt => (rs.map (fun r =>
      let k : Int := if fn = 1 then signedOf 16 v.imm.toNat else 0
      pack r ((vSpread c v.a.toNat a r n).map (fun x => numScale x k))), 0)
  | .vred =>
    if fn ≤ 5 then (rs.map (fun r => pack r [vredRow fn (vRow c v.a.toNat a r)]), 0)
    else
      let top (r : Nat) := (ranked ((vRow c v.a.toNat a r).zip (vCodes c v.b.toNat b r))).take n
      if fn = 6 then (rs.map (fun r => pack r ((top r).map Prod.fst)), 0)
      else (rs.map (fun r => codes ((top r).map Prod.snd)), 0)
  | .vscale =>
    if fn = 0 then
      let f := v.fmt.toNat
      let w := swin s core
      let rows := rs.map (fun r => vRow c v.a.toNat a r)
      if f = 3 || f = 4 then
        (rows.map (fun xs => codes [scaleByte8 (rowScale8 f w.1 w.2 xs)]),
         (rows.filter (fun xs => match rowScale8 f w.1 w.2 xs with | some (_, k) => k | none => false)).length)
      else (rows.map (fun xs => codes [rowScaleI f xs]), 0)
    else (rs.map (fun r =>
      let xs := (vSpread c v.a.toNat a r n).zip (wordsFor s core o v.rnd r n)
      let f := (vRow c v.b.toNat b r).getD 0 .nan
      let sb := (vCodes c v.b.toNat b r).getD 0 0
      codes (xs.map (fun x => vscaleElem d.fmt x.1 f sb rnd x.2))), 0)
  | .vrq =>
    let tab := memReads c.comb (v.b.toNat * tileBytes) tileBytes
    let es := (List.range n).map (fun e => reqEntry (slice tab (16 * e) 16))
    (rs.map (fun r =>
      let xs := (vSpread c v.a.toNat a r n).zip (wordsFor s core o v.rnd r n)
      codes ((xs.zip es).map (fun q => requant d.fmt q.2 q.1.1 rnd q.1.2))), 0)
  | .vfn =>
    let level : Word16 := BitVec.ofNat 16 (regF s aVecMll 15 0)
    (rs.map (fun r => pack r ((vSpread c v.a.toNat a r n).map (vfnElem level fn))), 0)
  | .vsr => (rs.map (fun r => codes ((List.range n).map (fun e => keyWord s core o.key 0 r e))), 0)
  | _ => ([], 0)

/-- Whether a table entry that VRQ reads is bad (R189, R201). -/
def vrqBad (s : State) (core : Nat) (o : FOp) (op : VOpc) (v : VArgs) : Bool :=
  op == .vrq &&
  (let d := capShape o v.dst.toNat
   let tab := memReads (getCore s core).comb (v.b.toNat * tileBytes) tileBytes
   !((List.range d.elems).all (fun e => reqOk d.fmt (reqEntry (slice tab (16 * e) 16)))))

/-- The comb row reads of a V operation on ports A, B and C (R103): one read of each source for each destination row, in VRED and
VSCALE fn 0x00 for each row of A. VRQ reads its table once (log entry 64). R103 names no port for VADAM's reads of its destination rows:
the model gives them none and does not count them (log entry 100). -/
def vReads (s : State) (core : Nat) (o : FOp) (op : VOpc) (v : VArgs) : State :=
  match vUse op v.fn.toNat with
  | none => s
  | some u =>
    let rows (t : Nat) (n : Nat) : List (Nat × Nat) :=
      let sh := capShape o t
      (List.range n).map (fun r => (t, if sh.rows = 1 then 0 else r))
    let d := capShape o v.dst.toNat
    let nb := if op = .vrq then ceilDiv (16 * d.elems) 512 else d.rows
    let s1 := if u.a then combReads s core 1 (rows v.a.toNat d.rows) else s
    let s2 := if u.b then combReads s1 core 2 (if op = .vrq then allRows v.b.toNat nb else rows v.b.toNat nb) else s1
    if u.c then combReads s2 core 3 (rows v.c.toNat d.rows) else s2

/-- Mint words a V operation draws (R206, R211). -/
def vDraws (o : FOp) (op : VOpc) (v : VArgs) : Nat :=
  let d := capShape o v.dst.toNat
  let n := d.rows * d.elems
  if op = .vsr then n else if v.rnd = 2 then (if op = .vadam then 3 * n else n) else 0

/-- VADAM at completion (R210, R211, R214). -/
def doVadam (s : State) (core : Nat) (o : FOp) (v : VArgs) : State :=
  let c := getCore s core
  let pa := o.addr1.toNat
  match bufFirstPoison c pa 64 with
  | some u => poisonConsumed s core o.idx (srcCore core) (winBuf core (u * 64)) 4
  | none =>
    let (ctr, s0) := draw s
    let bs := raceOlds ctr o.olds (bufRead c pa 64)
    if (slice bs 36 28).any (fun b => b != 0) then jobFatal s0 core o.idx cAdamParam (srcCore core) (openPay cAdamParam (srcCore core))
    else
      let p := adamBlock bs
      let d := capShape o v.dst.toNat
      let ga := capShape o v.a.toNat
      let s1 := vReads s0 core o .vadam v
      let s2 :=
        if p.skip then modCore s1 core (fun c => dropLatches (dropLatches (dropLatches c v.dst.toNat) v.b.toNat) v.c.toNat)
        else
          let rows := (List.range d.rows).map (fun r =>
            let gs := vRow c v.a.toNat ga r
            let ws := vRow c v.dst.toNat d r
            let ms := vRow c v.b.toNat d r
            let vs := vRow c v.c.toNat d r
            (List.range d.elems).map (fun e => adamElem p (gs.getD e .nan) (ws.getD e .nan) (ms.getD e .nan) (vs.getD e .nan)))
          let put (t xor : Nat) (f : Num × Num × Num → Num) (c : Core) : Core :=
            tileWrite c t d ((rows.zipIdx).map (fun q => bf16Row s1 core o.key xor q.2 v.rnd (q.1.map f)))
          let c1 := put v.dst.toNat 0 (fun x => x.1) (getCore s1 core)
          let c2 := put v.b.toNat 0x80000000 (fun x => x.2.1) c1
          let c3 := put v.c.toNat 0xC0000000 (fun x => x.2.2) c2
          bump (setCore s1 core c3) (aMintDraws core) (vDraws o .vadam v)
      finishOp (bump s2 (aVecOps core) 1) core o

/-- A V operation at completion (R92, R197). -/
def doV (s : State) (core : Nat) (o : FOp) (op : VOpc) (v : VArgs) : State :=
  if op = .vadam then doVadam s core o v
  else if vrqBad s core o op v then jobFatal s core o.idx cReqEntry (srcCore core) (openPay cReqEntry (srcCore core))
  else
    let d := capShape o v.dst.toNat
    let (rows, clamps) := vRows s core o op v
    let s1 := vReads s core o op v
    let s2 := modCore s1 core (fun c => tileWrite c v.dst.toNat d rows)
    let s3 := bump (bump s2 (aArrQclamp core) clamps) (aMintDraws core) (vDraws o op v)
    finishOp (bump s3 (aVecOps core) 1) core o

/-! ### The T unit at completion (03, 02 R30) -/

/-- TLD at completion (R433: a poisoned unit is consumed and nothing commits; R249: bytes written meanwhile). -/
def doTld (s : State) (core : Nat) (o : FOp) (t pitch : Nat) : State :=
  let c := getCore s core
  let sh := capShape o t
  let p := tPitch sh pitch
  let n := rowPayload sh.fmt sh.elems
  let at_ (r : Nat) : Nat := o.addr1.toNat + r * p
  match (List.range sh.rows).findSome? (fun r => bufFirstPoison c (at_ r) n) with
  | some u => poisonConsumed s core o.idx (srcCore core) (winBuf core (u * 64)) 5
  | none =>
    let (ctr, s1) := draw s
    let all := raceOlds ctr o.olds ((List.range sh.rows).flatMap (fun r => bufRead c (at_ r) n))
    finishOp (setCore s1 core (tileWrite c t sh ((List.range sh.rows).map (fun r => slice all (r * n) n)))) core o

/-- TST at completion (R93). -/
def doTst (s : State) (core : Nat) (o : FOp) (t pitch : Nat) : State :=
  let s1 := combReads s core 4 (allRows t (capShape o t).rows)
  let c := getCore s1 core
  let sh := capShape o t
  let p := tPitch sh pitch
  let ps := (List.range sh.rows).map (fun r => (o.addr1.toNat + r * p, tileRow c t sh r, false))
  finishOp (setCore s1 core (bufPieces c ps)) core o

/-- TMOV at completion. -/
def doTmov (s : State) (core : Nat) (o : FOp) (d src : Nat) : State :=
  let ss := capShape o src
  let s1 := combReads s core 4 (allRows src ss.rows)
  let c := getCore s1 core
  finishOp (setCore s1 core (tileWrite c d (capShape o d) ((List.range ss.rows).map (fun r => tileRow c src ss r)))) core o

/-- TZERO at completion (R644). -/
def doTzero (s : State) (core : Nat) (o : FOp) (t : Nat) : State :=
  finishOp (modCore s core (fun c => dropLatches { c with comb := memWrites c.comb (t * tileBytes) (zeros tileBytes) } t)) core o

/-- TXP at completion: destination row e, element r is source row r, element e (R88). -/
def doTxp (s : State) (core : Nat) (o : FOp) (d src : Nat) : State :=
  let ss := capShape o src
  let ds := capShape o d
  let s1 := combReads s core 4 (allRows src ss.rows)
  let c := getCore s1 core
  let rows := (List.range ss.rows).map (fun r => vCodes c src ss r)
  let out := (List.range ss.elems).map (fun e =>
    leBytes (elemBytes ds.fmt ds.elems) (packCodes (fmtBits ds.fmt) (rows.map (fun x => x.getD e 0))))
  finishOp (setCore s1 core (tileWrite c d ds out)) core o

/-- The memory words an operation other than MMUL reads (R130, R134, R210, R30). -/
def opMeets (o : FOp) (u : Upset) : Bool :=
  bufAmong (opReads o) u || accAmong (match o.body with | .m m => (mRows m).toList | _ => []) u

/-- An operation other than MMUL at completion; a word it reads may be bad (R135, R251). -/
def completeOp (s0 : State) (core : Nat) (o : FOp) : State :=
  let s := meet s0 core (opMeets o)
  match o.body with
  | .m .nop => s
  | .m (.mld t _ turn) => finishOp (doMld s core o t.toNat turn) core o
  | .m .mswap => finishOp (doMswap s core) core o
  | .m (.mmul _ _ _ _ _ _ _ _ _ _ _) => s
  | .m (.mdrain first rows1 t _ mode rnd _ _ kind) =>
    doMdrain s core o first.toNat (rows1.toNat + 1) t.toNat mode.toNat rnd.toNat kind.toNat
  | .m (.mtopk first rows1 vt _ pt _ k1 base kind) =>
    doMtopk s core o first.toNat (rows1.toNat + 1) vt.toNat pt.toNat (k1.toNat + 1) base.toNat kind.toNat
  | .v op v => doV s core o op v
  | .t .nop => s
  | .t (.tcfg _ _ _ _ _) => s
  | .t (.tld t _ _ _ pitch) => doTld s core o t.toNat pitch.toNat
  | .t (.tst t _ _ _ pitch) => doTst s core o t.toNat pitch.toNat
  | .t (.tmov d _ src _) => doTmov s core o d.toNat src.toNat
  | .t (.tzero t _) => doTzero s core o t.toNat
  | .t (.txp d _ src _) => doTxp s core o d.toNat src.toNat

/-- Whether an operation in flight can complete now: an MSWAP waits for earlier passes and MLDs, an MLD for earlier MLDs and
MSWAPs (R111 to R113). -/
def canComplete (c : Core) (o : FOp) : Bool :=
  match o.body with
  | .m .mswap => (earlier c o).all (fun x => match x.body with
      | .m (.mld _ _ _) => false
      | .m .mswap => false
      | .m (.mmul _ _ _ _ _ _ _ _ _ _ _) => x.started
      | _ => true)
  | .m (.mld _ _ _) => (earlier c o).all (fun x => match x.body with
      | .m (.mld _ _ _) => false
      | .m .mswap => false
      | _ => true)
  | .m (.mmul _ _ _ _ _ _ _ _ _ _ _) => false
  | _ => true

/-- The oldest operation of a unit that can complete. -/
def nextDone (c : Core) (u : Unit3) : Option FOp := c.flight.find? (fun o => unitOf o == u && canComplete c o)

end Sys2Proof.Machine
end

