-- ==== Sys2Proof/Machine/LcuOps.lean ====
section
/-! DEFINITION. The copies of an LCU (09): the descriptor and its limits, the values of a source row, their conversion, and the
writes of a run of rows, with poison carried along. -/

namespace Sys2Proof.Machine

/-! ### The descriptor (R261) -/

def dSrcFmt (d : List Byte) : Nat := fieldAt d 1 1 % 16
def dDstFmt (d : List Byte) : Nat := fieldAt d 1 1 / 16
def dSrcLay (d : List Byte) : Nat := bitsOf (fieldAt d 2 1) 1 0
def dDstLay (d : List Byte) : Nat := bitsOf (fieldAt d 2 1) 3 2
def dRnd (d : List Byte) : Nat := bitsOf (fieldAt d 2 1) 5 4
def dRowscale (d : List Byte) : Bool := bitOf (fieldAt d 2 1) 6
def dGuard (d : List Byte) : Bool := bitOf (fieldAt d 3 1) 0
def dTornfault (d : List Byte) : Bool := bitOf (fieldAt d 3 1) 1
def dL1 (d : List Byte) : Bool := bitOf (fieldAt d 3 1) 2
def dHint (d : List Byte) : Nat := bitsOf (fieldAt d 3 1) 4 3
def dCtr (d : List Byte) : Nat := fieldAt d 4 2
def dSrcRef (d : List Byte) : Nat := fieldAt d 8 8
def dDstRef (d : List Byte) : Nat := fieldAt d 16 8
def dRows (d : List Byte) : Nat := fieldAt d 32 4 + 1
def dElems (d : List Byte) : Nat := fieldAt d 36 2 + 1
def dTid (d : List Byte) : Nat := fieldAt d 40 4
def dMintPitch (d : List Byte) : Nat := fieldAt d 44 4
def dMintBase (d : List Byte) : Nat := fieldAt d 48 6
def dScale (d : List Byte) : Nat := fieldAt d 56 8

/-- Bytes of a row of an end: exchange form takes 12 bytes per element (R267). -/
def endPayload (fmt lay n : Nat) : Nat := if lay = 2 then 12 * n else rowPayload fmt n
def dSrcPay (d : List Byte) : Nat := endPayload (dSrcFmt d) (dSrcLay d) (dElems d)
def dDstPay (d : List Byte) : Nat := endPayload (dDstFmt d) 0 (dElems d)
def dSrcPitch (d : List Byte) : Nat := if fieldAt d 24 4 = 0 then dSrcPay d else fieldAt d 24 4
def dDstPitch (d : List Byte) : Nat := if fieldAt d 28 4 = 0 then dDstPay d else fieldAt d 28 4

/-- Whether a kind is an accumulator end (R262). -/
def kindAcc (k : Nat) : Bool := k == 2 || k == 3 || k == 4

/-- A keep-zero bit of the descriptor is set (R261). -/
def dKeepBad (d : List Byte) : Bool :=
  bitOf (fieldAt d 2 1) 7 || bitsOf (fieldAt d 3 1) 7 5 != 0 || bitsOf (dCtr d) 13 9 != 0 || fieldAt d 6 2 != 0
  || fieldAt d 38 2 != 0 || fieldAt d 54 2 != 0

/-- Whether a memory run lies wholly in one memory range and exists (R281, R288). -/
def memRun (s : State) (a n : Nat) : Bool :=
  memExists s a && memExists s (a + n - 1) && (placeOf a == placeOf (a + n - 1))

/-- Whether an address that exists is no memory address: an enabled core's window or a chip register (R263). What R288 refuses is
refused as the window table refuses it. -/
def notMemory (s : State) (a : Nat) : Bool :=
  match placeOf a with
  | .core id _ => coreOk s id
  | .chip => true
  | _ => false

/-- The bytes an end touches from its reference on, first to last (R265, R266). -/
def endExtent (d : List Byte) (src : Bool) : Nat :=
  let lay := if src then dSrcLay d else dDstLay d
  let fmt := if src then dSrcFmt d else dDstFmt d
  if lay = 1 then dRows d * lineBytes fmt
  else (dRows d - 1) * (if src then dSrcPitch d else dDstPitch d) + (if src then dSrcPay d else dDstPay d)

/-- Whether an end breaks R262, R263, R266 to R268. -/
def endBad (d : List Byte) (src : Bool) : Bool :=
  let k := if src then dSrcKind d else dDstKind d
  let fmt := if src then dSrcFmt d else dDstFmt d
  let lay := if src then dSrcLay d else dDstLay d
  let ref := if src then dSrcRef d else dDstRef d
  let pitchF := if src then fieldAt d 24 4 else fieldAt d 28 4
  let pay := if src then dSrcPay d else dDstPay d
  let pitch := if src then dSrcPitch d else dDstPitch d
  let n := dElems d
  let rows := dRows d
  decide (k > 5) || fmt == 15 || (src && lay == 3) || (!src && decide (lay > 1))
  || (lay == 2 && (fmt != 13 || decide (k > 1)))
  || (fmtIsMx fmt && n % 32 != 0) || decide (pay > 65536) || decide (rows * pitch > 4 * 2 ^ 20)
  || (lay == 1 && (k != 1 || pitchF != 0 || (fmtClass fmt).isNone || decide (rows > 2048)
        || decide (n > 64 * classD ((fmtClass fmt).getD 0))))
  || (kindAcc k && (n != 64 || pitchF != 0 || lay != 0
        || (if k = 4 then fmt != 13 || decide (ref ≥ 512) || decide (ref + rows > 512)
            else fmt != 0 || decide (ref ≥ 2048) || decide (ref + rows > 2048))))
  || (k == 5 && (fmt == 13 || lay != 0 || bitsOf ref 7 5 != 0 || bitsOf ref 15 12 != 0 || decide (ref ≥ 2 ^ 22)))
  || (k == 1 && (decide (ref ≥ bufBytes) || decide (ref + endExtent d src > bufBytes)))

/-- The rows of a memory end as runs: address and bytes. Rows that lie back to back are one run. -/
def memRuns (d : List Byte) (src : Bool) : List (Nat × Nat) :=
  let ref := if src then dSrcRef d else dDstRef d
  let pay := if src then dSrcPay d else dDstPay d
  let pitch := if src then dSrcPitch d else dDstPitch d
  if pitch = pay then [(ref, dRows d * pay)] else (List.range (dRows d)).map (fun r => (ref + r * pitch, pay))

/-- The memory runs of a descriptor with their direction: source, destination, scale bytes. -/
def dMemRuns (d : List Byte) : List (Nat × Nat × Bool) :=
  (if dSrcKind d = 0 then (memRuns d true).map (fun p => (p.1, p.2, false)) else [])
  ++ (if dDstKind d = 0 then (memRuns d false).map (fun p => (p.1, p.2, true)) else [])
  ++ (if dDstKind d = 0 && dRowscale d then [(dScale d, dRows d, true)] else [])

/-- The first run that the window table refuses: address of the run, write, place code (R296, R297). -/
def dRefused (s : State) (d : List Byte) : Option (Nat × Bool × Nat) :=
  (dMemRuns d).findSome? (fun p => (memCheck s p.1 p.2.1 p.2.2 false).map (fun w => (p.1, p.2.2, w)))

/-- Whether a descriptor breaks a limit of R261 to R263, R266 to R269, the window apart. -/
def lcuDescBad (s : State) (core : Nat) (d : List Byte) : Bool :=
  let sk := dSrcKind d
  let dk := dDstKind d
  dKeepBad d || endBad d true || endBad d false
  || (sk == 0 && dk == 0) || (sk == 5 && dk == 5) || (kindAcc sk && kindAcc dk)
  || decide (dRows d > 65536)
  || (dGuard d && (dL1 d || sk != 0))
  || (bitOf (dCtr d) 14 && !bitOf (dCtr d) 15 && decide (dCtr d % 512 ≥ 48))
  || ((dDstFmt d == 13 || dk == 4) && dSrcFmt d != 13)
  || (dRowscale d && (!(dDstFmt d == 3 || dDstFmt d == 4) || swinEmpty s core
        || (dk != 0 && decide (dScale d + dRows d > bufBytes))))
  || (dMemRuns d).any (fun p => notMemory s p.1 || notMemory s (p.1 + p.2.1 - 1))

/-- The fragments of a copy (R273): rows each, and how many. -/
def fragRows (d : List Byte) : Nat := max (max 1 (65536 / dDstPitch d)) (ceilDiv (dRows d) 64)
def fragCount (d : List Byte) : Nat := ceilDiv (dRows d) (fragRows d)

/-- The mask of all fragments of a copy. -/
def fragAll (d : List Byte) : BitVec 64 := BitVec.ofNat 64 (2 ^ fragCount d - 1)

/-- The rows of the fragments in a mask, ascending. -/
def fragRowsOf (d : List Byte) (mask : BitVec 64) : List Nat :=
  (List.range (dRows d)).filter (fun r => mask.getLsbD (r / fragRows d))

/-! ### Source rows -/

/-- The bytes of a source row with a flag per byte for poison. -/
structure RowBytes where
  bytes : List Byte
  bad : List Bool
  deriving DecidableEq, Repr

/-- Flags of a run by a test of each 64-byte unit. -/
def unitFlags (test : Nat → Bool) (a n : Nat) : List Bool :=
  if (linesOf a n).any test then (List.range n).map (fun i => test ((a + i) / 64)) else List.replicate n false

/-- An L1 line by number. -/
def l1Find (c : Core) (line : Nat) : Option L1Line := c.l1.find? (fun l => l.line == line)

/-- Bytes of memory as an LCU with the l1 bit sees them: a line the L1 holds hides memory (R255). -/
def l1Overlay (c : Core) (a : Nat) (bs : List Byte) : List Byte :=
  (bs.zipIdx).map (fun p =>
    match l1Find c ((a + p.2) / 64) with
    | some l => l.data.getD ((a + p.2) % 64) 0
    | none => p.1)

/-- Whether a line read by an LCU is poisoned. -/
def lcuLinePoison (s : State) (c : Core) (l1 : Bool) (line : Nat) : Bool :=
  match (if l1 then l1Find c line else none) with
  | some l => l.poison
  | none => linePoison s line

/-- Address of source row r in its store, for kinds 0 and 1. -/
def srcAddr (d : List Byte) (r : Nat) : Nat := dSrcRef d + r * dSrcPitch d

/-- Bytes of source row r with poison flags (R262, R265). R103 names no comb port for an LCU: its reads of tile rows use no latch and do
not count in CMB_READS (log entry 100). -/
def srcRow (s : State) (core : Nat) (d : List Byte) (r : Nat) : RowBytes :=
  let c := getCore s core
  let n := dSrcPay d
  let ref := dSrcRef d
  match dSrcKind d with
  | 0 =>
    let a := srcAddr d r
    let bs := memBytes s a n
    ⟨if dL1 d then l1Overlay c a bs else bs, unitFlags (lcuLinePoison s c (dL1 d)) a n⟩
  | 1 =>
    let a := srcAddr d r
    ⟨bufRead c a n, unitFlags (fun u => smGet false c.bufPoison u) a n⟩
  | 4 =>
    let j := 4 * (ref + r)
    ⟨accRowsAt c j 4, (List.range 4).flatMap (fun i => List.replicate 256 (accBad c (j + i)))⟩
  | 5 =>
    let t := ref % 32
    ⟨tileRow c t (shapeOf c t) (bitsOf ref 21 16 + r), List.replicate n false⟩
  | _ => ⟨accRow c (ref + r), List.replicate 256 (accBad c (ref + r))⟩

/-- The region of a skewed source with its poison flags. -/
def srcRegion (s : State) (core : Nat) (d : List Byte) : RowBytes :=
  let c := getCore s core
  let n := endExtent d true
  ⟨bufRead c (dSrcRef d) n, unitFlags (fun u => smGet false c.bufPoison u) (dSrcRef d) n⟩

/-- Byte span of element e of a row: first byte and one past the last. -/
def elemSpan (fmt lay e : Nat) : Nat × Nat :=
  if lay = 2 then (12 * e, 12 * e + 12) else (e * fmtBits fmt / 8, ((e + 1) * fmtBits fmt + 7) / 8)

/-- Whether a span of flags holds a poisoned byte. -/
def spanBad (fl : List Bool) (p : Nat × Nat) : Bool := ((fl.drop p.1).take (p.2 - p.1)).any id

/-- A row of values as a copy moves it: exact values, slot bits (for Tally), element poison. -/
structure RowVals where
  vals : List Num
  slots : List Nat
  bad : List Bool
  deriving DecidableEq, Repr

/-- The slots of a source row of format 0xD (R158, R267). -/
def rowSlots (d : List Byte) (bs : List Byte) : List Nat :=
  (List.range (dElems d)).map (fun e =>
    if dSrcLay d = 2 then slotNat (slotUnpack false (fieldAt bs (12 * e) 12)) else slotNat (slotOf (fieldAt bs (16 * e) 16)))

/-- The values of a plain source row (R267, R268, R432). -/
def plainVals (d : List Byte) (rb : RowBytes) : RowVals :=
  let n := dElems d
  let fmt := dSrcFmt d
  let anyBad := rb.bad.any id
  let eb := elemBytes fmt n
  let bad := if !anyBad then List.replicate n false
    else (List.range n).map (fun e => spanBad rb.bad (elemSpan fmt (dSrcLay d) e)
          || (fmtIsMx fmt && spanBad rb.bad (eb + e / 32, eb + e / 32 + 1)))
  if fmt = 13 then
    let sl := rowSlots d rb.bytes
    ⟨sl.map (fun x => slotNum (slotOf x)), sl, bad⟩
  else if dSrcKind d = 3 then ⟨(List.range n).map (fun e => .ofInt (signedOf 32 (fieldAt rb.bytes (4 * e) 4))), [], bad⟩
  else ⟨rowVals fmt n rb.bytes, [], bad⟩

/-- The values of row m of a skewed source (R266). -/
def skewVals (d : List Byte) (rg : RowBytes) (m : Nat) : RowVals :=
  let fmt := dSrcFmt d
  let mr := dRows d
  let dd := classD ((fmtClass fmt).getD 0)
  let lb := lineBytes fmt
  let mx := fmtIsMx fmt
  let anyBad := rg.bad.any id
  let es := (List.range (dElems d)).map (fun k =>
    let sc := if mx then streamScale fmt mr rg.bytes m (k / 32) else 127
    let v := elemVal fmt sc (streamElem fmt mr rg.bytes m k)
    let l := lineOf mr m (k / dd)
    let b0 := lineBit fmt dd k
    let bad := anyBad && (spanBad rg.bad (l * lb + b0 / 8, l * lb + (b0 + fmtBits fmt + 7) / 8)
      || (mx && spanBad rg.bad (scaleLine fmt mr m (k / 32) * lb + lineElems fmt + k / 32,
                                 scaleLine fmt mr m (k / 32) * lb + lineElems fmt + k / 32 + 1)))
    (v, bad))
  ⟨es.map Prod.fst, [], es.map Prod.snd⟩

/-! ### Conversion (R268 to R270) -/

/-- Codes of a destination row: element codes, MX scales, poison of elements and scales, row scale byte. -/
structure RowCodes where
  codes : List Nat
  scales : List Nat
  bad : List Bool
  sbad : List Bool
  rscale : Option Nat
  clamped : Bool
  deriving DecidableEq, Repr

/-- Spread the poison of each block over its 32 elements (R432: the block scale derives from all of them). -/
def blockBad (bad : List Bool) : List Bool := (chunks 32 bad).map (fun b => b.any id)

/-- Mint words of destination row r of a copy with its own key (R270, R365). -/
def dWords (s : State) (step : Nat) (tid base pitch rnd r n : Nat) : List Nat :=
  (List.range n).map (fun e =>
    if rnd = 2 then mintWord (reg s aMintSeed).toNat step tid ((base + r * pitch + e) % 2 ^ 48) else 0)

/-- Convert a row of values into codes of a format under a rounding code (R147 to R153, R166, R268). `int32` says an INT32 row. -/
def convRow (fmt rnd : Nat) (int32 : Bool) (v : RowVals) (ws : List Nat) : RowCodes :=
  let xs := v.vals.zip ws
  if fmt = 13 then ⟨v.slots, [], v.bad, [], none, false⟩
  else if int32 then ⟨xs.map (fun x => wrapInt 32 (convInt (-2 ^ 31) (2 ^ 31 - 1) x.1 rnd x.2)), [], v.bad, [], none, false⟩
  else if fmtIsMx fmt then
    match fFmtOf fmt with
    | none => ⟨[], [], [], [], none, false⟩
    | some _ =>
      let bs := (chunks 32 xs).map (fun b => encodeMxBlock fmt b rnd)
      let bb := blockBad v.bad
      ⟨bs.flatMap Prod.snd, bs.map Prod.fst, bb.flatMap (fun b => List.replicate 32 b), bb, none, false⟩
  else ⟨xs.map (fun x => encodeElem fmt x.1 rnd x.2), [], v.bad, [], none, false⟩

/-- Convert a row with a row scale (R269, R180). -/
def convScaled (fmt rnd : Nat) (w : Int × Int) (v : RowVals) (ws : List Nat) : RowCodes :=
  let r := rowScale8 fmt w.1 w.2 v.vals
  let p := v.bad.any id
  ⟨scaleRow8 fmt r (v.vals.zip ws) rnd, [], v.bad.map (fun _ => p), [], some (scaleByte8 r),
   match r with | some (_, k) => k | none => false⟩

/-- Bytes of a plain row from its codes with poison flags (R80, R265). -/
def codesBytes (fmt : Nat) (int32 : Bool) (n : Nat) (rc : RowCodes) : RowBytes :=
  let w := if int32 then 32 else fmtBits fmt
  let eb := ceilDiv (n * w) 8
  let bs := leBytes eb (packCodes w rc.codes) ++ rc.scales.map (fun x => BitVec.ofNat 8 x)
  if !(rc.bad.any id) then ⟨bs, List.replicate bs.length false⟩
  else
    let spans := ((rc.bad.zipIdx).filter (fun p => p.1)).map (fun p => (p.2 * w / 8, ((p.2 + 1) * w + 7) / 8))
    ⟨bs, (List.range eb).map (fun i => spans.any (fun q => decide (q.1 ≤ i) && decide (i < q.2))) ++ rc.sbad⟩

/-- Runs of bytes with one flag: address, bytes, flag. -/
def runsGo (a : Nat) : List (Byte × Bool) → List (Nat × List Byte × Bool)
  | [] => []
  | (b, f) :: l =>
    match runsGo (a + 1) l with
    | (a2, bs, g) :: t => if g = f && a2 = a + 1 then (a, b :: bs, f) :: t else (a, [b], f) :: (a2, bs, g) :: t
    | [] => [(a, [b], f)]

/-- The pieces of a written row. -/
def rowPieces (a : Nat) (rb : RowBytes) : List (Nat × List Byte × Bool) :=
  if !(rb.bad.any id) then (if rb.bytes.isEmpty then [] else [(a, rb.bytes, false)]) else runsGo a (rb.bytes.zip rb.bad)

/-! ### A skewed destination (R266) -/

/-- Bits of line `l` that row `m` writes: bit position, width, value, poison. -/
def skewBits (d : List Byte) (m : Nat) (rc : RowCodes) : List (Nat × Nat × Nat × Nat × Bool) :=
  let fmt := dDstFmt d
  let mr := dRows d
  let dd := classD ((fmtClass fmt).getD 0)
  let k := dElems d
  (List.range 64).flatMap (fun i =>
    (List.range dd).map (fun u =>
      let q := dd * i + u
      (lineOf mr m i, lineBit fmt dd q, fmtBits fmt, (if q < k then rc.codes.getD q 0 else 0), decide (q < k) && rc.bad.getD q false)))
  ++ (if fmtIsMx fmt then
        (List.range 16).map (fun b =>
          (scaleLine fmt mr m b, 8 * (lineElems fmt + b), 8, rc.scales.getD b 0, rc.sbad.getD b false))
      else [])

/-- The bytes of one line after its writes, as pieces at the region's base: a byte is written when a write covers a bit of it. -/
def skewLine (d : List Byte) (old : List Byte) (l : Nat) (ws : List (Nat × Nat × Nat × Bool)) : List (Nat × List Byte × Bool) :=
  let lb := lineBytes (dDstFmt d)
  let v := ws.foldl (fun v w => putBits v (w.1 + w.2.1 - 1) w.1 w.2.2.1) (leNat old)
  let out := leBytes lb v
  let touched (i : Nat) : Bool := ws.any (fun w => decide (w.1 / 8 ≤ i) && decide (i < (w.1 + w.2.1 + 7) / 8))
  let bad (i : Nat) : Bool := ws.any (fun w => w.2.2.2 && decide (w.1 / 8 ≤ i) && decide (i < (w.1 + w.2.1 + 7) / 8))
  (List.range lb).filterMap (fun i => if touched i then some (l * lb + i, [out.getD i 0], bad i) else none)

/-- Neighbouring pieces with one flag joined. -/
def joinPieces : List (Nat × List Byte × Bool) → List (Nat × List Byte × Bool)
  | [] => []
  | (a, bs, f) :: l =>
    match joinPieces l with
    | (a2, bs2, g) :: t => if g = f && a2 = a + bs.length then (a, bs ++ bs2, f) :: t else (a, bs, f) :: (a2, bs2, g) :: t
    | [] => [(a, bs, f)]

/-- The pieces of a skewed destination for the rows moved, offset from the region's base. -/
def skewPieces (d : List Byte) (region : List Byte) (rows : List (Nat × RowCodes)) : List (Nat × List Byte × Bool) :=
  let lb := lineBytes (dDstFmt d)
  let ws := rows.flatMap (fun p => skewBits d p.1 p.2)
  joinPieces ((List.range (dRows d)).flatMap (fun l =>
    skewLine d (slice region (l * lb) lb) l ((ws.filter (fun w => w.1 == l)).map (fun w => w.2))))

/-! ### The L1 (R254 to R257) -/

/-- L1 lines of one set. Which address bits select the set the spec does not say: the low eight bits of the line number are a DESIGN CHOICE, log
entry 127. -/
def l1Set (c : Core) (line : Nat) : List L1Line := c.l1.filter (fun l => l.line % 256 == line % 256)

/-- Whether a faulty word lies in one of some lines of the L1 (R257). -/
def l1Among (has : Nat → Bool) (u : Upset) : Bool := match u with | .l1Poisoned line => has line.toNat | _ => false

/-- The bytes of a line that were written since it was brought in, as pieces. -/
def l1Written (l : L1Line) : List (Nat × List Byte × Bool) :=
  joinPieces ((List.range 64).filterMap (fun i => if l.mask.getLsbD i then some (l.line * 64 + i, [l.data.getD i 0], l.poison) else none))

/-- Write a line of the L1 back to memory (R255): an error of its words is met (R257), and a no-prefetch granule gets only the bytes that were
written (R299). -/
def l1Back (s0 : State) (core : Nat) (l0 : L1Line) : State :=
  let s := meet s0 core (l1Among (fun x => x == l0.line))
  let l := (l1Find (getCore s core) l0.line).getD l0
  let s1 := if wtNopf s (l.line * 64) then (l1Written l).foldl (fun s p => memStore s p.1 p.2.1 p.2.2 0) s
    else memStore s (l.line * 64) l.data l.poison 0
  modCore s1 core (fun c => { c with l1 := c.l1.map (fun x => if x.line = l.line then { x with dirty := false, mask := 0 } else x) })

/-- Write back every dirty line (R255, R257). -/
def l1BackAll (core : Nat) : List L1Line → State → State
  | [], s => s
  | l :: ls, s => l1BackAll core ls (if l.dirty then l1Back s core l else s)

/-- The lines that fail a test leave the L1, and the errors of their words with them. -/
def l1Keep (s : State) (core : Nat) (keep : L1Line → Bool) : State :=
  let l := (getCore s core).l1.filter keep
  modCore { s with mem := { s.mem with upsets := s.mem.upsets.filter (fun p => !(p.1 == core && l1Among (fun x => !l.any (fun y => y.line == x)) p.2)) } }
    core (fun c => { c with l1 := c.l1.filter keep })

/-- Bring a line in, most recently used; a dirty victim is written back first (R254). -/
def l1Fill (s : State) (core : Nat) (l : L1Line) : State :=
  let c := getCore s core
  let set := (l1Set c l.line).filter (fun x => x.line != l.line)
  let s1 :=
    if set.length < 4 then s
    else
      match set.getLast? with
      | none => s
      | some v =>
        l1Keep (if v.dirty then l1Back s core v else s) core (fun x => x.line != v.line)
  modCore s1 core (fun c => { c with l1 := l :: c.l1.filter (fun x => x.line != l.line) })

/-- Read accesses through the L1: a hit ages the line, a miss reads memory and allocates (R254). Answers the lines as they were read. -/
def l1Reads (core hint : Nat) : List Nat → State → State × List L1Line
  | [], s => (s, [])
  | ln :: ls, s =>
    match l1Find (getCore s core) ln with
    | some l =>
      let (s1, rs) := l1Reads core hint ls (l1Fill s core l)
      (s1, l :: rs)
    | none =>
      let s1 := touchRead s (ln * 64) 64 hint
      let l : L1Line := ⟨ln, memBytes s1 (ln * 64) 64, false, linePoison s1 ln, mcPending s1 ln, 0⟩
      let (s2, rs) := l1Reads core hint ls (l1Fill s1 core l)
      (s2, l :: rs)

/-- One write through the L1: the line is allocated, from memory when it is not wholly written, and held dirty (R254). A partial write of
a line that the L1 does not hold in a no-prefetch granule is sent as it is (R299). Only invalidation clears the poison of a held line (R431). -/
def l1Write (s : State) (core ln off hint : Nat) (bs : List Byte) (bad : Bool) : State :=
  let m : BitVec 64 := BitVec.ofNat 64 ((2 ^ bs.length - 1) * 2 ^ off)
  let put (old : List Byte) : List Byte := old.take off ++ bs ++ old.drop (off + bs.length)
  match l1Find (getCore s core) ln with
  | some l => l1Fill s core { l with data := put l.data, dirty := true, poison := l.poison || bad, mask := l.mask ||| m }
  | none =>
    if bs.length = 64 then l1Fill s core ⟨ln, bs, true, bad, false, m⟩
    else if wtNopf s (ln * 64) then memStore s (ln * 64 + off) bs bad hint
    else
      let s1 := touchRead s (ln * 64) 64 hint
      l1Fill s1 core ⟨ln, put (memBytes s1 (ln * 64) 64), true, linePoison s1 ln || bad, mcPending s1 ln, m⟩

/-- A piece written through the L1, line by line. -/
def l1Piece (core hint : Nat) : List Nat → Nat → List Byte → Bool → State → State
  | [], _, _, _, s => s
  | ln :: ls, a, bs, bad, s =>
    let lo := max a (ln * 64)
    let hi := min (a + bs.length) (ln * 64 + 64)
    l1Piece core hint ls a bs bad (l1Write s core ln (lo - ln * 64) hint ((bs.drop (lo - a)).take (hi - lo)) bad)

/-! ### Writing -/

/-- Lines of memory wholly covered by clean pieces of one copy become valid (R432). -/
def memCovered : List Nat → State → State
  | [], s => s
  | l :: ls, s => memCovered ls (setLinePoison s l false)

/-- Write pieces into memory for an LCU or engine; lines that they complete, with the clean bytes of the same copy or operation before, become
valid (R432). -/
def memCover (hint : Nat) (before : List (Nat × Nat)) (ps : List (Nat × List Byte × Bool)) (s : State) : State :=
  let s1 := ps.foldl (fun s p => memStore s p.1 p.2.1 p.2.2 hint) s
  if ps.length ≤ 1 && before.isEmpty then s1 else memCovered ((coveredUnits before ps).filter (linePoison s1)) s1

/-- The same for pieces that are all the writes of their operation. -/
def memPieces (hint : Nat) (ps : List (Nat × List Byte × Bool)) (s : State) : State := memCover hint [] ps s

/-- Write pieces through the L1. Lines that it did not hold and that the pieces complete become valid, there and in memory (R432); a line that it
held keeps its poison until it is invalidated (R431). -/
def l1Pieces (core hint : Nat) (before : List (Nat × Nat)) (ps : List (Nat × List Byte × Bool)) (s : State) : State :=
  let s1 := ps.foldl (fun s p => l1Piece core hint (linesOf p.1 p.2.1.length) p.1 p.2.1 p.2.2 s) s
  if ps.length ≤ 1 && before.isEmpty then s1
  else
    let full := (coveredUnits before ps).filter (fun l => (l1Find (getCore s core) l).isNone)
    let s2 := modCore s1 core (fun c => { c with l1 := c.l1.map (fun l => if full.contains l.line then { l with poison := false, pend := false } else l) })
    memCovered (full.filter (fun l => (l1Find (getCore s2 core) l).isNone && linePoison s2 l)) s2

/-- Write pieces of an LCU copy: memory, or the L1 when its bit is set. -/
def lcuMemPieces (core hint : Nat) (l1 : Bool) (before : List (Nat × Nat)) (ps : List (Nat × List Byte × Bool)) (s : State) : State :=
  if l1 then l1Pieces core hint before ps s else memCover hint before ps s

/-- Write pieces into a core's buffer, seen by watchpoints as the LCU (agent 0). -/
def lcuBufPieces (core : Nat) (before : List (Nat × Nat)) (ps : List (Nat × List Byte × Bool)) (s : State) : State :=
  touchAll core (ps.map (fun p => (p.1, p.2.1.length, true, 0))) (modCore s core (fun c => bufCover before c ps))

/-- Pieces cut into single bytes. -/
def bytePieces (ps : List (Nat × List Byte × Bool)) : List (Nat × List Byte × Bool) :=
  ps.flatMap (fun p => (p.2.1.zipIdx).map (fun b => (p.1 + b.2, [b.1], p.2.2)))

/-- The bytes that a failed fragment had written: a free choice (R278). The others keep value and poison. -/
def mixPieces (ctr : Nat) (ps : List (Nat × List Byte × Bool)) : List (Nat × List Byte × Bool) :=
  joinPieces ((bytePieces ps).filter (fun p => (Config.freeByte ctr p.1).getLsbD 0))

end Sys2Proof.Machine
end

