-- ==== Sys2Proof/Machine/CeDesc.lean ====
section
/-! DEFINITION. The descriptors of the copy engines (12 R361 to R373): fields, limits and where their addresses lie. -/

namespace Sys2Proof.Machine

/-- CE_DESC (R394). -/
def cCeDesc : Word16 := 0x5020

/-- Where an address of a descriptor lies: this module or another, with the local address, or no legal address (R289). -/
inductive Where where
  | here (a : Nat)
  | there (dev : BitVec 14) (a : Nat)
  | bad (v : Nat)
  deriving DecidableEq, Repr

/-- Resolve an address of a descriptor (R289). -/
def whereIs (s : State) (v : Nat) : Where :=
  if bitOf v 63 then
    if bitsOf v 62 60 ≠ 0 then .bad v
    else
      let d := BitVec.ofNat 14 (bitsOf v 59 46)
      if d = 0x3FFF ∨ d = devId s then .here (v % 2 ^ 46) else .there d (v % 2 ^ 46)
  else if bitsOf v 62 46 ≠ 0 then .bad v else .here v

/-- A counter field of 4 bytes breaks R361. -/
def ctr4Bad (s : State) (f : Nat) : Bool :=
  bitsOf f 13 9 != 0 || (bitOf f 15 && bitsOf f 31 16 != 0)
  || (bitOf f 14 && !bitOf f 15 && (decide (f % 512 ≥ 48) || !coreOk s (bitsOf f 31 16)))

/-- Advance the counter a 4-byte field names (R361). -/
def ctr4Advance (s : State) (f : Nat) : State :=
  if bitOf f 14 then (if bitOf f 15 then addG s (f % 512) 1 else addS s (bitsOf f 31 16) (f % 512) 1) else s

/-! ### XSTR (R363, R364) -/

def sSrcFmt (d : List Byte) : Nat := fieldAt d 1 1 % 16
def sDstFmt (d : List Byte) : Nat := fieldAt d 1 1 / 16
def sRnd (d : List Byte) : Nat := fieldAt d 2 1 % 4
def sHint (d : List Byte) : Nat := bitsOf (fieldAt d 2 1) 3 2
def sGuard (d : List Byte) : Bool := bitOf (fieldAt d 2 1) 4
def sTornfault (d : List Byte) : Bool := bitOf (fieldAt d 2 1) 5
def sClass (d : List Byte) : Nat := fieldAt d 3 1 % 4
def sCounted (d : List Byte) : Bool := bitOf (fieldAt d 3 1) 2
def sCtr (d : List Byte) : Nat := fieldAt d 4 4
def sSrc (d : List Byte) : Nat := fieldAt d 8 8
def sDst (d : List Byte) : Nat := fieldAt d 16 8
def sElems (d : List Byte) : Nat := fieldAt d 24 4 + 1
def sRows (d : List Byte) : Nat := fieldAt d 28 4 + 1
def sSrcPay (d : List Byte) : Nat := rowPayload (sSrcFmt d) (sElems d)
def sDstPay (d : List Byte) : Nat := rowPayload (sDstFmt d) (sElems d)
def sSrcPitch (d : List Byte) : Nat := if fieldAt d 32 8 = 0 then sSrcPay d else fieldAt d 32 8
def sDstPitch (d : List Byte) : Nat := if fieldAt d 40 8 = 0 then sDstPay d else fieldAt d 40 8
def sStatus (d : List Byte) : Nat := fieldAt d 48 8
def sTid (d : List Byte) : Nat := fieldAt d 56 4
def sMintPitch (d : List Byte) : Nat := fieldAt d 60 4
def sMintBase (d : List Byte) : Nat := fieldAt d 64 6

/-- Whether the bytes of a row of an XSTR lie where no copy engine may reach (R364): a window of another module, or beyond the buffer part
of a window of this one. -/
def sEndBad (w : Where) (n : Nat) : Bool :=
  match w with
  | .bad _ => false
  | .there _ a => match placeOf a with | .core _ _ => true | _ => false
  | .here a => match placeOf a with | .core _ off => !inBuf off n | _ => false

/-- Whether a row of an end of an XSTR lies where it may not. -/
def sRowsBad (s : State) (d : List Byte) (src : Bool) : Bool :=
  (List.range (sRows d)).any (fun r =>
    if src then sEndBad (whereIs s (sSrc d + r * sSrcPitch d)) (sSrcPay d) else sEndBad (whereIs s (sDst d + r * sDstPitch d)) (sDstPay d))

/-- Keep-zero bits of a copy descriptor (R363). -/
def sKeepBad (d : List Byte) : Bool :=
  fieldAt d 0 1 / 16 != 0 || bitsOf (fieldAt d 2 1) 7 6 != 0 || bitsOf (fieldAt d 3 1) 7 3 != 0
  || fieldAt d 32 8 / 2 ^ 46 != 0 || (slice d 70 58).any (fun b => b != 0)

/-- Whether an XSTR descriptor is refused (R363, R364). -/
def xstrBad (s : State) (d : List Byte) : Bool :=
  let a := whereIs s (sSrc d)
  let b := whereIs s (sDst d)
  sKeepBad d || fieldAt d 0 1 % 16 != 1 || ctr4Bad s (sCtr d)
  || (match a, b with | .there _ _, .there _ _ => true | _, _ => false)
  || sRowsBad s d true || sRowsBad s d false
  || sSrcFmt d == 15 || sDstFmt d == 15 || ((sSrcFmt d == 13) != (sDstFmt d == 13))
  || ((fmtIsMx (sSrcFmt d) || fmtIsMx (sDstFmt d)) && sElems d % 32 != 0)
  || decide (sRows d * sDstPay d > 16 * 2 ^ 30) || decide (sSrcPay d > 2 ^ 32) || decide (sDstPay d > 2 ^ 32)
  || decide (sClass d ≤ 1) || sStatus d % 8 != 0 || decide (sStatus d ≥ 2 ^ 46)

/-! ### XCOL (R369, R370) -/

def cOp (d : List Byte) : Nat := fieldAt d 0 1 % 16
def cAlg (d : List Byte) : Nat := bitsOf (fieldAt d 0 1) 5 4
def cBucket (d : List Byte) : Bool := bitOf (fieldAt d 0 1) 6
def cFmt (d : List Byte) : Nat := fieldAt d 1 1 % 16
def cOutFmt (d : List Byte) : Nat := fieldAt d 1 1 / 16
def cRnd (d : List Byte) : Nat := fieldAt d 2 1 % 4
def cHint (d : List Byte) : Nat := bitsOf (fieldAt d 2 1) 3 2
def cGuard (d : List Byte) : Bool := bitOf (fieldAt d 2 1) 4
def cTornfault (d : List Byte) : Bool := bitOf (fieldAt d 2 1) 5
def cFn (d : List Byte) : Nat := bitsOf (fieldAt d 2 1) 6 6
def cClass (d : List Byte) : Nat := fieldAt d 3 1 % 4
def cCtr (d : List Byte) : Nat := fieldAt d 4 4
def cRelease (d : List Byte) : Nat := fieldAt d 8 4
def cTid (d : List Byte) : Nat := fieldAt d 12 4
def cEpoch (d : List Byte) : Nat := fieldAt d 16 8
def cGroup (d : List Byte) : Nat := fieldAt d 24 8
def cFlags (d : List Byte) : Nat := fieldAt d 32 8
def cStaging (d : List Byte) : Nat := fieldAt d 40 8
def cInput (d : List Byte) : Nat := fieldAt d 48 8
def cOutput (d : List Byte) : Nat := fieldAt d 56 8
def cCount (d : List Byte) : Nat := fieldAt d 64 8
def cOwnFirst (d : List Byte) : Nat := fieldAt d 72 8
def cTable (d : List Byte) : Nat := fieldAt d 72 8
def cBucketIdx (d : List Byte) : Nat := fieldAt d 80 2
def cOwnCount (d : List Byte) : Nat := fieldAt d 82 6
def cStatus (d : List Byte) : Nat := fieldAt d 88 8

/-- The element and output formats of operations 1 and 3 (R370). -/
def cRedFmts (f o : Nat) : Bool :=
  (f == 13 && (o == 13 || o == 0 || o == 1)) || (f == 0 && (o == 0 || o == 1)) || (f == 1 && o == 1)

/-- The accepted combinations (R370). -/
def cComboOk (d : List Byte) : Bool :=
  let f := cFmt d
  let o := cOutFmt d
  (match cOp d with
   | 1 => decide (cAlg d ≤ 1) && cRedFmts f o
   | 2 => decide (cAlg d ≤ 1) && f == o && [0, 1, 2, 3, 4, 10, 11, 14].contains f
   | 3 => decide (cAlg d ≤ 2) && cRedFmts f o
   | 4 => cAlg d == 0 && f == 0 && o == 0
   | 5 => cAlg d == 0 && f == 0 && o == 0
   | _ => false)
  && (cRnd d != 2 || cOp d == 4)
  && (!cBucket d || (cOp d == 1 && f == 13 && o == 13 && decide (cAlg d ≤ 1)))

/-- Keep-zero bits and unused fields of a collective descriptor (R369). -/
def cKeepBad (d : List Byte) : Bool :=
  bitOf (fieldAt d 0 1) 7 || bitOf (fieldAt d 2 1) 7 || bitsOf (fieldAt d 3 1) 7 2 != 0 || cEpoch d / 2 ^ 48 != 0
  || (slice d 96 32).any (fun b => b != 0)
  || (cOp d != 4 && (cGuard d || cTid d != 0)) || (cOp d != 5 && (cFn d != 0 || cOwnCount d != 0))
  || (cOp d != 5 && !cBucket d && fieldAt d 72 8 != 0) || (!cBucket d && cBucketIdx d != 0)

/-- Whether an XCOL descriptor is refused (R369, R370). -/
def xcolBad (s : State) (d : List Byte) : Bool :=
  cKeepBad d || !cComboOk d || ctr4Bad s (cCtr d) || ctr4Bad s (cRelease d) || cEpoch d == 0 || decide (cClass d ≤ 1)
  || decide (cCount d ≥ 2 ^ 48) || cStatus d % 8 != 0 || cFlags d % 16 != 0
  || [cGroup d, cFlags d, cStaging d, cInput d, cOutput d, cStatus d].any (fun a => decide (a ≥ 2 ^ 46))

/-- CE_ registers (R395). -/
def aCe (k : Nat) : Nat := 0x3F0000A00000 + k * 0x100
def aCeBytes (k : Nat) : Nat := aCe k + 0x20
def aCePieces (k : Nat) : Nat := aCe k + 0x28
def aColResult : Nat := 0x3F0000A10000
def aColCount : Nat := 0x3F0000A10008

/-- The engine of a stream context (R358). -/
def engineOf (ctx : BitVec 14) : Nat := ctx.toNat % 16

/-- An engine's state. -/
def getCe (s : State) (k : Nat) : Engine := smGet Engine.init s.ce k

/-- An engine replaced. -/
def setCe (s : State) (k : Nat) (e : Engine) : State := { s with ce := smSet Engine.init s.ce k e }

/-- The operation an issue puts into its engine. -/
def newCeOp (core : Nat) (ctx : BitVec 14) (kind : CeKind) (desc : List Byte) (done : BitVec 6) (idx : Nat) (mstep : Word64) : CeOp where
  core := core
  ctx := ctx
  kind := kind
  desc := desc
  done := done
  idx := idx
  mstep := mstep
  started := false
  step := 0
  todo := BitVec.allOnes 64
  failMask := 0
  failed := false
  afail := false
  code := 0
  fails := 0
  torn := false
  reread := false
  rangeSeen := false
  flagSeen := false
  completed := false
  restored := false
  asked := false
  was := []
  landed := 0
  data := []
  dataBad := []
  cover := []
  stage := 0
  must := false
  snapNo := 0
  tag := 0
  late := false
  aborting := false
  memberLost := false
  uid := 0
  mgmt := 0
  goes := 0

end Sys2Proof.Machine
end

