-- ==== Sys2Proof/Machine/SyncOps.lean ====
section
/-! DEFINITION. Remote signals and barriers (08): the signal descriptor, held signals, landing tallies, arrivals, and XWATCH arms. -/

namespace Sys2Proof.Machine

/-! ### Signals (R228 to R236) -/

/-- Key of the landing tally of a source and stream context. -/
def tallyKey (src ctx : BitVec 14) : Nat := src.toNat * 16384 + ctx.toNat

/-- The signal of a descriptor; the device field says where it goes (R228). -/
def sigOf (s : State) (d : List Byte) : BitVec 14 × Signal :=
  let dev := BitVec.ofNat 14 (fieldAt d 0 2)
  (if dev = 0x3FFF then devId s else dev,
   ⟨devId s, BitVec.ofNat 14 (fieldAt d 2 2), BitVec.ofNat 16 (fieldAt d 4 2), BitVec.ofNat 16 (fieldAt d 6 2),
    BitVec.ofNat 16 (fieldAt d 8 2), BitVec.ofNat 48 (fieldAt d 16 6)⟩)

/-- Whether a signal descriptor is refused (R228, R229), its alignment apart. -/
def sigDescBad (s : State) (d : List Byte) : Bool :=
  let ctr := fieldAt d 6 2
  let kind := bitOf ctr 15
  fieldAt d 0 2 / 2 ^ 14 != 0 || fieldAt d 2 2 / 2 ^ 14 != 0 || bitsOf ctr 14 9 != 0
  || (slice d 10 6).any (fun b => b != 0) || fieldAt d 22 2 != 0 || (slice d 24 8).any (fun b => b != 0)
  || (if kind then fieldAt d 4 2 != 0 else decide (ctr % 512 ≥ 48))
  || fieldAt d 8 2 == 0
  || (let dev := (sigOf s d).1; dev != devId s && !s.job.members.contains dev)

/-- Put an element into a list that rises by a key, after those of the same key. -/
def insertBy {α : Type} (key : α → Nat) (x : α) : List α → List α
  | [] => [x]
  | y :: ys => if key x < key y then x :: y :: ys else y :: insertBy key x ys

/-- Signals that are held ahead of a gap in their stream, in stream order (R232, R337). -/
def aheadSigs (s : State) : List Signal :=
  s.fab.rx.flatMap (fun r =>
    (r.2.ahead.foldl (fun l x => insertBy (fun y => (y.seq - r.2.point).toNat) x l) []).filterMap (fun x => x.sig))

/-- Every held signal, those of one stream oldest first. -/
def heldAll (s : State) : List Signal := s.sync.held ++ aheadSigs s

/-- Signals that are held here (R234). -/
def sigCount (s : State) : Nat := (heldAll s).length

/-- A pair whose tally is zero, that holds no signal and has no counted byte ahead of a gap gives its entry up (R235). -/
def pairFree (s : State) (src ctx : BitVec 14) : State :=
  let k := tallyKey src ctx
  if smGet 0 s.sync.tally k = 0 ∧ (heldAll s).any (fun g => g.src == src && g.ctx == ctx) = false
      ∧ s.fab.rx.any (fun r => r.1 == k && r.2.ahead.any (fun x => x.bytes != 0)) = false then
    { s with sync := { s.sync with pairs := smSet false s.sync.pairs k false } }
  else s

/-- Counted bytes have landed: the pair holds an entry (R235). -/
def pairHold (s : State) (src ctx : BitVec 14) (n : Nat) : State :=
  if n = 0 then s else { s with sync := { s.sync with pairs := smSet false s.sync.pairs (tallyKey src ctx) true } }

/-- Held signals a module has room for (R234). -/
def heldMax : Nat := 4096

/-- Whether a signal's target is not enabled here or its source is outside the job (R236). -/
def sigTargetBad (s : State) (g : Signal) : Bool :=
  (!bitOf g.counter.toNat 15 && !coreOk s g.core.toNat) || (g.src != devId s && !s.job.members.contains g.src)

/-- A signal reaches this module with room in the table: it is held, or discarded with SIG_TARGET (R232, R236). -/
def sigHold (s : State) (g : Signal) : State :=
  if sigTargetBad s g then jobFatal s noCore 0 cSigTarget srcSeq (g.src.toNat + g.ctx.toNat * 2 ^ 16)
  else { s with sync := { s.sync with held := s.sync.held ++ [g] } }

/-- A signal of the module to itself (R230, R234): held, or waiting in its stream context while the table is full or an earlier
one of its stream waits. Whether the latter counts in SYN_SIG_FULL the spec does not say: DESIGN CHOICE, log entry 126, that a signal counts when it
comes while the table is full. -/
def sigSelf (s : State) (g : Signal) : State :=
  if sigCount s ≥ heldMax then bump { s with sync := { s.sync with selfWait := s.sync.selfWait ++ [g] } } aSynSigFull 1
  else if s.sync.selfWait.any (fun x => x.ctx == g.ctx) then { s with sync := { s.sync with selfWait := s.sync.selfWait ++ [g] } }
  else sigHold s g

/-- The first signal that waits in a stream context takes the free entry. -/
def sigPull (s : State) : State :=
  match s.sync.selfWait with
  | [] => s
  | g :: gs => if sigCount s < heldMax then sigHold { s with sync := { s.sync with selfWait := gs } } g else s

/-- Put an entry at the end of the engine of its context; it takes the next number. -/
def cePush (s : State) (o : CeOp) : State :=
  let k := engineOf o.ctx
  let e := getCe s k
  setCe { s with ceUid := s.ceUid + 1 } k { e with ops := e.ops ++ [{ o with uid := s.ceUid }] }

/-- SSIG takes effect (R228 to R230). The address lies in the buffer. A fault stops the core after the bundle, whose other slots run to
completion (R221, R229). -/
def doSsig (s : State) (core idx addr : Nat) : State :=
  let c := getCore s core
  let d := bufRead c addr 32
  let win := winBuf core addr % 2 ^ 46
  if addr % 32 ≠ 0 then jobFatalKeep core s core idx cSigDesc (srcCore core) win
  else
    match bufFirstPoison c addr 32 with
    | some u => jobFatalKeep core s core idx cPoisonConsumed (srcCore core) (winBuf core (u * 64) % 2 ^ 46 + 4 * 2 ^ 48)
    | none =>
      let s1 := bufTouch s core addr 32 false 3
      if sigDescBad s1 d then jobFatalKeep core s1 core idx cSigDesc (srcCore core) win
      else
        let (dev, g) := sigOf s1 d
        if dev = devId s1 then sigSelf s1 g
        else cePush s1 (newCeOp core g.ctx (.sig dev g) [] 63 idx 0)

/-! ### SBAR (R223 to R227) -/

/-- A core arrives at an SBAR (R223, R224): a differing n is refused. -/
def barArrive (s : State) (core idx : Nat) (g : BitVec 9) (n : Word16) : State :=
  match smGet none s.sync.rounds g.toNat with
  | some r =>
    if r.n ≠ n then jobFatal s noCore idx cSyncBarrier srcSeq (g.toNat + r.n.toNat * 2 ^ 16 + n.toNat * 2 ^ 32)
    else
      let s1 := { s with sync := { s.sync with rounds := smSet none s.sync.rounds g.toNat (some { r with cores := r.cores ++ [core] }) } }
      addG (modCore s1 core (fun c => { c with arrived := some (g, n) })) g.toNat 1
  | none =>
    let s1 := { s with sync := { s.sync with rounds := smSet none s.sync.rounds g.toNat (some ⟨n, [core]⟩) } }
    addG (modCore s1 core (fun c => { c with arrived := some (g, n) })) g.toNat 1

/-! ### XWATCH (R281) -/

/-- WATCH_DESC (R284). -/
def cWatchDesc : Word16 := 0x5002

/-- Whether a handle is armed or about to be. -/
def handleBusy (c : Core) (h : Nat) : Bool :=
  (smGet Handle.none c.handles h).armed || c.arms.any (fun a => a.handle == h && a.res.isNone)

/-- Whether an XWATCH descriptor is refused (R281). -/
def watchBad (s : State) (c : Core) (d : List Byte) : Bool :=
  let op := fieldAt d 0 1
  let h := fieldAt d 1 1
  let start := fieldAt d 8 8
  let len := fieldAt d 16 8
  let res := fieldAt d 24 8
  (op != 1 && op != 2) || decide (h > 15) || fieldAt d 2 6 != 0
  || (op == 1 && (handleBusy c h || len == 0 || decide (start ≥ 2 ^ 46) || !memRun s start len))
  || (op == 2 && (!handleBusy c h || res % 8 != 0 || decide (res + 8 > bufBytes)))

/-- A release (R281, R282): the result word, the slots freed, the handle unarmed. -/
def watchRelease (s : State) (core h res : Nat) (done : BitVec 6) : State :=
  let w : Watcher := .handle core h
  let hd := smGet Handle.none (getCore s core).handles h
  let torn := hd.torn || watchTorn s w
  let s1 := bufTouch (freeWatch s w) core res 8 true 3
  let s2 := modCore s1 core (fun c => bufWrite { c with handles := smSet Handle.none c.handles h Handle.none } res (leBytes 8 (b2n torn)) false)
  doneAdvance s2 core done

/-- The waiting arms and releases of one core, in order, each as far as its slots are free and its handle's earlier arm is done
(R276, R281). -/
def armsGo (core : Nat) : List ArmWait → State → State
  | [], s => s
  | a :: as, s =>
    let kept := (getCore s core).arms
    let keep := modCore s core (fun c => { c with arms := c.arms ++ [a] })
    if kept.any (fun x => x.handle == a.handle) then armsGo core as keep
    else
      match a.res with
      | some r => armsGo core as (watchRelease s core a.handle r a.done)
      | none =>
        if slotsFree s a.lo (a.lo + a.len) then
          let s1 := armWatch s (.handle core a.handle) a.lo (a.lo + a.len)
          let s2 := modCore s1 core (fun c => { c with handles := smSet Handle.none c.handles a.handle ⟨true, false⟩ })
          armsGo core as (doneAdvance s2 core a.done)
        else armsGo core as keep

/-- Every core's waiting arms, in order of ID. -/
def armsAll : List Nat → State → State
  | [], s => s
  | i :: is, s => armsAll is (armsGo i (getCore s i).arms (modCore s i (fun c => { c with arms := [] })))

/-- Arms that wait try again after slots were freed. -/
def retryArms (s : State) : State :=
  armsAll ((s.cores.filter (fun p => !p.2.arms.isEmpty)).map Prod.fst) s

/-- XWATCH issues (R281). -/
def doXwatch (s : State) (core : Nat) (d : List Byte) (done : BitVec 6) : State :=
  let h := fieldAt d 1 1
  let c := getCore s core
  let w : ArmWait := ⟨h, fieldAt d 8 8, fieldAt d 16 8, done, c.key.step, if fieldAt d 0 1 = 2 then some (fieldAt d 24 8) else none⟩
  retryArms (modCore s core (fun c => { c with arms := c.arms ++ [w] }))

end Sys2Proof.Machine
end

