-- ==== Sys2Proof/Machine/Issue.lean ====
section
/-! DEFINITION. The issue of a bundle (02 R39 to R43): the six steps in order, the effects of the slots, loops, skips and the
retain point. -/

namespace Sys2Proof.Machine

/-- The slots that execute: a slot whose predicate is false becomes a NOP (R26, R41). -/
def effSlots (p : SMap Bool) (s : Slots) : Slots :=
  { s with
    m := if predTrue p s.mh.pred then s.m else .nop
    vop := if predTrue p s.vh.pred then s.vop else .vnop
    t := if predTrue p s.th.pred then s.t else .nop
    x := if predTrue p s.xh.pred then s.x else .nop
    s := if predTrue p s.sp then s.s else .nop
    c := if predTrue p s.cp then s.c else .nop }

/-! ### Control form (R51, R54 to R57, R62) -/

/-- CLOOP's count with its source resolved (R51). -/
def loopCount (c : Core) (fromReg : Bool) (areg : BitVec 4) (count1 : BitVec 16) : Nat :=
  if fromReg then (smGet 0 c.a areg.toNat).toNat else count1.toNat + 1

/-- The streamed loops opened where the bundle stands: in a variant, those opened since its call (R62). -/
def openLoops (ctx : SeqCtx) : List Loop :=
  ctx.loops.take (ctx.loops.length - (match ctx.variant with | some v => v.depth | none => 0))

/-- The image index after the body of the innermost loop around a bundle (R54). -/
def innerEnd (c : Core) (ctx : SeqCtx) : Option Nat :=
  ((c.loops ++ openLoops ctx).head?).map (fun l => l.startIdx + l.bodyLen)

/-- Whether an index run ending at `e` leaves the innermost loop body. -/
def leavesLoop (c : Core) (ctx : SeqCtx) (e : Nat) : Bool :=
  match innerEnd c ctx with
  | some i => decide (e > i)
  | none => false

/-- Whether a bundle of a skipped range [.., hi) breaks R56: a uniform operation, or a loop body that ends beyond the range. Only
its C slot counts. -/
def skipBreach (hi : Nat) (b : Bundle) : Bool :=
  !b.poison &&
  match decC (bC b.bits.toNat) with
  | none => false
  | some c =>
    cUniform c ||
    (match c with
     | .cloop _ _ _ body1 => decide (b.pos + 1 + body1.toNat + 1 > hi)
     | _ => false)

/-- How many bundles after its own an executing C slot skips (R51, R55). -/
def cSkip (c : Core) (x : COp) : Nat :=
  match x with
  | .cbr n => n.toNat
  | .cloop fromReg areg count1 body1 => if loopCount c fromReg areg count1 = 0 then body1.toNat + 1 else 0
  | _ => 0

/-- Whether the C slot of a bundle breaks a rule of control form (R54, R56). `p1` and `i1` are the position and image index after the
bundle. A fifth nested CLOOP is refused also when its register count is 0 (log entry 99). -/
def ctrlBad (s : State) (c : Core) (ctx : SeqCtx) (p1 i1 : Nat) (x : COp) : Bool :=
  (!c.loops.isEmpty && cUniform x)
  || (match x with
      | .cloop fromReg areg count1 body1 =>
        let body := body1.toNat + 1
        let e := i1 + body
        decide (loopCount c fromReg areg count1 > 65536)
        || (!cStreamed x && (decide (c.loops.length + ctx.loops.length ≥ 4) || leavesLoop c ctx e
            || (match ctx.variant with | some v => decide (e > v.startIdx + v.len) | none => false)))
      | .cbr n => leavesLoop c ctx (i1 + n.toNat)
      | _ => false)
  || (let k := cSkip c x
      decide (k > 0) && s.seq.log.any (fun q => decide (p1 ≤ q.pos) && decide (q.pos < p1 + k) && skipBreach (p1 + k) q))

/-! ### Step 2: resolved addresses and descriptors -/

/-- The address of an X slot's descriptor with its length (R31). -/
def xDesc (c : Core) (x : XOp) : Option (Nat × Nat) :=
  match x with
  | .xloc areg off => some ((resolve c areg off).toNat, 64)
  | .xstr areg off _ => some ((resolve c areg off).toNat, 128)
  | .xcol areg off _ => some ((resolve c areg off).toNat, 128)
  | .xwatch areg off => some ((resolve c areg off).toNat, 32)
  | _ => none

/-- Whether a zero-point register breaks R174 for a streamed format. -/
def zpBad (fmt : Nat) (z : Nat) : Bool :=
  match fmtClass fmt with
  | some 3 => decide (z ≥ 2 ^ 16)
  | some 4 => decide (z ≥ 2 ^ 12) || bitsOf z 7 4 != 0
  | _ => false

/-- Whether a streamed format belongs to an integer class (R87). -/
def fmtInt (fmt : Nat) : Bool := fmt == 10 || fmt == 11 || fmt == 12

/-- Address checks of the M slot (R115, R128, R174, R183, R184, R187). Where the extent is not known at step 2 (R643), the model checks
the first byte, and for MDRAIN in mode 1 nothing (log entry 98). For an I8 or I4 operand with bit 20 at 1 the spec does not say how step 2 reads
field [19:16]: DESIGN CHOICE, log entry 124, as the row-scale register, with no zero-point check. -/
def mAddrBad (s : State) (core : Nat) (c : Core) (m : MOp) : Bool :=
  match m with
  | .mmul _ areg off rows1 _ fmt _ _ _ rs sareg =>
    let a := (resolve c areg off).toNat
    let n := rows1.toNat + 1
    let z := (smGet 0 c.a sareg.toNat).toNat
    a % 64 != 0 || (if (fmtClass fmt.toNat).isSome then !inBuf a (n * lineBytes fmt.toNat) else !inBuf a 1)
    || (if rs then !inBuf z n else sareg != 0 && zpBad fmt.toNat z)
  | .mdrain _ rows1 t _ mode _ areg off _ =>
    let a := (resolve c areg off).toNat
    let n := rows1.toNat + 1
    let f := (shapeOf c t.toNat).fmt
    if mode = 1 then
      if (shapeOf c t.toNat).tag = 0 || !([3, 4, 10, 12].contains f) then false
      else ((f == 3 || f == 4) && swinEmpty s core) || !inBuf a (if f = 3 || f = 4 then n else 4 * n)
    else if mode = 2 then !inBuf a 1024 else false
  | _ => false

/-- Address checks of the V slot (R184, R208, R210). -/
def vAddrBad (s : State) (core : Nat) (c : Core) (op : VOpc) (v : VArgs) : Bool :=
  match op with
  | .vsr => v.fn == 0 && decide ((smGet 0 c.a (bitsOf v.imm.toNat 7 4)).toNat ≥ 2 ^ 48)
  | .vadam => let a := (smGet 0 c.a (v.imm.toNat % 16)).toNat; a % 64 != 0 || !inBuf a 64
  | .vscale => v.fn == 0 && (v.fmt == 3 || v.fmt == 4) && swinEmpty s core
  | _ => false

/-- The extent of TLD and TST (R30, R643). -/
def tExtent (sh : Shape) (pitch : Nat) : Nat :=
  if sh.tag = 0 then 1 else (sh.rows - 1) * tPitch sh pitch + rowPayload sh.fmt sh.elems

/-- Address checks of the T slot. -/
def tAddrBad (c : Core) (t : TOp) : Bool :=
  match t with
  | .tld t _ areg off p => !inBuf (resolve c areg off).toNat (tExtent (shapeOf c t.toNat) p.toNat)
  | .tst t _ areg off p => !inBuf (resolve c areg off).toNat (tExtent (shapeOf c t.toNat) p.toNat)
  | _ => false

/-- Address checks of the X and S slots: descriptors lie in the buffer (R31, R228). -/
def xsAddrBad (c : Core) (x : XOp) (y : SOp) : Bool :=
  (match xDesc c x with | some (a, n) => !inBuf a n | none => false)
  || (match y with | .ssig areg off => !inBuf (resolve c areg off).toNat 32 | _ => false)

/-- LCU_DESC (R284). -/
def cLcuDesc : Word16 := 0x5001

/-- A fault of the core at a bundle. -/
def coreFault (s : State) (core idx : Nat) (code : Word16) : State := jobFatal s core idx code (srcCore core) (openPay code (srcCore core))

/-- The descriptor of the X slot: the faulted state, or none when it stands (R261, R281, R363, R369). -/
def xDescFault (s : State) (core idx : Nat) (c : Core) (x : XOp) : Option State :=
  match xDesc c x with
  | none => none
  | some (a, n) =>
    match bufFirstPoison c a n with
    | some u => some (poisonConsumed s core idx (srcCore core) (winBuf core (u * 64)) 4)
    | none =>
      let d := bufRead c a n
      match x with
      | .xloc _ _ =>
        if lcuDescBad s core d then some (coreFault s core idx cLcuDesc)
        else
          match dRefused s d with
          | some (g, w, p) => some (coreFault (refuseAccess s (srcCore core) (globalOf s g) p 0 w) core idx cLcuDesc)
          | none => none
      | .xwatch _ _ => if watchBad s c d then some (coreFault s core idx cWatchDesc) else none
      | .xstr _ _ _ => if xstrBad s d then some (coreFault s core idx cCeDesc) else none
      | .xcol _ _ _ => if xcolBad s d then some (coreFault s core idx cCeDesc) else none
      | _ => none

/-- The tile registers of the X slot: the tile ends of an XLOC (R264). -/
def xUses (c : Core) (x : XOp) : List TUse :=
  match x with
  | .xloc areg off => copyTile (bufRead c (resolve c areg off).toNat 64)
  | _ => []

/-- Pairs of slots of one bundle clash on a tile register (R42). -/
def slotsClash (ls : List (List TUse)) : Bool :=
  match ls with
  | [a, b, c, d] => usesClash a b || usesClash a c || usesClash a d || usesClash b c || usesClash b d || usesClash c d
  | _ => false

/-- Step 2 of R39 after the static form: the faulted state, or none when the bundle passes. Where CTRL_FORM stands is the model's
choice, as R39's order does not list it: before the hazard rule. A clash with a tile end that only XLOC's descriptor names is found
after the address and descriptor checks (log entry 97). -/
def step2 (s : State) (core : Nat) (c : Core) (b : Bundle) (p1 i1 : Nat) (e : Slots) : Option State :=
  let m := mUses e.m
  let v := vUses e.vop e.v
  let t := tUses e.t
  if ctrlBad s c b.ctx p1 i1 e.c then some (coreFault s core b.idx cCtrlForm)
  else if slotsClash [m, v, t, []] then some (coreFault s core b.idx cBundleHazard)
  else if mAddrBad s core c e.m || vAddrBad s core c e.vop e.v || tAddrBad c e.t || xsAddrBad c e.x e.s then
    some (coreFault s core b.idx cBundleOperand)
  else
    match xDescFault s core b.idx c e.x with
    | some f => some f
    | none => if slotsClash [m, v, t, xUses c e.x] then some (coreFault s core b.idx cBundleHazard) else none

/-! ### Steps 4 and 5 -/

/-- Whether operations of the core are still under way for `drain` (R22): slots M, V, T, X, copies of the engines included. -/
def coreBusy (s : State) (core : Nat) (c : Core) : Bool :=
  !c.flight.isEmpty || !c.lcu.isEmpty || c.fence.isSome || !c.arms.isEmpty
  || s.ce.any (fun p => p.2.ops.any (fun o => decide (o.core = core) && !o.completed && (match o.kind with | .sig _ _ => false | _ => true)))

/-- An operation that keeps VSR KEY waiting (R209). -/
def usesKey (o : FOp) : Bool :=
  match o.body with
  | .v .vsr a => a.fn == 1
  | .v _ a => a.rnd == 2
  | .m (.mdrain _ _ _ _ _ rnd _ _ _) => rnd == 2
  | _ => false

/-- The accumulator rows that an XLOC names (R252, R262). -/
def xRows (c : Core) (x : XOp) : Option (Nat × Nat) :=
  match x with
  | .xloc areg off => copyRows (bufRead c (resolve c areg off).toNat 64)
  | _ => none

/-- Step 4 waits (R39, R82, R101, R209, R252). -/
def step4Waits (s : State) (core : Nat) (c : Core) (drain : Bool) (e : Slots) : Bool :=
  (drain && coreBusy s core c)
  || usesClash (mUses e.m ++ vUses e.vop e.v ++ tUses e.t ++ xUses c e.x) (heldUses c)
  || chainHolds c e.m || lcuHolds c e.m || rowsHeld c (xRows c e.x)
  || (e.vop == .vsr && e.v.fn == 0 && c.flight.any usesKey)

/-- Whether an entry of an engine takes one of its operation slots (R358). -/
def takesSlot (o : CeOp) : Bool := match o.kind with | .sig _ _ => false | _ => true

/-- Operation slots in use (R358, R395). -/
def ceBusy (e : Engine) : Nat := (e.ops.filter takesSlot).length

/-- Whether pacing keeps an MMUL or MMULZ from the array (R591): an earlier one has still to enter it, or the wait after the last row of
the previous pass has not elapsed. How long a pass takes is a free value (log entry 107). -/
def paceWaits (s : State) (c : Core) (m : MOp) : Bool :=
  let q := regF s aPwr 23 20
  match m with
  | .mmul _ _ _ _ _ _ _ _ _ _ _ =>
    q != 0 && (c.flight.any (fun o => isMmul o && !o.started) || decide (now s < c.passAt + q * c.passNs / (16 - q)))
  | _ => false

/-- What cannot accept at step 5, one bit each, 0 when all can (R93, R94, R271, R32, R358, R591): 1 commit tiles, 2 array, 3 vector unit,
4 T unit, 5 X unit, 6 the array under pacing. -/
def step5Cause (s : State) (c : Core) (e : Slots) : Nat :=
  let need := ((mUses e.m ++ vUses e.vop e.v ++ (match e.t with | .tcfg _ _ _ _ _ => [] | t => tUses t) ++ xUses c e.x).filter
    (fun u => u.write)).length
  let vt := match e.t with | .tcfg _ _ _ _ _ => false | .nop => false | _ => true
  let xFull := e.x != .nop && (c.fence.isSome || (match e.x with
    | .xloc _ _ => decide (c.lcu.length ≥ 4)
    | .xstr _ _ ctx => decide (ceBusy (getCe s (engineOf ctx)) ≥ 64)
    | .xcol _ _ ctx => decide (ceBusy (getCe s (engineOf ctx)) ≥ 64)
    | _ => false))
  b2n (decide (claimed c + need > 8)) * 2
  + b2n (e.m != .nop && decide (inFlight c .m ≥ 8)) * 4
  + b2n (e.vop != .vnop && decide (inFlight c .v ≥ 4)) * 8
  + b2n (vt && decide (inFlight c .t ≥ 4)) * 16
  + b2n xFull * 32
  + b2n (paceWaits s c e.m) * 64

/-! ### Step 6 (R84, R88) -/

/-- Whether a tag check fails (R83, R85). -/
def tagBad (c : Core) (u : TUse) : Bool := let sh := shapeOf c u.tile; sh.tag == 0 || sh.tag != u.tag

/-- The first failing pass of a slot. -/
def passes (tag fmt dim : Bool) : Option Word16 :=
  if tag then some cTileShape else if fmt then some cTileFormat else if dim then some cTileDim else none

/-- The format check of MDRAIN (R88). -/
def drainFmtBad (mode fmt : Nat) : Bool :=
  if mode = 1 then !([3, 4, 10, 12].contains fmt) else if mode = 2 then !([3, 10, 11, 12].contains fmt) else false

/-- Step 6 of the M slot (R88, R114, R128, R178). -/
def check6M (c : Core) (m : MOp) : Option Word16 :=
  match m with
  | .nop => none
  | .mswap => none
  | .mld t g turn =>
    let sh := shapeOf c t.toNat
    let r := mldRecord sh turn
    let mx := fmtIsMx sh.fmt
    passes (tagBad c ⟨t.toNat, g.toNat, false⟩) (fmtClass sh.fmt).isNone
      (decide (r.n > 64) || decide (r.k > (if turn then 64 * classD r.cls else 64)) || (mx && (!turn || r.k % 32 != 0)))
  | .mmul _ _ _ rows1 dest fmt acc depth1 cols1 rs _ =>
    let st := (virtSets c.flight (c.act, c.shd)).1
    if !st.loaded then some cTileDim
    else
      let half := if accTally acc then 256 else 1024
      let lo := dest.toNat
      let hi := lo + rows1.toNat + 1
      passes false
        (fmtClass fmt.toNat != some st.cls || !classMode st.cls acc.toNat || (rs && st.cls != 0))
        (decide (depth1.toNat + 1 ≠ ceilDiv st.k (classD st.cls)) || decide (cols1.toNat + 1 > st.n) || (decide (lo < half) && decide (half < hi)))
  | .mdrain _ rows1 t g mode _ _ _ _ =>
    let sh := shapeOf c t.toNat
    passes (tagBad c ⟨t.toNat, g.toNat, false⟩) (drainFmtBad mode.toNat sh.fmt) (sh.rows != rows1.toNat + 1 || sh.elems != 64)
  | .mtopk _ rows1 vt vg pt pg k1 _ _ =>
    let a := shapeOf c vt.toNat
    let b := shapeOf c pt.toNat
    let n := rows1.toNat + 1
    let k := k1.toNat + 1
    passes (tagBad c ⟨vt.toNat, vg.toNat, true⟩ || tagBad c ⟨pt.toNat, pg.toNat, true⟩)
      ((a.fmt != 0 && a.fmt != 1) || b.fmt != 0)
      (a.rows != n || a.elems != k || b.rows != n || b.elems != k || vt == pt)

/-- Step 6 of the V slot (R84, R195 to R204). -/
def check6V (c : Core) (op : VOpc) (v : VArgs) : Option Word16 :=
  if op = .vnop then none
  else
    let d := shapeOf c v.dst.toNat
    let a := shapeOf c v.a.toNat
    let b := shapeOf c v.b.toNat
    let cc := shapeOf c v.c.toNat
    passes ((vUses op v).any (tagBad c)) (vFmtBad op v d a b cc) (vDimBad op v d a b cc)

/-- VEC_TABLE: a library function while no tables are loaded (R204). -/
def tableBad (s : State) (op : VOpc) (v : VArgs) : Option Word16 :=
  if op = .vfn ∧ isLibrary v.fn.toNat = true ∧ regF s aVecMll 16 16 = 0 then some cVecTable else none

/-- Whether TCFG's shape breaks a dimension rule (R81). -/
def shapeDimBad (fmt rows elems : Nat) : Bool :=
  decide (rowPayload fmt elems > 512) || decide (rows * rowStride fmt elems > tileBytes) || (fmtIsMx fmt && elems % 32 != 0)

/-- Step 6 of the T slot (R81, R88). -/
def check6T (c : Core) (t : TOp) : Option Word16 :=
  match t with
  | .nop => none
  | .tcfg _ _ rows1 elems1 fmt =>
    passes false (fmt == 13 || fmt == 15) (shapeDimBad fmt.toNat (rows1.toNat + 1) (elems1.toNat + 1))
  | .tld t g _ _ p =>
    let sh := shapeOf c t.toNat
    passes (tagBad c ⟨t.toNat, g.toNat, true⟩) false (p != 0 && decide (p.toNat < ceilDiv (rowStride sh.fmt sh.elems) 64))
  | .tst t g _ _ p =>
    let sh := shapeOf c t.toNat
    passes (tagBad c ⟨t.toNat, g.toNat, false⟩) false (p != 0 && decide (p.toNat < ceilDiv (rowStride sh.fmt sh.elems) 64))
  | .tmov d dg q qg =>
    let a := shapeOf c d.toNat
    let b := shapeOf c q.toNat
    passes (tagBad c ⟨d.toNat, dg.toNat, true⟩ || tagBad c ⟨q.toNat, qg.toNat, false⟩) (a.fmt != b.fmt) (!sameDims a b)
  | .tzero t g => passes (tagBad c ⟨t.toNat, g.toNat, true⟩) false false
  | .txp d dg q qg =>
    let a := shapeOf c d.toNat
    let b := shapeOf c q.toNat
    passes (tagBad c ⟨d.toNat, dg.toNat, true⟩ || tagBad c ⟨q.toNat, qg.toNat, false⟩)
      (fmtIsMx a.fmt || fmtIsMx b.fmt || !([8, 16, 32].contains (fmtBits b.fmt)) || fmtBits a.fmt != fmtBits b.fmt)
      (a.rows != b.elems || a.elems != b.rows)

/-- Step 6 of the X slot: the tile ends of an XLOC (R264). -/
def check6X (c : Core) (x : XOp) : Option Word16 :=
  match x with
  | .xloc areg off =>
    let d := bufRead c (resolve c areg off).toNat 64
    let ends := (if dSrcKind d = 5 then [(dSrcRef d, dSrcFmt d)] else []) ++ (if dDstKind d = 5 then [(dDstRef d, dDstFmt d)] else [])
    passes ((copyTile d).any (tagBad c))
      (ends.any (fun q => (shapeOf c (q.1 % 32)).fmt != q.2))
      (ends.any (fun q => let sh := shapeOf c (q.1 % 32)
        sh.elems != dElems d || decide (bitsOf q.1 21 16 + dRows d > sh.rows)))
  | _ => none

/-- ZP_WEIGHT_I4: an I4 pass with a weight zero point (R178). -/
def zpWeight (c : Core) (m : MOp) : Option Word16 :=
  match m with
  | .mmul _ _ _ _ _ fmt _ _ _ rs sareg =>
    if !rs && fmt == 12 && sareg != 0 && bitsOf (smGet 0 c.a sareg.toNat).toNat 11 8 != 0 then some cZpWeight else none
  | _ => none

/-- Step 6: the first fault of the slots M, V, T, X (R84, R88), then the weight zero point (R178) and the library's tables (R204). -/
def check6 (s : State) (c : Core) (e : Slots) : Option Word16 :=
  (check6M c e.m).orElse (fun _ => (check6V c e.vop e.v).orElse (fun _ => (check6T c e.t).orElse (fun _ =>
    (check6X c e.x).orElse (fun _ => (zpWeight c e.m).orElse (fun _ => tableBad s e.vop e.v)))))

/-! ### Effects -/

/-- The shapes an operation captures (R90). -/
def capture (c : Core) (b : OpBody) : List (Nat × Shape) := (bodyUses b).map (fun u => (u.tile, shapeOf c u.tile))

/-- The chain an MMUL joins, or none when it starts one; an MMULZ always starts one (R100). -/
def joinChain (c : Core) (m : MOp) : Option Nat :=
  match m with
  | .mmul false _ _ _ _ _ acc _ _ _ _ =>
    let r := mRows m
    match (c.flight.filter (fun o => isMmul o && decide (mmulRange o.body = r))).getLast? with
    | some o =>
      match o.body with
      | .m (.mmul _ _ _ _ _ _ acc2 _ _ _ _) =>
        if acc = acc2 ∧ (chainMembers c o.chain).length < 4 ∧ !c.closed.contains o.chain then some o.chain else none
      | _ => none
    | none => none
  | _ => none

/-- The chain number an operation gets: that of the chain it joins, or the next one (R100); 0 for what is no MMUL. -/
def launchChain (c : Core) (b : OpBody) : Nat :=
  match b with
  | .m m => (match m with
    | .mmul _ _ _ _ _ _ _ _ _ _ _ => (joinChain c m).getD c.nextChain
    | _ => 0)
  | _ => 0

/-- An operation with what it captures at issue (R90, R175). -/
def launchOp (c : Core) (b : OpBody) (h : Hdr) (idx : Nat) (a1 a2 : Word64) : FOp :=
  ⟨c.nextOrd, b, h.done, h.pred, a1, a2, capture c b, c.key, 0, launchChain c b, false, .none, .clean, [], [], idx, false⟩

/-- Put an operation into flight. -/
def launch (c : Core) (b : OpBody) (h : Hdr) (idx : Nat) (a1 a2 : Word64) : Core :=
  let o := launchOp c b h idx a1 a2
  { c with flight := c.flight ++ [o], nextOrd := c.nextOrd + 1
           nextChain := if o.chain = c.nextChain ∧ isMmul o then c.nextChain + 1 else c.nextChain }

/-- Issue of the M slot. Its addresses are resolved with the registers before the bundle (R38). -/
def issueM (c : Core) (m : MOp) (h : Hdr) (idx : Nat) : Core :=
  match m with
  | .nop => c
  | .mmul _ areg off _ _ fmt _ _ _ rs sareg =>
    launch c (.m m) h idx (resolve c areg off) (if !rs && fmtInt fmt.toNat && sareg == 0 then 0 else smGet 0 c.a sareg.toNat)
  | .mdrain _ _ _ _ _ _ areg off _ => launch c (.m m) h idx (resolve c areg off) 0
  | _ => launch c (.m m) h idx 0 0

/-- VSR KEY (R208, R209): it takes effect and completes when it issues. -/
def setKey (c : Core) (imm : BitVec 32) : Core :=
  let x := (smGet 0 c.a (imm.toNat % 16)).toNat
  let y := (smGet 0 c.a (bitsOf imm.toNat 7 4)).toNat
  { c with key := { c.key with tid := BitVec.ofNat 32 x, pitch := BitVec.ofNat 32 (x / 2 ^ 32), base := BitVec.ofNat 48 y } }

/-- Issue of the V slot; VSR KEY is no operation in flight. -/
def issueV (c : Core) (op : VOpc) (v : VArgs) (h : Hdr) (idx : Nat) : Core :=
  match op with
  | .vnop => c
  | .vadam => launch c (.v op v) h idx (smGet 0 c.a (v.imm.toNat % 16)) 0
  | _ => if op = .vsr ∧ v.fn = 0 then setKey c v.imm else launch c (.v op v) h idx 0 0

/-- TCFG takes effect when it issues (R82, R91). -/
def setShape (c : Core) (t : Nat) (sh : Shape) : Core := dropLatches { c with shapes := smSet Shape.none c.shapes t sh } t

/-- Issue of the T slot; TCFG is no operation in flight. -/
def issueT (c : Core) (t : TOp) (h : Hdr) (idx : Nat) : Core :=
  match t with
  | .nop => c
  | .tcfg t g rows1 elems1 fmt => setShape c t.toNat ⟨g.toNat, fmt.toNat, rows1.toNat + 1, elems1.toNat + 1⟩
  | .tld _ _ areg off _ => launch c (.t t) h idx (resolve c areg off) 0
  | .tst _ _ areg off _ => launch c (.t t) h idx (resolve c areg off) 0
  | _ => launch c (.t t) h idx 0 0

/-- Chains whose rows a copy names take no further member (R100). -/
def closeChains (c : Core) (d : List Byte) : Core :=
  match copyRows d with
  | none => c
  | some x =>
    { c with closed := c.closed ++ ((c.flight.filter (fun o => match mmulRange o.body with
        | some r => rangesMeet x r || rangesMeet x (partner r)
        | none => false)).map (fun o => o.chain)).dedup }

/-- Issue of the X slot. -/
def issueX (s : State) (core : Nat) (c0 : Core) (x : XOp) (done : BitVec 6) (idx : Nat) : State :=
  let seen (n : Nat) : State := match xDesc c0 x with | some (a, _) => bufTouch s core a n false 3 | none => s
  match x with
  | .nop => s
  | .xloc areg off =>
    let a := (resolve c0 areg off).toNat
    let d := bufRead c0 a 64
    modCore (seen 64) core (fun c =>
      let q : Copy := ⟨c.nextOrd, d, a, done, fragAll d, false, false, 0, 0, false, false, c.key.step, false, [], idx, [], [], 0, false⟩
      closeChains { c with lcu := c.lcu ++ [q], nextOrd := c.nextOrd + 1 } d)
  | .xstr areg off ctx =>
    cePush (seen 128) (newCeOp core ctx .copy (bufRead c0 (resolve c0 areg off).toNat 128) done idx c0.key.step)
  | .xcol areg off ctx =>
    cePush (seen 128) (newCeOp core ctx .col (bufRead c0 (resolve c0 areg off).toNat 128) done idx c0.key.step)
  | .xwatch areg off => doXwatch (seen 32) core (bufRead c0 (resolve c0 areg off).toNat 32) done
  | .xfence a b w i =>
    modCore s core (fun c => { c with fence := some ⟨BitVec.ofNat 4 (b2n a * 8 + b2n b * 4 + b2n w * 2 + b2n i), done, c.key.step, false⟩ })

/-- Field, row and column of a logical ID (R4). -/
def coreField (s : State) (id : Nat) : Nat := id / (nCores s / 4)
def coreRow (s : State) (id : Nat) : Nat := id % (nCores s / 4) / 16
def coreCol (id : Nat) : Nat := id % 16

/-- CSET kind 0 (R34). -/
def csetVal (s : State) (core : Nat) (old : Word64) (sub : BitVec 3) (imm : BitVec 32) : Word64 :=
  match sub.toNat with
  | 0 => BitVec.ofNat 64 (putBits old.toNat 31 0 imm.toNat)
  | 1 => BitVec.ofNat 64 (putBits old.toNat 63 32 imm.toNat)
  | 2 => BitVec.ofNat 64 imm.toNat
  | 3 => BitVec.ofNat 64 core
  | 4 => BitVec.ofNat 64 (coreField s core)
  | 5 => BitVec.ofNat 64 (coreRow s core)
  | 6 => BitVec.ofNat 64 (coreCol core)
  | _ => sext32 imm

/-- CSET kind 1's comparison (R34, R35). -/
def cmpVal (x : Word64) (cmp : BitVec 3) (imm : BitVec 32) : Bool :=
  let y := sext32 imm
  match cmp.toNat with
  | 0 => x == y
  | 1 => x != y
  | 2 => x.ult y
  | 3 => !x.ult y
  | 4 => x.slt y
  | 5 => !x.slt y
  | 6 => true
  | _ => false

/-- C-slot writes of registers, predicates, marks (R34 to R38, R63, R64, R66, R206). -/
def effC (s : State) (core : Nat) (x : COp) (c : Core) : Core :=
  match x with
  | .cadd d q imm => { c with a := smSet 0 c.a d.toNat (smGet 0 c.a q.toNat + sext32 imm) }
  | .csetReg r sub imm => { c with a := smSet 0 c.a r.toNat (csetVal s core (smGet 0 c.a r.toNat) sub imm) }
  | .csetPred r cmp pd imm =>
    if pd = 0 then c else { c with p := smSet false c.p pd.toNat (cmpVal (smGet 0 c.a r.toNat) cmp imm) }
  | .cmark kind v =>
    if kind = 0 then { c with trace := v }
    else if kind = 1 then { c with key := { c.key with step := c.key.step + 1 }, flight := c.flight.map (fun o => { o with lag := o.lag + 1 }) }
    else c
  | .chalt _ => { c with chalted := true }
  | _ => c

/-- Local loops whose body the next index has reached the end of (R50, R52): the next position and index. -/
def loopEnds : List Loop → Nat → Nat → List Loop × Nat × Nat
  | [], pos, idx => ([], pos, idx)
  | l :: ls, pos, idx =>
    if idx = l.startIdx + l.bodyLen then
      if l.remaining > 1 then ({ l with remaining := l.remaining - 1 } :: ls, l.startPos, l.startIdx) else loopEnds ls pos idx
    else (l :: ls, pos, idx)

/-- Streamed loops whose body the next index has reached the end of (R53). -/
def streamEnds : List Loop → Nat → List Loop × Nat
  | [], n => ([], n)
  | l :: ls, n =>
    if n = l.startIdx + l.bodyLen then
      if l.remaining > 1 then ({ l with remaining := l.remaining - 1 } :: ls, l.startIdx) else streamEnds ls n
    else (l :: ls, n)

/-- The streamed loops and the image index where a run of bundles that ends before index `n` leads, from a bundle with context `ctx`. In a
variant only the loops opened since its call can end. -/
def streamTo (ctx : SeqCtx) (n : Nat) : List Loop × Nat :=
  let ls := openLoops ctx
  let (ls1, i) := streamEnds ls n
  (ls1 ++ ctx.loops.drop ls.length, i)

/-- The core moves past a bundle (R50 to R55). `p1` and `i1` are the position and image index after it. A skip past all that was multicast
keeps the place it leads to (R55): the skipped run holds no uniform operation (R56), so its own streamed loops end it. -/
def advance (ctx : SeqCtx) (nextMulti p1 i1 : Nat) (x : COp) (c : Core) : Core :=
  let k := cSkip c x
  let c1 :=
    match x with
    | .cloop fromReg areg count1 body1 =>
      if !cStreamed x && k = 0 then
        { c with loops := ⟨i1, body1.toNat + 1, loopCount c fromReg areg count1, false, p1⟩ :: c.loops }
      else c
    | _ => c
  let (ls, p, i) := loopEnds c1.loops (p1 + k) (i1 + k)
  let sk := c.skips.filter (fun r => decide (r.2 > nextMulti))
  let far := decide (k > 0 ∧ p > nextMulti)
  let dest := streamTo ctx i
  { c1 with
    loops := ls, nextPos := p, nextIdx := if far then dest.2 else i
    ahead := if far then some (p, dest.2, dest.1) else c.ahead
    skips := if k > 0 ∧ p1 + k > nextMulti then sk ++ [(p1, p1 + k)] else sk }

/-- The retain point (R48). -/
def retainOf (c : Core) : Nat :=
  match c.loops.getLast? with
  | some l => l.startPos
  | none => c.nextPos

/-- The lowest retain point (R49). A core that is not listed has retain point 0. -/
def rMin (s : State) : Nat :=
  match s.cores with
  | [] => 0
  | p :: ps => if s.cores.length < nCores s then 0 else ps.foldl (fun m q => min m (retainOf q.2)) (retainOf p.2)

/-- Bundles and kind 2 positions below r_min are gone (R49, R70). -/
def trimLog (s : State) : State :=
  let r := rMin s
  { s with seq := { s.seq with log := s.seq.log.filter (fun b => decide (r ≤ b.pos)), kind2 := s.seq.kind2.filter (fun k => decide (r ≤ k.1)) } }

/-- SDEC (R220, R221): on an underflow the core stops after the bundle, whose other slots run to completion. -/
def doSdec (s : State) (core idx i n : Nat) : State :=
  if n = 0 then s
  else
    let c := getCore s core
    let v := smGet 0 c.s i
    if n > v.toNat then jobFatalKeep core s core idx cSyncUnderflow (srcCore core) (i % 64 + n % 2 ^ 16 * 2 ^ 16)
    else detStir (setCore s core { c with s := smSet 0 c.s i (v - BitVec.ofNat 16 n) })

/-- The S-slot effects that come after the other slots (R40). -/
def lateS (s : State) (core idx : Nat) (c0 : Core) (y : SOp) : State :=
  match y with
  | .sinc i n => addS s core i.toNat n.toNat
  | .sdec i n => doSdec s core idx i.toNat n.toNat
  | .ssig areg off => doSsig s core idx (resolve c0 areg off).toNat
  | _ => s

/-- The subtraction of SWAIT and the consumption of SBAR's token (R40, R220, R225). -/
def takeS (y : SOp) (c : Core) : Core :=
  match y with
  | .swait i n => { c with s := smSet 0 c.s i.toNat (smGet 0 c.s i.toNat - n) }
  | .sbar _ _ => { c with token := false, arrived := none }
  | _ => c

/-- Done counters of VSR KEY and TCFG, which complete when they issue (R91, R209). -/
def instantDone (s : State) (core : Nat) (e : Slots) : State :=
  let s1 := if e.vop = .vsr ∧ e.v.fn = 0 then doneAdvance s core e.vh.done else s
  match e.t with
  | .tcfg _ _ _ _ _ => doneAdvance s1 core e.th.done
  | _ => s1

/-- Commit of a VSR KEY counts as a V operation. -/
def keyCount (s : State) (core : Nat) (e : Slots) : State := if e.vop = .vsr ∧ e.v.fn = 0 then bump s (aVecOps core) 1 else s

/-- The X operation of a bundle whose S slot stopped the core has issued: it runs to completion, and the copies before it that it must follow do
too (R221, R229). A collective cannot without its peers: it stops as R393 says (log entry 133). -/
def xFinish (core : Nat) (x : XOp) (s : State) : State :=
  match x with
  | .xloc _ _ => if (getCore s core).st = .faulted then modCore s core (fun c => { c with finish := true }) else s
  | .xstr _ _ ctx =>
    let e := getCe s (engineOf ctx)
    let due (o : CeOp) : Bool := o.ctx == ctx && takesSlot o && !o.completed
    if (getCore s core).st = .faulted ∧ e.ops.any (fun o => due o && o.kind == .col) = false then
      setCe s (engineOf ctx) { e with ops := e.ops.map (fun o => if due o then { o with must := true } else o) }
    else s
  | _ => s

/-- The issue of a bundle that passed every check (R40). -/
def issueAll (s : State) (core : Nat) (b : Bundle) (p1 i1 : Nat) (e : Slots) : State :=
  let c0 := getCore s core
  let y := e.s
  let s1 := modCore s core (fun c =>
    let c1 := takeS y { c with st := .issuing, wait := 0, cause := 0 }
    let c2 := issueM c1 e.m e.mh b.idx
    let c3 := issueV c2 e.vop e.v e.vh b.idx
    issueT c3 e.t e.th b.idx)
  let s2 := match y with | .swait _ n => if n = 0 then detBreak s1 else detStir s1 | _ => detBreak s1
  let s3 := issueX s2 core c0 e.x e.xh.done b.idx
  let s4 := instantDone (keyCount s3 core e) core e
  let next := s4.seq.nextPos
  let s5 := modCore s4 core (fun c =>
    effC s core e.c (advance b.ctx next p1 i1 e.c c))
  trimLog (xFinish core e.x (lateS s5 core b.idx c0 y))

/-- Wait at a step of R39 (R43). -/
def waitAt (s : State) (core step cause : Nat) : State :=
  modCore s core (fun c => { c with st := .waiting, wait := step, cause := cause })

/-- Whether an S slot that waits is satisfied (R220, R225). -/
def step3Ok (c : Core) (y : SOp) : Bool :=
  match y with
  | .swait i n => decide (n.toNat ≤ (smGet 0 c.s i.toNat).toNat)
  | .sbar _ _ => c.token
  | _ => true

/-- Steps 3 to 6 and the issue. -/
def steps3to6 (s : State) (core : Nat) (b : Bundle) (p1 i1 : Nat) (e : Slots) (drain : Bool) : State :=
  let c := getCore s core
  if !step3Ok c e.s then
    match e.s with
    | .sbar g n => if c.arrived.isNone then barArrive (waitAt s core 3 0) core b.idx g n else waitAt s core 3 0
    | _ => waitAt s core 3 0
  else if step4Waits s core c drain e then waitAt s core 4 0
  else if step5Cause s c e ≠ 0 then waitAt s core 5 (step5Cause s c e)
  else
    match check6 s c e with
    | some f => coreFault s core b.idx f
    | none => issueAll s core b p1 i1 e

/-- Every step of R39 for a bundle that has arrived. -/
def tryBundle (s : State) (core : Nat) (b : Bundle) : State :=
  if b.poison then poisonConsumed s core b.idx (srcCore core) ((reg s aSeqImgBase).toNat / 64 % 2 ^ 40 * 64 + b.idx * 64) 1
  else
    let w := b.bits.toNat
    match staticForm w with
    | some f => coreFault s core b.idx f
    | none =>
      match decodeSlots w with
      | none => s
      | some sl =>
        let c := getCore s core
        let e := effSlots c.p sl
        match step2 s core c b (b.pos + 1) (b.idx + 1) e with
        | some f => f
        | none => steps3to6 s core b (b.pos + 1) (b.idx + 1) e (bDrain w)

/-- Whether a core issues at all: the stream runs, the detector is not BLOCKED (R240), the core is neither faulted nor finished, and
the debug port lets it (R608, R611). -/
def coreRuns (s : State) (c : Core) : Bool :=
  s.seq.st == .running && (s.sync.det == .watch || s.sync.det == .quiet) && c.st != .faulted && !c.chalted
  && (!c.dbgHalt || c.dbgStep) && s.job.device.isNone

/-- The breakpoint that names a core and an image index, the lowest one (R612). -/
def bpHit (s : State) (core idx : Nat) : Option Nat :=
  (List.range 8).find? (fun k =>
    let a := aDbgBp k
    regF s a 63 63 == 1 && (regF s a 62 62 == 1 || regF s a 57 48 == core) && regF s a 31 0 == idx)

/-- A step of the debug port ends with the issue of its bundle (R611). -/
def endStep (core : Nat) (stepped : Bool) (pos0 : Nat) (s : State) : State :=
  let c := getCore s core
  if stepped && decide (c.nextPos ≠ pos0 ∨ c.chalted = true) then setCore s core { c with dbgStep := false, dbgCause := 4 } else s

/-- The buffer bytes that the checks and the S slot of some slots read: X descriptors and the signal descriptor (R31, R228). -/
def slotReads (c : Core) (e : Slots) : List (Nat × Nat) :=
  (xDesc c e.x).toList ++ (match e.s with | .ssig areg off => [((resolve c areg off).toNat, 32)] | _ => [])

/-- The buffer bytes that a bundle reads as it issues. -/
def bundleReads (c : Core) (b : Bundle) : List (Nat × Nat) :=
  match decodeSlots b.bits.toNat with
  | none => []
  | some sl => slotReads c (effSlots c.p sl)

/-- BUNDLE_ISSUE on a core; a buffer word that a descriptor lies in may be bad (R251). -/
def bundleIssueCore (s0 : State) (core : Nat) : State :=
  let c0 := getCore s0 core
  let s := if coreRuns s0 c0 then
      meet s0 core (bufAmong ((s0.seq.log.find? (fun b => b.pos = c0.nextPos)).toList.flatMap (bundleReads c0))) else s0
  let c := getCore s core
  if !coreRuns s c then s
  else
    match s.seq.log.find? (fun b => b.pos = c.nextPos) with
    | none => waitAt s core 1 0
    | some b =>
      match (if c.dbgStep then none else bpHit s core b.idx) with
      | some k => dbgHaltCore s core 2 k 0 0
      | none => endStep core c.dbgStep c.nextPos (tryBundle s core b)

/-! ### One slot on its own (log entry 7) -/

/-- The bundle that stands for a slot command: it stands just before the core's next bundle and takes no position of the stream. -/
def soloBundle (c : Core) (ctx : SeqCtx) : Bundle := ⟨c.nextPos, c.nextIdx, false, 0, ctx⟩

/-- The operations of a unit run and complete as long as one can. -/
def settleUnit (core : Nat) : Nat → State → State
  | 0, s => s
  | f + 1, s =>
    let c := getCore s core
    match c.flight.find? (fun o => canComplete c o) with
    | some o => settleUnit core f (completeOp s core o)
    | none =>
      match c.flight.find? (fun o => isMmul o && !o.started) with
      | some o => if passReady c o then settleUnit core f (runPass s core o .clean) else
          (match oldestChain c with
           | some k => if (chainMembers c k).all (fun x => x.started) then settleUnit core f (commitChain s core k) else s
           | none => s)
      | none =>
        match oldestChain c with
        | some k => settleUnit core f (commitChain s core k)
        | none => s

/-- A slot command: its slot as a bundle of its own that drains, checked and issued by R39; the operations then run to their end
(log entry 7). A core that is faulted, a static form that fails and a wait leave what those steps leave. -/
def soloSlot (s0 : State) (core : Nat) (sl : Slots) : State :=
  let c0 := getCore s0 core
  if !coreRuns s0 c0 then s0
  else if operandBad sl then coreFault s0 core c0.nextIdx cBundleOperand
  else if uniformBad sl then coreFault s0 core c0.nextIdx cBundleUniform
  else
    let s := meet s0 core (bufAmong (slotReads c0 (effSlots c0.p sl)))
    let c := getCore s core
    let b := soloBundle c s.seq.ctx
    let e := effSlots c.p sl
    match step2 s core c b c.nextPos c.nextIdx e with
    | some f => f
    | none => settleUnit core 64 (steps3to6 s core b c.nextPos c.nextIdx e false)

end Sys2Proof.Machine
end

