-- ==== Sys2Proof/Machine/Sequencer.lean ====
section
/-! DEFINITION. The chip sequencer (02 R44 to R62, 13 R407 to R412): fetch, variants, streamed loops, multicast, the sequence table. -/

namespace Sys2Proof.Machine

/-- TRN_ registers (R423). -/
def aTrn : Nat := 0x3F0000B00000
def aTrnSeqStatus : Nat := aTrn + 0x08
def aTrnMb : Nat := aTrn + 0x10
def aTrnTokens : Nat := aTrn + 0x18
def aTrnImb : Nat := aTrn + 0x20
def aTrnSnapBase : Nat := aTrn + 0x28
def aTrnSnapCfg : Nat := aTrn + 0x30
def aTrnSnapStep : Nat := aTrn + 0x40
def aTrnSnapStatus : Nat := aTrn + 0x48

/-- Codes of R422. -/
def cTrnSeqForm : Word16 := 0x8001
def cTrnClass : Word16 := 0x8002
def cImbalance : Word16 := 0x8003
def cSnapDone : Word16 := 0x8004
def cSnapTorn : Word16 := 0x8005
def cSnapFailed : Word16 := 0x8006

/-- A fault of the sequencer at an image index: fetch stops (R45, R71). -/
def seqStop (s : State) (idx : Nat) (code : Word16) (payload : Nat) : State :=
  let s1 := { s with seq := { s.seq with stop := true, poll := false } }
  jobFatal s1 noCore idx code srcSeq payload

/-- A read by the sequencer that the window table refuses: WIN_REFUSED and SEQ_FETCH (R45, R313). -/
def seqRefused (s : State) (a idx place : Nat) : State :=
  seqStop (refuseAccess s srcSeq (globalOf s a) place 2 false) idx cSeqFetch (openPay cSeqFetch srcSeq)

/-- A poisoned table read by the sequencer (R433). -/
def seqPoison (s : State) (a idx : Nat) : State :=
  let s1 := { s with seq := { s.seq with stop := true, poll := false } }
  poisonConsumed s1 noCore idx srcSeq (a / 64 * 64) 8

/-- The lines of a table are asked for, once: `step` is what `Seq.tab` then holds. A reading meets the errors of their words (R260). -/
def tabAsk (s0 : State) (a n step : Nat) : State :=
  if (memCheck s0 a n false false).isSome || spanDown s0 a n then s0
  else
    let s := meetSpans s0 [(a, n)]
    if s.seq.tab ≥ step then s else { touchRead s a n 0 with seq := { (touchRead s a n 0).seq with tab := step } }

/-- Whether a line of a table has still to come from its controller. -/
def tabWaits (s : State) (a n : Nat) : Bool := placeOf a == .gddr && (linesOf a n).any (mcPending s)

/-- A checked read of lines that have come: the faulted state, or the bytes. A port that is down gives SEQ_FETCH (log entry 23). -/
def seqRead (s : State) (a n idx : Nat) : Except State (List Byte) :=
  match memCheck s a n false false with
  | some w => .error (seqRefused s a idx w)
  | none =>
    if spanDown s a n then .error (seqStop s idx cSeqFetch (openPay cSeqFetch srcSeq))
    else
      match firstPoison s a n with
      | some l => .error (seqPoison s (l * 64) idx)
      | none => .ok (memBytes s a n)

/-! ### Fetch -/

/-- Address of image index `i` (R44). -/
def imgAddr (s : State) (i : Nat) : Nat := regF s aSeqImgBase 45 6 * 64 + i * 64

/-- The sequencer's place after a bundle whose next index is `n`. -/
def seqGo (s : State) (ctx : SeqCtx) (n : Nat) : State :=
  { s with seq := { s.seq with ctx := { ctx with loops := (streamTo ctx n).1 }, fetchIdx := (streamTo ctx n).2 } }

/-- A fetched bundle enters the queue and takes the next position (R47). -/
def seqEnqueue (s : State) (b : Bundle) : State :=
  { s with seq := { s.seq with fetchQ := s.seq.fetchQ ++ [b], fetchPos := s.seq.fetchPos + 1, miss := false, tab := 0 } }

/-- Whether a loop body that ends at `e` crosses the innermost streamed loop or the active variant (R54, R62). -/
def streamLeaves (ctx : SeqCtx) (e : Nat) : Bool :=
  (match openLoops ctx with | l :: _ => decide (e > l.startIdx + l.bodyLen) | [] => false)
  || (match ctx.variant with | some v => decide (e > v.startIdx + v.len) | none => false)

/-- The variant table entry that a CVAR of mode 0 or 1 reads (R59). -/
def vtabAddr (s : State) (ctx : SeqCtx) (mode : BitVec 2) (index : BitVec 6) : Nat :=
  regF s aSeqVtab 45 6 * 64 + 16 * (if mode = 0 then ctx.vclass else index.toNat)

/-- The entry that an operation of the sequencer is going to read. -/
def actReads (s : State) (c : COp) : Option Nat :=
  match c with
  | .cvar mode index => if mode = 2 ∨ mode = 3 ∨ s.seq.ctx.variant.isSome then none else some (vtabAddr s s.seq.ctx mode index)
  | _ => none

/-- CVAR at fetch (R58, R59, R62). DESIGN CHOICE (log entry 120): a return inside a streamed loop that was opened in the variant is no fault;
the loop stays on the sequencer's stack. -/
def seqCvar (s : State) (idx : Nat) (mode : BitVec 2) (index : BitVec 6) : State :=
  let ctx := s.seq.ctx
  if mode = 3 then seqGo s ctx (idx + 1)
  else if mode = 2 then
    match ctx.variant with
    | none => seqStop s idx cCtrlForm (openPay cCtrlForm srcSeq)
    | some v => seqGo s { ctx with variant := none } v.retIdx
  else
    match ctx.variant with
    | some _ => seqStop s idx cCtrlForm (openPay cCtrlForm srcSeq)
    | none =>
      match seqRead s (vtabAddr s ctx mode index) 16 idx with
      | .error f => f
      | .ok bs =>
        if fieldAt bs 8 1 ≠ 1 ∨ fieldAt bs 9 7 ≠ 0 then seqStop s idx cVariantMissing (openPay cVariantMissing srcSeq)
        else
          { s with seq := { s.seq with
              ctx := { ctx with variant := some ⟨idx + 1, fieldAt bs 0 4, fieldAt bs 4 4, ctx.loops.length⟩ }
              fetchIdx := fieldAt bs 0 4 } }

/-- The class that the kind 2 log keeps for a position (R69). -/
def loggedClass (s : State) (pos : Nat) : Option Nat := (s.seq.walk.find? (fun p => p.1 = pos)).map Prod.snd

/-- A CMARK of kind 2 at fetch (R61, R69, R409): a logged one takes its class, another advances the micro-batch and starts the
poll. -/
def seqMark2 (s : State) (pos idx : Nat) : State :=
  let s1 := seqGo s s.seq.ctx (idx + 1)
  match loggedClass s pos with
  | some k =>
    { s1 with seq := { s1.seq with walk := s1.seq.walk.filter (fun p => decide (pos < p.1)), kind2 := s1.seq.kind2 ++ [(pos, k)]
                                   ctx := { s1.seq.ctx with vclass := k } } }
  | none =>
    setReg { s1 with seq := { s1.seq with poll := true, pollPos := some pos } } aTrnMb (reg s1 aTrnMb + 1)

/-- What the sequencer does with a bundle that it has checked: the C slot's sequencer-level operations (R53, R59, R61, R66). -/
def seqAct (s : State) (pos idx : Nat) (c : COp) : State :=
  let ctx := s.seq.ctx
  match c with
  | .cloop _ _ count1 body1 =>
    if cStreamed c then
      let body := body1.toNat + 1
      if ctx.loops.length ≥ 4 ∨ streamLeaves ctx (idx + 1 + body) = true then seqStop s idx cCtrlForm (openPay cCtrlForm srcSeq)
      else seqGo s { ctx with loops := ⟨idx + 1, body, count1.toNat + 1, true, 0⟩ :: ctx.loops } (idx + 1)
    else seqGo s ctx (idx + 1)
  | .cvar mode index => seqCvar s idx mode index
  | .cmark kind _ => if kind = 2 then seqMark2 s pos idx else seqGo s ctx (idx + 1)
  | .chalt status => { seqGo s ctx (idx + 1) with seq := { (seqGo s ctx (idx + 1)).seq with stop := true, exit := status } }
  | _ => seqGo s ctx (idx + 1)

/-- Whether the sequencer fetches at all. -/
def seqFetches (s : State) : Bool :=
  s.seq.st == .running && !s.seq.stop && !s.seq.poll && s.job.device.isNone && decide (s.seq.fetchQ.length < 256)

/-- A bundle whose line is at hand (R44 to R47, R61). -/
def seqTake (s : State) (a idx : Nat) : State :=
  let pos := s.seq.fetchPos
  let bits := bundleOfBytes (memBytes s a 64)
  let b : Bundle := ⟨pos, idx, memPoisoned s a 64, bits, s.seq.ctx⟩
  let w := bits.toNat
  if b.poison then seqGo (seqEnqueue s b) s.seq.ctx (idx + 1)
  else if bIdx12 w ≠ idx % 4096 then seqStop s idx cSeqFetch (openPay cSeqFetch srcSeq)
  else
    match decC (bC w) with
    | none => seqGo (seqEnqueue s b) s.seq.ctx (idx + 1)
    | some c =>
      let mark := match c with | .cmark k _ => k == 2 | _ => false
      if mark && (loggedClass s pos).isNone && decide (s.seq.kind2.length ≥ 8) then { s with seq := { s.seq with miss := true } }
      else
        match actReads s c with
        | none => seqAct (seqEnqueue s b) pos idx c
        | some ta =>
          let t := tabAsk s ta 16 1
          if tabWaits t ta 16 then { t with seq := { t.seq with miss := true } } else seqAct (seqEnqueue t b) pos idx c

/-- Whether a core waits for the bundle at the next fetch position: all before it are multicast and a core has come to it. -/
def fetchDemand (s : State) : Bool :=
  s.seq.fetchQ.isEmpty && (List.range (nCores s)).any (fun i => decide (s.seq.fetchPos ≤ (getCore s i).nextPos))

/-- BUNDLE_FETCH (R44 to R47); a no-prefetch granule is fetched on demand only (R298); the line's word in its Hive slice may be bad (R260). -/
def doFetch (s0 : State) : State :=
  if !seqFetches s0 then s0
  else
    let idx := s0.seq.fetchIdx
    let a := imgAddr s0 idx
    let s := meetSpans s0 [(a, 64)]
    if (match s.seq.ctx.variant with | some v => decide (idx = v.startIdx + v.len) | none => false) then seqStop s idx cCtrlForm (openPay cCtrlForm srcSeq)
    else if idx ≥ regF s aSeqImgLen 31 0 then seqStop s idx cSeqFetch (openPay cSeqFetch srcSeq)
    else
      match memCheck s a 64 false false with
      | some w => seqRefused s a idx w
      | none =>
        if spanDown s a 64 then seqStop s idx cSeqFetch (openPay cSeqFetch srcSeq)
        else if wtNopf s a && !fetchDemand s then s0
        else if s.seq.miss then (if mcPending s (a / 64) then s else seqTake s a idx)
        else
          let s1 := touchRead s a 64 0
          if mcPending s1 (a / 64) then { s1 with seq := { s1.seq with miss := true } } else seqTake s1 a idx

/-! ### Multicast -/

/-- The bundle arrives at the cores: a breach of R56 in a range that a core has skipped. -/
def arriveGo (b : Bundle) : List Nat → State → State
  | [], s => s
  | i :: is, s =>
    let c := getCore s i
    let hit := c.skips.find? (fun r => decide (r.1 ≤ b.pos) && decide (b.pos < r.2))
    let s1 := match hit with
      | some r => if skipBreach r.2 b && s.seq.st == .running then coreFault s i b.idx cCtrlForm else s
      | none => s
    arriveGo b is s1

/-- Whether multicast may go on (R49, R608, R611). -/
def multicastOk (s : State) : Bool :=
  s.seq.st == .running && s.job.device.isNone && decide (s.seq.nextPos < rMin s + 1024)
  && (!s.dbg.chip || s.cores.any (fun p => p.2.dbgStep && decide (p.2.nextPos = s.seq.nextPos)))

/-- BUNDLE_MULTICAST (R47, R49). -/
def doMulticast (s : State) : State :=
  if !multicastOk s then s
  else
    match s.seq.fetchQ with
    | [] => s
    | b :: q =>
      let s1 := { s with seq := { s.seq with fetchQ := q, log := s.seq.log ++ [b], nextPos := b.pos + 1 } }
      trimLog (arriveGo b ((s1.cores.filter (fun p => !p.2.skips.isEmpty)).map Prod.fst) s1)

/-! ### The sequence table (R407 to R412) -/

/-- Header breach (R408). -/
def seqHdrBad (t : List Byte) : Bool := fieldAt t 4 4 != 0 || (slice t 16 48).any (fun b => b != 0)

/-- Entry `k` of a table. -/
def seqEnt (t : List Byte) (k : Nat) : List Byte := slice t (0x40 + k * 32) 32
def entValid (e : List Byte) : Bool := bitOf (fieldAt e 22 1) 0
def entSecond (e : List Byte) : Bool := bitOf (fieldAt e 22 1) 1
def entLen (e : List Byte) : Nat := fieldAt e 4 4
def entRound (e : List Byte) : Nat := fieldAt e 16 2
def entTokens (e : List Byte) : Nat := fieldAt e 12 4 + (if entSecond e then fieldAt e 28 4 else 0)

/-- A breach of an entry on its own (R407, R408). Ranges are those of a valid entry. -/
def seqEntBad (e : List Byte) : Bool :=
  fieldAt e 4 4 / 2 ^ 25 != 0 || fieldAt e 8 4 / 2 ^ 24 != 0 || bitsOf (fieldAt e 22 1) 7 2 != 0 || fieldAt e 23 1 != 0
  || fieldAt e 24 4 / 2 ^ 24 != 0
  || (entValid e &&
      (let l := entLen e
       decide (l < 1) || decide (l > 16777216) || decide (fieldAt e 12 4 < 1) || decide (fieldAt e 8 4 + fieldAt e 12 4 > l)
       || (entSecond e && decide (fieldAt e 28 4 ≥ 1) && decide (fieldAt e 24 4 + fieldAt e 28 4 > l))
       || decide (fieldAt e 18 2 < 1) || decide (fieldAt e 18 2 > 4096) || decide (fieldAt e 20 2 ≥ fieldAt e 18 2)))

/-- Whether entry `k` is longer than an earlier valid entry of its round (R408). -/
def seqEntOrder (t : List Byte) (k : Nat) : Bool :=
  let e := seqEnt t k
  entValid e && (List.range k).any (fun j => let f := seqEnt t j; entValid f && entRound f == entRound e && decide (entLen f < entLen e))

/-- Class bound `c`. -/
def seqBound (t : List Byte) (c : Nat) : Nat := fieldAt t (0x840 + 4 * c) 4
def boundValid (b : Nat) : Bool := bitOf b 31
def boundVal (b : Nat) : Nat := b % 2 ^ 31

/-- Whether class bound `c` does not rise above an earlier valid one (R408). -/
def seqBoundBad (t : List Byte) (c : Nat) : Bool :=
  boundValid (seqBound t c) &&
  (List.range c).any (fun j => boundValid (seqBound t j) && decide (boundVal (seqBound t j) ≥ boundVal (seqBound t c)))

/-- The first breach as TRN_SEQ_FORM's payload names it (R408, R422). -/
def seqFormBreach (t : List Byte) : Option Nat :=
  if seqHdrBad t then some 0xFFFF
  else
    ((List.range 64).find? (fun k => seqEntBad (seqEnt t k) || seqEntOrder t k)).orElse
      (fun _ => ((List.range 64).find? (seqBoundBad t)).map (fun c => 64 + c))

/-- T of a table (R409). -/
def seqTokens (t : List Byte) : Nat :=
  (((List.range 64).map (seqEnt t)).filter (fun e => entValid e && entRound e == fieldAt t 0 2)).foldl (fun n e => n + entTokens e) 0

/-- The class of a token count (R412). -/
def seqClass (t : List Byte) (n : Nat) : Option Nat :=
  (List.range 64).find? (fun c => boundValid (seqBound t c) && decide (boundVal (seqBound t c) ≥ n))

/-- Bytes of the sequence table. -/
def seqTableLen : Nat := 0x840 + 256

/-- The poll that finds its round: check, tokens, class (R408, R409, R412). -/
def seqTableTake (s : State) (t : List Byte) (idx : Nat) : State :=
  match seqFormBreach t with
  | some p => seqStop s idx cTrnSeqForm p
  | none =>
    let n := seqTokens t
    match seqClass t n with
    | none => seqStop s idx cTrnClass n
    | some c =>
      let s1 := setReg s aTrnTokens (reg s aTrnTokens + BitVec.ofNat 64 n)
      let s2 := setReg s1 aTrnSeqStatus (BitVec.ofNat 64 (c + n % 2 ^ 32 * 64))
      { s2 with seq := { s2.seq with
          poll := false, pollPos := none, hdr := t.take 64
          ctx := { s2.seq.ctx with vclass := c }
          kind2 := match s2.seq.pollPos with | some p => s2.seq.kind2 ++ [(p, c)] | none => s2.seq.kind2 } }

/-- A poll that ends lets the cores that wait for the stream go on, so the module is not quiet at that instant (R239, R240). -/
def pollEnds (s : State) : State := if s.cores.any (fun p => p.2.wait == 1) then detBreak s else s

/-- SEQ_TABLE_POLL (R409, R45): the header, and the table once the header names the round; each waits for its lines. -/
def doTablePoll (s : State) : State :=
  if s.seq.st ≠ .running ∨ s.seq.poll = false ∨ s.job.device.isSome = true then s
  else
    let a := regF s aTrn 45 12 * 4096
    let idx := s.seq.fetchIdx
    let ended (t : State) : State := { t with seq := { t.seq with tab := 0 } }
    let s1 := tabAsk s a 64 1
    if tabWaits s1 a 64 then s1
    else
      match seqRead s1 a 64 idx with
      | .error f => ended f
      | .ok h =>
        if fieldAt h 0 2 ≠ (reg s aTrnMb).toNat % 65536 then ended s1
        else
          let s2 := tabAsk s1 a seqTableLen 2
          if tabWaits s2 a seqTableLen then s2
          else
            match seqRead s2 a seqTableLen idx with
            | .error f => ended f
            | .ok t => pollEnds (ended (seqTableTake s2 t idx))

/-! ### The commands -/

/-- BUNDLE_FETCH. -/
def execBundleFetch (s : State) : Host.Outcome State Fault Refusal := .next (doFetch s)

/-- BUNDLE_MULTICAST. -/
def execBundleMulticast (s : State) : Host.Outcome State Fault Refusal := .next (doMulticast s)

/-- Refuse a core that the part does not have (R2, R76). -/
def onCore (s : State) (core : Nat) (t : State) : Host.Outcome State Fault Refusal :=
  if coreOk s core then .next t else .refused .noSuchUnit

/-- BUNDLE_ISSUE. -/
def execBundleIssue (core : Nat) (s : State) : Host.Outcome State Fault Refusal := onCore s core (bundleIssueCore s core)

/-- SEQ_TABLE_POLL. -/
def execSeqTablePoll (s : State) : Host.Outcome State Fault Refusal := .next (doTablePoll s)

end Sys2Proof.Machine
end

