-- ==== Sys2Proof/Machine/SlotCmds.lean ====
section
/-! DEFINITION. The commands of the M, V, T, S and C slots, each as a slot on its own (log entry 7), and the steps of the array and of
the units: a pass, the commit of a chain, the commit of an operation. -/

namespace Sys2Proof.Machine

/-- Out: the outcome of a command. -/
abbrev Out := Host.Outcome State Fault Refusal

/-! ### M slot (R27, 04) -/

/-- MLD. -/
def execMld (core : Nat) (h : Hdr) (tile : BitVec 5) (tag : BitVec 4) (turn : Bool) (s : State) : Out :=
  onCore s core (soloSlot s core { m := .mld tile tag turn, mh := h })

/-- MSWAP. -/
def execMswap (core : Nat) (h : Hdr) (s : State) : Out := onCore s core (soloSlot s core { m := .mswap, mh := h })

/-- MMUL. -/
def execMmul (core : Nat) (h : Hdr) (areg : BitVec 4) (off : BitVec 16) (rows1 dest : BitVec 11) (fmt : BitVec 4) (acc : BitVec 3)
    (depth1 cols1 : BitVec 6) (rowscale : Bool) (sareg : BitVec 4) (s : State) : Out :=
  onCore s core (soloSlot s core { m := .mmul false areg off rows1 dest fmt acc depth1 cols1 rowscale sareg, mh := h })

/-- MMULZ: the destination rows start from zero. -/
def execMmulz (core : Nat) (h : Hdr) (areg : BitVec 4) (off : BitVec 16) (rows1 dest : BitVec 11) (fmt : BitVec 4) (acc : BitVec 3)
    (depth1 cols1 : BitVec 6) (rowscale : Bool) (sareg : BitVec 4) (s : State) : Out :=
  onCore s core (soloSlot s core { m := .mmul true areg off rows1 dest fmt acc depth1 cols1 rowscale sareg, mh := h })

/-- MDRAIN. -/
def execMdrain (core : Nat) (h : Hdr) (first rows1 : BitVec 11) (tile : BitVec 5) (tag : BitVec 4) (mode : BitVec 3) (rnd : BitVec 2)
    (areg : BitVec 4) (off : BitVec 16) (kind : BitVec 2) (s : State) : Out :=
  onCore s core (soloSlot s core { m := .mdrain first rows1 tile tag mode rnd areg off kind, mh := h })

/-- MTOPK. -/
def execMtopk (core : Nat) (h : Hdr) (first rows1 : BitVec 11) (vtile : BitVec 5) (vtag : BitVec 4) (ptile : BitVec 5)
    (ptag : BitVec 4) (k1 : BitVec 4) (base : BitVec 24) (kind : BitVec 2) (s : State) : Out :=
  onCore s core (soloSlot s core { m := .mtopk first rows1 vtile vtag ptile ptag k1 base kind, mh := h })

/-- The next pass of a core runs when it may (R99, R120). -/
def passStart (s : State) (core : Nat) (o : ArrayOutcome) : State :=
  let c := getCore s core
  match c.flight.find? (fun x => isMmul x && !x.started) with
  | some x => if passReady c x then runPass s core x o else s
  | none => s

/-- PASS_START. -/
def execPassStart (core : Nat) (o : ArrayOutcome) (s : State) : Out := onCore s core (passStart s core o)

/-- The oldest chain commits when all its passes have run (R100). -/
def chainCommit (s : State) (core : Nat) : State :=
  let c := getCore s core
  match oldestChain c with
  | some k => if (chainMembers c k).all (fun x => x.started) then commitChain s core k else s
  | none => s

/-- CHAIN_COMMIT. -/
def execChainCommit (core : Nat) (s : State) : Out := onCore s core (chainCommit s core)

/-- The oldest operation of a unit that can complete does so (R92). -/
def operationCommit (s : State) (core : Nat) (u : Unit3) : State :=
  match nextDone (getCore s core) u with
  | some o => completeOp s core o
  | none => s

/-- OPERATION_COMMIT. -/
def execOperationCommit (core : Nat) (u : Unit3) (s : State) : Out := onCore s core (operationCommit s core u)

/-! ### V slot (R28, 07) -/

/-- VOP. -/
def execVop (core : Nat) (h : Hdr) (v : VArgs) (s : State) : Out := onCore s core (soloSlot s core { vop := .vop, v := v, vh := h })
/-- VCVT. -/
def execVcvt (core : Nat) (h : Hdr) (v : VArgs) (s : State) : Out := onCore s core (soloSlot s core { vop := .vcvt, v := v, vh := h })
/-- VRED. -/
def execVred (core : Nat) (h : Hdr) (v : VArgs) (s : State) : Out := onCore s core (soloSlot s core { vop := .vred, v := v, vh := h })
/-- VSCALE. -/
def execVscale (core : Nat) (h : Hdr) (v : VArgs) (s : State) : Out := onCore s core (soloSlot s core { vop := .vscale, v := v, vh := h })
/-- VRQ. -/
def execVrq (core : Nat) (h : Hdr) (v : VArgs) (s : State) : Out := onCore s core (soloSlot s core { vop := .vrq, v := v, vh := h })
/-- VFN. -/
def execVfn (core : Nat) (h : Hdr) (v : VArgs) (s : State) : Out := onCore s core (soloSlot s core { vop := .vfn, v := v, vh := h })
/-- VSR KEY: fn 0x00. -/
def execVsrKey (core : Nat) (h : Hdr) (v : VArgs) (s : State) : Out :=
  onCore s core (soloSlot s core { vop := .vsr, v := { v with fn := 0 }, vh := h })
/-- VSR DRAW: fn 0x01. -/
def execVsrDraw (core : Nat) (h : Hdr) (v : VArgs) (s : State) : Out :=
  onCore s core (soloSlot s core { vop := .vsr, v := { v with fn := 1 }, vh := h })
/-- VADAM. -/
def execVadam (core : Nat) (h : Hdr) (v : VArgs) (s : State) : Out := onCore s core (soloSlot s core { vop := .vadam, v := v, vh := h })

/-! ### T slot (R30, 03) -/

/-- TCFG. -/
def execTcfg (core : Nat) (h : Hdr) (tile : BitVec 5) (tag : BitVec 4) (rows1 : BitVec 6) (elems1 : BitVec 10) (fmt : BitVec 4)
    (s : State) : Out := onCore s core (soloSlot s core { t := .tcfg tile tag rows1 elems1 fmt, th := h })
/-- TLD. -/
def execTld (core : Nat) (h : Hdr) (tile : BitVec 5) (tag areg : BitVec 4) (off : BitVec 16) (pitch : BitVec 12) (s : State) : Out :=
  onCore s core (soloSlot s core { t := .tld tile tag areg off pitch, th := h })
/-- TST. -/
def execTst (core : Nat) (h : Hdr) (tile : BitVec 5) (tag areg : BitVec 4) (off : BitVec 16) (pitch : BitVec 12) (s : State) : Out :=
  onCore s core (soloSlot s core { t := .tst tile tag areg off pitch, th := h })
/-- TMOV. -/
def execTmov (core : Nat) (h : Hdr) (dst : BitVec 5) (dtag : BitVec 4) (src : BitVec 5) (stag : BitVec 4) (s : State) : Out :=
  onCore s core (soloSlot s core { t := .tmov dst dtag src stag, th := h })
/-- TZERO. -/
def execTzero (core : Nat) (h : Hdr) (tile : BitVec 5) (tag : BitVec 4) (s : State) : Out :=
  onCore s core (soloSlot s core { t := .tzero tile tag, th := h })
/-- TXP. -/
def execTxp (core : Nat) (h : Hdr) (dst : BitVec 5) (dtag : BitVec 4) (src : BitVec 5) (stag : BitVec 4) (s : State) : Out :=
  onCore s core (soloSlot s core { t := .txp dst dtag src stag, th := h })

/-! ### X slot (R31, R32) -/

/-- XLOC. -/
def execXloc (core : Nat) (h : Hdr) (areg : BitVec 4) (off : BitVec 16) (s : State) : Out :=
  onCore s core (soloSlot s core { x := .xloc areg off, xh := h })
/-- XSTR. -/
def execXstr (core : Nat) (h : Hdr) (areg : BitVec 4) (off : BitVec 16) (ctx : BitVec 14) (s : State) : Out :=
  onCore s core (soloSlot s core { x := .xstr areg off ctx, xh := h })
/-- XCOL. -/
def execXcol (core : Nat) (h : Hdr) (areg : BitVec 4) (off : BitVec 16) (ctx : BitVec 14) (s : State) : Out :=
  onCore s core (soloSlot s core { x := .xcol areg off ctx, xh := h })
/-- XWATCH arm: the descriptor's operation says which of the two it is. -/
def execXwatchArm (core : Nat) (h : Hdr) (areg : BitVec 4) (off : BitVec 16) (s : State) : Out :=
  onCore s core (soloSlot s core { x := .xwatch areg off, xh := h })
/-- XWATCH release: the descriptor's operation says which of the two it is. -/
def execXwatchRelease (core : Nat) (h : Hdr) (areg : BitVec 4) (off : BitVec 16) (s : State) : Out :=
  onCore s core (soloSlot s core { x := .xwatch areg off, xh := h })
/-- XFENCE. -/
def execXfence (core : Nat) (h : Hdr) (wloc wstr wback inval : Bool) (s : State) : Out :=
  onCore s core (soloSlot s core { x := .xfence wloc wstr wback inval, xh := h })

/-- Whether the copies and engine operations that a fence waits for have completed (R32). -/
def fenceOpen (s : State) (core : Nat) (c : Core) (f : Fence) : Bool :=
  (!f.bits.getLsbD 3 || c.lcu.isEmpty)
  && (!f.bits.getLsbD 2 || !s.ce.any (fun p => p.2.ops.any (fun o => decide (o.core = core) && !o.completed && takesSlot o)))

/-- A pending XFENCE acts and completes (R32, R255). -/
def fenceEnd (s : State) (core : Nat) : State :=
  let c := getCore s core
  match c.fence with
  | none => s
  | some f =>
    if !fenceOpen s core c f then s
    else
      let s1 := if f.bits.getLsbD 1 then l1BackAll core c.l1 s else s
      let s2 := if f.bits.getLsbD 0 then l1Keep s1 core (fun l => l.dirty) else s1
      doneAdvance (modCore s2 core (fun c => { c with fence := none })) core f.done

/-- XFENCE_COMPLETE. -/
def execXfenceComplete (core : Nat) (s : State) : Out := onCore s core (fenceEnd s core)

/-! ### S slot (R33, 08) -/

/-- SINC. -/
def execSinc (core : Nat) (pred : BitVec 4) (ctr : BitVec 6) (n : BitVec 16) (s : State) : Out :=
  onCore s core (soloSlot s core { s := .sinc ctr n, sp := pred })
/-- SWAIT. -/
def execSwait (core : Nat) (pred : BitVec 4) (ctr : BitVec 6) (n : BitVec 16) (s : State) : Out :=
  onCore s core (soloSlot s core { s := .swait ctr n, sp := pred })
/-- SDEC. -/
def execSdec (core : Nat) (pred : BitVec 4) (ctr : BitVec 6) (n : BitVec 16) (s : State) : Out :=
  onCore s core (soloSlot s core { s := .sdec ctr n, sp := pred })
/-- SSIG. -/
def execSsig (core : Nat) (pred areg : BitVec 4) (off : BitVec 16) (s : State) : Out :=
  onCore s core (soloSlot s core { s := .ssig areg off, sp := pred })
/-- SBAR. -/
def execSbar (core : Nat) (pred : BitVec 4) (g : BitVec 9) (n : BitVec 16) (s : State) : Out :=
  onCore s core (soloSlot s core { s := .sbar g n, sp := pred })

/-! ### C slot (R34). What the sequencer does with the operation at fetch comes first, as in a stream -/

/-- The sequencer's part of a C-slot command: the operation as if fetched next. -/
def seqSolo (s : State) (c : COp) : State :=
  if seqFetches s then
    match c with
    | .cloop _ _ _ _ => if cStreamed c then seqAct s s.seq.fetchPos s.seq.fetchIdx c else s
    | .chalt status => { s with seq := { s.seq with stop := true, exit := status } }
    | _ => s
  else s

/-- CLOOP. -/
def execCloop (core : Nat) (pred : BitVec 4) (fromReg : Bool) (areg : BitVec 4) (count1 body1 : BitVec 16) (s : State) : Out :=
  onCore s core (soloSlot (seqSolo s (.cloop fromReg areg count1 body1)) core { c := .cloop fromReg areg count1 body1, cp := pred })
/-- CBR. -/
def execCbr (core : Nat) (pred : BitVec 4) (n : BitVec 10) (s : State) : Out :=
  onCore s core (soloSlot s core { c := .cbr n, cp := pred })
/-- CVAR: executed by the sequencer as it fetches, without effect for a core (R59, R60). -/
def execCvar (mode : BitVec 2) (index : BitVec 6) (s : State) : Out :=
  .next (if seqFetches s then (if mode = 3 then seqStop s s.seq.fetchIdx cBundleOperand (openPay cBundleOperand srcSeq)
                               else seqCvar s s.seq.fetchIdx mode index) else s)
/-- CADD. -/
def execCadd (core : Nat) (pred dst src : BitVec 4) (imm : BitVec 32) (s : State) : Out :=
  onCore s core (soloSlot s core { c := .cadd dst src imm, cp := pred })
/-- CSET: `kind1` selects the comparison into a predicate (R34, R35). -/
def execCset (core : Nat) (pred : BitVec 4) (kind1 : Bool) (areg : BitVec 4) (sub pdst : BitVec 3) (imm : BitVec 32) (s : State) : Out :=
  onCore s core (soloSlot s core { c := if kind1 then .csetPred areg sub pdst imm else .csetReg areg sub imm, cp := pred })
/-- CMARK. A mark of kind 2 is the sequencer's as well (R61). -/
def execCmark (core : Nat) (pred kind : BitVec 4) (value : BitVec 32) (s : State) : Out :=
  onCore s core
    (soloSlot (if kind == 2 && seqFetches s && decide (s.seq.kind2.length < 8) then seqMark2 s s.seq.fetchPos s.seq.fetchIdx else s) core
      { c := .cmark kind value, cp := pred })
/-- CHALT (R66). -/
def execChalt (core : Nat) (status : BitVec 16) (s : State) : Out :=
  onCore s core (soloSlot (seqSolo s (.chalt status)) core { c := .chalt status })

end Sys2Proof.Machine
end

