-- ==== Sys2Proof/Machine/LcuRun.lean ====
section
/-! DEFINITION. The copies of an LCU at work (09 R271 to R282): start, completion, tear and failure, go and abort. -/

namespace Sys2Proof.Machine

/-- COPY_TORN and COPY_FRAGMENT (R284). -/
def cCopyTorn : Word16 := 0x5003
def cCopyFragment : Word16 := 0x5004

/-! ### Which fragments can run -/

/-- The memory runs of one row: address, bytes, write. -/
def rowRuns (d : List Byte) (r : Nat) : List (Nat × Nat × Bool) :=
  (if dSrcKind d = 0 then [(dSrcRef d + r * dSrcPitch d, dSrcPay d, false)] else [])
  ++ (if dDstKind d = 0 then [(dDstRef d + r * dDstPitch d, dDstPay d, true)] else [])
  ++ (if dDstKind d = 0 && dRowscale d then [(dScale d + r, 1, true)] else [])

/-- Whether a run touches a port that is down. -/
def runDown (s : State) (p : Nat × Nat × Bool) : Bool := spanDown s p.1 p.2.1

/-- The refusal of a run by the window table or the address map (R288, R296). -/
def runRefused (s : State) (p : Nat × Nat × Bool) : Option Nat := memCheck s p.1 p.2.1 p.2.2 false

/-- Whether a run can be made. -/
def runOk (s : State) (p : Nat × Nat × Bool) : Bool := !runDown s p && (runRefused s p).isNone

/-- A mask from the fragments that a test picks. -/
def fragMask (d : List Byte) (f : Nat → Bool) : BitVec 64 :=
  BitVec.ofNat 64 (((List.range (fragCount d)).filter f).foldl (fun m g => m + 2 ^ g) 0)

/-- The rows of one fragment (R273). -/
def fragSpan (d : List Byte) (g : Nat) : List Nat :=
  (List.range (min (fragRows d) (dRows d - g * fragRows d))).map (fun i => g * fragRows d + i)

/-- Fragments some run of which fails by itself: a refused run or a port that is down (R274, R309). -/
def fragBad (s : State) (d : List Byte) (g : Nat) : Bool :=
  (fragSpan d g).any (fun r => (rowRuns d r).any (fun p => !runOk s p))

/-- The fragments of a mask that cannot run. -/
def badFrags (s : State) (d : List Byte) (todo : BitVec 64) : BitVec 64 :=
  if (dMemRuns d).all (runOk s) then 0 else fragMask d (fun g => todo.getLsbD g && fragBad s d g)

/-- WIN_REFUSED for the first refused run of each fragment (R274, R313). -/
def refuseFrags (core : Nat) (d : List Byte) : List Nat → State → State
  | [], s => s
  | g :: gs, s =>
    match ((fragSpan d g).flatMap (rowRuns d)).findSome? (fun p => (runRefused s p).map (fun w => (p.1, p.2.2, w))) with
    | some (a, w, place) => refuseFrags core d gs (refuseAccess s (srcCore core) (globalOf s a) place 0 w)
    | none => refuseFrags core d gs s

/-- The fragments of a mask, ascending. -/
def maskList (m : BitVec 64) : List Nat := (List.range 64).filter (fun g => m.getLsbD g)

/-! ### Reading -/

/-- Every source byte of a copy with its poison, row by row, or the skewed region (R262, R266). -/
def srcAll (s : State) (core : Nat) (d : List Byte) : RowBytes :=
  if dSrcLay d = 1 then srcRegion s core d
  else
    let rs := (List.range (dRows d)).map (srcRow s core d)
    ⟨rs.flatMap (fun r => r.bytes), rs.flatMap (fun r => r.bad)⟩

/-- The address of byte `i` of a copy's source as read. -/
def srcByteAddr (d : List Byte) (i : Nat) : Nat :=
  let pay := max 1 (dSrcPay d)
  if dSrcLay d = 1 then dSrcRef d + i else dSrcRef d + i / pay * dSrcPitch d + i % pay

/-- Bytes with their poison flags as one list of bytes. -/
def packSrc (r : RowBytes) : List Byte := r.bytes ++ r.bad.map (fun b => if b then 1 else 0)

/-- The reading kept in a copy. -/
def unpackSrc (l : List Byte) : RowBytes := ⟨l.take (l.length / 2), (l.drop (l.length / 2)).map (fun b => b != 0)⟩

/-- The bytes a copy delivers: those of its rows to move are read between its start and now, each some value the source held
(R279, log entry 18); a row moved in an earlier run keeps what that run read, and an l1 copy what its L1 gave at the start (R255).
Poison seen at either time stays. -/
def srcUsed (s : State) (core : Nat) (q : Copy) (ctr : Nat) (moving : BitVec 64) (settled : Bool) : RowBytes :=
  let d := q.desc
  let old := unpackSrc q.snap
  if settled || dL1 d then old
  else
    let cur := srcAll s core d
    let mid (i : Nat) : List Byte := if q.was.isEmpty then [] else (q.was.filter (fun w => w.1 == srcByteAddr d i)).map Prod.snd
    let mix := (cur.bytes.zipIdx).map (fun p =>
      pickOf ctr p.2 p.1 (((old.bytes.getD p.2 p.1 :: mid p.2).filter (fun x => x != p.1)).dedup))
    let bad := (old.bad.zip cur.bad).map (fun p => p.1 || p.2)
    if dSrcLay d = 1 then ⟨mix, bad⟩
    else
      let pay := max 1 (dSrcPay d)
      let live (i : Nat) : Bool := moving.getLsbD (i / pay / fragRows d)
      ⟨(mix.zipIdx).map (fun p => if live p.2 then p.1 else old.bytes.getD p.2 0),
       (bad.zipIdx).map (fun p => if live p.2 then p.1 else old.bad.getD p.2 false)⟩

/-- The values of row r. -/
def usedVals (d : List Byte) (u : RowBytes) (r : Nat) : RowVals :=
  if dSrcLay d = 1 then skewVals d u r
  else plainVals d ⟨slice u.bytes (r * dSrcPay d) (dSrcPay d), (u.bad.drop (r * dSrcPay d)).take (dSrcPay d)⟩

/-- The codes of destination row r (R268 to R270). -/
def copyCodes (s : State) (core : Nat) (q : Copy) (u : RowBytes) (r : Nat) : RowCodes :=
  let d := q.desc
  let v := usedVals d u r
  let ws := dWords s q.mstep.toNat (dTid d) (dMintBase d) (dMintPitch d) (dRnd d) r (dElems d)
  if dRowscale d then convScaled (dDstFmt d) (dRnd d) (swin s core) v ws
  else convRow (dDstFmt d) (dRnd d) (dDstKind d == 3) v ws

/-! ### Writing (R253, R265, R269) -/

/-- The pieces of plain rows of a memory or buffer end, with the row scale bytes. -/
def plainPieces (d : List Byte) (rows : List (Nat × RowCodes)) : List (Nat × List Byte × Bool) :=
  rows.flatMap (fun p =>
    rowPieces (dDstRef d + p.1 * dDstPitch d) (codesBytes (dDstFmt d) false (dElems d) p.2))

/-- The row scale bytes (R269). -/
def scalePieces (d : List Byte) (rows : List (Nat × RowCodes)) : List (Nat × List Byte × Bool) :=
  rows.filterMap (fun p => p.2.rscale.map (fun x => (dScale d + p.1, [BitVec.ofNat 8 x], p.2.bad.any id)))

/-- All pieces of rows for a memory or buffer destination. -/
def dstPieces (s : State) (core : Nat) (d : List Byte) (rows : List (Nat × RowCodes)) : List (Nat × List Byte × Bool) :=
  (if dDstLay d = 1 then
     (skewPieces d (bufRead (getCore s core) (dDstRef d) (endExtent d false)) rows).map (fun p => (dDstRef d + p.1, p.2))
   else plainPieces d rows) ++ scalePieces d rows

/-- Put pieces where the destination kind says, `before` the clean bytes that the copy has written already. -/
def putDst (s : State) (core : Nat) (d : List Byte) (before : List (Nat × Nat)) (ps : List (Nat × List Byte × Bool)) : State :=
  if dDstKind d = 0 then lcuMemPieces core (dHint d) (dL1 d) before ps s else lcuBufPieces core before ps s

/-- Pieces a copy has written, kept with it (R432). -/
def covered (s : State) (core ord : Nat) (ps : List (Nat × List Byte × Bool)) : State :=
  modCore s core (fun c => { c with lcu := c.lcu.map (fun q => if q.ord = ord then { q with cover := q.cover ++ cleanRuns ps } else q) })

/-- Pieces that the window table and the ports let through. -/
def okPieces (s : State) (d : List Byte) (ps : List (Nat × List Byte × Bool)) : List (Nat × List Byte × Bool) :=
  if dDstKind d = 0 then ps.filter (fun p => runOk s (p.1, p.2.1.length, true)) else ps

/-- Bytes of one accumulator row of a copy. -/
def accBytes (d : List Byte) (rc : RowCodes) : RowBytes :=
  if dDstKind d = 4 then ⟨rc.codes.flatMap (fun x => leBytes 16 x), rc.bad⟩ else codesBytes 0 true 64 rc

/-- The commit of accumulator rows (R252, R253); a row that receives a poisoned byte is poisoned (R432). -/
def putAcc (d : List Byte) : List (Nat × RowCodes × Bool) → Core → Core
  | [], c => c
  | (r, rc, lost) :: l, c =>
    let b := accBytes d rc
    if dDstKind d = 4 then
      let j := 4 * (dDstRef d + r)
      putAcc d l ((List.range 4).foldl (fun c i => accPut c (j + i) (slice b.bytes (256 * i) 256)
        (lost || ((rc.bad.drop (16 * i)).take 16).any id)) c)
    else putAcc d l (accPut c (dDstRef d + r) b.bytes (lost || rc.bad.any id))

/-- The commit of tile rows from the first tile row on. -/
def putTile (c : Core) (d : List Byte) (rows : List (Nat × RowCodes)) : Core :=
  let t := dDstRef d % 32
  let sh := shapeOf c t
  let st := rowStride sh.fmt sh.elems
  let m := rows.foldl (fun m p =>
    memWrites m (t * tileBytes + (bitsOf (dDstRef d) 21 16 + p.1) * st) (codesBytes (dDstFmt d) false (dElems d) p.2).bytes) c.comb
  dropLatches { c with comb := m } t

/-! ### The queue -/

/-- A core's copies replaced. -/
def setLcu (s : State) (core : Nat) (l : List Copy) : State := modCore s core (fun c => { c with lcu := l })

/-- One copy changed, by its issue number. -/
def modCopy (s : State) (core ord : Nat) (f : Copy → Copy) : State :=
  setLcu s core ((getCore s core).lcu.map (fun q => if q.ord = ord then f q else q))

/-- The watcher of a copy. -/
def copyWatch (core : Nat) (q : Copy) : Watcher := .lcu core q.ord

/-- The envelope of a guarded copy: first to one past the last source byte (R276). -/
def envelope (d : List Byte) : Nat × Nat := (dSrcRef d, dSrcRef d + endExtent d true)

/-- Whether the module lets its copies work: not after a device fault, and no new fragment begins at order 4 of R67. -/
def copiesRun (s : State) : Bool := s.seq.st == .running && s.job.device.isNone

/-- Whether a core's copies may begin a run: also those that a stopped bundle's copy must follow (R221). -/
def copiesGo (s : State) (c : Core) : Bool := copiesRun s || (c.finish && s.seq.st == .halting && s.job.device.isNone)

/-! ### Errors while reading (R251, R260) -/

/-- Whether a copy's source lies in the buffer and covers an offset. -/
def readsBuf (d : List Byte) (off : Nat) : Bool :=
  dSrcKind d == 1 && decide (dSrcRef d ≤ off) && decide (off < dSrcRef d + endExtent d true)

/-- Whether a copy's source lies in GDDR7 and covers a line. -/
def readsLine (d : List Byte) (line : Nat) : Bool :=
  dSrcKind d == 0 && decide (dSrcRef d / 64 ≤ line) && decide (line * 64 < dSrcRef d + endExtent d true) && placeOf (line * 64) == .gddr

/-- Whether a faulty word is among those that a copy reads. -/
def copyReads (d : List Byte) (u : Upset) : Bool :=
  match u with
  | .none => false
  | .bufCorrected off => readsBuf d off.toNat
  | .bufPoisoned off => readsBuf d off.toNat
  | .hiveCorrected line => readsLine d line.toNat
  | .hivePoisoned line => readsLine d line.toNat
  | .accCorrected _ => kindAcc (dSrcKind d) && accAmong (copyRows d).toList u
  | .accPoisoned _ => kindAcc (dSrcKind d) && accAmong (copyRows d).toList u
  | .hostPoisoned line => dSrcKind d == 0 && decide (dSrcRef d / 64 ≤ line.toNat) && decide (line.toNat * 64 < dSrcRef d + endExtent d true)
      && placeOf (line.toNat * 64) == .host
  | .l1Poisoned line => dL1 d && dSrcKind d == 0 && decide (dSrcRef d / 64 ≤ line.toNat) && decide (line.toNat * 64 < dSrcRef d + endExtent d true)

/-! ### Start -/

/-- The memory runs of the rows of a mask that can be made. -/
def srcRuns (s : State) (d : List Byte) (todo : BitVec 64) : List (Nat × Nat) :=
  ((maskList todo).flatMap (fun g => (fragSpan d g).map (fun r => (dSrcRef d + r * dSrcPitch d, dSrcPay d)))).filter (fun p => runOk s (p.1, p.2, false))

/-- The source lines of a run. -/
def srcLines (s : State) (d : List Byte) (todo : BitVec 64) : List Nat := ((srcRuns s d todo).flatMap (fun p => linesOf p.1 p.2)).dedup

/-- Those in no-prefetch granules, which are read only when their fragment is ready (R272, R299). -/
def lateLines (s : State) (d : List Byte) (todo : BitVec 64) : List Nat :=
  if dSrcKind d = 0 then (srcLines s d todo).filter (fun l => wtNopf s (l * 64)) else []

/-- The reads of a run at its start: slices, ports or the L1 see them, and watchpoints see the buffer (R254, R258, R613). In a
no-prefetch granule nothing is read ahead (R272, R298). Answers the L1's lines as they were read. How far ahead of its writes an LCU
reads is timing (log entry 134). -/
def copyTouch (s : State) (core : Nat) (d : List Byte) (todo : BitVec 64) : State × List L1Line :=
  if dSrcKind d = 0 then
    if dL1 d then l1Reads core (dHint d) ((srcLines s d todo).filter (fun l => !wtNopf s (l * 64))) s
    else ((srcRuns s d todo).foldl (fun s p => touchPart false s p.1 p.2 (dHint d)) s, [])
  else if dSrcKind d = 1 then
    if dSrcLay d = 1 then (bufTouch s core (dSrcRef d) (endExtent d true) false 0, [])
    else (touchAll core ((fragRowsOf d todo).map (fun r => (dSrcRef d + r * dSrcPitch d, dSrcPay d, false, 0))) s, [])
  else (s, [])

/-- The reads that waited for the rows to be written: those in no-prefetch granules (R299). -/
def copyLate (s : State) (core : Nat) (d : List Byte) (todo : BitVec 64) : State :=
  if dL1 d then (l1Reads core (dHint d) (lateLines s d todo) s).1
  else (srcRuns s d todo).foldl (fun s p => touchPart true s p.1 p.2 (dHint d)) s

/-- They are made once in a run, when its fragments are ready; the bytes are those that the lines hold then. -/
def lateRead (s : State) (core : Nat) (q : Copy) : State :=
  let ll := lateLines s q.desc q.todo
  if q.late || ll.isEmpty then s
  else
    let s1 := copyLate s core q.desc q.todo
    let old := unpackSrc q.snap
    let cur := srcAll s1 core q.desc
    let hit (i : Nat) : Bool := ll.contains (srcByteAddr q.desc i / 64)
    let rb : RowBytes := ⟨(old.bytes.zipIdx).map (fun p => if hit p.2 then cur.bytes.getD p.2 p.1 else p.1),
                          (old.bad.zipIdx).map (fun p => if hit p.2 then cur.bad.getD p.2 p.1 else p.1)⟩
    modCopy s1 core q.ord (fun q => { q with late := true, snap := packSrc rb, was := q.was.filter (fun w => !ll.contains (w.1 / 64)) })

/-- A reading with the bytes of L1 lines as they were read. -/
def l1Taken (d : List Byte) (ls : List L1Line) (rb : RowBytes) : RowBytes :=
  let at_ (i : Nat) : Option L1Line := ls.find? (fun l => l.line == srcByteAddr d i / 64)
  ⟨(rb.bytes.zipIdx).map (fun p => match at_ p.2 with | some l => l.data.getD (srcByteAddr d p.2 % 64) 0 | none => p.1),
   (rb.bad.zipIdx).map (fun p => match at_ p.2 with | some l => l.poison | none => p.1)⟩

/-- Begin a run of the fragments in `todo`: the fragments that cannot run fail, the reads are made. -/
def beginRun (s : State) (core : Nat) (q : Copy) (fail : BitVec 64) : State :=
  let d := q.desc
  let bad := badFrags s d q.todo
  let s1 := refuseFrags core d (maskList bad) s
  let s2 := meet s1 core (copyReads d)
  let (s3, ls) := copyTouch s2 core d q.todo
  let keep := unpackSrc q.snap
  let cur := if dL1 d then l1Taken d ls (srcAll s3 core d) else srcAll s3 core d
  let pay := max 1 (dSrcPay d)
  let fresh (i : Nat) : Bool := dSrcLay d == 1 || q.snap.isEmpty || q.todo.getLsbD (i / pay / fragRows d)
  let rb : RowBytes := if q.snap.isEmpty then cur else
    ⟨(cur.bytes.zipIdx).map (fun p => if fresh p.2 then p.1 else keep.bytes.getD p.2 0),
     (cur.bad.zipIdx).map (fun p => if fresh p.2 then p.1 else keep.bad.getD p.2 false)⟩
  modCopy s3 core q.ord (fun q => { q with active := true, failed := false, fails := (fail ||| bad) &&& q.todo, snap := packSrc rb, was := [], late := false })

/-- The copy that starts next: the oldest that is not active, while fewer than two are active and none before it has failed (R271,
R274), its accumulator rows are free (R252), and, guarded, every watch slot it needs is free (R276). -/
def nextCopy (s : State) (c : Core) : Option Copy :=
  if (c.lcu.filter (fun q => q.active)).length ≥ 2 then none
  else
    match (c.lcu.takeWhile (fun q => !q.failed)).find? (fun q => !q.active) with
    | some q =>
      let e := envelope q.desc
      if copyHeld c q || (dGuard q.desc && !slotsFree s e.1 e.2) then none else some q
    | none => none

/-- Arm the slots of a guarded copy. -/
def armCopy (s : State) (core : Nat) (q : Copy) : State :=
  if dGuard q.desc then armWatch s (copyWatch core q) (envelope q.desc).1 (envelope q.desc).2 else s

/-- LCU_COPY_START. -/
def lcuStart (s : State) (core : Nat) (fail : BitVec 64) (u : Upset) : State :=
  if !copiesGo s (getCore s core) then s
  else
    match nextCopy s (getCore s core) with
    | none => s
    | some q => beginRun (armCopy (upsetNew s core u) core q) core q fail

/-! ### End of a run -/

/-- A copy completes: it leaves the queue, its slots are free, its counters advance, the done field first (R271, R276). -/
def lcuDone (s : State) (core : Nat) (q : Copy) : State :=
  let s1 := setLcu s core ((getCore s core).lcu.filter (fun x => x.ord != q.ord))
  let s2 := detBreak (retryArms (freeWatch s1 (copyWatch core q)))
  ctrAdvance (doneAdvance s2 core q.done) core (dCtr q.desc)

/-- A copy fails (R274, R278): the fragments in the mask stay to move, its slots are free, the code is recorded. -/
def lcuFail (s : State) (core : Nat) (q : Copy) (mask : BitVec 64) (code : Word16) : State :=
  let s1 := modCopy s core q.ord (fun q =>
    { q with active := false, failed := true, code := code, todo := mask, fails := 0, torn := false, reread := false })
  contained (retryArms (freeWatch s1 (copyWatch core q))) (srcCore core) code (openPay code (srcCore core))

/-- Whether every line a copy reads has come from its controller. -/
def readsIn (s : State) (q : Copy) : Bool :=
  if dSrcKind q.desc = 0 ∧ placeOf (dSrcRef q.desc) = .gddr then
    (dMemRuns q.desc).all (fun p => p.2.2 || (linesOf p.1 p.2.1).all (fun l => !mcPending s l))
  else true

/-- Rows with their codes for the fragments of a mask. -/
def codedRows (s : State) (core : Nat) (q : Copy) (u : RowBytes) (mask : BitVec 64) : List (Nat × RowCodes) :=
  (fragRowsOf q.desc mask).map (fun r => (r, copyCodes s core q u r))

/-- The bytes of pieces. -/
def pieceBytes (ps : List (Nat × List Byte × Bool)) : Nat := ps.foldl (fun n p => n + p.2.1.length) 0

/-- What the written rows count: LCU_BYTES with the destination bytes written, ARR_QCLAMP, MINT_DRAWS (R215, R269, R270, R286). -/
def countRows (s : State) (core : Nat) (d : List Byte) (rows : List (Nat × RowCodes)) (bytes : Nat) : State :=
  let s1 := bump s (aLcuBytes core) bytes
  let s2 := bump s1 (aArrQclamp core) (rows.filter (fun p => p.2.clamped)).length
  if dRnd d = 2 then bump s2 (aMintDraws core) (rows.length * dElems d) else s2

/-- The address of the first poisoned unit a copy read, as POISON_CONSUMED names it (R434). -/
def firstBad (q : Copy) (core : Nat) (u : RowBytes) : Option Nat :=
  let d := q.desc
  if !(u.bad.any id) then none
  else
    let i := u.bad.idxOf true
    let a := srcByteAddr d i
    some (match dSrcKind d with
      | 0 => a / 64 * 64
      | 1 => winBuf core (a / 64 * 64)
      | 4 => winAcc core (4 * dSrcRef d + i / 256)
      | _ => winAcc core (dSrcRef d + i / 256))

/-- The end of a run with fragments `ok` moved and fragments `lost` failed under `code` (none failed: 0). Failed fragments may have
written any part (R278); an accumulator or tile destination is written only by a copy that completes (R253). -/
def endRun (s : State) (core : Nat) (q : Copy) (settled : Bool) (ok lost : BitVec 64) (code : Word16) : State :=
  let d := q.desc
  let (ctr, s0) := draw s
  let u := srcUsed s0 core q ctr q.todo settled
  let kd := dDstKind d
  if kd = 0 ∨ kd = 1 then
    let rows := codedRows s0 core q u ok
    let ps := dstPieces s0 core d rows
    let s1 := countRows (putDst s0 core d q.cover ps) core d rows (pieceBytes ps)
    if lost = 0 then lcuDone s1 core q
    else
      let part := (codedRows s1 core q u lost).filter (fun p => (rowRuns d p.1).all (fun r => r.2.2 || runOk s1 r))
      let (ctr2, s2) := draw s1
      let mixed := mixPieces ctr2 (okPieces s2 d (dstPieces s2 core d part))
      lcuFail (covered (putDst s2 core d (q.cover ++ cleanRuns ps) mixed) core q.ord (ps ++ mixed)) core q lost code
  else if lost ≠ 0 then
    lcuFail (modCopy s0 core q.ord (fun q => { q with snap := packSrc u })) core q lost code
  else
    let rows := codedRows s0 core q u (fragAll d)
    if kd = 5 then
      match firstBad q core u with
      | some a => poisonConsumed s0 core q.idx (srcCore core) a 6
      | none =>
        let s1 := modCore s0 core (fun c => putTile c d rows)
        lcuDone (countRows (lcuBufPieces core [] (scalePieces d rows) s1) core d rows (rows.length * (dDstPay d + b2n (dRowscale d)))) core q
    else lcuDone (countRows (modCore s0 core (putAcc d (rows.map (fun p => (p.1, p.2, false))))) core d rows (rows.length * dDstPay d)) core q

/-- Some fragments of a copy to the buffer or to memory are moved and the others stay to be moved (R282). -/
def movePart (s : State) (core : Nat) (q : Copy) (ok rest : BitVec 64) : State :=
  let d := q.desc
  let (ctr, s0) := draw s
  let rows := codedRows s0 core q (srcUsed s0 core q ctr ok false) ok
  let ps := dstPieces s0 core d rows
  modCopy (countRows (covered (putDst s0 core d q.cover ps) core q.ord ps) core d rows (pieceBytes ps)) core q.ord
    (fun q => { q with todo := rest, active := false, fails := 0 })

/-- The fragments that had not completed when the tear was seen: a free choice among those to move, at least one (R278). -/
def tornMask (ctr : Nat) (todo : BitVec 64) : BitVec 64 :=
  let m := Config.freeWord ctr &&& todo
  if m = 0 then todo else m

/-- A copy fails by a tear (R278). One to accumulator rows or a tile has written nothing before its commit: every fragment of it fails
(R253). -/
def tornFail (s : State) (core : Nat) (q : Copy) : State :=
  let (ctr, s1) := draw s
  let m := if dDstKind q.desc = 0 ∨ dDstKind q.desc = 1 then tornMask ctr q.todo ||| q.fails else q.todo
  endRun s1 core q true (q.todo &&& ~~~m) m cCopyTorn

/-- The end of a copy's run (R271, R274, R278). A torn copy that may still re-read waits for that. -/
def lcuEnd (s : State) (core : Nat) (q : Copy) : State :=
  if dGuard q.desc && watchTorn s (copyWatch core q) then
    if dTornfault q.desc || q.reread then tornFail s core q else s
  else endRun s core q false (q.todo &&& ~~~q.fails) q.fails cCopyFragment

/-- The oldest copy of the queue ends its run when all it reads is at hand. -/
def lcuTry (s : State) (core : Nat) : State :=
  match (getCore s core).lcu with
  | q :: _ => if readsIn s q then lcuEnd s core q else s
  | [] => s

/-- LCU_COPY_COMPLETE: the oldest copy of the queue, active and with all it reads ahead at hand, makes its last reads and ends its run. -/
def lcuComplete (s : State) (core : Nat) : State :=
  match (getCore s core).lcu with
  | q :: _ =>
    if q.active && readsIn s q && s.job.device.isNone && s.seq.st != .faulted && s.seq.st != .halted then lcuTry (lateRead s core q) core else s
  | [] => s

/-- TORN_REREAD (R278): the oldest torn copy reads again under freshly armed slots; one that may not fails when it is the oldest copy (R271). -/
def tornReread (s : State) (core : Nat) (fail : BitVec 64) : State :=
  if !copiesGo s (getCore s core) then s
  else
    let first := ((getCore s core).lcu.head?.map (fun q => q.ord))
    match (getCore s core).lcu.find? (fun q => q.active && dGuard q.desc && watchTorn s (copyWatch core q)
        && (!(dTornfault q.desc || q.reread) || decide (first = some q.ord))) with
    | none => s
    | some q =>
      if dTornfault q.desc || q.reread then tornFail s core q
      else
        let s1 := armCopy (freeWatch s (copyWatch core q)) core q
        let q1 := { q with reread := true, torn := true }
        beginRun (modCopy s1 core q.ord (fun _ => q1)) core q1 fail

/-! ### go and abort (R275) -/

/-- The failed copy of a core. -/
def failedCopy (c : Core) : Option Copy := c.lcu.find? (fun q => q.failed)

/-- LCU_RETRY.go: the failed fragments run again, guarded ones under freshly armed slots. While a slot is taken the copy waits without
reading and starts like a queued one (R276). -/
def lcuGo (s : State) (core : Nat) (fail : BitVec 64) : State :=
  match failedCopy (getCore s core) with
  | none => s
  | some q =>
    let e := envelope q.desc
    if !copiesRun s || s.job.fatal.isSome then s
    else if dGuard q.desc && !slotsFree s e.1 e.2 then modCopy s core q.ord (fun q => { q with failed := false })
    else beginRun (armCopy s core q) core q fail

/-- The destination runs of the failed fragments. -/
def lostRuns (d : List Byte) (mask : BitVec 64) : List (Nat × Nat) :=
  (fragRowsOf d mask).map (fun r => (dDstRef d + r * dDstPitch d, dDstPay d))

/-- Poison every unit of the buffer that runs touch. -/
def poisonBuf (runs : List (Nat × Nat)) (c : Core) : Core :=
  { c with bufPoison := (runs.flatMap (fun p => linesOf p.1 p.2)).foldl (fun m u => smSet false m u true) c.bufPoison }

/-- Poison every line of memory that runs touch. -/
def poisonMem : List Nat → State → State
  | [], s => s
  | l :: ls, s => poisonMem ls (setLinePoison s l true)

/-- The buffer runs of a skewed destination's failed rows: the bytes they write. -/
def lostSkew (d : List Byte) (mask : BitVec 64) : List (Nat × Nat) :=
  let rc : RowCodes := ⟨[], [], [], [], none, false⟩
  (skewPieces d [] ((fragRowsOf d mask).map (fun r => (r, rc)))).map (fun p => (dDstRef d + p.1, p.2.1.length))

/-- Bytes of an l1 copy's destination poisoned where they stand: in the L1 (R254, R257). -/
def poisonL1 (core hint : Nat) : List (Nat × Nat) → State → State
  | [], s => s
  | (a, n) :: l, s =>
    poisonL1 core hint l (l1Piece core hint (linesOf a n) a (l1Overlay (getCore s core) a (memBytes s a n)) true s)

/-- The row scale bytes of failed rows (R269). -/
def lostScale (d : List Byte) (mask : BitVec 64) : List (Nat × Nat) := if dRowscale d then (fragRowsOf d mask).map (fun r => (dScale d + r, 1)) else []

/-- An aborted copy has no fragment left: it completes, in its turn when copies before it remain (R271). -/
def abortEnd (s : State) (core : Nat) (q : Copy) : State :=
  if (getCore s core).lcu.head?.map (fun x => x.ord) = some q.ord then lcuDone s core q
  else modCopy s core q.ord (fun q => { q with active := true, failed := false, todo := 0, fails := 0, late := true })

/-- LCU_RETRY.abort. In a job that is halted or has met a JOB_FATAL fault the copy stays failed (R427). -/
def lcuAbort (s : State) (core : Nat) : State :=
  match failedCopy (getCore s core) with
  | none => s
  | some q =>
    let d := q.desc
    if !copiesRun s || s.job.fatal.isSome then s
    else
    match dDstKind d with
    | 0 =>
      let runs := (lostRuns d q.todo ++ lostScale d q.todo).filter (fun p => runOk s (p.1, p.2, true))
      if dL1 d then abortEnd (poisonL1 core (dHint d) runs s) core q
      else abortEnd (poisonMem (runs.flatMap (fun p => linesOf p.1 p.2)) s) core q
    | 1 =>
      let runs := (if dDstLay d = 1 then lostSkew d q.todo else lostRuns d q.todo) ++ lostScale d q.todo
      abortEnd (modCore s core (poisonBuf runs)) core q
    | 5 => jobFatal s core q.idx cCopyFragment (srcCore core) (openPay cCopyFragment (srcCore core))
    | _ =>
      let u := unpackSrc q.snap
      let rows := (List.range (dRows d)).map (fun r => (r, copyCodes s core q u r, q.todo.getLsbD (r / fragRows d)))
      let moved := (rows.filter (fun p => !p.2.2)).map (fun p => (p.1, p.2.1))
      lcuDone (countRows (modCore s core (putAcc d rows)) core d moved (moved.length * dDstPay d)) core q

/-! ### The commands -/

/-- LCU_COPY_START. -/
def execLcuCopyStart (core : Nat) (fail : BitVec 64) (u : Upset) (s : State) : Out := onCore s core (lcuStart s core fail u)

/-- LCU_COPY_COMPLETE. -/
def execLcuCopyComplete (core : Nat) (s : State) : Out := onCore s core (lcuComplete s core)

/-- TORN_REREAD. -/
def execTornReread (core : Nat) (fail : BitVec 64) (s : State) : Out := onCore s core (tornReread s core fail)

/-- LCU_RETRY_GO. -/
def execLcuRetryGo (core : Nat) (fail : BitVec 64) (s : State) : Out := onCore s core (lcuGo s core fail)

/-- LCU_RETRY_ABORT. -/
def execLcuRetryAbort (core : Nat) (s : State) : Out := onCore s core (lcuAbort s core)

end Sys2Proof.Machine
end

