-- ==== Sys2Proof/Machine/SyncRun.lean ====
section
/-! DEFINITION. Barriers, signals and the deadlock detector at work (08 R223 to R246). A command that names the end of a time span
stands for the instant at which the span ends (log entry 20). -/

namespace Sys2Proof.Machine

/-- LOCAL_ALL_BLOCKED and JOB_DEADLOCK (R245). -/
def cLocalAllBlocked : Word16 := 0x4010
def cJobDeadlock : Word16 := 0x4012

/-! ### Barriers (R224 to R226) -/

/-- Release tokens for the cores of a round. -/
def giveTokens : List Nat → State → State
  | [], s => s
  | i :: is, s => giveTokens is (modCore s i (fun c => { c with token := true }))

/-- BARRIER_RELEASE: a round whose counter has reached n is released; n is subtracted once (R225). -/
def barrierRelease (s : State) (g : BitVec 9) : State :=
  match smGet none s.sync.rounds g.toNat with
  | none => s
  | some r =>
    let v := smGet 0 s.sync.g g.toNat
    if r.n.toNat ≤ v.toNat ∧ s.seq.st = .running then
      let s1 := { s with sync := { s.sync with g := smSet 0 s.sync.g g.toNat (v - r.n), rounds := smSet none s.sync.rounds g.toNat none } }
      let s2 := giveTokens r.cores s1
      if r.n = 0 then s2 else detStir s2
    else s

/-! ### Signals (R231 to R236) -/

/-- The oldest held signal of a stream. -/
def oldestSig (s : State) (src ctx : BitVec 14) : Option Signal := s.sync.held.find? (fun g => g.src == src && g.ctx == ctx)

/-- SIGNAL_RELEASE (R232): the count leaves the tally, the amount reaches the target, a signal of the module itself may take the
entry (R234). -/
def signalRelease (s : State) (src ctx : BitVec 14) : State :=
  match oldestSig s src ctx with
  | none => s
  | some g =>
    let k := tallyKey src ctx
    let t := smGet 0 s.sync.tally k
    if g.count.toNat ≤ t.toNat ∧ s.seq.st ≠ .faulted ∧ s.job.device = none then
      let s1 := { s with sync := { s.sync with held := s.sync.held.erase g, tally := smSet 0 s.sync.tally k (t - g.count) } }
      let s2 := if bitOf g.counter.toNat 15 then addG s1 (g.counter.toNat % 512) g.amount.toNat
                else addS s1 g.core.toNat (g.counter.toNat % 512) g.amount.toNat
      sigPull (pairFree s2 src ctx)
    else s

/-! ### The deadlock detector (R239 to R244) -/

/-- The state code of a core (R105). -/
def coreStNat (s : State) (id : Nat) (c : Core) : Nat :=
  if c.st = .faulted then 4
  else if s.seq.st = .halting ∨ s.seq.st = .halted ∨ s.seq.st = .faulted ∨ s.job.device.isSome = true then 3
  else if s.seq.st = .idle then 0
  else if s.seq.st = .done ∨ (c.chalted = true ∧ coreBusy s id c = false) then 5
  else if c.dbgHalt && c.flight.isEmpty then 3
  else if c.st = .waiting then 2 else 1

/-- The bundle a core would issue next, with its executing slots. -/
def nextSlots (s : State) (c : Core) : Option Slots :=
  match s.seq.log.find? (fun b => b.pos = c.nextPos) with
  | none => none
  | some b => (decodeSlots b.bits.toNat).map (effSlots c.p)

/-- Multicast is held back for the slowest core (R49). -/
def paceHeld (s : State) : Bool := decide (s.seq.nextPos ≥ rMin s + 1024) && !s.seq.fetchQ.isEmpty

/-- Whether a core is quiet (R239). -/
def coreQuiet (s : State) (id : Nat) : Bool :=
  let c := getCore s id
  if c.chalted then !coreBusy s id c
  else
    match nextSlots s c with
    | none => paceHeld s || s.seq.poll
    | some e => (c.wait == 3 && !step3Ok c e.s) || (c.wait == 5 && bitOf (step5Cause s c e) 5)

/-- Whether every enabled core is quiet. -/
def allQuiet (s : State) : Bool := (List.range (nCores s)).all (coreQuiet s)

/-- W of SYN_DL_WIN in ms (R246). -/
def dlWindow (s : State) : Nat := let m := regF s aSynDlWin 13 0; if 1 ≤ m ∧ m ≤ 10000 then m else 50

/-- The detector works (R240): not while a core is halted by the debug port (R609). -/
def detOn (s : State) : Bool :=
  regF s aSynDl 0 0 == 1 && s.seq.st == .running && s.job.device.isNone && !s.dbg.chip && !s.cores.any (fun p => p.2.dbgHalt)

/-- The wait kind of a core with its counter's index, n and value (R244). The spec names 3 for pace only; what a core shows that waits at step 1 while
the sequencer polls the sequence table it does not say: DESIGN CHOICE, log entry 125, that every wait at step 1 is kind 3. -/
def waitInfo (s : State) (c : Core) : Nat × Nat × Nat × Nat :=
  match nextSlots s c with
  | none => if c.chalted then (0, 0, 0, 0) else (3, 0, 0, 0)
  | some e =>
    if c.chalted then (0, 0, 0, 0)
    else if c.wait = 3 then
      match e.s with
      | .swait i n => (1, i.toNat, n.toNat, (smGet 0 c.s i.toNat).toNat)
      | .sbar g n => (2, g.toNat, n.toNat, (smGet 0 s.sync.g g.toNat).toNat)
      | _ => (0, 0, 0, 0)
    else if c.wait = 5 ∧ bitOf c.cause 5 = true then (4, 0, 0, 0) else (0, 0, 0, 0)

/-- A core entry of the wait map (R244). -/
def waitEntry (s : State) (id : Nat) : List Byte :=
  let c := getCore s id
  let (k, i, n, v) := waitInfo s c
  leBytes 1 (coreStNat s id c) ++ leBytes 1 c.wait ++ leBytes 1 k ++ leBytes 1 0 ++ leBytes 2 i ++ leBytes 2 n ++ leBytes 2 v
  ++ leBytes 2 0 ++ leBytes 4 c.nextIdx

/-- A chip counter's entry of the wait map (R244). -/
def waitG (s : State) (g : Nat) : List Byte :=
  let r := (smGet none s.sync.rounds g).getD ⟨0, []⟩
  leBytes 2 (smGet 0 s.sync.g g).toNat ++ leBytes 2 r.cores.length ++ leBytes 2 r.n.toNat ++ leBytes 2 0

/-- Bytes that must still land for held signal `i` to be released: its stream's earlier held signals take theirs first (DEDUCED,
log entry 21). -/
def sigLeft (s : State) (i : Nat) (g : Signal) : Nat :=
  let before := (((heldAll s).take i).filter (fun x => x.src == g.src && x.ctx == g.ctx)).foldl (fun n x => n + x.count.toNat) 0
  before + g.count.toNat - (smGet 0 s.sync.tally (tallyKey g.src g.ctx)).toNat

/-- A held signal's entry of the wait map (R244). -/
def waitSig (s : State) (p : Signal × Nat) : List Byte :=
  let g := p.1
  leBytes 2 g.src.toNat ++ leBytes 2 g.ctx.toNat ++ leBytes 2 g.core.toNat ++ leBytes 2 g.counter.toNat ++ leBytes 8 (sigLeft s p.2 g)

/-- The wait map in its three parts: header with cores, counters, signals (R244). -/
def waitMap (s : State) : List (Nat × List Byte) :=
  [(0, leBytes 8 (now s) ++ leBytes 2 (devId s).toNat ++ leBytes 1 1 ++ leBytes 1 0 ++ leBytes 4 (dlWindow s) ++ leBytes 2 (nCores s)
      ++ leBytes 2 (sigCount s) ++ zeros 4 ++ leBytes 8 s.sync.sent.toNat ++ leBytes 8 s.sync.recv.toNat ++ zeros 24
      ++ (List.range (nCores s)).flatMap (waitEntry s)),
   (0x4000, (List.range 512).flatMap (waitG s)),
   (0x5000, ((heldAll s).zipIdx).flatMap (waitSig s))]

/-- Write parts of a map at a base address, by the device itself. -/
def devStores (base : Nat) : List (Nat × List Byte) → State → State
  | [], s => s
  | (o, bs) :: l, s => devStores base l (devStore s (base + o) bs)

/-- The members of the job that have not left. -/
def liveMembers (s : State) : List (BitVec 14) := s.job.members.filter (fun d => !s.job.gone.contains d)

/-- A blocked module receives JOB_DEADLOCK (R240): the job halts and the detector is in DEADLOCK. -/
def takeDeadlock (s : State) (lead : BitVec 14) (count : Nat) : State :=
  if s.sync.det = .blocked then
    jobFatal s noCore 0 cJobDeadlock srcSeq (lead.toNat + count % 2 ^ 32 * 2 ^ 16)
  else s

/-- The sum of tallies. -/
def sumU64 (l : List Word64) : Word64 := l.foldl (· + ·) 0

/-- The lead's test over the reports it holds (R242): every module's stands and the tallies agree. -/
def allReported (s : State) : Bool :=
  let ms := liveMembers s
  let rs := s.sync.reports.filter (fun r => ms.contains r.src)
  !ms.isEmpty && ms.all (fun d => rs.any (fun r => r.src == d))
  && sumU64 (rs.map (fun r => r.sent)) == sumU64 (rs.map (fun r => r.recv))

/-- The lead declares JOB_DEADLOCK when the test holds (R242, R243). -/
def leadCheck (s : State) : State :=
  let me := devId s
  if jobLead s.job = some me ∧ allReported s = true then
    let n := s.sync.reports.length
    let body := leBytes 1 3 ++ leBytes 1 0 ++ leBytes 2 me.toNat ++ zeros 4 ++ leBytes 4 n ++ zeros 4 ++ zeros 16
    let s1 := tc0SendAll 3 body ((liveMembers s).filter (fun d => d != me)) s
    takeDeadlock { s1 with sync := { s1.sync with reports := [] } } me n
  else s

/-- A BLOCKED report goes to the job lead (R240, R243). -/
def sendBlocked (s : State) : State :=
  let me := devId s
  let s1 := { s with sync := { s.sync with reported := s.sync.sent } }
  match jobLead s.job with
  | none => s1
  | some d =>
    if d = me then leadCheck { s1 with sync := { s1.sync with reports := reportKeep s1.sync.reports ⟨me, s.sync.sent, s.sync.recv⟩ } }
    else tc0Send s1 3 d s.job.tag (detBody 1 me s.sync.sent.toNat s.sync.recv.toNat s.sync.blockedAt)

/-- How many enabled cores wait in a given way. -/
def waitCount (s : State) (k : Nat) : Nat := ((List.range (nCores s)).filter (fun i => (waitInfo s (getCore s i)).1 = k)).length

/-- Entry to BLOCKED (R240): the wait map, LOCAL_ALL_BLOCKED and the report. -/
def enterBlocked (s : State) : State :=
  let s1 := { s with sync := { s.sync with det := .blocked, blockedAt := now s } }
  let s2 := devStores ((reg s aSynDlMap).toNat / 2 ^ 17 % 2 ^ 29 * 2 ^ 17) (waitMap s1) s1
  let p := waitCount s 1 % 2 ^ 16 + waitCount s 2 % 2 ^ 16 * 2 ^ 16 + sigCount s % 2 ^ 16 * 2 ^ 32
  sendBlocked (record s2 kEvent srcSeq cLocalAllBlocked p)

/-- WATCH to QUIET (R240), at a tick. -/
def detTick (s : State) : State :=
  if s.sync.det = .watch ∧ detOn s = true ∧ allQuiet s = true then { s with sync := { s.sync with det := .quiet, quietAt := now s } }
  else if s.sync.det = .quiet ∧ (detOn s = false ∨ allQuiet s = false) then { s with sync := { s.sync with det := .watch } }
  else s

/-- QUIET_WINDOW_ELAPSED: the module has stayed quiet for W (R240). -/
def quietElapsed (s : State) : State :=
  if detOn s = true ∧ allQuiet s = true ∧ s.sync.det = .quiet ∧ now s ≥ s.sync.quietAt + dlWindow s * 1000000 then enterBlocked s else s

/-- A BLOCKED report arrives (R242). -/
def takeReport (s : State) (src : BitVec 14) (sent recv : Word64) : State :=
  if s.job.members.contains src then leadCheck { s with sync := { s.sync with reports := reportKeep s.sync.reports ⟨src, sent, recv⟩ } } else s

/-- A WITHDRAW arrives (R242). -/
def takeWithdraw (s : State) (src : BitVec 14) : State :=
  { s with sync := { s.sync with reports := s.sync.reports.filter (fun x => x.src != src) } }

/-! ### The commands -/

/-- BARRIER_RELEASE. -/
def execBarrierRelease (g : BitVec 9) (s : State) : Out := .next (barrierRelease s g)
/-- QUIET_WINDOW_ELAPSED. -/
def execQuietWindowElapsed (s : State) : Out := .next (quietElapsed s)
/-- BLOCKED_REPORT. -/
def execBlockedReport (src : BitVec 14) (sent recv _time : Word64) (s : State) : Out := .next (takeReport s src sent recv)
/-- WITHDRAW. -/
def execWithdraw (src : BitVec 14) (s : State) : Out := .next (takeWithdraw s src)
/-- JOB_DEADLOCK_MESSAGE. -/
def execJobDeadlockMessage (src : BitVec 14) (count : Word32) (s : State) : Out := .next (takeDeadlock s src count.toNat)

end Sys2Proof.Machine
end

