-- ==== Sys2Proof/Machine/FabOps.lean ====
section
/-! DEFINITION. The fabric's packets and routes (11 R325 to R340): packet bytes, path choice, output queues, and the source side of the
streams: numbers, what is in flight, acknowledgements and losses. -/

namespace Sys2Proof.Machine

/-! ### Registers and links (R351) -/

def aFabArb : Nat := aFab + 0x10
def aFabRtCfg : Nat := aFab + 0x18
def aFabResend : Nat := aFab + 0x20
def aFabLost : Nat := aFab + 0x28
def aFabNacks : Nat := aFab + 0x30
def aFabGaps : Nat := aFab + 0x38
def aFabSync : Nat := aFab + 0x40
def aFabSyncCfg : Nat := aFab + 0x48
def aLink (k : Nat) : Nat := 0x3F0000801000 + k * 0x80
def aRtMember (m : Nat) : Nat := 0x3F0000810000 + m * 8
def aRtGroup (g : Nat) : Nat := 0x3F0000900000 + g * 8

/-- Codes of R350. -/
def cLinkCorrected : Word16 := 0x6001
def cLaneDegraded : Word16 := 0x6002
def cLinkDown : Word16 := 0x6003
def cFabNeighbour : Word16 := 0x6004
def cFabPktForm : Word16 := 0x6005
def cFabHoplimit : Word16 := 0x6006
def cFabE2eLost : Word16 := 0x6007
def cTc0Gap : Word16 := 0x6008

/-- Links of a module. -/
def nLinks : Nat := 36

/-- A link's state. -/
def getLink (s : State) (k : Nat) : Link := smGet Link.init s.fab.links k

/-- A link replaced. -/
def setLink (s : State) (k : Nat) (l : Link) : State := { s with fab := { s.fab with links := smSet Link.init s.fab.links k l } }

/-- A link changed. -/
def modLink (s : State) (k : Nat) (f : Link → Link) : State := setLink s k (f (getLink s k))

/-- Whether a link is up (R316). -/
def linkUp (s : State) (k : Nat) : Bool := decide (k < nLinks) && (getLink s k).st == .up

/-- Whether leaving on a link advances the phase (R332). -/
def linkGlobal (s : State) (k : Nat) : Bool := regF s (aLink k) 36 36 == 1

/-! ### Packet bytes (R325, R326, R343) -/

/-- The 32-byte header. A packet with a keep-zero bit set carries it in bit 15 of the destination field. -/
def pktHead (p : Packet) : List Byte :=
  leBytes 1 (p.typ.toNat + p.cls.toNat * 16 + p.phase.toNat * 64)
  ++ leBytes 1 (p.hops.toNat + p.path.toNat * 16 + b2n p.maskValid * 64 + b2n p.counted * 128)
  ++ leBytes 2 (p.dst.toNat + b2n p.kz * 2 ^ 15) ++ leBytes 2 p.src.toNat ++ leBytes 2 p.ctx.toNat ++ leBytes 2 p.seq.toNat
  ++ leBytes 2 p.len.toNat ++ leBytes 4 p.tag.toNat ++ leBytes 8 p.addr.toNat ++ leBytes 8 p.spec.toNat

/-- Payload bytes that follow a header: none for RD_REQ. -/
def pktPayLen (typ len : Nat) : Nat := if typ = 2 then 0 else len

/-- A packet on the wire. -/
def pktBytes (p : Packet) : List Byte := pktHead p ++ slice p.payload 0 (pktPayLen p.typ.toNat p.len.toNat)

/-- Keep-zero bits of the type-specific field (R326). -/
def specBad (typ : Nat) (mask : Bool) (v : Nat) : Bool :=
  match typ with
  | 1 => !mask && v != 0
  | 2 => decide (v ≥ 2 ^ 46)
  | 3 => !mask && v != 0
  | 4 => v != 0
  | 5 => decide (v ≥ 2 ^ 16)
  | 6 => decide (v ≥ 2 ^ 16)
  | 7 => decide (v ≥ 2 ^ 32)
  | _ => v != 0

/-- A packet read from its bytes; the header is whole. -/
def pktOf (h payload : List Byte) : Packet :=
  let b0 := fieldAt h 0 1
  let b1 := fieldAt h 1 1
  let typ := b0 % 16
  let mask := bitOf b1 6
  { typ := BitVec.ofNat 4 typ, cls := BitVec.ofNat 2 (bitsOf b0 5 4), phase := BitVec.ofNat 2 (bitsOf b0 7 6)
    hops := BitVec.ofNat 4 (b1 % 16), path := BitVec.ofNat 2 (bitsOf b1 5 4), maskValid := mask, counted := bitOf b1 7
    dst := BitVec.ofNat 14 (fieldAt h 2 2), src := BitVec.ofNat 14 (fieldAt h 4 2), ctx := BitVec.ofNat 14 (fieldAt h 6 2)
    seq := BitVec.ofNat 16 (fieldAt h 8 2), len := BitVec.ofNat 13 (fieldAt h 10 2), tag := BitVec.ofNat 32 (fieldAt h 12 4)
    addr := BitVec.ofNat 46 (fieldAt h 16 8), spec := BitVec.ofNat 64 (fieldAt h 24 8)
    kz := fieldAt h 2 2 / 2 ^ 14 != 0 || fieldAt h 4 2 / 2 ^ 14 != 0 || fieldAt h 6 2 / 2 ^ 14 != 0 || fieldAt h 10 2 / 2 ^ 13 != 0
      || fieldAt h 16 8 / 2 ^ 46 != 0 || specBad typ mask (fieldAt h 24 8)
    payload := payload }

/-- A TC0 packet on the wire (R343). One with a bad form carries that in bit 15 of its destination field. -/
def tc0Bytes (m : Tc0) (hops : Nat) : List Byte :=
  leBytes 1 (8 + m.kind.toNat * 16) ++ leBytes 1 (hops % 16) ++ leBytes 2 (m.dst.toNat + b2n m.kz * 2 ^ 15) ++ leBytes 2 m.src.toNat
  ++ leBytes 2 m.seq.toNat ++ leBytes 1 m.body.length ++ zeros 3 ++ leBytes 4 m.tag.toNat ++ m.body

/-- The bytes of an item. -/
def wireBytes (w : Wire) : List Byte :=
  match w with
  | .pkt p => pktBytes p
  | .tc0 m h _ => tc0Bytes m h

/-! ### Path choice (R329 to R332) -/

/-- The route entry of a destination (R329, R330). -/
def rtEntry (s : State) (dst : BitVec 14) : Nat :=
  let mb := regF s aFabRtCfg 2 0
  if dst.toNat / 2 ^ mb = (devId s).toNat / 2 ^ mb then (reg s (aRtMember (dst.toNat % 2 ^ mb))).toNat
  else (reg s (aRtGroup (dst.toNat / 2 ^ mb))).toNat

/-- Path `i` of an entry: link and hops, when it is valid and its link is up. -/
def rtPath (s : State) (e i : Nat) : Option (Nat × Nat) :=
  let p := bitsOf e (16 * i + 15) (16 * i)
  if bitOf p 15 && linkUp s (p % 64) then some (p % 64, bitsOf p 9 6) else none

/-- The usable paths of a destination: path number, link, hops. -/
def rtPaths (s : State) (dst : BitVec 14) : List (Nat × Nat × Nat) :=
  let e := rtEntry s dst
  (List.range 4).filterMap (fun i => (rtPath s e i).map (fun p => (i, p.1, p.2)))

/-- Destination, class and phase of an item. -/
def wireDst (w : Wire) : BitVec 14 := match w with | .pkt p => p.dst | .tc0 m _ _ => m.dst
def wireCls (w : Wire) : Nat := match w with | .pkt p => p.cls.toNat | .tc0 _ _ _ => 0
def wirePhase (w : Wire) : Nat := match w with | .pkt p => p.phase.toNat | .tc0 _ _ p => p
def wireHops (w : Wire) : Nat := match w with | .pkt p => p.hops.toNat | .tc0 _ h _ => h

/-- An item as it leaves on a link: one hop more, the phase advanced on a global link (R332). -/
def wireLeave (s : State) (k : Nat) (w : Wire) : Wire :=
  let ph := if linkGlobal s k then min 2 (wirePhase w + 1) else wirePhase w
  match w with
  | .pkt p => .pkt { p with hops := p.hops + 1, phase := BitVec.ofNat 2 ph }
  | .tc0 m h _ => .tc0 m (h + 1) ph

/-- The lane of an item (R318). -/
def wireLane (w : Wire) : Nat := wireCls w * 3 + wirePhase w

/-- Bytes queued on a lane of a link. -/
def queued (s : State) (k lane : Nat) : Nat :=
  (smGet [] (getLink s k).q lane).foldl (fun n o => n + (o.bytes.length - o.sent)) 0

/-- Bytes queued on the lane an item would take on a link. -/
def queuedFor (s : State) (k : Nat) (w : Wire) : Nat := queued s k (wireLane (wireLeave s k w))

/-- The first element with the least measure. -/
def leastBy (f : Nat × Nat × Nat → Nat) : List (Nat × Nat × Nat) → Option (Nat × Nat × Nat)
  | [] => none
  | x :: xs =>
    match leastBy f xs with
    | some y => if f y < f x then some y else some x
    | none => some x

/-- The path an item takes (R331). -/
def pickPath (s : State) (w : Wire) : Option (Nat × Nat × Nat) :=
  let ps := rtPaths s (wireDst w)
  if wireCls w ≤ 1 then ps.head?
  else
    match leastBy (fun p => p.2.2) ps with
    | none => none
    | some p =>
      if ps.any (fun q => q.1 != p.1 && decide (queuedFor s q.2.1 w + 32768 < queuedFor s p.2.1 w)) then leastBy (fun q => queuedFor s q.2.1 w) ps
      else some p

/-- The input that stands for this module's own injection (R335). -/
def localIn : Nat := 36

/-- Put an item that came by an input into the output queue of a link, or discard it at its hop limit (R332). After a device fault job
packets other than ERR stop (R430). -/
def linkPut (s : State) (k input : Nat) (w : Wire) : State :=
  if s.job.device.isSome && !wireStays w then s
  else if wireHops w + 1 > 8 then record s kEvent (srcLink k) cFabHoplimit (openPay cFabHoplimit (srcLink k))
  else
    let o := wireLeave s k w
    modLink s k (fun l => { l with q := smSet [] l.q (wireLane o) (smGet [] l.q (wireLane o) ++ [⟨w, wireBytes o, 0, input⟩]) })

/-- Send an item on its way (R331). Without a path it is discarded, which the source learns by R336. -/
def fabOut (s : State) (input : Nat) (w : Wire) : State :=
  match pickPath s w with
  | none => s
  | some (_, k, _) => linkPut s k input w

/-- A packet with the path noted that its source chooses for it (R325, R331). -/
def withPath (s : State) (p : Packet) : Packet :=
  match pickPath s (.pkt p) with
  | none => p
  | some (i, _, _) => { p with path := BitVec.ofNat 2 i }

/-- Send a packet from its source, with the path noted in its header. -/
def fabSource (s : State) (p : Packet) : State := fabOut s localIn (.pkt (withPath s p))

/-- Send a packet again on the path it took, when that is up (R337). -/
def fabAgain (s : State) (p : Packet) : State :=
  match rtPath s (rtEntry s p.dst) p.path.toNat with
  | some (k, _) => linkPut s k localIn (.pkt p)
  | none => fabSource s p

/-! ### The source side of a stream (R336, R338) -/

/-- Key of a pair at the source and at the destination. -/
def txKey (ctx dst : BitVec 14) : Nat := ctx.toNat * 16384 + dst.toNat
def rxKey (src ctx : BitVec 14) : Nat := src.toNat * 16384 + ctx.toNat

/-- A pair not in use. -/
def TxPair.init : TxPair := ⟨0, [], [], []⟩
def RxPair.init : RxPair := ⟨0, [], []⟩

/-- a comes at or before b in 16-bit serial order. -/
def serialLe (a b : Word16) : Bool := decide ((b - a).toNat < 32768)

/-- The destination bytes of a WR or RD_REQ (R338). -/
def pktRange (p : Packet) : Option (Nat × Nat) :=
  if p.typ = 1 then some (p.addr.toNat, p.len.toNat) else if p.typ = 2 then some (p.spec.toNat, p.len.toNat) else none

/-- Whether a packet overlaps one in flight, so that it is held (R338). -/
def pktHeld (air : List TxPkt) (p : Packet) : Bool :=
  match pktRange p with
  | none => false
  | some r => air.any (fun q => q.pkt.typ == p.typ && (match pktRange q.pkt with | some x => rangesMeet r x | none => false))

/-- Whether a packet is one of the job, so that the tallies of R241 count it; a snapshot's carries another tag (R421). -/
def jobPkt (s : State) (p : Packet) : Bool := p.tag == s.job.tag

/-- Hand over what may go of a pair, head first. The count bounds the steps. -/
def txPumpGo (key : Nat) : Nat → State → State
  | 0, s => s
  | f + 1, s =>
    let t := smGet TxPair.init s.fab.tx key
    match t.wait with
    | [] => s
    | q :: w =>
      if t.air.length ≥ 512 ∨ pktHeld t.air q.pkt = true then s
      else
        let t1 := { t with air := t.air ++ [{ q with pkt := withPath s q.pkt, nacked := false }], wait := w }
        let s1 := { s with fab := { s.fab with tx := smSet TxPair.init s.fab.tx key t1 }
                           sync := { s.sync with sent := s.sync.sent + BitVec.ofNat 64 (b2n (!q.nacked && jobPkt s q.pkt)) } }
        txPumpGo key f (fabSource s1 q.pkt)

/-- A member that has left sends no job packets (R445); nor does a module after a device fault (R430). -/
def mayInject (s : State) : Bool := !s.job.left && s.job.device.isNone && s.seq.st != .faulted

/-- After packets were handed over: a blocked module reports its new tally (R240). -/
def sentNote (s : State) : State := if s.sync.det = .blocked ∧ s.sync.sent ≠ s.sync.reported then sendBlocked s else s

/-- Pump one pair. -/
def txPump (s : State) (key : Nat) : State :=
  if mayInject s then sentNote (txPumpGo key (smGet TxPair.init s.fab.tx key).wait.length s) else s

/-- Number a packet of a stream and send it when it may go (R336). -/
def fabSend (s : State) (p : Packet) (o : Owner) : State :=
  let key := txKey p.ctx p.dst
  let t := smGet TxPair.init s.fab.tx key
  let t1 := { t with next := t.next + 1, wait := t.wait ++ [⟨{ p with seq := t.next }, o, 0, false⟩] }
  txPump { s with fab := { s.fab with tx := smSet TxPair.init s.fab.tx key t1 } } key

/-- The number the next packet of a pair takes. -/
def nextSeq (s : State) (ctx dst : BitVec 14) : Word16 := (smGet TxPair.init s.fab.tx (txKey ctx dst)).next

/-- A packet of this module with the header fields that are common to all. -/
def newPkt (s : State) (typ cls : Nat) (dst ctx : BitVec 14) (len addr spec : Nat) (counted : Bool) (payload : List Byte) : Packet where
  typ := BitVec.ofNat 4 typ
  cls := BitVec.ofNat 2 cls
  phase := 0
  hops := 0
  path := 0
  maskValid := false
  counted := counted
  dst := dst
  src := devId s
  ctx := ctx
  seq := 0
  len := BitVec.ofNat 13 len
  tag := s.job.tag
  addr := BitVec.ofNat 46 addr
  spec := BitVec.ofNat 64 spec
  kz := false
  payload := payload

/-- A poison mask over the 64-byte units of a payload (R326). -/
def maskOf (bad : List Bool) : Nat := ((chunks 64 bad).zipIdx).foldl (fun m p => if p.1.any id then m + 2 ^ p.2 else m) 0

/-- A payload with its poison mask. -/
def withMask (p : Packet) (bad : List Bool) : Packet :=
  if bad.any id then { p with maskValid := true, spec := BitVec.ofNat 64 (maskOf bad) } else p

/-- An unnumbered answer of TC1 to a packet, with its job tag: NACK 6, ERR 7 (R336). -/
def fabAnswer (s : State) (typ : Nat) (p : Packet) (spec : Nat) : State :=
  fabSource s { newPkt s typ 1 p.src p.ctx 0 0 spec false [] with tag := p.tag }

/-- The acknowledgement of a packet's stream up to a number (R336): ACKC where the path's first link has FPL 2 and ends at the source of the
packet (log entry 108), else ACK. -/
def fabAck (s : State) (p : Packet) (n : Word16) : State :=
  let a : Packet := { newPkt s 5 1 p.src p.ctx 0 0 n.toNat false [] with tag := p.tag }
  match pickPath s (.pkt a) with
  | none => s
  | some (_, k, _) =>
    let l := getLink s k
    fabSource s (if l.fpl ≥ 2 ∧ l.ndev = p.src.toNat then
      { a with typ := 9, len := 4, spec := 0, payload := leBytes 2 p.ctx.toNat ++ leBytes 2 n.toNat } else a)

/-- The longest payload of a packet. -/
def pktMax : Nat := 4096

/-- Write bytes at a local address of another module: packets of at most 4,096 bytes, none across a 4 KiB boundary of the
destination (R326). -/
def fabWrites (cls : Nat) (dst ctx : BitVec 14) (counted : Bool) (o : Owner) : Nat → Nat → List Byte → List Bool → State → State
  | 0, _, _, _, s => s
  | f + 1, a, bs, bad, s =>
    if bs.isEmpty then s
    else
      let n := min bs.length (pktMax - a % pktMax)
      let p := withMask (newPkt s 1 cls dst ctx n a 0 counted (bs.take n)) (bad.take n)
      fabWrites cls dst ctx counted o f (a + n) (bs.drop n) (bad.drop n) (fabSend s p o)

/-- Ask for bytes of another module (R339): what comes back belongs to place `key` of the asker's source. -/
def fabReads (cls : Nat) (dst ctx : BitVec 14) (counted : Bool) (o : Owner) (home : Nat) : Nat → Nat → Nat → Nat → State → State
  | 0, _, _, _, s => s
  | f + 1, a, n, key, s =>
    if n = 0 then s
    else
      let k := min n (pktMax - a % pktMax)
      let sq := nextSeq s ctx dst
      let s1 := fabSend s (newPkt s 2 cls dst ctx k a ((home + key) % 2 ^ 46) counted []) o
      fabReads cls dst ctx counted o home f (a + k) (n - k) (key + k)
        { s1 with fab := { s1.fab with reads := s1.fab.reads ++ [⟨dst, ctx, sq, o, key, k⟩] } }

/-- Packet count that covers a run. -/
def pktSteps (n : Nat) : Nat := n / pktMax + 2

/-- Packets of an owner that still travel or wait. -/
def ownerTx (s : State) (o : Owner → Bool) : Bool :=
  s.fab.tx.any (fun p => p.2.air.any (fun q => o q.owner) || p.2.wait.any (fun q => o q.owner))

/-- Whether a read's request was lost. -/
def readLost (s : State) (r : ReadWait) : Bool :=
  (smGet TxPair.init s.fab.tx (txKey r.ctx r.dst)).lost.any (fun q => q.pkt.seq == r.seq)

/-- Reads of an owner that can still be answered. -/
def ownerReads (s : State) (o : Owner → Bool) : Bool := s.fab.reads.any (fun r => o r.owner && !readLost s r)

/-- Packets of an owner that still travel or wait, and its reads without an answer. -/
def ownerBusy (s : State) (o : Owner → Bool) : Bool := ownerTx s o || ownerReads s o

/-- Send the lost packets of an owner again with their numbers (R437), ahead of those that wait and within the same limit (R336). The sent tally
gets back what a loss took from it; one answered with ERR was counted (R241). -/
def txAgain (o : Owner → Bool) : List (Nat × TxPair) → State → State
  | [], s => s
  | (key, _) :: l, s =>
    let t := smGet TxPair.init s.fab.tx key
    let again := t.lost.filter (fun q => o q.owner)
    if again.isEmpty then txAgain o l s
    else
      let t1 := { t with wait := again ++ t.wait, lost := t.lost.filter (fun q => !o q.owner) }
      txAgain o l (txPump { s with fab := { s.fab with tx := smSet TxPair.init s.fab.tx key t1 } } key)

/-- Mark what an owner's loss fails: a fragment of a copy, or the collective (R336, R392). -/
def ownerFail (s : State) (o : Owner) : State :=
  match o with
  | .ce k uid frag =>
    let e := getCe s k
    setCe s k { e with ops := e.ops.map (fun x =>
      if x.uid = uid then { x with fails := x.fails ||| (BitVec.ofNat 64 (2 ^ (frag % 64))) } else x) }
  | .col k uid =>
    let e := getCe s k
    setCe s k { e with ops := e.ops.map (fun x => if x.uid = uid then { x with memberLost := true } else x) }
  | _ => s

/-- An acknowledgement of a stream to `dst` up to number n (R336): what it covers is no longer in flight. -/
def ackTake (s : State) (dst ctx : BitVec 14) (n : Word16) : State :=
  let key := txKey ctx dst
  let t := smGet TxPair.init s.fab.tx key
  let t1 := { t with air := t.air.filter (fun q => !serialLe q.pkt.seq n) }
  let rsp := s.fab.rsp.filter (fun q => !(q.pkt.dst == dst && q.pkt.ctx == ctx && serialLe q.pkt.seq n))
  txPump { s with fab := { s.fab with tx := smSet TxPair.init s.fab.tx key t1, rsp := rsp } } key

/-- One packet of a stream leaves the flight, lost or answered with ERR; it is kept for a go (R437). -/
def txDrop (s : State) (key : Nat) (q : TxPkt) (err : Bool) : State :=
  let t := smGet TxPair.init s.fab.tx key
  let t1 := { t with air := t.air.filter (fun x => x.pkt.seq != q.pkt.seq), lost := t.lost ++ [{ q with tries := 0, nacked := err }] }
  { s with fab := { s.fab with tx := smSet TxPair.init s.fab.tx key t1 } }

/-- FAB_E2E_LOST and its count for one packet (R336). -/
def e2eLost (s : State) (p : Packet) : State :=
  let src := srcCe (engineOf p.ctx)
  contained (bump s aFabLost 1) src cFabE2eLost (openPay cFabE2eLost src)

/-- A packet is lost (R336, R241): recorded, its fragment fails, the sent tally takes one back. -/
def txLose (s : State) (key : Nat) (q : TxPkt) : State :=
  let s1 := txDrop s key q false
  let s2 := { s1 with sync := { s1.sync with sent := s1.sync.sent - BitVec.ofNat 64 (b2n (jobPkt s q.pkt)) }
                      fab := { s1.fab with lostDst := if jobPkt s q.pkt then s1.fab.lostDst ++ [q.pkt.dst] else s1.fab.lostDst } }
  sentNote (ownerFail (e2eLost s2 q.pkt) q.owner)

/-- Several packets of one pair are lost. -/
def txLoseAll (key : Nat) : List TxPkt → State → State
  | [], s => s
  | q :: qs, s => txLoseAll key qs (txLose s key q)

/-- Packets that were never handed over go with the rest (R336). -/
def txCancel : List TxPkt → State → State
  | [], s => s
  | q :: qs, s => txCancel qs (ownerFail s q.owner)

/-- Every unacknowledged packet to a device is lost at once, and what waited for it goes (R336). -/
def loseDstGo (dev : BitVec 14) : List (Nat × TxPair) → State → State
  | [], s => s
  | (key, t) :: l, s =>
    if key % 16384 = dev.toNat then
      let s1 := txLoseAll key t.air s
      let t1 := smGet TxPair.init s1.fab.tx key
      loseDstGo dev l (txCancel t1.wait { s1 with fab := { s1.fab with tx := smSet TxPair.init s1.fab.tx key { t1 with wait := [], lost := [] } } })
    else loseDstGo dev l s

/-- Loss of a device (R336): packets, reads and answers to it. -/
def loseDst (s : State) (dev : BitVec 14) : State :=
  let s1 := loseDstGo dev s.fab.tx s
  let gone := s1.fab.reads.filter (fun r => r.dst == dev)
  let left := s1.fab.rsp.filter (fun q => q.pkt.dst == dev)
  let s2 := { s1 with fab := { s1.fab with reads := s1.fab.reads.filter (fun r => r.dst != dev), rsp := s1.fab.rsp.filter (fun q => q.pkt.dst != dev) } }
  left.foldl (fun s q => e2eLost s q.pkt) (gone.foldl (fun s r => ownerFail s r.owner) s2)

end Sys2Proof.Machine
end

