-- ==== Sys2Proof/Machine/CeCopy.lean ====
section
/-! DEFINITION. The copies of the engines (12 R358 to R368, R380, R381, R391): an XSTR or a re-shard as a list of pieces, their reads,
conversion, writes and packets, by fragments. -/

namespace Sys2Proof.Machine

/-! ### Pieces -/

/-- A piece: bytes read at one place, converted, written at one place. `key` and `flat` are its places in the operation's source and
destination, `idx` the Mint indices of its elements: runs of a first index and a count. -/
structure Piece where
  src : Where
  sn : Nat
  key : Nat
  dst : Where
  dn : Nat
  flat : Nat
  n : Nat
  idx : List (Nat × Nat)
  deriving DecidableEq, Repr

/-- What the pieces of an operation have in common. -/
structure Plan where
  pieces : List Piece
  srcFmt : Nat
  dstFmt : Nat
  rnd : Nat
  tid : Nat
  hint : Nat
  cls : Nat
  guard : Bool
  tornfault : Bool
  counted : Bool
  deriving DecidableEq, Repr

/-- The rows of an XSTR as pieces (R363, R365). -/
def xstrPlan (s : State) (d : List Byte) : Plan where
  pieces := (List.range (sRows d)).map (fun r =>
    ⟨whereIs s (sSrc d + r * sSrcPitch d), sSrcPay d, r * sSrcPay d, whereIs s (sDst d + r * sDstPitch d), sDstPay d, r * sDstPay d,
     sElems d, [((sMintBase d + r * sMintPitch d) % 2 ^ 48, sElems d)]⟩)
  srcFmt := sSrcFmt d
  dstFmt := sDstFmt d
  rnd := sRnd d
  tid := sTid d
  hint := sHint d
  cls := sClass d
  guard := sGuard d
  tornfault := sTornfault d
  counted := sCounted d

/-- Bytes of the destination. -/
def planSize (p : Plan) : Nat := p.pieces.foldl (fun n q => n + q.dn) 0

/-- F of R368. -/
def planFrag (p : Plan) : Nat := max 65536 (roundUp (ceilDiv (planSize p) 64) 4096)

/-- Fragments of an operation. -/
def planFrags (p : Plan) : Nat := ceilDiv (planSize p) (planFrag p)

/-- The mask of all fragments. -/
def planAll (p : Plan) : BitVec 64 := BitVec.ofNat 64 (2 ^ min 64 (planFrags p) - 1)

/-- The fragments that a piece touches. -/
def pieceFrags (f : Nat) (q : Piece) : List Nat :=
  if q.dn = 0 then [] else (List.range ((q.flat + q.dn - 1) / f - q.flat / f + 1)).map (fun i => q.flat / f + i)

/-- Whether a piece touches a fragment of a mask. -/
def pieceIn (f : Nat) (m : BitVec 64) (q : Piece) : Bool := (pieceFrags f q).any (fun g => m.getLsbD g)

/-! ### Window checks (R288, R290, R296) -/

/-- Whether the own table lets this module reach bytes of another one. -/
def remoteOk (s : State) (a n : Nat) (write : Bool) : Bool :=
  (granulesOf a n).all (fun g =>
    (match placeOf g with | .gddr => true | .cxl _ => true | .host => true | _ => false) && wtAllows (wtEntry s (wtIndex g)) write true)

/-- The refusal of an engine's access: the address recorded and the where code. -/
def ceRefused (s : State) (w : Where) (n : Nat) (write : Bool) : Option (Nat × Nat) :=
  match w with
  | .bad v => some (v, 2)
  | .here a =>
    match placeOf a with
    | .core id off => if coreOk s id && inBuf off n then none else some (globalOf s a, 2)
    | _ => (memCheck s a n write false).map (fun p => (globalOf s a, p))
  | .there dev a =>
    let g := 2 ^ 63 + dev.toNat * 2 ^ 46 + a
    if !(liveMembers s).contains dev then some (g, 0) else if remoteOk s a n write then none else some (g, 0)

/-- Whether an access can be made: not refused, no port down. -/
def ceOk (s : State) (w : Where) (n : Nat) (write : Bool) : Bool :=
  (ceRefused s w n write).isNone && (match w with | .here a => !runDown s (a, n, write) | _ => true)

/-- Whether both ends of a piece can be reached. -/
def pieceOk (s : State) (q : Piece) : Bool := ceOk s q.src q.sn false && ceOk s q.dst q.dn true

/-- Fragments that cannot run: some piece of theirs cannot be reached (R274, R391). -/
def planBad (s : State) (p : Plan) (m : BitVec 64) : BitVec 64 :=
  let f := planFrag p
  p.pieces.foldl (fun b q => if pieceIn f m q && !pieceOk s q then
    (pieceFrags f q).foldl (fun b g => b ||| BitVec.ofNat 64 (2 ^ (g % 64))) b else b) 0 &&& m

/-- WIN_REFUSED for the first refused piece of each failing fragment (R313). -/
def ceRefuseGo (src : Word16) (p : Plan) : List Nat → State → State
  | [], s => s
  | g :: gs, s =>
    let hit := p.pieces.findSome? (fun q =>
      if (pieceFrags (planFrag p) q).contains g then
        ((ceRefused s q.src q.sn false).map (fun r => (r, false))).orElse (fun _ => (ceRefused s q.dst q.dn true).map (fun r => (r, true)))
      else none)
    match hit with
    | some ((a, place), w) => ceRefuseGo src p gs (refuseAccess s src a place 1 w)
    | none => ceRefuseGo src p gs s

/-! ### Local bytes -/

/-- Bytes at a local place: memory or the buffer of a core of this module. -/
def ceBytes (s : State) (a n : Nat) : List Byte :=
  match placeOf a with
  | .core id off => bufRead (getCore s id) off n
  | _ => memBytes s a n

/-- Their poison flags. -/
def ceFlags (s : State) (a n : Nat) : List Bool :=
  match placeOf a with
  | .core id off => unitFlags (fun u => smGet false (getCore s id).bufPoison u) off n
  | _ => unitFlags (linePoison s) a n

/-- The read of a run by an engine, as slices, ports and watchpoints see it. Engines are agent 4 of R248. -/
def ceTouch (s : State) (a n hint : Nat) : State :=
  match placeOf a with
  | .core id off => bufTouch s id off n false 4
  | _ => touchRead s a n hint

/-- The part of such a read that is made ahead, or that waits until the fragment is ready (R299, R366). -/
def ceTouchPart (late : Bool) (s : State) (a n hint : Nat) : State :=
  match placeOf a with
  | .core id off => if late then s else bufTouch s id off n false 4
  | _ => touchPart late s a n hint

/-- The core whose window holds an address. -/
def coreAt (a : Nat) : Option Nat := match placeOf a with | .core id _ => some id | _ => none

/-- Pieces written into the buffer of one core, given by window addresses. -/
def ceBufPut (before : List (Nat × Nat)) (ps : List (Nat × List Byte × Bool)) (id : Nat) (s : State) : State :=
  let qs := (ps.filter (fun p => coreAt p.1 == some id)).map (fun p => (p.1 - aCore id, p.2))
  let bs := (before.filter (fun p => coreAt p.1 == some id)).map (fun p => (p.1 - aCore id, p.2))
  touchAll id (qs.map (fun p => (p.1, p.2.1.length, true, 4))) (modCore s id (fun c => bufCover bs c qs))

/-- Pieces written at local places, covering what they cover together with the clean bytes that the operation wrote before (R432). -/
def ceCover (before : List (Nat × Nat)) (s : State) (hint : Nat) (ps : List (Nat × List Byte × Bool)) : State :=
  ((ps.filterMap (fun p => coreAt p.1)).dedup).foldl (fun s id => ceBufPut before ps id s)
    (memCover hint (before.filter (fun p => (coreAt p.1).isNone)) (ps.filter (fun p => (coreAt p.1).isNone)) s)

/-- The same for pieces that are all the writes of their operation. -/
def cePut (s : State) (hint : Nat) (ps : List (Nat × List Byte × Bool)) : State := ceCover [] s hint ps

/-! ### Data of an operation -/

/-- Put bytes with their flags at a place of the operation's source. -/
def opData (o : CeOp) (key : Nat) (bs : List Byte) (bad : List Bool) : CeOp :=
  { o with data := memWrites o.data key bs
           dataBad := if bad.any id || !o.dataBad.isEmpty then smPut false o.dataBad key bad else o.dataBad }

/-- The bytes of a piece's source as the operation holds them. -/
def opBytes (o : CeOp) (key n : Nat) : RowBytes :=
  ⟨memReads o.data key n, if o.dataBad.isEmpty then List.replicate n false else smRange false o.dataBad key n⟩

/-- One operation of an engine changed. -/
def modOp (s : State) (k uid : Nat) (f : CeOp → CeOp) : State :=
  let e := getCe s k
  setCe s k { e with ops := e.ops.map (fun o => if o.uid = uid then f o else o) }

/-- An operation by its number. -/
def getOp (s : State) (k uid : Nat) : Option CeOp := (getCe s k).ops.find? (fun o => o.uid = uid)

/-- No core keeps overwritten bytes for an operation any longer (R249). -/
def readersOff (s : State) (uid : Nat) : State :=
  { s with cores := s.cores.map (fun p => if p.2.readers.any (fun r => r.uid == uid) then
      (p.1, { p.2 with readers := p.2.readers.filter (fun r => r.uid != uid) }) else p) }

/-- An operation leaves its engine. -/
def ceDrop (s : State) (k uid : Nat) : State :=
  let e := getCe s k
  readersOff (setCe s k { e with ops := e.ops.filter (fun o => o.uid != uid) }) uid

/-- The owner of an operation's packets. -/
def isOwner (k uid : Nat) (o : Owner) : Bool := match o with | .ce j u _ => j == k && u == uid | .col j u => j == k && u == uid | _ => false

/-! ### Conversion (R364, R365, R432) -/

/-- The values of n elements from their bytes, with poison by element. -/
def ceVals (fmt n : Nat) (rb : RowBytes) : RowVals :=
  let eb := elemBytes fmt n
  let bad := if !(rb.bad.any id) then List.replicate n false
    else (List.range n).map (fun e => spanBad rb.bad (elemSpan fmt 0 e) || (fmtIsMx fmt && spanBad rb.bad (eb + e / 32, eb + e / 32 + 1)))
  if fmt = 13 then
    let sl := (List.range n).map (fun e => slotNat (slotOf (fieldAt rb.bytes (16 * e) 16)))
    ⟨sl.map (fun x => slotNum (slotOf x)), sl, bad⟩
  else ⟨rowVals fmt n rb.bytes, [], bad⟩

/-- The destination bytes of a piece. -/
def pieceOut (s : State) (p : Plan) (q : Piece) (rb : RowBytes) : RowBytes :=
  if p.srcFmt = p.dstFmt ∧ p.srcFmt = 11 then rb
  else codesBytes p.dstFmt false q.n
    (convRow p.dstFmt p.rnd false (ceVals p.srcFmt q.n rb) (q.idx.flatMap (fun r => dWords s s.seq.step.toNat p.tid r.1 0 p.rnd 0 r.2)))

/-- A piece of destination bytes restricted to a fragment: offset in the piece, bytes. -/
def cutFrag (f g : Nat) (q : Piece) (rb : RowBytes) : Nat × RowBytes :=
  let lo := max q.flat (g * f) - q.flat
  let hi := min (q.flat + q.dn) ((g + 1) * f) - q.flat
  (lo, ⟨(rb.bytes.drop lo).take (hi - lo), (rb.bad.drop lo).take (hi - lo)⟩)

/-- The parts of a piece that fall into the fragments of a mask: fragment, offset, bytes. -/
def pieceCuts (f : Nat) (m : BitVec 64) (q : Piece) (rb : RowBytes) : List (Nat × Nat × RowBytes) :=
  ((pieceFrags f q).filter (fun g => m.getLsbD g)).map (fun g => let c := cutFrag f g q rb; (g, c.1, c.2))

/-! ### A run -/

/-- Read the local source of a piece into the operation, or ask another module for it; a run that cannot be made is skipped. The read of lines
in a no-prefetch granule waits for the end of the run (R299, R366). How far ahead of its writes an engine reads is timing (log entry 134). -/
def readPiece (k uid : Nat) (ctx : BitVec 14) (p : Plan) (q : Piece) (s : State) : State :=
  if !pieceOk s q then s
  else
    match q.src with
    | .here a =>
      let s1 := ceTouchPart false s a q.sn p.hint
      modOp s1 k uid (fun o => opData o q.key (ceBytes s1 a q.sn) (ceFlags s1 a q.sn))
    | .there dev a => fabReads p.cls dev ctx p.counted (.ce k uid (q.flat / planFrag p)) 0 (pktSteps q.sn) a q.sn q.key s
    | .bad _ => s

/-- The reads of a list of pieces. -/
def readPieces (k uid : Nat) (ctx : BitVec 14) (p : Plan) : List Piece → State → State
  | [], s => s
  | q :: qs, s => readPieces k uid ctx p qs (readPiece k uid ctx p q s)

/-- Send the cuts of one piece to another module. -/
def sendCuts (k uid : Nat) (ctx : BitVec 14) (p : Plan) (dev : BitVec 14) (a : Nat) : List (Nat × Nat × RowBytes) → State → State
  | [], s => s
  | (g, off, rb) :: l, s =>
    sendCuts k uid ctx p dev a l
      (fabWrites p.cls dev ctx p.counted (.ce k uid g) (pktSteps rb.bytes.length) (a + off) rb.bytes rb.bad s)

/-- Send the fragments of a mask, piece by piece (R326). -/
def sendPieces (k uid : Nat) (ctx : BitVec 14) (p : Plan) (m : BitVec 64) : List Piece → State → State
  | [], s => s
  | q :: qs, s =>
    match q.dst, getOp s k uid with
    | .there dev a, some o =>
      sendPieces k uid ctx p m qs (sendCuts k uid ctx p dev a (pieceCuts (planFrag p) m q (pieceOut s p q (opBytes o q.key q.sn))) s)
    | _, _ => sendPieces k uid ctx p m qs s

/-- Whether the destination is another module. -/
def planFar (p : Plan) : Bool := p.pieces.any (fun q => match q.dst with | .there _ _ => true | _ => false)

/-- The envelope of a guarded local source (R276): first to one past the last source byte. -/
def planEnvelope (p : Plan) : Option (Nat × Nat) :=
  if !p.guard then none
  else
    let l := p.pieces.filterMap (fun q => match q.src with | .here a => some (a, a + q.sn) | _ => none)
    match l with
    | [] => none
    | x :: xs => some (xs.foldl (fun m y => (min m.1 y.1, max m.2 y.2)) x)

/-- Whether the slots an operation needs are free. -/
def planSlots (s : State) (p : Plan) : Bool := match planEnvelope p with | some (lo, hi) => slotsFree s lo hi | none => true

/-- Arm an operation's slots. -/
def planArm (s : State) (k uid : Nat) (p : Plan) : State :=
  match planEnvelope p with | some (lo, hi) => armWatch s (.ce k uid) lo hi | none => s

/-- The local sources of pieces. -/
def localRuns (ps : List Piece) : List (Nat × Nat) := ps.filterMap (fun q => match q.src with | .here a => some (a, q.sn) | _ => none)

/-- Whether some line of a local source lies in a no-prefetch granule. -/
def pieceLate (s : State) (q : Piece) : Bool :=
  match q.src with
  | .here a => (match placeOf a with | .core _ _ => false | _ => (linesOf a q.sn).any (fun l => wtNopf s (l * 64)))
  | _ => false

/-- The cores whose buffers an operation reads keep what is overwritten until it ends (R249). -/
def readersOn (s : State) (uid : Nat) (ps : List Piece) : State :=
  (((localRuns ps).filterMap (fun r => coreAt r.1)).dedup).foldl (fun s id =>
    modCore s id (fun c => { c with readers := c.readers.filter (fun r => r.uid != uid) ++ [⟨uid, []⟩] })) s

/-- Whether every line a local source needs has come from its controller. -/
def opReadsIn (s : State) (p : Plan) : Bool :=
  p.pieces.all (fun q => match q.src with
    | .here a => placeOf a != .gddr || (linesOf a q.sn).all (fun l => !mcPending s l)
    | _ => true)

/-- Begin a run of the fragments in `todo` (R359, R368): those that cannot run fail, the others' bytes are read or asked for, and those of
another module's destination are sent, at once when every line is at hand, else at the end of the reading. A guarded copy sends once its
reading has ended untorn. -/
def ceBegin (s : State) (k : Nat) (o : CeOp) (p : Plan) (todo fail : BitVec 64) : State :=
  let bad := planBad s p todo
  let live := todo &&& ~~~bad
  let mine := p.pieces.filter (pieceIn (planFrag p) live)
  let s1 := meetSpans (ceRefuseGo (srcCe k) p (maskList bad) s) (localRuns mine)
  let s2 := modOp (readersOn s1 o.uid mine) k o.uid (fun o => { o with
    started := true, todo := todo, failed := false, failMask := 0, asked := !planFar p, was := [], late := false, torn := false
    fails := (fail ||| bad) &&& todo })
  let s3 := readPieces k o.uid o.ctx p mine s2
  if planFar p && !p.guard && opReadsIn s3 p && !mine.any (pieceLate s3) then
    modOp (sendPieces k o.uid o.ctx p (live &&& ~~~fail) p.pieces s3) k o.uid (fun o => { o with asked := true })
  else s3

/-! ### The end of a run -/

/-- The reads of a run that waited for its end: those in no-prefetch granules (R299). -/
def lateReads (s : State) (p : Plan) (m : BitVec 64) : State :=
  let ps := (p.pieces.filter (pieceIn (planFrag p) m)).filter (fun q => pieceOk s q && pieceLate s q)
  (localRuns ps).foldl (fun s r => ceTouchPart true s r.1 r.2 p.hint) s

/-- They are made once in a run; the bytes are those that the lines hold then. -/
def ceLate (s : State) (k : Nat) (o : CeOp) (p : Plan) : State :=
  let ps := (p.pieces.filter (pieceIn (planFrag p) o.todo)).filter (fun q => pieceOk s q && pieceLate s q)
  if o.late || ps.isEmpty then s
  else
    let s1 := lateReads s p o.todo
    let nopf (x : Nat) : Bool := wtNopf s1 x
    modOp s1 k o.uid (fun o =>
      let o1 := ps.foldl (fun o q => match q.src with
        | .here a =>
          let old := opBytes o q.key q.sn
          opData o q.key (((ceBytes s1 a q.sn).zipIdx).map (fun b => if nopf (a + b.2) then b.1 else old.bytes.getD b.2 b.1))
            ((old.bad.zip (ceFlags s1 a q.sn)).map (fun b => b.1 || b.2))
        | _ => o) o
      { o1 with late := true, was := o.was.filter (fun w => !nopf w.1) })

/-- The poison that came with the lines of a run's local sources is the operation's (R305, R432). -/
def ceFlagsIn (s : State) (k : Nat) (o : CeOp) (p : Plan) : State :=
  let ps := p.pieces.filter (fun q => pieceIn (planFrag p) o.todo q && (match q.src with | .here a => (ceFlags s a q.sn).any id | _ => false))
  modOp s k o.uid (fun o => ps.foldl (fun o q => match q.src with
    | .here a => let old := opBytes o q.key q.sn; opData o q.key old.bytes ((old.bad.zip (ceFlags s a q.sn)).map (fun b => b.1 || b.2))
    | _ => o) o)

/-- Bytes overwritten in a local source since an operation's reads began: address and byte (R249, R279). -/
def pieceWas (s : State) (o : CeOp) (a : Nat) : List (Nat × Byte) :=
  match placeOf a with
  | .core id off => ((getCore s id).readers.filter (fun r => r.uid == o.uid)).flatMap (fun r => r.was.map (fun w => (a - off + w.1, w.2)))
  | _ => o.was

/-- The bytes of a piece at the end: a local source is read between its start and now, each byte some value it held (R249, R279). -/
def pieceNow (s : State) (ctr : Nat) (o : CeOp) (q : Piece) : RowBytes :=
  let old := opBytes o q.key q.sn
  match q.src with
  | .here a =>
    let was := pieceWas s o a
    let mid (i : Nat) : List Byte := if was.isEmpty then [] else (was.filter (fun w => w.1 == a + i)).map Prod.snd
    ⟨((ceBytes s a q.sn).zipIdx).map (fun b =>
       pickOf ctr (q.key + b.2) b.1 (((old.bytes.getD b.2 b.1 :: mid b.2).filter (fun x => x != b.1)).dedup)),
     (old.bad.zip (ceFlags s a q.sn)).map (fun p => p.1 || p.2)⟩
  | _ => old

/-- The local writes of the fragments in a mask. -/
def pieceWrites (s : State) (ctr : Nat) (settled : Bool) (o : CeOp) (p : Plan) (m : BitVec 64) : List (Nat × List Byte × Bool) :=
  p.pieces.flatMap (fun q =>
    match q.dst with
    | .here a =>
      if pieceIn (planFrag p) m q then
        let rb := pieceOut s p q (if settled then opBytes o q.key q.sn else pieceNow s ctr o q)
        (pieceCuts (planFrag p) m q rb).flatMap (fun c => rowPieces (a + c.2.1) c.2.2)
      else []
    | _ => [])

/-- Destination bytes of the fragments in a mask. -/
def maskBytes (p : Plan) (m : BitVec 64) : Nat :=
  (maskList m).foldl (fun n g => n + (min (planSize p) ((g + 1) * planFrag p) - g * planFrag p)) 0

/-- Bytes of the fragments before the first of a mask. -/
def prefixBytes (p : Plan) (m : BitVec 64) : Nat :=
  match maskList m with
  | g :: _ => min (planSize p) (g * planFrag p)
  | [] => planSize p

/-- Counted bytes of the module's own stream land in order (R231): those before the first failed fragment. -/
def landOwn (s : State) (k : Nat) (o : CeOp) (p : Plan) (lost : BitVec 64) : State :=
  if !p.counted || planFar p then s
  else
    let n := prefixBytes p lost
    let key := tallyKey (devId s) o.ctx
    let t := smGet 0 s.sync.tally key
    let s1 := { s with sync := { s.sync with tally := smSet 0 s.sync.tally key (t + BitVec.ofNat 48 (n - o.landed)) } }
    modOp (pairFree (pairHold s1 (devId s) o.ctx (n - o.landed)) (devId s) o.ctx) k o.uid (fun o => { o with landed := n })

/-- Whether the module's own landing tallies have no entry for a counted copy's stream (R235). -/
def ownFull (s : State) (o : CeOp) (p : Plan) : Bool :=
  p.counted && !planFar p && !(s.sync.pairs.map (fun t => t.1)).contains (tallyKey (devId s) o.ctx) && decide (s.sync.pairs.length ≥ 8192)

/-- Fragments whose pieces another failed fragment's read leaves without data. -/
def failSpread (p : Plan) (m : BitVec 64) : BitVec 64 :=
  let f := planFrag p
  p.pieces.foldl (fun b q => match q.src with
    | .there _ _ => if m.getLsbD (q.flat / f) then (pieceFrags f q).foldl (fun b g => b ||| BitVec.ofNat 64 (2 ^ (g % 64))) b else b
    | _ => b) m

/-- An operation fails (R391): it keeps its fragments, its slots are free, the code is recorded. -/
def ceFail (s : State) (k : Nat) (o : CeOp) (mask : BitVec 64) (code : Word16) : State :=
  let s1 := modOp s k o.uid (fun o => { o with failed := true, failMask := mask, todo := mask, code := code, fails := 0, torn := false, reread := false })
  contained (retryArms (freeWatch s1 (.ce k o.uid))) (srcCe k) code (openPay code (srcCe k))

/-- Pieces that the fragments of a mask move: none of their fragments is lost (R381, R395). -/
def piecesMoved (p : Plan) (ok lost : BitVec 64) : Nat :=
  (p.pieces.filter (fun q => pieceIn (planFrag p) ok q && !pieceIn (planFrag p) lost q)).length

/-- Move what can be moved at the end of a run, and fail what must. Answers whether every fragment has succeeded. -/
def ceMove (s : State) (k : Nat) (o : CeOp) (p : Plan) (settled : Bool) (lost : BitVec 64) (code : Word16) : State × Bool :=
  let (ctr, s0) := draw s
  let ok := o.todo &&& ~~~lost
  let ps := if planFar p then [] else pieceWrites s0 ctr settled o p ok
  let s1 := ceCover o.cover s0 p.hint ps
  let s2 := landOwn (bump (if o.kind = .col then bump s1 (aCePieces k) (piecesMoved p ok lost) else s1) (aCeBytes k) (maskBytes p ok)) k o p lost
  if lost = 0 then (retryArms (freeWatch s2 (.ce k o.uid)), true)
  else
    let (c2, s3) := draw s2
    let part := pieceWrites s3 c2 settled o p lost
    let okPart := part.filter (fun x => ceOk s3 (.here x.1) x.2.1.length true)
    let mixed := if code = cCopyTorn then mixPieces c2 okPart else []
    let s4 := ceCover (o.cover ++ cleanRuns ps) s3 p.hint mixed
    (ceFail (modOp s4 k o.uid (fun o => { o with cover := o.cover ++ cleanRuns (ps ++ mixed) })) k o lost code, false)

/-- The end of a run whose packets and lines are at hand. -/
def ceSettle (s0 : State) (k : Nat) (o0 : CeOp) (p : Plan) : State × Option Bool :=
  let s := if p.guard || planFar p then ceFlagsIn s0 k o0 p else s0
  let o := (getOp s k o0.uid).getD o0
  if o.aborting then
    if o.fails &&& o.todo = 0 then (landOwn (retryArms (freeWatch s (.ce k o.uid))) k o p 0, some true)
    else (modOp (ceFail s k o (o.fails &&& o.todo) o.code) k o.uid (fun o => { o with aborting := false, afail := true }), some false)
  else if p.guard && (o.torn || watchTorn s (.ce k o.uid)) then
    if p.tornfault || o.reread then
      let (ctr, s1) := draw s
      let m := tornMask ctr o.todo ||| o.fails
      let (s2, ok) := ceMove s1 k o p true m cCopyTorn
      (s2, some ok)
    else
      let s1 := planArm (freeWatch s (.ce k o.uid)) k o.uid p
      (modOp (ceBegin s1 k o p o.todo o.fails) k o.uid (fun o => { o with reread := true }), none)
  else if planFar p && !o.asked then
    let s1 := modOp (retryArms (freeWatch s (.ce k o.uid))) k o.uid (fun o => { o with asked := true })
    (sendPieces k o.uid o.ctx p (o.todo &&& ~~~o.fails) p.pieces s1, none)
  else
    let lost := failSpread p o.fails &&& o.todo
    let (s1, ok) := ceMove s k o p false lost cCopyFragment
    (s1, some ok)

/-- The end of a copy's run: none while it must go on (packets, lines, a tally entry or a re-reading are due), else the state and whether it
has succeeded (R235, R271, R278, R367, R391). -/
def ceFinish (s : State) (k : Nat) (o : CeOp) (p : Plan) : State × Option Bool :=
  if ownerBusy s (isOwner k o.uid) || !opReadsIn s p || ownFull s o p then (s, none)
  else
    let s1 := if o.aborting then s else ceLate s k o p
    match getOp s1 k o.uid with
    | some o1 => if opReadsIn s1 p then ceSettle s1 k o1 p else (s1, none)
    | none => (s1, none)

/-- Send poisoned bytes to the destination of failed fragments: device, fragment, address, count, and whether they are still to be counted. What
bytes such a packet carries is free. -/
def sendPoison (k uid : Nat) (ctx : BitVec 14) (p : Plan) : List (BitVec 14 × Nat × Nat × Nat × Bool) → State → State
  | [], s => s
  | (dev, g, a, n, due) :: l, s =>
    let (ctr, s1) := draw s
    sendPoison k uid ctx p l (fabWrites p.cls dev ctx due (.ce k uid g) (pktSteps n) a (freeBytes ctr n) (List.replicate n true) s1)

/-- Poison the destination of failed fragments: local units, or packets, those that were lost sent again as poisoned (R391). Bytes that were
numbered once are not counted again (R231). -/
def ceAbortWrites (s : State) (k : Nat) (o : CeOp) (p : Plan) (unsent : BitVec 64) : State :=
  let m := o.failMask
  let f := planFrag p
  let cuts := p.pieces.flatMap (fun q => (pieceCuts f m q ⟨List.replicate q.dn 0, List.replicate q.dn true⟩).map (fun c => (q.dst, c.2.1, c.2.2.bytes.length)))
  let here := cuts.filterMap (fun c => match c.1 with | .here a => some (a + c.2.1, c.2.2) | _ => none)
  let s1 := here.foldl (fun s r =>
    match placeOf r.1 with
    | .core id off => modCore s id (poisonBuf [(off, r.2)])
    | _ => poisonMem (linesOf r.1 r.2) s) s
  let s2 := { s1 with fab := { s1.fab with
      tx := s1.fab.tx.map (fun t => (t.1, { t.2 with lost := t.2.lost.map (fun q =>
        if isOwner k o.uid q.owner && q.pkt.typ == 1 then
          { q with pkt := { q.pkt with maskValid := true, spec := BitVec.ofNat 64 (2 ^ ceilDiv q.pkt.len.toNat 64 - 1) } } else q) }))
      reads := s1.fab.reads.filter (fun r => !isOwner k o.uid r.owner) } }
  let far := p.pieces.flatMap (fun q => match q.dst with
    | .there d a => (pieceCuts f m q ⟨List.replicate q.dn 0, List.replicate q.dn true⟩).map (fun c =>
        (d, c.1, a + c.2.1, c.2.2.bytes.length, p.counted && unsent.getLsbD c.1))
    | _ => [])
  sendPoison k o.uid o.ctx p far (txAgain (isOwner k o.uid) s2.fab.tx s2)

/-- Whether the destination of every failed fragment can be written (R391). -/
def abortOk (s : State) (o : CeOp) (p : Plan) : Bool :=
  p.pieces.all (fun q => !pieceIn (planFrag p) o.failMask q || ceOk s q.dst q.dn true)

/-- The destination ranges of a copy overlap those of an earlier one (R359). -/
def plansMeet (a b : Plan) : Bool :=
  a.pieces.any (fun x => b.pieces.any (fun y =>
    match x.dst, y.dst with
    | .here p, .here q => rangesMeet (p, x.dn) (q, y.dn)
    | .there d p, .there e q => d == e && rangesMeet (p, x.dn) (q, y.dn)
    | _, _ => false))

end Sys2Proof.Machine
end

