-- ==== Sys2Proof/Machine/CeCol.lean ====
section
/-! DEFINITION. Collectives (12 R369 to R390): the group, arrive and done words, the reductions, the steps of every algorithm, buckets and
the canonical order, and the layout maps of a re-shard (R352 to R357, R380, R381). -/

namespace Sys2Proof.Machine

/-- Codes of R394. -/
def cLayoutForm : Word16 := 0x7001
def cColForm : Word16 := 0x7002
def cColMemberLost : Word16 := 0x7003
def cColCanonGap : Word16 := 0x7004
def cReshardHole : Word16 := 0x7005
def cNonfiniteLocal : Word16 := 0x7010
def cStepSkipped : Word16 := 0x7011
def cColTallyRange : Word16 := 0x7012

/-! ### Reading tables -/

/-- What an engine's read of a table gives: its bytes, a refusal, or a poisoned unit (R433). -/
inductive TabRead where
  | ok (bs : List Byte)
  | refused (a place : Nat)
  | poison (a : Nat)
  deriving DecidableEq, Repr

/-- Read local bytes for an engine. -/
def tabRead (s : State) (a n : Nat) : TabRead :=
  match ceRefused s (.here a) n false with
  | some (g, p) => .refused g p
  | none =>
    let fl := ceFlags s a n
    if fl.any id then .poison ((a + fl.idxOf true) / 64 * 64) else .ok (ceBytes s a n)

/-- The bytes a table read gives, none when it fails. -/
def tabBytes (t : TabRead) : List Byte := match t with | .ok bs => bs | _ => []

/-! ### The group (R371, R373) -/

/-- A group table's members in rank order. -/
def groupRanks (s : State) (d : List Byte) : List (BitVec 14) :=
  let a := cGroup d
  let g := fieldAt (tabBytes (tabRead s a 8)) 0 2
  let bs := tabBytes (tabRead s (a + 8) (2 * g))
  if bs.isEmpty then [] else (List.range g).map (fun i => BitVec.ofNat 14 (fieldAt bs (2 * i) 2))

/-- Whether a group table is refused (R371). -/
def groupBad (s : State) (d : List Byte) : Bool :=
  let a := cGroup d
  let h := tabBytes (tabRead s a 8)
  let g := fieldAt h 0 2
  let bs := tabBytes (tabRead s (a + 8) (2 * g))
  let ids := (List.range g).map (fun i => fieldAt bs (2 * i) 2)
  g == 0 || decide (g > 16383) || (slice h 2 6).any (fun b => b != 0)
  || ids.any (fun x => decide (x ≥ 2 ^ 14) || x == 0x3FFF || !(liveMembers s).contains (BitVec.ofNat 14 x))
  || decide (ids.dedup.length ≠ g) || !ids.contains (devId s).toNat

/-- A collective as its meanings use it: the descriptor with the bucket's entry applied (R382). -/
structure Col where
  k : Nat
  uid : Nat
  ctx : BitVec 14
  d : List Byte
  ranks : List (BitVec 14)
  me : Nat
  n : Nat
  inA : Nat
  outA : Nat
  deriving DecidableEq, Repr

/-- The entry of the bucket a collective names. -/
def bucketEntry (s : State) (d : List Byte) : List Byte := ceBytes s (cTable d + 64 + 32 * cBucketIdx d) 32

/-- A collective from its operation. When the engine reads the tables the spec does not say: the model reads the group table, the bucket's entry and the
layout maps again at every step and at the release, without counting it as accesses. DESIGN CHOICE, log entry 132. -/
def colOf (s : State) (k : Nat) (o : CeOp) : Col :=
  let d := o.desc
  let rs := groupRanks s d
  let e := if cBucket d then bucketEntry s d else []
  ⟨k, o.uid, o.ctx, d, rs, rs.idxOf (devId s), if cBucket d then fieldAt e 16 4 else cCount d,
   if cBucket d then fieldAt e 0 8 % 2 ^ 46 else cInput d, if cBucket d then fieldAt e 8 8 % 2 ^ 46 else cOutput d⟩

/-- Members of the group. -/
def Col.g (c : Col) : Nat := c.ranks.length

/-- Every rank but the own one. -/
def colPeers (c : Col) : List Nat := (List.range c.g).filter (fun i => i != c.me)

/-- Own range of a rank: first element and one past the last (R373). -/
def colRange (c : Col) (i : Nat) : Nat × Nat :=
  let h := 4096 * ceilDiv c.n (4096 * max 1 c.g)
  (min (i * h) c.n, min ((i + 1) * h) c.n)

/-- Bytes of n elements of a format in memory (16 for a slot). -/
def memWidth (fmt n : Nat) : Nat := elemBytes fmt n

/-- Wire width of an element in staging (R370). -/
def wireWidth (fmt : Nat) : Nat := if fmt = 13 then 12 else fmtBits fmt / 8

/-- Staging bytes of an element range. -/
def stageAt (c : Col) (i : Nat) : Nat := cStaging c.d + i * wireWidth (cFmt c.d)

/-! ### Arrive and done words (R374, R377) -/

/-- Write a u64 at a local address of a member, on the operation's stream context. -/
def colWord (c : Col) (i a v : Nat) (s : State) : State :=
  if i = c.me then cePut s 0 [(a, leBytes 8 v, false)]
  else fabWrites (cClass c.d) (c.ranks.getD i 0) c.ctx false (.col c.k c.uid) 2 a (leBytes 8 v) (List.replicate 8 false) s

/-- Write arrive (e, step) into the own slot of members. -/
def sendArrive (c : Col) (step : Nat) (who : List Nat) (s : State) : State :=
  who.foldl (fun s i => colWord c i (cFlags c.d + 16 * c.me) (cEpoch c.d * 65536 + step) s) s

/-- Write done e into the own slot of every member. -/
def sendDone (c : Col) (s : State) : State :=
  (List.range c.g).foldl (fun s i => colWord c i (cFlags c.d + 16 * c.me + 8) (cEpoch c.d) s) s

/-- Whether member i has arrived at a step. -/
def arrived (s : State) (c : Col) (i step : Nat) : Bool :=
  decide (cEpoch c.d * 65536 + step ≤ fieldAt (ceBytes s (cFlags c.d + 16 * i) 8) 0 8)

/-- A member's flag words that are poisoned are consumed at the wait (R433): the address of the first. -/
def flagPoison (s : State) (c : Col) : Option Nat :=
  let a := cFlags c.d
  let fl := ceFlags s a (16 * c.g)
  if fl.any id then some (a + fl.idxOf true) else none

/-- Whether every member is done (R377). -/
def allDone (s : State) (c : Col) : Bool :=
  (List.range c.g).all (fun i => decide (cEpoch c.d ≤ fieldAt (ceBytes s (cFlags c.d + 16 * i + 8) 8) 0 8))

/-! ### Reduction arithmetic (R378) -/

/-- Two elements combined, as codes of the wire. -/
def redAdd (fmt a b : Nat) : Nat :=
  if fmt = 13 then exchAdd a b
  else if fmt = 0 then toF32 (numAdd (ofF32 a) (ofF32 b))
  else encodeElem 1 (rnd32 (numAdd (decodeElem 1 a) (decodeElem 1 b))) 0 0

/-- The elements of staging bytes. -/
def wireElems (fmt n : Nat) (bs : List Byte) : List Nat :=
  let w := wireWidth fmt
  (List.range n).map (fun i => fieldAt bs (i * w) w)

/-- Staging bytes of elements. -/
def wireOf (fmt : Nat) (xs : List Nat) : List Byte := xs.flatMap (leBytes (wireWidth fmt))

/-- An element of the result converted once to the output format (R378, R166). -/
def outElem (fmt out rnd x : Nat) : Nat :=
  if fmt = 13 then (if out = 13 then slotNat (slotUnpack false x) else encodeElem out (slotNum (slotUnpack false x)) rnd 0)
  else encodeElem out (decodeElem fmt x) rnd 0

/-- Output bytes of elements. -/
def outBytes (c : Col) (xs : List Nat) : List Byte :=
  xs.flatMap (fun x => leBytes (fmtBits (cOutFmt c.d) / 8) (outElem (cFmt c.d) (cOutFmt c.d) (cRnd c.d) x))

/-- Bytes of an output element. -/
def outWidth (c : Col) : Nat := fmtBits (cOutFmt c.d) / 8

/-- Elements of several sources combined in the order given (R376). -/
def redAll (fmt : Nat) : List (List Nat) → List Nat
  | [] => []
  | x :: xs => xs.foldl (fun a b => (a.zip b).map (fun p => redAdd fmt p.1 p.2)) x

/-! ### The pack (R376, R379, R385) -/

/-- A slot that R385 calls flagged. -/
def slotFlagged (x : Slot96) : Bool := x.nan || x.pinf || x.ninf

/-- Local bytes that an engine reads: errors of their words are met, slices, ports and watchpoints see the reads. -/
def ceTouchAll (hint : Nat) (rs : List (Nat × Nat)) (s : State) : State :=
  rs.foldl (fun s r => if r.2 = 0 then s else ceTouch s r.1 r.2 hint) (meetSpans s rs)

/-- Whether lines of such bytes have still to come from their controllers (R305). -/
def runsPend (s : State) (rs : List (Nat × Nat)) : Bool :=
  rs.any (fun r => placeOf r.1 == .gddr && (linesOf r.1 r.2).any (mcPending s))

/-- The input packed into staging, with the events of R379 and R385. -/
def colPack (c : Col) (s : State) : State :=
  let fmt := cFmt c.d
  let w := memWidth fmt 1
  let bs := ceBytes s c.inA (memWidth fmt c.n)
  let fl := ceFlags s c.inA (memWidth fmt c.n)
  if fmt = 13 then
    let sl := (List.range c.n).map (fun i => slotOf (fieldAt bs (16 * i) 16))
    let out := sl.flatMap (fun x => leBytes 12 (slotPack x))
    let bad := if fl.any id then (List.range (12 * c.n)).map (fun i => spanBad fl (i / 12 * w, i / 12 * w + w)) else List.replicate (12 * c.n) false
    let s1 := cePut s (cHint c.d) (rowPieces (cStaging c.d) ⟨out, bad⟩)
    let rng := sl.findIdx? (fun x => x.range)
    let flg := sl.findIdx? slotFlagged
    let s2 := modOp s1 c.k c.uid (fun o => { o with rangeSeen := rng.isSome, flagSeen := flg.isSome })
    let s3 := match rng with | some i => record s2 kEvent (srcCe c.k) cColTallyRange i | none => s2
    match flg with
    | some i =>
      if cBucket c.d then
        let e := bucketEntry s c.d
        record s3 kEvent (srcCe c.k) cNonfiniteLocal (Config.packPayload cNonfiniteLocal [fieldAt e 20 4, fieldAt e 24 6 + i]).toNat
      else s3
    | none => s3
  else cePut s (cHint c.d) (rowPieces (cStaging c.d) ⟨bs, fl⟩)

/-! ### Chunk records and the canonical order (R386 to R390) -/

/-- The record of a chunk: partial and non-finite bit (R386, R388). -/
def chunkRecord (sq : Bool) (xs : List Num) : List Byte :=
  let p := toF32 (numSum (if sq then xs.map (fun x => numMul x x) else xs))
  leBytes 4 p ++ leBytes 1 (b2n (xs.any (fun x => numIsNan x || numIsInf x))) ++ zeros 3

/-- FP32 values of reduced Tally elements, with the flagged ones as they convert (R388). -/
def tallyF32 (xs : List Nat) : List Num := xs.map (fun x => ofF32 (toF32 (slotNum (slotUnpack false x))))

/-- Neighbouring nodes of the fixed tree combined (R389). -/
def treePairs : List Nat → List Nat
  | a :: b :: l => toF32 (numAdd (ofF32 a) (ofF32 b)) :: treePairs l
  | l => l

/-- The node that covers every chunk; the count bounds the levels. -/
def treeGo : Nat → List Nat → Nat
  | 0, l => l.headD 0
  | f + 1, l => if l.length ≤ 1 then l.headD 0 else treeGo f (treePairs l)

/-- The result of partials in chunk order. -/
def treeSum (l : List Nat) : Nat := treeGo (Nat.log2 l.length + 2) l

/-- Bucket count of a table, its record area, and the element counts of its buckets (R382). -/
def bktCount (s : State) (t : Nat) : Nat := fieldAt (ceBytes s t 2) 0 2
def bktArea (s : State) (t : Nat) : Nat := fieldAt (ceBytes s (t + 8) 8) 0 8 % 2 ^ 46
def bktN (s : State) (t b : Nat) : Nat := fieldAt (ceBytes s (t + 64 + 32 * b + 16) 4) 0 4

/-- Chunks before bucket b (R383). -/
def bktFirst (s : State) (t b : Nat) : Nat := (List.range b).foldl (fun n i => n + ceilDiv (bktN s t i) 4096) 0

/-- Chunks of a bucket's range: first chunk number in the table and count. -/
def rangeChunks (s : State) (c : Col) (i : Nat) : Nat × Nat :=
  let (lo, hi) := colRange c i
  (bktFirst s (cTable c.d) (cBucketIdx c.d) + lo / 4096, ceilDiv hi 4096 - lo / 4096)

/-- The start of a bucket collective at its table (R384): none when its epoch is below the header's. -/
def bucketStart (s : State) (c : Col) : Option State :=
  let t := cTable c.d
  let old := fieldAt (ceBytes s (t + 16) 6) 0 6
  if cEpoch c.d < old then none
  else if cEpoch c.d = old then some s
  else
    let total := bktFirst s t (bktCount s t)
    let s1 := setReg (setReg (cePut s 0 [(t + 16, leBytes 6 (cEpoch c.d) ++ zeros 12, false)]) aColResult 0) aColCount 0
    some (cePut s1 0 (if total = 0 then [] else [(bktArea s t, zeros (8 * total), false)]))

/-! ### Layout maps (R352 to R357) -/

/-- A dimension of a map. -/
structure Dim where
  n : Nat
  b : Nat
  p : Nat
  t : Nat
  deriving DecidableEq, Repr

/-- A layout map read whole. -/
structure LMap where
  k : Nat
  fmt : Nat
  rep : Nat
  places : Nat
  table : Nat
  dims : List Dim
  bad : Bool
  deriving DecidableEq, Repr

/-- Formats a map may carry (R356). -/
def mapFmts : List Nat := [0, 1, 2, 3, 4, 10, 11, 13, 14]

/-- A map from its 256 bytes, with the breaches of R352 to R356 that the bytes show. -/
def mapOf (a : Nat) (m : List Byte) : LMap :=
  let k := fieldAt m 0 1 % 8
  let fmt := fieldAt m 1 1 % 16
  let ent (d : Nat) : List Byte := slice m (64 + 32 * d) 32
  let dims := (List.range k).map (fun d => (⟨fieldAt (ent d) 0 8, fieldAt (ent d) 8 8, fieldAt (ent d) 16 2, fieldAt (ent d) 24 8⟩ : Dim))
  let es := fmtBits fmt / 8
  let rep := fieldAt m 2 2
  let places := fieldAt m 4 4
  let table := fieldAt m 8 8
  let prod := dims.foldl (fun x d => x * d.p) rep
  let bad := a % 64 != 0 || fieldAt m 0 1 / 8 != 0 || k == 0 || decide (k > 6) || fieldAt m 1 1 / 16 != 0 || !mapFmts.contains fmt
    || rep == 0 || decide (rep > 16384) || places != prod || decide (places > 65536) || decide (table ≥ 2 ^ 46) || table % 8 != 0
    || (slice m 16 48).any (fun b => b != 0)
    || (List.range k).any (fun d => (slice (ent d) 18 6).any (fun b => b != 0))
    || dims.any (fun d => d.n == 0 || decide (d.n ≥ 2 ^ 48) || d.b == 0 || decide (d.b > d.n) || d.p == 0 || decide (d.t ≥ 2 ^ 46)
        || d.t % max 1 es != 0)
    || decide (dims.foldl (fun x d => x * d.n) 1 > 2 ^ 48)
    || (List.range 6).any (fun d => decide (d ≥ k) && (ent d).any (fun b => b != 0))
  ⟨k, fmt, rep, places, table, dims, bad⟩

/-- A place entry (R355): none when absent, else device and base. -/
def placeEnt (v : Nat) : Option (BitVec 14 × Nat) :=
  if bitOf v 63 then none else some (BitVec.ofNat 14 (bitsOf v 59 46), v % 2 ^ 46)

/-- The place entries of a map. -/
def placesOf (s : State) (m : LMap) : List Nat :=
  let bs := ceBytes s m.table (8 * m.places)
  (List.range m.places).map (fun q => fieldAt bs (8 * q) 8)

/-- Breaches that a place entry shows (R355, R356). -/
def placeBad (s : State) (v : Nat) : Bool :=
  bitsOf v 62 60 != 0
  || (match placeEnt v with
      | none => false
      | some (d, b) => d == 0x3FFF || !(liveMembers s).contains d
          || (d != devId s && (match placeOf b with | .core _ _ => true | _ => false)))

/-- The place number and byte offset of an element's local part in replica r (R354). -/
def mapPlace (m : LMap) (r g : Nat) : Nat × Nat :=
  let step := m.dims.foldl (fun (x : Nat × Nat × Nat × Nat) d =>
    let (g, q, w, off) := x
    let i := g % d.n
    (g / d.n, q + i / d.b % d.p * w, w * d.p, off + (i / (d.b * d.p) * d.b + i % d.b) * d.t)) (g, 0, 1, 0)
  let (_, q, w, off) := step
  (r * w + q, off)

/-- Elements of the tensor. -/
def mapSize (m : LMap) : Nat := m.dims.foldl (fun x d => x * d.n) 1

/-- The source of an element, as place, device and address (R380): the own module's lowest replica, else the first present one in cyclic order from the destination
place's number. -/
def srcOf (me : BitVec 14) (m : LMap) (ps : List Nat) (qdst g : Nat) : Option (Nat × BitVec 14 × Nat) :=
  let at_ (r : Nat) : Option (Nat × BitVec 14 × Nat) :=
    let (q, off) := mapPlace m r g
    (placeEnt (ps.getD q (2 ^ 63))).map (fun p => (q, p.1, p.2 + off))
  ((List.range m.rep).findSome? (fun r => (at_ r).bind (fun p => if p.2.1 = me then some p else none))).orElse
    (fun _ => (List.range m.rep).findSome? (fun i => at_ ((qdst + i) % m.rep)))

/-- One element to move: index, source place, destination address. -/
structure Move where
  g : Nat
  src : Option (Nat × BitVec 14 × Nat)
  dst : Nat
  deriving DecidableEq, Repr

/-- Every element this member fills, in order (R380, R381). -/
def reshardMoves (s : State) (a b : LMap) : List Move :=
  let me := devId s
  let ps := placesOf s a
  let qs := placesOf s b
  (List.range b.places).flatMap (fun q =>
    match placeEnt (qs.getD q (2 ^ 63)) with
    | some (d, base) =>
      if d = me then
        let r := q / max 1 (b.places / max 1 b.rep)
        (List.range (mapSize b)).filterMap (fun g =>
          let (q2, off) := mapPlace b r g
          if q2 = q then some ⟨g, srcOf me a ps q g, base + off⟩ else none)
      else []
    | none => [])

/-- Elements grouped into pieces (R381): consecutive in order, with contiguous source and destination bytes and one source place. -/
def groupMoves (me : BitVec 14) (ss ds : Nat) : List Move → Nat → List Piece
  | [], _ => []
  | m :: l, i =>
    let src : Where := match m.src with | some (_, d, a) => if d = me then .here a else .there d a | none => .bad 0
    let same := match l with | x :: _ => x.src.map Prod.fst == m.src.map Prod.fst | [] => false
    match groupMoves me ss ds l (i + 1) with
    | p :: ps =>
      let joins := match p.src, src with
        | .here x, .here y => x == y + ss
        | .there d x, .there e y => d == e && x == y + ss
        | _, _ => false
      let idx := match p.idx with
        | (f, n) :: r => if f = m.g + 1 then (m.g, n + 1) :: r else (m.g, 1) :: (f, n) :: r
        | [] => [(m.g, 1)]
      if same && joins && p.dst == .here (m.dst + ds) then
        { p with src := src, sn := p.sn + ss, key := i * ss, dst := .here m.dst, dn := p.dn + ds, flat := i * ds, n := p.n + 1, idx := idx } :: ps
      else ⟨src, ss, i * ss, .here m.dst, ds, i * ds, 1, [(m.g, 1)]⟩ :: p :: ps
    | [] => [⟨src, ss, i * ss, .here m.dst, ds, i * ds, 1, [(m.g, 1)]⟩]

/-- The maps of a re-shard. -/
def reshardMaps (s : State) (d : List Byte) : LMap × LMap :=
  (mapOf (cInput d) (ceBytes s (cInput d) 256), mapOf (cOutput d) (ceBytes s (cOutput d) 256))

/-- A re-shard as a plan (R381). -/
def reshardPlan (s : State) (d : List Byte) : Plan :=
  let (a, b) := reshardMaps s d
  { pieces := groupMoves (devId s) (fmtBits a.fmt / 8) (fmtBits b.fmt / 8) (reshardMoves s a b) 0
    srcFmt := a.fmt, dstFmt := b.fmt, rnd := cRnd d, tid := cTid d, hint := cHint d, cls := cClass d
    guard := cGuard d, tornfault := cTornfault d, counted := false }

/-- Whether the maps are refused (R356, R380). A Tally destination needs a Tally source (R166 has no conversion into it; log entry 22). Which fault
maps of different counts or extents raise the spec does not say: LAYOUT_FORM is a DESIGN CHOICE, log entry 131. -/
def reshardBad (s : State) (d : List Byte) : Bool :=
  let (a, b) := reshardMaps s d
  a.bad || b.bad || a.k != b.k || decide (a.dims.map (fun x => x.n) ≠ b.dims.map (fun x => x.n)) || (b.fmt == 13 && a.fmt != 13)
  || (placesOf s a).any (placeBad s) || (placesOf s b).any (placeBad s)

/-- Whether some element has no source (R380). -/
def reshardHole (s : State) (d : List Byte) : Bool :=
  let (a, b) := reshardMaps s d
  (reshardMoves s a b).any (fun m => m.src.isNone)

/-! ### The steps (R376) -/

/-- The step number of a collective that has done its steps, and of a bucket that has committed; a step of R376 is at most 2 × 16,383. -/
def stepEnd : Nat := 2 ^ 30
def stepCommitted : Nat := 2 ^ 30 + 1

/-- What a step waits for: (rank, step) of arrive words; and what it reads: rank, address, bytes, place in the operation's data. -/
structure StepIn where
  waits : List (Nat × Nat)
  reads : List (Nat × Nat × Nat × Nat)
  deriving DecidableEq, Repr

/-- Rank before and after, in the ring. -/
def ringPrev (c : Col) : Nat := (c.me + c.g - 1) % max 1 c.g
def ringNext (c : Col) : Nat := (c.me + 1) % max 1 c.g

/-- Rank (me − x) mod G. -/
def ringBack (c : Col) (x : Nat) : Nat := (c.me + c.g * (x / max 1 c.g + 1) - x) % max 1 c.g

/-- Tree children and parent (R376). -/
def treeKids (c : Col) : List Nat := [2 * c.me + 1, 2 * c.me + 2].filter (fun i => decide (i < c.g))
def treeParent (c : Col) : Nat := (c.me - 1) / 2

/-- Output bytes of a range in the output of a member that holds all n elements. -/
def outRange (c : Col) (i : Nat) : Nat × Nat :=
  let (lo, hi) := colRange c i
  let w := if cOp c.d = 2 then fmtBits (cFmt c.d) / 8 else outWidth c
  (lo * w, (hi - lo) * w)

/-- Staging bytes of a range. -/
def stageRange (c : Col) (i : Nat) : Nat × Nat :=
  let (lo, hi) := colRange c i
  (stageAt c lo, (hi - lo) * wireWidth (cFmt c.d))

/-- What a step needs. -/
def stepIn (s : State) (c : Col) (step : Nat) (ranges : List (BitVec 48 × BitVec 48)) : StepIn :=
  let g := c.g
  let d := c.d
  let all (t : Nat) := (colPeers c).map (fun i => (i, t))
  let outOf (i : Nat) := let (o, n) := outRange c i; (o, n)
  match cOp d with
  | 2 =>
    if cAlg d = 0 then ⟨all 1, (colPeers c).map (fun i => (i, cInput d, (outOf i).2, (outOf i).1))⟩
    else let i := ringBack c step; ⟨[(ringPrev c, step - 1)], [(ringPrev c, cOutput d + (outOf i).1, (outOf i).2, (outOf i).1)]⟩
  | 4 => ⟨all 1, []⟩
  | 5 => ⟨all 1, (colPeers c).map (fun i =>
      let (f, n) := ranges.getD i (0, 0)
      (i, cStaging d + f.toNat / 4096 * 8, ceilDiv n.toNat 4096 * 8, f.toNat / 4096 * 8))⟩
  | _ =>
    if cBucket d && step == g then
      ⟨all g, (colPeers c).map (fun i => let (f, n) := rangeChunks s c i; (i, bktArea s (cTable d) + 8 * f, 8 * n, 8 * f))⟩
    else if cAlg d = 2 then
      if step = 1 then ⟨(treeKids c).map (fun i => (i, 1)),
          (treeKids c).map (fun i => (i, cStaging d, c.n * wireWidth (cFmt d), (i - 2 * c.me - 1) * (c.n * wireWidth (cFmt d))))⟩
      else ⟨[(treeParent c, 2)], [(treeParent c, c.outA, c.n * outWidth c, 0)]⟩
    else if cAlg d = 0 then
      if step = 1 then ⟨all 1, (colPeers c).map (fun i => let (a, n) := stageRange c c.me; (i, a, n, i * n))⟩
      else ⟨all g, (colPeers c).map (fun i => (i, c.outA + (outOf i).1, (outOf i).2, (outOf i).1))⟩
    else if step < g then let i := ringBack c (step + 1); let (a, n) := stageRange c i; ⟨[(ringPrev c, step - 1)], [(ringPrev c, a, n, 0)]⟩
    else let i := ringBack c (step - g); ⟨[(ringPrev c, step - 1)], [(ringPrev c, c.outA + (outOf i).1, (outOf i).2, (outOf i).1)]⟩

/-- Ask for the reads of a step. -/
def colAsk (c : Col) : List (Nat × Nat × Nat × Nat) → State → State
  | [], s => s
  | (i, a, n, key) :: l, s =>
    colAsk c l (if n = 0 then s else fabReads (cClass c.d) (c.ranks.getD i 0) c.ctx false (.col c.k c.uid) 0 (pktSteps n) a n key s)

/-- The global address of a member's byte. -/
def peerAddr (c : Col) (i a : Nat) : Nat := 2 ^ 63 + (c.ranks.getD i 0).toNat * 2 ^ 46 + a

/-- The first read of a step that the own table refuses (R297). -/
def colAskBad (s : State) (c : Col) (rs : List (Nat × Nat × Nat × Nat)) : Option Nat :=
  rs.findSome? (fun r => if r.2.2.1 != 0 && !remoteOk s r.2.1 r.2.2.1 false then some (peerAddr c r.1 r.2.1) else none)

/-- Bytes the operation holds, with the first poisoned one's place. -/
def heldData (o : CeOp) (key n : Nat) : RowBytes := opBytes o key n

/-- Poison met by an engine (R433, R434). -/
def cePoison (s : State) (k : Nat) (a : Nat) : State := poisonConsumed s noCore 0 (srcCe k) (a / 64 * 64) 7

/-- The first poisoned byte of a list of (address, bytes). -/
def firstBadOf : List (Nat × RowBytes) → Option Nat
  | [] => none
  | (a, rb) :: l => if rb.bad.any id then some (a + rb.bad.idxOf true) else firstBadOf l

/-- Own staging bytes of a range. -/
def ownStage (s : State) (c : Col) (i : Nat) : Nat × RowBytes :=
  let (a, n) := stageRange c i
  (a, ⟨ceBytes s a n, ceFlags s a n⟩)

/-- Go on with the next step, its reads not yet asked for. -/
def nextStep (c : Col) (step : Nat) (s : State) : State :=
  modOp s c.k c.uid (fun o => { o with step := step, asked := false, data := [], dataBad := [], stage := 0 })

/-- The last read is made: done words, and the end of the steps. -/
def endSteps (c : Col) (s : State) : State := nextStep c stepEnd (sendDone c s)

/-- The own range is reduced (R376, R386): into the output, then the records of a bucket, the second phase of an ALL_REDUCE, or the end. -/
def ownReduced (c : Col) (xs : List Nat) (s : State) : State :=
  let pos := if cOp c.d = 3 then (outRange c c.me).1 else 0
  let s1 := cePut s (cHint c.d) (if xs.isEmpty then [] else [(c.outA + pos, outBytes c xs, false)])
  if cBucket c.d then
    let (f, _) := rangeChunks s c c.me
    let recs := (chunks 4096 (tallyF32 xs)).flatMap (chunkRecord true)
    let s2 := cePut s1 0 (if recs.isEmpty then [] else [(bktArea s (cTable c.d) + 8 * f, recs, false)])
    let s3 := sendArrive c c.g (colPeers c) s2
    nextStep c c.g s3
  else if cOp c.d = 3 then
    if c.g ≤ 1 then endSteps c s1
    else if cAlg c.d = 0 then nextStep c c.g (sendArrive c c.g (colPeers c) s1)
    else nextStep c (c.g + 1) (sendArrive c c.g [ringNext c] s1)
  else endSteps c s1

/-- Write data that was read into the output as it is. -/
def copyOut (c : Col) (o : CeOp) (rs : List (Nat × Nat × Nat × Nat)) (s : State) : State :=
  rs.foldl (fun s r =>
    if r.2.2.1 = 0 then s else cePut s (cHint c.d) (rowPieces (c.outA + r.2.2.2) (heldData o r.2.2.2 r.2.2.1))) s

/-- Coverage of the canonical order's ranges (R390): every chunk once, ranges starting at chunk boundaries. -/
def canonOk (n : Nat) (rs : List (Nat × Nat)) : Bool :=
  let cs := rs.flatMap (fun r => (List.range (ceilDiv r.2 4096)).map (fun i => r.1 / 4096 + i))
  rs.all (fun r => r.2 == 0 || (r.1 % 4096 == 0 && (r.2 % 4096 == 0 || r.1 + r.2 == n)))
  && decide (cs.length = ceilDiv n 4096) && decide (cs.dedup.length = ceilDiv n 4096) && cs.all (fun i => decide (i < ceilDiv n 4096))

/-- What a step reads of the member's own memory: its records or the staging that it combines. -/
def stepLocal (c : Col) (step : Nat) : List (Nat × Nat) :=
  let n := c.n * wireWidth (cFmt c.d)
  match cOp c.d with
  | 2 => []
  | 4 => []
  | 5 => [(cStaging c.d, 8 * ceilDiv c.n 4096)]
  | _ =>
    if cAlg c.d = 2 then (if step = 1 then [(cStaging c.d, n)] else [])
    else if cAlg c.d = 0 then (if step = 1 then [stageRange c c.me] else [])
    else if step < c.g then [stageRange c (ringBack c (step + 1))] else []

/-- A step whose data is at hand. -/
def stepOut (s : State) (c : Col) (o : CeOp) (si : StepIn) : State :=
  let d := c.d
  let fmt := cFmt d
  let step := o.step
  let len (r : Nat × Nat) : Nat := r.2 / max 1 (wireWidth fmt)
  match cOp d with
  | 2 =>
    let s1 := copyOut c o si.reads s
    if cAlg d = 0 ∨ step + 1 ≥ c.g then endSteps c s1 else nextStep c (step + 1) (sendArrive c step [ringNext c] s1)
  | 4 => s
  | 5 =>
    let nC := ceilDiv c.n 4096
    let own := ceBytes s (cStaging d) (8 * nC)
    let mine : Nat × Nat := (fieldAt d 72 8 / 4096 * 8, ceilDiv (cOwnCount d) 4096 * 8)
    let all := si.reads.foldl (fun m r => memWrites m r.2.2.2 (heldData o r.2.2.2 r.2.2.1).bytes) (memWrites [] 0 own)
    match firstBadOf ((cStaging d + mine.1, ⟨[], ceFlags s (cStaging d + mine.1) mine.2⟩) ::
        si.reads.map (fun r => (cStaging d + r.2.2.2, heldData o r.2.2.2 r.2.2.1))) with
    | some a => cePoison s c.k a
    | none =>
      let v := treeSum ((List.range nC).map (fun i => leNat (memReads all (8 * i) 4)))
      endSteps c (cePut s (cHint d) [(c.outA, leBytes 4 v, false)])
  | _ =>
    if cBucket d && step == c.g then
      let area := bktArea s (cTable d)
      match firstBadOf (si.reads.map (fun r => (area + r.2.2.2, heldData o r.2.2.2 r.2.2.1))) with
      | some a => cePoison s c.k a
      | none => endSteps c (si.reads.foldl (fun s r =>
          if r.2.2.1 = 0 then s else cePut s 0 [(area + r.2.2.2, (heldData o r.2.2.2 r.2.2.1).bytes, false)]) s)
    else if cAlg d = 2 then
      if step = 1 then
        let n := c.n * wireWidth fmt
        let ins := (cStaging d, (⟨ceBytes s (cStaging d) n, ceFlags s (cStaging d) n⟩ : RowBytes)) ::
          si.reads.map (fun r => (cStaging d, heldData o r.2.2.2 r.2.2.1))
        match (if si.reads.isEmpty && c.me != 0 then none else firstBadOf ins) with
        | some a => cePoison s c.k a
        | none =>
          let xs := redAll fmt (ins.map (fun p => wireElems fmt c.n p.2.bytes))
          let s1 := if si.reads.isEmpty then s else cePut s (cHint d) [(cStaging d, wireOf fmt xs, false)]
          if c.me = 0 then
            let s2 := cePut s1 (cHint d) [(c.outA, outBytes c xs, false)]
            endSteps c (sendArrive c 2 (treeKids c) s2)
          else nextStep c 2 (sendArrive c 1 [treeParent c] s1)
      else endSteps c (sendArrive c 2 (treeKids c) (copyOut c o si.reads s))
    else if cAlg d = 0 then
      if step = 1 then
        let own := ownStage s c c.me
        let n := own.2.bytes.length
        let ins := (List.range c.g).map (fun i => if i = c.me then own else (own.1, heldData o (i * n) n))
        match firstBadOf ins with
        | some a => cePoison s c.k a
        | none => ownReduced c (redAll fmt (ins.map (fun p => wireElems fmt (len (0, n)) p.2.bytes))) s
      else endSteps c (copyOut c o si.reads s)
    else if step < c.g then
      let i := ringBack c (step + 1)
      let own := ownStage s c i
      let n := own.2.bytes.length
      let got := heldData o 0 n
      match firstBadOf [own, (own.1, got)] with
      | some a => cePoison s c.k a
      | none =>
        let xs := redAll fmt [wireElems fmt (len (0, n)) got.bytes, wireElems fmt (len (0, n)) own.2.bytes]
        let s1 := cePut s (cHint d) (if xs.isEmpty then [] else [(own.1, wireOf fmt xs, false)])
        if step + 1 < c.g then nextStep c (step + 1) (sendArrive c step [ringNext c] s1) else ownReduced c xs s1
    else
      let s1 := copyOut c o si.reads s
      if step + 1 ≥ 2 * c.g then endSteps c s1 else nextStep c (step + 1) (sendArrive c step [ringNext c] s1)

/-! ### Start of a collective -/

/-- An area that a member both reads and writes. -/
def bothWays (a n : Nat) : List (Nat × Nat × Bool) := [(a, n, true), (a, n, false)]

/-- The local areas of a collective's data: address, bytes, write. -/
def colData (c : Col) : List (Nat × Nat × Bool) :=
  let d := c.d
  let w := wireWidth (cFmt d)
  match cOp d with
  | 2 => [(c.inA, (outRange c c.me).2, false), (c.outA, c.n * (fmtBits (cFmt d) / 8), true)]
  | 4 => []
  | 5 => bothWays (cStaging d) (8 * ceilDiv c.n 4096) ++ [(c.inA, 4 * cOwnCount d, false), (c.outA, 4, true)]
  | 1 => bothWays (cStaging d) (c.n * w) ++ [(c.inA, memWidth (cFmt d) c.n, false),
            (c.outA, ((colRange c c.me).2 - (colRange c c.me).1) * outWidth c, true)]
  | _ => bothWays (cStaging d) (c.n * w) ++ [(c.inA, memWidth (cFmt d) c.n, false), (c.outA, c.n * outWidth c, true)]

/-- The local areas a collective touches, the flag area first. -/
def colAreas (c : Col) : List (Nat × Nat × Bool) := bothWays (cFlags c.d) (16 * c.g) ++ colData c

/-- What a bucket's collective reads and writes beside its output: the table with its entries and the record area (R382, R386). -/
def bktAreas (s : State) (c : Col) : List (Nat × Nat × Bool) :=
  let t := cTable c.d
  if cBucket c.d then bothWays t (64 + 32 * bktCount s t) ++ bothWays (bktArea s t) (8 * bktFirst s t (bktCount s t)) else []

/-- The first access of a collective that is refused: a local area, or its words in the members' flag areas (R296, R297). -/
def colRefused (s : State) (c : Col) : Option (Nat × Nat × Bool) :=
  ((colAreas c ++ bktAreas s c).findSome? (fun r =>
    if r.2.1 = 0 then none else (ceRefused s (.here r.1) r.2.1 r.2.2).map (fun p => (p.1, p.2, r.2.2)))).orElse (fun _ =>
      let a := cFlags c.d + 16 * c.me
      match colPeers c with
      | i :: _ => if remoteOk s a 16 true then none else some (peerAddr c i a, 0, true)
      | [] => none)

/-- Whether a local area of a collective lies behind a port that is down (R309). -/
def colDown (s : State) (c : Col) : Bool := (colAreas c ++ bktAreas s c).any (fun r => r.2.1 != 0 && spanDown s r.1 r.2.1)

/-- What a member reads of its own memory before its first step. -/
def firstReads (c : Col) : List (Nat × Nat) :=
  match cOp c.d with
  | 2 => [(c.inA, (outRange c c.me).2)]
  | 4 => []
  | 5 => [(c.inA, 4 * cOwnCount c.d)]
  | _ => [(c.inA, memWidth (cFmt c.d) c.n)]

/-- The first acts of a member: pack or copy, and the first arrive words (R376, R381, R390). -/
def colFirst (c : Col) (s : State) : State :=
  let d := c.d
  match cOp d with
  | 2 =>
    let (o, n) := outRange c c.me
    let s1 := cePut s (cHint d) (if n = 0 then [] else rowPieces (c.outA + o) ⟨ceBytes s c.inA n, ceFlags s c.inA n⟩)
    if c.g ≤ 1 then endSteps c s1
    else if cAlg d = 0 then nextStep c 1 (sendArrive c 1 (colPeers c) s1)
    else nextStep c 1 (sendArrive c 0 [ringNext c] s1)
  | 4 => nextStep c 1 (sendArrive c 1 (colPeers c) s)
  | 5 =>
    let n := cOwnCount d
    let first := fieldAt d 72 8
    let vs := rowVals 0 n (ceBytes s c.inA (4 * n))
    let recs := (chunks 4096 vs).flatMap (chunkRecord (cFn d == 1))
    match firstBadOf [(c.inA, ⟨[], ceFlags s c.inA (4 * n)⟩)] with
    | some a => cePoison s c.k a
    | none =>
      let s1 := cePut s (cHint d) (if recs.isEmpty then [] else [(cStaging d + first / 4096 * 8, recs, false)])
      nextStep c 1 (sendArrive c 1 (colPeers c) s1)
  | _ =>
    let s1 := colPack c s
    if cAlg d = 2 then nextStep c 1 s1
    else if c.g ≤ 1 then
      let own := ownStage s1 c c.me
      match firstBadOf [own] with
      | some a => cePoison s1 c.k a
      | none => ownReduced c (wireElems (cFmt d) c.n own.2.bytes) s1
    else if cAlg d = 0 then nextStep c 1 (sendArrive c 1 (colPeers c) s1)
    else nextStep c 1 (sendArrive c 0 [ringNext c] s1)

end Sys2Proof.Machine
end

