-- ==== Sys2Proof/Machine/CeRun.lean ====
section
/-! DEFINITION. The copy engines at work (12 R358 to R395, 13 R417 to R421, 14 R438, R439): start and completion of operations, the steps and the
release of collectives, bucket commits, go and abort, snapshots and the default recovery. -/

namespace Sys2Proof.Machine

/-- RECOVERY_EXHAUSTED (R439). -/
def cRecoveryExhausted : Word16 := 0x5030

/-- Engines of a module (R358). -/
def nEngines : Nat := 16

/-- An engine starts fragments and steps in a running job (R393), and those that a stopped bundle's copy needs while the job halts (R221); a
restore's copies run while the job recovers (R463). -/
def ceWorks (s : State) (o : CeOp) : Bool :=
  s.job.device.isNone && (s.seq.st == .running || (o.must && s.seq.st == .halting) || (o.mgmt == 3 && s.job.st == .recovering))

/-- The job tag and member list that an operation's packets go by: a snapshot's carry its target's tag, and its ends need not be on
members, nor on members that are still there (R421). -/
def opEnter (s : State) (o : CeOp) : State :=
  if o.mgmt = 1 then
    let far (v : Nat) : List (BitVec 14) := match whereIs s v with | .there d _ => [d] | _ => []
    let ends := far (sSrc o.desc) ++ far (sDst o.desc)
    { s with job := { s.job with tag := o.tag, members := s.job.members ++ ends, gone := s.job.gone.filter (fun d => !ends.contains d) } }
  else s

/-- Back to the job's own. -/
def opLeave (s : State) (o : CeOp) (t : State) : State :=
  if o.mgmt = 1 then { t with job := { t.job with tag := s.job.tag, members := s.job.members, gone := s.job.gone } } else t

/-- Do something for an operation under its own tag. -/
def asOp (s : State) (o : CeOp) (f : State → State) : State := opLeave s o (f (opEnter s o))

/-- Whether engines' counters and commits go on: a running or halting job, no device fault (R430). -/
def ceSteps (s : State) : Bool := s.job.device.isNone && (s.seq.st == .running || s.seq.st == .halting)

/-- Whether an entry is a copy or a re-shard, which move by fragments. -/
def opMoves (o : CeOp) : Bool := match o.kind with | .copy => true | .col => cOp o.desc == 4 | _ => false

/-- The plan of an operation that moves by fragments; no pieces for another. -/
def opPlan (s : State) (o : CeOp) : Plan :=
  match o.kind with
  | .copy => xstrPlan s o.desc
  | _ => if cOp o.desc = 4 then reshardPlan s o.desc else { xstrPlan s [] with pieces := [] }

/-- The destination bytes of an operation (R359). -/
def opDest (s : State) (k : Nat) (o : CeOp) : List (Where × Nat) :=
  match o.kind with
  | .sig _ _ => []
  | .copy => (xstrPlan s o.desc).pieces.map (fun q => (q.dst, q.dn))
  | .col =>
    if cOp o.desc = 4 then (reshardPlan s o.desc).pieces.map (fun q => (q.dst, q.dn))
    else (colData (colOf s k o)).filterMap (fun r => if r.2.2 then some (.here r.1, r.2.1) else none)

/-- Whether two lists of destinations share a byte. -/
def destsMeet (a b : List (Where × Nat)) : Bool :=
  a.any (fun x => b.any (fun y =>
    match x.1, y.1 with
    | .here p, .here q => rangesMeet (p, x.2) (q, y.2)
    | .there d p, .there e q => d == e && rangesMeet (p, x.2) (q, y.2)
    | _, _ => false))

/-! ### Signals in the stream (R230) -/

/-- The packet of a signal (R326). -/
def sigPkt (s : State) (dst : BitVec 14) (g : Signal) : Packet :=
  newPkt s 4 1 dst g.ctx 16 0 0 false
    (leBytes 2 g.core.toNat ++ leBytes 2 g.counter.toNat ++ leBytes 2 g.amount.toNat ++ leBytes 2 0 ++ leBytes 8 g.count.toNat)

/-- Whether an earlier entry still has packets to number, so that a signal of its context waits. -/
def holdsSig (x : CeOp) : Bool :=
  match x.kind with
  | .sig _ _ => true
  | .copy => !x.completed && (!x.started || !x.asked)
  | .col => !x.completed && decide (x.step < stepEnd)

/-- The first signal of an engine that may go. -/
def nextSig : List CeOp → List CeOp → Option CeOp
  | _, [] => none
  | before, o :: l =>
    match o.kind with
    | .sig _ _ => if before.any (fun x => x.ctx == o.ctx && holdsSig x) then nextSig (before ++ [o]) l else some o
    | _ => nextSig (before ++ [o]) l

/-- Send the signals that may go. The count bounds them. -/
def sendSigs (k : Nat) : Nat → State → State
  | 0, s => s
  | f + 1, s =>
    match nextSig [] (getCe s k).ops with
    | some o =>
      match o.kind with
      | .sig dst g => sendSigs k f (fabSend (ceDrop s k o.uid) (sigPkt s dst g) .sig)
      | _ => s
    | none => s

/-! ### Start (R359, R371, R380, R384) -/

/-- Whether an operation may start, given those before it in its engine. -/
def startable (s : State) (k : Nat) (before : List CeOp) (o : CeOp) : Bool :=
  let same := before.filter (fun x => x.ctx == o.ctx && takesSlot x && !x.completed)
  takesSlot o && !o.started && !o.completed && !o.failed && ceWorks s o
  && !same.any (fun x => x.failed || !x.started)
  && !same.any (fun x => destsMeet (opDest s k x) (opDest s k o))
  && (match o.kind with | .copy => planSlots s (xstrPlan s o.desc) | _ => true)

/-- The operations of an engine that may start, in issue order. -/
def startables (s : State) (k : Nat) : List CeOp → List CeOp → List CeOp
  | _, [] => []
  | before, o :: l => if startable s k before o then o :: startables s k (before ++ [o]) l else startables s k (before ++ [o]) l

/-- The operation of a list that an engine serves: round robin over the contexts after the last one served (R359). -/
def ctxNext (last : Nat) (l : List CeOp) : Option CeOp :=
  let far (o : CeOp) : Nat := (o.ctx.toNat + 16384 - last % 16384 - 1) % 16384
  l.find? (fun o => l.all (fun x => decide (far o ≤ far x)))

/-- The one that starts. -/
def pickStart (s : State) (k : Nat) : Option CeOp := ctxNext (getCe s k).last (startables s k [] (getCe s k).ops)

/-- The tables a collective reads at its start: address and bytes. -/
def colTabs (s : State) (d : List Byte) : List (Nat × Nat) :=
  let g := fieldAt (tabBytes (tabRead s (cGroup d) 8)) 0 2
  let places (a : Nat) : List (Nat × Nat) := let m := mapOf a (ceBytes s a 256); if m.bad then [] else [(m.table, 8 * m.places)]
  [(cGroup d, 8), (cGroup d + 8, 2 * g)]
  ++ (if cOp d = 4 then [(cInput d, 256), (cOutput d, 256)] ++ places (cInput d) ++ places (cOutput d) else [])
  ++ (if cBucket d then [(cTable d, 64), (cTable d + 64, 32 * bktCount s (cTable d))] else [])

/-- The first table that cannot be read. -/
def badTab (s : State) : List (Nat × Nat) → Option TabRead
  | [] => none
  | (a, n) :: l =>
    match tabRead s a n with
    | .ok _ => badTab s l
    | t => some t

/-- A fault that an engine raises when an operation starts is charged to the issuing core (R394). -/
def colFault (s : State) (k : Nat) (o : CeOp) (code : Word16) : State := jobFatal s o.core o.idx code (srcCe k) (openPay code (srcCe k))

/-- A collective fails with COPY_FRAGMENT: every fragment that a re-shard has to move, or the operation as one (log entry 23). -/
def colFail (s : State) (k : Nat) (o : CeOp) : State :=
  ceFail s k o (if opMoves o then o.todo &&& planAll (opPlan s o) else BitVec.allOnes 64) cCopyFragment

/-- The first fault of a collective whose tables are readable. -/
def colForm (s : State) (o : CeOp) : Option Word16 :=
  let d := o.desc
  if groupBad s d then some cColForm
  else if cOp d = 4 then (if reshardBad s d then some cLayoutForm else if reshardHole s d then some cReshardHole else none)
  else none

/-- The fault of a bucket collective whose epoch lies below its table's (R384). -/
def epochOld (s : State) (o : CeOp) : Option Word16 :=
  if cBucket o.desc && decide (cEpoch o.desc < fieldAt (ceBytes s (cTable o.desc + 16) 6) 0 6) then some cColForm else none

/-- What stops a collective before an act: its tables, and its areas as they stand then (R295, R296, R371, R433). An area that the window table
refuses, or that lies behind a port that is down, fails it with COPY_FRAGMENT (DESIGN CHOICE, log entry 23). -/
def colCheck (s : State) (k : Nat) (o : CeOp) (first : Option Word16) : Option State :=
  match badTab s (colTabs s o.desc) with
  | some (.poison a) => some (cePoison s k a)
  | some (.refused a p) => some (colFault (refuseAccess s (srcCe k) a p 1 false) k o cColForm)
  | _ =>
    match (colForm s o).orElse (fun _ => first) with
    | some code => some (colFault s k o code)
    | none =>
      let c := colOf s k o
      match colRefused s c with
      | some (a, p, w) => some (colFail (refuseAccess s (srcCe k) a p 1 w) k o)
      | none => if colDown s c then some (colFail s k o) else none

/-- The lines of local bytes are asked for once, before the act that uses them. -/
def colFetch (s : State) (k : Nat) (o : CeOp) (stage : Nat) (rs : List (Nat × Nat)) : State :=
  if o.stage ≥ stage then s else modOp (ceTouchAll (cHint o.desc) rs s) k o.uid (fun o => { o with stage := stage })

/-- A collective starts: it reads its tables, then its first input, each when the lines are at hand (R305). -/
def colStart (s : State) (k : Nat) (o : CeOp) : State :=
  let on (s : State) : State := modOp s k o.uid (fun o => { o with started := true, asked := false })
  if o.step > 0 then on s
  else
    let s0 := colFetch s k o 1 (colTabs s o.desc)
    if runsPend s0 (colTabs s0 o.desc) then s0
    else
      match colCheck s0 k o (epochOld s0 o) with
      | some t => t
      | none =>
        let c := colOf s0 k o
        match (if cBucket o.desc then bucketStart s0 c else some s0) with
        | none => colFault s0 k o cColForm
        | some s1 =>
          let s2 := colFetch s1 k o 2 (firstReads c)
          if runsPend s2 (firstReads c) then s2 else colFirst c (on s2)

/-- Fragments whose packets are lost and keep their numbers. -/
def lostFrags (s : State) (k uid : Nat) : BitVec 64 :=
  s.fab.tx.foldl (fun m p => p.2.lost.foldl (fun m q =>
    match q.owner with | .ce j u g => if j = k ∧ u = uid then m ||| BitVec.ofNat 64 (2 ^ (g % 64)) else m | _ => m) m) 0

/-- The fragments of a mask run: under freshly armed slots, those of lost packets by sending them again with their numbers (R391). -/
def ceRun (s : State) (k : Nat) (o : CeOp) (p : Plan) (todo fail : BitVec 64) : State :=
  let lost := lostFrags s k o.uid
  let s1 := ceBegin (planArm s k o.uid p) k o p (todo &&& ~~~lost) fail
  txAgain (isOwner k o.uid) s1.fab.tx (modOp s1 k o.uid (fun x => { x with todo := todo, code := 0, afail := false }))

/-- CE_OPERATION_START: the signals that may go, then the next operation. -/
def ceStart (s : State) (k : Nat) (fail : BitVec 64) : State :=
  let s1 := if s.seq.st = .running then sendSigs k (getCe s k).ops.length s else s
  match pickStart s1 k with
  | none => s1
  | some o =>
    let s2 := setCe s1 k { getCe s1 k with last := o.ctx.toNat }
    match o.kind with
    | .col => colStart s2 k o
    | _ => let p := xstrPlan s2 o.desc; asOp s2 o (fun s => ceRun s k o p (o.todo &&& planAll p) fail)

/-! ### Snapshots (R417 to R421) -/

/-- The snapshot target's address. -/
def snapArea (s : State) (t : Nat) : Nat := regF s aTrnSnapBase 45 19 * 2 ^ 19 + t * 0x80000

/-- Target and state of TRN_SNAP_STATUS. -/
def snapT (s : State) : Nat := regF s aTrnSnapStatus 7 5
def snapSt (s : State) : Nat := regF s aTrnSnapStatus 1 0

/-- Whether a target's header is valid (R417). -/
def snapValid (s : State) (t : Nat) : Bool :=
  let h := memBytes s (snapArea s t) 128
  bitOf (fieldAt h 8 1) 0 && decide (1 ≤ fieldAt h 0 2) && decide (fieldAt h 0 2 ≤ 4095)
  && fieldAt h 2 2 == 0 && fieldAt h 8 1 / 2 == 0 && (slice h 9 119).all (fun b => b == 0)

/-- Whether snapshots are enabled. -/
def snapEn (s : State) : Bool := regF s aTrnSnapCfg 31 31 == 1

/-- A request for target t at the boundary of TRN_SNAP_STEP (order 1 of R418). -/
def snapAsk (s : State) (t : Nat) : State :=
  if snapSt s ≠ 0 then setRegF s aTrnSnapStatus 9 8 1
  else if (reg s aTrnSnapStep).toNat ≤ s.seq.step.toNat then setRegF s aTrnSnapStatus 9 8 2
  else
    let s1 := if snapEn s then devTouch false (snapArea s t) 128 s else s
    if !snapEn s || !snapValid s t then setRegF s1 aTrnSnapStatus 9 8 3
    else setReg { s1 with job := { s1.job with snapK := reg s aTrnSnapStep } } aTrnSnapStatus (BitVec.ofNat 64 (1 + t * 2 ^ 5))

/-- The increment of g[gsnap] that follows each commit (R419). -/
def snapG (s : State) : State := if snapEn s then addG s (regF s aTrnSnapCfg 24 16) 1 else s

/-- The end of a snapshot under a code: IDLE, the event, the increment (R418). -/
def snapEnd (s : State) (code : Word16) (x : Nat) : State :=
  let s1 := setRegF s aTrnSnapStatus 1 0 0
  snapG (record s1 kEvent srcMgmt code (Config.packPayload code [snapT s, x]).toNat)

/-- Whether a snapshot's descriptor breaks R363, R364 or R417. -/
def snapBad (s : State) (d : List Byte) : Bool :=
  xstrBad s d || !sGuard d || !sTornfault d || sClass d != 3 || sCtr d != 0

/-- Issue the target's descriptors in order while the engine has free slots; a bad one ends the snapshot. -/
def snapIssue : Nat → State → State
  | 0, s => s
  | f + 1, s =>
    let ctx := BitVec.ofNat 14 (regF s aTrnSnapCfg 13 0)
    let i := s.job.snapNext
    if snapSt s ≠ 2 ∨ i ≥ s.job.snapCount ∨ ceBusy (getCe s (engineOf ctx)) ≥ 64 then s
    else
      let a := snapArea s (snapT s) + 128 + i * 128
      let s1 := devTouch false a 128 s
      let d := memBytes s a 128
      if snapBad s d then snapEnd s1 cSnapFailed i
      else
        let o := { newCeOp noCore ctx .copy d 63 i s.seq.step with mgmt := 1, snapNo := s.job.snapNo, tag := s.job.snapTag }
        snapIssue f (cePush { s1 with job := { s1.job with snapNext := i + 1 } } o)

/-- The commit reaches k (order 2 of R418). -/
def snapBegin (s : State) : State :=
  let h := memBytes s (snapArea s (snapT s)) 8
  let s0 := devTouch false (snapArea s (snapT s)) 128 s
  let s1 := setRegF { s0 with job := { s0.job with
      snapNext := 0, snapCount := fieldAt h 0 2, snapTag := BitVec.ofNat 32 (fieldAt h 4 4), snapNo := s.job.snapNo + 1 } }
    aTrnSnapStatus 1 0 2
  snapIssue 64 s1

/-- A snapshot's copy has completed (order 3 of R418); one left over from a snapshot that has ended counts for none. -/
def snapDone (s : State) (o : CeOp) : State :=
  if snapSt s ≠ 2 ∨ o.snapNo ≠ s.job.snapNo then s
  else
    let n := regF s aTrnSnapStatus 27 16 + 1
    let s1 := setRegF s aTrnSnapStatus 27 16 n
    if n = s1.job.snapCount then snapEnd s1 cSnapDone s1.job.snapK.toNat else snapIssue 64 s1

/-! ### Completion (R360, R362) -/

/-- What completion does once every destination byte is visible: the status word, the done counter, the completion counter. -/
def ceDone (s : State) (k : Nat) (o : CeOp) : State :=
  let (st, f) := match o.kind with | .copy => (sStatus o.desc, sCtr o.desc) | _ => (cStatus o.desc, cCtr o.desc)
  let s1 :=
    if st = 0 then s
    else
      match ceRefused s (.here st) 8 true with
      | some (a, p) => refuseAccess s (srcCe k) a p 1 true
      | none => cePut s 0 [(st, leBytes 8 (1 + 2 * b2n o.rangeSeen + 4 * b2n o.flagSeen), false)]
  ctr4Advance (doneAdvance (detBreak s1) o.core o.done) f

/-- An operation that has moved everything completes: a copy leaves its engine, a collective waits for its peers' done words. -/
def ceComplete (s : State) (k : Nat) (o : CeOp) : State :=
  match o.kind with
  | .copy =>
    let s1 := ceDrop s k o.uid
    let s2 := ceDone s1 k o
    if o.mgmt = 1 then snapDone s2 o else s2
  | _ => ceDone (modOp s k o.uid (fun o => { o with completed := true, step := max o.step stepEnd })) k o

/-- An operation that moves by fragments has moved them all: a re-shard tells its peers that its last read is made (R377). -/
def ceMoved (s : State) (k : Nat) (o : CeOp) : State :=
  let s1 := match o.kind with | .col => sendDone (colOf s k o) s | _ => s
  match getOp s1 k o.uid with | some x => ceComplete s1 k x | none => s1

/-- Whether no operation of the same context before it is unfinished: operations of a context complete in issue order (R359). -/
def ctxFirst (s : State) (k : Nat) (o : CeOp) : Bool :=
  !((getCe s k).ops.takeWhile (fun x => x.uid != o.uid)).any (fun x => x.ctx == o.ctx && takesSlot x && !x.completed)

/-- Abort (R391): what failed is poisoned, and the operation completes once the poisoned bytes are visible and its turn has come (R359, R360); or it
stays failed. Poisoned bytes of a counted copy have landed (R231, R232). -/
def ceAbort (s : State) (k : Nat) (o : CeOp) (unwritable : Bool) : State :=
  let p := opPlan s o
  if unwritable || !opMoves o || !abortOk (opEnter s o) o p then modOp s k o.uid (fun o => { o with afail := true })
  else
    let s1 := asOp s o (fun s => ceAbortWrites s k o p (~~~(lostFrags s k o.uid)))
    let s2 := modOp s1 k o.uid (fun o => { o with
      aborting := true, started := true, asked := true, failed := false, afail := false, todo := o.failMask, failMask := 0, fails := 0 })
    if planFar p || !ctxFirst s2 k o then s2 else ceMoved (landOwn s2 k o p 0) k o

/-- A snapshot's copy failed: it is aborted and the snapshot ends (R418); one left over from a snapshot that has ended ends none. -/
def snapFail (s : State) (k uid : Nat) : State :=
  match getOp s k uid with
  | none => s
  | some o =>
    if snapSt s = 2 ∧ o.snapNo = s.job.snapNo then
      let s1 := snapEnd s (if o.code = cCopyTorn then cSnapTorn else cSnapFailed) o.idx
      ceAbort s1 k o false
    else ceAbort s k o false

/-- Whether an operation can end its run now. -/
def canEnd (s : State) (k : Nat) (o : CeOp) : Bool :=
  o.started && !o.failed && !o.completed && takesSlot o && !ownerBusy s (isOwner k o.uid)
  && (match o.kind with
      | .copy => opReadsIn s (xstrPlan s o.desc) && (o.asked || ceWorks s o)
      | _ => if opMoves o then o.asked && opReadsIn s (opPlan s o)
        else decide (o.step ≥ stepEnd) && (!cBucket o.desc || decide (o.step = stepCommitted)))

/-- The operation that completes: of those that can and are the oldest unfinished ones of their contexts, the next in round-robin order (R359). -/
def pickEnd (s : State) (k : Nat) : Option CeOp := ctxNext (getCe s k).last ((getCe s k).ops.filter (fun o => canEnd s k o && ctxFirst s k o))

/-- The end of the run, or the completion, of one operation. -/
def ceEndGo (s : State) (k : Nat) : State :=
  if s.job.device.isSome || !(s.seq.st == .running || s.seq.st == .halting || s.job.st == .recovering) then s
  else
    match pickEnd s k with
    | none => s
    | some o =>
      let s1 := setCe s k { getCe s k with last := o.ctx.toNat }
      if opMoves o then
        let p := opPlan s o
        let (t, ok) := ceFinish (opEnter s1 o) k o p
        let t1 := opLeave s o t
        match ok with
        | some true => ceMoved t1 k o
        | some false => if o.mgmt = 1 then snapFail t1 k o.uid else t1
        | none => t1
      else ceComplete s1 k o

/-- CE_OPERATION_COMPLETE. A slot that this frees may be what a snapshot waits for. -/
def ceEnd (s : State) (k : Nat) : State := snapIssue 64 (ceEndGo s k)

/-- What a completed collective meets at its wait for the done words: a group table that cannot be read, a poisoned flag word (R433). -/
def relCheck (s : State) (k : Nat) (o : CeOp) : Option State :=
  match badTab s ((colTabs s o.desc).take 2) with
  | some (.poison a) => some (cePoison s k a)
  | some (.refused a p) => some (colFault (refuseAccess s (srcCe k) a p 1 false) k o cColForm)
  | _ => (flagPoison s (colOf s k o)).map (cePoison s k)

/-- COLLECTIVE_RELEASE: the oldest completed collective all of whose members are done (R377). A fault at its wait stops a running job once. -/
def colRelease (s : State) (k : Nat) : State :=
  match (getCe s k).ops.find? (fun o => o.kind == .col && o.completed && ((relCheck s k o).isSome || allDone s (colOf s k o))) with
  | none => s
  | some o =>
    if !ceSteps s then s
    else
      match relCheck s k o with
      | some t => if s.seq.st = .running then t else s
      | none => snapIssue 64 (ctr4Advance (ceDrop s k o.uid) (cRelease o.desc))

/-! ### Steps of collectives (R376, R390, R392) -/

/-- Bytes of an area that hold unspecified values after a member was lost (R392). -/
def scramble (s : State) (a n : Nat) : State :=
  if n = 0 then s
  else
    match ceRefused s (.here a) n true with
    | some _ => s
    | none => let (ctr, s1) := draw s; cePut s1 0 [(a, freeBytes ctr n, false)]

/-- A collective that lost a member fails (R392): outputs and staging hold unspecified values, no counter advances, and the operation
leaves its engine (log entry 24). -/
def colLost (s : State) (k : Nat) (o : CeOp) : State :=
  let areas := if cOp o.desc = 4 then (reshardPlan s o.desc).pieces.filterMap (fun q => match q.dst with | .here a => some (a, q.dn) | _ => none)
    else (colData (colOf s k o)).filterMap (fun r => if r.2.2 then some (r.1, r.2.1) else none)
  let s1 := areas.foldl (fun s r => scramble s r.1 r.2) s
  let s2 := { s1 with fab := { s1.fab with reads := s1.fab.reads.filter (fun r => !isOwner k o.uid r.owner) } }
  contained (freeWatch (ceDrop s2 k o.uid) (.ce k o.uid)) (srcCe k) cColMemberLost (openPay cColMemberLost (srcCe k))

/-- The collectives of one engine that lost a member. -/
def colSweepGo (k : Nat) : List CeOp → State → State
  | [], s => s
  | o :: l, s => colSweepGo k l (if o.kind == .col && !o.completed && o.memberLost then colLost s k o else s)

/-- The collectives of which a device is a member are marked: all of them, or those that have started. -/
def markLost (started : Bool) (s : State) (dev : BitVec 14) : State :=
  (List.range nEngines).foldl (fun s k =>
    let e := getCe s k
    setCe s k { e with ops := e.ops.map (fun o =>
      if o.kind == .col && (o.started || !started) && !o.completed && (groupRanks s o.desc).contains dev then { o with memberLost := true } else o) }) s

/-- Every engine's, after those that a packet lost to a member concerns are marked (R392). -/
def colSweep (s : State) : State :=
  let s1 := s.fab.lostDst.foldl (markLost true) { s with fab := { s.fab with lostDst := [] } }
  (List.range nEngines).foldl (fun s k => colSweepGo k (getCe s k).ops s) s1

/-- A failure notice names a member: the operations in flight on a group that holds it fail (R392). -/
def colGone (s : State) (dev : BitVec 14) : State := colSweep (markLost false s dev)

/-- Whether a collective can do something: its waits have arrived and its reads are not asked for, or its data is in. A re-shard that has
begun to read ends with CE_OPERATION_COMPLETE. -/
def colReady (s : State) (k : Nat) (ranges : List (BitVec 48 × BitVec 48)) (o : CeOp) : Bool :=
  o.kind == .col && o.started && !o.completed && !o.failed && ceWorks s o && decide (o.step < stepEnd)
  && (let c := colOf s k o
      if o.asked then !opMoves o && !ownerReads s (isOwner k o.uid) && !runsPend s (stepLocal c o.step)
      else (stepIn s c o.step ranges).waits.all (fun w => arrived s c w.1 w.2))

/-- A step whose peers have arrived asks for what it reads, of other members and of its own memory. -/
def colAskStep (s : State) (k : Nat) (o : CeOp) (ranges : List (BitVec 48 × BitVec 48)) : State :=
  let c := colOf s k o
  let d := o.desc
  let rs := (ranges.map (fun r => (r.1.toNat, r.2.toNat))).set c.me (fieldAt d 72 8, cOwnCount d)
  match flagPoison s c with
  | some a => cePoison s k a
  | none =>
    if cOp d = 5 && !canonOk c.n (rs.take c.g) then colFault s k o cColCanonGap
    else if cOp d = 4 then
      let p := opPlan s o
      if planSlots s p then ceRun s k o p (o.todo &&& planAll p) 0 else s
    else
      let rds := (stepIn s c o.step ranges).reads
      match colAskBad s c rds with
      | some a => colFail (refuseAccess s (srcCe k) a 0 1 false) k o
      | none => modOp (colAsk c rds (ceTouchAll (cHint d) (stepLocal c o.step) s)) k o.uid (fun o => { o with asked := true })

/-- COLLECTIVE_STEP. -/
def colStep (s : State) (k : Nat) (ranges : List (BitVec 48 × BitVec 48)) : State :=
  let s0 := colSweepGo k (getCe s k).ops s
  match ctxNext (getCe s0 k).last ((getCe s0 k).ops.filter (colReady s0 k ranges)) with
  | none => s0
  | some o =>
    let s1 := setCe s0 k { getCe s0 k with last := o.ctx.toNat }
    match colCheck s1 k o none with
    | some t => t
    | none =>
      if !o.asked then colAskStep s1 k o ranges
      else stepOut s1 (colOf s1 k o) o (stepIn s1 (colOf s1 k o) o.step ranges)

/-! ### Bucket commits (R387) -/

/-- Whether the commit of a bucket is the last of its table. -/
def bktLast (s : State) (o : CeOp) : Bool := fieldAt (ceBytes s (cTable o.desc) 64) 22 2 + 1 == bktCount s (cTable o.desc)

/-- What a commit reads: the header, and for the last one the entries and every record (R387). -/
def bktReads (s : State) (o : CeOp) : List (Nat × Nat) :=
  let t := cTable o.desc
  if bktLast s o then [(t, 64 + 32 * bktCount s t), (bktArea s t, 8 * bktFirst s t (bktCount s t))] else [(t, 64)]

/-- The first poisoned byte of what a commit reads (R433). -/
def bktPoison (s : State) (o : CeOp) : Option Nat := firstBadOf ((bktReads s o).map (fun r => (r.1, ⟨[], ceFlags s r.1 r.2⟩)))

/-- What stops a commit: the tables and areas as they stand, or a poisoned header or record. -/
def bktCheck (s : State) (k : Nat) (o : CeOp) : Option State :=
  (colCheck s k o none).orElse (fun _ => (bktPoison s o).map (cePoison s k))

/-- The bucket that commits next. -/
def bktNext (s : State) (k : Nat) : Option CeOp :=
  (getCe s k).ops.find? (fun o => o.kind == .col && cBucket o.desc && o.step == stepEnd && !o.failed)

/-- BUCKET_COMMIT: the oldest bucket whose steps are done; it reads first, and acts when the lines are at hand. A fault stops a running job once. -/
def bktCommit (s00 : State) (k : Nat) : State :=
  if !ceSteps s00 then s00
  else
    match bktNext s00 k with
    | none => s00
    | some o =>
      let s := colFetch s00 k o 1 (bktReads s00 o)
      if runsPend s (bktReads s o) then s
      else
      match bktCheck s k o with
      | some t => if s.seq.st = .running then t else s
      | none =>
      let c := colOf s k o
      let t := cTable o.desc
      let h := ceBytes s t 64
      let n := fieldAt h 22 2 + 1
      let lo := if n = 1 then c.g else min (fieldAt h 30 2) c.g
      let hi := max (fieldAt h 32 2) c.g
      let b := bktCount s t
      let s1 := cePut s 0 [(t + 64 + 32 * cBucketIdx o.desc + 30, leBytes 2 c.g, false)]
      let s2 := cePut s1 0 [(t + 22, leBytes 2 n, false), (t + 30, leBytes 2 lo ++ leBytes 2 hi, false)]
      let s3 := setReg s2 aColCount (BitVec.ofNat 64 (lo + hi * 2 ^ 16 + n * 2 ^ 32))
      let s4 :=
        if n = b then
          let total := bktFirst s3 t b
          let recs := chunks 8 (ceBytes s3 (bktArea s3 t) (8 * total))
          let sq := treeSum (recs.map (fun r => fieldAt r 0 4))
          let bad := recs.any (fun r => bitOf (fieldAt r 4 1) 0)
          let s5 := cePut s3 0 [(t + 24, leBytes 4 sq ++ leBytes 1 (b2n bad + 2), false)]
          let s6 := setReg s5 aColResult (BitVec.ofNat 64 (sq + b2n bad * 2 ^ 32 + 2 ^ 33))
          if bad then record s6 kEvent (srcCe k) cStepSkipped (openPay cStepSkipped (srcCe k)) else s6
        else setReg s3 aColResult 0
      modOp s4 k o.uid (fun o => { o with step := stepCommitted, stage := 0 })

/-! ### go, abort and the default actions (R391, R437 to R439) -/

/-- The failed operation of a context. -/
def failedOp (s : State) (k : Nat) (ctx : BitVec 14) : Option CeOp := (getCe s k).ops.find? (fun o => o.ctx == ctx && o.failed)

/-- go: the failed fragments run again. While a watch slot is taken the operation waits without reading, like one that has not started
(R276); a collective that was refused starts again. -/
def ceGo (s : State) (k : Nat) (o : CeOp) (fail : BitVec 64) : State :=
  let p := opPlan s o
  let begun := o.kind != .col || decide (o.step > 0)
  if opMoves o && begun && planSlots s p then asOp s o (fun s => ceRun s k o p o.failMask fail)
  else
    modOp s k o.uid (fun o =>
      { o with failed := false, started := o.kind == .col && opMoves o && begun, asked := false, todo := o.failMask, failMask := 0, code := 0
               afail := false, stage := 0 })

/-- Whether retries may be written at all: not after a JOB_FATAL or DEVICE_FATAL fault (R427). -/
def retryOn (s : State) : Bool := s.job.device.isNone && s.job.fatal.isNone && (s.seq.st == .running || s.job.st == .recovering)

/-- Whether the management core takes default actions: not while the job is halted (R427). -/
def defaultOn (s : State) : Bool := s.job.device.isNone && s.job.fatal.isNone && s.seq.st == .running

/-- CE_RETRY with go. -/
def ceRetryGo (s : State) (k : Nat) (ctx : BitVec 14) (fail : BitVec 64) : State :=
  match failedOp s k ctx with
  | some o => if retryOn s then ceGo s k o fail else s
  | none => s

/-- CE_RETRY with abort. -/
def ceRetryAbort (s : State) (k : Nat) (ctx : BitVec 14) (unwritable : Bool) : State :=
  match failedOp s k ctx with
  | some o => if retryOn s then ceAbort s k o unwritable else s
  | none => s

/-- Escalation (R439). -/
def exhausted (s : State) (payload : Nat) : State := jobFatal s noCore 0 cRecoveryExhausted srcMgmt payload

/-- Whether the cause of a failed engine operation cannot clear: a port that is down, a peer that has left (R438). -/
def ceStuck (s : State) (o : CeOp) : Bool :=
  (opPlan s o).pieces.any (fun q => [q.src, q.dst].any (fun w =>
    match w with
    | .here a => (match placeOf a with | .cxl k => smGet false s.mem.cxlDown k | _ => false)
    | .there d _ => s.job.gone.contains d
    | .bad _ => false))

/-- The default action for a failed engine operation (R438). -/
def ceDefault (s : State) (ctx : BitVec 14) (cannot : Bool) : State :=
  let k := engineOf ctx
  match failedOp s k ctx with
  | none => s
  | some o =>
    if !defaultOn s then s
    else
      let lim := if o.code = cCopyTorn then 1 else 3
      if (o.code != cCopyTorn && (cannot || ceStuck s o)) || decide (o.goes ≥ lim) then exhausted s (o.code.toNat + ctx.toNat * 2 ^ 16)
      else ceGo (modOp s k o.uid (fun o => { o with goes := o.goes + 1 })) k { o with goes := o.goes + 1 } 0

/-- Whether the cause of a failed LCU copy cannot clear: a tile destination, a CXL port that is down (R275, R438). -/
def lcuStuck (s : State) (q : Copy) : Bool :=
  dDstKind q.desc == 5 || (dMemRuns q.desc).any (fun p => [p.1, p.1 + p.2.1 - 1].any (fun a =>
    match placeOf a with | .cxl k => smGet false s.mem.cxlDown k | _ => false))

/-- The default action for a failed LCU copy. -/
def lcuDefault (s : State) (core : Nat) (cannot : Bool) : State :=
  match failedCopy (getCore s core) with
  | none => s
  | some q =>
    if !defaultOn s then s
    else
      let lim := if q.code = cCopyTorn then 1 else 3
      if (q.code != cCopyTorn && (cannot || lcuStuck s q)) || decide (q.goes ≥ lim) then exhausted s (q.code.toNat + 2 ^ 31 + core % 1024 * 2 ^ 32)
      else lcuGo (modCopy s core q.ord (fun q => { q with goes := q.goes + 1 })) core 0

/-! ### The commands -/

/-- CE_OPERATION_START. -/
def execCeOperationStart (engine : BitVec 4) (fail : BitVec 64) (s : State) : Out := .next (ceStart s engine.toNat fail)
/-- CE_OPERATION_COMPLETE. -/
def execCeOperationComplete (engine : BitVec 4) (s : State) : Out := .next (ceEnd s engine.toNat)
/-- COLLECTIVE_STEP. -/
def execCollectiveStep (engine : BitVec 4) (ranges : List (BitVec 48 × BitVec 48)) (s : State) : Out := .next (colStep s engine.toNat ranges)
/-- COLLECTIVE_RELEASE. -/
def execCollectiveRelease (engine : BitVec 4) (s : State) : Out := .next (colRelease s engine.toNat)
/-- BUCKET_COMMIT. -/
def execBucketCommit (engine : BitVec 4) (s : State) : Out := .next (bktCommit s engine.toNat)
/-- CE_RETRY_GO. -/
def execCeRetryGo (engine : BitVec 4) (ctx : BitVec 14) (fail : BitVec 64) (s : State) : Out := .next (ceRetryGo s engine.toNat ctx fail)
/-- CE_RETRY_ABORT. -/
def execCeRetryAbort (engine : BitVec 4) (ctx : BitVec 14) (unwritable : Bool) (s : State) : Out :=
  .next (ceRetryAbort s engine.toNat ctx unwritable)
/-- SNAP_REQUEST: a write of TRN_SNAP_REQ with go. -/
def execSnapRequest (t : BitVec 3) (s : State) : Out := .next (snapAsk s t.toNat)
/-- RECOVERY_RETRY. -/
def execRecoveryRetry (isLcu : Bool) (index : Nat) (ctx : BitVec 14) (cannotClear : Bool) (s : State) : Out :=
  if isLcu then onCore s index (lcuDefault s index cannotClear) else .next (ceDefault s ctx cannotClear)

end Sys2Proof.Machine
end

