-- ==== Sys2Proof/Machine/LedgerRun.lean ====
section
/-! DEFINITION. The Ledger at work (16 R481 to R505): flushes, clears, freezes, the usage group, reads, and its start. -/

namespace Sys2Proof.Machine

/-- Usage codes (R504). -/
def cUseEnd : Word16 := 0x9010

/-- The count of records at which the record area is near full (R486). -/
def ldgNear : Nat := 1718528

/-- PWR_ENERGY (R597). -/
def aPwrEnergy : Nat := aPwr + 0x18

/-- Let a function of the Ledger that creates records run. What it writes is stamped no lower than the newest flushed record (R475, R492). -/
def ldgDo (s : State) (f : Ledger → Word64 → Ledger × List Rec) : State :=
  let low := !s.ldg.prelock && decide (now s < s.ldg.floorStamp.toNat)
  let stamp := if low then s.ldg.floorStamp else nowW s
  let (l, r1) := f s.ldg stamp
  let (m, r2) := ldgBack low l stamp
  ldgPost s m (r1 ++ r2)

/-- The identity of a key: bytes 0–15 of SHAKE256 of it (R515). -/
def keyId (key : List Byte) : List Byte := (shake64 key).take 16

/-- Module identity: the subject identity of the module certificate (R514, R529, R537). -/
def modIdent (s : State) : List Byte := memReads s.nor 0x20008 16

/-- The module key's signature over a message, behind its length and zero-padded: at most 1,280 bytes (R511, R523); none without an
unwrapped key. -/
def modSign (s : State) (msg : List Byte) : List Byte :=
  match s.sec.key with
  | some k => if s.sec.unwrapped then let g := (Config.falconSign k (shake64 msg) s.free).take 1280; leBytes 2 g.length ++ slice g 0 1280 else zeros 1282
  | none => zeros 1282

/-! ### Flushes (R482, R485, R486, R490) -/

/-- The seal block of the flush whose records end at `flushTo` (R490); its seal is the last record of the flush. -/
def sealBlock (s : State) : List Byte :=
  let l := s.ldg
  match (l.recs.take l.flushTo).getLast? with
  | none => zeros 2048
  | some (r, ep) =>
    let head := leBytes 4 r.seq.toNat ++ leBytes 2 ep.toNat ++ zeros 2 ++ leBytes 8 r.stamp.toNat ++ slice l.flushC0 0 64
      ++ modIdent s ++ leBytes 8 (l.flushCount.toNat + 1) ++ zeros 24
    slice (head ++ modSign s head) 0 2048

/-- The newest record of a flush. -/
def flushLast (l : Ledger) : Option (Rec × Word16) := (l.recs.take l.flushTo).getLast?

/-- The header that a flush writes (R485). -/
def flushHeader (l : Ledger) (oldOff slot : Nat) (chain : List Byte) : LHeader :=
  let old := l.recs.head?
  let new := flushLast l
  hdrSeal {
    check := []
    flushCount := l.flushCount + 1
    nextSeq := match new with | some (r, _) => r.seq + 1 | none => l.nextSeq
    epoch := match new with | some (r, e) => if r.seq + 1 = 0 then e + 1 else e | none => l.epoch
    oldSeq := match old with | some (r, _) => r.seq | none => l.nextSeq
    oldEpoch := match old with | some (_, e) => e | none => l.epoch
    oldOff := oldOff
    slot := slot
    stamp := match new with | some (r, _) => r.stamp | none => l.floorStamp
    chain := chain
    clear := l.clearBlock }

/-- LEDGER_FLUSH_COMPLETE's effect on a flush that runs and was written. -/
def flushDone (s : State) : State :=
  let l := s.ldg
  let blk := sealBlock s
  let slot := if l.flushCount = 0 then 0 else (l.slot + 1) % 2048
  let gone := l.flushTo - ldgArea
  let off := (l.oldOff + gone) % ldgArea
  let recs := l.recs.drop gone
  let l1 := { l with recs := recs, nFlushed := l.flushTo - gone, flushTo := l.flushTo - gone, oldOff := off }
  let h := flushHeader l1 off slot l.flushC1
  let toA := decide (l.hdrA.flushCount.toNat ≤ l.hdrB.flushCount.toNat)
  let l2 := { l1 with
    seals := smSet [] l1.seals slot blk, slot := slot, flushCount := l.flushCount + 1
    hdrA := if toA then h else l.hdrA, hdrB := if toA then l.hdrB else h
    flushing := false }
  let near := decide (l2.nFlushed > ldgNear) && !l2.nearFull
  let s1 := { s with ldg := { l2 with nearFull := l2.nearFull || near }, free := s.free + 1 }
  if near then record s1 kEvent srcLedger cLdgNearFull (openPay cLdgNearFull srcLedger) else s1

/-- A further flush that waited begins (R481). -/
def flushNext (s : State) : State := if s.ldg.flushAgain && s.ldg.st == .recording then ldgDo s ldgFlush else s

/-- A flush that runs in the CLEARING state (R502). -/
def clearFlush (l : Ledger) (now : Word64) : Ledger × List Rec :=
  let (m, rs) := ldgFlush { l with st := .recording, flushing := false } now
  ({ m with st := .clearing }, rs)

/-- Bytes of C at a seal, from its seal block (R490, R502): bytes 16–79. -/
def sealC (l : Ledger) (seq : Word32) : List Byte :=
  match l.seals.find? (fun p => fieldAt p.2 0 4 == seq.toNat) with
  | some p => slice p.2 16 64
  | none => zeros 64

/-- Orders 2 to 5 of R502, once the first flush of a clear is done. -/
def clearApply (s : State) (seq : Word32) (ep : Word16) (cmd iak : List Byte) : State :=
  let l := s.ldg
  let c := sealC l seq
  let id := keyId iak
  let blk := leBytes 4 seq.toNat ++ leBytes 2 ep.toNat ++ c ++ id ++ slice cmd 0 64
  let i := l.recs.findIdx? (fun p => p.1.seq == seq && p.2 == ep)
  let n := match i with | some i => i + 1 | none => 0
  let recs := l.recs.drop n
  let l1 := { l with
    recs := recs, nFlushed := l.nFlushed - n, flushTo := l.flushTo - n, oldOff := (l.oldOff + n) % ldgArea, clearBlock := blk
    hdrA := hdrSeal { l.hdrA with clear := blk }, hdrB := hdrSeal { l.hdrB with clear := blk }, nearFull := false, clearing := none }
  ldgDo { s with ldg := l1 } (fun l1 t =>
    let (l2, r2) := ldgOwn l1 t cLdgCleared (BitVec.ofNat 64 (fieldAt c 0 8))
    let (l3, r3) := ldgOwn l2 t cLdgClearAuth (BitVec.ofNat 64 (fieldAt id 0 8))
    let (l4, r4) := clearFlush l3 t
    (l4, r2 ++ r3 ++ r4))

/-- The IAK record's public key (R537). -/
def iakKey (s : State) : List Byte := memReads s.nor 0x40000 1793

/-- Space has been freed: LDG_LOST is the first record written (R480). -/
def lostNote (s : State) : State := if s.ldg.lost > 0 then ldgDo s ldgLostRec else s

/-- The end of a flush (R482, R502, R506). While the unit is frozen MRAM and header stand still, and the flush waits (R498). A clear accepted during
a flush has its own flush after it (R481); one whose flush fails flushes again (log entry 136). -/
def flushEnd (s : State) (verifies : Bool) : State :=
  if !s.ldg.flushing || decide (s.ldg.st = .frozen) then s
  else if !verifies then
    let s1 := setRegF { s with ldg := { s.ldg with flushing := false } } aLdg 6 6 1
    let s2 := record s1 kEvent srcLedger cLdgMramErr (openPay cLdgMramErr srcLedger)
    if s2.ldg.st = .clearing then ldgDo s2 clearFlush else flushNext s2
  else
    let s1 := lostNote (flushDone s)
    match s1.ldg.st, s1.ldg.clearing with
    | .clearing, some (q, e, cmd) => if s1.ldg.flushAgain then ldgDo s1 clearFlush else clearApply s1 q e cmd (iakKey s1)
    | _, _ => flushNext s1

/-- LEDGER_CLEAR_COMPLETE (R495): the second flush of the clear is done; the held records are written, then LDG_LOST if events were
lost. Before the first lock the unit goes on holding (R492). -/
def clearEnd (s : State) : State :=
  if s.ldg.st ≠ .clearing ∨ s.ldg.flushing = true ∨ s.ldg.clearing.isSome = true then s
  else
    ldgDo s (fun l now =>
      let p : Word64 := BitVec.ofNat 64 l.heldLost
      let l0 := { l with st := .recording, flushAgain := false, heldLost := 0 }
      if l.prelock then (if l.heldLost > 0 then ldgHold l0 (ownEvent now cLdgLost p true) else l0, [])
      else
        let (l1, r1) := ldgWriteHeld l.held { l0 with held := [] }
        let (l2, r2) := if l.heldLost > 0 then ldgOwn l1 now cLdgLost p else (l1, [])
        let (l3, r3) := if l.flushAgain then ldgFlush l2 now else (l2, [])
        (l3, r1 ++ r2 ++ r3))

/-! ### Clear commands (R500, R501) -/

/-- Keep-zero bytes of a clear command (R500). -/
def clearFormBad (d : List Byte) : Bool :=
  fieldAt d 0 2 != 1 || (slice d 2 2).any (fun b => b != 0) || (slice d 10 6).any (fun b => b != 0) || (slice d 48 16).any (fun b => b != 0)
  || (slice d 1346 64).any (fun b => b != 0) || decide (fieldAt d 64 2 > 1280)

/-- New nonces of the Ledger. -/
def ldgNonce (s : State) : State :=
  let (c, s1) := draw s
  let (e, s2) := draw s1
  { s2 with ldg := { s2.ldg with nonce0 := Config.freeWord c, nonce1 := Config.freeWord e } }

/-- The active IAK slot (R516). -/
def iakSlot (s : State) : Option Nat :=
  (List.range 8).find? (fun i => !(smGet [] s.sec.fuses.iak i).isEmpty && !s.sec.fuses.revoked.getLsbD i)

/-- Whether the IAK record hashes to the active slot (R515, R521). -/
def iakUsable (s : State) : Bool :=
  match iakSlot s with
  | some i => (shake64 (iakKey s)).take 32 == smGet [] s.sec.fuses.iak i
  | none => false

/-- Why a clear is refused (R501): the first of the conditions that fails, in the order of the reasons. -/
def clearWhy (s : State) (d : List Byte) (sigOk : Bool) : Option Nat :=
  let l := s.ldg
  if l.st ≠ .recording then some 1
  else if !iakUsable s then some 2
  else if !sigOk then some 3
  else if slice d 16 16 ≠ modIdent s then some 4
  else if slice d 32 16 ≠ leBytes 8 l.nonce0.toNat ++ leBytes 8 l.nonce1.toNat then some 5
  else if !l.seals.any (fun p => fieldAt p.2 0 4 == fieldAt d 4 4 && fieldAt p.2 4 2 == fieldAt d 8 2) then some 6
  else if clearFormBad d then some 7
  else none

/-- A clear attempt: accepted, or refused with its reason (R501, R502). -/
def clearTry (s : State) (d : List Byte) (sigOk : Bool) : State × Option Nat :=
  match clearWhy s d sigOk with
  | some r => (ldgNonce (record s kRefusal srcLedger cLdgClearRefused r), some r)
  | none =>
    let s1 := ldgNonce s
    let s2 := { s1 with ldg := { ldgClose s1.ldg with st := .clearing, clearing := some (BitVec.ofNat 32 (fieldAt d 4 4), BitVec.ofNat 16 (fieldAt d 8 2), slice d 0 64) } }
    (if s2.ldg.flushing then { s2 with ldg := { s2.ldg with flushAgain := true } } else ldgDo s2 clearFlush, none)

/-! ### Freezing (R495 to R499) -/

/-- A FREEZE request; answers whether it is refused as busy (R497). -/
def freezeTry (s : State) (ms : Nat) : State × Bool :=
  let l := s.ldg
  let soon := match l.lastUnfreeze with | some t => decide (now s < t + 100000000) | none => false
  if l.st ≠ .recording ∨ soon = true ∨ ms > 100 then (s, true)
  else
    ({ s with ldg := { ldgClose l with st := .frozen, freezeEnd := now s + (if ms = 0 then 100 else ms) * 1000000 } }, false)

/-- What the unit holds is written at once, where a reset or a power failure ends it (R483, R534): after any freeze has ended, in CLEARING, and before
the first lock. A clear whose header is not yet written is abandoned (log entry 37). -/
def ldgSpill (s : State) : State :=
  if s.ldg.held.isEmpty && s.ldg.st == .recording then s
  else
    ldgDo s (fun l _ =>
      ldgWriteHeld l.held { l with st := .recording, clearing := none, held := [], heldLost := 0, flushAgain := if l.st = .clearing then false else l.flushAgain })

/-- The end of a freeze with its cause. -/
def thaw (s : State) (cause : Nat) : State := if s.ldg.st = .frozen then ldgDo s (fun l stamp => ldgUnfreeze l stamp (now s) cause) else s

/-! ### Accounting (R503 to R505) -/

/-- The events of a usage group (R504): the end of the segment, whether that is a window boundary, and what it used. -/
def useGroup (s : State) (win : Bool) (at_ : Nat) (energy : Word64) (active steps preempts : Nat) : List LEvent :=
  let ev (code : Nat) (p : Nat) : LEvent := ⟨nowW s, srcLedger, BitVec.ofNat 16 code, kEvent, 0, BitVec.ofNat 64 p, true, win && code == 0x9010, false⟩
  [ev 0x9010 at_, ev 0x9011 s.ldg.segJob.toNat, ev 0x9012 (energy - s.ldg.segEnergy).toNat, ev 0x9013 active,
   ev 0x9014 (steps % 2 ^ 48 + min preempts 65535 * 2 ^ 48)]

/-- A usage group is written or held; the next segment's energy counts from this reading. -/
def useWrite (s : State) (win : Bool) (at_ : Nat) (energy : Word64) (active steps preempts : Nat) : State :=
  let (l, rs) := ldgGroup s.ldg (useGroup s win at_ energy active steps preempts)
  ldgPost s { l with segEnergy := energy } rs

/-- The length of a window in ns (R503). -/
def windowNs (s : State) : Nat := regF s (aLdg + 0x30) 10 0 * 60000000000

/-- A window boundary passes while the time base goes from `t0` to `t1` (R505): the open record closes (R479), the snapshot is taken at the boundary,
and the next segment begins there. `ns` of the period count for USE_ACTIVE. -/
def windowPass (s : State) (t0 t1 ns : Nat) : Ledger :=
  let l := s.ldg
  let w := windowNs s
  if w = 0 ∨ l.up = false ∨ t0 / w = t1 / w then { l with segActive := l.segActive + ns }
  else
    let b := t1 / w * w
    let m := if l.st = .recording then ldgClose l else l
    { m with snaps := l.snaps ++ [⟨b, none, l.segActive + min ns (b - t0), l.segSteps, l.segPreempts⟩]
             segActive := min ns (t1 - b), segSteps := 0, segPreempts := 0 }

/-- The group of the oldest boundary that has passed. -/
def windowGroup (s : State) : State :=
  match s.ldg.snaps with
  | [] => s
  | x :: xs => useWrite { s with ldg := { s.ldg with snaps := xs } } true x.at_ (x.energy.getD (reg s aPwrEnergy)) x.active x.steps x.preempts

/-- ACCOUNTING_WINDOW_BOUNDARY: the group of a boundary that lies in the past is written (R504, R505; log entry 137). -/
def windowEnd (s : State) : State :=
  match s.ldg.snaps with
  | [] => s
  | x :: _ => if s.ldg.up && decide (x.at_ < now s) then windowGroup s else s

/-- A usage segment ends at a job's load or after its wipe: the groups of boundaries that passed, its own group, and the next segment belongs to
job `next` (R504, R505). -/
def segmentEnd (s : State) (next : Word64) : State :=
  let s1 := s.ldg.snaps.foldl (fun s _ => windowGroup s) s
  let l := s1.ldg
  let s2 := useWrite s1 false (now s) (reg s1 aPwrEnergy) l.segActive l.segSteps l.segPreempts
  { s2 with ldg := { s2.ldg with segJob := next, segActive := 0, segSteps := 0, segPreempts := 0 } }

/-- An energy addition (R505): one stamped after a boundary belongs to the next segment, so the boundary's reading is final before it. -/
def energyNote (s : State) : Ledger :=
  { s.ldg with snaps := s.ldg.snaps.map (fun x => if x.energy.isNone && decide (x.at_ < now s) then { x with energy := some (reg s aPwrEnergy) } else x) }

/-! ### Reads (R493, R494) -/

/-- Whether one record comes at or before another by epoch and sequence number, the latter in 32-bit serial arithmetic within an epoch (R491). -/
def recLe (e1 s1 e2 s2 : Nat) : Bool := decide (e1 < e2) || (e1 == e2 && decide ((s2 + 2 ^ 32 - s1 % 2 ^ 32) % 2 ^ 32 < 2 ^ 31))

/-- A record as a read returns it: the open one with the open flag and chain bytes zero. -/
def recOut (l : Ledger) (p : Rec × Word16) : Rec :=
  if l.isOpen && decide (some p = l.recs.getLast?) then { p.1 with flags := p.1.flags ||| 128, chain := 0 } else p.1

/-- The retained records from a start, at most `n`, and whether the start lay below the oldest. -/
def ldgRead (l : Ledger) (ep seq n : Nat) : List Rec × Bool :=
  let from_ (p : Rec × Word16) : Bool := recLe ep seq p.2.toNat p.1.seq.toNat
  let below := match l.recs.head? with | some p => from_ p && !(p.2.toNat == ep && p.1.seq.toNat == seq) | none => false
  (((l.recs.filter from_).take n).map (recOut l), below)

/-- The answers to a query (R494). -/
def queryAnswers (s : State) (src : BitVec 14) (count seq ep : Nat) : State :=
  let (rs, below) := ldgRead s.ldg ep seq count
  let body (st : Nat) (r : List Byte) : List Byte := leBytes 1 6 ++ leBytes 1 st ++ leBytes 2 (devId s).toNat ++ zeros 12 ++ slice r 0 32
  if rs.isEmpty then tc0Send s 6 src 0 (body 2 [])
  else rs.foldl (fun s r => tc0Send s 6 src 0 (body (b2n below) (recBytes r))) s

/-- LEDGER_QUERY. -/
def ledgerAsk (s : State) (src : BitVec 14) (count seq ep : Nat) : State :=
  if 1 ≤ count ∧ count ≤ 8 ∧ s.ldg.up = true then queryAnswers s src count seq ep else s

/-! ### Start of the unit (R492) -/

/-- The header copy a start uses. -/
def pickHeader (l : Ledger) : Option (LHeader × Bool) :=
  match hdrValid l.hdrA, hdrValid l.hdrB with
  | true, true => if l.hdrA.flushCount.toNat < l.hdrB.flushCount.toNat then some (l.hdrB, true) else some (l.hdrA, false)
  | true, false => some (l.hdrA, false)
  | false, true => some (l.hdrB, true)
  | false, false => none

/-- What survives a reset or a loss of power: MRAM, with the ring empty. -/
def ldgDown (l : Ledger) : Ledger :=
  { Ledger.init with
    recs := l.recs.take l.nFlushed, nFlushed := l.nFlushed, hdrA := l.hdrA, hdrB := l.hdrB, seals := l.seals, slot := l.slot
    flushCount := l.flushCount, oldOff := l.oldOff, clearBlock := l.clearBlock, nearFull := l.nearFull, prelock := l.prelock, timeBack := l.timeBack
    segJob := l.segJob, segEnergy := l.segEnergy, segActive := l.segActive, segSteps := l.segSteps, segPreempts := l.segPreempts, snaps := l.snaps }

/-- The Ledger unit comes up: counters from the header, fresh nonces, LDG_POWERUP (R492). -/
def ldgUp (s : State) : State :=
  let l := ldgDown s.ldg
  let (l1, p) := match pickHeader l with
    | some (h, b) => ({ l with nextSeq := h.nextSeq, epoch := h.epoch, chain := h.chain, slot := h.slot, flushCount := h.flushCount, floorStamp := h.stamp
                               clearBlock := h.clear, oldOff := h.oldOff }, (h.nextSeq - 1).toNat + b2n b * 2 ^ 32)
    | none => ({ l with recs := [], nFlushed := 0, chain := zeros 64, nextSeq := 0, epoch := 0 }, 2 ^ 33)
  record (ldgNonce { s with ldg := { l1 with up := true } }) kEvent srcLedger cLdgPowerup p

/-- The time base's first lock: the held events are stamped with the lock time and written (R492). A frozen or clearing unit holds them on. -/
def ldgLock (s : State) : State :=
  if !s.ldg.prelock then s
  else if s.ldg.held.isEmpty then { s with ldg := { s.ldg with prelock := false } }
  else
    ldgDo { s with ldg := { s.ldg with prelock := false } } (fun l stamp =>
      let hs := l.held.map (fun e => { e with stamp := stamp })
      if l.st ≠ .recording then ({ l with held := hs }, []) else ldgWriteHeld hs { l with held := [], heldLost := 0 })

/-! ### The commands -/

/-- LEDGER_CLEAR_COMPLETE. -/
def execLedgerClearComplete (s : State) : Out := .next (clearEnd s)
/-- ACCOUNTING_WINDOW_BOUNDARY. -/
def execAccountingWindowBoundary (s : State) : Out := .next (windowEnd s)
/-- LDG_FREEZE: a write of LDG_CTRL with freeze. -/
def execLdgFreeze (ms : BitVec 7) (s : State) : Out := .next (freezeTry s ms.toNat).1
/-- UNFREEZE. -/
def execUnfreeze (s : State) : Out := .next (thaw s 1)
/-- FREEZE_EXPIRY. -/
def execFreezeExpiry (s : State) : Out := .next (if now s ≥ s.ldg.freezeEnd then thaw s 2 else s)
/-- LEDGER_QUERY. -/
def execLedgerQuery (src : BitVec 14) (count : BitVec 8) (seq : Word32) (epoch : Word16) (s : State) : Out :=
  .next (ledgerAsk s src count.toNat seq.toNat epoch.toNat)
/-- LEDGER_ANSWER: what a requester does with an answer no rule says; the module's state does not change. -/
def execLedgerAnswer (_src : BitVec 14) (_status : BitVec 8) (_record : List Byte) (s : State) : Out := .next s

end Sys2Proof.Machine
end

