-- ==== Sys2Proof/Machine/MemRun.lean ====
section
/-! DEFINITION. The controllers and the CXL ports at work (10 R302 to R310): requests served, scrubbing, a port that goes down. -/

namespace Sys2Proof.Machine

/-- Codes of R313. -/
def cMemCorrected : Word16 := 0x5011
def cMemPoisoned : Word16 := 0x5012
def cCxlDown : Word16 := 0x5014

/-- The local address with controller k and controller-local address L (R301). -/
def mcGlobal (k l : Nat) : Nat :=
  let hi := l / 256 % 2 ^ 25
  let n := k ^^^ bitsOf hi 3 0 ^^^ bitsOf hi 7 4 ^^^ bitsOf hi 11 8
  hi * 4096 + n % 16 * 256 + l % 256

/-- What the device reports on an access to a line (R305). Each burst that a retry clears counts once (log entry 26). -/
def eccTake (s : State) (line : Nat) (e : EccOutcome) : State :=
  let k := mcOf (line * 64)
  match e with
  | .clean => s
  | .corrected => record (bump s (aMcCorr k) 1) kCorrected (srcMc k) cMemCorrected (openPay cMemCorrected (srcMc k))
  | .crcRetried n => if n = 0 then s else bump s (aMcCrc k) 1
  | .uncorrectable => if linePoison s line && !smGet false s.mem.slicePoison line then s else contained (setLinePoison s line true) (srcMc k) cMemPoisoned (line * 64)

/-- Requests that waited enter the window as places free; one that merges there gives its place to the next (R302, R303). The count bounds
the steps. -/
def mcEnter (k : Nat) : Nat → State → State
  | 0, s => s
  | f + 1, s =>
    let q := smGet [] s.mem.win k
    match q[255]? with
    | none => s
    | some r =>
      if mcMerges (q.take 255) r then
        mcEnter k f (bump { s with mem := { s.mem with win := smSet [] s.mem.win k (q.take 255 ++ q.drop 256) } } (aMcMerge k) 1)
      else s

/-- Whether a request hits an open page. -/
def pageHit (s : State) (r : MReq) : Bool := smGet 0 s.mem.pages (bankKey (r.line * 64)) == dramRow (r.line * 64) + 1

/-- The requests among which the controller may choose: the window up to the first request that 64 later ones have passed (R303). -/
def mcChoices : List MReq → List MReq
  | [] => []
  | r :: l => if r.served ≥ 64 then [r] else r :: mcChoices l

/-- The place in the window of the request served next: the oldest that hits an open page, else the oldest (R303); every bank is free when a
controller chooses (log entry 110). -/
def mcPick (s : State) (w : List MReq) : Nat :=
  match (mcChoices w).findIdx? (pageHit s) with
  | some i => i
  | none => 0

/-- Older requests see one more later request served ahead of them. -/
def mcPass (q : List MReq) (i : Nat) : List MReq :=
  (q.take i).map (fun r => { r with served := r.served + 1 }) ++ q.drop (i + 1)

/-- The fill of a line comes: the L1s that wait for it take its poison with it (R305). -/
def l1Come (s : State) (line : Nat) : State :=
  { s with cores := s.cores.map (fun p => if p.2.l1.any (fun l => l.line == line && l.pend) then
      (p.1, { p.2 with l1 := p.2.l1.map (fun l => if l.line = line ∧ l.pend = true then { l with pend := false, poison := l.poison || linePoison s line } else l) })
      else p) }

/-- One DRAM access. -/
def mcServe (s : State) (k : Nat) (e : EccOutcome) : State :=
  let q := smGet [] s.mem.win k
  let i := mcPick s (q.take 256)
  match q[i]? with
  | none => s
  | some r =>
    let s1 := if pageHit s r then bump s (aMcPageHit k) 1 else s
    let s2 := { s1 with mem := { s1.mem with
      win := smSet [] s1.mem.win k (mcPass q i)
      pages := smSet 0 s1.mem.pages (bankKey (r.line * 64)) (dramRow (r.line * 64) + 1) } }
    let s3 := eccTake s2 r.line e
    mcEnter k q.length (if r.write then s3 else l1Come s3 r.line)

/-- GDDR7_SCRUB: the read of one line of the controller. -/
def mcScrub (s : State) (k line : Nat) (e : EccOutcome) : State := eccTake s (mcGlobal k (line * 64) / 64) e

/-- Active LCU copies that touch a port that is down: their fragments fail (R309). -/
def downCopies (s : State) (core : Nat) : State :=
  modCore s core (fun c => { c with lcu := c.lcu.map (fun q =>
    if q.active then { q with fails := q.fails ||| (fragMask q.desc (fun g =>
      q.todo.getLsbD g && (fragSpan q.desc g).any (fun r => (rowRuns q.desc r).any (runDown s)))) } else q) })

/-- Whether a piece touches a port that is down. -/
def pieceDown (s : State) (q : Piece) : Bool :=
  [(q.src, q.sn), (q.dst, q.dn)].any (fun w => match w.1 with | .here a => runDown s (a, w.2, false) | _ => false)

/-- Started engine operations that touch a port that is down: their fragments fail, those apart whose bytes are read and sent; a collective step
that cannot be made fails when it is tried. -/
def downOps (s : State) (k : Nat) : State :=
  let e := getCe s k
  setCe s k { e with ops := e.ops.map (fun o =>
    if o.started && !o.completed && opMoves o && !(o.asked && planFar (opPlan s o)) then
      let p := opPlan s o
      let f := planFrag p
      { o with fails := o.fails ||| (p.pieces.foldl (fun b q => if pieceIn f o.todo q && pieceDown s q then
          (pieceFrags f q).foldl (fun b g => b ||| BitVec.ofNat 64 (2 ^ (g % 64))) b else b) 0 &&& o.todo) }
    else o) }

/-- CXL_PORT_DOWN (R309). -/
def portDown (s : State) (k : Nat) : State :=
  if regF s (aCxl k) 0 0 = 0 then s
  else
    let s1 := setRegF { s with mem := { s.mem with cxlDown := smSet false s.mem.cxlDown k true } } (aCxl k) 0 0 0
    let s2 := contained s1 (srcCxl k) cCxlDown (openPay cCxlDown (srcCxl k))
    let s3 := (s2.cores.map (fun p => p.1)).foldl downCopies s2
    (List.range nEngines).foldl downOps s3

/-- GDDR7_SCRUB. -/
def execGddr7Scrub (mc : BitVec 4) (line : BitVec 27) (e : EccOutcome) (s : State) : Out := .next (mcScrub s mc.toNat line.toNat e)
/-- CXL_PORT_DOWN. -/
def execCxlPortDown (port : BitVec 2) (s : State) : Out := .next (portDown s port.toNat)

end Sys2Proof.Machine
end

