-- ==== Sys2Proof/Machine/QuiesceOps.lean ====
section
/-! DEFINITION. The save area of the sequencer (02 R69, R70) and the quiesce image (19 R568): what a halt writes, section by section, and what a
restore reads back. -/

namespace Sys2Proof.Machine

/-! ### Slot words (R27, R28, R30) -/

/-- Opcode, predicate and done of a 96-bit slot. -/
def encHead96 (op : Nat) (pred : BitVec 4) (done : BitVec 6) : Nat := op * 2 ^ 92 + pred.toNat * 2 ^ 88 + done.toNat * 2 ^ 82

/-- The M slot of an operation. -/
def encM (m : MOp) (pred : BitVec 4) (done : BitVec 6) : Nat :=
  match m with
  | .nop => 0
  | .mld t g turn => encHead96 1 pred done + t.toNat * 2 ^ 77 + g.toNat * 2 ^ 73 + b2n turn * 2 ^ 72
  | .mswap => encHead96 2 pred done
  | .mmul zero areg off rows1 dest fmt acc d1 c1 rs sareg =>
    encHead96 (if zero then 4 else 3) pred done + areg.toNat * 2 ^ 78 + off.toNat * 2 ^ 62 + rows1.toNat * 2 ^ 51 + dest.toNat * 2 ^ 40
      + fmt.toNat * 2 ^ 36 + acc.toNat * 2 ^ 33 + d1.toNat * 2 ^ 27 + c1.toNat * 2 ^ 21 + b2n rs * 2 ^ 20 + sareg.toNat * 2 ^ 16
  | .mdrain first rows1 t g mode rnd areg off kind =>
    encHead96 5 pred done + first.toNat * 2 ^ 71 + rows1.toNat * 2 ^ 60 + t.toNat * 2 ^ 55 + g.toNat * 2 ^ 51 + mode.toNat * 2 ^ 48
      + rnd.toNat * 2 ^ 46 + areg.toNat * 2 ^ 42 + off.toNat * 2 ^ 26 + kind.toNat * 2 ^ 24
  | .mtopk first rows1 vt vg pt pg k1 base kind =>
    encHead96 6 pred done + first.toNat * 2 ^ 71 + rows1.toNat * 2 ^ 60 + vt.toNat * 2 ^ 55 + vg.toNat * 2 ^ 51 + pt.toNat * 2 ^ 46
      + pg.toNat * 2 ^ 42 + k1.toNat * 2 ^ 38 + base.toNat * 2 ^ 14 + kind.toNat * 2 ^ 12

/-- The opcode of the V slot. -/
def encVop (o : VOpc) : Nat :=
  match o with
  | .vnop => 0 | .vop => 1 | .vcvt => 2 | .vred => 3 | .vscale => 4 | .vrq => 5 | .vfn => 6 | .vsr => 7 | .vadam => 8

/-- The V slot of an operation. -/
def encV (o : VOpc) (v : VArgs) (pred : BitVec 4) (done : BitVec 6) : Nat :=
  encHead96 (encVop o) pred done + v.dst.toNat * 2 ^ 77 + v.dtag.toNat * 2 ^ 73 + v.a.toNat * 2 ^ 68 + v.atag.toNat * 2 ^ 64 + v.b.toNat * 2 ^ 59
    + v.btag.toNat * 2 ^ 55 + v.c.toNat * 2 ^ 50 + v.ctag.toNat * 2 ^ 46 + v.fn.toNat * 2 ^ 38 + v.rnd.toNat * 2 ^ 36 + v.fmt.toNat * 2 ^ 32 + v.imm.toNat

/-- The T slot of an operation. -/
def encT (t : TOp) (pred : BitVec 4) (done : BitVec 6) : Nat :=
  let head (op : Nat) : Nat := op * 2 ^ 60 + pred.toNat * 2 ^ 56 + done.toNat * 2 ^ 50
  match t with
  | .nop => 0
  | .tcfg t g rows1 elems1 fmt => head 1 + t.toNat * 2 ^ 45 + g.toNat * 2 ^ 41 + rows1.toNat * 2 ^ 35 + elems1.toNat * 2 ^ 25 + fmt.toNat * 2 ^ 21
  | .tld t g areg off pitch => head 2 + t.toNat * 2 ^ 45 + g.toNat * 2 ^ 41 + areg.toNat * 2 ^ 37 + off.toNat * 2 ^ 21 + pitch.toNat * 2 ^ 9
  | .tst t g areg off pitch => head 3 + t.toNat * 2 ^ 45 + g.toNat * 2 ^ 41 + areg.toNat * 2 ^ 37 + off.toNat * 2 ^ 21 + pitch.toNat * 2 ^ 9
  | .tmov d dg q qg => head 4 + d.toNat * 2 ^ 45 + dg.toNat * 2 ^ 41 + q.toNat * 2 ^ 36 + qg.toNat * 2 ^ 32
  | .tzero t g => head 5 + t.toNat * 2 ^ 45 + g.toNat * 2 ^ 41
  | .txp d dg q qg => head 6 + d.toNat * 2 ^ 45 + dg.toNat * 2 ^ 41 + q.toNat * 2 ^ 36 + qg.toNat * 2 ^ 32

/-- Slot number and slot word of an operation (R70). -/
def opWord (o : FOp) : Nat × Nat :=
  match o.body with
  | .m m => (1, encM m o.pred o.done)
  | .v op a => (2, encV op a o.pred o.done)
  | .t t => (3, encT t o.pred o.done)

/-- The operation that a slot word holds, with its predicate and done fields. -/
def wordOp (slot w : Nat) : Option (OpBody × Hdr) :=
  match slot with
  | 1 => (decM w).map (fun m => (.m m, hdr96 w))
  | 2 => (decVop w).map (fun v => (.v v (decVargs w), hdr96 w))
  | 3 => (decT w).map (fun t => (.t t, hdr64 w))
  | _ => none

/-! ### Raw GDDR7 (R296: the management core and the sequencer write it for the device itself) -/

/-- Bytes put into GDDR7: lines wholly written are valid; what lies beyond GDDR7 is left out. How the slices see it stands in `devTouch`. -/
def rawPut (s : State) (a : Nat) (bs : List Byte) : State :=
  let whole := (linesOf a bs.length).filter (fun l => decide (a ≤ l * 64) && decide (l * 64 + 64 ≤ a + bs.length))
  if a + bs.length ≤ gddrTop then
    { s with mem := { s.mem with gddr := memWrites s.mem.gddr a bs,
                                 poison := whole.foldl (fun m l => smSet false m l false) s.mem.poison
                                 slicePoison := whole.foldl (fun m l => smSet false m l false) s.mem.slicePoison } }
  else s

/-- The keys of a run of a sparse map, moved to begin at 0. -/
def smSub {α : Type} (m : SMap α) (a n : Nat) : SMap α :=
  (m.filter (fun p => decide (a ≤ p.1) && decide (p.1 < a + n))).map (fun p => (p.1 - a, p.2))

/-- A run of a sparse map replaced by another map's keys below `n`. -/
def smBlit {α : Type} (m : SMap α) (a n : Nat) (x : SMap α) : SMap α :=
  smBelow m a ++ (x.filter (fun p => decide (p.1 < n))).map (fun p => (p.1 + a, p.2)) ++ smFrom m (a + n)

/-- A store image put into GDDR7: bytes and poisoned lines (R568). -/
def rawBlit (s : State) (a n : Nat) (m : Memory) (bad : SMap Bool) : State :=
  if a + n ≤ gddrTop then
    { s with mem := { s.mem with gddr := smBlit s.mem.gddr a n m, poison := smBlit s.mem.poison (a / 64) (n / 64) bad
                                 slicePoison := smBlit s.mem.slicePoison (a / 64) (n / 64) [] } }
  else s

/-! ### The save area (R70) -/

/-- A loop stack as the save area holds it, outermost loop first (log entry 27). -/
def loopBytes (ls : List Loop) : List Byte :=
  slice (ls.reverse.flatMap (fun l => leBytes 4 l.startIdx ++ leBytes 4 l.bodyLen ++ leBytes 4 l.remaining ++ leBytes 4 (1 + 2 * b2n l.streamed))) 0 64

/-- A loop stack read back. The position of a local loop's first body bundle follows from the core's place. -/
def loopsOf (bs : List Byte) (pos idx : Nat) : List Loop :=
  ((List.range 4).filterMap (fun i =>
    let e := slice bs (16 * i) 16
    if bitOf (fieldAt e 12 1) 0 then
      some ⟨fieldAt e 0 4, fieldAt e 4 4, fieldAt e 8 4, bitOf (fieldAt e 12 1) 1, pos - (idx - fieldAt e 0 4)⟩
    else none)).reverse

/-- One replay entry. -/
def replayBytes (o : FOp) : List Byte :=
  leBytes 12 (opWord o).2 ++ leBytes 1 (opWord o).1 ++ leBytes 3 o.lag ++ leBytes 8 o.addr1.toNat ++ leBytes 8 o.addr2.toNat

/-- Predicates as a byte: bit 0 reads 1. -/
def predByte (p : SMap Bool) : Nat := (List.range 7).foldl (fun n i => n + b2n (smGet false p (i + 1)) * 2 ^ (i + 1)) 1

/-- Image index and streamed loops of the bundle at a core's next position (R70); what is not fetched yet is where the sequencer stands, or the
place that the core keeps. -/
def placeAt (s : State) (c : Core) : Nat × List Loop :=
  match (s.seq.log ++ s.seq.fetchQ).find? (fun b => b.pos = c.nextPos) with
  | some b => (b.idx, b.ctx.loops)
  | none =>
    if c.nextPos = s.seq.fetchPos then (s.seq.fetchIdx, s.seq.ctx.loops)
    else
      match c.ahead with
      | some a => if a.1 = c.nextPos then a.2 else (c.nextIdx, s.seq.ctx.loops)
      | none => (c.nextIdx, s.seq.ctx.loops)

/-- A core at the end of a halt keeps its place, since the sequencer goes back (R69). -/
def keepPlace (s : State) (c : Core) : Core :=
  { c with nextIdx := (placeAt s c).1, ahead := some (c.nextPos, placeAt s c) }

/-- A core's context. -/
def coreCtx (s : State) (c : Core) : List Byte :=
  let (idx, streamed) := placeAt s c
  let (fb, fd) := match c.fence with | some f => (f.bits.toNat, f.done.toNat) | none => (0, 0)
  (List.range 16).flatMap (fun i => leBytes 8 (smGet 0 c.a i).toNat)
  ++ leBytes 1 (predByte c.p) ++ leBytes 1 (b2n c.chalted + 2 * b2n c.fence.isSome) ++ leBytes 1 fb ++ leBytes 1 fd ++ zeros 4
  ++ leBytes 8 c.nextPos ++ leBytes 8 (retainOf c) ++ leBytes 4 idx ++ zeros 4 ++ loopBytes (c.loops ++ streamed)
  ++ leBytes 1 c.replay.length ++ zeros 31 ++ slice (c.replay.flatMap replayBytes) 0 512 ++ zeros 256

/-- The place of r_min: position, image index and the sequencer's context there. -/
def seqAtRmin (s : State) : Nat × Nat × SeqCtx :=
  match (s.seq.log ++ s.seq.fetchQ).find? (fun b => b.pos = rMin s) with
  | some b => (b.pos, b.idx, b.ctx)
  | none => (s.seq.fetchPos, s.seq.fetchIdx, s.seq.ctx)

/-- The kind 2 positions at or above r_min with their classes. -/
def seqMarks (s : State) : List (Nat × Nat) := ((s.seq.kind2 ++ s.seq.walk).filter (fun p => decide (rMin s ≤ p.1))).take 8

/-- The sequencer's context, in the order of R70; a return index of 0 tells that no variant is active (log entry 27). -/
def seqCtxBytes (s : State) : List Byte :=
  let (pos, idx, ctx) := seqAtRmin s
  let ks := seqMarks s
  slice (leBytes 8 pos ++ leBytes 4 idx ++ leBytes 8 s.seq.nextPos ++ loopBytes ctx.loops
    ++ leBytes 4 (match ctx.variant with | some v => v.retIdx | none => 0) ++ leBytes 1 s.seq.ctx.vclass ++ leBytes 1 ctx.vclass
    ++ leBytes 1 ks.length ++ ks.flatMap (fun k => leBytes 8 k.1 ++ leBytes 1 k.2)) 0 1024

/-- The save area's address. -/
def ctxBase (s : State) : Nat := regF s aSeqCtxBase 45 10 * 1024

/-- Stream contexts are written at SEQ_CTX_BASE (order 5 of R67). -/
def saveCtx (s0 : State) : State :=
  let s := devTouch true (ctxBase s0) (0x400 + nCores s0 * 0x400) s0
  (List.range (nCores s)).foldl (fun t i => rawPut t (ctxBase s + 0x400 + i * 0x400) (coreCtx s (getCore s i))) (rawPut s (ctxBase s) (seqCtxBytes s))

/-! ### Sections of the quiesce image (R237, R282, R393, R568) -/

/-- CMB_SHAPEn as it reads (R105). -/
def shapeWord (sh : Shape) : Nat :=
  if sh.tag = 0 then 0 else sh.tag + (sh.rows - 1) * 2 ^ 4 + (sh.elems - 1) * 2 ^ 10 + sh.fmt * 2 ^ 20 + 2 ^ 24

/-- A shape read back. -/
def shapeOfWord (v : Nat) : Shape :=
  if bitOf v 24 then ⟨bitsOf v 3 0, bitsOf v 23 20, bitsOf v 9 4 + 1, bitsOf v 19 10 + 1⟩ else Shape.none

/-- A stationary set (R139). Bytes of the value area that hold no value are the tile's padding bytes and, after its rows, zeros (log
entry 103). -/
def setBytes (x : StatSet) : List Byte :=
  leBytes 1 (b2n x.loaded + 2 * b2n x.turn + 4 * b2n x.faulty) ++ leBytes 1 x.cls ++ leBytes 1 x.fmt ++ leBytes 1 0 ++ leBytes 2 x.k ++ leBytes 2 x.n
  ++ leBytes 2 x.rows ++ leBytes 2 x.elems ++ zeros 20 ++ slice x.data 0 8192

/-- A stationary set read back (R140). -/
def setOf (b : List Byte) : StatSet :=
  if bitOf (fieldAt b 0 1) 0 then
    let rows := fieldAt b 8 2
    let elems := fieldAt b 10 2
    ⟨true, bitOf (fieldAt b 0 1) 1, bitOf (fieldAt b 0 1) 2, fieldAt b 1 1, fieldAt b 2 1, fieldAt b 4 2, fieldAt b 6 2, rows, elems,
      slice b 32 (rows * rowStride (fieldAt b 2 1) elems)⟩
  else StatSet.none

/-- The accumulator memory by logical rows. -/
def accLogical (c : Core) : Memory :=
  if c.flips.isEmpty then c.acc
  else (List.range 2048).foldl (fun m j => smBlit m (j * 256) 256 (smSub c.acc (physRow c j * 256) 256)) []

/-- Its poisoned lines: four to a poisoned row. -/
def accLines (c : Core) : SMap Bool :=
  (List.range 2048).foldl (fun m j => if smGet false c.accPoison (physRow c j) then
    (List.range 4).foldl (fun m i => smSet false m (4 * j + i) true) m else m) []

/-- One core image. -/
def saveCore (base : Nat) (c : Core) (s : State) : State :=
  let s1 := rawBlit s base 0x300000 c.buf c.bufPoison
  let s2 := rawBlit s1 (base + 0x300000) 0x80000 (accLogical c) (accLines c)
  let s3 := rawBlit s2 (base + 0x380000) 0x40000 c.comb []
  let s4 := rawBlit s3 (base + 0x3C0000) 0x40000 [] []
  let s5 := rawPut s4 (base + 0x3C0000) ((List.range 32).flatMap (fun n => leBytes 8 (shapeWord (smGet Shape.none c.shapes n)))
    ++ leBytes 8 (c.key.tid.toNat + c.key.pitch.toNat * 2 ^ 32) ++ leBytes 8 c.key.base.toNat ++ leBytes 8 c.key.step.toNat ++ leBytes 8 c.trace.toNat)
  rawPut s5 (base + 0x3C1000) (setBytes c.act ++ setBytes c.shd)

/-- A held signal and a landing tally. -/
def heldBytes (g : Signal) : List Byte :=
  leBytes 2 g.src.toNat ++ leBytes 2 g.ctx.toNat ++ zeros 4 ++ leBytes 2 g.core.toNat ++ leBytes 2 g.counter.toNat ++ leBytes 2 g.amount.toNat ++ zeros 2
  ++ leBytes 8 g.count.toNat ++ zeros 8
def tallyBytes (p : Nat × BitVec 48) : List Byte :=
  leBytes 2 (p.1 / 16384) ++ leBytes 2 (p.1 % 16384) ++ leBytes 1 1 ++ zeros 11 ++ leBytes 8 p.2.toNat ++ zeros 8

/-- The landing tallies of the pairs that hold an entry or have a tally. -/
def tallies (s : State) : List (Nat × BitVec 48) :=
  ((s.sync.pairs.map (fun p => p.1) ++ s.sync.tally.map (fun p => p.1)).dedup).map (fun k => (k, smGet 0 s.sync.tally k))

/-- The sync section. -/
def saveSync (base : Nat) (s : State) : State :=
  let s1 := rawBlit s base 0x7F000 [] []
  let s2 := (List.range (nCores s)).foldl (fun t i =>
    let c := getCore s i
    rawPut t (base + i * 128) ((List.range 48).flatMap (fun k => leBytes 2 (smGet 0 c.s k).toNat) ++ leBytes 1 (b2n c.token))) s1
  rawPut s2 (base + 0x1C000) ((List.range 512).flatMap (fun k => leBytes 2 (smGet 0 s.sync.g k).toNat)
    ++ leBytes 2 (sigCount s + (tallies s).length) ++ zeros 6 ++ (heldAll s).flatMap heldBytes ++ (tallies s).flatMap tallyBytes)

/-- A mask of handles. -/
def handleMask (c : Core) (f : Handle → Bool) : Nat := (List.range 16).foldl (fun n h => n + b2n (f (smGet Handle.none c.handles h)) * 2 ^ h) 0

/-- An LCU entry. -/
def copyBytes (q : Copy) : List Byte :=
  slice q.desc 0 64 ++ leBytes 8 q.todo.toNat ++ leBytes 1 q.done.toNat ++ leBytes 1 (b2n q.failed) ++ leBytes 2 (if q.failed then q.code.toNat else 0) ++ zeros 20

/-- The LCU section of a core. -/
def saveLcu (base : Nat) (c : Core) (s : State) : State :=
  rawPut s base (slice (leBytes 1 c.lcu.length ++ zeros 7 ++ leBytes 2 (handleMask c (fun h => h.armed)) ++ leBytes 2 (handleMask c (fun h => h.torn))
    ++ zeros 4 ++ c.lcu.flatMap copyBytes) 0 512)

/-- An engine entry, with the fragments it has still to move (R368); a collective that waits only for its peers' done words has bit 31 of its step
set (log entry 27). -/
def opEntry (s : State) (o : CeOp) : List Byte :=
  let todo := if opMoves o then o.todo &&& planAll (opPlan s o) else o.todo
  slice o.desc 0 128 ++ leBytes 2 o.ctx.toNat ++ leBytes 1 (match o.kind with | .copy => 1 | _ => 2) ++ leBytes 1 (b2n o.failed + 2 * b2n o.afail)
  ++ leBytes 4 (o.step + b2n o.completed * 2 ^ 31) ++ leBytes 8 todo.toNat ++ leBytes 8 o.failMask.toNat ++ leBytes 1 o.done.toNat
  ++ leBytes 2 (if o.failed then o.code.toNat else 0) ++ zeros 101

/-- Whether an entry of an engine is a copy or a collective. -/
def isWork (o : CeOp) : Bool := match o.kind with | .sig _ _ => false | _ => true

/-- The section of an engine. -/
def saveCe (base : Nat) (e : Engine) (s : State) : State :=
  let ops := e.ops.filter isWork
  rawPut (rawBlit s base 0x40000 [] []) base (leBytes 1 ops.length ++ zeros 7 ++ ops.flatMap (opEntry s))

/-- The header, written last. TRN_SEQ_STATUS carries poll where the sequence table of the current micro-batch is still to be read (log entry 27). -/
def imageHeader (s : State) : List Byte :=
  [0x55, 0x41, 0x38, 0x51] ++ zeros 4 ++ leBytes 8 s.job.id.toNat ++ leBytes 8 s.seq.step.toNat ++ leBytes 8 (reg s aTrnMb).toNat
  ++ leBytes 8 ((reg s aTrnSeqStatus).toNat % 2 ^ 38 + b2n s.seq.poll * 2 ^ 38) ++ leBytes 8 (reg s aTrnTokens).toNat ++ leBytes 8 (reg s aTrnSnapStatus).toNat
  ++ leBytes 8 (reg s aTrnSnapStep).toNat ++ leBytes 8 (now s) ++ leBytes 8 s.sync.sent.toNat ++ leBytes 8 s.sync.recv.toNat ++ zeros (4096 - 88)

/-- Dirty Hive lines are written back, so that GDDR7 holds the image and what else the job keeps there (log entry 28). -/
def hiveClean (s : State) : State :=
  let dirty := s.mem.hive.flatMap (fun p => (p.2.filter (fun l => l.dirty)).map (fun l => l.line))
  let s1 := { s with mem := { s.mem with hive := s.mem.hive.map (fun p => (p.1, p.2.map (fun l => { l with dirty := false }))) } }
  dirty.foldl hiveBack s1

/-- The parts of the quiesce image and their lengths, that of the job image apart (R568). -/
def imageAreas (s : State) : List (Nat × Nat) :=
  let b := s.job.quiesce
  [(b, 0x80000), (b + 0x80000, nCores s * 0x200), (b + 0x100000, 0x400000), (b + 0x1000000, nCores s * 0x400000)]

/-- Whether an error lies in a word of a core's buffer or accumulator memory. -/
def inCore (u : Upset) : Bool :=
  match u with
  | .bufCorrected _ => true
  | .bufPoisoned _ => true
  | .accCorrected _ => true
  | .accPoisoned _ => true
  | _ => false

/-- The quiesce image of the module as it stands (R568); its reading of the cores' memories meets their errors (R135, R251). -/
def saveImage (s0 : State) : State :=
  let s := (imageAreas s0).foldl (fun t r => devTouch true r.1 r.2 t) (meetBy s0 (fun _ => inCore))
  let b := s.job.quiesce
  let s1 := saveSync (b + 0x1000) (rawBlit s b 0x1000 [] [])
  let s2 := (List.range (nCores s)).foldl (fun t i => saveLcu (b + 0x80000 + i * 0x200) (getCore s i) t) s1
  let s3 := (List.range nEngines).foldl (fun t k => saveCe (b + 0x100000 + k * 0x40000) (getCe s k) t) s2
  let s4 := (List.range (nCores s)).foldl (fun t i => saveCore (b + 0x1000000 + i * 0x400000) (getCore s i) t) s3
  hiveClean (rawPut { s4 with job := { s4.job with saved := true, wiped := false } } b (imageHeader s))

/-! ### Reading it back (R69, R140, R237, R282, R393, R566, R567) -/

/-- Bytes of GDDR7. -/
def rawGet (s : State) (a n : Nat) : List Byte := memReads s.mem.gddr a n

/-- Poisoned accumulator rows from the lines of the image. -/
def rowsOfLines (m : SMap Bool) : SMap Bool := m.foldl (fun r p => smSet false r (p.1 / 4) true) []

/-- What a core needs of its image and save area. `old` is the core as it stands. -/
def loadCore (s : State) (id : Nat) (old : Core) : Core :=
  let b := s.job.quiesce + 0x1000000 + id * 0x400000
  let x := rawGet s (ctxBase s + 0x400 + id * 0x400) 1024
  let m := rawGet s (b + 0x3C0000) 0x120
  let y := rawGet s (s.job.quiesce + 0x1000 + id * 128) 128
  let pos := fieldAt x 0x88 8
  let idx := fieldAt x 0x98 4
  let st := fieldAt m 0x110 8
  let fl := fieldAt x 0x81 1
  { Core.init with
    st := if bitOf fl 0 then .done else .halted
    a := (List.range 16).foldl (fun r i => smSet 0 r i (BitVec.ofNat 64 (fieldAt x (8 * i) 8))) []
    p := (List.range 7).foldl (fun r i => smSet false r (i + 1) (bitOf (fieldAt x 0x80 1) (i + 1))) []
    nextPos := pos
    nextIdx := idx
    ahead := some (pos, idx, (loopsOf (slice x 0xA0 64) pos idx).filter (fun l => l.streamed))
    loops := (loopsOf (slice x 0xA0 64) pos idx).filter (fun l => !l.streamed)
    chalted := bitOf fl 0
    token := bitOf (fieldAt y 96 1) 0
    shapes := (List.range 32).foldl (fun r n => smSet Shape.none r n (shapeOfWord (fieldAt m (8 * n) 8))) []
    comb := smSub s.mem.gddr (b + 0x380000) 0x40000
    buf := smSub s.mem.gddr b 0x300000
    bufPoison := smSub s.mem.poison (b / 64) 0xC000
    acc := smSub s.mem.gddr (b + 0x300000) 0x80000
    accPoison := rowsOfLines (smSub s.mem.poison ((b + 0x300000) / 64) 0x2000)
    act := setOf (rawGet s (b + 0x3C1000) 8224)
    shd := setOf (rawGet s (b + 0x3C1000 + 8224) 8224)
    s := (List.range 48).foldl (fun r k => smSet 0 r k (BitVec.ofNat 16 (fieldAt y (2 * k) 2))) []
    key := ⟨BitVec.ofNat 64 st, BitVec.ofNat 32 (fieldAt m 0x100 4), BitVec.ofNat 32 (fieldAt m 0x104 4), BitVec.ofNat 48 (fieldAt m 0x108 8)⟩
    trace := BitVec.ofNat 32 (fieldAt m 0x118 8)
    gatedRem := old.gatedRem
    maskedRem := old.maskedRem
    fence := if bitOf fl 1 then some ⟨BitVec.ofNat 4 (fieldAt x 0x82 1), BitVec.ofNat 6 (fieldAt x 0x83 1), BitVec.ofNat 64 st, true⟩ else none
    nextOrd := old.nextOrd
    nextChain := old.nextChain
    dbgHalt := old.dbgHalt
    dbgStep := old.dbgStep
    dbgCause := old.dbgCause
    dbgK := old.dbgK
    dbgAgent := old.dbgAgent
    dbgOff := old.dbgOff }

/-- The replay list of a core whose registers and shapes are restored. DESIGN CHOICE (log entry 122): the image holds no image index of a
replayed operation; a fault of it names the core's next image index. -/
def loadReplay (s : State) (id : Nat) (c : Core) : Core :=
  let x := rawGet s (ctxBase s + 0x400 + id * 0x400) 1024
  { c with replay := (List.range (min 16 (fieldAt x 0xE0 1))).filterMap (fun i =>
      let e := slice x (0x100 + 32 * i) 32
      (wordOp (fieldAt e 12 1) (fieldAt e 0 12)).map (fun w =>
        { ord := 0, body := w.1, done := w.2.done, pred := w.2.pred, addr1 := BitVec.ofNat 64 (fieldAt e 16 8), addr2 := BitVec.ofNat 64 (fieldAt e 24 8)
          shapes := capture c w.1, key := { c.key with step := c.key.step - BitVec.ofNat 64 (fieldAt e 13 3) }, lag := fieldAt e 13 3, chain := 0
          started := false, set := .none, outcome := .clean, snap := [], olds := [], idx := c.nextIdx, restored := true })) }

/-- The copies and handles of a core; a copy's Mint step and descriptor offset the image does not hold: they stay where the copy stands, else the
step is a free value (log entry 27). -/
def loadLcu (s : State) (id ctr : Nat) (old : Core) (c : Core) : Core :=
  let e := rawGet s (s.job.quiesce + 0x80000 + id * 0x200) 512
  let h := fieldAt e 8 2
  let t := fieldAt e 10 2
  let n := min 4 (fieldAt e 0 1)
  { c with
    handles := (List.range 16).foldl (fun r i => smSet Handle.none r i ⟨bitOf h i, bitOf t i⟩) []
    nextOrd := c.nextOrd + n
    lcu := (List.range n).map (fun i =>
      let q := slice e (16 + 96 * i) 96
      let kept := old.lcu[i]?
      { ord := c.nextOrd + i, desc := slice q 0 64, descOff := (kept.map (fun w => w.descOff)).getD 0, done := BitVec.ofNat 6 (fieldAt q 72 1)
        todo := BitVec.ofNat 64 (fieldAt q 64 8), active := false, failed := bitOf (fieldAt q 73 1) 0, code := BitVec.ofNat 16 (fieldAt q 74 2), fails := 0
        torn := false, reread := false, mstep := (kept.map (fun w => w.mstep)).getD (Config.freeWord (ctr + i)), restored := true, cover := (kept.map (fun w => w.cover)).getD []
        idx := (kept.map (fun w => w.idx)).getD c.nextIdx, snap := (kept.map (fun w => w.snap)).getD [], was := [], goes := 0, late := false }) }

/-- The operations of an engine; what a restored counted copy of the module's own stream had added to its tally follows from the fragments that it
has moved (R231). The core number of an operation the image does not hold: it stays where the operation stands, else it is a free
value (log entry 27); an operation on the snapshot or securing context is the management core's. -/
def loadCe (s : State) (k ctr : Nat) : State :=
  let e := rawGet s (s.job.quiesce + 0x100000 + k * 0x40000) 0x4008
  let n := min 64 (fieldAt e 0 1)
  let old := (getCe s k).ops.filter isWork
  let sigs := (getCe s k).ops.filter (fun o => !isWork o)
  let snap := BitVec.ofNat 14 (regF s aTrnSnapCfg 13 0)
  let ops : List CeOp := (List.range n).map (fun i =>
    let q := slice e (8 + 256 * i) 256
    let d := slice q 0 128
    let ctx := BitVec.ofNat 14 (fieldAt q 128 2)
    let step := fieldAt q 132 4
    let fresh := newCeOp ((Config.freeWord (ctr + i)).toNat % nCores s) ctx (if fieldAt q 130 1 = 1 then CeKind.copy else CeKind.col) d
      (BitVec.ofNat 6 (fieldAt q 152 1)) 0 s.seq.step
    let o := match old[i]? with
      | some o => { fresh with core := o.core, idx := o.idx, mstep := o.mstep, rangeSeen := o.rangeSeen, flagSeen := o.flagSeen
                               mgmt := o.mgmt, uid := o.uid, landed := o.landed, snapNo := o.snapNo, tag := o.tag, cover := o.cover }
      | none =>
        let p := xstrPlan s d
        let m := if fieldAt q 130 1 = 1 ∧ ctx = snap ∧ snapSt s = 2 ∧ sClass d = 3 then 1 else 0
        { fresh with uid := s.ceUid + i, mgmt := m, snapNo := s.job.snapNo, tag := s.job.snapTag
                     landed := if fieldAt q 130 1 = 1 ∧ p.counted = true ∧ planFar p = false then prefixBytes p (BitVec.ofNat 64 (fieldAt q 136 8)) else 0 }
    { o with failed := bitOf (fieldAt q 131 1) 0, afail := bitOf (fieldAt q 131 1) 1, step := step % 2 ^ 31, completed := bitOf step 31
             todo := BitVec.ofNat 64 (fieldAt q 136 8), failMask := BitVec.ofNat 64 (fieldAt q 144 8), code := BitVec.ofNat 16 (fieldAt q 153 2), restored := true })
  { setCe s k { getCe s k with ops := ops ++ sigs } with ceUid := s.ceUid + n }

/-- Counters, held signals and landing tallies. A signal that this module still holds ahead of a gap in its stream stays there. -/
def loadSync (s : State) : State :=
  let b := s.job.quiesce + 0x1000
  let g := rawGet s (b + 0x1C000) 0x408
  let n := min 12288 (fieldAt g 0x400 2)
  let es := (List.range n).map (fun i => rawGet s (b + 0x1C408 + 32 * i) 32)
  let src (e : List Byte) : BitVec 14 := BitVec.ofNat 14 (fieldAt e 0 2)
  let ctx (e : List Byte) : BitVec 14 := BitVec.ofNat 14 (fieldAt e 2 2)
  { s with sync := { s.sync with
      g := (List.range 512).foldl (fun r k => smSet 0 r k (BitVec.ofNat 16 (fieldAt g (2 * k) 2))) []
      rounds := []
      held := ((es.filter (fun e => fieldAt e 4 1 == 0)).map (fun e => (⟨src e, ctx e, BitVec.ofNat 16 (fieldAt e 8 2),
        BitVec.ofNat 16 (fieldAt e 10 2), BitVec.ofNat 16 (fieldAt e 12 2), BitVec.ofNat 48 (fieldAt e 16 8)⟩ : Signal))).diff (aheadSigs s)
      pairs := (es.filter (fun e => fieldAt e 4 1 != 0)).foldl (fun r e => smSet false r ((src e).toNat * 16384 + (ctx e).toNat) true) []
      tally := (es.filter (fun e => fieldAt e 4 1 != 0)).foldl (fun r e =>
        smSet 0 r ((src e).toNat * 16384 + (ctx e).toNat) (BitVec.ofNat 48 (fieldAt e 16 8))) [] } }

/-- The variant that is active at r_min: its place and length are those of the first valid entry of the variant table that holds the image index
(log entry 27). -/
def variantAt (s : State) (loops : List Loop) (ret idx : Nat) : Option Variant :=
  if ret = 0 then none
  else
    let depth := (loops.filter (fun l => decide (l.startIdx ≤ ret - 1) && decide (ret - 1 < l.startIdx + l.bodyLen))).length
    let es := (List.range 64).map (fun k => rawGet s (regF s aSeqVtab 45 6 * 64 + 16 * k) 16)
    match es.find? (fun e => bitOf (fieldAt e 8 1) 0 && decide (fieldAt e 0 4 ≤ idx) && decide (idx < fieldAt e 0 4 + fieldAt e 4 4)) with
    | some e => some ⟨ret, fieldAt e 0 4, fieldAt e 4 4, depth⟩
    | none => some ⟨ret, idx, 2 ^ 32, depth⟩

/-- The sequencer's place from the save area. -/
def loadSeq (s : State) : State :=
  let x := rawGet s (ctxBase s) 1024
  let idx := fieldAt x 8 4
  let n := min 8 (fieldAt x 90 1)
  let hdr := rawGet s (regF s aTrn 45 12 * 4096) 64
  { s with seq := { s.seq with
      st := .halted, run := true, fetchIdx := idx, fetchPos := fieldAt x 0 8, fetchQ := [], nextPos := fieldAt x 12 8, log := [], stop := false
      ctx := ⟨loopsOf (slice x 20 64) 0 0, variantAt s (loopsOf (slice x 20 64) 0 0) (fieldAt x 84 4) idx, fieldAt x 89 1⟩
      kind2 := [], walk := (List.range n).map (fun i => (fieldAt x (91 + 9 * i) 8, fieldAt x (99 + 9 * i) 1)), poll := bitOf (fieldAt (rawGet s s.job.quiesce 88) 32 8) 38, pollPos := none
      hdr := if s.seq.hdr.isEmpty && fieldAt hdr 0 2 == (reg s aTrnMb).toNat % 65536 then hdr else s.seq.hdr, miss := false, tab := 0 } }

/-- The whole restore: header, sequencer, cores, sync section, LCU and engine sections. -/
def loadImage (s0 : State) : State :=
  let s := ((ctxBase s0, 0x400 + nCores s0 * 0x400) :: imageAreas s0).foldl (fun t r => devTouch false r.1 r.2 t) s0
  let h := rawGet s s.job.quiesce 88
  let hw (a : Nat) : Word64 := BitVec.ofNat 64 (fieldAt h a 8)
  let s1 := setReg (setReg (setReg (setReg (setReg s aTrnMb (hw 24)) aTrnSeqStatus (hw 32)) aTrnTokens (hw 40)) aTrnSnapStatus (hw 48)) aTrnSnapStep (hw 56)
  let s2 := loadSeq { s1 with seq := { s1.seq with step := hw 16 }, job := { s1.job with snapK := hw 56 }, sync := { s1.sync with sent := hw 72, recv := hw 80 } }
  let (ctr, s3) := draw s2
  let s4 := (List.range (nCores s3)).foldl (fun t i =>
    let old := getCore s3 i
    setCore t i (loadLcu s3 i (ctr + 8 * i) old (loadReplay s3 i (loadCore s3 i old)))) s3
  let s5 := (List.range nEngines).foldl (fun t k => loadCe t k (ctr + 8192 + 64 * k)) s4
  loadSync { s5 with free := s5.free + 16384 }

end Sys2Proof.Machine
end

