-- ==== Sys2Proof/Machine/WipeOps.lean ====
section
/-! DEFINITION. What a wipe clears and how one begins (17 R524 to R527, 10 R310): the scopes, the CXL parts, and the wipe state. -/

namespace Sys2Proof.Machine

/-- SEC_ registers (R529). -/
def aSec : Nat := 0x3F0000D00000
def aSecWipe : Nat := aSec + 0x20

/-! ### What a wipe covers (R525) -/

/-- Entry i of the loaded job's window table, from the base that the kept header names (R293, R569); a wipe clears MEM_WT_BASE. -/
def jobGranule (s : State) (i : Nat) : Nat :=
  if s.job.image.isEmpty then 0 else leNat (memReads s.mem.gddr (fieldAt s.job.image 80 8 + 8 * i) 8)

/-- Whether CXL granule j of port k is owned by the job (R310). -/
def cxlOwned (s : State) (k j : Nat) : Bool := bitOf (jobGranule s (65536 + k * 1024 + j)) 0

/-- The ports with bytes that a scope covers: every mapped GiB under full scope, owned ranges under job-boundary scope. -/
def wipePorts (s : State) (scope : Nat) : List Nat :=
  (List.range 4).filter (fun k =>
    (decide (scope = 3) && decide (cxlGib s k ≠ 0)) || (decide (scope = 2) && (List.range (cxlGib s k)).any (cxlOwned s k)))

/-- Whether a port uses Sanitize: the device supports it and every mapped GiB is covered (R310). -/
def wipeSanit (s : State) (scope k : Nat) : Bool :=
  regF s (aCxl k) 5 5 == 1 && regF s (aCxl k) 0 0 == 1 && (decide (scope = 3) || (List.range (cxlGib s k)).all (cxlOwned s k))

/-- The window-table entries of the owned CXL ranges (R310). -/
def wipeOwned (s : State) : List Nat :=
  (List.range 4).flatMap (fun k => ((List.range (cxlGib s k)).filter (cxlOwned s k)).map (fun j => 65536 + k * 1024 + j))

/-- A set of ports as bits. -/
def portBits (l : List Nat) : BitVec 4 := BitVec.ofNat 4 (l.foldl (fun n k => n + 2 ^ k) 0)

/-- Chip registers whose fields a wipe leaves unchanged (the After wipe columns of R215, R314, R351, R507, R529, R549, R576, R597). -/
def wipeKeeps (a : Nat) : Bool :=
  a == aVecMll
  || (decide (0x3F0000701000 ≤ a) && decide (a < 0x3F0000701400) && a % 0x40 == 0)
  || (decide (0x3F0000710000 ≤ a) && decide (a < 0x3F0000710100) && a % 0x40 == 0)
  || [0x00, 0x08, 0x10, 0x18, 0x40, 0x48].contains (a - aFab) && decide (aFab ≤ a)
  || (decide (0x3F0000801000 ≤ a) && decide (a < 0x3F0000802200) && (a % 0x80 == 0 || a % 0x80 == 0x30))
  || (decide (0x3F0000810000 ≤ a) && decide (a < 0x3F0000A00000))
  || (decide (0x3F0000C00000 ≤ a) && decide (a < 0x3F0001000000))
  || (decide (0x3F0001000000 ≤ a) && decide (a < 0x3F0001200000) && a != 0x3F0001000030 && a != 0x3F0001000038)

/-- Every chip register at its After wipe value. -/
def wipeRegs (r : SMap Word64) : SMap Word64 :=
  smSet 0 (smSet 0 (r.filter (fun p => wipeKeeps p.1)) aSynDl 1) aSynDlWin 50

/-- Debug halts, steps and the mailbox go; breakpoints and watchpoints are registers (R615). -/
def dbgWipe (d : Dbg) : Dbg := { d with chip := false, session := false, mbox := [] }

/-- The parts of a wipe that every scope has. Data that a Hive slice held dirty is discarded with the poison that only the slice held, so that those
bytes of GDDR7 are whatever the device held: free values. -/
def wipeDie (s : State) : State :=
  let (ctr, s1) := draw s
  let dirty := s1.mem.hive.flatMap (fun p => (p.2.filter (fun l => l.dirty)).map (fun l => l.line))
  let g := dirty.foldl (fun m l => memWrites m (l * 64) ((List.range 64).map (fun i => Config.freeByte ctr (l * 64 + i)))) s1.mem.gddr
  { s1 with
    regs := wipeRegs s1.regs
    cores := []
    seq := Seq.init
    sync := Sync.init
    ce := []
    mem := { s1.mem with gddr := g, poison := s1.mem.poison.filter (fun p => !smGet false s1.mem.slicePoison p.1), slicePoison := [], hive := [], win := [], pages := [], watch := [], upsets := [] }
    fab := { s1.fab with tx := [], rx := [], rsp := [], reads := [], serve := [], lostDst := [], links := s1.fab.links.map (fun p => (p.1, { p.2 with held := [] })) }
    dbg := dbgWipe s1.dbg }

/-- GDDR7 with its poison lists and the lines of it in the slices, and the CXL ranges under the scope: all zeros. -/
def wipeMem (s : State) (scope : Nat) : State :=
  let keep (a : Nat) : Bool := decide (scope ≠ 3) && !bitOf (jobGranule s (wtIndex a)) 0
  { s with mem := { s.mem with
      gddr := [], poison := [], slicePoison := [], hive := []
      cxl := s.mem.cxl.filter (fun p => keep p.1)
      cxlPoison := s.mem.cxlPoison.filter (fun p => keep (p.1 * 64)) } }

/-- VEC_MLL.loaded falls until the tables are loaded again (R204, R215). -/
def mllDrop (s : State) : State := setRegF s aVecMll 16 16 0

/-- Everything that a scope covers is cleared. A job-boundary or full wipe leaves nothing of the job but the refusals of R471. -/
def wipeClear (s : State) (scope : Nat) : State :=
  if scope ≤ 1 then
    let s1 := wipeDie s
    { s1 with job := { s1.job with wiped := true } }
  else
    let s1 := mllDrop (wipeDie (wipeMem s scope))
    { s1 with job := { Job.init with st := s1.job.st, feedBad := s1.job.feedBad, device := s1.job.device } }

/-! ### A wipe runs (R526, R527) -/

/-- SEC_WIPE while a wipe runs. -/
def wipeShow (s : State) (w : Wipe) : State := setRegF (setRegF (setRegF s aSecWipe 1 0 1) aSecWipe 3 2 w.scope) aSecWipe 8 5 w.ports.toNat

/-- A wipe is triggered; during a wipe it is merged into the running one. -/
def wipeStart (s : State) (scope : Nat) (why : WipeWhy) : State :=
  let ps := wipePorts s scope
  let ports := portBits ps
  let san := portBits (ps.filter (wipeSanit s scope))
  let owned := if scope = 2 then wipeOwned s else []
  let w : Wipe := match s.sec.wipe with
    | some o => ⟨max o.scope scope, o.ports ||| ports, o.sanit ||| san, o.used &&& ~~~ports, o.owned ++ owned, o.why ++ [why]⟩
    | none => ⟨scope, ports, san, 0, owned, [why]⟩
  let s1 := wipeClear s scope
  let s2 := ps.foldl (fun s k => setRegF s (aCxl k) 27 27 0) s1
  wipeShow { s2 with sec := { s2.sec with wipe := some w } } w

end Sys2Proof.Machine
end

