-- ==== Sys2Proof/Machine/JobOps.lean ====
section
/-! DEFINITION. The operations of job control that its commands share (15 R452 to R468, 19 R557 to R571): job states, completions to the host,
partners and slots, securing rounds, what follows a training step commit, and what follows a halt. -/

namespace Sys2Proof.Machine

/-! ### Job states and completions -/

/-- JOB_STATE and JOB_RECOVERED (R575). -/
def cJobState : Word16 := 0xC002
def cJobRecovered : Word16 := 0xC003

/-- A job state's value (R560). -/
def jobStNat (j : JobSt) : Nat :=
  match j with
  | .empty => 0 | .loaded => 1 | .starting => 2 | .running => 3 | .preempting => 4 | .preempted => 5 | .done => 6 | .faulted => 7
  | .recovering => 8 | .recovered => 9 | .wiping => 10

/-- Enter a job state; each change records JOB_STATE (R560). -/
def jobTo (s : State) (j : JobSt) : State :=
  if s.job.st = j then s
  else record { s with job := { s.job with st := j } } kEvent srcHost cJobState (jobStNat s.job.st + jobStNat j * 16)

/-- A job ends: WIPING, then the job-boundary wipe (R526, R561). -/
def jobEnd (s : State) : State := wipeStart (jobTo s .wiping) 2 .jobEnd

/-- A hold time of 0 ends the job as soon as it reaches DONE or FAULTED (R526). -/
def holdZero (s : State) : State := if s.job.hold = 0 ∧ (s.job.st = .done ∨ s.job.st = .faulted) then jobEnd s else s

/-- Post a completion entry, or keep it until there is room; that of a queue pair not in use is discarded (R557, R574). -/
def hostPost (s : State) (q cid : Nat) (more : Bool) (status r0 r1 : Nat) : State :=
  if !hostEn s q then s
  else if hostCanPost s q && !s.host.posts.any (fun p => p.q == q) then hostPut s q cid more status r0 r1
  else { s with host := { s.host with posts := s.host.posts ++ [⟨q, cid, more, status, r0, r1⟩] } }

/-- Completions that waited go while there is room, oldest first; what belongs to a pair not in use goes away. -/
def hostDrain : List HostPost → State → State
  | [], s => s
  | p :: ps, s => hostDrain ps (hostPost s p.q p.cid p.more p.status p.r0 p.r1)

/-- Try the waiting completions again. -/
def hostRetry (s : State) : State := hostDrain s.host.posts { s with host := { s.host with posts := [] } }

/-- A command completes: it is no longer under way, and its entry is posted. -/
def hostDone (s : State) (q cid status r0 r1 : Nat) : State :=
  hostPost { s with host := { s.host with cmds := s.host.cmds.filter (fun c => !(c.q == q && c.cid == cid)) } } q cid false status r0 r1

/-- Every command of an opcode completes. -/
def hostDoneAll (s : State) (op status r0 r1 : Nat) : State :=
  (s.host.cmds.filter (fun c => c.op == op)).foldl (fun s c => hostDone s c.q c.cid status r0 r1) s

/-! ### The failure section and the configuration block (R454, R455, R539) -/

def fsN (s : State) : Nat := fieldAt s.job.sect 24 2
def fsM (s : State) : Nat := fieldAt s.job.sect 26 2
def fsBitExact (s : State) : Bool := bitOf (fieldAt s.job.sect 1 1) 0
def fsTol (s : State) : Nat := fieldAt s.job.sect 28 4
def fsLoss (s : State) : Nat := fieldAt s.job.sect 32 8
def fsPartnerBase (s : State) : Nat := fieldAt s.job.sect 40 8
def fsSlot (s : State) : Nat := fieldAt s.job.sect 48 8
def fsFarBase (s : State) : Nat := fieldAt s.job.sect 56 8
def fsCtx (s : State) : BitVec 14 := BitVec.ofNat 14 (fieldAt s.job.sect 64 2)
def fsGsec (s : State) : Nat := fieldAt s.job.sect 66 2 % 512
/-- The sharded regions: base and length. -/
def fsRegions (s : State) : List (Nat × Nat) :=
  (List.range (fieldAt s.job.sect 68 1)).map (fun i => (fieldAt s.job.sect (80 + 16 * i) 8, fieldAt s.job.sect (88 + 16 * i) 8))

/-- Partner entries: device, feed tag, strict. -/
def cfgPartners (s : State) : List (BitVec 14 × Nat × Bool) :=
  (List.range (fieldAt s.cfg 48 1)).map (fun i =>
    (BitVec.ofNat 14 (fieldAt s.cfg (56 + 8 * i) 2), fieldAt s.cfg (58 + 8 * i) 2, bitOf (fieldAt s.cfg (60 + 8 * i) 1) 0))

/-- The far partner: device, feed tag, strict, slot. -/
def cfgFar (s : State) : Option (BitVec 14 × Nat × Bool × Nat) :=
  if bitOf (fieldAt s.cfg 49 1) 7 then
    some (BitVec.ofNat 14 (fieldAt s.cfg 50 2), fieldAt s.cfg 52 2, bitOf (fieldAt s.cfg 54 1) 0, fieldAt s.cfg 49 1 % 8)
  else none

/-- Whether the device of a partner entry may hold this module's state: a member that has not left, in an entry that is not refused (R455, R471).
Entries count by their position in the list; 7 stands for the far partner. -/
def holds (s : State) (pos : Nat) (d : BitVec 14) : Bool := s.job.members.contains d && !s.job.gone.contains d && !s.job.feedBad.contains pos

/-- The partner a member secures to, with its position (R455). -/
def partnerOf (s : State) : Option (Nat × BitVec 14) :=
  ((cfgPartners s).zipIdx.find? (fun p => holds s p.2 p.1.1)).map (fun p => (p.2, p.1.1))

/-- The far partner it secures to, with the slot. -/
def farOf (s : State) : Option (Nat × BitVec 14) :=
  match cfgFar s with
  | some (d, _, _, j) => if holds s 7 d then some (j, d) else none
  | none => none

/-! ### Watchers and wards (R445) -/

/-- The job has started and not ended (R445). -/
def jobLive (s : State) : Bool := match s.job.st with | .empty => false | .loaded => false | .wiping => false | _ => true

/-- The member of nearest lower rank, taken cyclically, that has not left. -/
def watcherOf (s : State) : Option (BitVec 14) :=
  let ms := s.job.members
  let g := ms.length
  let r := rankOf ms (devId s)
  if r ≥ g then none
  else ((List.range (g - 1)).map (fun i => ms.getD ((r + g - 1 - i) % g) 0)).find? (fun d => !s.job.gone.contains d)

/-- The member whose heartbeats come here: that of nearest higher rank that has not left. -/
def wardOf (s : State) : Option (BitVec 14) :=
  let ms := s.job.members
  let g := ms.length
  let r := rankOf ms (devId s)
  if r ≥ g then none
  else ((List.range (g - 1)).map (fun i => ms.getD ((r + 1 + i) % g) 0)).find? (fun d => !s.job.gone.contains d)

/-- The ward is timed from the instant at which it becomes this module's ward (R445). -/
def wardTime (s : State) : State :=
  if s.job.ward = wardOf s then s else { s with job := { s.job with ward := wardOf s, wardAt := now s } }

/-- The job starts: its ward is timed from now on (R445). -/
def wardStart (s : State) : State := { s with job := { s.job with ward := wardOf s, wardAt := now s } }

/-- Whether this member has left its job: it raised a fault that made it leave, or it learnt that it is counted as having left (R443 to R445). -/
def hasLeft (s : State) : Bool := s.job.left || s.job.relayed.contains (devId s, devId s)

/-! ### Slots (R457, R458) -/

/-- The half that a generation was written into: not that of the newest complete one its PERMIT named; half 0 when there was none. -/
def halfOf (far : Bool) (ps : List Permit) : Nat → Word32 → Nat
  | 0, _ => 0
  | f + 1, g =>
    match ps.find? (fun p => p.gen == g) with
    | some p =>
      let n := if far then p.gf else p.gp
      if n = 0 then 0 else 1 - halfOf far ps f n
    | none => 0

/-- The global address of the half of a generation at the partner or the far partner. -/
def slotAt (s : State) (far : Bool) (g : Word32) : Option (BitVec 14 × Nat) :=
  let h := halfOf far s.job.permits s.job.permits.length g
  if far then (farOf s).map (fun p => (p.2, fsFarBase s + (2 * p.1 + h) * fsSlot s))
  else (partnerOf s).map (fun p => (p.2, fsPartnerBase s + (2 * p.1 + h) * fsSlot s))

/-- The places a round writes: the partner's half, and for a far round the far partner's. -/
def roundSlots (s : State) (p : Permit) : List (BitVec 14 × Nat) :=
  (slotAt s false p.gen).toList ++ (if p.far then (slotAt s true p.gen).toList else [])

/-- Owner tag of the words of a securing round. -/
def ownRound : Owner := .mgmt 1

/-- Whether packets of a securing round travel, and whether some were lost. -/
def isRound (o : Owner) : Bool := decide (o = ownRound)
def roundLost (s : State) : Bool := s.fab.tx.any (fun t => t.2.lost.any (fun q => isRound q.owner))

/-- Bytes written at another module on the securing stream context, with class TC3. -/
def roundPut (s : State) (d : BitVec 14) (a : Nat) (bs : List Byte) : State :=
  fabWrites 3 d (fsCtx s) false ownRound (pktSteps bs.length) a bs (bs.map (fun _ => false)) s

/-- The copies of a region of `n` bytes from one address to another: one row each, of at most 4 GiB. -/
def rawCopies (src dst ctx guard : Nat) : Nat → Nat → List (List Byte)
  | 0, _ => []
  | f + 1, n =>
    if n = 0 then []
    else
      let k := min n (2 ^ 32)
      slice (leBytes 1 1 ++ leBytes 1 0xBB ++ leBytes 1 (guard * 16) ++ leBytes 1 3 ++ zeros 4 ++ leBytes 8 src ++ leBytes 8 dst ++ leBytes 4 (k - 1)) 0 128
        :: rawCopies (src + k) (dst + k) ctx guard f (n - k)

/-- The address of local byte `a` of another module (R289). -/
def farAddr (d : BitVec 14) (a : Nat) : Nat := 2 ^ 63 + d.toNat * 2 ^ 46 + a % 2 ^ 46

/-- Places of the regions in a slot, from byte 64 on in the order of the section: base, length, offset. -/
def regionPlaces : Nat → List (Nat × Nat) → List (Nat × Nat × Nat)
  | _, [] => []
  | o, (a, n) :: l => (a, n, o) :: regionPlaces (o + n) l

/-- The descriptors that copy every region into a half, or back out of it. -/
def regionCopies (s : State) (d : BitVec 14) (half : Nat) (out : Bool) : List (List Byte) :=
  (regionPlaces 64 (fsRegions s)).flatMap (fun r =>
    let far := farAddr d (half + r.2.2)
    if out then rawCopies r.1 far 0 1 (r.2.1 / 2 ^ 32 + 1) r.2.1 else rawCopies far r.1 0 1 (r.2.1 / 2 ^ 32 + 1) r.2.1)

/-- Put management-core copies into the engine of the securing context. -/
def pushCopies (s : State) (mgmt : Nat) (ds : List (List Byte)) : State :=
  ds.foldl (fun s d => cePush s { newCeOp noCore (fsCtx s) .copy d 63 0 s.seq.step with mgmt := mgmt }) s

/-- Whether management-core copies of a kind remain. -/
def copiesLeft (s : State) (mgmt : Nat) : Bool := (getCe s (engineOf (fsCtx s))).ops.any (fun o => o.mgmt == mgmt)

/-! ### GEN_DONE and PERMIT (R451, R458) -/

/-- The body of a message of types 1 to 4. -/
def ctlBody (typ b1 who w4 : Nat) (d8 : Nat) (w16 w20 : Nat) : List Byte :=
  leBytes 1 typ ++ leBytes 1 b1 ++ leBytes 2 who ++ leBytes 4 w4 ++ leBytes 8 d8 ++ leBytes 4 w16 ++ leBytes 4 w20 ++ zeros 8

/-- Send a GEN_DONE to another module. -/
def genSend (s : State) (lead : BitVec 14) (gen : Word32) (a : GenAns) : State :=
  tc0Send s 6 lead s.job.tag (ctlBody 3 (b2n a.far + 2 * b2n a.late) (devId s).toNat gen.toNat a.b.toNat (a.partner.toNat + a.farPartner.toNat * 2 ^ 16) 0)

/-- The answer of this member to a PERMIT; a late one reports the counter it has reached (log entry 29). A partner that does not exist is named 0x3FFF (log entry 29). -/
def genAnswer (s : State) (p : Permit) (late : Bool) : GenAns where
  src := devId s
  far := p.far
  late := late
  b := if late then s.seq.step else p.b
  partner := BitVec.ofNat 16 (match partnerOf s with | some x => x.2.toNat | none => 0x3FFF)
  farPartner := BitVec.ofNat 16 (match farOf s with | some x => x.2.toNat | none => 0x3FFF)

/-! ### The training step commit (R64, R413, R419, R458, R459, R467, R468) -/

/-- Codes of R473 that a commit records. -/
def cStepLoss : Word16 := 0xC105
def cReplayMatch : Word16 := 0xC106
def cVerifySkipped : Word16 := 0xC107
def cReplayMismatch : Word16 := 0xC108

/-- IMBALANCE at a commit, and TRN_TOKENS back at zero (R413). A header that names no module has no mean. -/
def imbalance (s : State) : State :=
  let pct := regF s aTrnImb 7 0
  let mods := fieldAt s.seq.hdr 2 2
  let total := fieldAt s.seq.hdr 8 8
  let t := (reg s aTrnTokens).toNat
  let s1 := if pct ≠ 0 ∧ mods ≠ 0 ∧ t * 100 * mods > total * (100 + pct)
    then record s kEvent srcSeq cImbalance (t % 2 ^ 32 + total / mods % 2 ^ 32 * 2 ^ 32) else s
  setReg s1 aTrnTokens 0

/-- The bits of the loss word (R467). -/
def lossWord (s : State) : Nat := leNat (memBytes s (fsLoss s % 2 ^ 46) 4)

/-- The most recent STEP_LOSS of the Ledger for a training step (R468). -/
def lossRecord (s : State) (step : Word64) : Option Nat :=
  (s.ldg.recs.reverse.find? (fun p => p.1.code == cStepLoss && p.1.payload.toNat / 2 ^ 32 == step.toNat % 2 ^ 32)).map (fun p => p.1.payload.toNat % 2 ^ 32)

/-- Whether a replayed loss meets its record (R468). -/
def lossMatches (s : State) (new old : Nat) : Bool :=
  if fsBitExact s then new == old
  else
    let d := numAbs (numSub (ofF32 new) (ofF32 old))
    let lim := numMul (ofF32 (fsTol s)) (numAbs (ofF32 old))
    !numIsNan d && !numIsNan lim && !numLt lim d

/-- STEP_LOSS of the committed step, and the comparison after a restart. -/
def stepLoss (s : State) (step : Word64) : State :=
  let w := lossWord s
  let old := lossRecord s step
  let s1 := record (devTouch false (fsLoss s % 2 ^ 46) 4 s) kEvent srcMgmt cStepLoss (w + step.toNat % 2 ^ 32 * 2 ^ 32)
  if s.job.verify ≠ some step then s1
  else
    let s2 := { s1 with job := { s1.job with verify := none } }
    match old with
    | none => record s2 kEvent srcMgmt cVerifySkipped (openPay cVerifySkipped srcMgmt)
    | some o =>
      if lossMatches s2 w o then record s2 kEvent srcMgmt cReplayMatch (openPay cReplayMatch srcMgmt)
      else jobFatal s2 noCore 0 cReplayMismatch srcMgmt (w + o * 2 ^ 32)

/-- Order 1 of a securing round: the open words (R458). -/
def roundOpen (s : State) (p : Permit) : State :=
  (roundSlots s p).foldl (fun s x => roundPut s x.1 x.2 (leBytes 8 p.gen.toNat)) { s with job := { s.job with round := .opening } }

/-- What a commit does for securing: a round at the permitted boundary, else one more on g[gsec] (R458, R459). -/
def secureAt (s : State) : State :=
  match s.job.permits with
  | p :: _ => if p.b = s.seq.step ∧ s.job.round = .idle then roundOpen s p else addG s (fsGsec s) 1
  | [] => addG s (fsGsec s) 1

/-- What a commit does for snapshots (R418, R419). -/
def snapAt (s : State) : State :=
  if snapSt s = 1 ∧ s.job.snapK = s.seq.step then snapBegin s else snapG s

/-- Whether an operation of a core was issued up to and including the mark's bundle of the pending commit, or holds it back (R64). -/
def before (s : State) (step : Word64) (restored : Bool) : Bool := restored || decide (step.toNat ≤ s.seq.step.toNat)

/-- Whether a core lets the pending commit happen. -/
def coreCommits (s : State) (c : Core) : Bool :=
  decide (c.key.step.toNat > s.seq.step.toNat)
  && !c.flight.any (fun o => before s o.key.step o.restored) && c.replay.isEmpty
  && !c.lcu.any (fun q => before s q.mstep q.restored) && !(match c.fence with | some f => before s f.mstep f.restored | none => false)
  && !c.arms.any (fun a => before s a.mstep false)

/-- Whether the engines let it happen. -/
def enginesCommit (s : State) : Bool :=
  s.ce.all (fun p => p.2.ops.all (fun o => !isWork o || o.completed || o.mgmt != 0 || !before s o.mstep o.restored))

/-- Whether a commit is due (R64). -/
def commitDue (s : State) : Bool :=
  decide (s.cores.length = nCores s) && s.cores.all (fun p => coreCommits s p.2) && enginesCommit s

/-- TRAINING_STEP_COMMIT. -/
def stepCommit (s : State) : State :=
  if (s.seq.st ≠ .running ∧ s.seq.st ≠ .halting) ∨ s.job.device.isSome = true ∨ commitDue s = false then s
  else
    let old := s.seq.step
    let s1 := { s with seq := { s.seq with step := old + 1 }, ldg := { s.ldg with segSteps := s.ldg.segSteps + 1 } }
    secureAt (snapAt (stepLoss (imbalance s1) old))

/-! ### The end of the stream (R66) -/

/-- Whether a core has nothing left to do. -/
def coreIdle (c : Core) : Bool := c.flight.isEmpty && c.replay.isEmpty && c.lcu.isEmpty && c.fence.isNone && c.arms.isEmpty

/-- JOB_DONE: every core has issued its CHALT and completed all its operations, and no commit is due; the exit status is reported (R66). -/
def jobEnds (s : State) : State :=
  if s.seq.st ≠ .running ∨ s.job.device.isSome = true ∨ s.cores.length ≠ nCores s
      ∨ s.cores.any (fun p => !p.2.chalted || !coreIdle p.2) = true ∨ s.ce.any (fun p => p.2.ops.any (fun o => o.mgmt == 0 && isWork o && !o.completed)) = true
      ∨ commitDue s = true then s
  else
    let s1 := detLeave { s with seq := { s.seq with st := .done, run := false }
                                cores := smMap Core.init (fun _ c => { c with st := .done }) s.cores }
    holdZero (hostDoneAll (jobTo { s1 with host := { s1.host with exit := some s1.seq.exit } } .done) 3 0 0 0)

/-! ### Halts (R67 to R69, R429, R450, R565) -/

/-- Whether a copy restarts from fragment 0 after a halt (R282). -/
def restarts (q : Copy) : Bool := dGuard q.desc || dDstKind q.desc != 0 && dDstKind q.desc != 1

/-- Fragments whose reads wait for them to be ready: they have not started (R299). -/
def lateFrags (s : State) (q : Copy) : BitVec 64 :=
  if q.late || (lateLines s q.desc q.todo).isEmpty then 0
  else fragMask q.desc (fun g => q.todo.getLsbD g && !(lateLines s q.desc (BitVec.ofNat 64 (2 ^ g))).isEmpty)

/-- An active copy to the buffer or to memory at order 4: the fragments that had started, a free choice, complete or fail, and the others stay
to move (R282, log entry 78). One whose fragments have all completed is done, when no copy before it is left (R271). -/
def haltCopy (core : Nat) (s : State) (q : Copy) : State :=
  if !q.active || restarts q then s
  else
    let (ctr, s1) := draw s
    let m := Config.freeWord ctr &&& q.todo &&& ~~~(lateFrags s q)
    let good := m &&& ~~~q.fails
    let rest := q.todo &&& ~~~good
    if m &&& q.fails ≠ 0 then endRun s1 core q false good rest cCopyFragment
    else if rest = 0 ∧ (getCore s core).lcu.head?.map (fun x => x.ord) = some q.ord then endRun s1 core q false good 0 0
    else movePart s1 core q good rest

/-- Order 4 of R67 in one core: fragments under way, copies that keep no fragments, XWATCH arms and handles, the L1 (R257, R282). -/
def haltLcu (s0 : State) (core : Nat) : State :=
  let s := (getCore s0 core).lcu.foldl (haltCopy core) s0
  let c := getCore s core
  let s1 := c.lcu.foldl (fun s q => freeWatch s (copyWatch core q)) s
  let s2 := modCore s1 core (fun c => { c with
    lcu := c.lcu.map (fun q => if restarts q then { q with active := false, todo := fragAll q.desc, fails := 0, torn := false, reread := false, snap := [], was := [], cover := [] } else q)
    arms := [] })
  let s3 := c.arms.foldl (fun s a =>
    match a.res with
    | none => doneAdvance (modCore s core (fun c => { c with handles := smSet Handle.none c.handles a.handle ⟨true, true⟩ })) core a.done
    | some r => watchRelease s core a.handle r a.done) s2
  let s4 := (List.range 16).foldl (fun s h => freeWatch s (.handle core h)) s3
  let s5 := modCore s4 core (fun c => { c with handles := c.handles.map (fun p => (p.1, { p.2 with torn := p.2.armed })) })
  l1Keep (l1BackAll core c.l1 s5) core (fun _ => false)

/-- Order 4 of R67 in one engine (R393). -/
def haltCe (s : State) (k : Nat) : State :=
  let e := getCe s k
  let s1 := e.ops.foldl (fun s o => freeWatch s (.ce k o.uid)) s
  setCe s1 k { e with ops := e.ops.map (fun o =>
    if o.completed || !isWork o then o
    else
      let o1 := { o with asked := false, data := [], dataBad := [], torn := false, reread := false, fails := 0, stage := 0 }
      if o.failed then o1
      else if opMoves o && (opPlan s o).guard then { o1 with started := false, todo := BitVec.allOnes 64, cover := [] }
      else { o1 with started := false }) }

/-- Whether the LCU of a stopped core still runs its copies to completion: none has failed, and the next has the slots it needs (R221). -/
def lcuFinishes (s : State) (c : Core) : Bool :=
  c.finish && !c.lcu.isEmpty && !c.lcu.any (fun q => q.failed)
  && !c.lcu.any (fun q => !q.active && dGuard q.desc && !slotsFree s (envelope q.desc).1 (envelope q.desc).2)

/-- Whether an engine still runs copies of a stopped core to completion, given the operations before (R221). -/
def ceFinishes (s : State) : List CeOp → List CeOp → Bool
  | _, [] => false
  | before, o :: l =>
    (o.must && !o.completed && !o.failed && !before.any (fun x => x.ctx == o.ctx && takesSlot x && x.failed) && (o.started || planSlots s (xstrPlan s o.desc)))
    || ceFinishes s (before ++ [o]) l

/-- Whether the halt still waits: for the operations that a faulted core lets run to completion (R221), for lines that fragments under way have
asked for, and for an engine whose packets are not acknowledged or lost. -/
def haltWaits (s : State) : Bool :=
  s.cores.any (fun p => (p.2.st == .faulted && !p.2.flight.isEmpty) || lcuFinishes s p.2
    || p.2.lcu.any (fun q => q.active && !restarts q && !readsIn s q))
  || s.ce.any (fun p => ceFinishes s [] p.2.ops)
  || (!s.job.left && ownerBusy s (fun _ => true))
  || (List.range nEngines).any (fun k => match pickEnd s k with | some o => opMoves o && (o.aborting || !(opPlan s o).guard) | none => false)

/-- Order 5 of R67: the contexts are saved and the state reads HALTED; a member that faulted takes part no longer (R429, R445). A table poll cut off by the halt is begun again by the CMARK that asked for it where that is fetched
again, at or above r_min; below r_min it stays pending (R61, R69). -/
def haltDone (s : State) : State :=
  let s0 := match s.seq.pollPos with
    | some p => if decide (rMin s ≤ p) && s.seq.poll then setReg { s with seq := { s.seq with poll := false, pollPos := none } } aTrnMb (reg s aTrnMb - 1) else s
    | none => s
  let s1 := { s0 with job := { s0.job with left := s0.job.left || s0.job.fatal.isSome } }
  saveCtx { s1 with seq := { s1.seq with st := .halted }
                    cores := smMap Core.init (fun _ c => keepPlace s1 (if c.st = .faulted || c.st = .done then { c with finish := false } else { c with st := .halted, finish := false })) s1.cores
                    ce := s1.ce.map (fun p => (p.1, { p.2 with ops := p.2.ops.map (fun o => { o with must := false }) })) }

/-- Orders 1 to 3 of R429 once the module is halted: the image, then FAULTED. An image with its header complete stands (R427). -/
def faultEnd (s : State) : State :=
  let s1 := if s.job.saved then s else saveImage s
  let s2 := { s1 with seq := { s1.seq with st := .faulted, run := false }
                      cores := smMap Core.init (fun _ c => if c.st = .faulted then c else { c with st := .faulted }) s1.cores }
  holdZero (hostDoneAll (hostDoneAll (hostDoneAll (jobTo s2 .faulted) 2 1 0 0) 3 0 0 0) 4 1 0 0)

/-- REPORT to the lead (R450, R451). -/
def reportBody (s : State) : List Byte := ctlBody 1 0 (devId s).toNat s.job.view.toNat s.seq.step.toNat 0 0

/-- A rendezvous message (R562). -/
def ctlMsg (s : State) (typ a b : Nat) : List Byte :=
  leBytes 1 typ ++ leBytes 1 0 ++ leBytes 2 (devId s).toNat ++ zeros 4 ++ leBytes 8 a ++ leBytes 8 b ++ leBytes 8 (now s)

/-- Send a message down the tree with this module as origin (R448). -/
def relayOwn (s : State) (kind : Nat) (body : List Byte) : State := tc0SendAll kind body (relayTo s (rankOf s.job.members (devId s))) s

end Sys2Proof.Machine
end

