-- ==== Sys2Proof/Machine/JobRun.lean ====
section
/-! DEFINITION. The job at work: start, halt, resume and the rendezvous messages (02 R66 to R73, 19 R562 to R567), as member and as lead. -/

namespace Sys2Proof.Machine

/-- JOB_START_TIMEOUT (R575). -/
def cJobStartTimeout : Word16 := 0xC005

/-! ### The header's registers (R569, R570) -/

/-- Put the RWL fields of an image's header into their registers. -/
def writeHeader (s : State) (h : List Byte) : State :=
  let f (a n : Nat) : Word64 := BitVec.ofNat 64 (fieldAt h a n)
  let s1 := setReg (setReg s aMintSeed (f 24 8)) aMintStep0 (f 32 8)
  let s2 := setRegF (setRegF s1 aMintCtrl 0 0 (fieldAt h 40 1 % 2)) aSynDl 0 0 (fieldAt h 40 1 / 2 % 2)
  let s3 := setRegF s2 aTrnImb 7 0 (fieldAt h 41 1)
  let s4 := (List.range (nCores s)).foldl (fun t i => setRegF (setRegF t (aArrSwin i) 7 0 (fieldAt h 42 1)) (aArrSwin i) 15 8 (fieldAt h 43 1)) s3
  let s5 := setRegF s4 aSynDlWin 13 0 (fieldAt h 44 2)
  let s6 := setReg (setReg (setReg (setReg s5 aSeqImgBase (f 48 8)) aSeqImgLen (f 56 4)) aSeqVtab (f 64 8)) aSeqCtxBase (f 72 8)
  let s7 := setReg (setReg (setReg s6 aMemWtBase (f 80 8)) aSynDlMap (f 88 8)) aTrn (f 96 8)
  setReg (setReg s7 aTrnSnapBase (f 104 8)) aTrnSnapCfg (f 112 4)

/-- The member list of an image. -/
def imageMembers (h : List Byte) : List (BitVec 14) := (List.range (fieldAt h 20 2)).map (fun i => BitVec.ofNat 14 (fieldAt h (1024 + 2 * i) 2))

/-- The lead list of a failure section. -/
def sectLeads (sect : List Byte) : List (BitVec 14) := (List.range (min 8 (fieldAt sect 0 1))).map (fun i => BitVec.ofNat 14 (fieldAt sect (8 + 2 * i) 2))

/-! ### Start (R66, R73, R563) -/

/-- Every core at the start of a stream: its tile registers are empty (R83), and what its other memories hold stays. -/
def coreStart (s : State) (c : Core) : Core :=
  { Core.init with
    st := .issuing, buf := c.buf, bufPoison := c.bufPoison, acc := c.acc, accPoison := c.accPoison, s := c.s
    key := { MKey.zero with step := reg s aMintStep0 }, gatedRem := c.gatedRem, maskedRem := c.maskedRem
    dbgHalt := c.dbgHalt, dbgStep := c.dbgStep, dbgCause := c.dbgCause, dbgK := c.dbgK, dbgAgent := c.dbgAgent, dbgOff := c.dbgOff }

/-- The stream stands before image index 0, with every core listed. -/
def streamInit (s : State) : State :=
  { s with
    seq := { Seq.init with step := s.seq.step, poll := true, run := true }
    cores := (List.range (nCores s)).map (fun i => (i, coreStart s (getCore s i))) }

/-- SEQ_CTRL.run (R73): the stream starts at image index 0; a length of 0 is SEQ_FETCH (R71). -/
def seqStart (s : State) : State :=
  if s.seq.st ≠ .idle ∨ s.job.device.isSome = true then s
  else
    let s1 := streamInit s
    let s2 := { s1 with seq := { s1.seq with st := .running } }
    if regF s2 aSeqImgLen 31 0 = 0 then seqStop s2 0 cSeqFetch (openPay cSeqFetch srcSeq) else s2

/-! ### Halt -/

/-- Whether every core has issued its CHALT (R68). -/
def allHalted (s : State) : Bool := decide (s.cores.length = nCores s) && s.cores.all (fun p => p.2.chalted)

/-- SEQ_CTRL.halt (R67, R68). -/
def haltAsk (s : State) : State := if s.seq.st = .running ∧ allHalted s = false ∧ s.job.device.isNone = true then haltStart s else s

/-- HALT_TIMEOUT (R67, R71). DESIGN CHOICE (log entry 121): SEQ_FAULT names the core that has not stopped and its next image index. -/
def haltLate (s : State) (core : Nat) : State :=
  if s.seq.st = .halting then deviceFatal (seqFault s core (getCore s core).nextIdx cHaltTimeout) srcSeq cHaltTimeout (openPay cHaltTimeout srcSeq) else s

/-! ### Resume (R69) -/

/-- Re-issue one replay entry with what it captured. -/
def relaunch (c : Core) (o : FOp) : Core :=
  let ch := match o.body with
    | .m m => if isMmul o then (joinChain c m).getD c.nextChain else 0
    | _ => 0
  { c with
    flight := c.flight ++ [{ o with ord := c.nextOrd, chain := ch, started := false, set := .none, outcome := .clean, snap := [], olds := [], restored := true }]
    nextOrd := c.nextOrd + 1
    nextChain := if isMmul o && ch == c.nextChain then c.nextChain + 1 else c.nextChain }

/-- A core after a resume: its replay list in flight again, its copies marked as restored; it is not debug-halted (R615). -/
def coreResume (c : Core) : Core :=
  let c1 := c.replay.foldl relaunch { c with replay := [], flight := [], closed := [], latches := [], wait := 0, cause := 0, arrived := none }
  { c1 with
    st := if c.chalted then .done else .issuing
    lcu := c.lcu.map (fun q => { q with restored := true })
    fence := c.fence.map (fun f => { f with restored := true })
    dbgHalt := false
    dbgStep := false }

/-- SEQ_CTRL.resume in HALTED: the sequencer goes back to r_min, cores re-issue their replay lists. -/
def seqResumes (s : State) : State :=
  if s.seq.st ≠ .halted ∨ s.job.fatal.isSome = true ∨ s.job.device.isSome = true then s
  else
    let (pos, idx, ctx) := seqAtRmin s
    { s with
      seq := { s.seq with st := .running, fetchIdx := idx, fetchPos := pos, fetchQ := [], nextPos := pos, log := [], stop := false, ctx := ctx
                          kind2 := [], walk := (s.seq.kind2 ++ s.seq.walk).filter (fun p => decide (pos ≤ p.1)), pollPos := none, miss := false, tab := 0 }
      cores := smMap Core.init (fun _ c => coreResume c) s.cores
      ce := s.ce.map (fun p => (p.1, { p.2 with ops := p.2.ops.map (fun o => { o with restored := true }) }))
      job := { s.job with order4 := false, saved := false }
      dbg := { s.dbg with chip := false } }

/-! ### Messages between members and lead -/

/-- Whether this module leads the job. -/
def isLead (s : State) : Bool := decide (jobLead s.job = some (devId s))

/-- Send a body to the lead, or do its work here when this module leads. -/
def toLead (s : State) (kind : Nat) (body : List Byte) (here : State → State) : State :=
  match jobLead s.job with
  | none => s
  | some d => if d = devId s then here s else tc0Send s kind d s.job.tag body

/-- Pass a message on down the tree of its originator (R448). -/
def relayFrom (s : State) (origin : BitVec 14) (kind : Nat) (body : List Byte) : State :=
  if s.job.members.contains origin then tc0SendAll kind body (relayTo s (rankOf s.job.members origin)) s else s

/-- A rendezvous message that another member originated. -/
def msgOf (src : BitVec 14) (typ a b t : Nat) : List Byte :=
  leBytes 1 typ ++ leBytes 1 0 ++ leBytes 2 src.toNat ++ zeros 4 ++ leBytes 8 a ++ leBytes 8 b ++ leBytes 8 t

/-! ### GO and ABORT (R563, R564, R566) -/

/-- What GO does at a member: a start in STARTING, a resume once its restore is done. -/
def goHere (s : State) : State :=
  match s.job.st with
  | .starting => wardTime (hostDoneAll (jobTo (seqStart s) .running) 2 0 0 0)
  | .preempted =>
    if s.job.restoredHere then
      let s1 := seqResumes { s with job := { s.job with restoredHere := false } }
      hostDoneAll (jobTo s1 .running) 4 0 0 0
    else s
  | _ => s

/-- What ABORT does at a member: STARTING goes back to LOADED, START times out. -/
def abortHere (s : State) : State := if s.job.st = .starting then hostDoneAll (jobTo s .loaded) 2 9 0 0 else s

/-- The first PERMIT that the lead sends: the smallest multiple of N above the starting counter (R458); `far` when M divides it. -/
def permitFor (s : State) (gen : Word32) (b : Nat) : Permit where
  gen := gen
  b := BitVec.ofNat 64 b
  far := decide (fsM s ≠ 0) && b % fsM s == 0
  gp := match s.job.gp with | some g => g.gen | none => 0
  gf := match s.job.gf with | some g => g.gen | none => 0

/-- The body of a PERMIT. -/
def permitBody (s : State) (p : Permit) : List Byte := ctlBody 4 (b2n p.far) (devId s).toNat p.gen.toNat p.b.toNat p.gp.toNat p.gf.toNat

/-- A member takes a PERMIT (R458): kept, or answered late when its counter has passed the boundary. -/
def permitHere (s : State) (p : Permit) (answer : State → GenAns → State) : State :=
  let s1 := { s with job := { s.job with permits := p :: s.job.permits, unanswered := none, round := .idle } }
  if s.seq.step.toNat ≥ p.b.toNat then answer s1 (genAnswer s1 p true) else s1

/-- A PERMIT sent by the lead to every member and to itself. A lead whose own counter has passed the boundary keeps its late answer with
the generation. -/
def permitSend (s : State) (p : Permit) : State :=
  let s1 := relayOwn { s with job := { s.job with gen := some ⟨p.gen, p.b, []⟩, genFar := p.far } } 6 (permitBody s p)
  permitHere s1 p (fun s a => { s with job := { s.job with gen := s.job.gen.map (fun g => { g with answers := g.answers ++ [a] }) } })

/-- The smallest multiple of n above x. -/
def multAbove (n x : Nat) : Nat := (x / n + 1) * n

/-- The lead relays GO; at a job's start it sends the first PERMIT when the job secures. A RESUME that starts a job preempted in STARTING is its
start (R458, R565). -/
def leadGo (s : State) : State :=
  let fresh := decide (s.job.st = .starting) || s.job.permits.isEmpty
  let s1 := { s with job := { s.job with ready := [], window := false, restored := [] } }
  let s2 := goHere (relayOwn s1 2 (ctlMsg s1 2 0 0))
  if fresh && decide (fsN s2 ≠ 0) then permitSend s2 (permitFor s2 1 (multAbove (fsN s2) s2.seq.step.toNat)) else s2

/-- Whether every member that the lead counts alive is in a list. -/
def allIn (s : State) (l : List (BitVec 14)) : Bool := (liveMembers s).all (fun d => l.contains d)

/-- The lead takes READY (R563, R564). -/
def readyTake (s : State) (src : BitVec 14) : State :=
  if (s.job.st ≠ .loaded ∧ s.job.st ≠ .starting) ∨ s.job.members.contains src = false then s
  else
    let s1 := { s with job := { s.job with ready := if s.job.ready.contains src then s.job.ready else s.job.ready ++ [src], window := true } }
    if allIn s1 s1.job.ready then leadGo s1 else s1

/-- The start window ends at the lead (R564). -/
def windowEnds (s : State) : State :=
  if !s.job.window || !isLead s then s
  else
    let missing := ((liveMembers s).filter (fun d => !s.job.ready.contains d)).length
    let s1 := { s with job := { s.job with ready := [], window := false } }
    abortHere (record (relayOwn s1 2 (ctlMsg s1 8 0 0)) kEvent srcHost cJobStartTimeout (missing % 65536))

/-! ### PREEMPT, DRAINED, QUIESCE (R565) -/

/-- Every member's tallies that the lead needs: what it was told, its own as they stand. -/
def drainedAll (s : State) : List (BitVec 14 × Word64 × Word64) :=
  let others := s.job.drained.filter (fun p => p.1 != devId s)
  if s.job.order4 then (devId s, s.sync.sent, s.sync.recv) :: others else others

/-- QUIESCE at a member that has reached order 4: the image, PREEMPTED, the final entry. -/
def quiesceHere (s : State) : State :=
  if s.job.st = .preempting ∧ s.job.order4 = true ∧ s.seq.st = .halting then
    hostDoneAll (jobTo (saveImage (haltDone s)) .preempted) 3 0 0 0
  else s

/-- The lead relays QUIESCE once it holds DRAINED from every member and the tallies agree. -/
def drainCheck (s : State) : State :=
  let l := (drainedAll s).filter (fun p => (liveMembers s).contains p.1)
  if s.job.st = .preempting && isLead s && allIn s (l.map (fun p => p.1)) && sumU64 (l.map (fun p => p.2.1)) == sumU64 (l.map (fun p => p.2.2)) then
    let s1 := { s with job := { s.job with drained := [] } }
    quiesceHere (relayOwn s1 2 (ctlMsg s1 5 0 0))
  else s

/-- DRAINED goes to the lead with the present tallies; a member whose tallies change afterwards sends it again (log entry 30). -/
def drainedSend (s : State) : State := toLead s 2 (ctlMsg s 4 s.sync.sent.toNat s.sync.recv.toNat) drainCheck

/-- After the tallies changed in a drained module. -/
def drainNote (s : State) : State := if s.job.st = .preempting ∧ s.job.order4 = true then drainedSend s else s

/-- The lead takes DRAINED. -/
def drainedTake (s : State) (src : BitVec 14) (sent recv : Word64) : State :=
  if s.job.members.contains src then
    drainCheck { s with job := { s.job with drained := s.job.drained.filter (fun p => p.1 != src) ++ [(src, sent, recv)] } }
  else s

/-- Order 1 of R565 at a member. In STARTING nothing starts: START is cancelled and the image will be that of the initial state. -/
def preemptHere (s : State) : State :=
  match s.job.st with
  | .running =>
    if allHalted s then s
    else haltAsk (jobTo { s with job := { s.job with order4 := false, drained := [] } } .preempting)
  | .starting =>
    let s1 := streamInit (hostDoneAll s 2 8 0 0)
    let s2 := { s1 with seq := { s1.seq with st := .halting }, job := { s1.job with order4 := true, ready := [], window := false, drained := [] } }
    drainedSend (jobTo s2 .preempting)
  | _ => s

/-! ### RESUME and RESTORED (R566, R567) -/

/-- Order 1 and 2 of R567 after an on-die wipe: the RWL fields, the tag and the member list from the kept copy of the job image. -/
def rewriteJob (s : State) : State :=
  let h := rawGet s (s.job.quiesce + 0x500000) s.job.image.length
  let s1 := writeHeader (devTouch false (s.job.quiesce + 0x500000) s.job.image.length s) h
  { s1 with job := { s1.job with tag := BitVec.ofNat 32 (fieldAt h 16 4), members := imageMembers h } }

/-- RESTORED at the lead: GO once every member is restored. -/
def restoredTake (s : State) (src : BitVec 14) : State :=
  if s.job.st ≠ .preempted ∨ s.job.members.contains src = false then s
  else
    let s1 := { s with job := { s.job with restored := if s.job.restored.contains src then s.job.restored else s.job.restored ++ [src] } }
    if allIn s1 s1.job.restored then leadGo s1 else s1

/-- A member restores its quiesce image and says so. -/
def restoreHere (s : State) : State :=
  if s.job.st ≠ .preempted ∨ s.job.restoredHere = true then s
  else
    let s1 := loadImage (if s.job.wiped then rewriteJob s else s)
    let s2 := { s1 with job := { s1.job with restoredHere := true, wiped := false } }
    toLead s2 2 (ctlMsg s2 7 0 0) (fun s => restoredTake s (devId s))

/-! ### The commands -/

/-- JOB_DONE. -/
def execJobDone (s : State) : Out := .next (jobEnds s)
/-- TRAINING_STEP_COMMIT. -/
def execTrainingStepCommit (s : State) : Out := .next (stepCommit s)
/-- SEQ_RUN: SEQ_CTRL.run written with 1. -/
def execSeqRun (s : State) : Out := .next (seqStart s)
/-- SEQ_HALT: SEQ_CTRL.halt written with 1. -/
def execSeqHalt (s : State) : Out := .next (haltAsk s)
/-- HALT_TIMEOUT of a core. -/
def execHaltTimeout (core : Nat) (s : State) : Out := onCore s core (haltLate s core)
/-- SEQ_RESUME: SEQ_CTRL.resume written with 1. -/
def execSeqResume (s : State) : Out := .next (seqResumes s)
/-- READY, at the lead. -/
def execReady (src : BitVec 14) (s : State) : Out := .next (if isLead s then readyTake s src else s)
/-- GO. -/
def execGo (src : BitVec 14) (time : Word64) (s : State) : Out := .next (goHere (relayFrom s src 2 (msgOf src 2 0 0 time.toNat)))
/-- ABORT. -/
def execAbort (src : BitVec 14) (time : Word64) (s : State) : Out := .next (abortHere (relayFrom s src 2 (msgOf src 8 0 0 time.toNat)))
/-- START_WINDOW_EXPIRY. -/
def execStartWindowExpiry (s : State) : Out := .next (windowEnds s)
/-- PREEMPT from another member. -/
def execPreemptMsg (src : BitVec 14) (time : Word64) (s : State) : Out := .next (preemptHere (relayFrom s src 2 (msgOf src 3 0 0 time.toNat)))
/-- DRAINED, at the lead. -/
def execDrained (src : BitVec 14) (sent recv : Word64) (s : State) : Out := .next (if isLead s then drainedTake s src sent recv else s)
/-- QUIESCE. -/
def execQuiesce (src : BitVec 14) (time : Word64) (s : State) : Out := .next (quiesceHere (relayFrom s src 2 (msgOf src 5 0 0 time.toNat)))
/-- RESUME from another member. -/
def execResumeMsg (src : BitVec 14) (time : Word64) (s : State) : Out := .next (restoreHere (relayFrom s src 2 (msgOf src 6 0 0 time.toNat)))
/-- RESTORED, at the lead. -/
def execRestored (src : BitVec 14) (s : State) : Out := .next (if isLead s then restoredTake s src else s)

end Sys2Proof.Machine
end

