-- ==== Sys2Proof/Machine/FailRun.lean ====
section
/-! DEFINITION. Failures of members (14 R429, 15 R443 to R470): heartbeats, notices, reports and plans, restore copies, securing rounds; and the end
of a halt. -/

namespace Sys2Proof.Machine

/-- Codes of R473. -/
def cMemberFailed : Word16 := 0xC101
def cLeadChanged : Word16 := 0xC102
def cRecoveryPlan : Word16 := 0xC103
def cGenSecured : Word16 := 0xC104
def cJobLeadless : Word16 := 0xC109
def cRecoveryLost : Word16 := 0xC10A
def cJobEnd : Word16 := 0xC10B

/-! ### Heartbeats (R445) -/

/-- HEARTBEAT_SEND. -/
def beatSend (s : State) : State :=
  if !jobLive s || hasLeft s || s.job.device.isSome then s
  else
    match watcherOf s with
    | none => s
    | some d => tc0Send s 4 d s.job.tag (leBytes 2 (devId s).toNat ++ zeros 6 ++ leBytes 8 (now s))

/-- A heartbeat arrives: the ward is timed from now on. -/
def beatTake (s : State) (src : BitVec 14) : State :=
  if jobLive s = true ∧ wardOf s = some src then { s with job := { s.job with ward := some src, wardAt := now s } } else s

/-! ### Reports and the lead's plan (R450 to R453, R461, R462) -/

/-- Codes, views and members that a REPORT of the present view came from. -/
def reported (s : State) : List (BitVec 14) := s.job.views.map (fun p => p.1)

/-- The partner that a member used for a generation, as the lead knows it: from its answer, for the lead itself from its configuration. What a
lead does not hold because it became lead later is open (log entry 79). -/
def usedBy (s : State) (g : Gen) (far : Bool) (m : BitVec 14) : Option (BitVec 14) :=
  match g.answers.find? (fun a => a.src == m) with
  | some a => let p := if far then a.farPartner else a.partner; if p.toNat < 0x3FFF then some (BitVec.ofNat 14 p.toNat) else none
  | none =>
    if m = devId s then (if far then (farOf s).map (fun p => p.2) else (partnerOf s).map (fun p => p.2))
    else some (BitVec.ofNat 14 (Config.partnerUsed m.toNat g.gen.toNat far))

/-- `usable` of R462. -/
def genUsable (s : State) (g : Option Gen) (far : Bool) : Bool :=
  s.job.members.all (fun m =>
    (match g with
     | some x => (!s.job.gone.contains m && s.job.views.any (fun p => p.1 == m && p.2 == x.b))
        || (match usedBy s x far m with | some d => !s.job.gone.contains d | none => false)
     | none => false))

/-- The path and the generation of the plan, by R462. -/
def choosePlan (s : State) : Option (Nat × Gen) :=
  match s.job.gp with
  | some g =>
    if (liveMembers s).all (fun m => s.job.views.any (fun p => p.1 == m && p.2 == g.b)) && genUsable s (some g) false then some (1, g)
    else if genUsable s (some g) false then some (2, g)
    else match s.job.gf with | some f => if genUsable s (some f) true then some (3, f) else none | none => none
  | none => match s.job.gf with | some f => if genUsable s (some f) true then some (3, f) else none | none => none

/-- The body of a PLAN. -/
def planBody (s : State) (p : PlanMsg) : List Byte := ctlBody 2 p.path (devId s).toNat p.view.toNat p.b.toNat p.gen.toNat 0

/-- A PLAN at a member (R461, R463): recorded; under ROLLBACK and FALLBACK a member whose counter differs copies its own state back. -/
def planHere (s : State) (p : PlanMsg) : State :=
  if p.view.toNat < s.job.view.toNat ∨ s.job.st ≠ .recovering then s
  else
    let s1 := record { s with job := { s.job with plan := some p, view := p.view } } kEvent srcMgmt cRecoveryPlan
      (p.path % 16 + p.gen.toNat * 2 ^ 4 + p.b.toNat % 2 ^ 28 * 2 ^ 36)
    if p.path = 1 ∨ s.seq.step = p.b then s1
    else
      match slotAt s1 (p.path == 3) p.gen with
      | some (d, h) => pushCopies s1 3 (regionCopies s1 d h false)
      | none => s1

/-- A PLAN arrives: one below the highest view seen is discarded, another is passed on and acted on (R451). -/
def planTake (s : State) (src : BitVec 14) (body : List Byte) (p : PlanMsg) : State :=
  if p.view.toNat < s.job.view.toNat then s else planHere (relayFrom s src 6 body) p

/-- The lead chooses once every member it counts alive has reported in this view. -/
def planCheck (s : State) : State :=
  if isLead s && decide (s.job.st = .recovering) && s.job.plan.isNone && allIn s (reported s) then
    match choosePlan s with
    | none => jobFatal s noCore 0 cRecoveryLost srcMgmt (openPay cRecoveryLost srcMgmt)
    | some (path, g) =>
      let p : PlanMsg := ⟨path, s.job.view, g.b, g.gen⟩
      planHere (relayOwn s 6 (planBody s p)) p
  else s

/-- The lead takes a REPORT (R451, R452). One of a higher view shows that the lead has not seen every notice yet: none of that view's has come. -/
def reportTake (s : State) (src : BitVec 14) (view : Word32) (counter : Word64) : State :=
  if !s.job.members.contains src || s.job.gone.contains src || decide (view.toNat < s.job.view.toNat) then s
  else
    let old := if view = s.job.view then s.job.views else []
    planCheck { s with job := { s.job with view := view, plan := if view = s.job.view then s.job.plan else none
                                           notices := if view = s.job.view then s.job.notices else []
                                           views := old.filter (fun p => p.1 != src) ++ [(src, counter)] } }

/-- A halted survivor reports to the lead (R450). -/
def reportSend (s : State) : State := toLead s 6 (reportBody s) (fun s => reportTake s (devId s) s.job.view s.seq.step)

/-- The lead has left (R453): LEAD_CHANGED, and what the new lead needs; JOB_LEADLESS when none is left. -/
def leadMoved (s : State) : State :=
  if s.job.lead = jobLead s.job then s
  else
    match jobLead s.job with
    | none => jobFatal { s with job := { s.job with lead := none } } noCore 0 cJobLeadless srcMgmt (openPay cJobLeadless srcMgmt)
    | some d =>
      let s1 := record { s with job := { s.job with lead := some d } } kEvent srcMgmt cLeadChanged d.toNat
      let s2 := match s1.job.permits with
        | p :: _ =>
          if d = devId s1 then { s1 with job := { s1.job with gen := some ⟨p.gen, p.b, s1.job.unanswered.toList⟩, genFar := p.far } }
          else (match s1.job.unanswered with | some a => genSend s1 d p.gen a | none => s1)
        | [] => s1
      let s3 := if s2.sync.det = .blocked then sendBlocked s2 else s2
      if s3.seq.st = .halted ∧ s3.job.st = .recovering then reportSend s3 else s3

/-! ### Notices (R443, R444, R447, R448, R450) -/

/-- What a member knows of the job's generations when it becomes lead: those its PERMITs named, without answers. -/
def genKnown (s : State) (g : Option Gen) (n : Word32) : Option Gen :=
  if n = 0 then none
  else if (g.map (fun x => x.gen)) = some n then g
  else
    match s.job.permits.find? (fun p => p.gen == n) with
    | some p => some ⟨n, p.b, []⟩
    | none => none

/-- The newest complete generations by the last PERMIT. -/
def genLearn (s : State) : State :=
  match s.job.permits with
  | p :: _ => { s with job := { s.job with gp := genKnown s s.job.gp p.gp, gf := genKnown s s.job.gf p.gf } }
  | [] => s

/-- A notice is relayed once for each pair of departed member and originator. -/
def noticeRelay (s : State) (n : Notice) : State :=
  if s.job.relayed.contains (n.gone, n.orig) || !s.job.members.contains n.orig then s
  else relayFrom { s with job := { s.job with relayed := s.job.relayed ++ [(n.gone, n.orig)] } } n.orig 1
    (noticeBody n.gone n.orig n.cause n.code.toNat n.time.toNat n.step.toNat)

/-- A generation whose answers are not all in when a member leaves stays incomplete (R470). -/
def genDrop (j : Job) : Job :=
  match j.gen with
  | some g => if (j.members.filter (fun d => !j.gone.contains d)).all (fun d => g.answers.any (fun a => a.src == d)) then j else { j with gen := none }
  | none => j

/-- The running restore of an earlier view is void (R469). -/
def planVoid (s : State) : State :=
  let k := engineOf (fsCtx s)
  let e := getCe s k
  let s1 := setCe s k { e with ops := e.ops.filter (fun o => o.mgmt != 3) }
  { s1 with job := { s1.job with plan := none } }

/-- Orders 4 and 5 of R450, by what the job does at the time. Where nothing runs there is nothing to halt (log entry 31). -/
def noticeHalt (s : State) : State :=
  match s.job.st with
  | .running =>
    if s.seq.st = .halted then reportSend (jobTo s .recovering)
    else if allHalted s then s
    else haltAsk (jobTo s .recovering)
  | .preempting =>
    let s1 := jobTo (hostDoneAll s 3 0 1 0) .recovering
    if s1.job.order4 then reportSend (haltDone s1) else s1
  | .preempted => reportSend (jobTo { s with job := { s.job with restoredHere := false } } .recovering)
  | .recovering => if s.seq.st = .halted then reportSend (planVoid s) else s
  | .recovered => reportSend (planVoid (jobTo s .recovering))
  | .starting => if isLead s && allIn s s.job.ready then leadGo s else s
  | _ => s

/-- What is left of a securing round that a notice interrupts (R470): its copies are dropped and no order of it follows. -/
def roundDrop (s : State) : State :=
  let k := engineOf (fsCtx s)
  let e := getCe s k
  let s1 := (e.ops.filter (fun o => o.mgmt == 2)).foldl (fun s o => freeWatch s (.ce k o.uid)) s
  { setCe s1 k { e with ops := e.ops.filter (fun o => o.mgmt != 2) } with job := { s1.job with round := .idle } }

/-- The first notice that names a member (R450). The view is one above that of the departures before it (R452, log entry 79); its timers count
from its first notice here. -/
def noticeFirst (s : State) (n : Notice) : State :=
  let s1 := record s kEvent srcMgmt cMemberFailed (n.gone.toNat + n.orig.toNat * 2 ^ 16 + n.cause % 8 * 2 ^ 32 + n.code.toNat * 2 ^ 48)
  let j := genDrop s1.job
  let s2 := noticeRelay { s1 with job := { j with gone := j.gone ++ [n.gone] } } n
  let s2 := roundDrop (wardTime (colGone (loseDst s2 n.gone) n.gone))
  let v := max s2.job.view.toNat s2.job.gone.length
  let same := decide (v = s2.job.view.toNat)
  let s3 := { s2 with job := { s2.job with view := BitVec.ofNat 32 v, views := if same then s2.job.views else []
                                           notices := if same then s2.job.notices ++ [n] else [n], resent := []
                                           viewAt := if same && !s2.job.notices.isEmpty then s2.job.viewAt else now s2 } }
  let s4 := leadMoved (genLearn s3)
  leadCheck (drainCheck (noticeHalt s4))

/-- A notice of a job-wide fault (R444): JOB_END, a halt, and FAULTED without recovery. -/
def noticeEnd (s : State) (n : Notice) : State :=
  let s1 := noticeRelay (record s kEvent srcMgmt cJobEnd (openPay cJobEnd srcMgmt)) n
  let s2 := { s1 with job := { s1.job with fatal := some (s1.job.fatal.getD n.code) } }
  match s2.job.st with
  | .running => haltAsk s2
  | .preempting => if s2.job.order4 then faultEnd (haltDone s2) else s2
  | .recovering => if s2.seq.st = .halted then faultEnd s2 else s2
  | .preempted => faultEnd s2
  | .recovered => faultEnd s2
  | .starting => holdZero (jobTo (hostDoneAll s2 2 1 0 0) .faulted)
  | .loaded => holdZero (jobTo s2 .faulted)
  | .done => faultEnd s2
  | _ => s1

/-- A failure notice arrives or is made here about another member. A member that learns that it is
counted as having left sends nothing more to the job (R445, log entry 31). -/
def noticeTake (s : State) (n : Notice) : State :=
  if !s.job.members.contains n.gone then s
  else if n.cause = 6 then (if s.job.relayed.contains (n.gone, n.orig) then s else noticeEnd s n)
  else if n.gone = devId s then noticeRelay { s with job := { s.job with left := true } } n
  else if s.job.gone.contains n.gone then noticeRelay s n
  else noticeFirst s n

/-- A notice that this module originates (R443, R452). -/
def noticeMake (s : State) (d : BitVec 14) (cause : Nat) : State :=
  noticeTake s ⟨d, devId s, cause, 0, nowW s, s.seq.step⟩

/-- HEARTBEAT_TIMEOUT: no heartbeat of the ward for 100 µs (R443). -/
def beatLost (s : State) : State :=
  if !jobLive s || hasLeft s || decide (now s < s.job.wardAt + 100000) then s
  else match wardOf s with | some d => noticeMake s d 3 | none => s

/-- REPORT_RESEND_TIMEOUT (R452): every notice of the view goes again to the members that have not reported. -/
def noticeAgain (s : State) : State :=
  if !isLead s || s.job.st != .recovering || s.job.notices.isEmpty || decide (now s < s.job.viewAt + 10000000) then s
  else
    let ds := (liveMembers s).filter (fun d => d != devId s && !(reported s).contains d && !s.job.resent.contains d)
    let s1 := { s with job := { s.job with resent := s.job.resent ++ ds } }
    ds.foldl (fun s d => s.job.notices.foldl (fun s n =>
      tc0Send s 1 d s.job.tag (noticeBody n.gone n.orig n.cause n.code.toNat n.time.toNat n.step.toNat)) s) s1

/-- REPORT_TIMEOUT (R443, R452). -/
def reportLost (s : State) (d : BitVec 14) : State :=
  if isLead s && decide (s.job.st = .recovering) && (liveMembers s).contains d && !(reported s).contains d && d != devId s
      && !s.job.notices.isEmpty && decide (now s ≥ s.job.viewAt + 20000000) then noticeMake s d 4 else s

/-- RESTORE_COMPLETE (order 6 of R461). -/
def restoreEnds (s : State) : State :=
  match s.job.st, s.job.plan with
  | .recovering, some p =>
    if copiesLeft s 3 then s else record (jobTo s .recovered) kEvent srcHost cJobRecovered (p.b.toNat % 2 ^ 32)
  | _, _ => s

/-! ### Securing rounds (R458 to R460) -/

/-- Bytes 16 to 63 of a half's header (R457). -/
def slotHead (s : State) (p : Permit) : List Byte :=
  leBytes 8 p.b.toNat ++ leBytes 2 (devId s).toNat ++ zeros 6 ++ leBytes 8 ((fsRegions s).foldl (fun n r => n + r.2) 0) ++ zeros 24

/-- Words of a round that were lost go again; otherwise the next order is taken once every word is acknowledged. -/
def roundNext (s : State) (at_ : RoundSt) (f : State → Permit → State) : State :=
  match s.job.permits with
  | p :: _ =>
    if s.job.round ≠ at_ ∨ ownerBusy s isRound = true then s
    else if roundLost s then txAgain isRound s.fab.tx s
    else f s p
  | [] => s

/-- SECURING_OPEN_COMPLETE (order 2): headers and region copies, once the engine has room for them. -/
def roundCopy (s : State) : State :=
  roundNext s .opening (fun s p =>
    let ds := (roundSlots s p).flatMap (fun x => regionCopies s x.1 x.2 true)
    if ceBusy (getCe s (engineOf (fsCtx s))) + ds.length > 64 then s
    else
      let s1 := (roundSlots s p).foldl (fun s x => roundPut s x.1 (x.2 + 16) (slotHead s p)) { s with job := { s.job with round := .copying } }
      pushCopies s1 2 ds)

/-- SECURING_COPIES_COMPLETE (orders 3 and 4): g[gsec] advances and the close words go. -/
def roundClose (s : State) : State :=
  roundNext s .copying (fun s p =>
    if copiesLeft s 2 then s
    else
      let s1 := addG { s with job := { s.job with round := .closing } } (fsGsec s) 1
      (roundSlots s1 p).foldl (fun s x => roundPut s x.1 (x.2 + 8) (leBytes 8 p.gen.toNat)) s1)

/-- The highest counter in the answers of a generation; the boundary of an answer that is not late is the counter its sender had. -/
def genHigh (g : Gen) : Nat := g.answers.foldl (fun n a => max n a.b.toNat) g.b.toNat

/-- The lead looks whether the generation is answered (R460): secured, or abandoned when an answer is late; then the next PERMIT goes. -/
def genCheck (s : State) : State :=
  match s.job.gen with
  | none => s
  | some g =>
    if !isLead s || !allIn s (g.answers.map (fun a => a.src)) then s
    else
      let late := g.answers.any (fun a => a.late)
      let s1 := if late then s else
        record { s with job := { s.job with gp := some g, gf := if s.job.genFar then some g else s.job.gf } } kEvent srcMgmt cGenSecured
          (g.gen.toNat + b2n s.job.genFar * 2 ^ 32)
      let n := fsN s1
      let b := if n = 0 then 0 else multAbove n (genHigh g + 1)
      permitSend s1 (permitFor s1 (g.gen + 1) b)

/-- The lead takes a GEN_DONE. -/
def genTake (s : State) (gen : Word32) (a : GenAns) : State :=
  match s.job.gen with
  | some g =>
    if g.gen = gen ∧ s.job.members.contains a.src = true then
      genCheck { s with job := { s.job with gen := some { g with answers := g.answers.filter (fun x => x.src != a.src) ++ [a] } } }
    else s
  | none => s

/-- A member's answer goes to the lead, and is kept until the next PERMIT. -/
def answerSend (s : State) (gen : Word32) (a : GenAns) : State :=
  let s1 := { s with job := { s.job with unanswered := some a } }
  match jobLead s1.job with
  | none => s1
  | some d => if d = devId s1 then genTake s1 gen a else genSend s1 d gen a

/-- SECURING_CLOSE_COMPLETE (order 5): GEN_DONE. -/
def roundEnd (s : State) : State :=
  roundNext s .closing (fun s p => answerSend { s with job := { s.job with round := .idle } } p.gen (genAnswer s p false))

/-- A PERMIT from the lead: passed on and taken. -/
def permitTake (s : State) (p : Permit) : State :=
  if jobLive s then genLearn (permitHere s p (fun s a => answerSend s p.gen a)) else s

/-! ### The end of a halt (R67 orders 4 and 5) -/

/-- What the halt was for goes on (R429, R450, R565). -/
def afterDrain (s : State) : State :=
  if s.job.fatal.isSome then faultEnd (haltDone s)
  else
    match s.job.st with
    | .recovering => reportSend (haltDone s)
    | .preempting => drainedSend s
    | _ => haltDone s

/-- The end of a halt. In a job already halted, or drained and waiting for QUIESCE, it ends a JOB_FATAL fault taken there (R427). -/
def haltDrained (s : State) : State :=
  if s.job.device.isSome then s
  else
    match s.seq.st with
    | .halting =>
      if s.job.order4 then (if s.job.fatal.isSome then faultEnd (haltDone s) else s)
      else if haltWaits s then s
      else
        let s1 := (s.cores.map (fun p => p.1)).foldl haltLcu s
        let s2 := (List.range nEngines).foldl haltCe s1
        afterDrain { s2 with job := { s2.job with order4 := true } }
    | .halted => if s.job.fatal.isSome then faultEnd s else s
    | .done => if s.job.fatal.isSome && s.job.st == .done then faultEnd s else s
    | .idle => if s.job.fatal.isSome && jobStill s then faultEnd s else s
    | _ => s

/-! ### The commands -/

/-- HEARTBEAT_SEND. -/
def execHeartbeatSend (s : State) : Out := .next (beatSend s)
/-- HEARTBEAT. -/
def execHeartbeat (src : BitVec 14) (_time : Word64) (s : State) : Out := .next (beatTake s src)
/-- HEARTBEAT_TIMEOUT. -/
def execHeartbeatTimeout (s : State) : Out := .next (beatLost s)
/-- FAILURE_NOTICE. -/
def execFailureNotice (_src left orig : BitVec 14) (cause : BitVec 8) (code : Word16) (time step : Word64) (s : State) : Out :=
  .next (noticeTake s ⟨left, orig, cause.toNat, code, time, step⟩)
/-- REPORT. -/
def execReport (src : BitVec 14) (view : Word32) (counter : Word64) (s : State) : Out := .next (if isLead s then reportTake s src view counter else s)
/-- REPORT_RESEND_TIMEOUT. -/
def execReportResendTimeout (s : State) : Out := .next (noticeAgain s)
/-- REPORT_TIMEOUT. -/
def execReportTimeout (dev : BitVec 14) (s : State) : Out := .next (reportLost s dev)
/-- PLAN. -/
def execPlan (src : BitVec 14) (path : BitVec 8) (view : Word32) (b : Word64) (gen : Word32) (s : State) : Out :=
  .next (planTake s src (ctlBody 2 path.toNat src.toNat view.toNat b.toNat gen.toNat 0) ⟨path.toNat, view, b, gen⟩)
/-- RESTORE_COMPLETE. -/
def execRestoreComplete (s : State) : Out := .next (restoreEnds s)
/-- PERMIT. -/
def execPermit (src : BitVec 14) (far : Bool) (gen : Word32) (b : Word64) (gp gf : Word32) (s : State) : Out :=
  .next (permitTake (relayFrom s src 6 (ctlBody 4 (b2n far) src.toNat gen.toNat b.toNat gp.toNat gf.toNat)) ⟨gen, b, far, gp, gf⟩)
/-- SECURING_OPEN_COMPLETE. -/
def execSecuringOpenComplete (s : State) : Out := .next (roundCopy s)
/-- SECURING_COPIES_COMPLETE. -/
def execSecuringCopiesComplete (s : State) : Out := .next (roundClose s)
/-- SECURING_CLOSE_COMPLETE. -/
def execSecuringCloseComplete (s : State) : Out := .next (roundEnd s)
/-- GEN_DONE. -/
def execGenDone (src : BitVec 14) (far late : Bool) (gen : Word32) (b : Word64) (partner farPartner : Word16) (s : State) : Out :=
  .next (if isLead s then genTake s gen ⟨src, far, late, b, partner, farPartner⟩ else s)

end Sys2Proof.Machine
end

