-- ==== Sys2Proof/Machine/TimeRun.lean ====
section
/-! DEFINITION. The time base and its synchronisation (11 R345 to R348, 18 R543 to R545, 20 R582): parents, exchanges, PPS. -/

namespace Sys2Proof.Machine

/-- TIM_ registers (R597). -/
def aTim : Nat := 0x3F0001100000
def aTimTrim : Nat := aTim + 0x08
def aTimPps : Nat := aTim + 0x10
def aTimSnapTime : Nat := aTim + 0x20
def aTimSnapEnergy : Nat := aTim + 0x28

/-- Codes of R350 and R596. -/
def cTimeHoldover : Word16 := 0x600A
def cTimeUnlocked : Word16 := 0x600B
def cTimeStep : Word16 := 0xD007
def cPpsLost : Word16 := 0xD008

/-- FAB_SYNC_STATUS.state: 0 FREE, 1 LOCKING, 2 LOCKED, 3 HOLDOVER. -/
def syncSt (s : State) : Nat := regF s aFabSync 1 0

/-- The state set. -/
def syncTo (s : State) (st : Nat) : State := setRegF s aFabSync 1 0 st

/-- Whether this module is the time root. -/
def isRoot (s : State) : Bool := regF s aFabSync 2 2 == 1

/-- The link of the current parent, 0x3F for none. -/
def parentLink (s : State) : Nat := regF s aFabSync 8 3

/-- The first parent in the list whose link is up (R345). -/
def parentWanted (s : State) : Nat :=
  (((List.range 4).filter (fun i => regF s aFabSyncCfg (32 + i) (32 + i) == 1)).map (fun i => regF s aFabSyncCfg (8 * i + 5) (8 * i))).find?
    (linkUp s) |>.getD 0x3F

/-- A link came up or went down: the parent is the first one that is up, and the loss of one is TIME_HOLDOVER (R345, R348). A parent
that returns ends HOLDOVER, in FREE where the first lock has not been begun. -/
def parentUpdate (s : State) : State :=
  if isRoot s then s
  else
    let old := parentLink s
    let s1 := setRegF s aFabSync 8 3 (parentWanted s)
    let s2 := if old ≠ 0x3F ∧ linkUp s old = false then record s1 kEvent srcMgmt cTimeHoldover (openPay cTimeHoldover srcMgmt) else s1
    let lost := parentLink s2 == 0x3F
    let s3 := { s2 with tim := { s2.tim with holdover := lost && (s2.tim.holdover || old != 0x3F) } }
    if !lost && syncSt s3 = 3 then { syncTo s3 (b2n s3.tim.stepped) with tim := { s3.tim with good := 0 } } else s3

/-- An event that arises while a reset keeps the Ledger unit down: it is recorded once the unit is up (order 3 of R530; log entry 138). -/
def laterRecord (s : State) (source code : Word16) (payload : Nat) : State :=
  { s with sec := { s.sec with romLog := s.sec.romLog ++ [(source, code, payload)] } }

/-- An event of the time base, which runs through resets (R536). -/
def timeEvent (s : State) (code : Word16) : State :=
  if s.ldg.up then record s kEvent srcMgmt code (openPay code srcMgmt) else laterRecord s srcMgmt code (openPay code srcMgmt)

/-- HOLDOVER_EXPIRY: a parent was lost and none has returned for 20 ms (R348). -/
def holdoverEnds (s : State) : State :=
  if isRoot s || !s.tim.holdover || syncSt s == 3 then s
  else timeEvent (syncTo s 3) cTimeUnlocked

/-- BOOT_STATUS.ready becomes 1 once start-up is done, its wipe complete and the time base LOCKED (R532); vector 5 tells of it (R573). -/
def readyCheck (s : State) : State :=
  let wiped := match s.sec.wipe with | some w => !w.why.contains .start | none => true
  if regF s aBoot 3 0 = 12 ∧ regF s aBoot 8 8 = 0 ∧ regF s aBoot 9 9 = 0 ∧ regF s aBoot 31 16 = 0 ∧ wiped = true ∧ syncSt s = 2
      ∧ s.job.device.isNone = true then hostVector (setRegF s aBoot 8 8 1) 5
  else s

/-- LOCKED is reached: at the first time the Ledger's held events are stamped (R492). -/
def lockReached (s : State) : State := readyCheck (ldgLock (syncTo s 2))

/-- An instant held as a count, after a step of the time base: spans of time leave the step out (R584). -/
def stepped (d : Int) (n : Nat) : Nat := ((n : Int) + d).toNat

/-- The count steps by a number of ns at first lock (R347, R543 to R545, R596); a step leaves the fraction. Spans that run go on: the watchdog's
(R535), that of a freeze and the 100 ms after it (R497), and those of the power loop (R588, R596). -/
def timeStep (s : State) (d : Int) : State :=
  let acc := wrapInt 96 ((s.tim.acc : Int) + d * 2 ^ 32)
  record { s with
    tim := { s.tim with acc := acc, stepped := true }
    sec := { s.sec with wdogAt := s.sec.wdogAt + d }
    ldg := { s.ldg with freezeEnd := stepped d s.ldg.freezeEnd, lastUnfreeze := s.ldg.lastUnfreeze.map (stepped d) }
    pwr := { s.pwr with paceAt := stepped d s.pwr.paceAt, pacedFrom := stepped d s.pwr.pacedFrom } } kEvent srcMgmt cTimeStep (wrapInt 64 d)

/-! ### Exchanges (R346, R347, R545) -/

/-- The body of SYNC_REQ and SYNC_RSP. -/
def syncBody (rsp : Bool) (t1 t2 t3 : Nat) : List Byte := leBytes 1 (1 + b2n rsp) ++ zeros 7 ++ leBytes 8 t1 ++ leBytes 8 t2 ++ leBytes 8 t3

/-- SYNC_EXCHANGE_TIMER: t1 is put in when the message leaves. -/
def syncAsk (s : State) : State :=
  if isRoot s || !s.tim.started || !linkUp s (parentLink s) then s
  else tc0SendOn (parentLink s) s 5 (BitVec.ofNat 14 (getLink s (parentLink s)).ndev) 0 (syncBody false (now s) 0 0)

/-- SYNC_REQ: a parent answers while it is LOCKED, on the link by which the request came. -/
def syncAnswer (s : State) (via : Nat) (child : BitVec 14) (t1 t2 : Word64) : State :=
  if syncSt s = 2 then tc0SendOn via s 5 child 0 (syncBody true t1.toNat t2.toNat (now s)) else s

/-- Half of a signed difference; the rounding of an odd one the spec does not state, so it is free (log entry 8). -/
def halfOfDiff (v : Int) : Int := if v % 2 = 0 then v / 2 else if Config.timeRoundsUp v then (v + 1) / 2 else (v - 1) / 2

/-- The signed difference of two counts. -/
def diff64 (a b : Word64) : Int := signedOf 64 (a - b).toNat

/-- θ and d of an exchange (R347). -/
def syncTheta (t1 t2 t3 t4 : Word64) : Int := halfOfDiff (diff64 t2 t1 + diff64 t3 t4)
def syncDelay (t1 t2 t3 t4 : Word64) : Int := halfOfDiff (diff64 t4 t1 - diff64 t3 t2)

/-- The trim that removes an offset over one interval of 125 µs, in 0.01 ppm (R347, R582). -/
def trimFor (theta : Int) : Int := max (-20000) (min 20000 (theta * 800))

/-- Exchanges in a row with an offset of at most 10 ns, this one included. -/
def goodAfter (s : State) (theta : Int) : Nat := if theta.natAbs ≤ 10 then s.tim.good + 1 else 0

/-- SYNC_RSP of the parent. -/
def syncTake (s : State) (link : Nat) (t1 t2 t3 t4 : Word64) : State :=
  if isRoot s || link != parentLink s || !linkUp s link then s
  else
    let th := syncTheta t1 t2 t3 t4
    let s1 := setRegF s (aLink link + 0x30) 31 0 (wrapInt 32 (syncDelay t1 t2 t3 t4))
    let s2 := setRegF s1 aFabSync 63 32 (wrapInt 32 th)
    if syncSt s2 = 0 then timeStep (syncTo { s2 with tim := { s2.tim with good := 0, theta := 0 } } 1) th
    else
      let g := goodAfter s2 th
      let s3 := setRegF { s2 with tim := { s2.tim with good := g, theta := th } } aTimTrim 15 0 (wrapInt 16 (trimFor th))
      if syncSt s3 = 1 ∧ g ≥ 8 then lockReached s3 else s3

/-! ### PPS (R543, R544) -/

/-- The count a root takes at its first edge: the next whole second above the newest flushed stamp, plus 1 s. -/
def rootCount (s : State) : Nat := (s.ldg.floorStamp.toNat / 10 ^ 9 + 2) * 10 ^ 9

/-- A root sets its counter. -/
def rootSet (s : State) : State := timeStep s ((rootCount s : Int) - now s)

/-- The trim of a root that follows PPS: the spec gives no rule for it, so it is a free value within the range of R582. -/
def rootTrim (s : State) : State :=
  let (ctr, s1) := draw s
  setRegF s1 aTimTrim 15 0 (wrapInt 16 ((Config.freeWord ctr).toNat % 40001 - 20000 : Int))

/-- TIM_PPS takes the count at the edge. -/
def ppsStamp (s : State) : State := setReg s aTimPps (nowW s)

/-- PPS_EDGE. A root that runs free since R544 does not follow. -/
def ppsEdge (s : State) : State :=
  if !isRoot s then ppsStamp s
  else if s.tim.edges = 0 then
    if syncSt s = 0 then ppsStamp (syncTo (rootSet { s with tim := { s.tim with edges := 1, follows := true } }) 1)
    else ppsStamp { s with tim := { s.tim with edges := 1 } }
  else if !s.tim.follows then ppsStamp { s with tim := { s.tim with edges := s.tim.edges + 1 } }
  else
    let s1 := rootTrim { s with tim := { s.tim with edges := s.tim.edges + 1 } }
    ppsStamp (if syncSt s1 = 2 then s1 else lockReached s1)

/-- PPS_TIMEOUT: no edge for 1.5 s at a root that has followed PPS, or none within 2 s of order 8 of R530. -/
def ppsLost (s : State) : State :=
  if !isRoot s || !s.tim.started then s
  else if s.tim.follows then
    if syncSt s = 3 then s else record (syncTo s 3) kEvent srcMgmt cPpsLost (openPay cPpsLost srcMgmt)
  else if syncSt s = 0 then lockReached (record (rootSet s) kEvent srcMgmt cPpsLost (openPay cPpsLost srcMgmt))
  else s

/-! ### Snapshots of time and energy (R586) -/

/-- TIM_SNAP: both counters in one step. -/
def timSnap (s : State) : State := setReg (setReg s aTimSnapTime (nowW s)) aTimSnapEnergy (reg s 0x3F0001000018)

/-! ### The commands -/

/-- Refuse a link that the part does not have (R315). -/
def onLink (link : Nat) (t : State) : Out := if link < nLinks then .next t else .refused .noSuchUnit

/-- SYNC_EXCHANGE_TIMER. -/
def execSyncExchangeTimer (s : State) : Out := .next (syncAsk s)
/-- SYNC_REQ. -/
def execSyncReq (link : Nat) (child : BitVec 14) (t1 t2 : Word64) (s : State) : Out := onLink link (syncAnswer s link child t1 t2)
/-- SYNC_RSP. -/
def execSyncRsp (link : Nat) (t1 t2 t3 t4 : Word64) (s : State) : Out := onLink link (syncTake s link t1 t2 t3 t4)
/-- HOLDOVER_EXPIRY. -/
def execHoldoverExpiry (s : State) : Out := .next (holdoverEnds s)
/-- PPS_EDGE. -/
def execPpsEdge (s : State) : Out := .next (ppsEdge s)
/-- PPS_TIMEOUT. -/
def execPpsTimeout (s : State) : Out := .next (ppsLost s)
/-- TIM_SNAP: a write of TIM_SNAP with take. -/
def execTimSnap (s : State) : Out := .next (timSnap s)

end Sys2Proof.Machine
end

