-- ==== Sys2Proof/Machine/PktRun.lean ====
section
/-! DEFINITION. Packets that arrive (11 R325 to R340, 08 R231 to R236, R241): routing on, form, tag and member checks, landing, acknowledgement,
remote reads, and the source's side of answers and timers. -/

namespace Sys2Proof.Machine

/-! ### What is refused (R327, R328, R429, R430, R446) -/

/-- Whether the module takes packets of its job: it runs, and a preempted one has been restored (R327, R565, R566). -/
def jobTakes (s : State) : Bool :=
  match s.job.st with
  | .starting => true
  | .running => true
  | .preempting => true
  | .preempted => s.job.restoredHere
  | .done => true
  | .recovering => true
  | .recovered => true
  | _ => false

/-- The code with which a packet is refused before its place in the stream is looked at. -/
def pktRefusal (s : State) (p : Packet) : Option Word16 :=
  match s.job.device with
  | some c => some c
  | none =>
    if s.job.fatal.isSome && (s.seq.st == .halted || s.seq.st == .faulted) then s.job.fatal
    else if s.job.left then some (s.job.fatal.getD cWinRefused)
    else if s.job.gone.contains p.src || !jobTakes s || p.tag != s.job.tag then some cWinRefused
    else none

/-- Keep-zero bits in the payload of SIG (R228, R326). -/
def sigBad (p : Packet) : Bool :=
  p.typ == 4 && (bitsOf (fieldAt p.payload 2 2) 14 9 != 0 || fieldAt p.payload 6 2 != 0 || fieldAt p.payload 14 2 != 0)

/-- A packet whose form is bad at its destination (R328). -/
def pktFormBad (s : State) (link : Nat) (p : Packet) : Bool :=
  p.kz || sigBad p || p.typ == 0 || p.typ == 8 || decide (p.typ.toNat ≥ 10) || (p.typ == 9 && decide ((getLink s link).fpl < 2))

/-- The signal a SIG packet carries (R326). -/
def sigIn (p : Packet) : Signal :=
  ⟨p.src, p.ctx, BitVec.ofNat 16 (fieldAt p.payload 0 2), BitVec.ofNat 16 (fieldAt p.payload 2 2), BitVec.ofNat 16 (fieldAt p.payload 4 2),
   BitVec.ofNat 48 (fieldAt p.payload 8 6)⟩

/-! ### The destination's side of a stream (R231, R235 to R237, R241) -/

/-- The pair a packet belongs to. -/
def rxPair (s : State) (p : Packet) : RxPair := smGet RxPair.init s.fab.rx (rxKey p.src p.ctx)

/-- The pair replaced. -/
def setRx (s : State) (p : Packet) (r : RxPair) : State :=
  { s with fab := { s.fab with rx := smSet RxPair.init s.fab.rx (rxKey p.src p.ctx) r } }

/-- How far ahead of the in-order point a number lies. -/
def rxDist (r : RxPair) (n : Word16) : Nat := (n - r.point).toNat

/-- Whether a number has been accepted. -/
def rxDup (r : RxPair) (n : Word16) : Bool := decide (rxDist r n ≥ 32768) || r.ahead.any (fun x => x.seq == n)

/-- Pairs with packets out of order: each holds a tracker (R337). -/
def trackers (s : State) : Nat := (s.fab.rx.filter (fun r => !r.2.ahead.isEmpty)).length

/-- The in-order point advances over what has landed: the pair, the counted bytes, the signals. -/
def rxRun : Nat → RxPair → RxPair × Nat × List Signal
  | 0, r => (r, 0, [])
  | f + 1, r =>
    match r.ahead.find? (fun x => x.seq == r.point) with
    | none => (r, 0, [])
    | some x =>
      let (r1, n, gs) := rxRun f { r with point := r.point + 1, ahead := r.ahead.filter (fun y => y.seq != x.seq) }
      (r1, x.bytes + n, x.sig.toList ++ gs)

/-- A number has landed: the received tally, the in-order point with what it releases, and the acknowledgement (R231, R336, R337, R241). -/
def rxLand (s : State) (p : Packet) (bytes : Nat) (g : Option Signal) : State :=
  let r := rxPair s p
  let first := !r.refused.contains p.seq
  let (r1, n, gs) := rxRun (r.ahead.length + 1) { r with ahead := r.ahead ++ [⟨p.seq, bytes, g⟩], refused := r.refused.filter (fun x => x != p.seq) }
  let k := tallyKey p.src p.ctx
  let s1 := setRx s p r1
  let s2 := { s1 with sync := { s1.sync with recv := s1.sync.recv + BitVec.ofNat 64 (b2n first)
                                             tally := smSet 0 s1.sync.tally k (smGet 0 s1.sync.tally k + BitVec.ofNat 48 n) } }
  let s3 := pairFree (gs.foldl sigHold (detStir (pairHold s2 p.src p.ctx bytes))) p.src p.ctx
  if r1.point = r.point then s3 else fabAck s3 p (r1.point - 1)

/-- A numbered packet is refused with ERR; the received tally counts its number once (R241). One of another tag is not the job's. -/
def rxErr (s : State) (p : Packet) (code : Word16) : State :=
  let r := rxPair s p
  let s1 :=
    if p.typ = 3 ∨ p.tag ≠ s.job.tag ∨ r.refused.contains p.seq = true ∨ rxDup r p.seq = true then s
    else
      let s2 := setRx s p { r with refused := r.refused ++ [p.seq] }
      { s2 with sync := { s2.sync with recv := s2.sync.recv + 1 } }
  fabAnswer s1 7 p (p.seq.toNat + code.toNat * 2 ^ 16)

/-- A duplicate is discarded; what has landed in order is acknowledged again. -/
def rxAgain (s : State) (p : Packet) : State :=
  let r := rxPair s p
  if rxDist r p.seq ≥ 32768 then fabAck s p (r.point - 1) else s

/-- Whether a packet is refused for want of a tracker or of a tally entry (R235, R337). -/
def rxFull (s : State) (p : Packet) : Bool :=
  let r := rxPair s p
  (rxDist r p.seq != 0 && (decide (rxDist r p.seq > 512) || (r.ahead.isEmpty && decide (trackers s ≥ 4096))))
  || (p.counted && p.typ == 1 && !(s.sync.pairs.map (fun t => t.1)).contains (tallyKey p.src p.ctx) && decide (s.sync.pairs.length ≥ 8192))

/-- NACK (R337). -/
def rxNack (s : State) (p : Packet) : State := fabAnswer (bump s aFabNacks 1) 6 p p.seq.toNat

/-- The refusal of a packet's access to this module's memory (R297, R309): the place for MEM_REFUSE_INFO, or a port that is down. -/
def landBad (s : State) (a n : Nat) (write : Bool) : Option (Option Nat) :=
  match memCheck s a n write true with
  | some 2 => some (some 2)
  | some _ => some (some 1)
  | none => if runDown s (a, n, write) then some none else none

/-- A refused access: recorded by the destination, answered with ERR. -/
def landRefuse (s : State) (link : Nat) (p : Packet) (write : Bool) (place : Option Nat) : State :=
  match place with
  | some w => rxErr (refuseAccess s (srcLink link) (globalOf s p.addr.toNat) w 3 write) p cWinRefused
  | none => rxErr s p cCxlDown

/-- Poison flags of a payload by its mask (R326). -/
def payFlags (p : Packet) (n : Nat) : List Bool :=
  if p.maskValid then (List.range n).map (fun i => p.spec.getLsbD (i / 64)) else List.replicate n false

/-- The bytes of a payload. -/
def payBytes (p : Packet) (n : Nat) : RowBytes := ⟨slice p.payload 0 n, payFlags p n⟩

/-- WR at its destination. -/
def takeWr (s : State) (link : Nat) (p : Packet) : State :=
  let n := p.len.toNat
  match landBad s p.addr.toNat n true with
  | some place => landRefuse s link p true place
  | none => rxLand (memPieces 0 (rowPieces p.addr.toNat (payBytes p n)) s) p (if p.counted then n else 0) none

/-- The answer to a remote read: it carries the request's stream and number (R339). -/
def rspPkt (s : State) (p : Packet) : Packet :=
  let n := p.len.toNat
  let a := p.addr.toNat
  withMask { newPkt s 3 p.cls.toNat p.src p.ctx n p.spec.toNat 0 p.counted (ceBytes s a n) with seq := p.seq, tag := p.tag } (ceFlags s a n)

/-- Whether every line of a remote read has come from its controller. -/
def linesIn (s : State) (p : Packet) : Bool :=
  placeOf p.addr.toNat != .gddr || (linesOf p.addr.toNat p.len.toNat).all (fun l => !mcPending s l)

/-- The answer to a remote read leaves, and stays until it is acknowledged. A member that has left sends none (R445). -/
def sendRsp (s0 : State) (p : Packet) : State :=
  if !mayInject s0 then s0 else
  let s := meetSpans s0 [(p.addr.toNat, p.len.toNat)]
  let q := withPath s (rspPkt s p)
  fabSource { s with fab := { s.fab with rsp := s.fab.rsp ++ [⟨q, .mgmt 0, 0, false⟩] } } q

/-- The watcher that stands for a guarded copy of another module (R339). -/
def serveWatch (p : Packet) : Watcher := .remote p.src p.ctx

/-- A remote read begins: a guarded copy's slots are claimed once for its envelope, and the lines are asked for. While a slot is taken it waits
without reading (R276, R339). -/
def serveAsk (s : State) (r : ServeRd) : State :=
  let go (s : State) : State :=
    let s1 := touchRead s r.pkt.addr.toNat r.pkt.len.toNat 0
    { s1 with fab := { s1.fab with serve := s1.fab.serve.map (fun x => if x.pkt = r.pkt then { x with asked := true } else x) } }
  match r.pkt.guard with
  | none => go s
  | some (lo, hi) =>
    if s.mem.watch.any (fun w => decide (w.who = serveWatch r.pkt) && w.lo == lo && w.hi == hi) then go s
    else if slotsFree s lo hi then go (armWatch s (serveWatch r.pkt) lo hi)
    else s

/-- Whether a remote read's data is at hand. -/
def serveIn (s : State) (r : ServeRd) : Bool := r.asked && linesIn s r.pkt

/-- The remote reads that can begin do; those whose lines have come are answered, in the order of their arrival. -/
def serveReads (s : State) : State :=
  let s1 := (s.fab.serve.filter (fun r => !r.asked)).foldl serveAsk s
  ((s1.fab.serve.filter (serveIn s1)).map (fun r => r.pkt)).foldl sendRsp
    { s1 with fab := { s1.fab with serve := s1.fab.serve.filter (fun r => !serveIn s1 r) } }

/-- Whether a watch is that of another module's copy none of whose reads is still served or unacknowledged. -/
def serveOver (s : State) (w : Watch) : Bool :=
  match w.who with
  | .remote d c => !s.fab.serve.any (fun r => r.pkt.src == d && r.pkt.ctx == c) && !s.fab.rsp.any (fun q => q.pkt.dst == d && q.pkt.ctx == c)
  | _ => false

/-- Slots claimed for other modules are freed with the last answer's acknowledgement or loss (log entry 53), and what waited for slots goes. -/
def serveSettle (s : State) : State :=
  if s.mem.watch.any (serveOver s) then
    serveReads (retryArms { s with mem := { s.mem with watch := s.mem.watch.filter (fun w => !serveOver s w) } })
  else if s.fab.serve.any (fun r => !r.asked) then serveReads s
  else s

/-- RD_REQ at its target: served through the slices, the ports or the host port; a guarded copy's envelope comes with it (log entry 53). -/
def takeReq (s : State) (link : Nat) (p : Packet) : State :=
  match landBad s p.addr.toNat p.len.toNat false with
  | some place => landRefuse s link p false place
  | none =>
    let s1 := rxLand s p 0 none
    serveReads { s1 with fab := { s1.fab with serve := s1.fab.serve ++ [⟨p, false⟩] } }

/-- SIG at its destination (R232, R234). -/
def takeSig (s : State) (link : Nat) (p : Packet) : State :=
  if sigCount s ≥ heldMax then
    if (getLink s link).held.any (fun q => q.src == p.src && q.ctx == p.ctx && q.seq == p.seq) then s
    else bump (modLink s link (fun l => { l with held := l.held ++ [p] })) aSynSigFull 1
  else rxLand s p 0 (some (sigIn p))

/-- A numbered packet of this module's job. -/
def takeNumbered (s : State) (link : Nat) (p : Packet) : State :=
  if rxDup (rxPair s p) p.seq then rxAgain s p
  else if rxFull s p then rxNack s p
  else if p.typ = 1 then takeWr s link p
  else if p.typ = 2 then takeReq s link p
  else takeSig s link p

/-- The number a requester acknowledges: the one before its oldest read of the pair without an answer, else the last one issued (R339). -/
def readAck (s : State) (dst ctx : BitVec 14) : Word16 :=
  let l := (s.fab.reads.filter (fun r => r.dst == dst && r.ctx == ctx)).map (fun r => r.seq)
  match l with
  | [] => nextSeq s ctx dst - 1
  | x :: xs => xs.foldl (fun m y => if serialLe y m then y else m) x - 1

/-- RD_RSP at its requester: the data goes to the operation that asked, which is torn when the serving module says so (log entry 53). -/
def takeRsp (s : State) (p : Packet) : State :=
  match s.fab.reads.find? (fun r => r.dst == p.src && r.ctx == p.ctx && r.seq == p.seq) with
  | none => fabAck s p (readAck s p.src p.ctx)
  | some r =>
    let s1 := { s with fab := { s.fab with reads := s.fab.reads.erase r } }
    let put (k uid : Nat) : State :=
      modOp s1 k uid (fun o => { opData o r.key (slice p.payload 0 r.n) (payFlags p r.n) with torn := o.torn || p.torn })
    let s2 := match r.owner with
      | .ce k uid _ => put k uid
      | .col k uid => put k uid
      | _ => s1
    fabAck (detStir s2) p (readAck s2 p.src p.ctx)

/-! ### Answers at the source (R336, R337, R297) -/

/-- ACKC: several streams (R326). -/
def takeAckc (s : State) (p : Packet) : State :=
  (chunks 4 (slice p.payload 0 (p.len.toNat / 4 * 4))).foldl (fun s e => ackTake s p.src (BitVec.ofNat 14 (fieldAt e 0 2)) (BitVec.ofNat 16 (fieldAt e 2 2))) s

/-- NACK: the refused packet is to go again on its path. -/
def takeNack (s : State) (p : Packet) : State :=
  let key := txKey p.ctx p.src
  let t := smGet TxPair.init s.fab.tx key
  let n := BitVec.ofNat 16 p.spec.toNat
  { s with fab := { s.fab with tx := smSet TxPair.init s.fab.tx key { t with air := t.air.map (fun q => if q.pkt.seq = n then { q with nacked := true } else q) } } }

/-- ERR: a failed fragment; an answer to a read that the requester refuses is kept no longer. -/
def takeErr (s : State) (p : Packet) : State :=
  let key := txKey p.ctx p.src
  let n := BitVec.ofNat 16 p.spec.toNat
  match (smGet TxPair.init s.fab.tx key).air.find? (fun q => q.pkt.seq == n) with
  | some q => txPump (ownerFail (txDrop s key q true) q.owner) key
  | none => { s with fab := { s.fab with rsp := s.fab.rsp.filter (fun q => !(q.pkt.dst == p.src && q.pkt.ctx == p.ctx && q.pkt.seq == n)) } }

/-- Whether an answer is obeyed: a job runs, and it carries that job's tag or that of a packet of this module which waits for one (R327, R421). -/
def answerOk (s : State) (p : Packet) : Bool :=
  (pktRefusal s p).isNone
    || (jobTakes s && s.job.device.isNone
        && (s.fab.tx.any (fun t => t.1 % 16384 == p.src.toNat && t.2.air.any (fun q => q.pkt.tag == p.tag))
            || s.fab.rsp.any (fun q => q.pkt.dst == p.src && q.pkt.tag == p.tag)))

/-- ACK, NACK, ERR or ACKC. -/
def takeAnswer (s : State) (p : Packet) : State :=
  match p.typ.toNat with
  | 5 => ackTake s p.src p.ctx (BitVec.ofNat 16 p.spec.toNat)
  | 6 => takeNack s p
  | 7 => takeErr s p
  | _ => takeAckc s p

/-- A packet for this module (R326 to R328). A SIG goes to R236 first; a discarded packet is answered with ERR, an answer too (log entry 41). -/
def pktTake (s : State) (link : Nat) (p : Packet) : State :=
  if pktFormBad s link p then record s kEvent (srcLink link) cFabPktForm (openPay cFabPktForm (srcLink link))
  else if p.typ = 5 ∨ p.typ = 6 ∨ p.typ = 7 ∨ p.typ = 9 then 
    (if answerOk s p then takeAnswer s p else fabAnswer s 7 p (p.seq.toNat + ((pktRefusal s p).getD cWinRefused).toNat * 2 ^ 16))
  else if p.typ = 4 ∧ sigTargetBad s (sigIn p) = true then
    jobFatal s noCore 0 cSigTarget srcSeq (p.src.toNat + p.ctx.toNat * 2 ^ 16)
  else
    match pktRefusal s p with
    | some code => rxErr s p code
    | none => if p.typ = 3 then takeRsp s p else takeNumbered s link p

/-- After packets: collectives that lost a member, and DRAINED when a drained module's tallies have moved. -/
def pktSettle (old s : State) : State :=
  let s1 := colSweep (serveSettle s)
  if s1.sync.sent ≠ old.sync.sent ∨ s1.sync.recv ≠ old.sync.recv then drainNote s1 else s1

/-- A packet arrives on a link that is up: it is for this module, or it goes on (R329 to R332). -/
def pktArrive (s : State) (link : Nat) (p : Packet) : State :=
  if !linkUp s link then s
  else if p.dst = devId s then pktSettle s (pktTake s link p)
  else fabOut s link (.pkt p)

/-! ### Signals whose credit is withheld (R234) -/

/-- The links' waiting signals enter while there is room; the credit goes back. The count bounds the steps. -/
def sigLinks : Nat → State → State
  | 0, s => s
  | f + 1, s =>
    if sigCount s ≥ heldMax then s
    else
      match (List.range nLinks).find? (fun k => !(getLink s k).held.isEmpty) with
      | none => s
      | some k =>
        match (getLink s k).held with
        | [] => s
        | p :: ps =>
          let lane := 3 + p.phase.toNat
          let s1 := modLink s k (fun l => { l with held := ps, ret := smSet 0 l.ret lane (smGet 0 l.ret lane + 1) })
          sigLinks f (pktTake s1 k p)

/-- Signals that wait at the links. -/
def sigWaiting (s : State) : Nat := (List.range nLinks).foldl (fun n k => n + (getLink s k).held.length) 0

/-! ### Timers of the source (R336, R337) -/

/-- The packet of a pair whose 100 µs are over: the oldest one that was re-sent least often, answers to reads included. -/
def dueOf (l : List TxPkt) : Option TxPkt := l.find? (fun q => l.all (fun x => decide (q.tries ≤ x.tries)))

/-- E2E_RESEND_TIMEOUT: again with the same number through path choice, or lost after the third re-send. -/
def resendDue (s : State) (dst ctx : BitVec 14) : State :=
  let key := txKey ctx dst
  let t := smGet TxPair.init s.fab.tx key
  let rs := s.fab.rsp.filter (fun q => q.pkt.dst == dst && q.pkt.ctx == ctx)
  if !mayInject s then s
  else
    match dueOf (t.air ++ rs) with
    | none => s
    | some q =>
      let isRsp := q.pkt.typ == 3
      if q.tries ≥ 3 then
        if isRsp then
          e2eLost { s with fab := { s.fab with rsp := s.fab.rsp.erase q, lostDst := if jobPkt s q.pkt then s.fab.lostDst ++ [dst] else s.fab.lostDst } } q.pkt
        else txPump (txLose s key q) key
      else
        let up (x : TxPkt) : TxPkt := if x = q then { x with tries := x.tries + 1, pkt := withPath s x.pkt } else x
        let s1 := { s with fab := { s.fab with
          tx := if isRsp then s.fab.tx else smSet TxPair.init s.fab.tx key { t with air := t.air.map up }
          rsp := if isRsp then s.fab.rsp.map up else s.fab.rsp } }
        fabSource (bump s1 aFabResend 1) q.pkt

/-- NACK_RESEND: the oldest NACKed packet of the pair goes again on its path after 10 µs. -/
def nackDue (s : State) (dst ctx : BitVec 14) : State :=
  let key := txKey ctx dst
  let t := smGet TxPair.init s.fab.tx key
  if !mayInject s then s
  else
    match t.air.find? (fun q => q.nacked) with
    | none => s
    | some q =>
      let t1 := { t with air := t.air.map (fun x => if x.pkt.seq = q.pkt.seq then { x with nacked := false } else x) }
      fabAgain { s with fab := { s.fab with tx := smSet TxPair.init s.fab.tx key t1 } } q.pkt

/-! ### The commands -/

/-- WR. -/
def execWr (link : Nat) (p : Packet) (s : State) : Out := onLink link (pktArrive s link { p with typ := 1 })
/-- RD_REQ. -/
def execRdReq (link : Nat) (p : Packet) (s : State) : Out := onLink link (pktArrive s link { p with typ := 2 })
/-- RD_RSP. -/
def execRdRsp (link : Nat) (p : Packet) (s : State) : Out := onLink link (pktArrive s link { p with typ := 3 })
/-- SIG. -/
def execSig (link : Nat) (p : Packet) (s : State) : Out := onLink link (pktArrive s link { p with typ := 4 })
/-- ACK. -/
def execAck (link : Nat) (p : Packet) (s : State) : Out := onLink link (pktArrive s link { p with typ := 5 })
/-- ACKC. -/
def execAckc (link : Nat) (p : Packet) (s : State) : Out := onLink link (pktArrive s link { p with typ := 9 })
/-- NACK. -/
def execNack (link : Nat) (p : Packet) (s : State) : Out := onLink link (pktArrive s link { p with typ := 6 })
/-- ERR. -/
def execErr (link : Nat) (p : Packet) (s : State) : Out := onLink link (pktArrive s link { p with typ := 7 })
/-- E2E_RESEND_TIMEOUT. -/
def execE2eResendTimeout (dst ctx : BitVec 14) (s : State) : Out := .next (pktSettle s (resendDue s dst ctx))
/-- NACK_RESEND. -/
def execNackResend (dst ctx : BitVec 14) (s : State) : Out := .next (nackDue s dst ctx)
/-- MC_REQUEST: an access of a controller, and the remote reads that waited for its line. -/
def execMcRequest (mc : BitVec 4) (e : EccOutcome) (s : State) : Out := .next (serveReads (mcServe s mc.toNat e))
/-- SIGNAL_RELEASE: an entry frees, which a signal waiting in a stream context or at a link takes. -/
def execSignalRelease (src ctx : BitVec 14) (s : State) : Out :=
  let t := signalRelease s src ctx
  .next (sigLinks (sigWaiting t) t)

end Sys2Proof.Machine
end

