-- ==== Sys2Proof/Machine/LinkRun.lean ====
section
/-! DEFINITION. Links (11 R315 to R324, R333 to R335, R341 to R344, R349): states, flits with credits and retry, and the delivery of TC0 messages. -/

namespace Sys2Proof.Machine

/-! ### Delivery of TC0 messages (R344) -/

/-- A device named in a body. -/
def bodyDev (b : List Byte) (at_ : Nat) : BitVec 14 := BitVec.ofNat 14 (fieldAt b at_ 2)

/-- A 64-bit field of a body. -/
def body64 (b : List Byte) (at_ : Nat) : Word64 := BitVec.ofNat 64 (fieldAt b at_ 8)

/-- Kind 2 (R562), with the relay of those that the tree carries. -/
def takeRendezvous (s : State) (b : List Byte) : State :=
  let src := bodyDev b 2
  let on (f : State → State) : State := f (relayFrom s src 2 b)
  match fieldAt b 0 1 with
  | 1 => if isLead s then readyTake s src else s
  | 2 => on goHere
  | 3 => on preemptHere
  | 4 => if isLead s then drainedTake s src (body64 b 8) (body64 b 16) else s
  | 5 => on quiesceHere
  | 6 => on restoreHere
  | 7 => if isLead s then restoredTake s src else s
  | 8 => on abortHere
  | _ => s

/-- Kind 3 (R243). -/
def takeDetector (s : State) (b : List Byte) : State :=
  let src := bodyDev b 2
  match fieldAt b 0 1 with
  | 1 => takeReport s src (body64 b 8) (body64 b 16)
  | 2 => takeWithdraw s src
  | 3 => takeDeadlock s src (fieldAt b 8 4)
  | _ => s

/-- Kind 5 (R346): t2 and t4 are the times at which the flits arrived. -/
def takeSync (s : State) (m : Tc0) : State :=
  let b := m.body
  match fieldAt b 0 1 with
  | 1 => syncAnswer s m.via m.src (body64 b 8) m.arrived
  | 2 => syncTake s m.via (body64 b 8) (body64 b 16) (body64 b 24) m.arrived
  | _ => s

/-- Kind 6 (R451, R494). -/
def takeControl (s : State) (b : List Byte) : State :=
  let src := bodyDev b 2
  let w (i : Nat) : Word32 := BitVec.ofNat 32 (fieldAt b i 4)
  let bit0 := bitOf (fieldAt b 1 1) 0
  match fieldAt b 0 1 with
  | 1 => if isLead s then reportTake s src (w 4) (body64 b 8) else s
  | 2 => planTake s src b ⟨fieldAt b 1 1, w 4, body64 b 8, w 16⟩
  | 3 =>
    if isLead s then
      genTake s (w 4) ⟨src, bit0, bitOf (fieldAt b 1 1) 1, body64 b 8, BitVec.ofNat 16 (fieldAt b 16 2), BitVec.ofNat 16 (fieldAt b 18 2)⟩
    else s
  | 4 => permitTake (relayFrom s src 6 b) ⟨w 4, body64 b 8, bit0, w 16, w 20⟩
  | 5 => ledgerAsk s src (fieldAt b 1 1) (fieldAt b 4 4) (fieldAt b 8 2)
  | _ => s

/-- A TC0 message is delivered to its agent (R343). -/
def tc0Deliver (s : State) (m : Tc0) : State :=
  let b := m.body
  match m.kind.toNat with
  | 1 => noticeTake s ⟨bodyDev b 0, bodyDev b 2, fieldAt b 4 1, BitVec.ofNat 16 (fieldAt b 6 2), body64 b 8, body64 b 16⟩
  | 2 => takeRendezvous s b
  | 3 => takeDetector s b
  | 4 => beatTake s (bodyDev b 0)
  | 5 => takeSync s m
  | 6 => takeControl s b
  | _ => s

/-- The number that the next message of a source takes. -/
def tc0Next (s : State) (src : BitVec 14) : Word16 := smGet (0 : Word16) s.fab.tc0Rx src.toNat

/-- Messages held of a source that are next in order are delivered. The count bounds the steps. -/
def tc0Flush (src : BitVec 14) : Nat → State → State
  | 0, s => s
  | f + 1, s =>
    match s.fab.tc0Held.find? (fun m => m.src == src && m.seq == tc0Next s src) with
    | none => s
    | some m =>
      tc0Flush src f (tc0Deliver { s with fab := { s.fab with tc0Held := s.fab.tc0Held.erase m
                                                              tc0Rx := smSet 0 s.fab.tc0Rx src.toNat (m.seq + 1) } } m)

/-- A message for this module: in order, held behind a gap, or a duplicate (R344). -/
def tc0Take (s : State) (m : Tc0) : State :=
  let d := (m.seq - tc0Next s m.src).toNat
  if d ≥ 32768 ∨ s.fab.tc0Held.any (fun x => x.src == m.src && x.seq == m.seq) = true then s
  else tc0Flush m.src (s.fab.tc0Held.length + 1) { s with fab := { s.fab with tc0Held := s.fab.tc0Held ++ [m] } }

/-- A packet that its destination or a link discards for its form (R328). -/
def formEvent (s : State) (k : Nat) : State := record s kEvent (srcLink k) cFabPktForm (openPay cFabPktForm (srcLink k))

/-- Whether bytes `a` to `b` of a body hold anything. -/
def bodyHas (body : List Byte) (a b : Nat) : Bool := (slice body a (b + 1 - a)).any (fun x => x != 0)

/-- A TC0 body with a keep-zero bit set (R328): the layouts of R447, R562, R243, R445, R346, R451 and R494. -/
def tc0BodyBad (m : Tc0) : Bool :=
  let b := m.body
  let t := fieldAt b 0 1
  match m.kind.toNat with
  | 1 => bodyHas b 5 5
  | 2 => bodyHas b 1 1 || bodyHas b 4 7
  | 3 => bodyHas b 1 1 || bodyHas b 4 7
  | 4 => bodyHas b 2 7
  | 5 => bodyHas b 1 7 || (t == 1 && bodyHas b 16 31)
  | 6 =>
    (t == 1 && (bodyHas b 1 1 || bodyHas b 16 31)) || (t == 2 && bodyHas b 20 31)
      || (t == 3 && (decide (fieldAt b 1 1 ≥ 4) || bodyHas b 20 31)) || (t == 4 && (decide (fieldAt b 1 1 ≥ 2) || bodyHas b 24 31))
      || (t == 5 && bodyHas b 10 15) || (t == 6 && bodyHas b 4 15)
  | _ => false

/-- A TC0 packet arrives on a link: refused for its form, taken at this time, or passed on. -/
def tc0Arrive (s : State) (k : Nat) (m : Tc0) (hops phase : Nat) : State :=
  if m.dst ≠ devId s then fabOut s k (.tc0 m hops phase)
  else if m.kz || tc0BodyBad m then formEvent s k
  else tc0Take s { m with arrived := nowW s, via := k }

/-- TC0_GAP_TIMEOUT: what is missing before the first message held is skipped (R344). -/
def tc0Gap (s : State) (src : BitVec 14) : State :=
  let l := (s.fab.tc0Held.filter (fun m => m.src == src)).map (fun m => m.seq)
  match l with
  | [] => s
  | x :: xs =>
    let least := xs.foldl (fun a b => if serialLe b a then b else a) x
    let s1 := { s with fab := { s.fab with tc0Rx := smSet 0 s.fab.tc0Rx src.toNat least } }
    let s2 := record (bump s1 aFabGaps 1) kEvent srcMgmt cTc0Gap (openPay cTc0Gap srcMgmt)
    tc0Flush src (s2.fab.tc0Held.length) s2

/-- TC0_RELEASE: the next message of the source queue goes (R342). Time messages go one hop, on the link that they are for (R346). -/
def tc0Release (s : State) : State :=
  match s.fab.tc0q with
  | [] => s
  | m :: ms =>
    let s1 := { s with fab := { s.fab with tc0q := ms } }
    if m.dst = devId s then tc0Deliver s1 m
    else if m.kind = 5 then (if linkUp s1 m.via then linkPut s1 m.via localIn (.tc0 m 0 0) else s1)
    else fabOut s1 localIn (.tc0 m 0 0)

/-! ### Flits (R318) -/

/-- CRC-64 over one byte, least significant bit first; the polynomial is that of R318 with its bits reversed. -/
def crcBit (c : BitVec 64) : BitVec 64 := if c.getLsbD 0 then (c >>> 1) ^^^ 0xC96C5795D7870F42 else c >>> 1
def crcByte (c : BitVec 64) (b : Byte) : BitVec 64 :=
  crcBit (crcBit (crcBit (crcBit (crcBit (crcBit (crcBit (crcBit (c ^^^ b.setWidth 64))))))))

/-- CRC-64 of R318. -/
def crc64 (bs : List Byte) : BitVec 64 := ~~~(bs.foldl crcByte (BitVec.allOnes 64))

/-- Payload bytes of a flit. -/
def flitPay : Nat := 616

/-- A flit: kind, class, number, acknowledgement word, credit returns, first packet's offset, phase, payload. -/
def flitOf (kind cls seq ackw : Nat) (rets : List (Nat × Nat)) (first phase : Nat) (pay : List Byte) : List Byte :=
  let h := leBytes 2 (seq % 4096 + cls * 2 ^ 12 + kind * 2 ^ 14) ++ leBytes 2 ackw
    ++ slice (rets.flatMap (fun r => leBytes 2 (r.2 + r.1 * 2 ^ 12))) 0 8 ++ leBytes 2 first ++ leBytes 1 phase ++ leBytes 1 0 ++ slice pay 0 flitPay
  h ++ leBytes 8 (crc64 h).toNat

/-- The acknowledgement word: number, valid, NAK. -/
def ackWord (l : Link) : Nat :=
  (if l.rxAny then l.rxSeq.toNat else 0xFFF) + b2n (l.rxAny || l.nakDue) * 2 ^ 12 + b2n l.nakDue * 2 ^ 13

/-- A flit of the retry buffer with the present acknowledgement. -/
def reAck (l : Link) (raw : List Byte) : List Byte :=
  let h := raw.take 2 ++ leBytes 2 (ackWord l) ++ slice raw 4 628
  h ++ leBytes 8 (crc64 h).toNat

/-- Four credit returns, and the returns left. -/
def takeRets (l : Link) : List (Nat × Nat) × SMap Nat :=
  let rs := (l.ret.take 4).map (fun r => (r.1, min r.2 4095))
  (rs, rs.foldl (fun m r => smSet 0 m r.1 (smGet 0 m r.1 - r.2)) l.ret)

/-- Counters of a link (R351). -/
def aLinkFec (k : Nat) : Nat := aLink k + 0x08
def aLinkUncorr (k : Nat) : Nat := aLink k + 0x10
def aLinkRetry (k : Nat) : Nat := aLink k + 0x18
def aLinkTxf (k : Nat) : Nat := aLink k + 0x20
def aLinkRxf (k : Nat) : Nat := aLink k + 0x28

/-! ### What a link sends (R320, R334, R335) -/

/-- Credit units of a lane's buffer (R334). -/
def laneCap (lane : Nat) : Nat :=
  match lane / 3 with
  | 0 => 32
  | 1 => 128
  | 2 => 1024
  | _ => 512

/-- What a lane serves next comes to its front (R335): a packet begun in an earlier flit, else the oldest of the next input that waits. -/
def rrFront (last : Nat) (q : List OutItem) : List OutItem :=
  if q.any (fun o => o.sent != 0) then q
  else
    match ((List.range 37).map (fun i => (last + 1 + i) % 37)).findSome? (fun i => q.find? (fun o => o.input == i)) with
    | none => q
    | some o => o :: q.erase o

/-- A lane's queue in the order of its grants. The count bounds the steps. -/
def rrOrder : Nat → Nat → List OutItem → List OutItem
  | 0, _, q => q
  | f + 1, last, q =>
    match rrFront last q with
    | [] => []
    | o :: os => o :: rrOrder f o.input os

/-- The input that a lane has served last after the first n items of its queue have left or begun. -/
def rrLast (last n : Nat) (q : List OutItem) : Nat := ((q.take n).getLast?.map (fun o => o.input)).getD last

/-- The time stamps of a kind 5 message of this module are taken as its flit leaves (R346). -/
def syncStamp (s : State) (o : OutItem) : OutItem :=
  match o.item with
  | .tc0 m h p =>
    if m.kind = 5 ∧ m.src = devId s then
      let i := if fieldAt m.body 0 1 = 1 then 8 else 24
      let m1 := { m with body := slice m.body 0 i ++ leBytes 8 (now s) ++ m.body.drop (i + 8) }
      { o with item := .tc0 m1 h p, bytes := o.bytes.take (16 + i) ++ leBytes 8 (now s) ++ o.bytes.drop (24 + i) }
    else o
  | _ => o

/-- Whole TC0 messages for one flit: at most 7. -/
def fillTc0 : Nat → Nat → List OutItem → List OutItem
  | 0, _, _ => []
  | _, _, [] => []
  | n + 1, room, o :: os => if o.bytes.length ≤ room then o :: fillTc0 n (room - o.bytes.length) os else []

/-- The queue of a lane in the order of its grants (R335). -/
def laneOrder (l : Link) (lane : Nat) : List OutItem :=
  let q := smGet [] l.q lane
  rrOrder q.length (smGet localIn l.rr lane) q

/-- What a lane's next flit carries: bytes, items, offset of the first packet that begins in it, and the queue left. -/
def fillBulk : Nat → Nat → List OutItem → List Byte × List Wire × Option Nat × List OutItem
  | _, _, [] => ([], [], none, [])
  | room, off, o :: os =>
    if room = 0 then ([], [], none, o :: os)
    else
      let n := min (o.bytes.length - o.sent) room
      let part := (o.bytes.drop o.sent).take n
      let first := if o.sent = 0 then some off else none
      if o.sent + n < o.bytes.length then (part, [o.item], first, { o with sent := o.sent + n } :: os)
      else
        let (bs, is, f, q) := fillBulk (room - n) (off + n) os
        (part ++ bs, o.item :: is, first.orElse (fun _ => f), q)

/-- The next flit of a lane, from its queue in the order of the grants. -/
def fillLane (s : State) (l : Link) (lane : Nat) : List Byte × List Wire × Option Nat × List OutItem :=
  let q := laneOrder l lane
  if lane < 3 then
    let os := (fillTc0 7 flitPay q).map (syncStamp s)
    (os.flatMap (fun o => o.bytes), os.map (fun o => o.item), (if os.isEmpty then none else some 0), q.drop os.length)
  else fillBulk flitPay 0 q

/-- Whether a lane has a flit and the credits for it. -/
def laneReady (s : State) (l : Link) (lane : Nat) : Bool :=
  let n := (fillLane s l lane).1.length
  n != 0 && decide (smGet 0 l.used lane + ceilDiv n 64 ≤ laneCap lane)

/-- The phase of a class that is served: round-robin after the last one (R335). -/
def pickPhase (s : State) (l : Link) (cls : Nat) : Option Nat :=
  [1, 2, 3].map (fun i => (smGet 0 l.phase cls + i) % 3) |>.find? (fun p => laneReady s l (cls * 3 + p))

/-- The quantum of TC2 or TC3 (R334). -/
def quantum (s : State) (cls : Nat) : Int := 640 * max 1 (if cls = 2 then regF s aFabArb 3 0 else regF s aFabArb 7 4)

/-- Deficit round robin between TC2 and TC3: the class, and the deficits; key 9 tells whether TC3 has the turn. -/
def pickBulk (s : State) (l : Link) : Option (Nat × SMap Int) :=
  let d (c : Nat) : Int := smGet 0 l.deficit c
  let t := if smGet 0 l.deficit 9 = 1 then 3 else 2
  let o := 5 - t
  let put (m : SMap Int) (c : Nat) (v : Int) : SMap Int := smSet 0 m c v
  let rt := (pickPhase s l t).isSome
  if rt && decide (d t ≥ 640) then some (t, put l.deficit t (d t - 640))
  else if (pickPhase s l o).isSome then some (o, put (put (put l.deficit t (if rt then d t else 0)) o (d o + quantum s o - 640)) 9 (if o = 3 then 1 else 0))
  else if rt then some (t, put l.deficit t (d t + quantum s t - 640))
  else none

/-- The class of the next data flit: TC0, then TC1 within its share, then TC2 and TC3 (R334). -/
def pickClass (s : State) (l : Link) : Option (Nat × SMap Int) :=
  if (pickPhase s l 0).isSome then some (0, l.deficit)
  else
    let bulk := (pickPhase s l 2).isSome || (pickPhase s l 3).isSome
    if (pickPhase s l 1).isSome && !(bulk && decide ((l.hist.filter (fun c => c == 1)).length ≥ 2)) then some (1, l.deficit)
    else pickBulk s l

/-- The classes of the last 15 flits; 9 stands for a flit without a class. -/
def histAdd (l : Link) (c : Nat) : List Nat := (c :: l.hist).take 15

/-- The flit that a link sends next (R319, R321): a replayed one, a new one, an idle one. -/
def linkSend (s : State) (k : Nat) : State :=
  let l := getLink s k
  if !linkUp s k then s
  else
    match l.replay with
    | f :: fs =>
      bump (bump (setLink s k { l with replay := fs, nakDue := false, wire := reAck l f.raw, hist := histAdd l 9 }) (aLinkTxf k) 1) (aLinkRetry k) 1
    | [] =>
      let (rets, ret) := takeRets l
      let idle := setLink s k { l with nakDue := false, ret := ret, wire := flitOf 1 0 0 (ackWord l) rets 0x3FF 0 [], hist := histAdd l 9 }
      if l.retry.length ≥ 256 then idle
      else
        match pickClass s l with
        | none => idle
        | some (cls, def1) =>
          match pickPhase s l cls with
          | none => idle
          | some ph =>
            let lane := cls * 3 + ph
            let (bs, is, first, q) := fillLane s l lane
            let raw := flitOf 0 cls l.txSeq.toNat (ackWord l) rets (first.getD 0x3FF) ph bs
            bump (setLink s k { l with
              q := smSet [] l.q lane q, used := smSet 0 l.used lane (smGet 0 l.used lane + ceilDiv bs.length 64)
              retry := l.retry ++ [⟨l.txSeq, raw, is⟩], txSeq := l.txSeq + 1, nakDue := false, ret := ret, wire := raw
              hist := histAdd l cls, deficit := def1, phase := smSet 0 l.phase cls ph
              rr := smSet localIn l.rr lane (rrLast (smGet localIn l.rr lane) is.length (laneOrder l lane)) }) (aLinkTxf k) 1

/-! ### What a link receives (R321) -/

/-- a comes at or before b in 12-bit serial order. -/
def serialLe12 (a b : BitVec 12) : Bool := decide ((b - a).toNat < 2048)

/-- An acknowledgement frees flits of the retry buffer. -/
def linkAck (s : State) (k : Nat) (n : BitVec 12) : State :=
  let l := getLink s k
  let r := l.retry.filter (fun f => !serialLe12 f.seq n)
  setLink s k { l with retry := r, replay := l.replay.filter (fun f => !serialLe12 f.seq n), naks := if r.length = l.retry.length then l.naks else 0 }

/-- The link leaves UP for RETRAIN (R315). -/
def retrain (s : State) (k : Nat) : State := if linkUp s k then parentUpdate (modLink s k (fun l => { l with st := .retrain, replay := [] })) else s

/-- A NAK: replay from the flit after its number; the 8th in a row for one flit retrains the link. -/
def linkNak (s : State) (k : Nat) (n : BitVec 12) : State :=
  if !linkUp s k then s
  else
    let s1 := linkAck s k n
    let l := getLink s1 k
    if l.retry.isEmpty then s1
    else
      let s2 := setLink s1 k { l with replay := l.retry, naks := l.naks + 1 }
      if l.naks + 1 ≥ 8 then retrain s2 k else s2

/-- Credits come back (R334). -/
def linkCredit (s : State) (k : Nat) (raw : List Byte) : State :=
  modLink s k (fun l => { l with used := (List.range 4).foldl (fun m i =>
    let v := fieldAt raw (4 + 2 * i) 2
    smSet 0 m (v / 4096) (smGet 0 m (v / 4096) - v % 4096)) l.used })

/-- The acknowledgement word of a flit that arrived. -/
def linkAckWord (s : State) (k : Nat) (raw : List Byte) : State :=
  let v := fieldAt raw 2 2
  let n := BitVec.ofNat 12 (v % 4096)
  if bitOf v 13 then linkNak s k n else if bitOf v 12 then linkAck s k n else s

/-- A TC0 header whose destination refuses it (R328, R343): a keep-zero bit set, or a body of no legal length. -/
def tc0Bad (bs : List Byte) : Bool :=
  fieldAt bs 1 1 / 16 != 0 || fieldAt bs 2 2 / 2 ^ 14 != 0 || fieldAt bs 4 2 / 2 ^ 14 != 0 || fieldAt bs 9 3 != 0
    || fieldAt bs 8 1 == 0 || decide (fieldAt bs 8 1 > 64)

/-- TC0 packets of a payload with the hops they carry: whole, up to 7; the rest is keep-zero (R343). Last, whether what is left is no packet. -/
def parseTc0 : Nat → List Byte → List (Tc0 × Nat) × Bool
  | 0, bs => ([], bs.any (fun b => b != 0))
  | f + 1, bs =>
    let n := fieldAt bs 8 1
    if fieldAt bs 0 1 % 16 ≠ 8 ∨ bs.length < 16 + n then ([], bs.any (fun b => b != 0))
    else
      let (ms, bad) := parseTc0 f (bs.drop (16 + n))
      ((⟨BitVec.ofNat 4 (fieldAt bs 0 1 / 16), bodyDev bs 2, bodyDev bs 4, BitVec.ofNat 16 (fieldAt bs 6 2), BitVec.ofNat 32 (fieldAt bs 12 4),
        slice bs 16 n, tc0Bad bs, 0, 63⟩, fieldAt bs 1 1 % 16) :: ms, bad)

/-- Packets of a lane's bytes, what remains of one that goes on in the next flit, and the fill after them: bytes that are all zero where a packet
would start (R328). The count bounds the packets. -/
def parsePkts : Nat → List Byte → List Packet × List Byte × Nat
  | 0, bs => ([], bs, 0)
  | f + 1, bs =>
    if bs.all (fun b => b == 0) then ([], [], bs.length)
    else
      let n := pktPayLen (fieldAt bs 0 1 % 16) (fieldAt bs 10 2 % 8192)
      if bs.length < 32 + n then ([], bs, 0)
      else
        let (ps, rest, fill) := parsePkts f (bs.drop (32 + n))
        (pktOf (bs.take 32) ((bs.drop 32).take n) :: ps, rest, fill)

/-- A lane's credit units to return. -/
def retAdd (s : State) (k lane n : Nat) : State := modLink s k (fun l => { l with ret := smSet 0 l.ret lane (smGet 0 l.ret lane + n) })

/-- The payload of an accepted flit (R320). The units of signals that wait for an entry stay withheld (R234). -/
def linkPayload (s : State) (k : Nat) (raw : List Byte) : State :=
  let cls := bitsOf (fieldAt raw 0 2) 13 12
  let ph := fieldAt raw 14 1 % 4
  let lane := cls * 3 + ph
  let pay := slice raw 16 flitPay
  if cls = 0 then
    let (ms, bad) := parseTc0 7 pay
    let used := ms.foldl (fun n m => n + 16 + m.1.body.length) 0
    let s1 := ms.foldl (fun s m => tc0Arrive s k m.1 m.2 ph) (retAdd s k lane (ceilDiv used 64))
    if bad then formEvent s1 k else s1
  else
    let (ps, rest, fill) := parsePkts 22 (smGet [] (getLink s k).part lane ++ pay)
    let s1 := modLink s k (fun l => { l with part := smSet [] l.part lane rest })
    let s2 := ps.foldl (fun s p => pktArrive s k p) s1
    let held := (getLink s2 k).held.length - (getLink s k).held.length
    retAdd s2 k lane (ceilDiv (flitPay - fill) 64 - held)

/-- Whether a flit that the FEC delivered passes its CRC. -/
def flitOk (fec : FecOutcome) (raw : List Byte) : Bool := fec != .uncorrectable && fieldAt raw 632 8 == (crc64 (slice raw 0 632)).toNat

/-- An uncorrectable codeword; the fourth in 1 ms makes every lane of the link unhealthy (R324, log entry 109). -/
def uncorrTake (s : State) (k : Nat) : State :=
  let ts := now s :: (getLink s k).uncorr.filter (fun t => decide (now s < t + 10 ^ 6))
  if ts.length ≥ 4 then retrain (modLink s k (fun l => { l with uncorr := [], sick := 15 })) k else modLink s k (fun l => { l with uncorr := ts })

/-- What the FEC saw is counted. -/
def fecCount (s : State) (k : Nat) (fec : FecOutcome) : State :=
  match fec with
  | .clean => s
  | .corrected => bump s (aLinkFec k) 1
  | .uncorrectable => uncorrTake (bump s (aLinkUncorr k) 1) k

/-- A flit failed: a NAK is due, and data flits are discarded until the missing one arrives. -/
def nakDue (s : State) (k : Nat) : State := modLink s k (fun l => { l with rxWait := true, nakDue := true })

/-- A data flit ahead of a gap is discarded; the first one asks for the missing one with a NAK (R321). The highest is kept (R350). Whether the
acknowledgement word of the discarded flit is acted on the spec does not say: DESIGN CHOICE, log entry 129, that it is not; that of a duplicate is. -/
def gapTake (s : State) (k : Nat) (n : BitVec 12) : State :=
  modLink s k (fun l =>
    let top := match l.rxTop with
      | some t => if serialLe12 n t then t else n
      | none => n
    { l with rxWait := true, nakDue := l.nakDue || !l.rxWait, rxTop := some top })

/-- The number that a link's next data flit must have. -/
def rxWant (l : Link) : BitVec 12 := if l.rxAny then l.rxSeq + 1 else 0

/-- A data flit failed: a NAK is due and the flit will come again (R350). Its own number field says which flit it is where that lies within the
retry buffer; else it is taken for the one that is due (log entry 111). -/
def failTake (s : State) (k : Nat) (raw : List Byte) : State :=
  modLink (nakDue s k) k (fun l =>
    let n := BitVec.ofNat 12 (fieldAt raw 0 2 % 4096)
    let n1 := if (n - rxWant l).toNat < 256 then n else rxWant l
    { l with rxTop := some (match l.rxTop with | some t => if serialLe12 n1 t then t else n1 | none => n1) })

/-- Whether an accepted flit was retried, as its receiver knows: it failed or was discarded before (R350). -/
def retried (l : Link) (n : BitVec 12) : Bool := match l.rxTop with | some t => serialLe12 n t | none => false

/-- A flit that carries only acknowledgements and credits (R319). -/
def linkIdle (s : State) (k : Nat) (raw : List Byte) : State := linkAckWord (linkCredit s k raw) k raw

/-- DATA_FLIT (R321): a flit accepted is delivered before the NAK that it carries can retrain the link. -/
def linkData (s : State) (k : Nat) (fec : FecOutcome) (raw : List Byte) : State :=
  if !linkUp s k then s
  else
    let s1 := fecCount s k fec
    if !flitOk fec raw then failTake s1 k raw
    else if bitsOf (fieldAt raw 0 2) 15 14 ≠ 0 then linkIdle s1 k raw
    else
      let l := getLink s1 k
      let n := BitVec.ofNat 12 (fieldAt raw 0 2 % 4096)
      let want := rxWant l
      if n = want then
        let s2 := setLink s1 k { l with rxAny := true, rxSeq := n, rxWait := false, nakDue := false, rxTop := if l.rxTop = some n then none else l.rxTop }
        let s3 := if retried l n then record s2 kCorrected (srcLink k) cLinkCorrected (openPay cLinkCorrected (srcLink k)) else s2
        linkAckWord (linkPayload (linkCredit (bump s3 (aLinkRxf k) 1) k raw) k raw) k raw
      else if (n - want).toNat ≥ 2048 then linkAckWord s1 k raw
      else gapTake s1 k n

/-- IDLE_FLIT. -/
def linkIdleFlit (s : State) (k : Nat) (fec : FecOutcome) (raw : List Byte) : State :=
  if !linkUp s k then s
  else
    let s1 := fecCount s k fec
    if flitOk fec raw then linkIdle s1 k raw else nakDue s1 k

/-! ### States (R315, R322 to R324, R333) -/

/-- The level of the schedule format that HELLO names (log entry 32). -/
def sflLevel : Nat := 1

/-- The HELLO flit (R322). -/
def helloFlit (s : State) (k : Nat) : List Byte :=
  flitOf 2 0 0 0 [] 0x3FF 0 (leBytes 2 (devId s).toNat ++ leBytes 1 k ++ leBytes 1 (regF s (aFab + 8) 7 0) ++ leBytes 1 sflLevel ++ leBytes 1 0
    ++ leBytes 2 (regF s aVecMll 15 0) ++ leBytes 2 (fieldAt s.cfg 42 2))

/-- Every item that a link still carries, in order, each once. -/
def linkItems (l : Link) : List Wire := (l.retry.flatMap (fun f => f.items) ++ l.q.flatMap (fun q => q.2.map (fun o => o.item))).dedup

/-- An item goes back through path choice. -/
def reinject : List Wire → State → State
  | [], s => s
  | w :: ws, s => reinject ws (fabOut s localIn w)

/-- The link enters FAILED under a code: it carries nothing, and what it held goes back through path choice (R333). What FAB_LINK_STATUS.ndev and nlink
then read the spec does not say: DESIGN CHOICE, log entry 130, that they are cleared. -/
def linkFail (s : State) (k cls : Nat) (code : Word16) : State :=
  let ws := linkItems (getLink s k)
  let s1 := modLink s k (fun l => { Link.init with st := .failed, attempts := l.attempts, sick := l.sick, held := l.held })
  parentUpdate (reinject ws (record s1 cls (srcLink k) code (openPay code (srcLink k))))

/-- TRAINING_ATTEMPT_END: the lanes locked, or the attempt failed; it fails after the lock too when no HELLO comes in its 5 ms. -/
def trainEnd (s : State) (k : Nat) (ok : Bool) : State :=
  let l := getLink s k
  if l.st ≠ .training ∨ (ok && l.hello) = true then s
  else if ok then setLink s k { l with hello := true, wire := helloFlit s k }
  else if l.attempts < 3 then setLink s k { l with attempts := l.attempts + 1, hello := false }
  else linkFail s k kContained cLinkDown

/-- Active lanes and the pair code, by the lanes that have been unhealthy (R324, R351). -/
def lanePick (sick : BitVec 4) : Nat × Nat :=
  if sick = 0 then (4, 0)
  else if !sick.getLsbD 0 && !sick.getLsbD 1 then (2, 1)
  else if !sick.getLsbD 2 && !sick.getLsbD 3 then (2, 2)
  else if sick = 15 then (0, 0)
  else (1, 3)

/-- Entry k of the configuration block's link table (R539). -/
def linkEntry (s : State) (k : Nat) : List Byte := slice s.cfg (fieldAt s.cfg 108 4 + 8 * k) 8

/-- HELLO (R323, R349). -/
def helloTake (s : State) (k : Nat) (dev : BitVec 14) (index fpl sfl : BitVec 8) (mll feed : Word16) : State :=
  let l := getLink s k
  if l.st ≠ .training ∨ l.hello = false then s
  else
    let e := linkEntry s k
    if fieldAt e 2 2 = dev.toNat ∧ fieldAt e 4 1 = index.toNat ∧ fpl ≠ 0 then
      let (n, p) := lanePick l.sick
      parentUpdate (setLink s k { l with st := .up, hello := false, lanes := n, pair := p, fpl := min fpl.toNat (regF s (aFab + 8) 7 0)
                                         ndev := dev.toNat, nlink := index.toNat, nsfl := sfl.toNat, nmll := mll.toNat, nfeed := feed.toNat })
    else linkFail s k kEvent cFabNeighbour

/-- LANE_UNHEALTHY: a lane, or the link as a whole, which is every lane of it (R315, R324, log entry 109). -/
def laneSick (s : State) (k : Nat) (lane : Option (BitVec 2)) : State :=
  match lane with
  | some i => retrain (modLink s k (fun l => { l with sick := l.sick ||| BitVec.ofNat 4 (2 ^ i.toNat) })) k
  | none => retrain (modLink s k (fun l => { l with sick := 15 })) k

/-- RETRAIN_LOCK: up again on the healthy lanes; the retry buffer is replayed. -/
def retrainEnds (s : State) (k : Nat) : State :=
  let l := getLink s k
  let (n, p) := lanePick l.sick
  if l.st ≠ .retrain ∨ n = 0 then s
  else
    let s1 := setLink s k { l with st := .up, lanes := n, pair := p, replay := l.retry, naks := 0 }
    parentUpdate (if n < l.lanes then record s1 kEvent (srcLink k) cLaneDegraded (openPay cLaneDegraded (srcLink k)) else s1)

/-- RETRAIN_TIMEOUT. -/
def retrainLate (s : State) (k : Nat) : State := if (getLink s k).st = .retrain then linkFail s k kContained cLinkDown else s

/-! ### The commands -/

/-- TRAINING_ATTEMPT_END. -/
def execTrainingAttemptEnd (link : Nat) (ok : Bool) (s : State) : Out := onLink link (trainEnd s link ok)
/-- HELLO. -/
def execHello (link : Nat) (dev : BitVec 14) (index fpl sfl : BitVec 8) (mll feed : Word16) (s : State) : Out :=
  onLink link (helloTake s link dev index fpl sfl mll feed)
/-- LANE_UNHEALTHY. -/
def execLaneUnhealthy (link : Nat) (lane : Option (BitVec 2)) (s : State) : Out := onLink link (laneSick s link lane)
/-- RETRAIN_LOCK. -/
def execRetrainLock (link : Nat) (s : State) : Out := onLink link (retrainEnds s link)
/-- RETRAIN_TIMEOUT. -/
def execRetrainTimeout (link : Nat) (s : State) : Out := onLink link (retrainLate s link)
/-- NEIGHBOUR_RETRAIN. -/
def execNeighbourRetrain (link : Nat) (s : State) : Out := onLink link (retrain s link)
/-- FLIT_SEND. -/
def execFlitSend (link : Nat) (s : State) : Out := onLink link (linkSend s link)
/-- DATA_FLIT. -/
def execDataFlit (link : Nat) (fec : FecOutcome) (raw : List Byte) (s : State) : Out := onLink link (linkData s link fec raw)
/-- IDLE_FLIT. -/
def execIdleFlit (link : Nat) (fec : FecOutcome) (raw : List Byte) (s : State) : Out := onLink link (linkIdleFlit s link fec raw)
/-- NAK. -/
def execNak (link : Nat) (lastGood : BitVec 12) (s : State) : Out := onLink link (linkNak s link lastGood)
/-- TC0_RELEASE. -/
def execTc0Release (s : State) : Out := .next (tc0Release s)
/-- TC0_GAP_TIMEOUT. -/
def execTc0GapTimeout (src : BitVec 14) (s : State) : Out := .next (tc0Gap s src)

end Sys2Proof.Machine
end

