-- ==== Sys2Proof/Machine/WipeRun.lean ====
section
/-! DEFINITION. Wipes as they end (17 R526, R527, 10 R310): Sanitize, completion, what follows, and the math library tables that reload after a
wipe (18 R546). -/

namespace Sys2Proof.Machine

/-- Codes of R528 and R548. -/
def cWipeDone : Word16 := 0xA008
def cWipeFail : Word16 := 0xA009
def cBootMllBad : Word16 := 0xB005

/-- A wipe's CXL part on a port, as Sanitize ends it. -/
def sanitEnds (s : State) (k : Nat) (ok : Bool) : State :=
  match s.sec.wipe with
  | none => s
  | some w =>
    if !w.sanit.getLsbD k then s
    else
      let b := portBits [k]
      let w1 : Wipe := if ok then { w with sanit := w.sanit &&& ~~~b, ports := w.ports &&& ~~~b, used := w.used ||| b } else { w with sanit := w.sanit &&& ~~~b }
      wipeShow (setRegF { s with sec := { s.sec with wipe := some w1 } } (aCxl k) 27 27 (b2n ok)) w1

/-! ### Images in NOR flash (R520, R546) -/

/-- Bytes of an image before its body. -/
def imgHead : Nat := 4485

/-- Whether the header of an image parses: magic, version, keep-zero, security version, a body that fits its region (R520, R538). -/
def imgForm (s : State) (magic : List Byte) (base size : Nat) : Bool :=
  let h := memReads s.nor base 88
  slice h 0 4 == magic && fieldAt h 4 2 == 1 && fieldAt h 6 2 == 0 && decide (fieldAt h 8 4 ≤ 127) && decide (fieldAt h 16 8 ≤ size - imgHead)

/-- Whether the body's digest is the header's. -/
def imgDigestOk (s : State) (base : Nat) : Bool :=
  let h := memReads s.nor base 88
  shake64 (memReads s.nor (base + imgHead) (fieldAt h 16 8)) == slice h 24 64

/-- Whether the certificate that an image carries is of type 2 and names the key of the root record as its issuer (R514, R520, R521). -/
def imgCertNamed (s : State) (base : Nat) : Bool :=
  let c := memReads s.nor (base + 1370) 40
  fieldAt c 0 2 == 2 && slice c 24 16 == (shake64 (memReads s.nor 0 1793)).take 16

/-- The math library tables are loaded, or refused with BOOT_MLL_BAD (R546). `sigOk`: the signatures of certificate and header verify. -/
def mllLoad (s : State) (sigOk : Bool) : State :=
  if imgForm s [0x55, 0x41, 0x38, 0x4D] 0x200000 0x200000 && sigOk && imgCertNamed s 0x200000 && imgDigestOk s 0x200000 then
    setReg s aVecMll (BitVec.ofNat 64 (fieldAt (memReads s.nor 0x200000 16) 12 2 + 2 ^ 16))
  else record (mllDrop s) kEvent srcMgmt cBootMllBad (openPay cBootMllBad srcMgmt)

/-! ### The end of a wipe -/

/-- The number of the WIPE_DONE record: the newest one in the Ledger, or the number the event will take when it waits (log entry 33). -/
def wipeDoneSeq (s : State) : Word32 :=
  if !s.ldg.held.isEmpty then s.ldg.nextSeq + BitVec.ofNat 32 s.ldg.held.length - 1
  else match s.ldg.recs.reverse.find? (fun p => p.1.code == cWipeDone) with
    | some p => p.1.seq
    | none => s.ldg.nextSeq

/-- What follows a wipe for each of its triggers (R526, R505, R532, R561). -/
def wipeAfter (s : State) (why : WipeWhy) : State :=
  match why with
  | .start => readyCheck s
  | .jobEnd => hostDoneAll (jobTo (segmentEnd s 0) .empty) 5 0 s.sec.wipeSeq.toNat 0
  | .ondie q cid => hostDone s q cid 0 0 0
  | .move => s

/-- A covered byte could not be written (R527); the wipe ends, and a transition that it belongs to ends with it and burns nothing (log entry 140). -/
def wipeFailed (s : State) : State :=
  let s1 := setRegF (setRegF (setRegF s aSecWipe 4 4 1) aSecWipe 1 0 0) aSecWipe 8 5 0
  deviceFatal { s1 with sec := { s1.sec with wipe := none, move := match s1.sec.wipe with | some w => if w.why.contains .move then none else s1.sec.move | none => s1.sec.move } } srcSec cWipeFail (openPay cWipeFail srcSec)

/-- WIPE_DONE and what waited for it. -/
def wipeDone (s : State) (w : Wipe) (us : BitVec 32) (mllOk : Bool) : State :=
  let fail := regF s aSecWipe 4 4
  let s1 := setReg { s with sec := { s.sec with wipe := none } } aSecWipe (BitVec.ofNat 64 (fail * 16 + w.scope * 4 + us.toNat * 2 ^ 32))
  let s2 := record s1 kEvent srcSec cWipeDone (w.scope + w.used.toNat * 16 + us.toNat * 2 ^ 16)
  let s3 := { s2 with sec := { s2.sec with wipeSeq := wipeDoneSeq s2 } }
  let s4 := if w.scope ≥ 2 ∧ w.why ≠ [.start] then mllLoad s3 mllOk else s3
  w.why.foldl wipeAfter s4

/-- Whether a port with covered bytes is down, so that they cannot be written (R309, R310). -/
def wipeStuck (s : State) (w : Wipe) : Bool := (List.range 4).any (fun k => w.ports.getLsbD k && smGet false s.mem.cxlDown k)

/-- Whether the start-up wipe has begun: order 9 of R530 was reached. A start-up that a fault stopped before leaves its code (R547). -/
def wipeBegun (s : State) (w : Wipe) : Bool := !w.why.contains .start || (decide (9 ≤ regF s aBoot 3 0) && regF s aBoot 31 16 == 0)

/-- WIPE_COMPLETE, once no port waits for Sanitize. -/
def wipeEnds (s : State) (fails : Bool) (us : BitVec 32) (mllOk : Bool) : State :=
  match s.sec.wipe with
  | none => s
  | some w =>
    if w.sanit ≠ 0 ∨ wipeBegun s w = false then s
    else if fails || wipeStuck s w then wipeFailed s
    else wipeDone s w us mllOk

/-- HOLD_TIME_EXPIRY, after DONE or FAULTED. -/
def holdEnds (s : State) : State := if s.job.st = .done ∨ s.job.st = .faulted then jobEnd s else s

/-! ### The commands -/

/-- SANITIZE_COMPLETE: the device reports success or failure. -/
def execSanitizeComplete (port : BitVec 2) (ok : Bool) (s : State) : Out := .next (sanitEnds s port.toNat ok)
/-- SANITIZE_TIMEOUT: 600 s have passed; the port overwrites. -/
def execSanitizeTimeout (port : BitVec 2) (s : State) : Out := .next (sanitEnds s port.toNat false)
/-- WIPE_COMPLETE: every part has ended, or a covered byte could not be written. -/
def execWipeComplete (fails : Bool) (us : BitVec 32) (mllOk : Bool) (s : State) : Out := .next (wipeEnds s fails us mllOk)
/-- HOLD_TIME_EXPIRY. -/
def execHoldTimeExpiry (s : State) : Out := .next (holdEnds s)

end Sys2Proof.Machine
end

