-- ==== Sys2Proof/Machine/SecRun.lean ====
section
/-! DEFINITION. The life cycle (17 R508 to R518): states, commands under the IAK, transitions and what they burn, provisioning. -/

namespace Sys2Proof.Machine

/-- Codes of R528. -/
def cSecCmdRefused : Word16 := 0xA005
def cLcChange : Word16 := 0xA006
def cIakRegistered : Word16 := 0xA007
def cLcJobEnd : Word16 := 0xA00A

/-- The life-cycle state (R508). -/
def lcState (s : State) : LcSt :=
  if s.sec.fuses.retired then .retired
  else if (iakSlot s).isSome then (if s.sec.unlocked then .service else .deployed)
  else if s.sec.fuses.provisioned then .provisioned
  else .blank

/-- SEC_LC.state as it is coded. -/
def lcNat (l : LcSt) : Nat := match l with | .blank => 0 | .provisioned => 1 | .deployed => 2 | .service => 3 | .retired => 4

/-- The first IAK slot whose hash is not burned (R516). -/
def slotFree (s : State) : Option Nat := (List.range 8).find? (fun i => (smGet [] s.sec.fuses.iak i).isEmpty)

/-- New command nonces (R518). -/
def secNonce (s : State) : State :=
  let (c, s1) := draw s
  let (e, s2) := draw s1
  { s2 with sec := { s2.sec with nonce0 := Config.freeWord c, nonce1 := Config.freeWord e } }

/-! ### Transitions (R509, R510) -/

/-- Whether a job is loaded. -/
def jobLoaded (s : State) : Bool := match s.job.st with | .empty => false | .wiping => false | _ => true

/-- The wipe of a transition starts once the job it ends has halted; provisioning waits for the certificate (R617). A module that a DEVICE_FATAL
fault stopped finishes no halt and has nothing to wait for. -/
def moveGo (s : State) : State :=
  if s.sec.move.isNone || s.sec.provisioning || (s.job.device.isNone && (s.seq.st == .running || s.seq.st == .halting || s.seq.st == .halted))
      || (match s.sec.wipe with | some w => w.why.contains .move | none => false) then s
  else wipeStart (if jobLoaded s then jobEnd s else s) 3 .move

/-- LC_JOB_END ends a loaded job (R510): a running one halts first, one that stands halted faults at once, one that has not started or has ended
has nothing to halt. In every state the module leaves the job (R443). -/
def moveJob (s : State) : State :=
  if !jobLoaded s then s
  else
    let s0 := jobFatal s noCore 0 cLcJobEnd srcSec (openPay cLcJobEnd srcSec)
    let s1 := if s.job.left then s0 else noticeSend s0 (devId s) 1 cLcJobEnd
    if s1.job.device.isSome then s1
    else match s1.job.st with
    | .starting => holdZero (jobTo (hostDoneAll s1 2 1 0 0) .faulted)
    | .preempting => if s1.job.order4 then faultEnd (haltDone s1) else s1
    | _ => if s1.seq.st = .halted then faultEnd s1 else s1

/-- A transition begins: a registration writes the IAK record first (R509). -/
def moveStart (s : State) (m : LcMove) : State :=
  let s1 := match m with
    | .register key => { s with nor := memWrites s.nor 0x40000 (slice key 0 1793) }
    | _ => s
  moveGo (moveJob { s1 with sec := { s1.sec with move := some m } })

/-- What a transition burns, and the slot it concerns. -/
def moveBurn (s : State) (m : LcMove) : State × Nat :=
  let f := s.sec.fuses
  let act := (iakSlot s).getD 0
  match m with
  | .provision => ({ s with sec := { s.sec with fuses := { f with provisioned := true } } }, act)
  | .register key =>
    let i := (slotFree s).getD 0
    let s1 := { s with sec := { s.sec with fuses := { f with iak := smSet [] f.iak i ((shake64 (slice key 0 1793)).take 32) } } }
    (record s1 kEvent srcSec cIakRegistered (i + fieldAt (keyId (slice key 0 1793)) 0 7 * 2 ^ 8), i)
  | .unlock => ({ s with sec := { s.sec with unlocked := true } }, act)
  | .deregister => ({ s with sec := { s.sec with unlocked := false, fuses := { f with revoked := f.revoked ||| BitVec.ofNat 8 (2 ^ act) } } }, act)
  | .retire => ({ s with sec := { s.sec with unlocked := false, fuses := { f with retired := true } } }, act)
  | .relock => ({ s with sec := { s.sec with unlocked := false } }, act)

/-- LC_TRANSITION_COMPLETE: the wipe is done, the fuse is burned or the flag changes, LC_CHANGE is recorded. Debug halts, breakpoints and the
mailbox went with the wipe (R615). -/
def moveEnds (s : State) : State :=
  match s.sec.move with
  | none => s
  | some m =>
    if s.sec.wipe.isSome || s.sec.provisioning || s.job.st != .empty then s
    else
      let old := lcNat (lcState s)
      let (s1, slot) := moveBurn s m
      let s2 := { s1 with sec := { s1.sec with move := none }, dbg := dbgWipe s1.dbg }
      record s2 kEvent srcSec cLcChange (old + lcNat (lcState s2) * 2 ^ 8 + slot * 2 ^ 16)

/-! ### Commands under the IAK (R517, R518) -/

/-- The transition that a command asks for, where the state accepts its type (R508). -/
def cmdMove (s : State) (typ : Nat) (key : List Byte) : Option LcMove :=
  match typ, lcState s with
  | 0x0101, .provisioned => some (.register key)
  | 0x0102, .deployed => some .unlock
  | 0x0103, .deployed => some .deregister
  | 0x0103, .service => some .deregister
  | 0x0104, .provisioned => some .retire
  | 0x0104, .deployed => some .retire
  | 0x0104, .service => some .retire
  | _, _ => none

/-- Whether keep-zero bytes, lengths and the hash of a carried key make the command well formed. -/
def cmdFormBad (d : List Byte) : Bool :=
  let reg := fieldAt d 0 2 == 0x0101
  (slice d 2 14).any (fun b => b != 0) || (slice d 80 16).any (fun b => b != 0) || decide (fieldAt d 96 2 > 1280)
  || (if reg then decide (d.length ≠ 3171) || slice d 48 32 != (shake64 (slice d 1378 1793)).take 32
      else decide (d.length ≠ 1378) || (slice d 48 32).any (fun b => b != 0))

/-- A certificate with its keep-zero bytes at zero, its type, its issuer, and a subject identity that is that of its key (R514, R515). -/
def certNamed (c : List Byte) (typ : Nat) (issuer : List Byte) : Bool :=
  fieldAt c 0 2 == typ && fieldAt c 2 2 == 0 && slice c 24 16 == issuer && slice c 8 16 == keyId (slice c 40 1793) && decide (fieldAt c 1833 2 ≤ 1280)

/-- Whether the chain from the root record over the intermediate certificate to the module certificate names its keys, so that the intermediate key
can sign commands of PROVISIONED (R514, R517). -/
def chainOk (s : State) : Bool :=
  let im := memReads s.nor 0x10000 3115
  certNamed im 1 (keyId (memReads s.nor 0 1793)) && certNamed (memReads s.nor 0x20000 3115) 3 (keyId (slice im 40 1793))

/-- Why the key that must sign is not at hand: no usable IAK (R521), or in PROVISIONED a chain that does not name the intermediate key. -/
def signerBad (s : State) : Option Nat :=
  if lcState s = .provisioned then (if chainOk s then none else some 3) else if iakUsable s then none else some 2

/-- Whether a command carries the nonce as it reads. -/
def cmdFresh (s : State) (d : List Byte) : Bool := slice d 32 16 == leBytes 8 s.sec.nonce0.toNat ++ leBytes 8 s.sec.nonce1.toNat

/-- The unit's answer before it looks at the command itself: busy, state, slots (R516, R518). -/
def cmdEarly (s : State) (typ : Nat) (key : List Byte) : Except Nat LcMove :=
  if s.sec.move.isSome then .error 1
  else
    match cmdMove s typ key with
    | none => .error 6
    | some m => if typ = 0x0101 ∧ (slotFree s).isNone = true then .error 8 else .ok m

/-- Why a command is refused, or its transition (R518). Commands of PROVISIONED are signed by the intermediate key, others by the IAK. The second of two
commands of one instant finds a transition begun and its nonce stale: reason 5, where a command with the nonce as it reads finds the unit busy. -/
def cmdJudge (s : State) (d : List Byte) (sigOk : Bool) : Except Nat LcMove :=
  if s.sec.move.isSome && !cmdFresh s d then .error 5
  else
    match cmdEarly s (fieldAt d 0 2) (slice d 1378 1793) with
    | .error r => .error r
    | .ok m =>
      match signerBad s with
      | some r => .error r
      | none =>
        if !sigOk then .error 3
        else if slice d 16 16 ≠ modIdent s then .error 4
        else if !cmdFresh s d then .error 5
        else if cmdFormBad d then .error 7
        else .ok m

/-- SEC_CMD_REFUSED (R528). -/
def secRefuse (s : State) (typ r : Nat) : State := record s kRefusal srcSec cSecCmdRefused (typ + r * 2 ^ 16)

/-- A command takes effect or is refused with its reason; then new nonces are drawn. -/
def secTry (s : State) (d : List Byte) (sigOk : Bool) : State × Option Nat :=
  match cmdJudge s d sigOk with
  | .error r => (secNonce (secRefuse s (fieldAt d 0 2) r), some r)
  | .ok m => (secNonce (moveStart s m), none)

/-- A command whose signature, identity, nonce and form have been verified under the key that R517 names, where the unit has it. -/
def secAccept (s : State) (typ : Nat) (key : List Byte) : State :=
  match cmdEarly s typ key, signerBad s with
  | .error r, _ => secNonce (secRefuse s typ r)
  | .ok _, some r => secNonce (secRefuse s typ r)
  | .ok m, none => secNonce (moveStart s m)

/-- SEC_CTRL.relock written with 1 (R509, R529): without effect outside SERVICE and while a transition runs. -/
def relockAsk (s : State) : State := if lcState s = .service ∧ s.sec.move.isNone = true then moveStart s .relock else s

/-! ### Provisioning (R509, R511, R512, R617) -/

/-- The blob of a private key under D with a random value r: r, the key XORed with the mask, the tag (R512). -/
def keyBlob (d r k : List Byte) : List Byte :=
  let c := List.zipWith (fun a b => a ^^^ b) k (shakeOut (d ++ r) k.length)
  r ++ c ++ shakeOut (d ++ r ++ c) 32

/-- A fresh wrapped key behind its length (R537): r and the key are whatever the unit's entropy gives. -/
def wrappedKey (s : State) (ctr : Nat) : List Byte :=
  let b := keyBlob s.sec.fuses.secret ((List.range 32).map (fun i => Config.freeByte ctr i)) ((Config.falconSecret ctr).take 65468)
  leBytes 4 b.length ++ b

/-- Whether the blob in flash has its tag (R512). -/
def blobOk (s : State) : Bool :=
  let n := fieldAt (memReads s.nor 0x30000 4) 0 4
  let b := memReads s.nor 0x30004 (min n 65532)
  decide (64 ≤ n) && decide (n ≤ 65532) && b.drop (n - 32) == shakeOut (s.sec.fuses.secret ++ b.take (n - 32)) 32

/-- Op 5: a key pair is drawn, the wrapped private key stored, the public key given out; the transition waits for op 6. -/
def provisionStart (s : State) : State :=
  let (ctr, s1) := draw s
  { s1 with
    nor := memWrites (smClear s1.nor 0x30000 0x10000) 0x30000 (wrappedKey s1 ctr)
    dbg := { s1.dbg with mbox := memWrites s1.dbg.mbox 0 (slice (Config.falconKey ctr) 0 1793) }
    sec := { s1.sec with key := some ctr, unwrapped := true, provisioning := true, move := some .provision } }

/-- Op 6: the certificate goes to NOR offset 0x002_0000 and the transition wipes. -/
def provisionCert (s : State) : State :=
  moveGo { s with nor := memWrites s.nor 0x20000 (memReads s.dbg.mbox 0 3115), sec := { s.sec with provisioning := false } }

/-! ### The commands -/

/-- REGISTRATION, accepted with the carried key. -/
def execRegistration (key : List Byte) (s : State) : Out := .next (secAccept s 0x0101 key)
/-- UNLOCK, accepted. -/
def execUnlock (s : State) : Out := .next (secAccept s 0x0102 [])
/-- DEREGISTRATION, accepted. -/
def execDeregistration (s : State) : Out := .next (secAccept s 0x0103 [])
/-- RETIRE, accepted. -/
def execRetire (s : State) : Out := .next (secAccept s 0x0104 [])
/-- SEC_RELOCK: SEC_CTRL.relock written with 1. -/
def execSecRelock (s : State) : Out := .next (relockAsk s)
/-- LC_TRANSITION_COMPLETE. -/
def execLcTransitionComplete (s : State) : Out := .next (moveEnds s)
/-- HALT_DRAIN_COMPLETE: the end of a halt, after which a transition that ended the job wipes. -/
def execHaltDrainComplete (s : State) : Out := .next (moveGo (haltDrained s))
end Sys2Proof.Machine
end

