-- ==== Sys2Proof/Machine/CfgRun.lean ====
section
/-! DEFINITION. The configuration block (18 R539 to R542): its checks, what it gives the registers, and the comparison of feed tags. -/

namespace Sys2Proof.Machine

/-- Where the block lies in NOR flash (R537). -/
def cfgBase : Nat := 0x100000

/-- Codes of R548 and R473. -/
def cConfigRejected : Word16 := 0xB001
def cConfigFeedMismatch : Word16 := 0xB008
def cSecureSameFeed : Word16 := 0xC10F

/-- A field of a block. -/
def cf (b : List Byte) (a n : Nat) : Nat := fieldAt b a n

/-- The three tables: offset and length. -/
def cfgTables (b : List Byte) : List (Nat × Nat) :=
  [(cf b 100 4, 8 * cf b 96 4), (cf b 104 4, 8 * 2 ^ (cf b 36 1 % 8)), (cf b 108 4, 288)]

/-- Entry k of the link table: enabled, global, neighbour, its link. -/
def cfgLink (b : List Byte) (k : Nat) : Bool × Bool × Nat × Nat :=
  let e := slice b (cf b 108 4 + 8 * k) 8
  (bitOf (fieldAt e 0 1) 0, bitOf (fieldAt e 0 1) 1, fieldAt e 2 2, fieldAt e 4 1)

/-- Item 1: magic and version. -/
def cfgMagicOk (b : List Byte) : Bool := slice b 0 4 == [0x55, 0x41, 0x38, 0x43] && cf b 4 2 == 1

/-- Item 2: the length. -/
def cfgLenOk (b : List Byte) : Bool := cf b 8 4 % 64 == 0 && decide (4096 ≤ cf b 8 4) && decide (cf b 8 4 ≤ 1048576)

/-- Item 6: every table lies between byte 128 and the trailer, aligned, without overlap. -/
def cfgTablesOk (b : List Byte) : Bool :=
  let ts := cfgTables b
  ts.all (fun t => decide (128 ≤ t.1) && decide (t.1 + t.2 ≤ cf b 8 4 - 1344) && t.1 % 8 == 0)
  && ts.zipIdx.all (fun t => ts.zipIdx.all (fun u => t.2 == u.2 || decide (t.1.1 + t.1.2 ≤ u.1.1) || decide (u.1.1 + u.1.2 ≤ t.1.1)))

/-- Whether a partner entry at byte a has its keep-zero bits at zero and its feed tag in range. -/
def cfgPartnerOk (b : List Byte) (a : Nat) : Bool :=
  decide (cf b a 2 < 0x4000) && decide (cf b (a + 2) 2 ≠ 0) && decide (cf b (a + 4) 1 ≤ 1) && cf b (a + 5) 3 == 0

/-- Range of the fields before the tables. -/
def cfgRangeOk (b : List Byte) : Bool :=
  cf b 6 2 == 0 && decide (cf b 32 2 < 0x3FFF) && decide (cf b 34 1 ≤ 1) && (cf b 35 1 == 1 || cf b 35 1 == 2) && decide (cf b 36 1 ≤ 6)
  && decide (cf b 37 1 % 16 ≠ 0) && decide (cf b 37 1 / 16 ≠ 0) && decide (1 ≤ cf b 38 2) && decide (cf b 38 2 ≤ 1440)
  && decide (600 ≤ cf b 40 2) && decide (cf b 40 2 ≤ 1500) && decide (cf b 42 2 ≠ 0)
  && (List.range 4).all (fun i => let v := cf b (44 + i) 1; !bitOf v 6 && (!bitOf v 7 || decide (v % 64 < 36)))
  && decide (cf b 48 1 ≤ 4) && bitsOf (cf b 49 1) 6 3 == 0
  && (!bitOf (cf b 49 1) 7 || (decide (cf b 50 2 < 0x4000) && decide (cf b 52 2 ≠ 0))) && decide (cf b 50 2 < 0x4000) && decide (cf b 54 1 ≤ 1)
  && cf b 55 1 == 0 && (List.range 4).all (fun i => if i < cf b 48 1 then cfgPartnerOk b (56 + 8 * i) else cf b (56 + 8 * i) 8 == 0)
  && cf b 88 8 == 0 && decide (cf b 96 4 ≤ 2 ^ (14 - cf b 36 1 % 8))

/-- Keep-zero bits of the tables' entries. -/
def cfgEntriesOk (b : List Byte) : Bool :=
  let route (a : Nat) : Bool := (List.range 4).all (fun i => bitsOf (cf b (a + 2 * i) 2) 14 10 == 0)
  (List.range (cf b 96 4)).all (fun i => route (cf b 100 4 + 8 * i))
  && (List.range (2 ^ (cf b 36 1 % 8))).all (fun i => route (cf b 104 4 + 8 * i))
  && (List.range 36).all (fun i => let a := cf b 108 4 + 8 * i
      decide (cf b a 1 < 4) && cf b (a + 1) 1 == 0 && decide (cf b (a + 2) 2 < 0x4000) && decide (cf b (a + 4) 1 < 36) && cf b (a + 5) 3 == 0)

/-- The trailer: signature length, padding, keep-zero. -/
def cfgTrailerOk (b : List Byte) : Bool :=
  let t := cf b 8 4 - 1344
  decide (cf b t 2 ≤ 1280) && (slice b (t + 2 + cf b t 2) (1342 - cf b t 2)).all (fun x => x == 0)

/-- Item 5: keep-zero bits and ranges. Bytes from 112 to the trailer that no table holds are zero; the flash lists its bytes that are not. -/
def cfgFieldsOk (s : State) (b : List Byte) : Bool :=
  cfgRangeOk b && cfgTrailerOk b
  && (!cfgTablesOk b || cfgEntriesOk b)
  && (s.nor.filter (fun p => decide (cfgBase + 112 ≤ p.1) && decide (p.1 < cfgBase + cf b 8 4 - 1344))).all (fun p =>
      (cfgTables b).any (fun t => decide (cfgBase + t.1 ≤ p.1) && decide (p.1 < cfgBase + t.1 + t.2)))

/-- Item 7: every valid path names an enabled link and 1 to 8 hops. -/
def cfgRoutesOk (b : List Byte) : Bool :=
  let path (v : Nat) : Bool := !bitOf v 15 || (decide (v % 64 < 36) && (cfgLink b (v % 64)).1 && decide (1 ≤ bitsOf v 9 6) && decide (bitsOf v 9 6 ≤ 8))
  let entry (a : Nat) : Bool := (List.range 4).all (fun i => path (cf b (a + 2 * i) 2))
  (List.range (cf b 96 4)).all (fun i => entry (cf b 100 4 + 8 * i)) && (List.range (2 ^ (cf b 36 1 % 8))).all (fun i => entry (cf b 104 4 + 8 * i))

/-- Item 8: parents. -/
def cfgParentsOk (b : List Byte) : Bool :=
  let vs := ((List.range 4).map (fun i => cf b (44 + i) 1)).filter (fun v => bitOf v 7)
  (bitOf (cf b 34 1) 0 || !vs.isEmpty) && vs.all (fun v => (cfgLink b (v % 64)).1)

/-- Item 9: partners, far partner and the neighbours of enabled links are other modules; the partners are distinct. -/
def cfgPartnersOk (b : List Byte) : Bool :=
  let me := cf b 32 2
  let ps := (List.range (cf b 48 1)).map (fun i => cf b (56 + 8 * i) 2)
  let far := if bitOf (cf b 49 1) 7 then [cf b 50 2] else []
  let nb := (List.range 36).filterMap (fun k => let l := cfgLink b k; if l.1 then some l.2.2.1 else none)
  (ps ++ far ++ nb).all (fun d => d != me && d != 0x3FFF) && decide ps.Nodup

/-- Whether the signer that the life-cycle state requires is at hand (R519): from DEPLOYED on, a usable IAK. -/
def cfgSignerOk (s : State) : Bool := match lcState s with | .blank => true | .provisioned => true | _ => iakUsable s

/-- The first failing item of R540. -/
def cfgBad (s : State) (b : List Byte) (sigOk : Bool) : Option Nat :=
  if !cfgMagicOk b then some 1
  else if !cfgLenOk b then some 2
  else if slice b 16 16 != modIdent s then some 3
  else if !(sigOk && cfgSignerOk s) then some 4
  else if !cfgFieldsOk s b then some 5
  else if !cfgTablesOk b then some 6
  else if !cfgRoutesOk b then some 7
  else if !cfgParentsOk b then some 8
  else if !cfgPartnersOk b then some 9
  else none

/-- BOOT_CFG (R549). -/
def aBootCfg : Nat := aBoot + 0x18
def aLdgWin : Nat := aLdg + 0x30
def aPwrCap : Nat := aPwr + 0x08

/-- Order 4 of R530: the block is read once, measured, checked; the fields outside the fabric take effect. Answers whether it is accepted. Without
an accepted block windows have their default length of 60 minutes (R503). -/
def cfgRead (s : State) (sigOk : Bool) : State × Bool :=
  let n := min (leNat (memReads s.nor (cfgBase + 8) 4)) 0x100000
  let b := memReads s.nor cfgBase (max 128 n)
  let s1 := setReg s aBootCfg (BitVec.ofNat 64 (cf b 8 4 + cf b 12 4 * 2 ^ 32))
  let s2 := { s1 with sec := { s1.sec with cfgMeasure := shake64 (b.take n) } }
  match cfgBad s2 b sigOk with
  | some i => (setRegF (record (setReg s2 aLdgWin 60) kRefusal srcMgmt cConfigRejected (i + cf b 12 4 * 2 ^ 32)) aBoot 9 9 1, false)
  | none => (setReg (setReg { s2 with cfg := b } aLdgWin (BitVec.ofNat 64 (cf b 38 2))) aPwrCap (BitVec.ofNat 64 (cf b 40 2)), true)

/-- Order 8 of R530: fabric registers and route tables are written, enabled links train, time synchronisation starts (R315, R351). -/
def cfgFabric (s : State) : State :=
  let b := s.cfg
  let s1 := setRegF (setReg s aFab (BitVec.ofNat 64 (cf b 32 2 % 0x4000))) (aFab + 8) 7 0 (cf b 35 1)
  let s2 := setReg (setReg s1 aFabArb (BitVec.ofNat 64 (cf b 37 1))) aFabRtCfg (BitVec.ofNat 64 (cf b 36 1))
  let valid := (List.range 4).foldl (fun n i => n + b2n (bitOf (cf b (44 + i) 1) 7) * 2 ^ i) 0
  let s3 := setReg s2 aFabSyncCfg (BitVec.ofNat 64 ((List.range 4).foldl (fun n i => n + cf b (44 + i) 1 % 64 * 2 ^ (8 * i)) (valid * 2 ^ 32)))
  let s4 := setRegF s3 aFabSync 2 2 (cf b 34 1)
  let s5 := (List.range (cf b 96 4)).foldl (fun t i => setReg t (aRtGroup i) (BitVec.ofNat 64 (cf b (cf b 100 4 + 8 * i) 8))) s4
  let s6 := (List.range (2 ^ (cf b 36 1 % 8))).foldl (fun t i => setReg t (aRtMember i) (BitVec.ofNat 64 (cf b (cf b 104 4 + 8 * i) 8))) s5
  let s7 := (List.range 36).foldl (fun t k =>
    let l := cfgLink b k
    let t1 := setRegF t (aLink k) 36 36 (b2n l.2.1)
    if l.1 then modLink t1 k (fun x => { x with st := .training, attempts := 1 }) else t1) s6
  { s7 with tim := { s7.tim with started := true } }

/-! ### Shared feeds (R471, R542) -/

/-- The tag that a link that is up reports for a device. -/
def feedHello (s : State) (d : BitVec 14) : Option Nat :=
  ((List.range nLinks).find? (fun k => linkUp s k && (getLink s k).ndev == d.toNat)).map (fun k => (getLink s k).nfeed)

/-- One partner: a mismatch with its HELLO, a match with the own tag, and the refusal of a strict one. -/
def feedOne (s : State) (d : BitVec 14) (tag : Nat) (strict : Bool) (pos : Nat) : State :=
  let own := fieldAt s.cfg 42 2
  let h := feedHello s d
  let s1 := match h with
    | some t => if t ≠ tag then record s kEvent srcMgmt cConfigFeedMismatch (d.toNat + t * 2 ^ 16) else s
    | none => s
  if tag = own ∨ h = some own then
    let s2 := record s1 kEvent srcMgmt cSecureSameFeed (d.toNat + pos * 2 ^ 16)
    if strict then { s2 with job := { s2.job with feedBad := s2.job.feedBad ++ [pos] } } else s2
  else s1

/-- FEED_TAG_CHECK, once, when every enabled link is UP or FAILED. -/
def feedCheck (s : State) : State :=
  if s.cfg.isEmpty || s.sec.feedDone || (List.range 36).any (fun k => (cfgLink s.cfg k).1 && (getLink s k).st != .up && (getLink s k).st != .failed) then s
  else
    let s1 := (cfgPartners s).zipIdx.foldl (fun s p => feedOne s p.1.1 p.1.2.1 p.1.2.2 p.2) { s with sec := { s.sec with feedDone := true } }
    match cfgFar s1 with
    | some (d, t, st, _) => feedOne s1 d t st 7
    | none => s1

end Sys2Proof.Machine
end

