-- ==== Sys2Proof/Machine/BootRun.lean ====
section
/-! DEFINITION. Start-up and resets (17 R521, R522, 18 R530 to R536, R547, 22 R628, R629): the boot ROM, the orders of the sequence, what a reset
leaves, RESET_N and the watchdog. -/

namespace Sys2Proof.Machine

/-- BOOT_ registers (R549). -/
def aBootCause : Nat := aBoot + 0x08
def aBootTime : Nat := aBoot + 0x10
def aBootWdog : Nat := aBoot + 0x20

/-- Codes of R528, R548, R313. -/
def cImageRejected : Word16 := 0xA001
def cBootNoImage : Word16 := 0xA002
def cRollbackRaised : Word16 := 0xA003
def cKeyUnwrapFail : Word16 := 0xA004
def cBootSelftest : Word16 := 0xB002
def cBootMemTrain : Word16 := 0xB003
def cBootCxlTimeout : Word16 := 0xB004
def cBootWatchdog : Word16 := 0xB006
def cBootDone : Word16 := 0xB007
def cBootReset : Word16 := 0xB009
def cCxlLevel : Word16 := 0x5015

/-! ### What a reset leaves (R534, R536) -/

/-- Registers of the time base, the power controller and the reset count. -/
def resetKeeps (a : Nat) : Bool :=
  (decide (0x3F0001000000 ≤ a) && decide (a < 0x3F0001200000)) || a == aFabSync || a == aBootCause || a == aBootWdog || a == aLdgLost

/-- Chip registers after internal reset: power-up values but for those. No link is up, so there is no parent. -/
def resetRegs (s : State) : SMap Word64 :=
  let base := regsReset.filter (fun p => !resetKeeps p.1)
  let all := (s.regs.filter (fun p => resetKeeps p.1)).foldl (fun m p => smSet 0 m p.1 p.2) base
  smSet 0 all aFabSync (BitVec.ofNat 64 (putBits (smGet 0 all aFabSync).toNat 8 3 0x3F))

/-- Internal reset of all logic except the time base, the power controller and the fuses. What GDDR7, the far devices, flash and MRAM hold stays;
the TAP resets by its own pins. A key drawn by an unfinished provisioning is forgotten (R617). SERVICE ends, and so does the parent's link: the time
base, which runs on, is in holdover (R348, R508, R536). -/
def coldReset (s : State) : State :=
  let parted := !isRoot s && parentLink s != 0x3F
  { State.reset with
    pending := s.pending
    free := s.free
    part832 := s.part832
    repair := s.repair
    regs := resetRegs s
    mem := { MemSt.init with gddr := s.mem.gddr, cxl := s.mem.cxl, cxlPoison := s.mem.cxlPoison, host := s.mem.host }
    ceUid := s.ceUid
    ldg := ldgDown s.ldg
    tim := { s.tim with good := 0, theta := 0, started := false, holdover := s.tim.holdover || parted }
    host := { HostPort.init with msix := s.host.msix }
    dbg := { Dbg.init with ir := s.dbg.ir, boundary := s.dbg.boundary, dap := s.dbg.dap, byp := s.dbg.byp, cap := s.dbg.cap }
    sec := { State.reset.sec with
      fuses := s.sec.fuses, key := if s.sec.fuses.provisioned then s.sec.key else none, wdogAt := now s, wipeSeq := s.sec.wipeSeq
      wasOpen := s.sec.wasOpen || s.sec.unlocked
      romLog := s.sec.romLog ++ (if parted then [(srcMgmt, cTimeHoldover, openPay cTimeHoldover srcMgmt)] else []) }
    nor := s.nor
    pwr := s.pwr
    pins := s.pins }

/-- A loss of power besides takes the time base, the power controller's registers and GDDR7. -/
def powerLost (s : State) : State :=
  let s1 := coldReset s
  { s1 with
    regs := regsReset
    mem := { s1.mem with gddr := [] }
    tim := Tim.init
    ldg := { s1.ldg with prelock := true, timeBack := false, segJob := 0, segEnergy := 0, segActive := 0, segSteps := 0, segPreempts := 0, snaps := [] }
    sec := { s1.sec with wdogAt := 0, wasOpen := false, romLog := [] }
    host := { s1.host with msix := s.host.msix }
    pwr := { Pwr.init with rails := s.pwr.rails } }

/-! ### The boot ROM (R521) -/

/-- An image slot: number, base, size, its header's security and firmware versions. -/
structure BootImg where
  slot : Nat
  base : Nat
  v : Nat
  fwver : Nat
  deriving DecidableEq, Repr

/-- Places of the slots (R537). -/
def slotBase (i : Nat) : Nat := if i = 0 then 0x400000 else 0x4200000
def slotSize : Nat := 0x3E00000

/-- An image slot by its header. -/
def bootImg (s : State) (i : Nat) : BootImg :=
  let h := memReads s.nor (slotBase i) 16
  ⟨i, slotBase i, fieldAt h 8 4, fieldAt h 12 4⟩

/-- Why a slot is no candidate: header or rollback. -/
def slotRefuse (s : State) (i : Nat) : Option Nat :=
  if !imgForm s [0x55, 0x41, 0x38, 0x46] (slotBase i) slotSize then some 1
  else if (bootImg s i).v < s.sec.fuses.rollback then some 2
  else none

/-- The candidates, highest firmware version first, A first on a tie. -/
def bootOrder (s : State) : List Nat :=
  let c := (List.range 2).filter (fun i => (slotRefuse s i).isNone)
  if c = [0, 1] ∧ (bootImg s 1).fwver > (bootImg s 0).fwver then [1, 0] else c

/-- Why a candidate fails order 4 of R521: certificate, signature, digest. -/
def slotFails (s : State) (o : BootOutcome) (i : Nat) : Option Nat :=
  let (c, g) := if i = 0 then (o.certA, o.sigA) else (o.certB, o.sigB)
  if !(c && imgCertNamed s (slotBase i)) then some 3 else if !g then some 4 else if !imgDigestOk s (slotBase i) then some 5 else none

/-- The first candidate that verifies, with the slots refused before it and why. -/
def bootPick (s : State) (o : BootOutcome) : List Nat → List (Nat × Nat) × Option Nat
  | [] => ([], none)
  | i :: l =>
    match slotFails s o i with
    | none => ([], some i)
    | some r => let (rs, x) := bootPick s o l; ((i, r) :: rs, x)

/-- Whether the root record matches its fuse. -/
def rootOk (s : State) : Bool := shake64 (memReads s.nor 0 1793) == s.sec.fuses.root

/-- The ROM's result: rejected slots with reasons, and the slot that boots. -/
def romRun (s : State) (o : BootOutcome) : List (Nat × Nat) × Option Nat :=
  let early := (List.range 2).filterMap (fun i => (slotRefuse s i).map (fun r => (i, r)))
  if !rootOk s then ([], none)
  else
    let (rs, x) := bootPick s o (bootOrder s)
    (early ++ rs, x)

/-! ### The orders of R530 -/

/-- BOOT_STATUS.stage. -/
def stageTo (s : State) (n : Nat) : State := setRegF s aBoot 3 0 n

/-- A DEVICE_FATAL fault stops start-up: the code is kept, and the module goes on to enumerate (R547). -/
def bootStop (s : State) (source code : Word16) (payload : Nat) : State := setRegF (deviceFatal s source code payload) aBoot 31 16 code.toNat

/-- Whether start-up has been stopped. -/
def bootDead (s : State) : Bool := s.job.device.isSome

/-- IMAGE_REJECTED for each slot refused, to be recorded once the Ledger unit is up. -/
def romRejects (s : State) (rs : List (Nat × Nat)) : State := rs.foldl (fun s r => laterRecord s srcSec cImageRejected (r.1 + r.2 * 2 ^ 8)) s

/-- ROM recovery: BOOT_NO_IMAGE; the Ledger and the host port stay down (R521). -/
def romRecovery (s : State) (rs : List (Nat × Nat)) : State :=
  let s0 := laterRecord (romRejects s rs) srcSec cBootNoImage (openPay cBootNoImage srcSec)
  let s1 := setRegF (stageTo s0 13) aBoot 31 16 cBootNoImage.toNat
  { s1 with sec := { s1.sec with recovery := true }, job := { s1.job with device := some cBootNoImage, left := true } }

/-- Order 2: the image that boots (R521 orders 5 and 6). -/
def bootImage (s : State) (i : Nat) (o : BootOutcome) : State :=
  let g := bootImg s i
  { s with sec := { s.sec with bslot := i == 1, v := g.v, fwver := BitVec.ofNat 32 g.fwver, fwMeasure := slice (memReads s.nor g.base 88) 24 64
                               unwrapped := s.sec.key.isSome && o.keyUnwraps && blobOk s } }

/-- The events that waited for the Ledger unit. -/
def romRecords (s : State) : State :=
  s.sec.romLog.foldl (fun t r => record t (if r.2.1 = cBootNoImage then kDeviceFatal else kEvent) r.1 r.2.1 r.2.2) { s with sec := { s.sec with romLog := [] } }

/-- The number of the newest WIPE_DONE record retained in the Ledger (R523). -/
def lastWipe (s : State) : Word32 := match s.ldg.recs.reverse.find? (fun p => p.1.code == cWipeDone) with | some p => p.1.seq | none => s.sec.wipeSeq

/-- Order 3: the Ledger comes up and takes what the ROM saw. A key that did not unwrap is reported now. SERVICE has ended with the reset. -/
def bootLedger (s : State) (rs : List (Nat × Nat)) : State :=
  let s0 := ldgUp (stageTo s 3)
  let s1 := { s0 with sec := { s0.sec with wipeSeq := lastWipe s0, wasOpen := false } }
  let s2 := romRecords (romRejects s1 rs)
  let s3 := if s.sec.wasOpen then record s2 kEvent srcSec cLcChange (3 + lcNat (lcState s2) * 2 ^ 8 + (iakSlot s2).getD 0 * 2 ^ 16) else s2
  if s3.sec.key.isSome && !s3.sec.unwrapped then bootStop s3 srcSec cKeyUnwrapFail (openPay cKeyUnwrapFail srcSec) else s3

/-- Orders 5 and 6: self-test and GDDR7 training. -/
def bootTest (s : State) (o : BootOutcome) : State :=
  match o.selfTestFail with
  | some p => bootStop (stageTo s 5) srcMgmt cBootSelftest p.toNat
  | none =>
    let ok (k : Nat) : Bool := match o.memFail with | some p => decide (p.toNat % 16 ≠ k) | none => true
    let s1 := (List.range 16).foldl (fun t k => setRegF t (aMc k) 0 0 (b2n (ok k))) (stageTo s 6)
    match o.memFail with
    | some p => bootStop s1 (srcMc (p.toNat % 16)) cBootMemTrain p.toNat
    | none => s1

/-- Order 7 at one port; a rate or width that R306 does not have leaves it down. -/
def bootPort (o : BootOutcome) (s : State) (k : Nat) : State :=
  match o.cxl.getD k none with
  | some (gib, rate, width, sanit) =>
    if rate = 0 ∨ rate = 3 ∨ width = 0 ∨ width = 3 then record s kEvent (srcCxl k) cCxlLevel (openPay cCxlLevel (srcCxl k))
    else setReg s (aCxl k) (BitVec.ofNat 64 (1 + rate.toNat * 2 + width.toNat * 8 + b2n sanit * 32 + min gib.toNat 1024 * 2 ^ 16))
  | none =>
    if o.cxlLevel.getD k false then record s kEvent (srcCxl k) cCxlLevel (openPay cCxlLevel (srcCxl k))
    else if o.cxlTimeout.getD k false then { s with sec := { s.sec with cxlWait := s.sec.cxlWait ||| portBits [k] } }
    else s

/-- Orders 7 and 8, left out in safe mode. -/
def bootLinks (s : State) (o : BootOutcome) : State := cfgFabric (stageTo ((List.range 4).foldl (bootPort o) (stageTo s 7)) 8)

/-- Orders 9 and 10: the full wipe, of which CXL parts go on, and the tables. -/
def bootWipe (s : State) (o : BootOutcome) : State :=
  let s1 := stageTo s 9
  let s2 := wipeStart { s1 with sec := { s1.sec with wipe := none } } 3 .start
  if o.wipeFails then setRegF (wipeFailed s2) aBoot 31 16 cWipeFail.toNat
  else
    let s3 := if wipePorts s2 3 = [] then wipeEnds s2 false o.wipeUs o.mllSigOk else s2
    mllLoad (stageTo s3 10) o.mllSigOk

/-- Order 11: enumeration (R531, R548), the rollback count where start-up has not been stopped (R522), and ready when all else holds. -/
def bootEnum (s : State) (o : BootOutcome) : State :=
  let s1 := setReg (stageTo s 11) aBootTime (BitVec.ofNat 64 o.us.toNat)
  let up := decide (o.rate ≠ 0) && decide (o.width ≠ 0)
  let s2 := stageTo { s1 with host := { s1.host with rate := if up then o.rate else 0, width := if up then o.width else 0 } } 12
  let s3 := record s2 kEvent srcMgmt cBootDone (o.us.toNat + regF s2 aBootCause 2 0 * 2 ^ 32)
  let old := s3.sec.fuses.rollback
  let s4 := if s3.sec.v > old ∧ bootDead s3 = false then
      record { s3 with sec := { s3.sec with fuses := { s3.sec.fuses with rollback := s3.sec.v } } } kEvent srcSec cRollbackRaised
        (Config.packPayload cRollbackRaised [old, s3.sec.v]).toNat
    else s3
  readyCheck s4

/-- From order 4 on. With an accepted block start-up goes on to orders 7 and 8, and waits for them. -/
def bootRest (s : State) (o : BootOutcome) : State :=
  if bootDead s then bootEnum s o
  else
    let (s1, ok) := cfgRead (stageTo s 4) o.cfgSigOk
    let s2 := bootTest s1 o
    if bootDead s2 then bootEnum s2 o
    else if ok then
      let s3 := bootLinks s2 o
      { s3 with sec := { s3.sec with boot := some o } }
    else bootEnum (bootWipe s2 o) o

/-- Orders 9 to 11 once orders 6 to 8 are complete (R530): every enabled link is UP or FAILED, the feed tags are checked, and every CXL port is up or
down. A DEVICE_FATAL fault meanwhile leaves orders 9 and 10 out (R547). -/
def bootOn (s : State) : State :=
  match s.sec.boot with
  | none => s
  | some o =>
    let s1 := { s with sec := { s.sec with boot := none } }
    if bootDead s then bootEnum s1 o
    else if s.sec.feedDone && s.sec.cxlWait == 0 then bootEnum (bootWipe s1 o) o
    else s

/-- From order 2 on: internal reset has been released. -/
def bootRun (s : State) (o : BootOutcome) : State :=
  let s1 := secNonce (stageTo { s with sec := { s.sec with wdogAt := now s, boot := none, recovery := false } } 2)
  match romRun s1 o with
  | (rs, none) => romRecovery s1 rs
  | (rs, some i) => bootRest (bootLedger (bootImage s1 i o) rs) o

/-! ### Resets (R533 to R535) -/

/-- BOOT_CAUSE. -/
def causeSet (s : State) (cause resets : Nat) : State := setReg s aBootCause (BitVec.ofNat 64 (cause + resets % 2 ^ 32 * 2 ^ 32))

/-- A flush runs to its end, with what it waits for: the one under way, then the one that the reset or the power failure starts. -/
def flushAll (s : State) : State :=
  let s1 := flushEnd (flushEnd s true) true
  flushEnd (flushEnd (ldgDo s1 (fun l now => ldgFlush { l with st := .recording } now)) true) true

/-- Orders 1 to 3 of R534. Which cause LDG_UNFREEZE gives to a freeze that a reset ends the spec does not say: a free value. Whether the flush verifies
before the 5 ms are over is the MRAM's: a free value too; records that are not flushed then go with the ring (log entry 139). A reset in SERVICE ends
a loaded job first (R509, R510). -/
def resetDown (s : State) (cause : Nat) : State :=
  let n := regF s aBootCause 63 32
  let s1 := record (if lcState s = .service then moveJob s else s) kEvent srcMgmt cBootReset cause
  let (ctr, s2) := draw s1
  let (works, s3) := draw s2
  let s4 := ldgSpill (thaw s3 ((Config.freeWord ctr).toNat % 16))
  let s5 := if bitOf (Config.freeWord works).toNat 0 then flushAll s4 else s4
  causeSet (coldReset s5) cause (n + 1)

/-- A reset of causes 2 to 4: start-up follows at once. -/
def resetRun (s : State) (cause : Nat) (o : BootOutcome) : State :=
  if s.pwr.rails = .up ∧ s.pwr.held = false then bootRun (resetDown s cause) o else s

/-- WATCHDOG_EXPIRY: no kick for 10 ms of time base (R535). While internal reset is held the management core, and with it the watchdog, does not
run. -/
def watchdogEnds (s : State) (o : BootOutcome) : State :=
  if s.pwr.rails ≠ .up ∨ s.pwr.held = true ∨ (now s : Int) < s.sec.wdogAt + 10000000 then s
  else
    let s1 := deviceFatal s srcMgmt cBootWatchdog (openPay cBootWatchdog srcMgmt)
    resetRun (setRegF s1 aBootWdog 31 16 (min 65535 (regF s1 aBootWdog 31 16 + 1))) 2 o

/-- RESET_N low for 1 µs: orders 1 to 3, then internal reset waits for the release. A core rail that a trip removed comes back. While power is
off or failing the pin is only seen (R629). -/
def resetLow (s : State) : State :=
  let s1 := { s with pins := { s.pins with resetN := false } }
  match s1.pwr.rails with
  | .up => if s1.pwr.held then s1 else let t := resetDown s1 1; { t with pwr := { t.pwr with trip := false, held := true } }
  | .tripped =>
    let t := resetDown s1 1
    { t with pwr := { t.pwr with rails := .up, trip := false, held := true } }
  | _ => s1

/-- Order 1 of R530: rails up, then the whole sequence with cause 0. -/
def powerOn (s : State) (o : BootOutcome) : State :=
  let s1 := powerLost s
  bootRun { s1 with pwr := { s1.pwr with rails := .up } } o

/-- POWER_UP: the input has been in range for 10 ms (R628), so PWR_FAIL_N is no longer asserted; order 2 waits while
RESET_N is low. -/
def powerUp (s : State) (o : BootOutcome) : State :=
  if s.pwr.rails = .up ∨ s.pwr.rails = .failing then s
  else
    let s1 := { s with pins := { s.pins with pwrFailN := true } }
    if s1.pins.resetN then powerOn s1 o else { s1 with pwr := { s1.pwr with waits := true } }

/-- RESET_N_RELEASE. -/
def resetHigh (s : State) (o : BootOutcome) : State :=
  let s1 := { s with pins := { s.pins with resetN := true } }
  if s1.pwr.waits then powerOn s1 o
  else if s1.pwr.held then bootRun { s1 with pwr := { s1.pwr with held := false } } o
  else s1

/-- CXL_TRAIN_TIMEOUT (R547). -/
def cxlLate (s : State) (k : Nat) : State :=
  if s.sec.cxlWait.getLsbD k then
    record { s with sec := { s.sec with cxlWait := s.sec.cxlWait &&& ~~~portBits [k] } } kEvent (srcCxl k) cBootCxlTimeout k
  else s

/-- A write of BOOT_WDOG.kick by the management core (R535). -/
def wdogKick (s : State) : State := { s with sec := { s.sec with wdogAt := now s } }

/-! ### The commands -/

/-- POWER_UP. -/
def execPowerUp (o : BootOutcome) (s : State) : Out := .next (powerUp s o)
/-- CXL_TRAIN_TIMEOUT; start-up may have waited for it. -/
def execCxlTrainTimeout (port : BitVec 2) (s : State) : Out := .next (bootOn (cxlLate s port.toNat))
/-- FEED_TAG_CHECK; start-up waits for it. -/
def execFeedTagCheck (s : State) : Out := .next (bootOn (feedCheck s))
/-- RESET_N. -/
def execResetN (s : State) : Out := .next (resetLow s)
/-- RESET_N_RELEASE. -/
def execResetNRelease (o : BootOutcome) (s : State) : Out := .next (resetHigh s o)
/-- WATCHDOG_EXPIRY. -/
def execWatchdogExpiry (o : BootOutcome) (s : State) : Out := .next (watchdogEnds s o)
/-- BOOT_WDOG_KICK. -/
def execBootWdogKick (s : State) : Out := .next (wdogKick s)

end Sys2Proof.Machine
end

