-- ==== Sys2Proof/Machine/LoadRun.lean ====
section
/-! DEFINITION. Job images (19 R569 to R571): the checks of LOAD and RESTART, and what an accepted image does. -/

namespace Sys2Proof.Machine

/-- Codes of R575, R473 and R313. -/
def cJobLoadRefused : Word16 := 0xC001
def cJoinLevel : Word16 := 0xC10C
def cJoinPartner : Word16 := 0xC10D
def cFailsecForm : Word16 := 0xC10E
def cWtForm : Word16 := 0x5016

/-- A part: offset, length, destination, type. -/
abbrev Part := Nat × Nat × Nat × Nat

/-- Bytes of an image to the end of its padded member list. -/
def imgListEnd (h : List Byte) : Nat := 1024 + roundUp (2 * fieldAt h 20 2) 64

/-- The first bytes of an image in host memory: header, section, members, part table. -/
def imgFront (s : State) (addr : Nat) : List Byte :=
  let h := memReads s.mem.host addr 24
  memReads s.mem.host addr (imgListEnd h + 32 * fieldAt h 22 2)

/-- The part table. -/
def imgParts (h : List Byte) : List Part :=
  (List.range (fieldAt h 22 2)).map (fun i =>
    let e := slice h (imgListEnd h + 32 * i) 32
    (fieldAt e 0 8, fieldAt e 8 8, fieldAt e 16 8, fieldAt e 24 1))

/-- The part of a type. -/
def partOf (ps : List Part) (t : Nat) : Option Part := ps.find? (fun p => p.2.2.2 == t)
/-- How many parts are of a type. -/
def partCount (ps : List Part) (t : Nat) : Nat := (ps.filter (fun p => p.2.2.2 == t)).length

/-- Whether bytes of a list are all zero. -/
def zeroAt (h : List Byte) (a n : Nat) : Bool := (slice h a n).all (fun b => b == 0)

/-! ### The checks of R570 -/

/-- A base register's value: aligned by 2^k, below 2^46. -/
def baseOk (h : List Byte) (a k : Nat) : Bool := fieldAt h a 8 % 2 ^ k == 0 && decide (fieldAt h a 8 < 2 ^ 46)

/-- Fields in range, keep-zero bytes zero, the image long enough (reason 1). -/
def imgFormOk (h : List Byte) (len : Nat) : Bool :=
  slice h 0 4 == [0x55, 0x41, 0x38, 0x4A] && fieldAt h 4 2 == 1 && zeroAt h 6 2 && decide (fieldAt h 16 4 ≠ 0)
  && decide (1 ≤ fieldAt h 20 2) && decide (fieldAt h 20 2 ≤ 16383) && decide (1 ≤ fieldAt h 22 2) && decide (fieldAt h 22 2 ≤ 64)
  && decide (imgListEnd h + 32 * fieldAt h 22 2 ≤ len)
  && decide (fieldAt h 40 1 < 4) && fieldAt h 42 1 != 0x80 && fieldAt h 43 1 != 0x80 && decide (fieldAt h 44 2 < 2 ^ 14) && decide (fieldAt h 46 1 < 2)
  && zeroAt h 47 1 && baseOk h 48 6 && zeroAt h 60 4 && baseOk h 64 6 && baseOk h 72 10 && baseOk h 80 16 && baseOk h 88 17 && baseOk h 96 12 && baseOk h 104 19
  && bitsOf (fieldAt h 112 4) 15 14 == 0 && bitsOf (fieldAt h 112 4) 30 25 == 0 && decide (fieldAt h 116 2 ≤ 600) && zeroAt h 118 2
  && fieldAt h 120 8 % 0x1000000 == 0 && zeroAt h 128 384
  && zeroAt h (1024 + 2 * fieldAt h 20 2) (imgListEnd h - 1024 - 2 * fieldAt h 20 2)

/-- The member list (reason 2). -/
def imgMembersOk (s : State) (h : List Byte) : Bool :=
  (List.range (fieldAt h 20 2)).all (fun i => decide (fieldAt h (1024 + 2 * i) 2 < 0x3FFF)) && decide (imageMembers h).Nodup && (imageMembers h).contains (devId s)

/-- The part table (reason 3): types and places; a restart image has no window table. -/
def imgPartsOk (h : List Byte) (len : Nat) (restart : Bool) : Bool :=
  let ps := imgParts h
  let at_ (t a : Nat) : Bool := match partOf ps t with | some p => p.2.2.1 == fieldAt h a 8 | none => false
  (List.range (fieldAt h 22 2)).all (fun i => zeroAt h (imgListEnd h + 32 * i + 25) 7)
  && ps.all (fun p => decide (1 ≤ p.2.2.2) && decide (p.2.2.2 ≤ 4) && decide (p.1 + p.2.1 ≤ len))
  && partCount ps 1 == 1 && partCount ps 2 == 1 && at_ 1 48 && at_ 2 64
  && (if restart then partCount ps 3 == 0 else partCount ps 3 == 1 && at_ 3 80)

/-- Entry i of the window table that will hold: the image's, or the loaded one for a restart. What LOAD does with a part that is not 688,128 bytes long
the spec does not say: DESIGN CHOICE, log entry 128, that it is accepted, and bytes of the table that it does not bring are those that GDDR7 holds. -/
def newGranule (s : State) (addr : Nat) (h : List Byte) (i : Nat) : Nat :=
  match partOf (imgParts h) 3 with
  | some p =>
    let n := min 8 (p.2.1 - 8 * i)
    leNat (memReads s.mem.host (addr + p.1 + 8 * i) n ++ memReads s.mem.gddr (p.2.2.1 + 8 * i + n) (8 - n))
  | none => leNat (memReads s.mem.gddr (fieldAt h 80 8 + 8 * i) 8)

/-- Bytes of a window table (R293). -/
def wtBytes : Nat := 688128

/-- GDDR7 granules that a run touches. -/
def gddrGranules (a n : Nat) : List Nat := if n = 0 then [] else (List.range ((a + n - 1) / 0x200000 - a / 0x200000 + 1)).map (fun i => a / 0x200000 + i)

/-- Whether an area of the management core lies in GDDR7, clear of valid granules and of the window table. -/
def areaOk (s : State) (addr : Nat) (h : List Byte) (a n : Nat) : Bool :=
  decide (a + n ≤ gddrTop) && (decide (fieldAt h 80 8 + wtBytes ≤ a) || decide (a + n ≤ fieldAt h 80 8))
  && (gddrGranules a n).all (fun g => !bitOf (newGranule s addr h g) 0)

/-- Placement (reason 4): parts in granules valid with read, quiesce image and save area apart from everything. -/
def imgPlacesOk (s : State) (addr : Nat) (h : List Byte) : Bool :=
  let q := fieldAt h 120 8
  let c := fieldAt h 72 8
  let qn := 0x1000000 + 0x400000 * nCores s
  let cn := (nCores s + 1) * 1024
  (imgParts h).all (fun p => p.2.2.2 == 3 || (decide (p.2.2.1 + p.2.1 ≤ gddrTop)
    && (gddrGranules p.2.2.1 p.2.1).all (fun g => bitsOf (newGranule s addr h g) 1 0 == 3)))
  && areaOk s addr h q qn && areaOk s addr h c cn && (decide (q + qn ≤ c) || decide (c + cn ≤ q))

/-- The numbers of window-table entries that will hold a byte other than zero: of the image, and of GDDR7 where the part is short. -/
def wtListed (s : State) (addr : Nat) (p : Part) : List Nat :=
  (((s.mem.host.filter (fun x => decide (addr + p.1 ≤ x.1) && decide (x.1 < addr + p.1 + min p.2.1 wtBytes))).map (fun x => (x.1 - addr - p.1) / 8))
    ++ ((s.mem.gddr.filter (fun x => decide (p.2.2.1 + p.2.1 ≤ x.1) && decide (x.1 < p.2.2.1 + wtBytes))).map (fun x => (x.1 - p.2.2.1) / 8))).dedup

/-- Whether one entry is well formed (R294): keep-zero bits, granules that cover the table, CXL granules beyond the capacity. -/
def wtEntryOk (s : State) (base i v : Nat) : Bool :=
  bitsOf v 29 6 == 0 && (decide (i ≥ 69632) || v / 2 ^ 30 == 0) && (bitOf v 0 || v == 0)
  && (!bitOf v 0 || !(decide (i < 65536) && decide (i * 0x200000 < base + wtBytes) && decide (base < (i + 1) * 0x200000)))
  && (!bitOf v 0 || !(decide (65536 ≤ i) && decide (i < 69632))
      || (let k := (i - 65536) / 1024; regF s (aCxl k) 0 0 == 1 && decide ((i - 65536) % 1024 < regF s (aCxl k) 26 16)))

/-- WT_FORM's check (R294). -/
def wtOk (s : State) (addr : Nat) (h : List Byte) : Bool :=
  match partOf (imgParts h) 3 with
  | none => true
  | some p => decide (p.2.2.1 + wtBytes ≤ gddrTop) && (wtListed s addr p).all (fun i => wtEntryOk s p.2.2.1 i (newGranule s addr h i))

/-- FAILSEC_FORM's check (R454). The far base may be zero while M is zero. -/
def sectOk (f : List Byte) (members : List (BitVec 14)) : Bool :=
  let n := fieldAt f 0 1
  let lead (i : Nat) : Nat := fieldAt f (8 + 2 * i) 2
  let ls := (List.range (min 8 n)).map lead
  let nn := fieldAt f 24 2
  let mm := fieldAt f 26 2
  let far := fieldAt f 56 8
  decide (1 ≤ n) && decide (n ≤ 8) && decide (fieldAt f 1 1 ≤ 1) && (fieldAt f 2 1 == 1 || fieldAt f 2 1 == 2) && decide (1 ≤ fieldAt f 3 1) && zeroAt f 6 2
  && ls.all (fun d => decide (d < 0x3FFF) && members.contains (BitVec.ofNat 14 d)) && decide ls.Nodup && ((List.range 8).drop n).all (fun i => lead i == 0)
  && (mm == 0 || (decide (nn ≠ 0) && mm % nn == 0))
  && (decide (fieldAt f 28 4 ≤ 0x3F800000) || fieldAt f 28 4 == 0x80000000)
  && fieldAt f 32 8 % 4 == 0 && decide (fieldAt f 32 8 < 2 ^ 46) && fieldAt f 40 8 % 0x10000 == 0 && decide (fieldAt f 40 8 < gddrTop) && fieldAt f 48 8 % 0x10000 == 0
  && ((mm == 0 && far == 0) || (decide (0x100000000000 ≤ far) && decide (far < 0x140000000000)))
  && decide (fieldAt f 64 2 < 2 ^ 14) && decide (fieldAt f 66 2 ≤ 511) && decide (1 ≤ fieldAt f 68 1) && decide (fieldAt f 68 1 ≤ 16) && zeroAt f 69 11
  && (List.range (min 16 (fieldAt f 68 1))).all (fun i => decide (fieldAt f (80 + 16 * i) 8 < 2 ^ 46))
  && zeroAt f (80 + 16 * fieldAt f 68 1) (432 - 16 * fieldAt f 68 1)

/-- JOIN_LEVEL's payload, when a level is not met (R472). -/
def levelBad (s : State) (f : List Byte) : Option Nat :=
  if regF s (aFab + 8) 7 0 < fieldAt f 2 1 then some 1
  else if sflLevel < fieldAt f 3 1 then some 2
  else if regF s aVecMll 15 0 ≠ fieldAt f 4 2 then some 3
  else ((List.range nLinks).find? (fun k => linkUp s k && decide ((getLink s k).fpl < fieldAt f 2 1))).map (fun k => 4 + k * 2 ^ 8)

/-- JOIN_PARTNER's check (R455), with the member list of the image. -/
def partnersMissing (s : State) (f : List Byte) (members : List (BitVec 14)) : Bool :=
  let t := { s with job := { s.job with members := members, gone := [] } }
  (decide (fieldAt f 24 2 ≠ 0) || decide (fieldAt f 26 2 ≠ 0)) && ((partnerOf t).isNone || (farOf t).isNone)

/-- The refusal of an image as a whole: code and payload; none when LOAD accepts it. -/
def loadBad (s : State) (addr len : Nat) (h : List Byte) : Option (Word16 × Nat) :=
  let f := slice h 512 512
  let ms := imageMembers h
  if !imgFormOk h len then some (cJobLoadRefused, 1)
  else if !imgMembersOk s h then some (cJobLoadRefused, 2)
  else if !imgPartsOk h len false then some (cJobLoadRefused, 3)
  else if !imgPlacesOk s addr h then some (cJobLoadRefused, 4)
  else if !wtOk s addr h then some (cWtForm, openPay cWtForm srcHost)
  else if !sectOk f ms then some (cFailsecForm, openPay cFailsecForm srcHost)
  else match levelBad s f with
    | some p => some (cJoinLevel, p)
    | none => if partnersMissing s f ms then some (cJoinPartner, openPay cJoinPartner srcHost) else none

/-- Whether two lists hold the same modules. -/
def sameSet (a b : List (BitVec 14)) : Bool := a.length == b.length && a.all (fun d => b.contains d)

/-- The refusal of RESTART (R571). -/
def restartBad (s : State) (addr len b : Nat) (h : List Byte) : Option (Word16 × Nat) :=
  let ms := imageMembers h
  if !imgFormOk h len then some (cJobLoadRefused, 1)
  else if !imgMembersOk s h then some (cJobLoadRefused, 2)
  else if !bitOf (fieldAt h 46 1) 0 || partCount (imgParts h) 3 != 0 || fieldAt h 80 8 != regF s aMemWtBase 45 16 * 0x10000 || fieldAt h 32 8 != b
      || !(match s.job.plan with | some p => p.b.toNat == b | none => false) || !sameSet ms (liveMembers s) then some (cJobLoadRefused, 5)
  else if !imgPartsOk h len true then some (cJobLoadRefused, 3)
  else if !imgPlacesOk s addr h then some (cJobLoadRefused, 4)
  else if !sectOk (slice h 512 512) ms then some (cFailsecForm, openPay cFailsecForm srcHost)
  else none

/-! ### What an accepted image does -/

/-- The parts go into GDDR7. -/
def putParts (s : State) (addr : Nat) (ps : List Part) : State :=
  ps.foldl (fun t p => rawPut (devTouch true p.2.2.1 p.2.1 t) p.2.2.1 (memReads s.mem.host (addr + p.1) p.2.1)) s

/-- The job measurement (R570, R523). -/
def jobMeasure (s : State) (addr : Nat) (h : List Byte) : List Byte :=
  shake64 (h ++ (imgParts h).flatMap (fun p => memReads s.mem.host (addr + p.1) p.2.1))

/-- The job that an image makes: everything else starts anew. -/
def jobOf (s : State) (addr : Nat) (h : List Byte) : Job :=
  let sect := slice h 512 512
  let j : Job := { Job.init with
    st := s.job.st, id := BitVec.ofNat 64 (fieldAt h 8 8), tag := BitVec.ofNat 32 (fieldAt h 16 4), members := imageMembers h
    leads := sectLeads sect, sect := sect, hold := fieldAt h 116 2, quiesce := fieldAt h 120 8, measure := jobMeasure s addr h
    image := slice h 0 (imgListEnd h), feedBad := s.job.feedBad, device := s.job.device }
  { j with lead := jobLead j }

/-- Registers, counter, job and the copy of the image in the quiesce area. -/
def takeImage (s : State) (addr : Nat) (h : List Byte) : State :=
  let j := jobOf s addr h
  let s1 := writeHeader (putParts s addr (imgParts h)) h
  let s2 := { s1 with seq := { Seq.init with step := BitVec.ofNat 64 (fieldAt h 32 8) }, job := j }
  let s3 := rawBlit (devTouch true (j.quiesce + 0x500000) 0xB00000 s2) (j.quiesce + 0x500000) 0xB00000 [] []
  rawPut s3 (j.quiesce + 0x500000) j.image

/-- LOAD of an accepted image. -/
def loadImageFile (s : State) (addr : Nat) (h : List Byte) : State :=
  let s1 := segmentEnd s (BitVec.ofNat 64 (fieldAt h 8 8))
  jobTo (takeImage s1 addr h) .loaded

/-- The on-die wipe of a RESTART, recorded like every wipe; how long it takes is not fixed. -/
def restartWipe (s : State) : State :=
  let (c, s1) := draw s
  wipeDone (wipeClear s1 1) ⟨1, 0, 0, 0, [], []⟩ (BitVec.ofNat 32 (Config.freeWord c).toNat) true

/-- RESTART of an accepted image (R571); after ROLLBACK and FALLBACK the loss of step b will be compared (R468). -/
def restartImageFile (s : State) (addr b : Nat) (h : List Byte) : State :=
  let back := match s.job.plan with | some p => decide (p.path ≠ 1) | none => false
  let s1 := takeImage (restartWipe s) addr h
  let s2 := { s1 with seq := { s1.seq with step := BitVec.ofNat 64 b }, job := { s1.job with restarted := true, verify := if back then some (BitVec.ofNat 64 b) else none } }
  jobTo s2 .loaded

end Sys2Proof.Machine
end

