-- ==== Sys2Proof/Machine/HostRun.lean ====
section
/-! DEFINITION. The host port (19 R554 to R575): doorbells and queue registers, the commands of R561, and the PCIe link. -/

namespace Sys2Proof.Machine

/-- HOST_LINK_DOWN and ATTEST_ISSUED (R575, R528). -/
def cHostLinkDown : Word16 := 0xC006
def cAttestIssued : Word16 := 0xA00B

/-! ### Queues (R554, R557, R558, R576) -/

/-- A queue pair's own pointers. -/
def getQ (s : State) (n : Nat) : HostQ := smGet HostQ.init s.host.q n
def setQ (s : State) (n : Nat) (q : HostQ) : State := { s with host := { s.host with q := smSet HostQ.init s.host.q n q } }

/-- Entries of a submission queue. -/
def hostSqSize (s : State) (n : Nat) : Nat := 2 ^ regF s (aHostQcfg n) 4 1

/-- HOST_Q_ERR with a reason that stops the queue (R575). -/
def queueErr (s : State) (n reason : Nat) : State :=
  record (setQ s n { getQ s n with err := true }) kEvent srcHost cHostQErr (n + reason * 2 ^ 8)

/-- HOST_SQ_TAIL: a doorbell. A tail beyond the queue, or entries that cannot be read, stop a queue in use. -/
def sqTail (s : State) (n tail : Nat) (readError : Bool) : State :=
  let s1 := setReg s (aHostSqTail n) (BitVec.ofNat 64 tail)
  if !hostEn s1 n || (getQ s1 n).err then s1
  else if tail ≥ hostSqSize s1 n then queueErr s1 n 1
  else if readError then queueErr s1 n 2
  else s1

/-- HOST_CQ_HEAD: entries are freed, completions that waited go. -/
def cqHead (s : State) (n head : Nat) : State := hostRetry (setReg s (aHostCqHead n) (BitVec.ofNat 64 head))

/-- A queue pair goes out of use: heads, tails and err clear; completions of its commands will be discarded. -/
def queueOff (s : State) (n : Nat) : State :=
  let s1 := setQ (setReg (setReg s (aHostSqTail n) 0) (aHostCqHead n) 0) n HostQ.init
  { s1 with host := { s1.host with cmds := s1.host.cmds.filter (fun c => c.q != n), posts := s1.host.posts.filter (fun p => p.q != n) } }

/-- HOST_QCFG: sizes take a write while en is 0; writing en 0 clears the pair. -/
def qcfg (s : State) (n b a : Nat) (en : Bool) : State :=
  let s1 := if hostEn s n then s else setRegF (setRegF s (aHostQcfg n) 8 5 b) (aHostQcfg n) 4 1 a
  let s2 := setRegF s1 (aHostQcfg n) 0 0 (b2n en)
  if en then s2 else queueOff s2 n

/-- The management core takes the command at the head of a queue: the pair is in use and not stopped, an entry waits, and no earlier command of
the queue runs or waits to be completed. -/
def hostTake (s : State) (n op cid : Nat) : Option State :=
  let q := getQ s n
  if !hostEn s n || q.err || q.sqHead == regF s (aHostSqTail n) 11 0 || s.host.cmds.any (fun c => c.q == n) || s.host.posts.any (fun p => p.q == n) then none
  else
    let s1 := setQ s n { q with sqHead := (q.sqHead + 1) % hostSqSize s n }
    some { s1 with host := { s1.host with cmds := s1.host.cmds ++ [⟨op, n, cid⟩] } }

/-- Parameter bytes of a command's submission entry (R561): offset and count. -/
def sqParams (op : Nat) : List (Nat × Nat) :=
  match op with
  | 0x01 => [(8, 8), (16, 8)]
  | 0x06 => [(8, 8), (16, 8), (24, 8)]
  | 0x07 => [(8, 1), (16, 8)]
  | 0x10 => [(8, 4), (12, 2), (16, 4), (24, 8)]
  | 0x11 => [(8, 2)]
  | 0x12 => [(8, 8)]
  | 0x18 => [(8, 8), (16, 4)]
  | 0x19 => [(8, 32), (40, 8)]
  | 0x1A => [(8, 1), (16, 8), (24, 8)]
  | 0x1B => [(8, 1)]
  | _ => []

/-- The submission entry at the head of a queue, in host memory (R554, R555). -/
def sqEntry (s : State) (n : Nat) : List Byte := memReads s.mem.host ((reg s (aHostSqBase n)).toNat + 64 * (getQ s n).sqHead) 64

/-- Whether an entry breaks R555: a byte that is neither opcode, command ID nor parameter is set, or the ID is 0xFFFF. -/
def sqBad (e : List Byte) (op cid : Nat) : Bool :=
  let param (i : Nat) : Bool := i == 0 || i == 2 || i == 3 || (sqParams op).any (fun p => decide (p.1 ≤ i) && decide (i < p.1 + p.2))
  cid == 0xFFFF || (List.range 64).any (fun i => !param i && e.getD i 0 != 0) || (op == 0x11 && fieldAt e 9 1 / 2 != 0)

/-- Whether an entry spells a command: its opcode, its ID, and its parameters at their places, as offset, bytes and value (R555, R561). -/
def sqSpells (e : List Byte) (op cid : Nat) (ps : List (Nat × Nat × Nat)) : Bool :=
  fieldAt e 0 1 == op && fieldAt e 2 2 == cid && ps.all (fun p => fieldAt e p.1 p.2.1 == p.2.2)

/-- Run a command that its queue gives: in the states listed, else BAD_STATE; out of its form, BAD_FORM; with a host-memory access that fails,
HOST_FAULT. What the entry at the head of the queue does not spell, the queue does not give (log entry 112). -/
def hostRun (s : State) (n op cid : Nat) (ps : List (Nat × Nat × Nat)) (inState form hf : Bool) (f : State → State) : State :=
  match hostTake s n op cid with
  | none => s
  | some t =>
    if !sqSpells (sqEntry s n) op cid ps then s
    else if !inState then hostDone t n cid 1 0 0
    else if !form || sqBad (sqEntry s n) op cid then hostDone t n cid 2 0 0
    else if hf then hostDone t n cid 7 0 0
    else f t

/-- Result 0 of a refusal: the code and its payload (log entry 19). -/
def refusedR0 (code : Word16) (payload : Nat) : Nat := (Config.packPayload code [payload]).toNat

/-- Whether the job state is one of a list. -/
def stIn (s : State) (l : List JobSt) : Bool := l.contains s.job.st

/-! ### Job commands (R561, R563, R565, R566, R570, R571) -/

/-- A refusal is recorded and answered. -/
def hostRefuse (s : State) (n cid : Nat) (code : Word16) (payload : Nat) : State :=
  hostDone (record s kRefusal srcHost code payload) n cid 3 (refusedR0 code payload) 0

/-- Whether the life-cycle state refuses jobs (R508). -/
def lcNoJobs (s : State) : Bool := lcState s == .blank || lcState s == .retired

/-- LOAD. -/
def loadCmd (s : State) (n cid addr len : Nat) (hf : Bool) : State :=
  hostRun s n 1 cid [(8, 8, addr), (16, 8, len)] (stIn s [.empty]) true false (fun s =>
    if regF s aBoot 8 8 = 0 then hostDone s n cid 5 0 0
    else if s.sec.wipe.isSome || s.sec.move.isSome then hostDone s n cid 6 0 0
    else if lcNoJobs s then hostRefuse s n cid cJobLoadRefused (openPay cJobLoadRefused srcHost)
    else if hf then hostDone s n cid 7 0 0
    else
      let h := imgFront s addr
      match loadBad s addr len h with
      | some (code, p) => hostRefuse s n cid code p
      | none => hostDone (loadImageFile s addr h) n cid 0 0 0)

/-- START: STARTING, and READY to the lead. -/
def startCmd (s : State) (n cid : Nat) : State :=
  hostRun s n 2 cid [] (stIn s [.loaded]) true false (fun s =>
    toLead (wardStart (jobTo s .starting)) 2 (ctlMsg s 1 0 0) (fun s => readyTake s (devId s)))

/-- PREEMPT: the message goes down the tree, this member halts, the acknowledgement is posted. In PREEMPTING it joins. -/
def preemptCmd (s : State) (n cid : Nat) : State :=
  hostRun s n 3 cid [] (stIn s [.starting, .running, .preempting]) true false (fun s =>
    let s1 := hostPost s n cid true 0 0 0
    if s1.job.st = .preempting then s1
    else
      let s2 := relayOwn { s1 with ldg := { s1.ldg with segPreempts := s1.ldg.segPreempts + 1 } } 2 (ctlMsg s1 3 0 0)
      preemptHere s2)

/-- RESUME: the message goes down the tree, this member restores. -/
def resumeCmd (s : State) (n cid : Nat) : State :=
  hostRun s n 4 cid [] (stIn s [.preempted]) true false (fun s => restoreHere (relayOwn s 2 (ctlMsg s 6 0 0)))

/-- UNLOAD ends the job; a RESUME under way ends with it. -/
def unloadCmd (s : State) (n cid : Nat) : State :=
  hostRun s n 5 cid [] (stIn s [.loaded, .preempted, .done, .faulted, .recovered]) true false (fun s => jobEnd (hostDoneAll s 4 1 0 0))

/-- RESTART. -/
def restartCmd (s : State) (n cid addr len b : Nat) (hf : Bool) : State :=
  hostRun s n 6 cid [(8, 8, addr), (16, 8, len), (24, 8, b)] (stIn s [.recovered]) true hf (fun s =>
    if memPoisoned s (regF s aMemWtBase 45 16 * 0x10000) wtBytes then hostDone s n cid 4 0 0
    else
      let h := imgFront s addr
      match restartBad s addr len b h with
      | some (code, p) => hostRefuse s n cid code p
      | none => hostDone (restartImageFile s addr b h) n cid 0 0 0)

/-- SNAPSHOT: TRN_SNAP_STEP, then the request; result 0 is its result (R418). -/
def snapshotCmd (s : State) (n cid t k : Nat) : State :=
  hostRun s n 7 cid [(8, 1, t), (16, 8, k)] (stIn s [.loaded, .starting, .running, .preempted]) (decide (t < 8)) false (fun s =>
    if memPoisoned s (snapArea s t) 128 then hostDone s n cid 4 0 0
    else
      let s1 := snapAsk (setReg s aTrnSnapStep (BitVec.ofNat 64 k)) t
      hostDone s1 n cid 0 (regF s1 aTrnSnapStatus 9 8) 0)

/-- WIPE_ONDIE: answered when the wipe is complete. A restore under way keeps the die. -/
def wipeOndieCmd (s : State) (n cid : Nat) : State :=
  hostRun s n 8 cid [] (stIn s [.empty, .preempted]) true false (fun s =>
    if s.job.restoredHere then hostDone s n cid 6 0 0 else wipeStart s 1 (.ondie n cid))

/-! ### Ledger, security, flash -/

/-- LEDGER_READ. -/
def ledgerReadCmd (s : State) (n cid seq epoch count buf : Nat) (hf : Bool) : State :=
  hostRun s n 0x10 cid [(8, 4, seq), (12, 2, epoch), (16, 4, count), (24, 8, buf)] true (decide (1 ≤ count) && decide (count ≤ 65536)) hf (fun s =>
    let (rs, below) := ldgRead s.ldg epoch seq count
    hostDone (hostWrite s buf (rs.flatMap recBytes)) n cid 0 rs.length (b2n below))

/-- LEDGER_FREEZE. -/
def ledgerFreezeCmd (s : State) (n cid ms : Nat) (unfreeze : Bool) : State :=
  if bitOf (fieldAt (sqEntry s n) 9 1) 0 != unfreeze then s
  else hostRun s n 0x11 cid [(8, 1, ms)] true (decide (ms ≤ 100)) false (fun s =>
    if unfreeze then hostDone (thaw s 1) n cid 0 0 0
    else
      let (s1, busy) := freezeTry s ms
      hostDone s1 n cid 0 (b2n busy) 0)

/-- The end of a signed command: OK, or REFUSED with its code and payload. -/
def hostAnswer (s : State) (n cid : Nat) (code : Word16) (r : Option Nat) : State :=
  match r with
  | none => hostDone s n cid 0 0 0
  | some p => hostDone s n cid 3 (refusedR0 code p) 0

/-- LEDGER_CLEAR. -/
def ledgerClearCmd (s : State) (n cid addr : Nat) (sigOk hf : Bool) : State :=
  hostRun s n 0x12 cid [(8, 8, addr)] true true hf (fun s =>
    let (s1, r) := clearTry s (memReads s.mem.host addr 1410) sigOk
    hostAnswer s1 n cid cLdgClearRefused r)

/-- SECURITY. -/
def securityCmd (s : State) (n cid addr len : Nat) (sigOk hf : Bool) : State :=
  hostRun s n 0x18 cid [(8, 8, addr), (16, 4, len)] true (len == 1378 || len == 3171) hf (fun s =>
    let d := memReads s.mem.host addr len
    let (s1, r) := secTry s d sigOk
    hostAnswer s1 n cid cSecCmdRefused (r.map (fun r => fieldAt d 0 2 + r * 2 ^ 16)))

/-- Identity of the key of the active slot, zero when there is none (R523). -/
def iakIdent (s : State) : List Byte := match iakSlot s with | some i => slice (smGet [] s.sec.fuses.iak i) 0 16 | none => zeros 16

/-- Bytes 0–319 of an attestation report (R523). -/
def reportHead (s : State) (nonce : List Byte) : List Byte :=
  leBytes 2 2 ++ leBytes 1 (lcNat (lcState s)) ++ leBytes 1 (b2n s.sec.bslot) ++ leBytes 4 s.sec.fuses.rollback ++ leBytes 8 (now s)
  ++ slice (modIdent s) 0 16 ++ iakIdent s ++ slice nonce 0 32 ++ slice s.sec.fwMeasure 0 64 ++ slice s.sec.cfgMeasure 0 64
  ++ (if jobLoaded s then slice s.job.measure 0 64 ++ leBytes 8 s.job.id.toNat else zeros 72)
  ++ leBytes 4 s.ldg.nextSeq.toNat ++ leBytes 2 s.ldg.epoch.toNat ++ zeros 2 ++ leBytes 4 s.sec.wipeSeq.toNat ++ leBytes 1 (regF s aSecWipe 3 2)
  ++ leBytes 1 (regF s (aFab + 8) 7 0) ++ leBytes 1 sflLevel ++ zeros 1 ++ leBytes 2 (regF s aVecMll 15 0) ++ zeros 22

/-- The report, signed by the module key where the unit holds one (R513, R523). -/
def attestReport (s : State) (nonce : List Byte) : List Byte :=
  let h := reportHead s nonce
  h ++ modSign s h

/-- ATTEST. -/
def attestCmd (s : State) (n cid : Nat) (nonce : List Byte) (buf : Nat) (hf : Bool) : State :=
  hostRun s n 0x19 cid [(8, 32, leNat (slice nonce 0 32)), (40, 8, buf)] true true hf (fun s =>
    hostDone (record (hostWrite { s with free := s.free + 1 } buf (attestReport s nonce)) kEvent srcSec cAttestIssued (fieldAt nonce 0 8)) n cid 0 0 0)

/-- The writable regions of the flash (R537, R561): offset and size. -/
def norRegion (r : Nat) : Option (Nat × Nat) :=
  match r with
  | 1 => some (0x100000, 0x100000)
  | 2 => some (0x200000, 0x200000)
  | 3 => some (0x400000, slotSize)
  | 4 => some (0x4200000, slotSize)
  | _ => none

/-- FLASH_WRITE: from the start of the region on. -/
def flashWriteCmd (s : State) (n cid region addr len : Nat) (hf : Bool) : State :=
  hostRun s n 0x1A cid [(8, 1, region), (16, 8, addr), (24, 8, len)] (stIn s [.empty]) (match norRegion region with | some (_, k) => decide (len ≤ k) | none => false) hf (fun s =>
    match norRegion region with
    | some (b, _) => hostDone { s with nor := memWrites s.nor b (memReads s.mem.host addr len) } n cid 0 0 0
    | none => s)

/-- RESET: no completion. -/
def resetCmd (s : State) (n cid key : Nat) (o : BootOutcome) : State :=
  hostRun s n 0x1B cid [(8, 1, key)] true (key == 0x5A) false (fun s => resetRun s 3 o)

/-- RELOCK. -/
def relockCmd (s : State) (n cid : Nat) : State :=
  hostRun s n 0x1C cid [] true true false (fun s =>
    if lcState s ≠ .service then
      let p := openPay cSecCmdRefused srcSec % 2 ^ 16 + 6 * 2 ^ 16
      hostDone (record s kRefusal srcSec cSecCmdRefused p) n cid 3 (refusedR0 cSecCmdRefused p) 0
    else if s.sec.move.isSome then hostDone s n cid 6 0 0
    else hostDone (relockAsk s) n cid 0 0 0)

/-! ### The link (R574) -/

/-- Every host-window access fails its fragment while the link is down. -/
def hostWindowFails (s : State) : State := (List.range nEngines).foldl downOps ((s.cores.map (fun p => p.1)).foldl downCopies s)

/-- The host port goes down: HOST_LINK_DOWN, pairs out of use. -/
def hostDown (s : State) (cause : Nat) : State :=
  let s1 := { s with host := { s.host with rate := 0, width := 0 } }
  let s2 := (List.range 4).foldl (fun t n => queueOff (setRegF t (aHostQcfg n) 0 0 0) n) s1
  hostWindowFails (record s2 kEvent srcHost cHostLinkDown cause)

/-! ### The commands -/

/-- HOST_SQ_TAIL. -/
def execHostSqTail (q : BitVec 2) (tail : BitVec 12) (readError : Bool) (s : State) : Out := .next (sqTail s q.toNat tail.toNat readError)
/-- HOST_CQ_HEAD. -/
def execHostCqHead (q : BitVec 2) (head : BitVec 12) (s : State) : Out := .next (cqHead s q.toNat head.toNat)
/-- HOST_QCFG. -/
def execHostQcfg (q : BitVec 2) (b a : BitVec 4) (en : Bool) (s : State) : Out := .next (qcfg s q.toNat b.toNat a.toNat en)
/-- LOAD. -/
def execLoad (q : BitVec 2) (cid : Word16) (addr len : Word64) (hf : Bool) (s : State) : Out := .next (loadCmd s q.toNat cid.toNat addr.toNat len.toNat hf)
/-- START. -/
def execStart (q : BitVec 2) (cid : Word16) (s : State) : Out := .next (startCmd s q.toNat cid.toNat)
/-- PREEMPT. -/
def execPreempt (q : BitVec 2) (cid : Word16) (s : State) : Out := .next (preemptCmd s q.toNat cid.toNat)
/-- RESUME. -/
def execResume (q : BitVec 2) (cid : Word16) (s : State) : Out := .next (resumeCmd s q.toNat cid.toNat)
/-- UNLOAD. -/
def execUnload (q : BitVec 2) (cid : Word16) (s : State) : Out := .next (unloadCmd s q.toNat cid.toNat)
/-- RESTART. -/
def execRestart (q : BitVec 2) (cid : Word16) (addr len b : Word64) (hf : Bool) (s : State) : Out :=
  .next (restartCmd s q.toNat cid.toNat addr.toNat len.toNat b.toNat hf)
/-- SNAPSHOT. -/
def execSnapshot (q : BitVec 2) (cid : Word16) (t : BitVec 8) (k : Word64) (s : State) : Out := .next (snapshotCmd s q.toNat cid.toNat t.toNat k.toNat)
/-- WIPE_ONDIE. -/
def execWipeOndie (q : BitVec 2) (cid : Word16) (s : State) : Out := .next (wipeOndieCmd s q.toNat cid.toNat)
/-- LEDGER_READ. -/
def execLedgerRead (q : BitVec 2) (cid : Word16) (seq : Word32) (epoch : Word16) (count : Word32) (buf : Word64) (hf : Bool) (s : State) : Out :=
  .next (ledgerReadCmd s q.toNat cid.toNat seq.toNat epoch.toNat count.toNat buf.toNat hf)
/-- LEDGER_FREEZE. -/
def execLedgerFreeze (q : BitVec 2) (cid : Word16) (ms : BitVec 8) (unfreeze : Bool) (s : State) : Out :=
  .next (ledgerFreezeCmd s q.toNat cid.toNat ms.toNat unfreeze)
/-- LEDGER_CLEAR. -/
def execLedgerClear (q : BitVec 2) (cid : Word16) (addr : Word64) (sigOk hf : Bool) (s : State) : Out :=
  .next (ledgerClearCmd s q.toNat cid.toNat addr.toNat sigOk hf)
/-- SECURITY. -/
def execSecurity (q : BitVec 2) (cid : Word16) (addr : Word64) (len : Word32) (sigOk hf : Bool) (s : State) : Out :=
  .next (securityCmd s q.toNat cid.toNat addr.toNat len.toNat sigOk hf)
/-- ATTEST. -/
def execAttest (q : BitVec 2) (cid : Word16) (nonce : List Byte) (buf : Word64) (hf : Bool) (s : State) : Out :=
  .next (attestCmd s q.toNat cid.toNat nonce buf.toNat hf)
/-- FLASH_WRITE. -/
def execFlashWrite (q : BitVec 2) (cid : Word16) (region : BitVec 8) (addr len : Word64) (hf : Bool) (s : State) : Out :=
  .next (flashWriteCmd s q.toNat cid.toNat region.toNat addr.toNat len.toNat hf)
/-- RESET. -/
def execReset (q : BitVec 2) (cid : Word16) (key : BitVec 8) (o : BootOutcome) (s : State) : Out := .next (resetCmd s q.toNat cid.toNat key.toNat o)
/-- HOST_CTRL_RESET: a write of HOST_CTRL with reset; other keys do nothing. -/
def execHostCtrlReset (key : BitVec 8) (o : BootOutcome) (s : State) : Out := .next (if key = 0x5A then resetRun s 3 o else s)
/-- RELOCK. -/
def execRelock (q : BitVec 2) (cid : Word16) (s : State) : Out := .next (relockCmd s q.toNat cid.toNat)
/-- PCIE_LINK_DOWN. -/
def execPcieLinkDown (s : State) : Out := .next (if s.host.width = 0 then s else hostDown s 0)
/-- HOST_PERST_N: asserted, which resets the host port and its link only. -/
def execHostPerstN (s : State) : Out :=
  let s1 := { s with pins := { s.pins with hostPerstN := false } }
  .next (if s.pwr.rails = .up then hostDown s1 1 else s1)
/-- PCIE_LINK_UP: the link trains again at a rate and width of R551, which takes the rails and a released reset; in ROM
recovery the port stays down (R521), and start-up brings it up at order 11 (R531). -/
def execPcieLinkUp (rate width : BitVec 2) (s : State) : Out :=
  let s1 := { s with pins := { s.pins with hostPerstN := true } }
  .next (if s.pwr.rails = .up ∧ s.pwr.held = false ∧ s.sec.recovery = false ∧ s.sec.boot = none ∧ rate ≠ 0 ∧ width ≠ 0 then { s1 with host := { s1.host with rate := rate, width := width } } else s1)

end Sys2Proof.Machine
end

