-- ==== Sys2Proof/Machine/PowerRun.lean ====
section
/-! DEFINITION. The power controller and the end of a Ledger flush (16 R482, R483, 20 R585 to R593, R596, 22 R626 to R629, R637): the loop, the
energy counter, the thermal trip and power failure. -/

namespace Sys2Proof.Machine

/-- PWR_ registers (R597). -/
def aPwrInput : Nat := aPwr + 0x10
def aPwrRate : Nat := aPwr + 0x20
def aPwrTemp : Nat := aPwr + 0x28

/-- Codes of R596. -/
def cPwrFail : Word16 := 0xD001
def cPwrCapActive : Word16 := 0xD002
def cPwrCapClear : Word16 := 0xD003
def cThermHigh : Word16 := 0xD004
def cThermTrip : Word16 := 0xD005
def cRailFault : Word16 := 0xD006

/-! ### The loop (R588, R589) -/

/-- The rail's ceiling in mV. -/
def railCeiling (cold : Bool) : Nat := if cold then 720 else 850

/-- One run of the loop: cap and input powers in W, hottest junction in 1/16 degree, coldness, whether 100 µs have passed since the pace level
changed, rail and pace. Answers the new rail and pace. -/
def powerStep (cap p10 p1ms : Nat) (hi : Int) (cold waited : Bool) (rail pace0 : Nat) : Nat × Nat :=
  let fast := decide (p10 * 10 > cap * 11)
  let pace := if fast then 15 else pace0
  let old := waited && decide (pace = pace0)
  let (r, p) :=
    if p1ms > cap ∨ hi > 1648 then
      if rail > 600 then (max 600 (rail - 10), pace) else if old then (rail, min 15 (pace + 1)) else (rail, pace)
    else if p1ms * 100 < cap * 97 ∧ hi < 1600 then
      if pace > 0 then (if old then (rail, pace - 1) else (rail, pace)) else (rail + 5, pace)
    else (rail, pace)
  (min (railCeiling cold) r, p)

/-- Junction of a field, 1/16 degree. -/
def tjOf (tj : List Int) (i : Nat) : Int := tj.getD i 0

/-- The hottest field. -/
def tjMax (tj : List Int) : Int := max (max (tjOf tj 0) (tjOf tj 1)) (max (tjOf tj 2) (tjOf tj 3))

/-- Fields above 103 degrees. -/
def tjHot (tj : List Int) : BitVec 4 := portBits ((List.range 4).filter (fun i => decide (tjOf tj i > 1648)))

/-- THERM_HIGH for each field that has come above 103 degrees. -/
def thermHigh (s : State) (tj : List Int) : State :=
  let s1 := (List.range 4).foldl (fun t i =>
    if (tjHot tj).getLsbD i && !s.pwr.hot.getLsbD i then record t kEvent srcPower cThermHigh (i + wrapInt 8 (tjOf tj i / 16) * 2 ^ 8) else t) s
  { s1 with pwr := { s1.pwr with hot := tjHot tj } }

/-- The pace level changes: codes and instants. -/
def paceNote (s : State) (old new p1ms : Nat) : State :=
  if old = new then s
  else
    let s1 := { s with pwr := { s.pwr with paceAt := now s } }
    if old = 0 then record { s1 with pwr := { s1.pwr with pacedFrom := now s } } kEvent srcPower cPwrCapActive p1ms
    else if new = 0 then record s1 kEvent srcPower cPwrCapClear (now s - s.pwr.pacedFrom)
    else s1

/-- POWER_LOOP_TICK. -/
def powerTick (s : State) (p10 p1ms mw : Nat) (tj : List Int) (volts rate : Nat) : State :=
  if s.pwr.rails ≠ .up then s
  else
    let cap := regF s (aPwr + 0x08) 15 0
    let pace := regF s aPwr 23 20
    let cold := (List.range 4).any (fun i => decide (tjOf tj i < 720))
    let hi := tjMax tj
    let (rail1, pace1) := powerStep cap p10 p1ms hi cold (decide (now s ≥ s.pwr.paceAt + 100000)) (regF s aPwr 47 32) pace
    let st := b2n (decide (rail1 = 600)) + b2n (decide (p1ms > cap)) * 2 + b2n (decide (hi > 1648)) * 4 + b2n cold * 8 + pace1 * 2 ^ 20
      + wrapInt 8 (hi / 16) * 2 ^ 24 + rail1 * 2 ^ 32
    let s1 := setReg s aPwr (BitVec.ofNat 64 st)
    let s2 := setReg s1 aPwrInput (BitVec.ofNat 64 (mw % 2 ^ 32 + volts % 2 ^ 16 * 2 ^ 32))
    let s3 := setReg s2 aPwrRate (BitVec.ofNat 64 rate)
    let s4 := setReg s3 aPwrTemp (BitVec.ofNat 64 ((List.range 4).foldl (fun n i => n + wrapInt 16 (tjOf tj i) * 2 ^ (16 * i)) 0))
    thermHigh (paceNote s4 pace pace1 p1ms) tj

/-- ENERGY_ADD (R585): the counter lives as long as the power controller. -/
def energyAdd (s : State) (uj : Word64) : State :=
  if s.pwr.rails = .up ∨ s.pwr.rails = .tripped then setReg { s with ldg := energyNote s } aPwrEnergy (reg s aPwrEnergy + uj) else s

/-! ### The thermal trip (R592) -/

/-- The core rail goes: what it feeds is lost as at a reset. The Ledger unit stays, for BOOT_RESET is recorded at the reset that ends this
(R534; log entry 36). -/
def railGone (s : State) : State :=
  let t := coldReset s
  { t with ldg := s.ldg, pwr := { t.pwr with rails := .tripped } }

/-- OVERTEMP_SENSE. -/
def overtemp (s : State) (degrees : Int) : State :=
  if s.pwr.rails ≠ .up ∨ s.pwr.trip = true ∨ degrees ≤ 115 then s
  else
    let s1 := deviceFatal s srcPower cThermTrip (openPay cThermTrip srcPower)
    { s1 with pwr := { s1.pwr with trip := true } }

/-- TRIP_RAIL_TIMEOUT. -/
def tripLate (s : State) : State := if s.pwr.trip = true ∧ s.pwr.rails = .up then railGone s else s

/-- RAIL_OUT_OF_RANGE. -/
def railOff (s : State) : State := if s.pwr.rails = .up then deviceFatal s srcPower cRailFault (openPay cRailFault srcPower) else s

/-! ### Power failure (R483, R593, R628, R629) -/

/-- Every rail is removed. THERM_ALERT_N keeps its level while input power is present (R637). -/
def powerGone (s : State) : State :=
  let hot := s.pwr.trip || bitOf (reg s aPwr).toNat 2
  let t := powerLost s
  { t with pwr := { t.pwr with rails := .off, trip := hot } }

/-- Order 1 of R483: any freeze ends with cause 4. -/
def failWrite (s : State) : State := ldgSpill (thaw s 4)

/-- The flush of R483, after which the input accepts nothing. -/
def failFlush (s : State) : State :=
  let s1 := ldgDo { s with ldg := { s.ldg with pfail := false } } ldgFlush
  { s1 with ldg := { s1.ldg with pfail := true } }

/-- Power is gated to everything but the management core, the Ledger unit, the security unit, the time base and the MRAM interface. -/
def powerGate (s : State) : State :=
  { s with
    seq := .init, cores := [], sync := .init, ce := [], fab := .init, job := .init, mem := { s.mem with hive := [], win := [], pages := [], watch := [], upsets := [] }
    host := { HostPort.init with msix := s.host.msix }
    dbg := { Dbg.init with ir := s.dbg.ir, boundary := s.dbg.boundary }
    sec := { s.sec with wipe := none, move := none } }

/-- PWR_FAIL_N asserted, or what R626 treats so. -/
def powerFail (s : State) (mv : Nat) : State :=
  let s0 := { s with pins := { s.pins with pwrFailN := false } }
  if s.pwr.rails = .off ∨ s.pwr.rails = .failing then s0
  else if !s.ldg.up then powerGone s0
  else
    let s1 := failWrite (record s0 kEvent srcPower cPwrFail mv)
    let s2 := powerGate (failFlush { s1 with ldg := ldgClose s1.ldg })
    { s2 with pwr := { s2.pwr with rails := .failing } }

/-- A flush ends while power fails: one that was under way before is followed by that of R483; then every rail goes. A failed read-back
leaves its records out of MRAM. -/
def failEnd (s : State) (verifies : Bool) : State :=
  if !s.ldg.flushing then s
  else
    let s1 := if verifies then flushDone s else { s with ldg := { s.ldg with flushing := false } }
    if s1.ldg.flushAgain then failFlush s1 else powerGone s1

/-- LEDGER_FLUSH_COMPLETE. After a thermal trip the rail goes with the flush. -/
def flushComplete (s : State) (verifies : Bool) : State :=
  if s.pwr.rails = .failing then failEnd s verifies
  else
    let s1 := flushEnd s verifies
    if s.pwr.trip = true ∧ s.pwr.rails = .up ∧ s.ldg.flushing = true ∧ s1.ldg.flushing = false then railGone s1 else s1

/-! ### The commands -/

/-- LEDGER_FLUSH_COMPLETE. -/
def execLedgerFlushComplete (verifies : Bool) (s : State) : Out := .next (flushComplete s verifies)
/-- PWR_FAIL_N. -/
def execPwrFailN (mv : BitVec 16) (s : State) : Out := .next (powerFail s mv.toNat)
/-- POWER_LOOP_TICK. -/
def execPowerLoopTick (p10 p1ms mw : Nat) (tj : List Int) (volts rate : Nat) (s : State) : Out := .next (powerTick s p10 p1ms mw tj volts rate)
/-- ENERGY_ADD. -/
def execEnergyAdd (uj : BitVec 64) (s : State) : Out := .next (energyAdd s uj)
/-- OVERTEMP_SENSE. -/
def execOvertempSense (_field : BitVec 2) (degrees : Int) (s : State) : Out := .next (overtemp s degrees)
/-- TRIP_RAIL_TIMEOUT. -/
def execTripRailTimeout (s : State) : Out := .next (tripLate s)
/-- RAIL_OUT_OF_RANGE. -/
def execRailOutOfRange (s : State) : Out := .next (railOff s)

end Sys2Proof.Machine
end

