-- ==== Sys2Proof/Machine/RegMap.lean ====
section
/-! DEFINITION. The register map (R9 to R11 and the register rule of each chapter): what a read of a register returns, field by field, and what a
write of it does. -/

namespace Sys2Proof.Machine

/-- Index and offset of an address in an array of `n` blocks of `stride` bytes from `base`. -/
def blockAt (a base stride n : Nat) : Option (Nat × Nat) :=
  if base ≤ a ∧ a < base + stride * n then some ((a - base) / stride, (a - base) % stride) else none

/-- Four 16-bit counters as one register. -/
def pack16 (f : Nat → Nat) : Nat := f 0 % 2 ^ 16 + f 1 % 2 ^ 16 * 2 ^ 16 + f 2 % 2 ^ 16 * 2 ^ 32 + f 3 % 2 ^ 16 * 2 ^ 48

/-! ### Views of the units -/

/-- SEQ_STATUS.state as it is coded. -/
def seqStNat (x : SeqSt) : Nat := match x with | .idle => 0 | .running => 1 | .halting => 2 | .halted => 3 | .faulted => 4 | .done => 5

/-- The lowest core at r_min. -/
def slowest (s : State) : Nat := ((List.range (nCores s)).find? (fun i => retainOf (getCore s i) == rMin s)).getD 0

/-- SEQ_ registers (R73). -/
def viewSeq (s : State) (off : Nat) : Option Nat :=
  match off with
  | 0x00 => some (b2n s.seq.run)
  | 0x08 => some (seqStNat s.seq.st + s.seq.ctx.vclass % 64 * 8 + b2n s.seq.ctx.variant.isSome * 2 ^ 9
      + (s.seq.ctx.loops.filter (fun l => l.streamed)).length % 8 * 2 ^ 10)
  | 0x10 | 0x18 | 0x20 | 0x40 | 0x48 | 0x50 => some (reg s (aSeq + off)).toNat
  | 0x28 => some s.seq.nextPos
  | 0x30 => some (rMin s)
  | 0x38 => some (slowest s)
  | 0x58 => some s.seq.step.toNat
  | _ => none

/-- The physical row of an enabled core (R75, R76). -/
def physCore (s : State) (id : Nat) : Nat :=
  let col := smGet [] s.repair (coreField s id * 16 + coreCol id)
  ((List.range 15).filter (fun r => !col.contains r)).getD (coreRow s id) 0

/-- CORE_ and CMB_ registers by window offset (R105). -/
def viewCore (s : State) (id off : Nat) : Option Nat :=
  let c := getCore s id
  if off = 0x3C0000 then some (id + coreField s id * 2 ^ 10 + coreRow s id * 2 ^ 12 + coreCol id * 2 ^ 16 + physCore s id * 2 ^ 20)
  else if off = 0x3C0008 then
    some (coreStNat s id c + c.wait * 2 ^ 5 + inFlight c .m * 2 ^ 8 + inFlight c .v * 2 ^ 12 + inFlight c .t * 2 ^ 15 + claimed c * 2 ^ 18)
  else if off = 0x3C0010 then some c.trace.toNat
  else if 0x3C1000 ≤ off ∧ off < 0x3C1100 ∧ off % 8 = 0 then
    let sh := shapeOf c ((off - 0x3C1000) / 8)
    some (if sh.tag = 0 then 0 else sh.tag % 16 + (sh.rows - 1) % 64 * 2 ^ 4 + (sh.elems - 1) % 1024 * 2 ^ 10 + sh.fmt % 16 * 2 ^ 20 + 2 ^ 24)
  else if off = 0x3C1100 ∨ off = 0x3C1108 ∨ off = 0x3C1110 then some (reg s (aCore id + off)).toNat
  else none

/-- Half of ARR_SETS (R141). -/
def viewSet (x : StatSet) : Nat :=
  if x.loaded then
    x.fmt % 16 + x.cls % 8 * 2 ^ 4 + (x.k - 1) % 256 * 2 ^ 7 + (x.n - 1) % 64 * 2 ^ 15 + b2n x.turn * 2 ^ 21 + 2 ^ 22 + b2n x.faulty * 2 ^ 23
  else 0

/-- ARR_, VEC_ and MINT_ registers of a core (R141, R192, R215). -/
def viewArr (s : State) (id off : Nat) : Option Nat :=
  match off with
  | 0x00 => some (viewSet (getCore s id).act + viewSet (getCore s id).shd * 2 ^ 32)
  | 0x08 | 0x10 | 0x18 | 0x20 | 0x28 | 0x30 | 0x38 => some (reg s (aArr id + off)).toNat
  | _ => none

def viewMint (s : State) (id off : Nat) : Option Nat :=
  let k := (getCore s id).key
  match off with
  | 0x00 => some (k.tid.toNat + k.pitch.toNat * 2 ^ 32)
  | 0x08 => some k.base.toNat
  | 0x10 => some k.step.toNat
  | 0x18 => some (reg s (aMint id + off)).toNat
  | _ => none

/-- The chip-wide MINT_ and VEC_ registers (R215). -/
def viewMintChip (s : State) (off : Nat) : Option Nat :=
  match off with
  | 0x00 | 0x08 | 0x10 | 0x18 | 0x20 | 0x28 | 0x40 => some (reg s (aMintChip + off)).toNat
  | 0x30 => some (mintWord (reg s aMintSeed).toNat (reg s aMintTestStep).toNat (reg s aMintTestTid).toNat (reg s aMintTestIdx).toNat)
  | _ => none

/-- SYN_DL_ and the other chip SYN_ registers (R246). -/
def viewSyn (s : State) (off : Nat) : Option Nat :=
  match off with
  | 0x00 | 0x08 | 0x18 | 0x28 => some (reg s (aSynDl + off)).toNat
  | 0x10 => some (match s.sync.det with | .watch => 0 | .quiet => 1 | .blocked => 2 | .deadlock => 3)
  | 0x20 => some (sigCount s)
  | 0x30 => some s.sync.sent.toNat
  | 0x38 => some s.sync.recv.toNat
  | _ => none

/-- LCU_ registers of a core (R286): LCU_FAIL names the copy that failed until it completes, its re-runs included. -/
def viewLcu (s : State) (id off : Nat) : Option Nat :=
  let l := (getCore s id).lcu
  let f := l.find? (fun q => q.failed || q.code.toNat != 0)
  match off with
  | 0x00 => some (l.length % 8 + (l.filter (fun q => q.active)).length % 4 * 8 + b2n (l.any (fun q => q.failed)) * 128)
  | 0x08 => some (match f with | some q => q.descOff % 2 ^ 22 + 2 ^ 31 + q.code.toNat * 2 ^ 32 | none => 0)
  | 0x10 => some (match f with | some q => q.todo.toNat | none => 0)
  | 0x18 => some 0
  | 0x20 | 0x28 | 0x30 | 0x38 | 0x40 | 0x48 | 0x50 | 0x58 | 0x60 => some (reg s (aLcu id + off)).toNat
  | _ => none

/-- HIVE_ registers of a slice (R286). -/
def viewHive (s : State) (k off : Nat) : Option Nat :=
  match off with
  | 0x00 | 0x08 | 0x10 | 0x18 => some (reg s (aHive k + off)).toNat
  | 0x20 => some (slotsUsed s k + ((s.mem.hive.filter (fun p => p.1 / 16384 = k)).flatMap (fun p => p.2.filter (fun l => l.keep))).length * 64)
  | _ => none

/-- MEM_ registers of a controller, CXL_ registers of a port (R314). -/
def viewMc (s : State) (k off : Nat) : Option Nat :=
  match off with
  | 0x00 => some ((reg s (aMc k)).toNat + poisonCount s k * 2)
  | 0x08 | 0x10 | 0x18 | 0x20 => some (reg s (aMc k + off)).toNat
  | _ => none

def viewCxl (s : State) (k off : Nat) : Option Nat :=
  match off with
  | 0x00 | 0x10 | 0x18 | 0x20 => some (reg s (aCxl k + off)).toNat
  | 0x08 => some (slotsUsed s (16 + k))
  | _ => none

/-- FAB_LINK_ registers (R351). -/
def viewLink (s : State) (k off : Nat) : Option Nat :=
  let l := getLink s k
  match off with
  | 0x00 => some ((match l.st with | .down => 0 | .training => 1 | .up => 2 | .retrain => 3 | .failed => 4) + l.pair % 4 * 8 + l.lanes % 8 * 32
      + (if l.st = .up then l.fpl % 256 else 0) * 2 ^ 8 + l.ndev % 2 ^ 14 * 2 ^ 16 + l.nlink % 64 * 2 ^ 30 + regF s (aLink k) 36 36 * 2 ^ 36)
  | 0x08 | 0x10 | 0x18 | 0x20 | 0x28 | 0x30 => some (reg s (aLink k + off)).toNat
  | _ => none

/-- CE_ registers of an engine (R395). -/
def viewCe (s : State) (k off : Nat) : Option Nat :=
  let e := getCe s k
  let f := e.ops.find? (fun o => o.failed)
  match off with
  | 0x00 => some (ceBusy e + (e.ops.filter (fun o => o.failed)).length * 2 ^ 8)
  | 0x08 => some (match f with | some o => o.ctx.toNat + 2 ^ 31 + o.code.toNat * 2 ^ 32 + b2n o.afail * 2 ^ 48 | none => 0)
  | 0x10 => some (match f with | some o => o.failMask.toNat | none => 0)
  | 0x18 => some 0
  | 0x20 | 0x28 | 0x30 | 0x38 | 0x40 | 0x48 | 0x50 | 0x58 | 0x60 | 0x68 => some (reg s (aCe k + off)).toNat
  | _ => none

/-- TRN_ registers (R423). -/
def viewTrn (s : State) (off : Nat) : Option Nat :=
  match off with
  | 0x08 => some ((reg s aTrnSeqStatus).toNat % 2 ^ 38 + b2n (s.seq.poll && s.seq.st == .running) * 2 ^ 38)
  | 0x38 => some 0
  | 0x00 | 0x10 | 0x18 | 0x20 | 0x28 | 0x30 | 0x40 | 0x48 => some (reg s (aTrn + off)).toNat
  | _ => none

/-- The record that LDG_RD_SEQ names; none when it is not retained (R493). -/
def rdRecord (s : State) : Option Rec :=
  (s.ldg.recs.find? (fun p => p.1.seq.toNat == regF s aLdgRdSeq 31 0 && p.2.toNat == regF s aLdgRdSeq 47 32)).map (recOut s.ldg)

/-- LDG_ registers (R507). -/
def viewLdg (s : State) (off : Nat) : Option Nat :=
  let l := s.ldg
  match off with
  | 0x00 => some ((match l.st with | .recording => 0 | .frozen => 1 | .clearing => 2) + b2n l.flushing * 16 + b2n l.prelock * 32
      + regF s aLdg 6 6 * 64 + b2n l.nearFull * 128)
  | 0x08 => some (l.nextSeq.toNat + l.epoch.toNat * 2 ^ 32)
  | 0x10 => some (match l.recs.head? with | some p => p.1.seq.toNat + p.2.toNat * 2 ^ 32 | none => l.nextSeq.toNat + l.epoch.toNat * 2 ^ 32)
  | 0x18 => some ((match (l.recs.take l.nFlushed).getLast? with
        | some p => p.1.seq.toNat
        | none => (match l.recs.head? with | some p => (p.1.seq - 1).toNat | none => (l.nextSeq - 1).toNat)) + l.flushCount.toNat % 2 ^ 32 * 2 ^ 32)
  | 0x28 => some l.held.length
  | 0x38 => some 0
  | 0x40 => some l.nonce0.toNat
  | 0x48 => some l.nonce1.toNat
  | 0x20 | 0x30 | 0x50 => some (reg s (aLdg + off)).toNat
  | 0x58 | 0x60 | 0x68 | 0x70 => some (match rdRecord s with | some r => fieldAt (recBytes r) (off - 0x58) 8 | none => 0)
  | _ => none

/-- SEC_ registers (R529). -/
def viewSec (s : State) (off : Nat) : Option Nat :=
  let f := s.sec.fuses
  match off with
  | 0x00 => some (lcNat (lcState s) + (iakSlot s).getD 0 * 16 + b2n (iakSlot s).isSome * 128 + f.revoked.toNat * 2 ^ 8
      + (List.range 8).foldl (fun n i => n + b2n (!(smGet [] f.iak i).isEmpty) * 2 ^ (16 + i)) 0)
  | 0x08 => some (f.rollback % 128 + s.sec.v % 256 * 2 ^ 8 + b2n s.sec.bslot * 2 ^ 16 + s.sec.fwver.toNat * 2 ^ 32)
  | 0x10 => some s.sec.nonce0.toNat
  | 0x18 => some s.sec.nonce1.toNat
  | 0x20 => some (reg s aSecWipe).toNat
  | 0x28 => some 0
  | 0x30 | 0x38 => some (fieldAt (modIdent s) (off - 0x30) 8)
  | 0x40 | 0x48 | 0x50 | 0x58 | 0x60 | 0x68 | 0x70 | 0x78 => some (fieldAt f.root (off - 0x40) 8)
  | _ => none

/-- HOST_ registers (R576). -/
def viewHost (s : State) (off : Nat) : Option Nat :=
  match off with
  | 0x00 => some (jobStNat s.job.st + b2n s.job.device.isSome * 2 ^ 10 + regF s aBoot 8 8 * 2 ^ 11 + s.host.width.toNat * 2 ^ 12
      + s.host.rate.toNat * 2 ^ 14 + slotsUsed s 20 % 64 * 2 ^ 16 + s.host.evlost.toNat * 2 ^ 48)
  | 0x08 => some (reg s aHostCtrl).toNat
  | 0x10 => some s.seq.step.toNat
  | _ =>
    match blockAt off 0x100 0x40 4 with
    | some (n, 0x28) => some (b2n (getQ s n).err + (getQ s n).sqHead % 4096 * 2 ^ 16)
    | some (n, o) => if o ≤ 0x20 ∧ o % 8 = 0 then some (reg s (aHost + 0x100 + n * 0x40 + o)).toNat else none
    | none => none

/-- DBG_STATUS (R620). -/
def dbgOpen (s : State) : Bool := match lcState s with | .deployed => false | .retired => false | _ => true
def dbgStatus (s : State) : Nat :=
  b2n (dbgOpen s) + b2n s.dbg.chip * 2 + b2n (s.cores.any (fun p => p.2.dbgStep)) * 4 + (s.cores.filter (fun p => p.2.dbgHalt)).length * 8

/-- DBG_ registers and the mailbox (R616, R620). -/
def viewDbg (s : State) (off : Nat) : Option Nat :=
  if off = 0x00 then some (dbgStatus s)
  else if off = 0x08 ∨ off = 0x100 ∨ off = 0x110 then some 0
  else if (0x40 ≤ off ∧ off < 0x100 ∨ off = 0x108) ∧ off % 8 = 0 then some (reg s (aDbg + off)).toNat
  else if 0x20000 ≤ off ∧ off < 0x21000 then some (fieldAt (memReads s.dbg.mbox (off - 0x20000) 8) 0 8)
  else
    match blockAt off 0x10000 8 (nCores s) with
    | some (n, 0) =>
      let c := getCore s n
      some (c.dbgOff % 2 ^ 22 + c.dbgAgent % 8 * 2 ^ 22 + c.dbgK % 8 * 2 ^ 25 + c.dbgCause % 8 * 2 ^ 28
        + b2n (c.dbgHalt && c.flight.isEmpty) * 2 ^ 31 + c.nextIdx % 2 ^ 32 * 2 ^ 32)
    | _ => none

/-- Registers at or below an offset that all hold plain values. -/
def viewPlain (s : State) (base last off : Nat) : Option Nat := if off ≤ last ∧ off % 8 = 0 then some (reg s (base + off)).toNat else none

/-! ### Reads -/

/-- Per-core and per-unit blocks among the chip registers. -/
def viewBlocks (s : State) (a : Nat) : Option Nat :=
  ((blockAt a (aArr 0) 0x40 (nCores s)).bind (fun p => viewArr s p.1 p.2)).orElse fun _ =>
  ((blockAt a (aVecOps 0) 0x40 (nCores s)).bind (fun p => if p.2 = 0 ∨ p.2 = 8 then some (reg s a).toNat else none)).orElse fun _ =>
  ((blockAt a (aMint 0) 0x40 (nCores s)).bind (fun p => viewMint s p.1 p.2)).orElse fun _ =>
  ((blockAt a (aSynS 0 0) 0x80 (nCores s)).bind (fun p =>
    if p.2 < 0x60 ∧ p.2 % 8 = 0 then some (pack16 (fun i => (smGet 0 (getCore s p.1).s (p.2 / 2 + i)).toNat)) else none)).orElse fun _ =>
  ((blockAt a (aSynG 0) 8 128).bind (fun p => if p.2 = 0 then some (pack16 (fun i => (smGet 0 s.sync.g (p.1 * 4 + i)).toNat)) else none)).orElse fun _ =>
  ((blockAt a (aLcu 0) 0x80 (nCores s)).bind (fun p => viewLcu s p.1 p.2)).orElse fun _ =>
  ((blockAt a (aHive 0) 0x100 16).bind (fun p => viewHive s p.1 p.2)).orElse fun _ =>
  ((blockAt a (aMc 0) 0x40 16).bind (fun p => viewMc s p.1 p.2)).orElse fun _ =>
  ((blockAt a (aCxl 0) 0x40 4).bind (fun p => viewCxl s p.1 p.2)).orElse fun _ =>
  ((blockAt a (aLink 0) 0x80 nLinks).bind (fun p => viewLink s p.1 p.2)).orElse fun _ =>
  ((blockAt a (aRtMember 0) 8 64).bind (fun p => if p.2 = 0 then some (reg s a).toNat else none)).orElse fun _ =>
  ((blockAt a (aRtGroup 0) 8 16384).bind (fun p => if p.2 = 0 then some (reg s a).toNat else none)).orElse fun _ =>
  ((blockAt a (aCe 0) 0x100 16).bind (fun p => viewCe s p.1 p.2))

/-- What a read of a register returns; none at an address that is no register. -/
def regView (s : State) (a : Nat) : Option Nat :=
  if a < 0x3F0000000000 then (blockAt a (aCore 0) 0x400000 (nCores s)).bind (fun p => viewCore s p.1 p.2)
  else
    match a / 0x10000 with
    | 0x3F000001 => viewSeq s (a % 0x10000)
    | 0x3F000028 => viewMintChip s (a % 0x10000)
    | 0x3F000041 => viewSyn s (a % 0x10000)
    | 0x3F0000A1 => viewPlain s aColResult 0x08 (a % 0x10000)
    | 0x3F0000B0 => viewTrn s (a % 0x10000)
    | 0x3F0000C0 => viewLdg s (a % 0x10000)
    | 0x3F0000D0 => viewSec s (a % 0x10000)
    | 0x3F0000E0 => viewPlain s aBoot 0x20 (a % 0x10000)
    | 0x3F0000F0 => viewHost s (a % 0x10000)
    | 0x3F000100 => viewPlain s aPwr 0x38 (a % 0x10000)
    | 0x3F000110 => if a % 0x10000 = 0 then some (now s) else if a % 0x10000 = 0x18 then some 0 else viewPlain s aTim 0x28 (a % 0x10000)
    | 0x3F000120 | 0x3F000121 | 0x3F000122 => viewDbg s (a - aDbg)
    | 0x3F000070 => if a % 0x10000 ≤ 0x10 then viewPlain s aMem 0x10 (a % 0x10000) else viewBlocks s a
    | 0x3F000080 => if a % 0x10000 ≤ 0x48 then viewPlain s aFab 0x48 (a % 0x10000) else viewBlocks s a
    | _ => viewBlocks s a

/-! ### Writes -/

/-- Bits [hi:lo]. -/
def maskBits (hi lo : Nat) : Nat := (2 ^ (hi + 1 - lo) - 1) * 2 ^ lo

/-- Counters whose bit 63 is a W1C ovf bit. -/
def ovfAt (s : State) (a : Nat) : Bool :=
  let within (base stride n : Nat) (offs : List Nat) : Bool := match blockAt a base stride n with | some p => offs.contains p.2 | none => false
  [aSeqPaceStall, aSynSigFull, aFabResend, aFabLost, aFabNacks, aFabGaps, aLdgLost, aPwr + 0x30, aPwr + 0x38].contains a
  || within (aCore 0) 0x400000 (nCores s) [0x3C1100, 0x3C1108, 0x3C1110]
  || within (aArr 0) 0x40 (nCores s) [0x08, 0x10, 0x18, 0x20, 0x28, 0x38]
  || within (aVecOps 0) 0x40 (nCores s) [0x00, 0x08]
  || within (aMint 0) 0x40 (nCores s) [0x18]
  || within (aLcu 0) 0x80 (nCores s) [0x20, 0x28, 0x30, 0x38, 0x40, 0x48, 0x50, 0x58, 0x60]
  || within (aHive 0) 0x100 16 [0x00, 0x08, 0x10, 0x18]
  || within (aMc 0) 0x40 16 [0x08, 0x10, 0x18, 0x20]
  || within (aCxl 0) 0x40 4 [0x10, 0x18, 0x20]
  || within (aLink 0) 0x80 nLinks [0x08, 0x10, 0x18, 0x20, 0x28]
  || within (aCe 0) 0x100 16 [0x20, 0x28, 0x30, 0x38, 0x40, 0x48, 0x50, 0x58, 0x60, 0x68]

/-- RWL fields. -/
def rwlMask (s : State) (a : Nat) : Nat :=
  if a = aSeqImgBase ∨ a = aSeqVtab then maskBits 45 6
  else if a = aSeqImgLen then maskBits 31 0
  else if a = aSeqCtxBase then maskBits 45 10
  else if a = aMintSeed ∨ a = aMintStep0 then maskBits 63 0
  else if a = aMintCtrl ∨ a = aSynDl then 1
  else if a = aSynDlWin then maskBits 13 0
  else if a = aSynDlMap then maskBits 45 17
  else if a = aMemWtBase then maskBits 45 16
  else if a = aTrn then maskBits 45 12
  else if a = aTrnImb then maskBits 7 0
  else if a = aTrnSnapBase then maskBits 45 19
  else if a = aTrnSnapCfg then 2 ^ 31 + maskBits 24 16 + maskBits 13 0
  else match blockAt a (aArr 0) 0x40 (nCores s) with | some (_, 0x30) => maskBits 15 0 | _ => 0

/-- RW fields that no other meaning writes. -/
def rwMask (a : Nat) : Nat :=
  if a = aMintTestStep ∨ a = aTrnSnapStep then maskBits 63 0
  else if a = aMintTestTid then maskBits 31 0
  else if a = aMintTestIdx then maskBits 47 0
  else if a = aLdgRdSeq then maskBits 47 0
  else if a = aHostCtrl then maskBits 5 0
  else match blockAt a (aDbgBp 0) 8 8 with
    | some (_, 0) => maskBits 63 62 + maskBits 57 48 + maskBits 31 0
    | _ =>
      match blockAt a (aDbgWpA 0) 16 8 with
      | some (_, 0) => maskBits 63 61 + maskBits 57 48 + maskBits 21 0
      | some (_, 8) => maskBits 21 0
      | _ => 0

/-- RWL fields are locked from START until the job ends (R9, log entry 38). -/
def rwlOpen (s : State) : Bool :=
  match s.job.st with | .empty => true | .loaded => !s.job.restarted | .wiping => true | _ => false

/-- The bits under a mask replaced. -/
def maskPut (old new mask : Nat) : Nat := (old &&& (2 ^ 64 - 1 - mask)) ||| (new &&& mask)

/-- A register outside the DBG_ block whose write triggers an action (WO), or that a meaning of its own writes. -/
def woAt (a : Nat) : Bool :=
  [aSeq, aTrn + 0x38, aLdg + 0x38, aSec + 0x28, aBootWdog, aHostCtrl, aTim + 0x18].contains a
  || (match blockAt a (aLcu 0) 0x80 896 with | some p => p.2 == 0x18 | none => false)
  || (match blockAt a (aCe 0) 0x100 16 with | some p => p.2 == 0x18 | none => false)
  || (match blockAt a (aHost + 0x100) 0x40 4 with | some p => decide (p.2 ≤ 0x20) && p.2 % 8 == 0 | none => false)

/-- Whether a register has a field that a write can act on. -/
def writable (s : State) (a : Nat) : Bool :=
  woAt a || ovfAt s a || rwlMask s a != 0 || rwMask a != 0 || [aSeqFault, aMemRefInfo, aLdg].contains a

/-- Outcomes of a start-up as the outside decides them: free values. -/
def freeOutcome (n : Nat) : BootOutcome :=
  let w (i : Nat) : Nat := (Config.freeWord (n + i)).toNat
  let b (i : Nat) : Bool := bitOf (w 0) i
  { certA := b 0, sigA := b 1, certB := b 2, sigB := b 3, keyUnwraps := b 4, cfgSigOk := b 5
    selfTestFail := if b 6 then some (BitVec.ofNat 64 (w 1)) else none
    memFail := if b 7 then some (BitVec.ofNat 5 (w 2)) else none
    cxl := (List.range 4).map (fun i => if b (8 + i) then
      some (BitVec.ofNat 11 (w (3 + i)), BitVec.ofNat 2 (w (3 + i) / 2 ^ 11), BitVec.ofNat 2 (w (3 + i) / 2 ^ 13), b (12 + i)) else none)
    cxlLevel := (List.range 4).map (fun i => b (16 + i))
    cxlTimeout := (List.range 4).map (fun i => b (20 + i))
    wipeFails := b 24
    mllSigOk := b 25
    rate := BitVec.ofNat 2 (w 0 / 2 ^ 26)
    width := BitVec.ofNat 2 (w 0 / 2 ^ 28)
    us := BitVec.ofNat 32 (w 7)
    wipeUs := BitVec.ofNat 32 (w 8) }

/-- A reset asked for by a register write. -/
def freeReset (s : State) (cause : Nat) : State := resetRun { s with free := s.free + 9 } cause (freeOutcome s.free)

/-- SEQ_CTRL (R73): each bit acts in one state only. -/
def seqCtrl (s : State) (v : Nat) : State :=
  match s.seq.st with
  | .idle => if bitOf v 0 then seqStart s else s
  | .running => if bitOf v 1 then haltAsk s else s
  | .halted => if bitOf v 2 then seqResumes s else s
  | _ => s

/-- HOST_ registers of queue pair n. -/
def hostQWrite (s : State) (n off v : Nat) : State :=
  if off = 0x00 ∨ off = 0x08 then
    if hostEn s n then s else setReg s (aHost + 0x100 + n * 0x40 + off) (BitVec.ofNat 64 (v / 4096 * 4096))
  else if off = 0x10 then qcfg s n (bitsOf v 8 5) (bitsOf v 4 1) (bitOf v 0)
  else if off = 0x18 then let (ctr, s1) := draw s; sqTail s1 n (v % 4096) (bitOf (Config.freeWord ctr).toNat 0)
  else cqHead s n (v % 4096)

/-- The action of a write to one of the registers of `woAt`. What the outside decides in it (which fragments fail again, an unwritable
destination, a host read that errs, a start-up) is a free value here; the table's own rows take it as an operand. -/
def woWrite (s : State) (a v : Nat) : State :=
  if a = aSeq then seqCtrl s v
  else if a = aTrn + 0x38 then (if bitOf v 3 then snapAsk s (v % 8) else s)
  else if a = aLdg + 0x38 then (if bitOf v 0 then (freezeTry s (bitsOf v 8 2)).1 else if bitOf v 1 then thaw s 1 else s)
  else if a = aSec + 0x28 then (if bitOf v 0 then relockAsk s else s)
  else if a = aBootWdog then (if bitOf v 0 then wdogKick s else s)
  else if a = aHostCtrl then
    let s1 := setRegF s aHostCtrl 5 0 (v % 64)
    if bitOf v 7 && bitsOf v 15 8 == 0x5A then freeReset s1 3 else s1
  else if a = aTim + 0x18 then (if bitOf v 0 then timSnap s else s)
  else
    match blockAt a (aLcu 0) 0x80 896 with
    | some (n, _) =>
      let (ctr, s1) := draw s
      if !coreOk s n || v % 4 = 3 then s else if bitOf v 0 then lcuGo s1 n (Config.freeWord ctr) else if bitOf v 1 then lcuAbort s n else s
    | none =>
      match blockAt a (aCe 0) 0x100 16 with
      | some (k, _) =>
        let (ctr, s1) := draw s
        let ctx := BitVec.ofNat 14 (v / 2 ^ 16)
        if v % 4 = 3 then s else if bitOf v 0 then ceRetryGo s1 k ctx (Config.freeWord ctr)
        else if bitOf v 1 then ceRetryAbort s1 k ctx (bitOf (Config.freeWord ctr).toNat 0)
        else s
      | none =>
        match blockAt a (aHost + 0x100) 0x40 4 with
        | some (n, off) => hostQWrite s n off v
        | none => s

/-- A write of a register outside the DBG_ actions (R9 to R11): RO fields and keep-zero bits ignore it. -/
def plainWrite (s : State) (a v : Nat) : State :=
  if woAt a then woWrite s a v
  else if a = aSeqFault then (if bitOf v 27 then setReg s a 0 else s)
  else if a = aMemRefInfo then (if bitOf v 63 then setReg (setReg s a 0) aMemRefAddr 0 else s)
  else if a = aLdg then (if bitOf v 6 then setRegF s a 6 6 0 else s)
  else if ovfAt s a then (if bitOf v 63 then setRegF s a 63 63 0 else s)
  else
    let m := rwMask a + (if rwlOpen s then rwlMask s a else 0)
    if m = 0 then s else setReg s a (BitVec.ofNat 64 (maskPut (reg s a).toNat v m))

end Sys2Proof.Machine
end

