-- ==== Sys2Proof/Machine/DebugRun.lean ====
section
/-! DEFINITION. The debug port (21 R598 to R618, 22 R635 to R640): the TAP, debug transactions, halts, the mailbox; and writes of registers. -/

namespace Sys2Proof.Machine

def aDbgMcmd : Nat := aDbg + 0x100
def aDbgMres : Nat := aDbg + 0x108
def aDbgHalt : Nat := aDbg + 0x08
def aDbgReset : Nat := aDbg + 0x110
def aMbox : Nat := aDbg + 0x20000

/-! ### The TAP (R598 to R601) -/

/-- The port acts while the rails are up (R636). -/
def tapOn (s : State) (t : State) : State := if s.pwr.rails = .up then t else s

/-- An instruction is selected. -/
def tapIr (s : State) (ir : BitVec 8) : State := { s with dbg := { s.dbg with ir := ir } }

/-- IDCODE (R601), silicon revision 1. -/
def idWord (s : State) : Nat := if s.part832 then 0x10A815A7 else 0x10A805A7

/-- Whether EXTEST can be selected (R600). -/
def extestFree (s : State) : Bool := dbgOpen s && !jobLoaded s

/-- Whether the pins take their values from the boundary register. -/
def extestOn (s : State) : Bool := decide (s.dbg.ir = 0) && extestFree s

/-- THERM_ALERT_N is driven low (R637, R640). -/
def thermAlertLow (s : State) : Bool :=
  if extestOn s then s.dbg.boundary.getLsbD 5 && !s.dbg.boundary.getLsbD 4 else s.pwr.trip || bitOf (reg s aPwr).toNat 2

/-- Whether no CXL port has begun training since internal reset: before order 7 of R530, and where that order is left out (R547). -/
def cxlAsleep (s : State) : Bool :=
  decide (regF s aBoot 3 0 < 7) || regF s aBoot 9 9 == 1 || [0xA002, 0xA004, 0xB002, 0xB003].contains (regF s aBoot 31 16)

/-- The cells as SAMPLE captures them (R640). CXL_PERST_N is driven low until its port begins training (R632). The level of the PPS input and
of the CXL pins is otherwise the outside's: free values. -/
def sampleCells (s : State) (ctr : Nat) : Nat :=
  let f := if cxlAsleep s then (Config.freeWord ctr).toNat &&& 0x3C03F ||| 0x2A80 else (Config.freeWord ctr).toNat
  let low := s.pwr.trip || bitOf (reg s aPwr).toNat 2
  b2n s.pins.resetN + b2n s.pins.pwrFailN * 2 + b2n (bitOf f 2) * 4 + b2n s.pins.hostPerstN * 8 + b2n (!low && bitOf f 4) * 16 + b2n low * 32
    + bitsOf f 17 6 * 64

/-! ### Transactions (R602 to R607) -/

/-- The result of a transaction (R603). -/
def dapResult (s : State) (status : Nat) (code : Word16) (data : Nat) : State :=
  { s with dbg := { s.dbg with dap := BitVec.ofNat 112 (data % 2 ^ 64 + code.toNat * 2 ^ 94 + status * 2 ^ 110) } }

/-- A refused transaction: DBG_REFUSED with its reason. -/
def dapRefuse (s : State) (a reason : Nat) : State :=
  dapResult (record s kRefusal srcDebug cDbgRefused (a % 2 ^ 46 + reason * 2 ^ 48)) 2 cDbgRefused 0

/-- DBG_SESSION at the first transaction since reset or wipe (R619). -/
def dapSession (s : State) : State :=
  if s.dbg.session then s
  else record { s with dbg := { s.dbg with session := true } } kEvent srcDebug cDbgSession (lcNat (lcState s))

/-- What a locked port still accepts (R606). -/
def lockedOk (a : Nat) (write : Bool) : Bool :=
  if write then a == aLdgRdSeq || a == aDbgMcmd || a == aDbgReset || decide (aMbox ≤ a) && decide (a < aMbox + 0x1000)
  else decide (aLdg ≤ a) && decide (a < aLdg + 0x10000) || decide (aSec ≤ a) && decide (a < aSec + 0x10000) || a == aBoot || a == aDbg

/-- A transaction on an address: session, lock and form, then its own part. -/
def dapTry (s : State) (a : Nat) (write : Bool) (f : State → State) : State :=
  if s.pwr.rails ≠ .up then s
  else
    let s1 := dapSession s
    if !dbgOpen s1 && !lockedOk a write then dapRefuse s1 a 1
    else if a % 8 ≠ 0 then dapRefuse s1 a 5
    else f s1

/-- Whether the memories of a core are open: it is debug-halted, or no stream runs (R605). -/
def coreOpen (s : State) (c : Core) : Bool := c.dbgHalt && c.flight.isEmpty || (s.seq.st != .running && s.seq.st != .halting)

/-- Whether a running wipe covers an address of a place (R525, R527): on-die memories in every scope, GDDR7 above on-die; of the CXL tier all under full
scope and the owned ranges under job-boundary scope, until the whole wipe is done. -/
def wipeCovers (s : State) (a : Nat) (p : Place) : Bool :=
  match s.sec.wipe with
  | none => false
  | some w =>
    match p with
    | .core _ _ => true
    | .gddr => decide (2 ≤ w.scope)
    | .cxl _ => decide (w.scope = 3) || w.owned.contains (wtIndex a)
    | _ => false

/-- Whether a port that leads out of the module does not answer. -/
def placeDown (s : State) (p : Place) : Bool :=
  match p with
  | .cxl k => smGet false s.mem.cxlDown k
  | .host => s.host.width == 0
  | _ => false

/-- The check of a memory access: none when it may proceed, else the reason. -/
def dapMemBad (s : State) (a : Nat) (write : Bool) : Option Nat :=
  if wipeCovers s a (placeOf a) then some 6
  else if jobLoaded s then (if (memCheck s a 8 write false).isSome then some 2 else none)
  else if memExists s a then none else some 2

/-- The first debug write since a load (R607). -/
def dapNote (s : State) (a : Nat) : State :=
  let exempt := decide (aDbg ≤ a) && decide (a < aDbg + 0x100000) || decide (aLdg ≤ a) && decide (a < aLdg + 0x10000)
    || decide (aSec ≤ a) && decide (a < aSec + 0x10000) || a == aTim + 0x18
  if jobLoaded s && !s.job.dbgWrite && !exempt then
    record { s with job := { s.job with dbgWrite := true } } kEvent srcDebug cDbgJobWrite (a % 2 ^ 46)
  else s

/-! ### Halting, stepping (R608 to R611) -/

/-- A core is halted by request. -/
def dbgHaltAsk (s : State) (core : Nat) : State := if coreOk s core then dbgHaltCore s core 1 0 0 0 else s

/-- A core is let go. -/
def dbgFree (c : Core) : Core := { c with dbgHalt := false, dbgStep := false, dbgCause := 0, dbgK := 0, dbgAgent := 0, dbgOff := 0, latches := [] }

/-- A core resumes. -/
def dbgResume (s : State) (core : Nat) : State := if (getCore s core).dbgHalt then modCore s core dbgFree else s

/-- A debug-halted core may issue one bundle. -/
def dbgStepAsk (s : State) (core : Nat) : State :=
  let c := getCore s core
  if c.dbgHalt && c.flight.isEmpty then setCore s core { c with dbgStep := true } else s

/-- Chip halt: one DBG_HALTED for the chip; cores that stand halted keep their cause. -/
def dbgChipHalt (s : State) : State :=
  let s1 := { s with
    dbg := { s.dbg with chip := true }
    cores := (List.range (nCores s)).map (fun i =>
      let c := getCore s i
      (i, if c.dbgHalt && !c.dbgStep then c else { c with dbgHalt := true, dbgStep := false, dbgCause := 1, dbgK := 0, dbgAgent := 0, dbgOff := 0, latches := [] })) }
  if s.dbg.chip then s1 else detLeave (record s1 kEvent srcDebug cDbgHalted (noCore + 2 ^ 16))

/-- Chip resume. -/
def dbgChipResume (s : State) : State :=
  { s with dbg := { s.dbg with chip := false }, cores := smMap Core.init (fun _ c => if c.dbgHalt then dbgFree c else c) s.cores }

/-- A write of DBG_HALT; none when it is refused (R620). -/
def haltWrite (s : State) (v : Nat) : Option State :=
  let core := bitsOf v 25 16
  match v % 32 with
  | 0 => some s
  | 1 => some (dbgChipHalt s)
  | 2 => some (dbgChipResume s)
  | 4 => some (dbgHaltAsk s core)
  | 8 => some (dbgResume s core)
  | 16 => some (dbgStepAsk s core)
  | _ => none

/-! ### The mailbox (R616, R617) -/

/-- DBG_MRES as an operation ends (R559). -/
def mres (s : State) (status : Nat) (code : Word16) : State := setReg s aDbgMres (BitVec.ofNat 64 (status * 2 ^ 8 + code.toNat * 2 ^ 48))

/-- The bytes of an operation. -/
def mboxBytes (s : State) (n : Nat) : List Byte := memReads s.dbg.mbox 0 n

/-- Op 1. -/
def mboxSec (s : State) (len : Nat) (sigOk : Bool) : State :=
  if len ≠ 1378 ∧ len ≠ 3171 then mres s 2 0
  else
    match secTry s (mboxBytes s len) sigOk with
    | (s1, none) => mres s1 0 0
    | (s1, some _) => mres s1 3 cSecCmdRefused

/-- Op 2; with the Ledger unit down there is nothing to clear. -/
def mboxClear (s : State) (len : Nat) (sigOk : Bool) : State :=
  if !s.ldg.up then mres s 1 0
  else if len ≠ 1410 then mres s 2 0
  else
    match clearTry s (mboxBytes s len) sigOk with
    | (s1, none) => mres s1 0 0
    | (s1, some _) => mres s1 3 cLdgClearRefused

/-- Op 3: open states; in ROM recovery the image slots in every state but RETIRED. -/
def mboxFlash (s : State) (region off len : Nat) : State :=
  let st := if s.sec.recovery then lcState s != .retired && (region == 3 || region == 4) else dbgOpen s
  if !st then mres s 1 0
  else
    match norRegion region with
    | none => mres s 2 0
    | some (b, k) =>
      if len = 0 ∨ len > 4096 ∨ off * 4096 + len > k then mres s 2 0
      else mres { s with nor := memWrites s.nor (b + off * 4096) (mboxBytes s len) } 0 0

/-- Op 5. -/
def mboxProv (s : State) : State :=
  if lcState s = .blank ∧ (s.sec.move.isNone = true ∨ s.sec.provisioning = true) then mres (provisionStart s) 0 0 else mres s 1 0

/-- Op 6. -/
def mboxCert (s : State) (len : Nat) : State :=
  if lcState s ≠ .blank ∨ s.sec.provisioning = false then mres s 1 0
  else if len ≠ 3115 then mres s 2 0
  else mres (provisionCert s) 0 0

/-- A write of DBG_MCMD. -/
def mcmdWrite (s : State) (v : Nat) : State :=
  let (ctr, s1) := draw s
  let ok := bitOf (Config.freeWord ctr).toNat 0
  let len := bitsOf v 44 32
  if len = 0 ∨ len > 4096 then mres s 2 0
  else
    match v % 256 with
    | 1 => mboxSec s1 len ok
    | 2 => mboxClear s1 len ok
    | 3 => mboxFlash s (bitsOf v 11 8) (bitsOf v 30 16) len
    | 5 => mboxProv s
    | 6 => mboxCert s len
    | _ => mres s 2 0

/-! ### Reads and writes -/

/-- A write of a chip register; none when a DBG_HALT names more than one action. -/
def chipWrite (s : State) (a v : Nat) : Option State :=
  if a = aDbgHalt then haltWrite s v
  else some (
    if a = aDbgMcmd then mcmdWrite s v
    else if a = aDbgReset then (if bitOf v 0 && bitsOf v 15 8 == 0x5A then freeReset s 4 else s)
    else if aMbox ≤ a ∧ a < aMbox + 0x1000 then { s with dbg := { s.dbg with mbox := memWrites s.dbg.mbox (a - aMbox) (leBytes 8 v) } }
    else plainWrite s a v)

/-- Whether the access code lets the debug port write a chip register (R605): one that only the management core writes it does not. -/
def dbgMay (s : State) (a : Nat) : Bool :=
  a != aSeq && a != aBootWdog
  && (writable s a || a == aDbgHalt || a == aDbgMcmd || a == aDbgReset || decide (aMbox ≤ a) && decide (a < aMbox + 0x1000))

/-- A read of a core's window: data and poison; none outside its memories and registers. -/
def coreWord (s : State) (id off : Nat) : Option (Nat × Bool) :=
  let c := getCore s id
  if off < 0x300000 then some (leNat (bufRead c off 8), bufPoisoned c off 8)
  else if off < 0x380000 then
    let j := (off - 0x300000) / 256
    some (leNat (memReads c.acc (accRowAddr (physRow c j) + off % 256) 8), accBad c j)
  else if off < 0x3C0000 then some (leNat (memReads c.comb (off - 0x380000) 8), false)
  else none

/-- The errors that a read transaction meets: those of its buffer, accumulator or Hive word (R135, R251, R260). -/
def readMeets (s : State) (a : Nat) : State :=
  match placeOf a with
  | .core id off =>
    if off < 0x300000 then meet s id (bufAmong [(off, 8)])
    else if off < 0x380000 then meet s id (accAmong [((off - 0x300000) / 256, 1)])
    else s
  | .chip => s
  | .hole => s
  | _ => meetSpans s [(a, 8)]

/-- A read transaction on a permitted address. -/
def readAt (s0 : State) (a : Nat) : State :=
  let s := readMeets s0 a
  let give (p : State × Nat × Bool) : State := if p.2.2 then dapResult p.1 3 cPoisonConsumed 0 else dapResult p.1 0 0 p.2.1
  match placeOf a with
  | .hole => dapRefuse s a 2
  | .chip => match regView s a with | some v => dapResult s 0 0 v | none => dapRefuse s a 2
  | .core id off =>
    if !coreOk s id then dapRefuse s a 2
    else
      match coreWord s id off with
      | none => match regView s a with | some v => dapResult s 0 0 v | none => dapRefuse s a 2
      | some w =>
        if wipeCovers s a (.core id off) then dapRefuse s a 6
        else if !coreOpen s (getCore s id) then dapRefuse s a 3
        else give (if off < 0x300000 then bufTouch s id off 8 false 4 else s, w.1, w.2)
  | p =>
    match dapMemBad s a false with
    | some r => dapRefuse s a r
    | none =>
      if placeDown s p then let (ctr, s1) := draw s; dapResult s1 0 0 (Config.freeWord ctr).toNat
      else give (touchRead s a 8 0, leNat (memBytes s a 8), memPoisoned s a 8)

/-- A write into a core's memories. -/
def coreStore (s : State) (id off v : Nat) : State :=
  let c := getCore s id
  let bs := leBytes 8 v
  if off < 0x300000 then bufTouch (setCore s id (bufWrite c off bs false)) id off 8 true 4
  else if off < 0x380000 then setCore s id { c with acc := memWrites c.acc (accRowAddr (physRow c ((off - 0x300000) / 256)) + off % 256) bs }
  else setCore s id (dropLatches { c with comb := memWrites c.comb (off - 0x380000) bs } ((off - 0x380000) / tileBytes))

/-- A write transaction on a permitted address. -/
def writeAt (s : State) (a v : Nat) : State :=
  let did (t : State) : State := dapResult t 0 0 0
  match placeOf a with
  | .hole => dapRefuse s a 2
  | .chip =>
    if (regView s a).isNone then dapRefuse s a 2
    else if !dbgMay s a then dapRefuse s a 4
    else
      match chipWrite (dapNote s a) a v with
      | some t => did t
      | none => dapRefuse s a 5
  | .core id off =>
    if !coreOk s id then dapRefuse s a 2
    else if off ≥ 0x3C0000 then dapRefuse s a (if (regView s a).isSome then 4 else 2)
    else if wipeCovers s a (.core id off) then dapRefuse s a 6
    else if !coreOpen s (getCore s id) then dapRefuse s a 3
    else did (coreStore (dapNote s a) id off v)
  | p =>
    match dapMemBad s a true with
    | some r => dapRefuse s a r
    | none => did (if placeDown s p then dapNote s a else memStore (dapNote s a) a (leBytes 8 v) false 0)

/-- DAP_READ. -/
def dapReads (s : State) (a : Nat) : State := dapTry s a false (fun t => readAt t a)

/-- DAP_WRITE. -/
def dapWrites (s : State) (a v : Nat) : State := dapTry s a true (fun t => writeAt t a v)

/-- A write transaction whose action is given. -/
def dapActs (s : State) (a : Nat) (f : State → State) : State := dapTry s a true (fun t => dapResult (f t) 0 0 0)

/-! ### Register writes (R9) -/

/-- REGISTER_WRITE: the host reaches the HOST_ registers through its BAR (R553), the debug port what its transactions reach, the management core
every chip register, and the memories of a core while no stream runs; the registers of a core's window it only reads (R250). -/
def regWrite (s : State) (who : Agent) (a v : Nat) : State :=
  if s.pwr.rails ≠ .up then s
  else
    match who with
    | .debug => dapWrites s a v
    | .host => if s.host.width ≠ 0 ∧ aHost ≤ a ∧ a < aHost + 0x10000 ∧ a % 8 = 0 then plainWrite s a v else s
    | .mgmt =>
      if a % 8 ≠ 0 then s
      else
        match placeOf a with
        | .core id off =>
          if coreOk s id && decide (off < 0x3C0000) && s.seq.st != .running && s.seq.st != .halting && !wipeCovers s a (.core id off) then coreStore s id off v
          else s
        | _ => if (regView s a).isSome then (chipWrite s a v).getD s else s

/-! ### The commands -/

/-- TAP_RESET: IDCODE is selected, as IEEE 1149.1 has it (PRESUMED, log entry 39). -/
def execTapReset (s : State) : Out := .next (tapOn s (tapIr s 1))
/-- EXTEST, or BYPASS in its place (R600). -/
def execExtest (cells : BitVec 18) (s : State) : Out :=
  .next (tapOn s (if extestFree s then { s with dbg := { s.dbg with ir := 0, boundary := cells } }
                  else { s with dbg := { s.dbg with ir := 0xFF, byp := false } }))
/-- IDCODE. -/
def execIdcode (s : State) : Out := .next (tapOn s { s with dbg := { s.dbg with ir := 1, cap := BitVec.ofNat 64 (idWord s) } })
/-- SAMPLE_PRELOAD. -/
def execSamplePreload (cells : BitVec 18) (s : State) : Out :=
  let (ctr, s1) := draw s
  .next (tapOn s { s1 with dbg := { s1.dbg with ir := 2, boundary := cells, cap := BitVec.ofNat 64 (sampleCells s ctr) } })
/-- DAP. -/
def execDap (s : State) : Out := .next (tapOn s (tapIr s 0x10))
/-- DSTAT. -/
def execDstat (s : State) : Out := .next (tapOn s { s with dbg := { s.dbg with ir := 0x11, cap := BitVec.ofNat 64 (dbgStatus s) } })
/-- BYPASS. -/
def execBypass (s : State) : Out := .next (tapOn s { s with dbg := { s.dbg with ir := 0xFF, byp := false } })
/-- DAP_READ. -/
def execDapRead (addr : BitVec 46) (s : State) : Out := .next (dapReads s addr.toNat)
/-- DAP_WRITE. -/
def execDapWrite (addr : BitVec 46) (data : BitVec 64) (s : State) : Out := .next (dapWrites s addr.toNat data.toNat)
/-- DAP_NOP: changes nothing (R604). -/
def execDapNop (s : State) : Out := .next s
/-- DBG_CORE_HALT: a write of DBG_HALT with halt. -/
def execDbgCoreHalt (core : Nat) (s : State) : Out := .next (dapActs s aDbgHalt (fun t => dbgHaltAsk t core))
/-- DBG_CORE_RESUME: with resume. -/
def execDbgCoreResume (core : Nat) (s : State) : Out := .next (dapActs s aDbgHalt (fun t => dbgResume t core))
/-- DBG_CORE_STEP: with step. -/
def execDbgCoreStep (core : Nat) (s : State) : Out := .next (dapActs s aDbgHalt (fun t => dbgStepAsk t core))
/-- DBG_CHALT: with chalt. -/
def execDbgChalt (s : State) : Out := .next (dapActs s aDbgHalt dbgChipHalt)
/-- DBG_CRESUME: with cresume. -/
def execDbgCresume (s : State) : Out := .next (dapActs s aDbgHalt dbgChipResume)
/-- DBG_RESET: a write of DBG_RESET with reset; other keys do nothing. -/
def execDbgReset (key : BitVec 8) (o : BootOutcome) (s : State) : Out :=
  .next (dapActs s aDbgReset (fun t => if key = 0x5A then resetRun t 4 o else t))
/-- MBOX_SECURITY. -/
def execMboxSecurity (len : BitVec 13) (sigOk : Bool) (s : State) : Out := .next (dapActs s aDbgMcmd (fun t => mboxSec t len.toNat sigOk))
/-- MBOX_LEDGER_CLEAR. -/
def execMboxLedgerClear (len : BitVec 13) (sigOk : Bool) (s : State) : Out := .next (dapActs s aDbgMcmd (fun t => mboxClear t len.toNat sigOk))
/-- MBOX_FLASH_WRITE. -/
def execMboxFlashWrite (region : BitVec 4) (off : BitVec 15) (len : BitVec 13) (s : State) : Out :=
  .next (dapActs s aDbgMcmd (fun t => mboxFlash t region.toNat off.toNat len.toNat))
/-- MBOX_PROVISION. -/
def execMboxProvision (s : State) : Out := .next (dapActs s aDbgMcmd mboxProv)
/-- MBOX_CERT_WRITE. -/
def execMboxCertWrite (len : BitVec 13) (s : State) : Out := .next (dapActs s aDbgMcmd (fun t => mboxCert t len.toNat))
/-- REGISTER_WRITE. -/
def execRegisterWrite (agent : Agent) (addr : BitVec 46) (data : BitVec 64) (s : State) : Out := .next (regWrite s agent addr.toNat data.toNat)

end Sys2Proof.Machine
end

