-- ==== Sys2Proof/Machine/Dispatch.lean ====
section
/-! DEFINITION. The dispatcher: one arm per command. -/

namespace Sys2Proof.Machine

/-- The effect of a command on everything but the queue. -/
def exec (i : Instr) (s : State) : Host.Outcome State Fault Refusal :=
  match i with
  | .bundleFetch => Sys2Proof.Machine.execBundleFetch s
  | .bundleMulticast => Sys2Proof.Machine.execBundleMulticast s
  | .bundleIssue core => Sys2Proof.Machine.execBundleIssue core s
  | .mld core h tile tag turn => Sys2Proof.Machine.execMld core h tile tag turn s
  | .mswap core h => Sys2Proof.Machine.execMswap core h s
  | .mmul core h areg offset rows1 dest fmt acc depth1 cols1 rowscale sareg => Sys2Proof.Machine.execMmul core h areg offset rows1 dest fmt acc depth1 cols1 rowscale sareg s
  | .mmulz core h areg offset rows1 dest fmt acc depth1 cols1 rowscale sareg => Sys2Proof.Machine.execMmulz core h areg offset rows1 dest fmt acc depth1 cols1 rowscale sareg s
  | .mdrain core h first rows1 tile tag mode rnd areg offset kind => Sys2Proof.Machine.execMdrain core h first rows1 tile tag mode rnd areg offset kind s
  | .mtopk core h first rows1 vtile vtag ptile ptag k1 base kind => Sys2Proof.Machine.execMtopk core h first rows1 vtile vtag ptile ptag k1 base kind s
  | .passStart core outcome => Sys2Proof.Machine.execPassStart core outcome s
  | .chainCommit core => Sys2Proof.Machine.execChainCommit core s
  | .operationCommit core unit => Sys2Proof.Machine.execOperationCommit core unit s
  | .vop core h v => Sys2Proof.Machine.execVop core h v s
  | .vcvt core h v => Sys2Proof.Machine.execVcvt core h v s
  | .vred core h v => Sys2Proof.Machine.execVred core h v s
  | .vscale core h v => Sys2Proof.Machine.execVscale core h v s
  | .vrq core h v => Sys2Proof.Machine.execVrq core h v s
  | .vfn core h v => Sys2Proof.Machine.execVfn core h v s
  | .vsrKey core h v => Sys2Proof.Machine.execVsrKey core h v s
  | .vsrDraw core h v => Sys2Proof.Machine.execVsrDraw core h v s
  | .vadam core h v => Sys2Proof.Machine.execVadam core h v s
  | .tcfg core h tile tag rows1 elems1 fmt => Sys2Proof.Machine.execTcfg core h tile tag rows1 elems1 fmt s
  | .tld core h tile tag areg offset pitch => Sys2Proof.Machine.execTld core h tile tag areg offset pitch s
  | .tst core h tile tag areg offset pitch => Sys2Proof.Machine.execTst core h tile tag areg offset pitch s
  | .tmov core h dst dtag src stag => Sys2Proof.Machine.execTmov core h dst dtag src stag s
  | .tzero core h tile tag => Sys2Proof.Machine.execTzero core h tile tag s
  | .txp core h dst dtag src stag => Sys2Proof.Machine.execTxp core h dst dtag src stag s
  | .xloc core h areg offset => Sys2Proof.Machine.execXloc core h areg offset s
  | .xstr core h areg offset ctx => Sys2Proof.Machine.execXstr core h areg offset ctx s
  | .xcol core h areg offset ctx => Sys2Proof.Machine.execXcol core h areg offset ctx s
  | .xwatchArm core h areg offset => Sys2Proof.Machine.execXwatchArm core h areg offset s
  | .xwatchRelease core h areg offset => Sys2Proof.Machine.execXwatchRelease core h areg offset s
  | .xfence core h wloc wstr wback inval => Sys2Proof.Machine.execXfence core h wloc wstr wback inval s
  | .xfenceComplete core => Sys2Proof.Machine.execXfenceComplete core s
  | .sinc core pred ctr n => Sys2Proof.Machine.execSinc core pred ctr n s
  | .swait core pred ctr n => Sys2Proof.Machine.execSwait core pred ctr n s
  | .sdec core pred ctr n => Sys2Proof.Machine.execSdec core pred ctr n s
  | .ssig core pred areg offset => Sys2Proof.Machine.execSsig core pred areg offset s
  | .sbar core pred g n => Sys2Proof.Machine.execSbar core pred g n s
  | .cloop core pred fromReg areg count1 body1 => Sys2Proof.Machine.execCloop core pred fromReg areg count1 body1 s
  | .cbr core pred n => Sys2Proof.Machine.execCbr core pred n s
  | .cvar mode index => Sys2Proof.Machine.execCvar mode index s
  | .cadd core pred dst src imm => Sys2Proof.Machine.execCadd core pred dst src imm s
  | .cset core pred kind1 areg sub pdst imm => Sys2Proof.Machine.execCset core pred kind1 areg sub pdst imm s
  | .cmark core pred kind value => Sys2Proof.Machine.execCmark core pred kind value s
  | .chalt core status => Sys2Proof.Machine.execChalt core status s
  | .jobDone => Sys2Proof.Machine.execJobDone s
  | .trainingStepCommit => Sys2Proof.Machine.execTrainingStepCommit s
  | .seqTablePoll => Sys2Proof.Machine.execSeqTablePoll s
  | .seqRun => Sys2Proof.Machine.execSeqRun s
  | .seqHalt => Sys2Proof.Machine.execSeqHalt s
  | .haltDrainComplete => Sys2Proof.Machine.execHaltDrainComplete s
  | .haltTimeout core => Sys2Proof.Machine.execHaltTimeout core s
  | .seqResume => Sys2Proof.Machine.execSeqResume s
  | .barrierRelease g => Sys2Proof.Machine.execBarrierRelease g s
  | .signalRelease src ctx => Sys2Proof.Machine.execSignalRelease src ctx s
  | .quietWindowElapsed => Sys2Proof.Machine.execQuietWindowElapsed s
  | .blockedReport src sent recv time => Sys2Proof.Machine.execBlockedReport src sent recv time s
  | .withdraw src => Sys2Proof.Machine.execWithdraw src s
  | .jobDeadlockMessage src count => Sys2Proof.Machine.execJobDeadlockMessage src count s
  | .lcuCopyStart core fail upset => Sys2Proof.Machine.execLcuCopyStart core fail upset s
  | .lcuCopyComplete core => Sys2Proof.Machine.execLcuCopyComplete core s
  | .tornReread core fail => Sys2Proof.Machine.execTornReread core fail s
  | .lcuRetryGo core fail => Sys2Proof.Machine.execLcuRetryGo core fail s
  | .lcuRetryAbort core => Sys2Proof.Machine.execLcuRetryAbort core s
  | .mcRequest mc outcome => Sys2Proof.Machine.execMcRequest mc outcome s
  | .gddr7Scrub mc line outcome => Sys2Proof.Machine.execGddr7Scrub mc line outcome s
  | .cxlPortDown port => Sys2Proof.Machine.execCxlPortDown port s
  | .sanitizeComplete port ok => Sys2Proof.Machine.execSanitizeComplete port ok s
  | .sanitizeTimeout port => Sys2Proof.Machine.execSanitizeTimeout port s
  | .trainingAttemptEnd link ok => Sys2Proof.Machine.execTrainingAttemptEnd link ok s
  | .hello link dev index fpl sfl mll feed => Sys2Proof.Machine.execHello link dev index fpl sfl mll feed s
  | .laneUnhealthy link lane => Sys2Proof.Machine.execLaneUnhealthy link lane s
  | .retrainLock link => Sys2Proof.Machine.execRetrainLock link s
  | .retrainTimeout link => Sys2Proof.Machine.execRetrainTimeout link s
  | .flitSend link => Sys2Proof.Machine.execFlitSend link s
  | .dataFlit link fec raw => Sys2Proof.Machine.execDataFlit link fec raw s
  | .idleFlit link fec raw => Sys2Proof.Machine.execIdleFlit link fec raw s
  | .nak link lastGood => Sys2Proof.Machine.execNak link lastGood s
  | .wr link p => Sys2Proof.Machine.execWr link p s
  | .rdReq link p => Sys2Proof.Machine.execRdReq link p s
  | .rdRsp link p => Sys2Proof.Machine.execRdRsp link p s
  | .sig link p => Sys2Proof.Machine.execSig link p s
  | .ack link p => Sys2Proof.Machine.execAck link p s
  | .ackc link p => Sys2Proof.Machine.execAckc link p s
  | .nack link p => Sys2Proof.Machine.execNack link p s
  | .err link p => Sys2Proof.Machine.execErr link p s
  | .e2eResendTimeout dst ctx => Sys2Proof.Machine.execE2eResendTimeout dst ctx s
  | .nackResend dst ctx => Sys2Proof.Machine.execNackResend dst ctx s
  | .tc0Release => Sys2Proof.Machine.execTc0Release s
  | .tc0GapTimeout src => Sys2Proof.Machine.execTc0GapTimeout src s
  | .syncExchangeTimer => Sys2Proof.Machine.execSyncExchangeTimer s
  | .syncReq link child t1 t2 => Sys2Proof.Machine.execSyncReq link child t1 t2 s
  | .syncRsp link t1 t2 t3 t4 => Sys2Proof.Machine.execSyncRsp link t1 t2 t3 t4 s
  | .holdoverExpiry => Sys2Proof.Machine.execHoldoverExpiry s
  | .ppsEdge => Sys2Proof.Machine.execPpsEdge s
  | .ppsTimeout => Sys2Proof.Machine.execPpsTimeout s
  | .ceOperationStart engine fail => Sys2Proof.Machine.execCeOperationStart engine fail s
  | .ceOperationComplete engine => Sys2Proof.Machine.execCeOperationComplete engine s
  | .collectiveStep engine ranges => Sys2Proof.Machine.execCollectiveStep engine ranges s
  | .collectiveRelease engine => Sys2Proof.Machine.execCollectiveRelease engine s
  | .bucketCommit engine => Sys2Proof.Machine.execBucketCommit engine s
  | .ceRetryGo engine ctx fail => Sys2Proof.Machine.execCeRetryGo engine ctx fail s
  | .ceRetryAbort engine ctx unwritable => Sys2Proof.Machine.execCeRetryAbort engine ctx unwritable s
  | .snapRequest t => Sys2Proof.Machine.execSnapRequest t s
  | .recoveryRetry isLcu index ctx cannotClear => Sys2Proof.Machine.execRecoveryRetry isLcu index ctx cannotClear s
  | .heartbeatSend => Sys2Proof.Machine.execHeartbeatSend s
  | .heartbeat src time => Sys2Proof.Machine.execHeartbeat src time s
  | .heartbeatTimeout => Sys2Proof.Machine.execHeartbeatTimeout s
  | .failureNotice src left orig cause code time step => Sys2Proof.Machine.execFailureNotice src left orig cause code time step s
  | .report src view counter => Sys2Proof.Machine.execReport src view counter s
  | .reportResendTimeout => Sys2Proof.Machine.execReportResendTimeout s
  | .reportTimeout dev => Sys2Proof.Machine.execReportTimeout dev s
  | .plan src path view b gen => Sys2Proof.Machine.execPlan src path view b gen s
  | .restoreComplete => Sys2Proof.Machine.execRestoreComplete s
  | .permit src far gen b gp gf => Sys2Proof.Machine.execPermit src far gen b gp gf s
  | .securingCopiesComplete => Sys2Proof.Machine.execSecuringCopiesComplete s
  | .securingCloseComplete => Sys2Proof.Machine.execSecuringCloseComplete s
  | .genDone src far late gen b partner farPartner => Sys2Proof.Machine.execGenDone src far late gen b partner farPartner s
  | .feedTagCheck => Sys2Proof.Machine.execFeedTagCheck s
  | .ledgerFlushComplete verifies => Sys2Proof.Machine.execLedgerFlushComplete verifies s
  | .ledgerClearComplete => Sys2Proof.Machine.execLedgerClearComplete s
  | .accountingWindowBoundary => Sys2Proof.Machine.execAccountingWindowBoundary s
  | .ldgFreeze ms => Sys2Proof.Machine.execLdgFreeze ms s
  | .unfreeze => Sys2Proof.Machine.execUnfreeze s
  | .freezeExpiry => Sys2Proof.Machine.execFreezeExpiry s
  | .ledgerQuery src count seq epoch => Sys2Proof.Machine.execLedgerQuery src count seq epoch s
  | .ledgerAnswer src status record => Sys2Proof.Machine.execLedgerAnswer src status record s
  | .registration key => Sys2Proof.Machine.execRegistration key s
  | .unlock => Sys2Proof.Machine.execUnlock s
  | .deregistration => Sys2Proof.Machine.execDeregistration s
  | .retire => Sys2Proof.Machine.execRetire s
  | .secRelock => Sys2Proof.Machine.execSecRelock s
  | .lcTransitionComplete => Sys2Proof.Machine.execLcTransitionComplete s
  | .wipeComplete fails us mllOk => Sys2Proof.Machine.execWipeComplete fails us mllOk s
  | .holdTimeExpiry => Sys2Proof.Machine.execHoldTimeExpiry s
  | .powerUp o => Sys2Proof.Machine.execPowerUp o s
  | .cxlTrainTimeout port => Sys2Proof.Machine.execCxlTrainTimeout port s
  | .resetN => Sys2Proof.Machine.execResetN s
  | .watchdogExpiry o => Sys2Proof.Machine.execWatchdogExpiry o s
  | .bootWdogKick => Sys2Proof.Machine.execBootWdogKick s
  | .hostSqTail q tail readError => Sys2Proof.Machine.execHostSqTail q tail readError s
  | .hostCqHead q head => Sys2Proof.Machine.execHostCqHead q head s
  | .hostQcfg q b a en => Sys2Proof.Machine.execHostQcfg q b a en s
  | .load q cid addr len hf => Sys2Proof.Machine.execLoad q cid addr len hf s
  | .start q cid => Sys2Proof.Machine.execStart q cid s
  | .preempt q cid => Sys2Proof.Machine.execPreempt q cid s
  | .resume q cid => Sys2Proof.Machine.execResume q cid s
  | .unload q cid => Sys2Proof.Machine.execUnload q cid s
  | .restart q cid addr len b hf => Sys2Proof.Machine.execRestart q cid addr len b hf s
  | .snapshot q cid t k => Sys2Proof.Machine.execSnapshot q cid t k s
  | .wipeOndie q cid => Sys2Proof.Machine.execWipeOndie q cid s
  | .ledgerRead q cid seq epoch count buf hf => Sys2Proof.Machine.execLedgerRead q cid seq epoch count buf hf s
  | .ledgerFreeze q cid ms unfreeze => Sys2Proof.Machine.execLedgerFreeze q cid ms unfreeze s
  | .ledgerClear q cid addr sigOk hf => Sys2Proof.Machine.execLedgerClear q cid addr sigOk hf s
  | .security q cid addr len sigOk hf => Sys2Proof.Machine.execSecurity q cid addr len sigOk hf s
  | .attest q cid nonce buf hf => Sys2Proof.Machine.execAttest q cid nonce buf hf s
  | .flashWrite q cid region addr len hf => Sys2Proof.Machine.execFlashWrite q cid region addr len hf s
  | .reset q cid key o => Sys2Proof.Machine.execReset q cid key o s
  | .hostCtrlReset key o => Sys2Proof.Machine.execHostCtrlReset key o s
  | .relock q cid => Sys2Proof.Machine.execRelock q cid s
  | .ready src => Sys2Proof.Machine.execReady src s
  | .go src time => Sys2Proof.Machine.execGo src time s
  | .abort src time => Sys2Proof.Machine.execAbort src time s
  | .startWindowExpiry => Sys2Proof.Machine.execStartWindowExpiry s
  | .preemptMsg src time => Sys2Proof.Machine.execPreemptMsg src time s
  | .drained src sent recv => Sys2Proof.Machine.execDrained src sent recv s
  | .quiesce src time => Sys2Proof.Machine.execQuiesce src time s
  | .resumeMsg src time => Sys2Proof.Machine.execResumeMsg src time s
  | .restored src => Sys2Proof.Machine.execRestored src s
  | .pcieLinkDown => Sys2Proof.Machine.execPcieLinkDown s
  | .hostPerstN => Sys2Proof.Machine.execHostPerstN s
  | .pwrFailN mv => Sys2Proof.Machine.execPwrFailN mv s
  | .powerLoopTick p10 p1ms mw tj volts rate => Sys2Proof.Machine.execPowerLoopTick p10 p1ms mw tj volts rate s
  | .energyAdd uj => Sys2Proof.Machine.execEnergyAdd uj s
  | .overtempSense field degrees => Sys2Proof.Machine.execOvertempSense field degrees s
  | .tripRailTimeout => Sys2Proof.Machine.execTripRailTimeout s
  | .railOutOfRange => Sys2Proof.Machine.execRailOutOfRange s
  | .timSnap => Sys2Proof.Machine.execTimSnap s
  | .tapReset => Sys2Proof.Machine.execTapReset s
  | .extest cells => Sys2Proof.Machine.execExtest cells s
  | .idcode => Sys2Proof.Machine.execIdcode s
  | .samplePreload cells => Sys2Proof.Machine.execSamplePreload cells s
  | .dap => Sys2Proof.Machine.execDap s
  | .dstat => Sys2Proof.Machine.execDstat s
  | .bypass => Sys2Proof.Machine.execBypass s
  | .dapRead addr => Sys2Proof.Machine.execDapRead addr s
  | .dapWrite addr data => Sys2Proof.Machine.execDapWrite addr data s
  | .dapNop => Sys2Proof.Machine.execDapNop s
  | .dbgCoreHalt core => Sys2Proof.Machine.execDbgCoreHalt core s
  | .dbgCoreResume core => Sys2Proof.Machine.execDbgCoreResume core s
  | .dbgCoreStep core => Sys2Proof.Machine.execDbgCoreStep core s
  | .dbgChalt => Sys2Proof.Machine.execDbgChalt s
  | .dbgCresume => Sys2Proof.Machine.execDbgCresume s
  | .dbgReset key o => Sys2Proof.Machine.execDbgReset key o s
  | .mboxSecurity len sigOk => Sys2Proof.Machine.execMboxSecurity len sigOk s
  | .mboxLedgerClear len sigOk => Sys2Proof.Machine.execMboxLedgerClear len sigOk s
  | .mboxFlashWrite region off len => Sys2Proof.Machine.execMboxFlashWrite region off len s
  | .mboxProvision => Sys2Proof.Machine.execMboxProvision s
  | .mboxCertWrite len => Sys2Proof.Machine.execMboxCertWrite len s
  | .registerWrite agent addr data => Sys2Proof.Machine.execRegisterWrite agent addr data s
  | .neighbourRetrain link => Sys2Proof.Machine.execNeighbourRetrain link s
  | .securingOpenComplete => Sys2Proof.Machine.execSecuringOpenComplete s
  | .pcieLinkUp rate width => Sys2Proof.Machine.execPcieLinkUp rate width s
  | .resetNRelease o => Sys2Proof.Machine.execResetNRelease o s

end Sys2Proof.Machine
end

