-- ==== Sys2Proof/Machine/Tick.lean ====
section
/-! DEFINITION. What happens when no command waits: one period of the reference oscillator passes (20 R582, R584; log entry 8). -/

namespace Sys2Proof.Machine

/-- The trim in 0.01 ppm. -/
def timTrim (s : State) : Int := signedOf 16 (regF s aTimTrim 15 0)

/-- The increment of the accumulator at a trim: 6.4 ns × (1 + trim) in units of 2^−32 ns. Which way an inexact one is rounded the spec does
not state: free. -/
def timeStepOf (trim : Int) : Nat :=
  let n := (64 * 2 ^ 32 * (10 ^ 8 + trim)).toNat
  n / 10 ^ 9 + b2n (n % 10 ^ 9 != 0 && Config.timeRoundsUp trim)

/-- The accumulator after one period. -/
def timeAdvance (s : State) : State := { s with tim := { s.tim with acc := (s.tim.acc + timeStepOf (timTrim s)) % 2 ^ 96 } }

/-- Whether a line of these bytes in GDDR7 finds its controller's window full (R302). -/
def runFull (s : State) (r : Nat × Nat) : Bool :=
  (linesOf r.1 r.2).any (fun l => placeOf (l * 64) == .gddr && decide ((smGet [] s.mem.win (mcOf (l * 64))).length ≥ 256))

/-- Whether a destination line in GDDR7 finds its controller's window full (R302). -/
def dstFull (s : State) (d : List Byte) : Bool := dDstKind d == 0 && (dMemRuns d).any (fun p => p.2.2 && runFull s (p.1, p.2.1))

/-- Whether another requester of the buffer's shared port is at work beside a copy that reads or writes the buffer: an operation in flight
that uses the port (R248; log entry 70). -/
def bankLost (c : Core) (d : List Byte) : Bool :=
  (dSrcKind d == 1 || dDstKind d == 1) && c.flight.any (fun o => (opTouches o).any (fun t => decide (t.2.2.2 < 5)))

/-- What holds back an LCU's oldest copy, by the codes of R283: data from GDDR7, data from the CXL tier or the host window, write acceptance,
the buffer's shared port, accumulator rows, watch slots. -/
def lcuCause (s : State) (c : Core) : Option Nat :=
  match c.lcu with
  | [] => none
  | q :: _ =>
    if q.failed then none
    else if q.active then
      (if !readsIn s q then some 0
       else if dSrcKind q.desc = 0 ∧ placeOf (dSrcRef q.desc) ≠ .gddr then some 1
       else if dstFull s q.desc then some 2
       else if bankLost c q.desc then some 3
       else none)
    else if copyHeld c q then some 4
    else if dGuard q.desc && !slotsFree s (envelope q.desc).1 (envelope q.desc).2 then some 5
    else none

/-- Whether a packet of an owner stands at the head of an output queue whose lane lacks the credits for it (R334). -/
def creditHeld (s : State) (o : Owner → Bool) : Bool :=
  let ps := s.fab.tx.flatMap (fun p => (p.2.air.filter (fun q => o q.owner)).map (fun q => q.pkt))
  !ps.isEmpty && s.fab.links.any (fun l => l.2.q.any (fun q =>
    (match q.2 with | ⟨.pkt p, _, _, _⟩ :: _ => ps.contains p | _ => false) && !laneReady s l.2 q.1))

/-- Whether a local source lies in the CXL tier or the host window. -/
def srcFar (p : Plan) : Bool := (localRuns p.pieces).any (fun r => match placeOf r.1 with | .cxl _ => true | .host => true | _ => false)

/-- The local destination bytes of an operation. -/
def opLands (s : State) (k : Nat) (o : CeOp) : List (Nat × Nat) :=
  (opDest s k o).filterMap (fun w => match w.1 with | .here a => some (a, w.2) | _ => none)

/-- What holds back an engine's oldest operation, by the codes of R283: data from GDDR7, data from the CXL tier or the host window, write
acceptance, watch slots, credits, a remote module. -/
def ceCause (s : State) (k : Nat) (e : Engine) : Option Nat :=
  match e.ops.find? (fun o => takesSlot o && !o.completed) with
  | none => none
  | some o =>
    if o.failed then none
    else if !o.started then (if decide (o.kind = .copy) && !planSlots s (xstrPlan s o.desc) then some 5 else none)
    else if creditHeld s (isOwner k o.uid) then some 6
    else if ownerBusy s (isOwner k o.uid) then some 7
    else if (if opMoves o then !opReadsIn s (opPlan s o) else o.kind == .col && runsPend s (stepLocal (colOf s k o) o.step)) then some 0
    else if opMoves o && srcFar (opPlan s o) then some 1
    else if (opLands s k o).any (runFull s) then some 2
    else none

/-- Whether an issued MMUL, MLD or MSWAP waits inside the array (R99, R100, R111, R113), the order of the passes apart. -/
def arrayWaits (c : Core) : Bool :=
  c.flight.any (fun o => match o.body with
    | .m (.mmul _ _ _ _ _ _ _ _ _ _ _) => !o.started && !passFree c o
    | .m (.mld _ _ _) => mldHeld c o
    | .m .mswap => !canComplete c o
    | _ => false)

/-- The ns counters of a core whose conditions hold (R105, R141, R215, R286). -/
def coreCounts (s : State) (p : Nat × Core) : List Nat :=
  let at5 (k : Nat) : Bool := decide (p.2.st = .waiting) && decide (p.2.wait = 5) && bitOf p.2.cause k
  (if at5 1 then [aCmbStall p.1] else []) ++ (if at5 3 then [aVecWait p.1] else []) ++ (if arrayWaits p.2 then [aArrWait p.1] else [])
  ++ (match lcuCause s p.2 with | some c => [aLcuStall p.1 c] | none => [])

/-- Every ns counter whose condition holds (R73, R395, R597 and those of the cores). -/
def nsCounts (s : State) : List Nat :=
  (if bitOf (reg s aPwr).toNat 1 then [aPwr + 0x38] else [])
  ++ (if s.cores.any (fun p => decide (p.2.st = .waiting) && decide (p.2.wait = 5) && bitOf p.2.cause 6) then [aPwr + 0x30] else [])
  ++ (if decide (s.seq.st = .running) && paceHeld s then [aSeqPaceStall] else [])
  ++ s.cores.flatMap (coreCounts s)
  ++ s.ce.flatMap (fun p => match ceCause s p.1 p.2 with | some c => [aCe p.1 + 0x30 + 8 * c] | none => [])

/-- Counters of ns advanced in the registers, with their sticky overflow bits. -/
def nsAdd (ns : Nat) (as : List Nat) (regs : SMap Word64) : SMap Word64 :=
  as.foldl (fun r a => smSet 0 r a (ctrAdd (smGet 0 r a) ns)) regs

/-- Counters that count ns of a condition, and USE_ACTIVE (R504). -/
def timeCount (s : State) (ns : Nat) : State :=
  { s with
    regs := nsAdd ns (nsCounts s) s.regs
    ldg := windowPass s (now s - ns) (now s) (if s.seq.st = .running ∨ s.seq.st = .halting then ns else 0) }

/-- One period: the time base advances while there is power, then the deadlock detector looks at the module (R240). -/
def tick (s : State) : State :=
  if s.pwr.rails = .off then s
  else
    let s1 := timeAdvance s
    detTick (timeCount s1 (now s1 - now s))

end Sys2Proof.Machine
end

