-- ==== Sys2Proof/Safety.lean ====
section
/-! DEFINITION. The terms in which statements speak: when a slot command issues, what is fixed at manufacture, what fuses may do, and the
canonical form of the module's memories. -/

namespace Sys2Proof.Machine

/-! ### Slot commands -/

/-- The core and the slots that a slot command stands for (log entry 7). -/
def slotsOf (i : Instr) : Option (Nat × Slots) :=
  match i with
  | .mld core h tile tag turn => some (core, { m := .mld tile tag turn, mh := h })
  | .mswap core h => some (core, { m := .mswap, mh := h })
  | .mmul core h ar off rows1 dest fmt acc depth1 cols1 rs sar =>
    some (core, { m := .mmul false ar off rows1 dest fmt acc depth1 cols1 rs sar, mh := h })
  | .mmulz core h ar off rows1 dest fmt acc depth1 cols1 rs sar =>
    some (core, { m := .mmul true ar off rows1 dest fmt acc depth1 cols1 rs sar, mh := h })
  | .mdrain core h first rows1 tile tag mode rnd ar off kind =>
    some (core, { m := .mdrain first rows1 tile tag mode rnd ar off kind, mh := h })
  | .mtopk core h first rows1 vt vg pt pg k1 base kind => some (core, { m := .mtopk first rows1 vt vg pt pg k1 base kind, mh := h })
  | .vop core h v => some (core, { vop := .vop, v := v, vh := h })
  | .vcvt core h v => some (core, { vop := .vcvt, v := v, vh := h })
  | .vred core h v => some (core, { vop := .vred, v := v, vh := h })
  | .vscale core h v => some (core, { vop := .vscale, v := v, vh := h })
  | .vrq core h v => some (core, { vop := .vrq, v := v, vh := h })
  | .vfn core h v => some (core, { vop := .vfn, v := v, vh := h })
  | .vsrKey core h v => some (core, { vop := .vsr, v := { v with fn := 0 }, vh := h })
  | .vsrDraw core h v => some (core, { vop := .vsr, v := { v with fn := 1 }, vh := h })
  | .vadam core h v => some (core, { vop := .vadam, v := v, vh := h })
  | .tcfg core h tile tag rows1 elems1 fmt => some (core, { t := .tcfg tile tag rows1 elems1 fmt, th := h })
  | .tld core h tile tag ar off pitch => some (core, { t := .tld tile tag ar off pitch, th := h })
  | .tst core h tile tag ar off pitch => some (core, { t := .tst tile tag ar off pitch, th := h })
  | .tmov core h dst dtag src stag => some (core, { t := .tmov dst dtag src stag, th := h })
  | .tzero core h tile tag => some (core, { t := .tzero tile tag, th := h })
  | .txp core h dst dtag src stag => some (core, { t := .txp dst dtag src stag, th := h })
  | .xloc core h ar off => some (core, { x := .xloc ar off, xh := h })
  | .xstr core h ar off ctx => some (core, { x := .xstr ar off ctx, xh := h })
  | .xcol core h ar off ctx => some (core, { x := .xcol ar off ctx, xh := h })
  | .xwatchArm core h ar off => some (core, { x := .xwatch ar off, xh := h })
  | .xwatchRelease core h ar off => some (core, { x := .xwatch ar off, xh := h })
  | .xfence core h a b c d => some (core, { x := .xfence a b c d, xh := h })
  | .sinc core p ctr n => some (core, { s := .sinc ctr n, sp := p })
  | .swait core p ctr n => some (core, { s := .swait ctr n, sp := p })
  | .sdec core p ctr n => some (core, { s := .sdec ctr n, sp := p })
  | .ssig core p ar off => some (core, { s := .ssig ar off, sp := p })
  | .sbar core p g n => some (core, { s := .sbar g n, sp := p })
  | .cbr core p n => some (core, { c := .cbr n, cp := p })
  | .cadd core p dst src imm => some (core, { c := .cadd dst src imm, cp := p })
  | .cset core p k1 ar sub pdst imm => some (core, { c := if k1 then .csetPred ar sub pdst imm else .csetReg ar sub imm, cp := p })
  | _ => none

/-- What a slot command finds at the core: nothing of R39's steps 2 to 6 stands against it, and no memory word has gone bad unseen. -/
structure SlotIssues (s : State) (core : Nat) (sl : Slots) : Prop where
  enabled : coreOk s core = true
  runs : coreRuns s (getCore s core) = true
  operands : operandBad sl = false
  uniform : uniformBad sl = false
  passes2 : step2 s core (getCore s core) (soloBundle (getCore s core) s.seq.ctx) (getCore s core).nextPos (getCore s core).nextIdx
    (effSlots (getCore s core).p sl) = none
  passes3 : step3Ok (getCore s core) (effSlots (getCore s core).p sl).s = true
  passes4 : step4Waits s core (getCore s core) false (effSlots (getCore s core).p sl) = false
  passes5 : step5Cause s (getCore s core) (effSlots (getCore s core).p sl) = 0
  passes6 : check6 s (getCore s core) (effSlots (getCore s core).p sl) = none
  sound : s.mem.upsets = []

/-- The state right after the issue of a slot command (R40). -/
def issuedBy (s : State) (core : Nat) (sl : Slots) : State :=
  issueAll s core (soloBundle (getCore s core) s.seq.ctx) (getCore s core).nextPos (getCore s core).nextIdx
    (effSlots (getCore s core).p sl)

/-- A done field that counts finds its counter below 65,535, so that it does not saturate (R24, R219). -/
def DoneFits (s : State) (core : Nat) (h : Hdr) : Prop :=
  h.done.toNat < 48 → (smGet 0 (getCore s core).s h.done.toNat).toNat < 65535

/-- The sync counters of a core after a done field has counted (R24). -/
def doneTo (m : SMap Word16) (done : BitVec 6) : SMap Word16 :=
  if done.toNat < 48 then smSet 0 m done.toNat (smGet 0 m done.toNat + 1) else m

/-- What a program has put into a core: its registers, predicates, tile registers with their shapes, buffer, accumulator rows, array sets,
Mint key, trace word, copies, fences, watches and cache lines. Left out: the place in the stream, operations in flight, latches,
sync counters, the times of passes, and what the debug port holds. -/
def plain (c : Core) : Core :=
  { c with
    st := .idle, wait := 0, cause := 0, nextPos := 0, nextIdx := 0, loops := [], ahead := none, finish := false, readers := [], skips := [], arrived := none, passAt := 0, passNs := 0
    token := false, flight := [], nextOrd := 0, nextChain := 0, closed := [], replay := [], latches := [], s := []
    dbgHalt := false, dbgStep := false, dbgCause := 0, dbgK := 0, dbgAgent := 0, dbgOff := 0 }

/-- The core as it issues (R40). -/
def issuing (c : Core) : Core := { c with st := .issuing, wait := 0, cause := 0 }

/-- The operation that a slot command puts into flight, with what it captures (R90). -/
def opOf (s : State) (core : Nat) (b : OpBody) (h : Hdr) (a1 a2 : Word64) : FOp :=
  launchOp (issuing (getCore s core)) b h (getCore s core).nextIdx a1 a2

/-- A slot command issues, its predicate is true, nothing else is in flight in its core, and its done field can count. -/
structure RunsAlone (s : State) (core : Nat) (sl : Slots) (h : Hdr) : Prop where
  issues : SlotIssues s core sl
  pred : predTrue (getCore s core).p h.pred = true
  alone : (getCore s core).flight = []
  done : DoneFits s core h

/-- The core ends as `c` in all that a program has put into it, its done field has counted, and nothing is in flight. -/
structure EndsAs (s t : State) (core : Nat) (h : Hdr) (c : Core) : Prop where
  plain_eq : plain (getCore t core) = plain c
  done_eq : (getCore t core).s = doneTo (getCore s core).s h.done
  rest : (getCore t core).flight = []

/-! ### What no command changes -/

/-- What is fixed when the module leaves manufacture (R2, R76). -/
def madeAs (s t : State) : Prop := t.part832 = s.part832 ∧ t.repair = s.repair

/-- Fuses are burned and never restored (R508, R512, R516, R521). -/
def fusesGrow (f g : Fuses) : Prop :=
  g.secret = f.secret ∧ g.root = f.root ∧ (f.provisioned = true → g.provisioned = true) ∧ (f.retired = true → g.retired = true) ∧
  (f.revoked &&& g.revoked) = f.revoked

/-- The commands that write none of GDDR7, the CXL tier, flash, the configuration block and the fuses. -/
def leavesMemory (i : Instr) : Bool :=
  match i with
  | .bundleFetch | .bundleMulticast | .bundleIssue .. | .mld .. | .mswap .. | .mmul .. | .mmulz .. | .mdrain .. | .mtopk .. | .passStart ..
  | .chainCommit .. | .operationCommit .. | .vop .. | .vcvt .. | .vred .. | .vscale .. | .vrq .. | .vfn .. | .vsrKey .. | .vsrDraw ..
  | .vadam .. | .tcfg .. | .tld .. | .tst .. | .tmov .. | .tzero .. | .txp .. | .xloc .. | .xstr .. | .xcol .. | .xwatchArm ..
  | .xwatchRelease .. | .xfence .. | .sinc .. | .swait .. | .sdec .. | .ssig .. | .sbar .. | .cloop .. | .cbr .. | .cvar .. | .cadd ..
  | .cset .. | .cmark .. | .chalt .. | .trainingStepCommit | .seqTablePoll | .seqRun | .seqHalt | .haltTimeout .. | .seqResume
  | .barrierRelease .. | .blockedReport .. | .withdraw .. | .jobDeadlockMessage .. | .mcRequest .. | .gddr7Scrub ..
  | .cxlPortDown .. | .sanitizeComplete .. | .sanitizeTimeout .. | .trainingAttemptEnd .. | .hello .. | .laneUnhealthy .. | .retrainLock ..
  | .retrainTimeout .. | .flitSend .. | .idleFlit .. | .nak .. | .nackResend .. | .syncExchangeTimer | .syncReq .. | .syncRsp ..
  | .holdoverExpiry | .ppsEdge | .ppsTimeout | .collectiveRelease .. | .ceRetryGo .. | .snapRequest .. | .heartbeatSend | .heartbeat ..
  | .report .. | .reportResendTimeout | .plan .. | .restoreComplete | .permit .. | .securingCopiesComplete | .securingCloseComplete
  | .genDone .. | .ledgerClearComplete | .accountingWindowBoundary | .ldgFreeze .. | .unfreeze | .freezeExpiry
  | .ledgerQuery .. | .ledgerAnswer .. | .bootWdogKick | .hostSqTail .. | .hostCqHead .. | .hostQcfg .. | .start ..
  | .resume .. | .snapshot .. | .ledgerRead .. | .ledgerFreeze .. | .ledgerClear .. | .attest .. | .ready .. | .go .. | .abort ..
  | .startWindowExpiry | .resumeMsg .. | .restored .. | .pcieLinkDown | .hostPerstN | .powerLoopTick .. | .energyAdd .. | .overtempSense ..
  | .railOutOfRange | .timSnap | .tapReset | .extest .. | .idcode | .samplePreload .. | .dap | .dstat | .bypass | .dapRead .. | .dapNop
  | .dbgCoreHalt .. | .dbgCoreResume .. | .dbgCoreStep .. | .dbgChalt | .dbgCresume | .mboxLedgerClear .. | .neighbourRetrain ..
  | .securingOpenComplete | .pcieLinkUp .. => true
  | _ => false

/-- A core's stores and its row mapping are in their canonical form. -/
def coreWf (c : Core) : Bool := c.comb.wf && c.buf.wf && c.acc.wf && smWf false c.flips

/-- The byte memories of the module, those of its cores among them, are in their canonical form. -/
def memoryWf (s : State) : Bool :=
  s.mem.gddr.wf && s.mem.cxl.wf && s.mem.host.wf && s.nor.wf && s.dbg.mbox.wf
  && s.cores.all (fun p => coreWf p.2)

/-- The chip registers are in their canonical form. -/
def regsWf (s : State) : Bool := smWf 0 s.regs

/-- No collective has lost a member, and no packet lost to one is still to be answered for (R392). -/
def noneLost (s : State) : Bool := s.ce.all (fun p => p.2.ops.all (fun o => !o.memberLost)) && s.fab.lostDst.isEmpty

/-- No read of another module waits to be served here, and none holds watch slots (R339). -/
def noServed (s : State) : Bool :=
  s.fab.serve.isEmpty && s.mem.watch.all (fun w => match w.who with | .remote _ _ => false | _ => true)

end Sys2Proof.Machine
end

