-- ==== Sys2Proof/Certificates/Slice0/Obligations.lean ====
section
/-! DEFINITION. The statements for the provers, by family: slots, the stream, steps and halts, rendezvous, failures, synchronisation, packets, links,
time, copies, engines, memory, Ledger, security, start-up, host, power, debug port, and the block as a whole. A docstring names the rules of the
spec that its statement rests on. -/

open Sys2Proof Sys2Proof.Machine
/-! ### Slots -/

/-- R39, R40: a slot command that nothing stands against answers the state after its issue and the completion of its operations. -/
def Obligations.SlotCommandIssues : Prop :=
  ∀ (s : State) (i : Instr) (core : Nat) (sl : Slots), slotsOf i = some (core, sl) → SlotIssues s core sl →
    exec i s = .next (settleUnit core 64 (issuedBy s core sl))

/-- R26: a slot whose predicate is false becomes a NOP: nothing that a program has put into the core changes. The forms whose slot carries a
predicate and a done field are named; R36 keeps predicates off CVAR, CHALT and marks of kinds 1 and 2. -/
def Obligations.FalsePredicateIsNop : Prop :=
  ∀ (s : State) (i : Instr) (core : Nat) (sl : Slots), slotsOf i = some (core, sl) → SlotIssues s core sl →
    (getCore s core).flight = [] →
    effSlots (getCore s core).p sl = { sl with m := .nop, vop := .vnop, t := .nop, x := .nop, s := .nop, c := .nop } →
    ∃ t, exec i s = .next t ∧ plain (getCore t core) = plain (getCore s core) ∧ (getCore t core).s = (getCore s core).s ∧
      (getCore t core).flight = [] ∧ t.mem = s.mem ∧ t.fab = s.fab ∧ t.ce = s.ce ∧ t.regs = s.regs

/-- R41: a slot command with a field value outside its range takes BUNDLE_OPERAND, whatever its predicate; R36: a mark of
kind 1 with a predicate takes BUNDLE_UNIFORM. -/
def Obligations.SlotOperandFaults : Prop :=
  (∀ (s : State) (i : Instr) (core : Nat) (sl : Slots), slotsOf i = some (core, sl) → coreOk s core = true →
    coreRuns s (getCore s core) = true → operandBad sl = true →
    exec i s = .next (coreFault s core (getCore s core).nextIdx 0x1004)) ∧
  (∀ (s : State) (core : Nat) (p : BitVec 4) (v : BitVec 32), coreOk s core = true → coreRuns s (getCore s core) = true → p ≠ 0 →
    exec (.cmark core p 1 v) s = .next (coreFault s core (getCore s core).nextIdx 0x1006))

/-- T slot results (R30, R80, R88, R644): TZERO clears the 8,192 bytes of its register, TMOV copies rows, TXP transposes, TLD and TST move
rows from and to the buffer at their pitch; nothing else of the core changes. -/
def Obligations.TileUnitResults : Prop :=
  (∀ (s : State) (core : Nat) (h : Hdr) (tile : BitVec 5) (tag : BitVec 4),
    RunsAlone s core { t := .tzero tile tag, th := h } h →
    ∃ t, exec (.tzero core h tile tag) s = .next t ∧
      EndsAs s t core h { getCore s core with comb := memWrites (getCore s core).comb (tile.toNat * 8192) (zeros 8192) }) ∧
  (∀ (s : State) (core : Nat) (h : Hdr) (dst : BitVec 5) (dtag : BitVec 4) (src : BitVec 5) (stag : BitVec 4),
    RunsAlone s core { t := .tmov dst dtag src stag, th := h } h →
    ∃ t, exec (.tmov core h dst dtag src stag) s = .next t ∧
      EndsAs s t core h (tileWrite (getCore s core) dst.toNat (shapeOf (getCore s core) dst.toNat)
        ((List.range (shapeOf (getCore s core) src.toNat).rows).map
          (fun r => tileRow (getCore s core) src.toNat (shapeOf (getCore s core) src.toNat) r)))) ∧
  (∀ (s : State) (core : Nat) (h : Hdr) (dst : BitVec 5) (dtag : BitVec 4) (src : BitVec 5) (stag : BitVec 4),
    RunsAlone s core { t := .txp dst dtag src stag, th := h } h →
    ∃ t, exec (.txp core h dst dtag src stag) s = .next t ∧
      EndsAs s t core h (tileWrite (getCore s core) dst.toNat (shapeOf (getCore s core) dst.toNat)
        ((List.range (shapeOf (getCore s core) src.toNat).elems).map (fun e =>
          leBytes (elemBytes (shapeOf (getCore s core) dst.toNat).fmt (shapeOf (getCore s core) dst.toNat).elems)
            (packCodes (fmtBits (shapeOf (getCore s core) dst.toNat).fmt)
              ((List.range (shapeOf (getCore s core) src.toNat).rows).map (fun r =>
                (vCodes (getCore s core) src.toNat (shapeOf (getCore s core) src.toNat) r).getD e 0))))))) ∧
  (∀ (s : State) (core : Nat) (h : Hdr) (tile : BitVec 5) (tag areg : BitVec 4) (off : BitVec 16) (pitch : BitVec 12),
    RunsAlone s core { t := .tld tile tag areg off pitch, th := h } h →
    (∀ u, smGet false (getCore s core).bufPoison u = false) →
    ∃ t, exec (.tld core h tile tag areg off pitch) s = .next t ∧
      EndsAs s t core h (tileWrite (getCore s core) tile.toNat (shapeOf (getCore s core) tile.toNat)
        ((List.range (shapeOf (getCore s core) tile.toNat).rows).map (fun r =>
          bufRead (getCore s core) ((resolve (getCore s core) areg off).toNat + r * tPitch (shapeOf (getCore s core) tile.toNat) pitch.toNat)
            (rowPayload (shapeOf (getCore s core) tile.toNat).fmt (shapeOf (getCore s core) tile.toNat).elems))))) ∧
  (∀ (s : State) (core : Nat) (h : Hdr) (tile : BitVec 5) (tag areg : BitVec 4) (off : BitVec 16) (pitch : BitVec 12),
    RunsAlone s core { t := .tst tile tag areg off pitch, th := h } h →
    ∃ t, exec (.tst core h tile tag areg off pitch) s = .next t ∧
      EndsAs s t core h (bufPieces (getCore s core)
        ((List.range (shapeOf (getCore s core) tile.toNat).rows).map (fun r =>
          ((resolve (getCore s core) areg off).toNat + r * tPitch (shapeOf (getCore s core) tile.toNat) pitch.toNat,
            tileRow (getCore s core) tile.toNat (shapeOf (getCore s core) tile.toNat) r, false)))))

/-- R30, R82, R83: TCFG gives its register the shape it names at once; the register's bytes keep their values. -/
def Obligations.TileConfigResult : Prop :=
  ∀ (s : State) (core : Nat) (h : Hdr) (tile : BitVec 5) (tag : BitVec 4) (rows1 : BitVec 6) (elems1 : BitVec 10) (fmt : BitVec 4),
    RunsAlone s core { t := .tcfg tile tag rows1 elems1 fmt, th := h } h →
    ∃ t, exec (.tcfg core h tile tag rows1 elems1 fmt) s = .next t ∧
      EndsAs s t core h { getCore s core with
        shapes := smSet Shape.none (getCore s core).shapes tile.toNat ⟨tag.toNat, fmt.toNat, rows1.toNat + 1, elems1.toNat + 1⟩ }

/-- V slot results (R28, R92, R196): VOP, VCVT, VRED, VSCALE, VRQ, VFN and VSR DRAW commit the rows of their operation to the destination
register and change nothing else of the core. -/
def Obligations.VectorUnitResults : Prop :=
  ∀ (s : State) (core : Nat) (h : Hdr) (v w : VArgs) (op : VOpc) (i : Instr),
    (i = .vop core h v ∧ op = .vop ∧ w = v) ∨ (i = .vcvt core h v ∧ op = .vcvt ∧ w = v) ∨ (i = .vred core h v ∧ op = .vred ∧ w = v) ∨
    (i = .vscale core h v ∧ op = .vscale ∧ w = v) ∨ (i = .vrq core h v ∧ op = .vrq ∧ w = v) ∨ (i = .vfn core h v ∧ op = .vfn ∧ w = v) ∨
    (i = .vsrDraw core h v ∧ op = .vsr ∧ w = { v with fn := 1 }) →
    RunsAlone s core { vop := op, v := w, vh := h } h →
    vrqBad (issuedBy s core { vop := op, v := w, vh := h }) core (opOf s core (.v op w) h 0 0) op w = false →
    ∃ t, exec i s = .next t ∧
      EndsAs s t core h (tileWrite (getCore s core) w.dst.toNat (capShape (opOf s core (.v op w) h 0 0) w.dst.toNat)
        (vRows (issuedBy s core { vop := op, v := w, vh := h }) core (opOf s core (.v op w) h 0 0) op w).1)

/-- R208, R209: VSR KEY puts the tensor ID, pitch and base of its a-registers into the core's Mint key and keeps its step. -/
def Obligations.MintKeyResult : Prop :=
  ∀ (s : State) (core : Nat) (h : Hdr) (v : VArgs), RunsAlone s core { vop := .vsr, v := { v with fn := 0 }, vh := h } h →
    ∃ t, exec (.vsrKey core h v) s = .next t ∧
      EndsAs s t core h { getCore s core with key :=
        ⟨(getCore s core).key.step,
         (smGet 0 (getCore s core).a (v.imm.toNat % 16)).extractLsb' 0 32,
         (smGet 0 (getCore s core).a (v.imm.toNat % 16)).extractLsb' 32 32,
         (smGet 0 (getCore s core).a (v.imm.toNat / 16 % 16)).extractLsb' 0 48⟩ }

/-- R89, R108, R112: MLD loads the shadow set from its tile with the record of R89; MSWAP exchanges the sets; nothing else of the core changes. -/
def Obligations.StationarySetResults : Prop :=
  (∀ (s : State) (core : Nat) (h : Hdr) (tile : BitVec 5) (tag : BitVec 4) (turn : Bool),
    RunsAlone s core { m := .mld tile tag turn, mh := h } h →
    ∃ t, exec (.mld core h tile tag turn) s = .next t ∧
      EndsAs s t core h { getCore s core with shd :=
        { mldRecord (shapeOf (getCore s core) tile.toNat) turn with
          data := tileAll (getCore s core) tile.toNat (shapeOf (getCore s core) tile.toNat) } }) ∧
  (∀ (s : State) (core : Nat) (h : Hdr), RunsAlone s core { m := .mswap, mh := h } h →
    ∃ t, exec (.mswap core h) s = .next t ∧
      EndsAs s t core h { getCore s core with act := (getCore s core).shd, shd := (getCore s core).act })
/-- R130 to R132, R134, R179, R184, R187: MDRAIN commits the drained rows to its tile register (mode 0: converted; mode 1: scaled by the row,
with the scale vector in the buffer; mode 2: requantised by the table of 64 entries); MTOPK commits the k largest values of each row and
their positions. No accumulator row changes. -/
def Obligations.AccumulatorReadResults : Prop :=
  (∀ (s : State) (core : Nat) (h : Hdr) (first rows1 : BitVec 11) (tile : BitVec 5) (tag : BitVec 4) (rnd : BitVec 2) (areg : BitVec 4)
      (off : BitVec 16) (kind : BitVec 2),
    RunsAlone s core { m := .mdrain first rows1 tile tag 0 rnd areg off kind, mh := h } h →
    (∀ j, accBad (getCore s core) j = false) →
    ∃ t, exec (.mdrain core h first rows1 tile tag 0 rnd areg off kind) s = .next t ∧
      EndsAs s t core h (tileWrite (getCore s core) tile.toNat (shapeOf (getCore s core) tile.toNat)
        ((List.range (rows1.toNat + 1)).map (fun i =>
          packRow (shapeOf (getCore s core) tile.toNat).fmt
            ((srcVals (getCore s core) kind.toNat (first.toNat + i)).zip
              (wordsFor s core (opOf s core (.m (.mdrain first rows1 tile tag 0 rnd areg off kind)) h (resolve (getCore s core) areg off) 0)
                rnd i 64)) rnd.toNat)))) ∧
  (∀ (s : State) (core : Nat) (h : Hdr) (first rows1 : BitVec 11) (tile : BitVec 5) (tag : BitVec 4) (rnd : BitVec 2) (areg : BitVec 4)
      (off : BitVec 16) (kind : BitVec 2),
    RunsAlone s core { m := .mdrain first rows1 tile tag 1 rnd areg off kind, mh := h } h →
    (∀ j, accBad (getCore s core) j = false) →
    (shapeOf (getCore s core) tile.toNat).fmt = 3 ∨ (shapeOf (getCore s core) tile.toNat).fmt = 4 →
    ∃ t, exec (.mdrain core h first rows1 tile tag 1 rnd areg off kind) s = .next t ∧
      EndsAs s t core h (bufPieces (tileWrite (getCore s core) tile.toNat (shapeOf (getCore s core) tile.toNat)
        ((List.range (rows1.toNat + 1)).map (fun i =>
          leBytes (elemBytes (shapeOf (getCore s core) tile.toNat).fmt 64) (packCodes (fmtBits (shapeOf (getCore s core) tile.toNat).fmt)
            (scaleRow8 (shapeOf (getCore s core) tile.toNat).fmt
              (rowScale8 (shapeOf (getCore s core) tile.toNat).fmt (swin s core).1 (swin s core).2
                (srcVals (getCore s core) kind.toNat (first.toNat + i)))
              ((srcVals (getCore s core) kind.toNat (first.toNat + i)).zip
                (wordsFor s core (opOf s core (.m (.mdrain first rows1 tile tag 1 rnd areg off kind)) h (resolve (getCore s core) areg off) 0)
                  rnd i 64)) rnd.toNat)))))
        [((resolve (getCore s core) areg off).toNat,
          (List.range (rows1.toNat + 1)).flatMap (fun i => leBytes 1 (scaleByte8
            (rowScale8 (shapeOf (getCore s core) tile.toNat).fmt (swin s core).1 (swin s core).2
              (srcVals (getCore s core) kind.toNat (first.toNat + i))))), false)])) ∧
  (∀ (s : State) (core : Nat) (h : Hdr) (first rows1 : BitVec 11) (tile : BitVec 5) (tag : BitVec 4) (rnd : BitVec 2) (areg : BitVec 4)
      (off : BitVec 16) (kind : BitVec 2),
    RunsAlone s core { m := .mdrain first rows1 tile tag 2 rnd areg off kind, mh := h } h →
    (∀ j, accBad (getCore s core) j = false) → (∀ u, smGet false (getCore s core).bufPoison u = false) →
    (∀ j, j < 64 → reqOk (shapeOf (getCore s core) tile.toNat).fmt
      (reqEntry (slice (bufRead (getCore s core) (resolve (getCore s core) areg off).toNat 1024) (16 * j) 16)) = true) →
    ∃ t, exec (.mdrain core h first rows1 tile tag 2 rnd areg off kind) s = .next t ∧
      EndsAs s t core h (tileWrite (getCore s core) tile.toNat (shapeOf (getCore s core) tile.toNat)
        ((List.range (rows1.toNat + 1)).map (fun i =>
          leBytes (elemBytes (shapeOf (getCore s core) tile.toNat).fmt 64) (packCodes (fmtBits (shapeOf (getCore s core) tile.toNat).fmt)
            ((((srcVals (getCore s core) kind.toNat (first.toNat + i)).zip
                (wordsFor s core (opOf s core (.m (.mdrain first rows1 tile tag 2 rnd areg off kind)) h (resolve (getCore s core) areg off) 0)
                  rnd i 64)).zip
              ((List.range 64).map (fun j =>
                reqEntry (slice (bufRead (getCore s core) (resolve (getCore s core) areg off).toNat 1024) (16 * j) 16)))).map
              (fun q => requant (shapeOf (getCore s core) tile.toNat).fmt q.2 q.1.1 rnd.toNat q.1.2))))))) ∧
  (∀ (s : State) (core : Nat) (h : Hdr) (first rows1 : BitVec 11) (vt : BitVec 5) (vg : BitVec 4) (pt : BitVec 5) (pg k1 : BitVec 4)
      (base : BitVec 24) (kind : BitVec 2),
    RunsAlone s core { m := .mtopk first rows1 vt vg pt pg k1 base kind, mh := h } h →
    (∀ j, accBad (getCore s core) j = false) →
    ∃ t, exec (.mtopk core h first rows1 vt vg pt pg k1 base kind) s = .next t ∧
      EndsAs s t core h (tileWrite (tileWrite (getCore s core) vt.toNat (shapeOf (getCore s core) vt.toNat)
          ((List.range (rows1.toNat + 1)).map (fun i => packRow (shapeOf (getCore s core) vt.toNat).fmt
            (((ranked ((rankVals (getCore s core) kind.toNat (first.toNat + i)).zip (List.range 64))).take (k1.toNat + 1)).map
              (fun x => ((srcVals (getCore s core) kind.toNat (first.toNat + i)).getD x.2 .nan, 0))) 0)))
        pt.toNat (shapeOf (getCore s core) pt.toNat)
          ((List.range (rows1.toNat + 1)).map (fun i => leBytes (4 * (k1.toNat + 1)) (packCodes 32
            (((ranked ((rankVals (getCore s core) kind.toNat (first.toNat + i)).zip (List.range 64))).take (k1.toNat + 1)).map
              (fun x => (base.toNat + x.2) % 2 ^ 24)))))))

/-- R98, R99, R100, R125, R137: MMUL and MMULZ combine the streamed rows with the active set into the destination rows, one FP32 row of 256
bytes after the other, and commit; accumulator rows in other pairs, the sets, tile registers and the buffer keep their values. -/
def Obligations.MatrixMultiplyResult : Prop :=
  ∀ (s : State) (core : Nat) (h : Hdr) (zero : Bool) (areg : BitVec 4) (off : BitVec 16) (rows1 dest : BitVec 11) (fmt : BitVec 4)
      (acc : BitVec 3) (depth1 cols1 : BitVec 6) (rs : Bool) (sareg : BitVec 4) (i : Instr),
    (i = if zero then .mmulz core h areg off rows1 dest fmt acc depth1 cols1 rs sareg
         else .mmul core h areg off rows1 dest fmt acc depth1 cols1 rs sareg) →
    RunsAlone s core { m := .mmul zero areg off rows1 dest fmt acc depth1 cols1 rs sareg, mh := h } h →
    (∀ u, smGet false (getCore s core).bufPoison u = false) → (∀ j, accBad (getCore s core) j = false) →
    (getCore s core).act.faulty = false → (getCore s core).lcu = [] → coreWf (getCore s core) = true →
    let c := getCore s core
    let zp := if rs = false ∧ fmtInt fmt.toNat = true ∧ sareg = 0 then 0 else (smGet 0 c.a sareg.toNat).toNat
    let p : Pass := ⟨zero, fmt.toNat, rows1.toNat + 1, acc.toNat, cols1.toNat + 1, depth1.toNat + 1, rs, zp⟩
    let r := fpRows (accTally acc) dest.toNat (rows1.toNat + 1)
    let region := bufRead c (resolve c areg off).toNat ((rows1.toNat + 1) * lineBytes fmt.toNat)
    let scales := if rs then bufRead c (smGet 0 c.a sareg.toNat).toNat (rows1.toNat + 1) else []
    let work := (passRows p c.act region scales (workRows c r.1 r.2 (rowUnits acc.toNat))).flatten
    ∃ t, exec i s = .next t ∧
      (∀ k, k < r.2 → accRow (getCore t core) (r.1 + k) = slice work (256 * k) 256) ∧
      (∀ j, (∀ k, k < r.2 → j % 1024 ≠ (r.1 + k) % 1024) → accRow (getCore t core) j = accRow c j) ∧
      EndsAs s t core h { c with acc := (getCore t core).acc, accPoison := (getCore t core).accPoison, flips := (getCore t core).flips
                                 gatedRem := (getCore t core).gatedRem, maskedRem := (getCore t core).maskedRem }

/-- R210, R211, R214: VADAM updates weights, first and second moments in their three registers by the parameter block at its address; with
skip set it changes no register. -/
def Obligations.OptimiserResult : Prop :=
  (∀ (s : State) (core : Nat) (h : Hdr) (v : VArgs), RunsAlone s core { vop := .vadam, v := v, vh := h } h →
    (∀ u, smGet false (getCore s core).bufPoison u = false) →
    let c := getCore s core
    let bs := bufRead c (smGet 0 c.a (v.imm.toNat % 16)).toNat 64
    (slice bs 36 28).all (fun b => b == 0) = true → (adamBlock bs).skip = true →
    ∃ t, exec (.vadam core h v) s = .next t ∧ EndsAs s t core h c) ∧
  (∀ (s : State) (core : Nat) (h : Hdr) (v : VArgs), RunsAlone s core { vop := .vadam, v := v, vh := h } h →
    (∀ u, smGet false (getCore s core).bufPoison u = false) →
    let c := getCore s core
    let bs := bufRead c (smGet 0 c.a (v.imm.toNat % 16)).toNat 64
    let d := shapeOf c v.dst.toNat
    let o := opOf s core (.v .vadam v) h (smGet 0 c.a (v.imm.toNat % 16)) 0
    let rows := (List.range d.rows).map (fun r => (List.range d.elems).map (fun e => adamElem (adamBlock bs)
      ((vRow c v.a.toNat (shapeOf c v.a.toNat) r).getD e .nan) ((vRow c v.dst.toNat d r).getD e .nan)
      ((vRow c v.b.toNat d r).getD e .nan) ((vRow c v.c.toNat d r).getD e .nan)))
    let put := fun (q : Core) (t : BitVec 5) (xor : Nat) (f : Machine.Num × Machine.Num × Machine.Num → Machine.Num) =>
      tileWrite q t.toNat d ((rows.zipIdx).map (fun x => bf16Row s core o.key xor x.2 v.rnd (x.1.map f)))
    (slice bs 36 28).all (fun b => b == 0) = true → (adamBlock bs).skip = false →
    ∃ t, exec (.vadam core h v) s = .next t ∧
      EndsAs s t core h (put (put (put c v.dst 0 (fun x => x.1)) v.b 0x80000000 (fun x => x.2.1)) v.c 0xC0000000 (fun x => x.2.2)))

/-- R34, R35, R63, R206: CADD, CSET and CMARK on a core: the register sum, the register's new value by its sub-code, the comparison into a
predicate (p0 is written by nothing; compares 6 and 7 with an areg other than 0 take BUNDLE_OPERAND), the trace word and the Mint step. -/
def Obligations.ControlRegisterResults : Prop :=
  (∀ (s : State) (core : Nat) (p dst src : BitVec 4) (imm : BitVec 32), SlotIssues s core { c := .cadd dst src imm, cp := p } →
    predTrue (getCore s core).p p = true → (getCore s core).flight = [] →
    ∃ t, exec (.cadd core p dst src imm) s = .next t ∧
      plain (getCore t core) = plain { getCore s core with
        a := smSet 0 (getCore s core).a dst.toNat (smGet 0 (getCore s core).a src.toNat + imm.signExtend 64) } ∧
      (getCore t core).s = (getCore s core).s) ∧
  (∀ (s : State) (core : Nat) (p areg : BitVec 4) (sub pdst : BitVec 3) (imm : BitVec 32), SlotIssues s core { c := .csetReg areg sub imm, cp := p } →
    predTrue (getCore s core).p p = true → (getCore s core).flight = [] →
    ∃ t v, exec (.cset core p false areg sub pdst imm) s = .next t ∧
      plain (getCore t core) = plain { getCore s core with a := smSet 0 (getCore s core).a areg.toNat v } ∧
      (sub = 0 → v = (smGet 0 (getCore s core).a areg.toNat).extractLsb' 32 32 ++ imm) ∧
      (sub = 1 → v = imm ++ (smGet 0 (getCore s core).a areg.toNat).extractLsb' 0 32) ∧
      (sub = 2 → v = imm.zeroExtend 64) ∧ (sub = 3 → v = BitVec.ofNat 64 core) ∧
      (sub = 4 → v = BitVec.ofNat 64 (core / (nCores s / 4))) ∧ (sub = 5 → v = BitVec.ofNat 64 (core % (nCores s / 4) / 16)) ∧
      (sub = 6 → v = BitVec.ofNat 64 (core % 16)) ∧ (sub = 7 → v = imm.signExtend 64)) ∧
  (∀ (s : State) (core : Nat) (p areg : BitVec 4) (cmp pdst : BitVec 3) (imm : BitVec 32), SlotIssues s core { c := .csetPred areg cmp pdst imm, cp := p } →
    predTrue (getCore s core).p p = true → (getCore s core).flight = [] →
    ∃ t b, exec (.cset core p true areg cmp pdst imm) s = .next t ∧
      plain (getCore t core) = plain { getCore s core with p := if pdst = 0 then (getCore s core).p else smSet false (getCore s core).p pdst.toNat b } ∧
      (let x := smGet 0 (getCore s core).a areg.toNat
       let y := imm.signExtend 64
       (cmp = 0 → (b = true ↔ x = y)) ∧ (cmp = 1 → (b = true ↔ x ≠ y)) ∧ (cmp = 2 → (b = true ↔ x.toNat < y.toNat)) ∧
       (cmp = 3 → (b = true ↔ y.toNat ≤ x.toNat)) ∧ (cmp = 4 → (b = true ↔ x.toInt < y.toInt)) ∧ (cmp = 5 → (b = true ↔ y.toInt ≤ x.toInt)) ∧
       (cmp = 6 → b = true) ∧ (cmp = 7 → b = false))) ∧
  (∀ (s : State) (core : Nat) (p areg : BitVec 4) (cmp pdst : BitVec 3) (imm : BitVec 32), coreOk s core = true →
    coreRuns s (getCore s core) = true → cmp = 6 ∨ cmp = 7 → areg ≠ 0 →
    exec (.cset core p true areg cmp pdst imm) s = .next (coreFault s core (getCore s core).nextIdx 0x1004)) ∧
  (∀ (s : State) (core : Nat) (p : BitVec 4) (v : BitVec 32), SlotIssues s core { c := .cmark 0 v, cp := p } →
    predTrue (getCore s core).p p = true → (getCore s core).flight = [] →
    ∃ t, exec (.cmark core p 0 v) s = .next t ∧ plain (getCore t core) = plain { getCore s core with trace := v }) ∧
  (∀ (s : State) (core : Nat) (v : BitVec 32), SlotIssues s core { c := .cmark 1 v } → (getCore s core).flight = [] →
    ∃ t, exec (.cmark core 0 1 v) s = .next t ∧
      plain (getCore t core) = plain { getCore s core with key := { (getCore s core).key with step := (getCore s core).key.step + 1 } })

/-- R50, R51, R55, R59, R61, R66: CBR and CLOOP move the core's place in the stream; CHALT ends the core's bundles and the sequencer's
fetching; a mark of kind 2 starts the next micro-batch's poll; CVAR mode 2 returns from a variant, modes 0 and 1 enter one. -/
def Obligations.ControlFlowResults : Prop :=
  (∀ (s : State) (core : Nat) (p : BitVec 4) (n : BitVec 10), SlotIssues s core { c := .cbr n, cp := p } →
    predTrue (getCore s core).p p = true → (getCore s core).flight = [] → (getCore s core).loops = [] →
    ∃ t, exec (.cbr core p n) s = .next t ∧ plain (getCore t core) = plain (getCore s core) ∧
      (getCore t core).nextPos = (getCore s core).nextPos + n.toNat ∧
      ((getCore s core).nextPos + n.toNat ≤ s.seq.nextPos ∨ s.seq.ctx.loops = [] →
        (getCore t core).nextIdx = (getCore s core).nextIdx + n.toNat)) ∧
  (∀ (s : State) (core : Nat) (p : BitVec 4) (fromReg : Bool) (areg : BitVec 4) (count1 body1 : BitVec 16),
    SlotIssues s core { c := .cloop fromReg areg count1 body1, cp := p } → predTrue (getCore s core).p p = true →
    (getCore s core).flight = [] → body1.toNat + 1 ≤ 1024 → (getCore s core).loops = [] →
    ∃ t, exec (.cloop core p fromReg areg count1 body1) s = .next t ∧ plain (getCore t core) = plain (getCore s core) ∧
      (let k := if fromReg then (smGet 0 (getCore s core).a areg.toNat).toNat else count1.toNat + 1
       (k = 0 → (getCore t core).loops = [] ∧ (getCore t core).nextPos = (getCore s core).nextPos + (body1.toNat + 1)) ∧
       (k ≠ 0 → (getCore t core).loops = [⟨(getCore s core).nextIdx, body1.toNat + 1, k, false, (getCore s core).nextPos⟩] ∧
         (getCore t core).nextPos = (getCore s core).nextPos))) ∧
  (∀ (s : State) (core : Nat) (status : BitVec 16), SlotIssues (seqSolo s (.chalt status)) core { c := .chalt status } →
    (getCore s core).flight = [] →
    ∃ t, exec (.chalt core status) s = .next t ∧ (getCore t core).chalted = true ∧
      (seqFetches s = true → t.seq.stop = true ∧ t.seq.exit = status)) ∧
  (∀ (s : State) (core : Nat) (v : BitVec 32), seqFetches s = true → s.seq.kind2.length < 8 → s.seq.walk = [] →
    SlotIssues (seqMark2 s s.seq.fetchPos s.seq.fetchIdx) core { c := .cmark 2 v } → (getCore s core).flight = [] →
    ∃ t, exec (.cmark core 0 2 v) s = .next t ∧ t.seq.poll = true ∧ t.seq.pollPos = some s.seq.fetchPos ∧
      reg t 0x3F0000B00010 = reg s 0x3F0000B00010 + 1) ∧
  (∀ (s : State) (index : BitVec 6) (v : Variant), seqFetches s = true → s.seq.ctx.variant = some v → s.seq.ctx.loops = [] →
    ∃ t, exec (.cvar 2 index) s = .next t ∧ t.seq.ctx.variant = none ∧ t.seq.fetchIdx = v.retIdx ∧ t.cores = s.cores) ∧
  (∀ (s : State) (mode : BitVec 2) (index : BitVec 6), seqFetches s = true → mode = 0 ∨ mode = 1 → s.seq.ctx.variant = none →
    let k := if mode = 0 then s.seq.ctx.vclass else index.toNat
    let a := regF s 0x3F0000010020 45 6 * 64 + 16 * k
    memCheck s a 16 false false = none → spanDown s a 16 = false → firstPoison s a 16 = none →
    fieldAt (memBytes s a 16) 8 1 = 1 → fieldAt (memBytes s a 16) 9 7 = 0 →
    ∃ t, exec (.cvar mode index) s = .next t ∧ t.seq.fetchIdx = fieldAt (memBytes s a 16) 0 4 ∧
      t.seq.ctx.variant = some ⟨s.seq.fetchIdx + 1, fieldAt (memBytes s a 16) 0 4, fieldAt (memBytes s a 16) 4 4, s.seq.ctx.loops.length⟩)

/-- R217, R219, R220, R221: SINC adds, SWAIT waits for n and takes it, SDEC takes n; a counter that would pass 65,535 stays there and raises
SYNC_OVERFLOW, one that would fall below 0 keeps its value and raises SYNC_UNDERFLOW. -/
def Obligations.CounterSlotResults : Prop :=
  (∀ (s : State) (core : Nat) (p : BitVec 4) (ctr : BitVec 6) (n : BitVec 16), SlotIssues s core { s := .sinc ctr n, sp := p } →
    predTrue (getCore s core).p p = true → (getCore s core).flight = [] →
    (smGet 0 (getCore s core).s ctr.toNat).toNat + n.toNat ≤ 65535 →
    ∃ t, exec (.sinc core p ctr n) s = .next t ∧ plain (getCore t core) = plain (getCore s core) ∧
      (getCore t core).s = if n = 0 then (getCore s core).s
        else smSet 0 (getCore s core).s ctr.toNat (smGet 0 (getCore s core).s ctr.toNat + n)) ∧
  (∀ (s : State) (core : Nat) (p : BitVec 4) (ctr : BitVec 6) (n : BitVec 16), SlotIssues s core { s := .sinc ctr n, sp := p } →
    predTrue (getCore s core).p p = true → 65535 < (smGet 0 (getCore s core).s ctr.toNat).toNat + n.toNat → s.job.fatal = none →
    ∃ t, exec (.sinc core p ctr n) s = .next t ∧ smGet 0 (getCore t core).s ctr.toNat = 65535 ∧ t.seq.st = .halting ∧
      t.job.fatal = some 0x4002 ∧ (getCore t core).st = .faulted) ∧
  (∀ (s : State) (core : Nat) (p : BitVec 4) (ctr : BitVec 6) (n : BitVec 16), SlotIssues s core { s := .swait ctr n, sp := p } →
    predTrue (getCore s core).p p = true → (getCore s core).flight = [] →
    ∃ t, exec (.swait core p ctr n) s = .next t ∧ plain (getCore t core) = plain (getCore s core) ∧
      (getCore t core).s = smSet 0 (getCore s core).s ctr.toNat (smGet 0 (getCore s core).s ctr.toNat - n)) ∧
  (∀ (s : State) (core : Nat) (p : BitVec 4) (ctr : BitVec 6) (n : BitVec 16), coreOk s core = true →
    coreRuns s (getCore s core) = true → operandBad { s := .swait ctr n, sp := p } = false →
    step2 s core (getCore s core) (soloBundle (getCore s core) s.seq.ctx) (getCore s core).nextPos (getCore s core).nextIdx
      { s := .swait ctr n, sp := p } = none →
    predTrue (getCore s core).p p = true → (getCore s core).flight = [] → (smGet 0 (getCore s core).s ctr.toNat).toNat < n.toNat →
    ∃ t, exec (.swait core p ctr n) s = .next t ∧ plain (getCore t core) = plain (getCore s core) ∧
      (getCore t core).s = (getCore s core).s ∧ (getCore t core).st = .waiting ∧ (getCore t core).wait = 3) ∧
  (∀ (s : State) (core : Nat) (p : BitVec 4) (ctr : BitVec 6) (n : BitVec 16), SlotIssues s core { s := .sdec ctr n, sp := p } →
    predTrue (getCore s core).p p = true → (getCore s core).flight = [] → n.toNat ≤ (smGet 0 (getCore s core).s ctr.toNat).toNat →
    ∃ t, exec (.sdec core p ctr n) s = .next t ∧ plain (getCore t core) = plain (getCore s core) ∧
      (getCore t core).s = if n = 0 then (getCore s core).s
        else smSet 0 (getCore s core).s ctr.toNat (smGet 0 (getCore s core).s ctr.toNat - n)) ∧
  (∀ (s : State) (core : Nat) (p : BitVec 4) (ctr : BitVec 6) (n : BitVec 16), SlotIssues s core { s := .sdec ctr n, sp := p } →
    predTrue (getCore s core).p p = true → (smGet 0 (getCore s core).s ctr.toNat).toNat < n.toNat → s.job.fatal = none →
    (getCore s core).flight = [] →
    ∃ t, exec (.sdec core p ctr n) s = .next t ∧ (getCore t core).s = (getCore s core).s ∧ t.seq.st = .halting ∧
      t.job.fatal = some 0x4001 ∧ (getCore t core).st = .faulted)

/-- R223 to R225, R228 to R230: SBAR arrives at its counter and waits, and with its token leaves; SSIG to the module itself is held, to
another module it stands in its engine behind the copies of its stream context. -/
def Obligations.BarrierAndSignalResults : Prop :=
  (∀ (s : State) (core : Nat) (p : BitVec 4) (g : BitVec 9) (n : BitVec 16), SlotIssues s core { s := .sbar g n, sp := p } →
    predTrue (getCore s core).p p = true → (getCore s core).flight = [] →
    ∃ t, exec (.sbar core p g n) s = .next t ∧ plain (getCore t core) = plain (getCore s core) ∧ (getCore t core).token = false ∧
      (getCore t core).arrived = none) ∧
  (∀ (s : State) (core : Nat) (p : BitVec 4) (g : BitVec 9) (n : BitVec 16), coreOk s core = true →
    coreRuns s (getCore s core) = true → operandBad { s := .sbar g n, sp := p } = false →
    step2 s core (getCore s core) (soloBundle (getCore s core) s.seq.ctx) (getCore s core).nextPos (getCore s core).nextIdx
      { s := .sbar g n, sp := p } = none →
    predTrue (getCore s core).p p = true → (getCore s core).flight = [] → (getCore s core).token = false → (getCore s core).arrived = none →
    (smGet 0 s.sync.g g.toNat).toNat < 65535 → (∀ r, smGet none s.sync.rounds g.toNat = some r → r.n = n) →
    ∃ t, exec (.sbar core p g n) s = .next t ∧ (getCore t core).arrived = some (g, n) ∧ (getCore t core).st = .waiting ∧
      (getCore t core).wait = 3 ∧ smGet 0 t.sync.g g.toNat = smGet 0 s.sync.g g.toNat + 1 ∧
      smGet none t.sync.rounds g.toNat
        = some ⟨n, (match smGet none s.sync.rounds g.toNat with | some r => r.cores | none => []) ++ [core]⟩) ∧
  (∀ (s : State) (core : Nat) (p areg : BitVec 4) (off : BitVec 16), SlotIssues s core { s := .ssig areg off, sp := p } →
    predTrue (getCore s core).p p = true → (getCore s core).flight = [] →
    let a := (resolve (getCore s core) areg off).toNat
    let d := bufRead (getCore s core) a 32
    a % 32 = 0 → (∀ u, smGet false (getCore s core).bufPoison u = false) → sigDescBad s d = false →
    ((sigOf s d).1 = devId s → sigCount s < 4096 → s.sync.selfWait = [] → sigTargetBad s (sigOf s d).2 = false →
      ∃ t, exec (.ssig core p areg off) s = .next t ∧ t.sync.held = s.sync.held ++ [(sigOf s d).2]) ∧
    ((sigOf s d).1 ≠ devId s →
      ∃ t o, exec (.ssig core p areg off) s = .next t ∧
        (getCe t (engineOf (sigOf s d).2.ctx)).ops = (getCe s (engineOf (sigOf s d).2.ctx)).ops ++ [o] ∧
        o.kind = .sig (sigOf s d).1 (sigOf s d).2 ∧ o.core = core ∧ t.sync.held = s.sync.held))

/-- R31, R32, R271, R276, R281, R358: XLOC puts its copy into the core's unit, XSTR and XCOL put theirs at the end of the engine of the
stream context, XWATCH arms or releases its handle, XFENCE stands in the X slot until its copies are done. -/
def Obligations.CopySlotResults : Prop :=
  (∀ (s : State) (core : Nat) (h : Hdr) (areg : BitVec 4) (off : BitVec 16), SlotIssues s core { x := .xloc areg off, xh := h } →
    predTrue (getCore s core).p h.pred = true → (getCore s core).flight = [] →
    ∃ t q, exec (.xloc core h areg off) s = .next t ∧ (getCore t core).lcu = (getCore s core).lcu ++ [q] ∧
      q.desc = bufRead (getCore s core) (resolve (getCore s core) areg off).toNat 64 ∧ q.done = h.done ∧ q.active = false ∧
      q.failed = false ∧ q.todo = fragAll q.desc ∧ q.mstep = (getCore s core).key.step) ∧
  (∀ (s : State) (core : Nat) (h : Hdr) (areg : BitVec 4) (off : BitVec 16) (ctx : BitVec 14) (col : Bool),
    SlotIssues s core { x := if col then .xcol areg off ctx else .xstr areg off ctx, xh := h } →
    predTrue (getCore s core).p h.pred = true → (getCore s core).flight = [] →
    ∃ t o, exec (if col then .xcol core h areg off ctx else .xstr core h areg off ctx) s = .next t ∧
      (getCe t (engineOf ctx)).ops = (getCe s (engineOf ctx)).ops ++ [o] ∧ o.core = core ∧ o.ctx = ctx ∧
      o.kind = (if col then .col else .copy) ∧ o.desc = bufRead (getCore s core) (resolve (getCore s core) areg off).toNat 128 ∧
      o.done = h.done ∧ o.uid = s.ceUid ∧ t.ceUid = s.ceUid + 1) ∧
  (∀ (s : State) (core : Nat) (h : Hdr) (areg : BitVec 4) (off : BitVec 16), SlotIssues s core { x := .xwatch areg off, xh := h } →
    predTrue (getCore s core).p h.pred = true → (getCore s core).flight = [] → s.cores.all (fun p => p.2.arms.isEmpty) = true →
    let d := bufRead (getCore s core) (resolve (getCore s core) areg off).toNat 32
    fieldAt d 0 1 = 1 → slotsFree s (fieldAt d 8 8) (fieldAt d 8 8 + fieldAt d 16 8) = true →
    ∃ t, exec (.xwatchArm core h areg off) s = .next t ∧ smGet Handle.none (getCore t core).handles (fieldAt d 1 1) = ⟨true, false⟩) ∧
  (∀ (s : State) (core : Nat) (h : Hdr) (areg : BitVec 4) (off : BitVec 16), SlotIssues s core { x := .xwatch areg off, xh := h } →
    predTrue (getCore s core).p h.pred = true → (getCore s core).flight = [] → s.cores.all (fun p => p.2.arms.isEmpty) = true →
    let d := bufRead (getCore s core) (resolve (getCore s core) areg off).toNat 32
    fieldAt d 0 1 = 2 →
    ∃ t, exec (.xwatchRelease core h areg off) s = .next t ∧
      (getCore t core).handles = smSet Handle.none (getCore s core).handles (fieldAt d 1 1) Handle.none ∧
      (getCore t core).buf = memWrites (getCore s core).buf (fieldAt d 24 8)
        (leBytes 8 (b2n ((smGet Handle.none (getCore s core).handles (fieldAt d 1 1)).torn || watchTorn s (.handle core (fieldAt d 1 1)))))) ∧
  (∀ (s : State) (core : Nat) (h : Hdr) (a b w i : Bool), SlotIssues s core { x := .xfence a b w i, xh := h } →
    predTrue (getCore s core).p h.pred = true → (getCore s core).flight = [] →
    ∃ t f, exec (.xfence core h a b w i) s = .next t ∧ (getCore t core).fence = some f ∧ f.done = h.done ∧
      f.bits.getLsbD 3 = a ∧ f.bits.getLsbD 2 = b ∧ f.bits.getLsbD 1 = w ∧ f.bits.getLsbD 0 = i) ∧
  (∀ (s : State) (core : Nat) (f : Fence), coreOk s core = true → (getCore s core).fence = some f → (getCore s core).st ≠ .idle →
    fenceOpen s core (getCore s core) f = true →
    ∃ t, exec (.xfenceComplete core) s = .next t ∧ (getCore t core).fence = none ∧
      (f.bits.getLsbD 1 = false → (getCore t core).l1 = if f.bits.getLsbD 0 then (getCore s core).l1.filter (fun l => l.dirty) else (getCore s core).l1))
/-! ### The stream -/

/-- R39, R40: a bundle that has arrived and that nothing stands against issues with all its slots at once. The second clause says what
that is where the bundle names no copy, no sync and no control operation: the operations of its M, V and T slots are in flight in slot order,
the core issues, and its place is the bundle after. -/
def Obligations.BundleIssues : Prop :=
  (∀ (s : State) (core : Nat) (b : Bundle) (sl : Slots), coreOk s core = true → coreRuns s (getCore s core) = true →
    s.seq.log.find? (fun b => b.pos = (getCore s core).nextPos) = some b → bpHit s core b.idx = none → (getCore s core).dbgStep = false →
    s.mem.upsets = [] → b.poison = false → staticForm b.bits.toNat = none → decodeSlots b.bits.toNat = some sl →
    let e := effSlots (getCore s core).p sl
    step2 s core (getCore s core) b (b.pos + 1) (b.idx + 1) e = none → step3Ok (getCore s core) e.s = true →
    step4Waits s core (getCore s core) (bDrain b.bits.toNat) e = false → step5Cause s (getCore s core) e = 0 →
    check6 s (getCore s core) e = none →
    exec (.bundleIssue core) s = .next (issueAll s core b (b.pos + 1) (b.idx + 1) e)) ∧
  (∀ (s : State) (core : Nat) (b : Bundle) (sl : Slots), coreOk s core = true → coreRuns s (getCore s core) = true →
    s.seq.log.find? (fun b => b.pos = (getCore s core).nextPos) = some b → bpHit s core b.idx = none → (getCore s core).dbgStep = false →
    s.mem.upsets = [] → b.poison = false → staticForm b.bits.toNat = none → decodeSlots b.bits.toNat = some sl →
    let c := getCore s core
    let e := effSlots c.p sl
    step2 s core c b (b.pos + 1) (b.idx + 1) e = none → step4Waits s core c (bDrain b.bits.toNat) e = false → step5Cause s c e = 0 →
    check6 s c e = none → e.x = .nop → e.s = .nop → e.c = .nop → ¬(e.vop = .vsr ∧ e.v.fn = 0) →
    (∀ t g r n f, e.t ≠ .tcfg t g r n f) →
    ∃ t, exec (.bundleIssue core) s = .next t ∧
      (getCore t core).flight.map (fun o => (o.body, o.done)) = c.flight.map (fun o => (o.body, o.done))
        ++ (if e.m = .nop then [] else [(OpBody.m e.m, e.mh.done)]) ++ (if e.vop = .vnop then [] else [(OpBody.v e.vop e.v, e.vh.done)])
        ++ (if e.t = .nop then [] else [(OpBody.t e.t, e.th.done)]) ∧
      (getCore t core).st = .issuing ∧ (c.loops = [] → (getCore t core).nextPos = b.pos + 1 ∧ (getCore t core).nextIdx = b.idx + 1) ∧
      plain (getCore t core) = plain c ∧ (getCore t core).s = c.s ∧ t.mem = s.mem ∧ t.regs = s.regs)

/-- R44, R47, R49: the sequencer fetches a bundle into its queue at the next stream position; multicast takes the oldest fetched bundle. -/
def Obligations.StreamMoves : Prop :=
  (∀ (s : State), seqFetches s = true → s.seq.ctx = ⟨[], none, s.seq.ctx.vclass⟩ → s.seq.fetchIdx < regF s 0x3F0000010018 31 0 →
    let a := regF s 0x3F0000010010 45 6 * 64 + s.seq.fetchIdx * 64
    let w := bundleOfBytes (memBytes s a 64)
    memCheck s a 64 false false = none → spanDown s a 64 = false → s.mem.upsets = [] → wtNopf s a = false ∨ fetchDemand s = true → s.seq.miss = true → mcPending s (a / 64) = false → memPoisoned s a 64 = false →
    bIdx12 w.toNat = s.seq.fetchIdx % 4096 → decC (bC w.toNat) = some .nop →
    ∃ t, exec .bundleFetch s = .next t ∧
      t.seq.fetchQ = s.seq.fetchQ ++ [⟨s.seq.fetchPos, s.seq.fetchIdx, false, w, s.seq.ctx⟩] ∧ t.seq.fetchPos = s.seq.fetchPos + 1 ∧
      t.seq.fetchIdx = s.seq.fetchIdx + 1 ∧ t.cores = s.cores ∧ t.mem = s.mem) ∧
  (∀ (s : State) (b : Bundle) (q : List Bundle), multicastOk s = true → s.seq.fetchQ = b :: q →
    s.cores.all (fun p => p.2.skips.isEmpty) = true →
    ∃ t, exec .bundleMulticast s = .next t ∧ t.seq.fetchQ = q ∧ t.seq.nextPos = b.pos + 1 ∧ (rMin s ≤ b.pos → b ∈ t.seq.log) ∧
      t.cores = s.cores ∧ t.mem = s.mem)

/-- R92, R99, R100, R120: a pass that may run runs and counts its beats; the oldest chain whose passes have all run commits and leaves flight
with its rows in place; the oldest operation of a unit that can complete does so. -/
def Obligations.ArrayStepResults : Prop :=
  (∀ (s : State) (core : Nat) (x : FOp) (p : Pass), coreOk s core = true → (getCore s core).st ≠ .idle →
    (getCore s core).flight.find? (fun o => isMmul o && !o.started) = some x → passReady (getCore s core) x = true →
    (∃ m, x.body = .m m ∧ passOf m x.addr2.toNat = some p) →
    (∀ u, smGet false (getCore s core).bufPoison u = false) → (∀ j, accBad (getCore s core) j = false) →
    (getCore s core).act.faulty = false → (getCore s core).shd.faulty = false → s.mem.upsets = [] →
    ∃ t y, exec (.passStart core .clean) s = .next t ∧ y ∈ (getCore t core).flight ∧ y.ord = x.ord ∧ y.started = true ∧ y.body = x.body ∧
      y.set = (if usesShadow (getCore s core) x then (getCore s core).shd else (getCore s core).act) ∧
      reg t (0x3F0000200008 + core * 0x40) = ctrAdd (reg s (0x3F0000200008 + core * 0x40)) p.rows) ∧
  (∀ (s : State) (core k : Nat), coreOk s core = true → (getCore s core).st ≠ .idle → oldestChain (getCore s core) = some k →
    (chainMembers (getCore s core) k).all (fun x => x.started) = true →
    ∃ t, exec (.chainCommit core) s = .next t ∧ ∀ o ∈ (getCore t core).flight, ¬(isMmul o = true ∧ o.chain = k)) ∧
  (∀ (s : State) (core k : Nat) (x : FOp) (xs : List FOp) (first n : Nat) (zero : Bool) (ar : BitVec 4) (off : BitVec 16)
      (rows1 dest : BitVec 11) (fmt : BitVec 4) (acc : BitVec 3) (d1 c1 : BitVec 6) (rs : Bool) (sar : BitVec 4),
    coreOk s core = true → (getCore s core).st ≠ .idle → coreWf (getCore s core) = true → oldestChain (getCore s core) = some k →
    chainMembers (getCore s core) k = x :: xs → (x :: xs).all (fun y => y.started && decide (y.done = 63)) = true →
    x.body = .m (.mmul zero ar off rows1 dest fmt acc d1 c1 rs sar) → mmulRange x.body = some (first, n) → first % 1024 + n ≤ 1024 →
    ∃ t, exec (.chainCommit core) s = .next t ∧
      ∀ i, i < n → accRow (getCore t core) (first + i)
        = slice (chainRun (x :: xs) (workRows (getCore s core) first n (rowUnits acc.toNat))).flatten (256 * i) 256) ∧
  (∀ (s : State) (core : Nat) (u : Unit3) (o : FOp), coreOk s core = true → nextDone (getCore s core) u = some o →
    exec (.operationCommit core u) s = .next (completeOp s core o))
/-! ### The sequencer, steps and halts -/

/-- R37, R66, R67, R69, R73: SEQ_RUN in IDLE starts the stream at image index 0 with every core as at job start, and changes nothing else. SEQ_HALT in
RUNNING stops multicast: what is in flight goes to the replay lists, arrivals are withdrawn, and the sequencer is HALTING. SEQ_RESUME in HALTED goes
back to r_min, and every core issues its replay list again, in order. JOB_DONE, once every core has issued its CHALT and completed its operations and no
commit is due, ends the stream: DONE, with the exit status reported; with a hold time of 0 the job ends there (R526). -/
def Obligations.SequencerCommandResults : Prop :=
  let word (o : FOp) := (o.body, o.done, o.pred, o.addr1, o.addr2)
  (∀ (s : State), s.seq.st = .idle → s.job.device = none → regF s 0x3F0000010018 31 0 ≠ 0 →
    ∃ t, exec .seqRun s = .next t ∧ t = { s with seq := { Seq.init with st := .running, step := s.seq.step, poll := true, run := true }, cores := t.cores } ∧
      ∀ i, i < nCores s → (getCore t i).st = .issuing ∧ (getCore t i).a = [] ∧ (getCore t i).p = [] ∧ (getCore t i).shapes = [] ∧
        (getCore t i).flight = [] ∧ (getCore t i).replay = [] ∧ (getCore t i).chalted = false ∧ (getCore t i).nextPos = 0 ∧
        (getCore t i).key = ⟨reg s 0x3F0000280008, 0, 0, 0⟩ ∧ (getCore t i).buf = (getCore s i).buf ∧ (getCore t i).acc = (getCore s i).acc ∧
        (getCore t i).s = (getCore s i).s ∧ (getCore t i).comb = []) ∧
  (∀ (s : State), s.seq.st = .running → allHalted s = false → s.job.device = none →
    ∃ t, exec .seqHalt s = .next t ∧ t.seq = { s.seq with st := .halting } ∧ t.sync.rounds = [] ∧ t.job = s.job ∧ t.ce = s.ce ∧
      t.mem.gddr = s.mem.gddr ∧ t.sec = s.sec ∧
      ∀ i, i < nCores s → (getCore t i).flight = [] ∧
        ((getCore s i).replay ++ (getCore s i).flight ≠ [] → (getCore t i).a = (getCore s i).a ∧ (getCore t i).buf = (getCore s i).buf ∧
          (getCore t i).replay.map word = ((getCore s i).replay ++ (getCore s i).flight).map word)) ∧
  (∀ (s : State), s.seq.st = .halted → s.job.fatal = none → s.job.device = none →
    ∃ t, exec .seqResume s = .next t ∧ t.seq.st = .running ∧ t.seq.fetchPos = (seqAtRmin s).1 ∧ t.seq.fetchIdx = (seqAtRmin s).2.1 ∧
      t.seq.nextPos = (seqAtRmin s).1 ∧ t.seq.fetchQ = [] ∧ t.seq.log = [] ∧ t.seq.stop = false ∧ t.seq.step = s.seq.step ∧ t.mem = s.mem ∧
      t.regs = s.regs ∧ t.sync = s.sync ∧
      ∀ i, (getCore t i).replay = [] ∧ (getCore t i).flight.map word = (getCore s i).replay.map word ∧ (getCore t i).a = (getCore s i).a ∧
        (getCore t i).p = (getCore s i).p ∧ (getCore t i).buf = (getCore s i).buf ∧ (getCore t i).acc = (getCore s i).acc) ∧
  (∀ (s : State), s.seq.st = .running → s.job.device = none → s.cores.length = nCores s →
    s.cores.all (fun p => p.2.chalted && coreIdle p.2) = true →
    s.ce.all (fun p => p.2.ops.all (fun o => o.mgmt != 0 || !isWork o || o.completed)) = true → commitDue s = false →
    ∃ t, exec .jobDone s = .next t ∧
      (s.job.hold ≠ 0 → t.seq = { s.seq with st := .done, run := false } ∧ t.host.exit = some s.seq.exit ∧ t.job = { s.job with st := .done } ∧ t.mem.gddr = s.mem.gddr ∧ t.ce = s.ce ∧ t.sec = s.sec ∧
        t.cores.all (fun p => p.2.st == .done) = true) ∧
      (s.job.hold = 0 → t.job.st = .wiping ∧ t.sec.wipe.isSome = true))

/-- R64, R67, R409, R412, R430: TRAINING_STEP_COMMIT advances the step when every core and engine lets it; the table poll takes the class of its
round's tokens; a halt whose copies are done ends HALTED; a halt that takes too long is DEVICE_FATAL HALT_TIMEOUT. -/
def Obligations.StepAndHaltResults : Prop :=
  (∀ (s : State), (s.seq.st = .running ∨ s.seq.st = .halting) → s.job.device = none → commitDue s = true →
    ∃ t, exec .trainingStepCommit s = .next t ∧ t.seq.step = s.seq.step + 1) ∧
  (∀ (s : State), s.seq.st = .running → s.seq.poll = true → s.job.device = none → s.mem.upsets = [] →
    let a := regF s 0x3F0000B00000 45 12 * 4096
    s.seq.tab = 2 → tabWaits s a 64 = false → tabWaits s a 0x940 = false → spanDown s a 64 = false → spanDown s a 0x940 = false →
    memCheck s a 64 false false = none → firstPoison s a 64 = none → fieldAt (memBytes s a 64) 0 2 = (reg s 0x3F0000B00010).toNat % 65536 →
    memCheck s a 0x940 false false = none → firstPoison s a 0x940 = none → seqFormBreach (memBytes s a 0x940) = none →
    ∀ c, seqClass (memBytes s a 0x940) (seqTokens (memBytes s a 0x940)) = some c →
    ∃ t, exec .seqTablePoll s = .next t ∧ t.seq.poll = false ∧ t.seq.ctx.vclass = c ∧ t.cores = s.cores) ∧
  (∀ (s : State), s.seq.st = .halting → s.job.order4 = false → s.job.device = none → s.job.fatal = none → haltWaits s = false →
    s.job.st ≠ .recovering → s.job.st ≠ .preempting → s.cores.all (fun p => p.2.arms.isEmpty && p.2.l1.isEmpty && p.2.lcu.all (fun q => !q.active)) = true →
    ∃ t, exec .haltDrainComplete s = .next t ∧ t.seq.st = .halted ∧ t.job.order4 = true) ∧
  (∀ (s : State) (core : Nat), coreOk s core = true → s.seq.st = .halting → s.job.device = none →
    ∃ t, exec (.haltTimeout core) s = .next t ∧ t.job.device = some 0x100A ∧ t.job.left = true ∧ t.seq.stop = true ∧
      ∀ i, (getCore t i).flight = [] ∧ (getCore t i).replay = [])

/-! ### Job-wide rendezvous -/

/-- R563, R564: READY is held by the lead; GO starts a module in STARTING; ABORT and the end of the start window put it back to LOADED. -/
def Obligations.StartRendezvous : Prop :=
  (∀ (s : State) (src d : BitVec 14), isLead s = true → s.job.st = .loaded ∨ s.job.st = .starting → s.job.members.contains src = true →
    (liveMembers s).contains d = true → d ≠ src → s.job.ready.contains d = false →
    ∃ t, exec (.ready src) s = .next t ∧ src ∈ t.job.ready ∧ t.job.window = true ∧ t.job.st = s.job.st) ∧
  (∀ (s : State) (src : BitVec 14), isLead s = true → s.job.st = .starting → s.job.members.contains src = true →
    (∀ d, (liveMembers s).contains d = true → d = src ∨ s.job.ready.contains d = true) →
    ∃ t, exec (.ready src) s = .next t ∧ t.job.st = .running ∧ t.job.window = false) ∧
  (∀ (s : State) (src : BitVec 14) (time : BitVec 64), s.job.st = .starting → s.seq.st = .idle → s.job.device = none →
    regF s 0x3F0000010018 31 0 ≠ 0 →
    ∃ t, exec (.go src time) s = .next t ∧ t.job.st = .running ∧ t.seq.st = .running ∧ t.seq.fetchIdx = 0) ∧
  (∀ (s : State) (src : BitVec 14) (time : BitVec 64), s.job.st = .starting →
    ∃ t, exec (.abort src time) s = .next t ∧ t.job.st = .loaded ∧ t.seq = s.seq) ∧
  (∀ (s : State), s.job.window = true → isLead s = true → s.job.st = .starting →
    ∃ t, exec .startWindowExpiry s = .next t ∧ t.job.st = .loaded ∧ t.job.ready = [] ∧ t.job.window = false)

/-- R565 to R568: PREEMPT from another member makes a running module halt; the lead keeps each DRAINED and each RESTORED until it has them from all,
and the last RESTORED starts the job again. QUIESCE at a drained module writes the quiesce image, its header with it, and the module is PREEMPTED.
RESUME at a preempted module reads the image and the save area back and sends RESTORED to the lead. -/
def Obligations.PreemptRendezvous : Prop :=
  (∀ (s : State) (src : BitVec 14) (time : BitVec 64), s.job.st = .running → allHalted s = false → s.seq.st = .running → s.job.device = none →
    ∃ t, exec (.preemptMsg src time) s = .next t ∧ t.job = { s.job with st := .preempting, order4 := false, drained := [] } ∧
      t.seq = { s.seq with st := .halting } ∧ t.sync.rounds = [] ∧ t.ce = s.ce ∧ t.mem.gddr = s.mem.gddr ∧
      ∀ i, i < nCores s → (getCore t i).flight = []) ∧
  (∀ (s : State) (src d : BitVec 14) (sent recv : BitVec 64), isLead s = true → s.job.members.contains src = true →
    (liveMembers s).contains d = true → d ≠ src → d ≠ devId s → (s.job.drained.any (fun p => p.1 == d)) = false →
    exec (.drained src sent recv) s = .next { s with job := { s.job with
      drained := s.job.drained.filter (fun p => p.1 != src) ++ [(src, sent, recv)] } }) ∧
  (∀ (s : State) (src : BitVec 14) (time : BitVec 64), s.job.st = .preempting → s.job.order4 = true → s.seq.st = .halting →
    ∃ t, exec (.quiesce src time) s = .next t ∧ t.job.st = .preempted ∧ t.seq.st = .halted ∧ t.job.saved = true ∧ t.job.members = s.job.members ∧
      t.job.id = s.job.id ∧ t.seq.step = s.seq.step ∧ t.host.cmds.all (fun c => c.op != 3) = true ∧
      (s.mem.upsets = [] → s.job.quiesce + 4096 ≤ 0x2000000000 →
        memReads t.mem.gddr s.job.quiesce 8 = [0x55, 0x41, 0x38, 0x51, 0, 0, 0, 0] ∧
        memReads t.mem.gddr (s.job.quiesce + 8) 8 = leBytes 8 s.job.id.toNat ∧
        memReads t.mem.gddr (s.job.quiesce + 16) 8 = leBytes 8 s.seq.step.toNat)) ∧
  (∀ (s : State) (src d : BitVec 14) (time : BitVec 64), s.job.st = .preempted → s.job.restoredHere = false → s.job.wiped = false →
    jobLead s.job = some d → d ≠ devId s → s.mem.upsets = [] →
    let ctx := regF s 0x3F0000010050 45 10 * 1024
    ∃ t m, exec (.resumeMsg src time) s = .next t ∧ t.job.restoredHere = true ∧ t.job.st = .preempted ∧ t.seq.st = .halted ∧
      m ∈ t.fab.tc0q ∧ m.kind = 2 ∧ m.dst = d ∧ fieldAt m.body 0 1 = 7 ∧
      t.seq.step = BitVec.ofNat 64 (fieldAt (memReads s.mem.gddr s.job.quiesce 88) 16 8) ∧
      t.seq.fetchPos = fieldAt (memReads s.mem.gddr ctx 1024) 0 8 ∧ t.seq.fetchIdx = fieldAt (memReads s.mem.gddr ctx 1024) 8 4 ∧
      (∀ i, i < nCores s → (getCore t i).nextPos = fieldAt (memReads s.mem.gddr (ctx + 0x400 + i * 0x400) 1024) 0x88 8 ∧
        (getCore t i).chalted = bitOf (fieldAt (memReads s.mem.gddr (ctx + 0x400 + i * 0x400) 1024) 0x81 1) 0)) ∧
  (∀ (s : State) (src d : BitVec 14), isLead s = true → s.job.st = .preempted → s.job.members.contains src = true →
    (liveMembers s).contains d = true → d ≠ src → s.job.restored.contains d = false → s.job.restored.contains src = false →
    exec (.restored src) s = .next { s with job := { s.job with restored := s.job.restored ++ [src] } }) ∧
  (∀ (s : State) (src : BitVec 14), isLead s = true → s.job.st = .preempted → s.job.restoredHere = true → s.seq.st = .halted → s.job.fatal = none →
    s.job.device = none → s.job.members.contains src = true →
    (∀ d, (liveMembers s).contains d = true → d = src ∨ s.job.restored.contains d = true) →
    ∃ t, exec (.restored src) s = .next t ∧ t.job.st = .running ∧ t.seq.st = .running ∧ t.job.restored = [] ∧ t.job.restoredHere = false ∧
      t.seq.fetchPos = (seqAtRmin s).1)

/-! ### Failures of members, recovery and securing -/

/-- R443 to R445, R450, R452: heartbeats are sent to the watcher and time the ward; a silent ward, a notice and a missing REPORT each make the
member count as departed; a notice of a job-wide fault ends the job; the lead sends its notices again. -/
def Obligations.MemberFailureResults : Prop :=
  (∀ (s : State) (d : BitVec 14), jobLive s = true → hasLeft s = false → s.job.device = none → watcherOf s = some d →
    ∃ t m, exec .heartbeatSend s = .next t ∧ m ∈ t.fab.tc0q ∧ m.kind = 4 ∧ m.dst = d ∧ m.src = devId s ∧ m.tag = s.job.tag ∧
      m.body = leBytes 2 (devId s).toNat ++ zeros 6 ++ leBytes 8 (now s)) ∧
  (∀ (s : State) (src : BitVec 14) (time : BitVec 64), jobLive s = true → wardOf s = some src →
    ∃ t, exec (.heartbeat src time) s = .next t ∧ t.job.wardAt = now s ∧ t.job.ward = some src ∧ t.fab = s.fab ∧ t.seq = s.seq) ∧
  (∀ (s : State) (d : BitVec 14), jobLive s = true → hasLeft s = false → s.job.wardAt + 100000 ≤ now s → wardOf s = some d → d ≠ devId s →
    s.job.members.contains d = true →
    ∃ t, exec .heartbeatTimeout s = .next t ∧ d ∈ t.job.gone) ∧
  (∀ (s : State) (src left orig : BitVec 14) (cause : BitVec 8) (code : BitVec 16) (time step : BitVec 64),
    s.job.members.contains left = true → cause ≠ 6 → left ≠ devId s → s.job.gone.contains left = false →
    ∃ t, exec (.failureNotice src left orig cause code time step) s = .next t ∧ left ∈ t.job.gone) ∧
  (∀ (s : State) (src left orig : BitVec 14) (code : BitVec 16) (time step : BitVec 64),
    s.job.members.contains left = true → s.job.relayed.contains (left, orig) = false → s.job.st = .running →
    s.seq.st = .running → allHalted s = false → s.job.device = none → s.job.fatal = none →
    ∃ t, exec (.failureNotice src left orig 6 code time step) s = .next t ∧ t.job.fatal = some code ∧ t.seq.st = .halting) ∧
  (∀ (s : State) (src : BitVec 14) (counter : BitVec 64), isLead s = true → s.job.members.contains src = true → s.job.gone.contains src = false →
    ∃ t, exec (.report src s.job.view counter) s = .next t ∧ (src, counter) ∈ t.job.views) ∧
  (∀ (s : State) (d : BitVec 14), isLead s = true → s.job.st = .recovering → s.job.viewAt + 10000000 ≤ now s → s.job.notices ≠ [] →
    (liveMembers s).contains d = true → d ≠ devId s → (reported s).contains d = false → s.job.resent.contains d = false →
    ∃ t, exec .reportResendTimeout s = .next t ∧ d ∈ t.job.resent) ∧
  (∀ (s : State) (d : BitVec 14), isLead s = true → s.job.st = .recovering → s.job.viewAt + 20000000 ≤ now s → s.job.notices ≠ [] →
    (liveMembers s).contains d = true → d ≠ devId s → (reported s).contains d = false →
    ∃ t, exec (.reportTimeout d) s = .next t ∧ d ∈ t.job.gone)

/-- R458, R460, R461: a PLAN is taken in RECOVERING and its restore ends in RECOVERED; a PERMIT is kept; a securing round goes from its open words
to its copies, its close words and GEN_DONE; the lead keeps each GEN_DONE until it has them all. -/
def Obligations.RecoveryAndSecuringResults : Prop :=
  (∀ (s : State) (src : BitVec 14) (view : BitVec 32) (b : BitVec 64) (gen : BitVec 32), s.job.st = .recovering →
    s.job.view.toNat ≤ view.toNat →
    ∃ t, exec (.plan src 1 view b gen) s = .next t ∧ t.job.plan = some ⟨1, view, b, gen⟩ ∧ t.job.view = view ∧ t.ce = s.ce) ∧
  (∀ (s : State) (p : PlanMsg), s.job.st = .recovering → s.job.plan = some p → copiesLeft s 3 = false →
    ∃ t, exec .restoreComplete s = .next t ∧ t.job.st = .recovered) ∧
  (∀ (s : State) (src : BitVec 14) (far : Bool) (gen : BitVec 32) (b : BitVec 64) (gp gf : BitVec 32), jobLive s = true →
    s.seq.step.toNat < b.toNat →
    ∃ t, exec (.permit src far gen b gp gf) s = .next t ∧ t.job.permits = ⟨gen, b, far, gp, gf⟩ :: s.job.permits ∧ t.job.round = .idle) ∧
  (∀ (s : State) (p : Permit) (ps : List Permit), s.job.permits = p :: ps → s.job.round = .opening → ownerBusy s isRound = false →
    roundLost s = false →
    ceBusy (getCe s (engineOf (fsCtx s))) + ((roundSlots s p).flatMap (fun x => regionCopies s x.1 x.2 true)).length ≤ 64 →
    ∃ t, exec .securingOpenComplete s = .next t ∧ t.job.round = .copying) ∧
  (∀ (s : State) (p : Permit) (ps : List Permit), s.job.permits = p :: ps → s.job.round = .copying → ownerBusy s isRound = false →
    roundLost s = false → copiesLeft s 2 = false →
    ∃ t, exec .securingCopiesComplete s = .next t ∧ t.job.round = .closing) ∧
  (∀ (s : State) (p : Permit) (ps : List Permit) (d : BitVec 14), s.job.permits = p :: ps → s.job.round = .closing →
    ownerBusy s isRound = false → roundLost s = false → jobLead s.job = some d → d ≠ devId s →
    ∃ t m, exec .securingCloseComplete s = .next t ∧ t.job.round = .idle ∧ t.job.unanswered = some (genAnswer s p false) ∧
      m ∈ t.fab.tc0q ∧ m.kind = 6 ∧ m.dst = d) ∧
  (∀ (s : State) (src d : BitVec 14) (far late : Bool) (gen : BitVec 32) (b : BitVec 64) (p f : BitVec 16) (g : Gen),
    isLead s = true → s.job.gen = some g → g.gen = gen → s.job.members.contains src = true → (liveMembers s).contains d = true → d ≠ src →
    g.answers.any (fun a => a.src == d) = false →
    ∃ t, exec (.genDone src far late gen b p f) s = .next t ∧
      t.job.gen = some { g with answers := g.answers.filter (fun x => x.src != src) ++ [⟨src, far, late, b, p, f⟩] })

/-! ### Barriers, signals and the deadlock detector -/

/-- R225, R232, R240, R242, R243: a complete round is released and its cores get their tokens; a held signal whose bytes have landed reaches its
counter; a quiet module reports BLOCKED with its tallies; the lead keeps reports and drops withdrawn ones; JOB_DEADLOCK halts a blocked module. -/
def Obligations.SyncResults : Prop :=
  (∀ (s : State) (g : BitVec 9) (r : Round), smGet none s.sync.rounds g.toNat = some r → s.seq.st = .running →
    r.n.toNat ≤ (smGet 0 s.sync.g g.toNat).toNat →
    ∃ t, exec (.barrierRelease g) s = .next t ∧ t.sync.g = smSet 0 s.sync.g g.toNat (smGet 0 s.sync.g g.toNat - r.n) ∧
      t.sync.rounds = smSet none s.sync.rounds g.toNat none ∧ ∀ i, i ∈ r.cores → (getCore t i).token = true) ∧
  (∀ (s : State) (src ctx : BitVec 14) (g : Signal), oldestSig s src ctx = some g →
    g.count.toNat ≤ (smGet 0 s.sync.tally (tallyKey src ctx)).toNat → s.seq.st ≠ .faulted → s.job.device = none → s.sync.selfWait = [] →
    (∀ k, (getLink s k).held = []) →
    (bitOf g.counter.toNat 15 = true → (smGet 0 s.sync.g (g.counter.toNat % 512)).toNat + g.amount.toNat < 65536) →
    (bitOf g.counter.toNat 15 = false → (smGet 0 (getCore s g.core.toNat).s (g.counter.toNat % 512)).toNat + g.amount.toNat < 65536) →
    g.amount ≠ 0 →
    ∃ t, exec (.signalRelease src ctx) s = .next t ∧ t.sync.held = s.sync.held.erase g ∧
      t.sync.tally = smSet 0 s.sync.tally (tallyKey src ctx) (smGet 0 s.sync.tally (tallyKey src ctx) - g.count) ∧
      (bitOf g.counter.toNat 15 = true →
        smGet 0 t.sync.g (g.counter.toNat % 512) = smGet 0 s.sync.g (g.counter.toNat % 512) + g.amount ∧ t.cores = s.cores) ∧
      (bitOf g.counter.toNat 15 = false →
        smGet 0 (getCore t g.core.toNat).s (g.counter.toNat % 512) = smGet 0 (getCore s g.core.toNat).s (g.counter.toNat % 512) + g.amount ∧
        t.sync.g = s.sync.g)) ∧
  (∀ (s : State) (d : BitVec 14), detOn s = true → allQuiet s = true → s.sync.det = .quiet →
    s.sync.quietAt + dlWindow s * 1000000 ≤ now s → jobLead s.job = some d → d ≠ devId s →
    ∃ t m, exec .quietWindowElapsed s = .next t ∧ t.sync.det = .blocked ∧ t.sync.reported = s.sync.sent ∧ m ∈ t.fab.tc0q ∧ m.kind = 3 ∧
      m.dst = d ∧ m.tag = s.job.tag ∧ m.body = detBody 1 (devId s) s.sync.sent.toNat s.sync.recv.toNat (now s)) ∧
  (∀ (s : State) (src d : BitVec 14) (sent recv time : Word64), s.job.members.contains src = true → (liveMembers s).contains d = true →
    d ≠ src → s.sync.reports.any (fun r => r.src == d) = false →
    ∃ t, exec (.blockedReport src sent recv time) s = .next t ∧
      t.sync.reports = s.sync.reports.filter (fun x => x.src != src) ++ [⟨src, sent, recv⟩] ∧ t.sync.det = s.sync.det) ∧
  (∀ (s : State) (src : BitVec 14), ∃ t, exec (.withdraw src) s = .next t ∧ t.sync.reports = s.sync.reports.filter (fun x => x.src != src) ∧
    t.sync.det = s.sync.det ∧ t.cores = s.cores ∧ t.job = s.job) ∧
  (∀ (s : State) (src : BitVec 14) (count : Word32), s.sync.det = .blocked → s.seq.st = .running → s.job.fatal = none →
    ∃ t, exec (.jobDeadlockMessage src count) s = .next t ∧ t.sync.det = .deadlock ∧ t.job.fatal = some 0x4012 ∧ t.seq.st = .halting)

/-! ### Packets -/

/-- R231, R232, R236, R326, R336, R339: a packet of the job that arrives next in order lands: WR stores its payload, RD_REQ puts its answer into
flight and claims the slots of a guarded copy, SIG is held; each moves the in-order point of its stream and counts. -/
def Obligations.PacketLands : Prop :=
  ∀ (s : State) (link : Nat) (p : Packet), linkUp s link = true → p.dst = devId s → p.kz = false → p.tag = s.job.tag →
    s.job.gone.contains p.src = false → jobTakes s = true → s.job.device = none → s.job.fatal = none → s.job.left = false → noneLost s = true →
    noServed s = true → ¬(s.job.st = .preempting ∧ s.job.order4 = true) → p.seq = (rxPair s p).point → (rxPair s p).ahead = [] →
    (p.len ≠ 0 → p.maskValid = false → placeOf p.addr.toNat = .gddr → landBad s p.addr.toNat p.len.toNat true = none →
      p.counted = false ∨ s.sync.pairs.length < 8192 →
      ∃ t, exec (.wr link p) s = .next t ∧ t.mem.gddr = memWrites s.mem.gddr p.addr.toNat (slice p.payload 0 p.len.toNat) ∧
        t.fab.rx = smSet RxPair.init s.fab.rx (rxKey p.src p.ctx) ⟨p.seq + 1, [], (rxPair s p).refused.filter (fun x => x != p.seq)⟩ ∧
        t.sync.recv = s.sync.recv + (if (rxPair s p).refused.contains p.seq then 0 else 1) ∧
        t.sync.tally = smSet 0 s.sync.tally (tallyKey p.src p.ctx)
          (smGet 0 s.sync.tally (tallyKey p.src p.ctx) + (if p.counted then BitVec.ofNat 48 p.len.toNat else 0))) ∧
    (landBad s p.addr.toNat p.len.toNat false = none → s.mem.upsets = [] → placeOf p.addr.toNat ≠ .host →
      s.seq.st ≠ .faulted → s.sync.det = .watch ∨ s.sync.det = .quiet → linesIn (touchRead s p.addr.toNat p.len.toNat 0) p = true →
      p.guard.all (fun g => slotsFree s g.1 g.2) = true →
      ∃ t q, exec (.rdReq link p) s = .next t ∧ q ∈ t.fab.rsp ∧ q.pkt.typ = 3 ∧ q.pkt.dst = p.src ∧ q.pkt.ctx = p.ctx ∧ q.pkt.seq = p.seq ∧
        q.pkt.payload = ceBytes s p.addr.toNat p.len.toNat ∧ t.mem.gddr = s.mem.gddr ∧
        (∀ g, p.guard = some g → t.mem.watch.any (fun w => decide (w.who = .remote p.src p.ctx) && w.lo == g.1 && w.hi == g.2) = true) ∧
        t.fab.rx = smSet RxPair.init s.fab.rx (rxKey p.src p.ctx) ⟨p.seq + 1, [], (rxPair s p).refused.filter (fun x => x != p.seq)⟩) ∧
    (sigBad { p with typ := 4 } = false → sigTargetBad s (sigIn p) = false → sigCount s < 4096 →
      ∃ t, exec (.sig link p) s = .next t ∧ t.sync.held = s.sync.held ++ [sigIn p] ∧
        t.fab.rx = smSet RxPair.init s.fab.rx (rxKey p.src p.ctx) ⟨p.seq + 1, [], (rxPair s p).refused.filter (fun x => x != p.seq)⟩)

/-- R326, R328, R336, R337, R339: RD_RSP answers its read; ACK and ACKC free what they cover; NACK marks its packet to go again; ERR makes the
packet's fragment fail. -/
def Obligations.PacketAnswers : Prop :=
  ∀ (s : State) (link : Nat) (p : Packet), linkUp s link = true → p.dst = devId s → p.kz = false → s.job.device = none → noneLost s = true →
    ¬(s.job.st = .preempting ∧ s.job.order4 = true) → smWf TxPair.init s.fab.tx = true →
    p.tag = s.job.tag → s.job.gone.contains p.src = false → jobTakes s = true → s.job.fatal = none → s.job.left = false → noServed s = true →
    (∀ (r : ReadWait), s.fab.reads.find? (fun r => r.dst == p.src && r.ctx == p.ctx && r.seq == p.seq) = some r →
      ∃ t, exec (.rdRsp link p) s = .next t ∧ t.fab.reads = s.fab.reads.erase r ∧ t.fab.tx = s.fab.tx ∧
        ∀ k uid frag o, r.owner = .ce k uid frag → o ∈ (getCe s k).ops → o.uid = uid →
          { opData o r.key (slice p.payload 0 r.n) (payFlags p r.n) with torn := o.torn || p.torn } ∈ (getCe t k).ops) ∧
    (let pair := smGet TxPair.init s.fab.tx (txKey p.ctx p.src)
     pair.wait = [] →
      ∃ t, exec (.ack link p) s = .next t ∧ t.fab.tx = smSet TxPair.init s.fab.tx (txKey p.ctx p.src)
        { pair with air := pair.air.filter (fun q => !serialLe q.pkt.seq (BitVec.ofNat 16 p.spec.toNat)) }) ∧
    (let ctx := BitVec.ofNat 14 (fieldAt p.payload 0 2)
     let pair := smGet TxPair.init s.fab.tx (txKey ctx p.src)
     2 ≤ (getLink s link).fpl → p.len = 4 → pair.wait = [] →
      ∃ t, exec (.ackc link p) s = .next t ∧ t.fab.tx = smSet TxPair.init s.fab.tx (txKey ctx p.src)
        { pair with air := pair.air.filter (fun q => !serialLe q.pkt.seq (BitVec.ofNat 16 (fieldAt p.payload 2 2))) }) ∧
    (let pair := smGet TxPair.init s.fab.tx (txKey p.ctx p.src)
     ∃ t, exec (.nack link p) s = .next t ∧ t.fab.tx = smSet TxPair.init s.fab.tx (txKey p.ctx p.src)
        { pair with air := pair.air.map (fun q => if q.pkt.seq = BitVec.ofNat 16 p.spec.toNat then { q with nacked := true } else q) }) ∧
    (∀ q k uid frag o, (smGet TxPair.init s.fab.tx (txKey p.ctx p.src)).air.find? (fun q => q.pkt.seq == BitVec.ofNat 16 p.spec.toNat) = some q →
      q.owner = .ce k uid frag → o ∈ (getCe s k).ops → o.uid = uid →
      ∃ t, exec (.err link p) s = .next t ∧ { q with tries := 0, nacked := true } ∈ (smGet TxPair.init t.fab.tx (txKey p.ctx p.src)).lost ∧
        { o with fails := o.fails ||| BitVec.ofNat 64 (2 ^ (frag % 64)) } ∈ (getCe t k).ops)

/-- R336, R337: the end-to-end timer sends the due packet again, at most three times, and then loses it; the timer of a NACKed packet sends it again;
R342, R344: the source queue releases its first message, and the gap timer skips what is missing. -/
def Obligations.SourceTimers : Prop :=
  (∀ (s : State) (dst ctx : BitVec 14) (q : TxPkt), mayInject s = true → noneLost s = true → noServed s = true →
    ¬(s.job.st = .preempting ∧ s.job.order4 = true) →
    let pair := smGet TxPair.init s.fab.tx (txKey ctx dst)
    dueOf (pair.air ++ s.fab.rsp.filter (fun q => q.pkt.dst == dst && q.pkt.ctx == ctx)) = some q → q ∈ pair.air → q.pkt.typ ≠ 3 →
    ∃ t, exec (.e2eResendTimeout dst ctx) s = .next t ∧
      (q.tries < 3 → { q with tries := q.tries + 1, pkt := withPath s q.pkt } ∈ (smGet TxPair.init t.fab.tx (txKey ctx dst)).air ∧
        reg t aFabResend = ctrAdd (reg s aFabResend) 1) ∧
      (3 ≤ q.tries → { q with tries := 0, nacked := false } ∈ (smGet TxPair.init t.fab.tx (txKey ctx dst)).lost ∧
        reg t aFabLost = ctrAdd (reg s aFabLost) 1)) ∧
  (∀ (s : State) (dst ctx : BitVec 14) (q : TxPkt), mayInject s = true →
    let pair := smGet TxPair.init s.fab.tx (txKey ctx dst)
    pair.air.find? (fun q => q.nacked) = some q →
    ∃ t, exec (.nackResend dst ctx) s = .next t ∧ { q with nacked := false } ∈ (smGet TxPair.init t.fab.tx (txKey ctx dst)).air ∧
      t.sync = s.sync) ∧
  (∀ (s : State) (m : Tc0) (ms : List Tc0) (i k h : Nat), s.fab.tc0q = m :: ms → m.dst ≠ devId s → m.kind ≠ 5 →
    pickPath s (.tc0 m 0 0) = some (i, k, h) →
    let o := wireLeave s k (.tc0 m 0 0)
    ∃ t, exec .tc0Release s = .next t ∧ t.fab.tc0q = ms ∧
      smGet [] (getLink t k).q (wireLane o) = smGet [] (getLink s k).q (wireLane o) ++ [⟨.tc0 m 0 0, wireBytes o, 0, 36⟩]) ∧
  (∀ (s : State) (m : Tc0), s.fab.tc0Held = [m] → m.kind = 4 → smWf 0 s.fab.tc0Rx = true →
    ∃ t, exec (.tc0GapTimeout m.src) s = .next t ∧ t.fab.tc0Held = [] ∧
      t.fab.tc0Rx = smSet 0 (smSet 0 s.fab.tc0Rx m.src.toNat m.seq) m.src.toNat (m.seq + 1) ∧
      reg t aFabGaps = ctrAdd (reg s aFabGaps) 1)

/-! ### Links -/

/-- R315, R322 to R324, R333, R349: training, HELLO, lane failures and retraining take a link through its states; a neighbour that is not the one
of the link table, or a fourth attempt without success, leaves it FAILED. -/
def Obligations.LinkStates : Prop :=
  (∀ (s : State) (k : Nat), k < 36 → (getLink s k).st = .training →
    ((getLink s k).hello = false → ∃ t, exec (.trainingAttemptEnd k true) s = .next t ∧ (getLink t k).hello = true ∧ (getLink t k).st = .training ∧
      (getLink t k).wire = helloFlit s k) ∧
    ((getLink s k).attempts < 3 → ∃ t, exec (.trainingAttemptEnd k false) s = .next t ∧ (getLink t k).st = .training ∧
      (getLink t k).attempts = (getLink s k).attempts + 1) ∧
    (3 ≤ (getLink s k).attempts → ∃ t, exec (.trainingAttemptEnd k false) s = .next t ∧ (getLink t k).st = .failed)) ∧
  (∀ (s : State) (k : Nat) (dev : BitVec 14) (index fpl sfl : BitVec 8) (mll feed : Word16), k < 36 → (getLink s k).st = .training →
    (getLink s k).hello = true →
    (fieldAt (linkEntry s k) 2 2 = dev.toNat → fieldAt (linkEntry s k) 4 1 = index.toNat → fpl ≠ 0 →
      ∃ t, exec (.hello k dev index fpl sfl mll feed) s = .next t ∧ (getLink t k).st = .up ∧ (getLink t k).ndev = dev.toNat ∧
        (getLink t k).nlink = index.toNat ∧ (getLink t k).nfeed = feed.toNat ∧ (getLink t k).lanes = (lanePick (getLink s k).sick).1 ∧
        (getLink t k).fpl = min fpl.toNat (regF s 0x3F0000800008 7 0)) ∧
    (¬(fieldAt (linkEntry s k) 2 2 = dev.toNat ∧ fieldAt (linkEntry s k) 4 1 = index.toNat ∧ fpl ≠ 0) →
      ∃ t, exec (.hello k dev index fpl sfl mll feed) s = .next t ∧ (getLink t k).st = .failed)) ∧
  (∀ (s : State) (k : Nat) (lane : BitVec 2), linkUp s k = true →
    ∃ t, exec (.laneUnhealthy k (some lane)) s = .next t ∧ (getLink t k).st = .retrain ∧
      (getLink t k).sick = (getLink s k).sick ||| BitVec.ofNat 4 (2 ^ lane.toNat) ∧ (getLink t k).retry = (getLink s k).retry) ∧
  (∀ (s : State) (k : Nat) (i : Instr), linkUp s k = true → i = .laneUnhealthy k none ∨ i = .neighbourRetrain k →
    ∃ t, exec i s = .next t ∧ (getLink t k).st = .retrain ∧ (getLink t k).retry = (getLink s k).retry ∧ (getLink t k).q = (getLink s k).q) ∧
  (∀ (s : State) (k : Nat), k < 36 → (getLink s k).st = .retrain → (lanePick (getLink s k).sick).1 ≠ 0 →
    ∃ t, exec (.retrainLock k) s = .next t ∧ (getLink t k).st = .up ∧ (getLink t k).lanes = (lanePick (getLink s k).sick).1 ∧
      (getLink t k).pair = (lanePick (getLink s k).sick).2 ∧ (getLink t k).replay = (getLink s k).retry) ∧
  (∀ (s : State) (k : Nat), k < 36 → (getLink s k).st = .retrain →
    ∃ t, exec (.retrainTimeout k) s = .next t ∧ (getLink t k).st = .failed ∧ (getLink t k).retry = [])

/-- R318 to R321, R334, R335: a link sends the flit to replay, else the next data flit of the class and phase that may go, else an idle flit; an accepted flit moves
the receiver's number, a flit that fails asks for a NAK, a duplicate is discarded; an acknowledgement frees the retry buffer and credits come
back; a NAK replays, the eighth in a row for one flit retrains. -/
def Obligations.FlitResults : Prop :=
  (∀ (s : State) (k : Nat) (f : TxFlit) (fs : List TxFlit), linkUp s k = true → (getLink s k).replay = f :: fs →
    ∃ t, exec (.flitSend k) s = .next t ∧ (getLink t k).wire = reAck (getLink s k) f.raw ∧ (getLink t k).replay = fs ∧
      (getLink t k).retry = (getLink s k).retry) ∧
  (∀ (s : State) (k cls ph : Nat) (d : SMap Int), linkUp s k = true → (getLink s k).replay = [] → (getLink s k).retry.length < 256 →
    pickClass s (getLink s k) = some (cls, d) → pickPhase s (getLink s k) cls = some ph →
    ∃ t f, exec (.flitSend k) s = .next t ∧ (getLink t k).retry = (getLink s k).retry ++ [f] ∧ f.seq = (getLink s k).txSeq ∧
      f.raw = (getLink t k).wire ∧ (getLink t k).txSeq = (getLink s k).txSeq + 1 ∧
      (getLink t k).wire = flitOf 0 cls (getLink s k).txSeq.toNat (ackWord (getLink s k)) (takeRets (getLink s k)).1
        ((fillLane s (getLink s k) (cls * 3 + ph)).2.2.1.getD 0x3FF) ph (fillLane s (getLink s k) (cls * 3 + ph)).1) ∧
  (∀ (s : State) (k : Nat), linkUp s k = true → (getLink s k).replay = [] →
    256 ≤ (getLink s k).retry.length ∨ pickClass s (getLink s k) = none →
    ∃ t, exec (.flitSend k) s = .next t ∧ (getLink t k).retry = (getLink s k).retry ∧ (getLink t k).txSeq = (getLink s k).txSeq ∧
      (getLink t k).wire = flitOf 1 0 0 (ackWord (getLink s k)) (takeRets (getLink s k)).1 0x3FF 0 []) ∧
  (∀ (s : State) (k : Nat) (fec : FecOutcome) (raw : List Byte), linkUp s k = true → flitOk fec raw = true →
    bitsOf (fieldAt raw 0 2) 15 14 = 0 → bitsOf (fieldAt raw 0 2) 13 12 ≠ 0 →
    let l := getLink s k
    let n := BitVec.ofNat 12 (fieldAt raw 0 2 % 4096)
    let want : BitVec 12 := if l.rxAny then l.rxSeq + 1 else 0
    let lane := bitsOf (fieldAt raw 0 2) 13 12 * 3 + fieldAt raw 14 1 % 4
    let got := parsePkts 22 (smGet [] l.part lane ++ slice raw 16 flitPay)
    (n = want → got.1 = [] →
      ∃ t, exec (.dataFlit k fec raw) s = .next t ∧ (getLink t k).rxAny = true ∧ (getLink t k).rxSeq = n ∧ (getLink t k).rxWait = false ∧
        (getLink t k).part = smSet [] l.part lane got.2.1) ∧
    (n ≠ want → (n - want).toNat < 2048 → l.rxWait = false →
      ∃ t, exec (.dataFlit k fec raw) s = .next t ∧ (getLink t k).nakDue = true ∧ (getLink t k).rxWait = true ∧ (getLink t k).rxSeq = l.rxSeq ∧
        (getLink t k).part = l.part) ∧
    (2048 ≤ (n - want).toNat →
      ∃ t, exec (.dataFlit k fec raw) s = .next t ∧ (getLink t k).rxSeq = l.rxSeq ∧ (getLink t k).rxAny = l.rxAny ∧
        (getLink t k).rxWait = l.rxWait ∧ (getLink t k).part = l.part)) ∧
  (∀ (s : State) (k : Nat) (fec : FecOutcome) (raw : List Byte) (i : Instr), linkUp s k = true → flitOk fec raw = false →
    i = .dataFlit k fec raw ∨ i = .idleFlit k fec raw →
    ∃ t, exec i s = .next t ∧ (getLink t k).nakDue = true ∧ (getLink t k).rxWait = true ∧ (getLink t k).rxSeq = (getLink s k).rxSeq ∧
      (getLink t k).rxAny = (getLink s k).rxAny ∧ (getLink t k).part = (getLink s k).part ∧ (getLink t k).retry = (getLink s k).retry) ∧
  (∀ (s : State) (k : Nat) (fec : FecOutcome) (raw : List Byte), linkUp s k = true → flitOk fec raw = true →
    bitOf (fieldAt raw 2 2) 12 = true → bitOf (fieldAt raw 2 2) 13 = false →
    ∃ t, exec (.idleFlit k fec raw) s = .next t ∧ (getLink t k).st = .up ∧ (getLink t k).rxSeq = (getLink s k).rxSeq ∧
      (getLink t k).retry = (getLink s k).retry.filter (fun f => !serialLe12 f.seq (BitVec.ofNat 12 (fieldAt raw 2 2 % 4096)))) ∧
  (∀ (s : State) (k : Nat) (n : BitVec 12), linkUp s k = true →
    let l := getLink s k
    let r := l.retry.filter (fun f => !serialLe12 f.seq n)
    ∃ t, exec (.nak k n) s = .next t ∧ (getLink t k).retry = r ∧
      (r = [] → (getLink t k).st = .up) ∧
      (r ≠ [] → l.naks + 1 < 8 ∨ r.length < l.retry.length → (getLink t k).replay = r ∧ (getLink t k).st = .up) ∧
      (r ≠ [] → 8 ≤ l.naks + 1 → r.length = l.retry.length → (getLink t k).st = .retrain))

/-! ### Time -/

/-- R345 to R348, R543, R544, R586: exchanges with the parent, the steps to LOCKED, holdover, PPS edges and snapshots. The count that a message
carries as its own time of sending is put in when its flit leaves (R346), so it is not stated here. -/
def Obligations.TimeResults : Prop :=
  (∀ (s : State), isRoot s = false → s.tim.started = true → linkUp s (parentLink s) = true →
    ∃ t m, exec .syncExchangeTimer s = .next t ∧ m ∈ t.fab.tc0q ∧ m.kind = 5 ∧ m.dst = BitVec.ofNat 14 (getLink s (parentLink s)).ndev ∧
      m.body.length = 32 ∧ m.body.take 8 = leBytes 8 1 ∧ m.body.drop 16 = zeros 16) ∧
  (∀ (s : State) (link : Nat) (child : BitVec 14) (t1 t2 : Word64), link < 36 → syncSt s = 2 →
    ∃ t m, exec (.syncReq link child t1 t2) s = .next t ∧ m ∈ t.fab.tc0q ∧ m.kind = 5 ∧ m.dst = child ∧
      m.body.length = 32 ∧ m.body.take 24 = leBytes 8 2 ++ leBytes 8 t1.toNat ++ leBytes 8 t2.toNat) ∧
  (∀ (s : State) (link : Nat) (child : BitVec 14) (t1 t2 : Word64), link < 36 → syncSt s ≠ 2 →
    exec (.syncReq link child t1 t2) s = .next s) ∧
  (∀ (s : State) (link : Nat) (t1 t2 t3 t4 : Word64), isRoot s = false → link = parentLink s → linkUp s link = true → syncSt s = 0 →
    regsWf s = true →
    ∃ t, exec (.syncRsp link t1 t2 t3 t4) s = .next t ∧ syncSt t = 1 ∧ t.tim.good = 0 ∧
      t.tim.acc = wrapInt 96 ((s.tim.acc : Int) + syncTheta t1 t2 t3 t4 * 2 ^ 32)) ∧
  (∀ (s : State) (link : Nat) (t1 t2 t3 t4 : Word64), isRoot s = false → link = parentLink s → linkUp s link = true → syncSt s = 1 →
    regsWf s = true →
    ∃ t, exec (.syncRsp link t1 t2 t3 t4) s = .next t ∧ t.tim.acc = s.tim.acc ∧ t.tim.theta = syncTheta t1 t2 t3 t4 ∧
      t.tim.good = goodAfter s (syncTheta t1 t2 t3 t4) ∧
      syncSt t = if 8 ≤ goodAfter s (syncTheta t1 t2 t3 t4) then 2 else 1) ∧
  (∀ (s : State) (link : Nat) (t1 t2 t3 t4 : Word64), isRoot s = false → link = parentLink s → linkUp s link = true → syncSt s = 2 →
    regsWf s = true →
    ∃ t, exec (.syncRsp link t1 t2 t3 t4) s = .next t ∧ syncSt t = 2 ∧ t.tim.acc = s.tim.acc ∧
      regF t 0x3F0001100008 15 0 = wrapInt 16 (trimFor (syncTheta t1 t2 t3 t4))) ∧
  (∀ (s : State), isRoot s = false → s.tim.holdover = true → syncSt s ≠ 3 →
    ∃ t, exec .holdoverExpiry s = .next t ∧ syncSt t = 3 ∧ t.tim = s.tim) ∧
  (∀ (s : State), isRoot s = false → regsWf s = true → ∃ t, exec .ppsEdge s = .next t ∧ reg t 0x3F0001100010 = nowW s ∧ t.tim = s.tim) ∧
  (∀ (s : State), isRoot s = true → s.tim.edges = 0 → syncSt s = 0 →
    ∃ t, exec .ppsEdge s = .next t ∧ syncSt t = 1 ∧ t.tim.edges = 1 ∧ t.tim.follows = true ∧ t.tim.stepped = true) ∧
  (∀ (s : State), isRoot s = true → (s.tim.edges = 0 ∧ syncSt s ≠ 0) ∨ (s.tim.edges ≠ 0 ∧ s.tim.follows = false) →
    ∃ t, exec .ppsEdge s = .next t ∧ syncSt t = syncSt s ∧ t.tim = { s.tim with edges := s.tim.edges + 1 }) ∧
  (∀ (s : State), isRoot s = true → s.tim.edges ≠ 0 → s.tim.follows = true →
    ∃ t, exec .ppsEdge s = .next t ∧ syncSt t = 2 ∧ t.tim.edges = s.tim.edges + 1) ∧
  (∀ (s : State), isRoot s = true → s.tim.started = true →
    (s.tim.follows = true → ∃ t, exec .ppsTimeout s = .next t ∧ syncSt t = 3 ∧ t.tim = s.tim) ∧
    (s.tim.follows = false → syncSt s = 0 → ∃ t, exec .ppsTimeout s = .next t ∧ syncSt t = 2 ∧ t.tim.stepped = true)) ∧
  (∀ (s : State), regsWf s = true →
    ∃ t, exec .timSnap s = .next t ∧ reg t 0x3F0001100020 = nowW s ∧ reg t 0x3F0001100028 = reg s 0x3F0001000018)

/-! ### Local copies -/

/-- R271 to R276, R278: a copy starts when its turn comes; complete, it has written its rows and left its unit; a torn one reads again; go runs
the failed fragments again, abort poisons their destination and completes the copy. -/
def Obligations.LocalCopyResults : Prop :=
  (∀ (s : State) (core : Nat) (q : Copy) (fail : BitVec 64) (u : Upset), coreOk s core = true → copiesRun s = true →
    nextCopy s (getCore s core) = some q →
    ∃ t q', exec (.lcuCopyStart core fail u) s = .next t ∧ q' ∈ (getCore t core).lcu ∧ q'.ord = q.ord ∧ q'.active = true ∧ q'.failed = false ∧
      q'.fails = (fail ||| badFrags s q.desc q.todo) &&& q.todo) ∧
  (∀ (s : State) (core : Nat) (q0 q : Copy) (l0 l : List Copy), coreOk s core = true → s.seq.st = .running → s.job.device = none →
    (getCore s core).lcu = q0 :: l0 → q0.active = true → readsIn s q0 = true →
    let s0 := lateRead s core q0
    (getCore s0 core).st ≠ .idle → (getCore s0 core).lcu = q :: l → readsIn s0 q = true → q.fails = 0 →
    (dGuard q.desc && watchTorn s0 (copyWatch core q)) = false → s0.cores.all (fun p => p.2.arms.isEmpty) = true →
    let d := q.desc
    let r := draw s0
    let u := srcUsed r.2 core q r.1 q.todo false
    (dDstKind d = 0 ∨ dDstKind d = 1 →
      ∃ t, exec (.lcuCopyComplete core) s = .next t ∧ (getCore t core).lcu = l.filter (fun x => x.ord != q.ord) ∧
        (let w := putDst r.2 core d q.cover (dstPieces r.2 core d (codedRows r.2 core q u q.todo))
         t.mem.gddr = w.mem.gddr ∧ t.mem.cxl = w.mem.cxl ∧ (getCore t core).buf = (getCore w core).buf)) ∧
    (dDstKind d = 5 → firstBad q core u = none →
      ∃ t, exec (.lcuCopyComplete core) s = .next t ∧ (getCore t core).lcu = l.filter (fun x => x.ord != q.ord) ∧
        (getCore t core).comb = (putTile (getCore s0 core) d (codedRows r.2 core q u (fragAll d))).comb) ∧
    (dDstKind d ≠ 0 → dDstKind d ≠ 1 → dDstKind d ≠ 5 → (getCore s0 core).flight = [] →
      ∃ t, exec (.lcuCopyComplete core) s = .next t ∧ (getCore t core).lcu = l.filter (fun x => x.ord != q.ord) ∧
        (getCore t core).acc = (putAcc d ((codedRows r.2 core q u (fragAll d)).map (fun p => (p.1, p.2, false))) (getCore s0 core)).acc)) ∧
  (∀ (s : State) (core : Nat) (q : Copy) (fail : BitVec 64), coreOk s core = true → copiesRun s = true →
    (getCore s core).lcu.find? (fun q => q.active && dGuard q.desc && watchTorn s (copyWatch core q) && (!(dTornfault q.desc || q.reread) ||
      decide ((getCore s core).lcu.head?.map (fun q => q.ord) = some q.ord))) = some q →
    dTornfault q.desc = false → q.reread = false →
    ∃ t q', exec (.tornReread core fail) s = .next t ∧ q' ∈ (getCore t core).lcu ∧ q'.ord = q.ord ∧ q'.active = true ∧ q'.reread = true ∧
      q'.failed = false) ∧
  (∀ (s : State) (core : Nat) (q : Copy) (fail : BitVec 64), coreOk s core = true → copiesRun s = true → failedCopy (getCore s core) = some q →
    s.job.fatal = none →
    ∃ t q', exec (.lcuRetryGo core fail) s = .next t ∧ q' ∈ (getCore t core).lcu ∧ q'.ord = q.ord ∧ q'.failed = false ∧ q'.todo = q.todo ∧
      (dGuard q.desc = false ∨ slotsFree s (envelope q.desc).1 (envelope q.desc).2 = true → q'.active = true) ∧
      (dGuard q.desc = true → slotsFree s (envelope q.desc).1 (envelope q.desc).2 = false → q'.active = q.active)) ∧
  (∀ (s : State) (core : Nat) (q : Copy), coreOk s core = true → (getCore s core).st ≠ .idle → failedCopy (getCore s core) = some q →
    copiesRun s = true → s.job.fatal = none → dDstKind q.desc = 1 → s.cores.all (fun p => p.2.arms.isEmpty) = true →
    let first := (getCore s core).lcu.head?.map (fun x => x.ord)
    ∃ t, exec (.lcuRetryAbort core) s = .next t ∧ (getCore t core).buf = (getCore s core).buf ∧
      (getCore t core).bufPoison = (poisonBuf ((if dDstLay q.desc = 1 then lostSkew q.desc q.todo else lostRuns q.desc q.todo) ++ lostScale q.desc q.todo)
        (getCore s core)).bufPoison ∧
      (first = some q.ord → (getCore t core).lcu = (getCore s core).lcu.filter (fun x => x.ord != q.ord)) ∧
      (first ≠ some q.ord → ∃ q', q' ∈ (getCore t core).lcu ∧ q'.ord = q.ord ∧ q'.active = true ∧ q'.failed = false ∧ q'.todo = 0))

/-! ### The engines -/

/-- R359, R362, R368, R391, R437 to R439: an engine starts the operation whose turn it is; complete, it has written its bytes and left; go runs the failed
fragments again, abort ends the operation; the default action writes go until its limit and then raises RECOVERY_EXHAUSTED. -/
def Obligations.EngineResults : Prop :=
  (∀ (s : State) (k : BitVec 4) (o : CeOp) (fail : BitVec 64),
    (∀ x, x ∈ (getCe s k.toNat).ops → ∀ d g, x.kind ≠ .sig d g) → pickStart s k.toNat = some o → o.kind = .copy → o.mgmt = 0 →
    ∃ t o', exec (.ceOperationStart k fail) s = .next t ∧ o' ∈ (getCe t k.toNat).ops ∧ o'.uid = o.uid ∧ o'.started = true ∧ o'.failed = false ∧
      o'.todo = o.todo &&& planAll (xstrPlan s o.desc) ∧ (getCe t k.toNat).last = o.ctx.toNat) ∧
  (∀ (s : State) (k : BitVec 4) (o : CeOp), s.seq.st = .running → s.job.device = none → snapSt s ≠ 2 → pickEnd s k.toNat = some o →
    getOp s k.toNat o.uid = some o → o.kind = .copy → o.mgmt = 0 → (xstrPlan s o.desc).guard = false → planFar (xstrPlan s o.desc) = false →
    o.fails = 0 → o.aborting = false → ownFull s o (xstrPlan s o.desc) = false → sStatus o.desc = 0 → s.cores.all (fun p => p.2.arms.isEmpty) = true → smWf Engine.init s.ce = true →
    let p := xstrPlan s o.desc
    let s1 := ceLate (setCe s k.toNat { getCe s k.toNat with last := o.ctx.toNat }) k.toNat o p
    ∀ o1, getOp s1 k.toNat o.uid = some o1 → opReadsIn s1 p = true →
    ∃ t, exec (.ceOperationComplete k) s = .next t ∧
      (getCe t k.toNat).ops = (getCe s k.toNat).ops.filter (fun x => x.uid != o.uid) ∧
      (let r := draw s1
       let w := ceCover o1.cover r.2 p.hint (pieceWrites r.2 r.1 false o1 p o1.todo)
       t.mem.gddr = w.mem.gddr ∧ t.mem.cxl = w.mem.cxl)) ∧
  (∀ (s : State) (k : BitVec 4) (ctx : BitVec 14) (o : CeOp) (fail : BitVec 64), failedOp s k.toNat ctx = some o → retryOn s = true →
    o.kind = .copy → o.mgmt = 0 → planSlots s (opPlan s o) = true →
    ∃ t o', exec (.ceRetryGo k ctx fail) s = .next t ∧ o' ∈ (getCe t k.toNat).ops ∧ o'.uid = o.uid ∧ o'.started = true ∧ o'.failed = false ∧
      o'.todo = o.failMask) ∧
  (∀ (s : State) (k : BitVec 4) (ctx : BitVec 14) (o : CeOp), failedOp s k.toNat ctx = some o → retryOn s = true →
    (∃ t o', exec (.ceRetryAbort k ctx true) s = .next t ∧ o' ∈ (getCe t k.toNat).ops ∧ o'.uid = o.uid ∧ o'.afail = true ∧ o'.failed = true) ∧
    (o.kind = .copy → o.mgmt = 0 → abortOk s o (opPlan s o) = true → smWf Engine.init s.ce = true →
      (planFar (opPlan s o) = false → ctxFirst s k.toNat o = true →
        ∃ t, exec (.ceRetryAbort k ctx false) s = .next t ∧
          (getCe t k.toNat).ops = (getCe s k.toNat).ops.filter (fun x => x.uid != o.uid)) ∧
      (planFar (opPlan s o) = true ∨ ctxFirst s k.toNat o = false →
        ∃ t o', exec (.ceRetryAbort k ctx false) s = .next t ∧ o' ∈ (getCe t k.toNat).ops ∧ o'.uid = o.uid ∧ o'.aborting = true ∧ o'.failed = false))) ∧
  (∀ (s : State) (ctx : BitVec 14) (o : CeOp), failedOp s (engineOf ctx) ctx = some o → defaultOn s = true →
    (o.kind = .copy → o.mgmt = 0 → o.goes < (if o.code = 0x5003 then 1 else 3) → o.code = 0x5003 ∨ ceStuck s o = false →
      planSlots s (opPlan s o) = true →
      ∃ t o', exec (.recoveryRetry false 0 ctx false) s = .next t ∧ o' ∈ (getCe t (engineOf ctx)).ops ∧ o'.uid = o.uid ∧
        o'.goes = o.goes + 1 ∧ o'.started = true ∧ o'.failed = false) ∧
    (3 ≤ o.goes →
      ∃ t, exec (.recoveryRetry false 0 ctx false) s = .next t ∧ t.job.fatal = some 0x5030 ∧ t.seq.st = .halting)) ∧
  (∀ (s : State) (core : Nat) (q : Copy), coreOk s core = true → failedCopy (getCore s core) = some q → defaultOn s = true →
    q.goes < (if q.code = 0x5003 then 1 else 3) → q.code = 0x5003 ∨ lcuStuck s q = false → dGuard q.desc = false →
    ∃ t q', exec (.recoveryRetry true core 0 false) s = .next t ∧ q' ∈ (getCore t core).lcu ∧ q'.ord = q.ord ∧ q'.goes = q.goes + 1 ∧
      q'.active = true ∧ q'.failed = false)

/-- R376, R377, R387, R418: a step of a collective asks for what it reads and, with it at hand, writes it; a completed collective leaves when its members are
done; a bucket's results go into its table and COL_COUNT; SNAP_REQUEST takes a later boundary. -/
def Obligations.CollectiveResults : Prop :=
  (∀ (s : State) (k : BitVec 4) (ranges : List (BitVec 48 × BitVec 48)) (o : CeOp), noneLost s = true →
    ctxNext (getCe s k.toNat).last ((getCe s k.toNat).ops.filter (colReady s k.toNat ranges)) = some o →
    let s1 := setCe s k.toNat { getCe s k.toNat with last := o.ctx.toNat }
    let c := colOf s1 k.toNat o
    colCheck s1 k.toNat o none = none →
    (o.asked = false → flagPoison s1 c = none → cOp o.desc ≠ 4 → cOp o.desc ≠ 5 →
      colAskBad s1 c (stepIn s1 c o.step ranges).reads = none →
      ∃ t o', exec (.collectiveStep k ranges) s = .next t ∧ o' ∈ (getCe t k.toNat).ops ∧ o'.uid = o.uid ∧ o'.asked = true ∧ o'.step = o.step) ∧
    (o.asked = true → cOp o.desc = 2 → cAlg o.desc = 0 ∨ c.g ≤ o.step + 1 →
      exec (.collectiveStep k ranges) s = .next (endSteps c (copyOut c o (stepIn s1 c o.step ranges).reads s1)))) ∧
  (∀ (s : State) (k : BitVec 4) (o : CeOp),
    (getCe s k.toNat).ops.find? (fun o => o.kind == .col && o.completed && ((relCheck s k.toNat o).isSome || allDone s (colOf s k.toNat o))) = some o →
    relCheck s k.toNat o = none → ceSteps s = true → snapSt s ≠ 2 → smWf Engine.init s.ce = true →
    ∃ t, exec (.collectiveRelease k) s = .next t ∧
      (getCe t k.toNat).ops = (getCe s k.toNat).ops.filter (fun x => x.uid != o.uid)) ∧
  (∀ (s : State) (k : BitVec 4) (o : CeOp), ceSteps s = true →
    bktNext s k.toNat = some o → 1 ≤ o.stage → runsPend s (bktReads s o) = false → bktCheck s k.toNat o = none →
    let c := colOf s k.toNat o
    let h := ceBytes s (cTable o.desc) 64
    let n := fieldAt h 22 2 + 1
    let lo := if n = 1 then c.g else min (fieldAt h 30 2) c.g
    ∃ t o', exec (.bucketCommit k) s = .next t ∧ o' ∈ (getCe t k.toNat).ops ∧ o'.uid = o.uid ∧ o'.step = stepCommitted ∧
      reg t 0x3F0000A10008 = BitVec.ofNat 64 (lo + max (fieldAt h 32 2) c.g * 2 ^ 16 + n * 2 ^ 32)) ∧
  (∀ (s : State) (t : BitVec 3),
    (snapSt s ≠ 0 → ∃ u, exec (.snapRequest t) s = .next u ∧ regF u 0x3F0000B00048 9 8 = 1) ∧
    (snapSt s = 0 → (reg s 0x3F0000B00040).toNat ≤ s.seq.step.toNat →
      ∃ u, exec (.snapRequest t) s = .next u ∧ regF u 0x3F0000B00048 9 8 = 2) ∧
    (snapSt s = 0 → s.seq.step.toNat < (reg s 0x3F0000B00040).toNat → snapEn s = false ∨ snapValid s t.toNat = false →
      ∃ u, exec (.snapRequest t) s = .next u ∧ regF u 0x3F0000B00048 9 8 = 3) ∧
    (snapSt s = 0 → s.seq.step.toNat < (reg s 0x3F0000B00040).toNat → snapEn s = true → snapValid s t.toNat = true →
      ∃ u, exec (.snapRequest t) s = .next u ∧ snapSt u = 1 ∧ snapT u = t.toNat ∧ u.seq = s.seq ∧ u.ce = s.ce))

/-! ### Memory -/

/-- R303, R305, R309: a controller serves the request that its window gives; a scrub read reports what it finds; a port that goes down leaves use. -/
def Obligations.MemoryEvents : Prop :=
  (∀ (s : State) (mc : BitVec 4) (e : EccOutcome) (r : MReq),
    let q := smGet [] s.mem.win mc.toNat
    let i := mcPick s (q.take 256)
    q[i]? = some r → noServed s = true →
    ∃ t, exec (.mcRequest mc e) s = .next t ∧ (q.length ≤ 256 → t.mem.win = smSet [] s.mem.win mc.toNat (mcPass q i)) ∧
      t.mem.pages = smSet 0 s.mem.pages (bankKey (r.line * 64)) (dramRow (r.line * 64) + 1) ∧ t.mem.gddr = s.mem.gddr) ∧
  (∀ (s : State) (mc : BitVec 4) (line : BitVec 27),
    let l := mcGlobal mc.toNat (line.toNat * 64) / 64
    exec (.gddr7Scrub mc line .clean) s = .next s ∧
    (∃ t, exec (.gddr7Scrub mc line .corrected) s = .next t ∧ reg t (aMcCorr (mcOf (l * 64))) = ctrAdd (reg s (aMcCorr (mcOf (l * 64)))) 1 ∧
      t.mem.gddr = s.mem.gddr ∧ t.mem.poison = s.mem.poison) ∧
    (∀ n, n ≠ 0 → ∃ t, exec (.gddr7Scrub mc line (.crcRetried n)) s = .next t ∧
      reg t (aMcCrc (mcOf (l * 64))) = ctrAdd (reg s (aMcCrc (mcOf (l * 64)))) 1 ∧ t.mem = s.mem) ∧
    (poisonCount s (mcOf (l * 64)) < 1024 → ∃ t, exec (.gddr7Scrub mc line .uncorrectable) s = .next t ∧ linePoison t l = true ∧
      t.mem.gddr = s.mem.gddr ∧ t.job.device = s.job.device)) ∧
  (∀ (s : State) (port : BitVec 2), regF s (aCxl port.toNat) 0 0 = 1 → regsWf s = true →
    ∃ t, exec (.cxlPortDown port) s = .next t ∧ regF t (aCxl port.toNat) 0 0 = 0 ∧ smGet false t.mem.cxlDown port.toNat = true ∧
      t.mem.cxl = s.mem.cxl)

/-! ### The Ledger -/

/-- R479, R482, R485, R494 to R499, R502, R505: flushes and clears end, freezes begin and end, the accounting window closes, queries are answered. -/
def Obligations.LedgerResults : Prop :=
  (∀ (s : State), s.pwr.rails ≠ .failing → s.pwr.trip = false → s.ldg.flushing = true → s.ldg.st = .recording → s.ldg.flushAgain = false →
    s.ldg.flushTo ≤ 1718528 → s.ldg.lost = 0 →
    ∃ t, exec (.ledgerFlushComplete true) s = .next t ∧ t.ldg.flushing = false ∧ t.ldg.nFlushed = s.ldg.flushTo ∧ t.ldg.recs = s.ldg.recs ∧
      t.ldg.flushCount = s.ldg.flushCount + 1 ∧
      t.ldg.seals = smSet [] s.ldg.seals (if s.ldg.flushCount = 0 then 0 else (s.ldg.slot + 1) % 2048) (sealBlock s)) ∧
  (∀ (s : State), s.pwr.rails ≠ .failing → s.pwr.trip = false → s.ldg.flushing = true → s.ldg.st ≠ .frozen →
    ∃ t, exec (.ledgerFlushComplete false) s = .next t ∧ regF t 0x3F0000C00000 6 6 = 1) ∧
  (∀ (s : State) (v : Bool), s.pwr.rails ≠ .failing → s.ldg.st = .frozen → exec (.ledgerFlushComplete v) s = .next s) ∧
  (∀ (s : State), s.ldg.st = .clearing → s.ldg.flushing = false → s.ldg.clearing = none →
    ∃ t, exec .ledgerClearComplete s = .next t ∧ t.ldg.st = .recording ∧ (s.ldg.prelock = false → t.ldg.held = [])) ∧
  (∀ (s : State) (x : SegSnap) (xs : List SegSnap), s.ldg.up = true → s.ldg.snaps = x :: xs →
    (x.at_ < now s → ∃ t, exec .accountingWindowBoundary s = .next t ∧ t.ldg.snaps = xs ∧ t.ldg.segJob = s.ldg.segJob ∧
      t.ldg.segEnergy = x.energy.getD (reg s 0x3F0001000018) ∧ t.ldg.segActive = s.ldg.segActive ∧ t.ldg.segSteps = s.ldg.segSteps ∧
      t.ldg.segPreempts = s.ldg.segPreempts) ∧
    (now s ≤ x.at_ → exec .accountingWindowBoundary s = .next s)) ∧
  (∀ (s : State), s.ldg.snaps = [] → exec .accountingWindowBoundary s = .next s) ∧
  (∀ (s : State) (ms : BitVec 7), s.ldg.st = .recording → s.ldg.lastUnfreeze = none → ms.toNat ≤ 100 →
    ∃ t, exec (.ldgFreeze ms) s = .next t ∧ t.ldg.st = .frozen ∧ t.ldg.isOpen = false ∧
      t.ldg.freezeEnd = now s + (if ms = 0 then 100 else ms.toNat) * 1000000) ∧
  (∀ (s : State) (i : Instr), s.ldg.st = .frozen → i = .unfreeze ∨ (i = .freezeExpiry ∧ s.ldg.freezeEnd ≤ now s) →
    ∃ t, exec i s = .next t ∧ t.ldg.st = .recording ∧ t.ldg.lastUnfreeze = some (now s)) ∧
  (∀ (s : State) (src : BitVec 14) (count : BitVec 8) (seq : Word32) (epoch : Word16), 1 ≤ count.toNat → count.toNat ≤ 8 → s.ldg.up = true →
    let a := ldgRead s.ldg epoch.toNat seq.toNat count.toNat
    let body (st : Nat) (r : List Byte) : List Byte := leBytes 1 6 ++ leBytes 1 st ++ leBytes 2 (devId s).toNat ++ zeros 12 ++ slice r 0 32
    ∃ t, exec (.ledgerQuery src count seq epoch) s = .next t ∧ t.ldg = s.ldg ∧
      (∀ r, r ∈ a.1 → ∃ m, m ∈ t.fab.tc0q ∧ m.kind = 6 ∧ m.dst = src ∧ m.body = body (b2n a.2) (recBytes r)) ∧
      (a.1 = [] → ∃ m, m ∈ t.fab.tc0q ∧ m.kind = 6 ∧ m.dst = src ∧ m.body = body 2 [])) ∧
  (∀ (s : State) (src : BitVec 14) (status : BitVec 8) (record : List Byte), exec (.ledgerAnswer src status record) s = .next s)

/-! ### Security and wipes -/

/-- R508 to R510, R526: a command under the IAK that its state accepts, and a relock, begin their transition with a full wipe; R542: the feed-tag check
runs once and refuses strict partners of the module's own tag. -/
def Obligations.SecurityCommandResults : Prop :=
  (∀ (s : State) (key : List Byte) (i : Instr) (m : LcMove),
    (i = .registration key ∧ m = .register key ∧ lcState s = .provisioned ∧ slotFree s ≠ none ∧ signerBad s = none) ∨
    (i = .unlock ∧ m = .unlock ∧ lcState s = .deployed ∧ signerBad s = none) ∨
    (i = .deregistration ∧ m = .deregister ∧ (lcState s = .deployed ∨ lcState s = .service) ∧ signerBad s = none) ∨
    (i = .retire ∧ m = .retire ∧ (lcState s = .provisioned ∨ lcState s = .deployed ∨ lcState s = .service) ∧ signerBad s = none) ∨
    (i = .secRelock ∧ m = .relock ∧ lcState s = .service) →
    s.sec.move = none → s.sec.provisioning = false → s.seq.st = .idle → jobLoaded s = false → s.sec.wipe = none →
    ∃ t w, exec i s = .next t ∧ t.sec.move = some m ∧ t.sec.wipe = some w ∧ w.scope = 3 ∧ w.why = [.move] ∧ t.cores = [] ∧
      t.mem.poison = [] ∧ t.sec.fuses = s.sec.fuses ∧
      t.nor = (match m with | .register k => memWrites s.nor 0x40000 (slice k 0 1793) | _ => s.nor)) ∧
  (∀ (s : State), s.cfg ≠ [] → s.sec.feedDone = false →
    (∀ k, k < 36 → (cfgLink s.cfg k).1 = true → (getLink s k).st = .up ∨ (getLink s k).st = .failed) →
    ∃ t, exec .feedTagCheck s = .next t ∧ t.sec.feedDone = true ∧
      (∀ i d tag, (cfgPartners s)[i]? = some (d, tag, true) → tag = fieldAt s.cfg 42 2 → i ∈ t.job.feedBad) ∧
      ∀ d tag half, cfgFar s = some (d, tag, true, half) → tag = fieldAt s.cfg 42 2 → 7 ∈ t.job.feedBad)

/-- R509, R516: once the wipe of a transition is done, its fuse is burned or its flag changes, and nothing else of the fuses. -/
def Obligations.TransitionResults : Prop :=
  ∀ (s : State) (m : LcMove), s.sec.move = some m → s.sec.wipe = none → s.sec.provisioning = false → s.job.st = .empty →
    ∃ t, exec .lcTransitionComplete s = .next t ∧ t.sec.move = none ∧ t.dbg.mbox = [] ∧
      (let f := s.sec.fuses
       let slot := (iakSlot s).getD 0
       t.sec.fuses = (match m with
         | .provision => { f with provisioned := true }
         | .register key => { f with iak := smSet [] f.iak ((slotFree s).getD 0) ((shake64 (slice key 0 1793)).take 32) }
         | .unlock => f
         | .deregister => { f with revoked := f.revoked ||| BitVec.ofNat 8 (2 ^ slot) }
         | .retire => { f with retired := true }
         | .relock => f) ∧
       (m = .unlock → t.sec.unlocked = true) ∧ (m = .deregister ∨ m = .retire ∨ m = .relock → t.sec.unlocked = false))

/-- R310, R526, R527, R561: Sanitize ends a port's part of the wipe or leaves it to overwriting; a wipe that ends with its parts done is no longer under
way, and a failed one is DEVICE_FATAL; the hold time ends a job with a job-boundary wipe. -/
def Obligations.WipeResults : Prop :=
  (∀ (s : State) (port : BitVec 2) (w : Wipe), s.sec.wipe = some w → w.sanit.getLsbD port.toNat = true →
    (∃ t w1, exec (.sanitizeComplete port true) s = .next t ∧ t.sec.wipe = some w1 ∧ w1.sanit = w.sanit &&& ~~~(portBits [port.toNat]) ∧
      w1.ports = w.ports &&& ~~~(portBits [port.toNat]) ∧ w1.used = w.used ||| portBits [port.toNat]) ∧
    ∀ (i : Instr), i = .sanitizeComplete port false ∨ i = .sanitizeTimeout port →
      ∃ t w1, exec i s = .next t ∧ t.sec.wipe = some w1 ∧ w1.sanit = w.sanit &&& ~~~(portBits [port.toNat]) ∧ w1.ports = w.ports ∧ w1.used = w.used) ∧
  (∀ (s : State) (w : Wipe) (us : BitVec 32) (mllOk : Bool), s.sec.wipe = some w → w.sanit = 0 → wipeBegun s w = true →
    (wipeStuck s w = false → ∃ t, exec (.wipeComplete false us mllOk) s = .next t ∧ t.sec.wipe = none ∧ t.job.device = s.job.device ∧
      (w.why = [.jobEnd] → t.job.st = .empty)) ∧
    ∃ t, exec (.wipeComplete true us mllOk) s = .next t ∧ t.sec.wipe = none ∧ t.job.device ≠ none ∧ regF t 0x3F0000D00020 4 4 = 1) ∧
  (∀ (s : State), s.job.st = .done ∨ s.job.st = .faulted →
    ∃ t w, exec .holdTimeExpiry s = .next t ∧ t.job.st = .wiping ∧ t.sec.wipe = some w ∧ 2 ≤ w.scope ∧ .jobEnd ∈ w.why ∧ t.cores = [] ∧
      t.seq = Seq.init ∧ t.mem.poison = [] ∧ t.job.members = [])

/-! ### Start-up and resets -/

/-- R521, R530, R534, R535, R547: power-up, a released reset and a watchdog expiry run the ROM, which boots the first slot that verifies and goes on to
enumeration (stage 12) or stays in recovery (stage 13). With an accepted configuration block start-up waits at order 8 for the links, the feed tags and
the CXL ports (stage 8), and FEED_TAG_CHECK goes on with it. RESET_N resets all logic but the time base, the power controller and the fuses. -/
def Obligations.StartUpResults : Prop :=
  (∀ (s : State) (o : BootOutcome) (i : Instr),
    (i = .powerUp o ∧ s.pwr.rails ≠ .up ∧ s.pwr.rails ≠ .failing ∧ s.pins.resetN = true) ∨
    (i = .resetNRelease o ∧ s.pwr.waits = true) ∨
    (i = .resetNRelease o ∧ s.pwr.waits = false ∧ s.pwr.held = true ∧ s.pwr.rails = .up) →
    ∃ t, exec i s = .next t ∧ t.pwr.rails = .up ∧
      (∀ n, (romRun s o).2 = some n → t.sec.bslot = (n == 1) ∧ t.sec.recovery = false ∧
        (o.cfgSigOk = false ∨ o.selfTestFail.isSome = true ∨ o.memFail.isSome = true → t.sec.boot = none) ∧
        (t.sec.boot = none ∧ regF t 0x3F0000E00000 3 0 = 12 ∧ (o.rate ≠ 0 → o.width ≠ 0 → t.host.rate = o.rate ∧ t.host.width = o.width) ∨
          t.sec.boot = some o ∧ regF t 0x3F0000E00000 3 0 = 8 ∧ t.host.width = 0)) ∧
      ((romRun s o).2 = none → regF t 0x3F0000E00000 3 0 = 13 ∧ t.sec.recovery = true)) ∧
  (∀ (s : State) (o : BootOutcome), s.pwr.rails ≠ .up → s.pwr.rails ≠ .failing → s.pins.resetN = false →
    ∃ t, exec (.powerUp o) s = .next t ∧ t.pwr.waits = true ∧ t.pins.pwrFailN = true ∧ t.regs = s.regs) ∧
  (∀ (s : State), s.pwr.rails = .up → s.pwr.held = false →
    ∃ t, exec .resetN s = .next t ∧ t.pwr.held = true ∧ t.pins.resetN = false ∧ t.cores = [] ∧ t.seq = Seq.init ∧ t.job = Job.init ∧
      t.sec.fuses = s.sec.fuses ∧ t.tim.acc = s.tim.acc ∧ t.nor = s.nor ∧
      (lcState s ≠ .service ∨ jobLoaded s = false → t.mem.gddr = s.mem.gddr) ∧
      reg t 0x3F0000E00008 = BitVec.ofNat 64 (1 + (regF s 0x3F0000E00008 63 32 + 1) % 2 ^ 32 * 2 ^ 32)) ∧
  (∀ (s : State) (o : BootOutcome) (n : Nat), s.pwr.rails = .up → s.pwr.held = false → s.sec.wdogAt + 10000000 ≤ (now s : Int) →
    (romRun s o).2 = some n →
    ∃ t, exec (.watchdogExpiry o) s = .next t ∧ regF t 0x3F0000E00000 3 0 = (if t.sec.boot = none then 12 else 8) ∧ regF t 0x3F0000E00008 2 0 = 2 ∧ t.pwr.rails = .up) ∧
  (∀ (s : State) (port : BitVec 2), s.sec.cxlWait.getLsbD port.toNat = true →
    ∃ t, exec (.cxlTrainTimeout port) s = .next t ∧ t.sec.cxlWait = s.sec.cxlWait &&& ~~~(portBits [port.toNat])) ∧
  (∀ (s : State) (o : BootOutcome), s.sec.boot = some o → s.job.device = none → s.cfg.isEmpty = false → s.sec.feedDone = false → s.sec.cxlWait = 0 →
    (∀ k, k < 36 → (cfgLink s.cfg k).1 = true → (getLink s k).st = .up ∨ (getLink s k).st = .failed) →
    ∃ t, exec .feedTagCheck s = .next t ∧ t.sec.boot = none ∧ t.sec.feedDone = true ∧ regF t 0x3F0000E00000 3 0 = 12 ∧
      reg t 0x3F0000E00010 = BitVec.ofNat 64 o.us.toNat) ∧
  (∀ (s : State), ∃ t, exec .bootWdogKick s = .next t ∧ t.sec.wdogAt = now s ∧ t.regs = s.regs ∧ t.cores = s.cores)

/-! ### The host port -/

/-- R558, R574, R576: the queue registers and the link. -/
def Obligations.HostQueueResults : Prop :=
  (∀ (s : State) (q : BitVec 2) (tail : BitVec 12) (readError : Bool), regsWf s = true →
    ∃ t, exec (.hostSqTail q tail readError) s = .next t ∧ reg t (aHostSqTail q.toNat) = BitVec.ofNat 64 tail.toNat ∧
      (hostEn s q.toNat = true → hostSqSize s q.toNat ≤ tail.toNat ∨ readError = true → (getQ t q.toNat).err = true)) ∧
  (∀ (s : State) (q : BitVec 2) (head : BitVec 12), regsWf s = true →
    ∃ t, exec (.hostCqHead q head) s = .next t ∧ reg t (aHostCqHead q.toNat) = BitVec.ofNat 64 head.toNat ∧ t.job = s.job) ∧
  (∀ (s : State) (q : BitVec 2) (b a : BitVec 4), regsWf s = true →
    (hostEn s q.toNat = false → ∃ t, exec (.hostQcfg q b a true) s = .next t ∧ hostEn t q.toNat = true ∧
      regF t (aHostQcfg q.toNat) 4 1 = a.toNat ∧ regF t (aHostQcfg q.toNat) 8 5 = b.toNat) ∧
    ∃ t, exec (.hostQcfg q b a false) s = .next t ∧ hostEn t q.toNat = false ∧ reg t (aHostSqTail q.toNat) = 0 ∧
      reg t (aHostCqHead q.toNat) = 0 ∧ t.host.q = smSet HostQ.init s.host.q q.toNat HostQ.init) ∧
  (∀ (s : State), regsWf s = true → s.host.width ≠ 0 →
    ∃ t, exec .pcieLinkDown s = .next t ∧ t.host.width = 0 ∧ t.host.rate = 0 ∧ ∀ n, n < 4 → hostEn t n = false) ∧
  (∀ (s : State), regsWf s = true → s.pwr.rails = .up →
    ∃ t, exec .hostPerstN s = .next t ∧ t.pins.hostPerstN = false ∧ t.host.width = 0 ∧ ∀ n, n < 4 → hostEn t n = false) ∧
  (∀ (s : State) (rate width : BitVec 2), s.pwr.rails = .up → s.pwr.held = false → s.sec.recovery = false → s.sec.boot = none → rate ≠ 0 → width ≠ 0 →
    ∃ t, exec (.pcieLinkUp rate width) s = .next t ∧ t.pins.hostPerstN = true ∧ t.host.rate = rate ∧ t.host.width = width ∧ t.regs = s.regs)

/-- R555, R561, R563, R565, R566, R570, R571: the job commands that their queue gives with a well-formed entry, in the states that accept them. -/
def Obligations.HostJobResults : Prop :=
  ∀ (s s0 : State) (q : BitVec 2) (cid : Word16),
    (∀ (addr len : Word64), hostTake s q.toNat 1 cid.toNat = some s0 → sqBad (sqEntry s q.toNat) 1 cid.toNat = false → 
      sqSpells (sqEntry s q.toNat) 1 cid.toNat [(8, 8, addr.toNat), (16, 8, len.toNat)] = true → s.job.st = .empty → regF s 0x3F0000E00000 8 8 = 1 → s.sec.wipe = none →
      s.sec.move = none → lcNoJobs s = false → loadBad s0 addr.toNat len.toNat (imgFront s0 addr.toNat) = none →
      ∃ u, exec (.load q cid addr len false) s = .next (hostDone u q.toNat cid.toNat 0 0 0) ∧ u.job.st = .loaded ∧
        u.job.members = imageMembers (imgFront s0 addr.toNat) ∧ u.seq.step = BitVec.ofNat 64 (fieldAt (imgFront s0 addr.toNat) 32 8) ∧
        u.seq.st = .idle) ∧
    (∀ d, hostTake s q.toNat 2 cid.toNat = some s0 → sqBad (sqEntry s q.toNat) 2 cid.toNat = false → 
      sqSpells (sqEntry s q.toNat) 2 cid.toNat [] = true → s.job.st = .loaded → jobLead s.job = some d → d ≠ devId s →
      ∃ t m, exec (.start q cid) s = .next t ∧ t.job.st = .starting ∧ m ∈ t.fab.tc0q ∧ m.kind = 2 ∧ m.dst = d ∧ fieldAt m.body 0 1 = 1) ∧
    (hostTake s q.toNat 3 cid.toNat = some s0 → sqBad (sqEntry s q.toNat) 3 cid.toNat = false → 
      sqSpells (sqEntry s q.toNat) 3 cid.toNat [] = true → s.job.st = .running → s.seq.st = .running → allHalted s = false → s.job.device = none →
      ∃ t, exec (.preempt q cid) s = .next t ∧ t.job.st = .preempting ∧ t.seq.st = .halting ∧ t.ldg.segPreempts = s.ldg.segPreempts + 1) ∧
    (∀ d, hostTake s q.toNat 4 cid.toNat = some s0 → sqBad (sqEntry s q.toNat) 4 cid.toNat = false → 
      sqSpells (sqEntry s q.toNat) 4 cid.toNat [] = true → s.job.st = .preempted → s.job.restoredHere = false → s.job.wiped = false →
      jobLead s.job = some d → d ≠ devId s →
      ∃ t, exec (.resume q cid) s = .next t ∧ t.job.restoredHere = true ∧ t.job.st = .preempted) ∧
    (hostTake s q.toNat 5 cid.toNat = some s0 → sqBad (sqEntry s q.toNat) 5 cid.toNat = false → 
      sqSpells (sqEntry s q.toNat) 5 cid.toNat [] = true → stIn s [.loaded, .preempted, .done, .faulted, .recovered] = true →
      ∃ t w, exec (.unload q cid) s = .next t ∧ t.job.st = .wiping ∧ t.sec.wipe = some w ∧ .jobEnd ∈ w.why ∧ t.cores = []) ∧
    (∀ (addr len b : Word64), hostTake s q.toNat 6 cid.toNat = some s0 → sqBad (sqEntry s q.toNat) 6 cid.toNat = false → 
      sqSpells (sqEntry s q.toNat) 6 cid.toNat [(8, 8, addr.toNat), (16, 8, len.toNat), (24, 8, b.toNat)] = true → s.job.st = .recovered →
      memPoisoned s (regF s 0x3F0000700000 45 16 * 0x10000) wtBytes = false →
      restartBad s0 addr.toNat len.toNat b.toNat (imgFront s0 addr.toNat) = none →
      ∃ u, exec (.restart q cid addr len b false) s = .next (hostDone u q.toNat cid.toNat 0 0 0) ∧ u.job.st = .loaded ∧ u.seq.step = b ∧
        u.cores = []) ∧
    (∀ (t : BitVec 8) (k : Word64), hostTake s q.toNat 7 cid.toNat = some s0 → sqBad (sqEntry s q.toNat) 7 cid.toNat = false → 
      sqSpells (sqEntry s q.toNat) 7 cid.toNat [(8, 1, t.toNat), (16, 8, k.toNat)] = true → stIn s [.loaded, .starting, .running, .preempted] = true →
      t.toNat < 8 → snapSt s = 0 → s.seq.step.toNat < k.toNat → snapEn s = true → snapValid s t.toNat = true →
      memPoisoned s (snapArea s t.toNat) 128 = false →
      ∃ u, exec (.snapshot q cid t k) s = .next (hostDone u q.toNat cid.toNat 0 0 0) ∧ reg u 0x3F0000B00040 = k ∧ snapSt u = 1 ∧ snapT u = t.toNat) ∧
    (hostTake s q.toNat 8 cid.toNat = some s0 → sqBad (sqEntry s q.toNat) 8 cid.toNat = false → 
      sqSpells (sqEntry s q.toNat) 8 cid.toNat [] = true → s.job.st = .empty ∨ s.job.st = .preempted → s.job.restoredHere = false →
      ∃ t w, exec (.wipeOndie q cid) s = .next t ∧ t.sec.wipe = some w ∧ .ondie q.toNat cid.toNat ∈ w.why ∧ t.cores = [] ∧
        t.job.st = s.job.st)

/-- R494, R497, R500 to R502, R509, R513, R518, R523, R537, R555: the Ledger, security and flash commands that their queue gives with a well-formed
entry; R533: RESET with its key. -/
def Obligations.HostServiceResults : Prop :=
  ∀ (s s0 : State) (q : BitVec 2) (cid : Word16),
    (∀ (seq : Word32) (epoch : Word16) (count : Word32) (buf : Word64), hostTake s q.toNat 0x10 cid.toNat = some s0 → sqBad (sqEntry s q.toNat) 0x10 cid.toNat = false → 
      sqSpells (sqEntry s q.toNat) 0x10 cid.toNat [(8, 4, seq.toNat), (12, 2, epoch.toNat), (16, 4, count.toNat), (24, 8, buf.toNat)] = true → 1 ≤ count.toNat →
      count.toNat ≤ 65536 →
      let a := ldgRead s.ldg epoch.toNat seq.toNat count.toNat
      exec (.ledgerRead q cid seq epoch count buf false) s = .next (hostDone
        (hostWrite s0 buf.toNat (a.1.flatMap recBytes)) q.toNat cid.toNat 0 a.1.length (b2n a.2))) ∧
    (∀ (ms : BitVec 8), hostTake s q.toNat 0x11 cid.toNat = some s0 → sqBad (sqEntry s q.toNat) 0x11 cid.toNat = false → 
      sqSpells (sqEntry s q.toNat) 0x11 cid.toNat [(8, 1, ms.toNat)] = true → bitOf (fieldAt (sqEntry s q.toNat) 9 1) 0 = false → ms.toNat ≤ 100 → s.ldg.st = .recording → s.ldg.lastUnfreeze = none →
      ∃ u, exec (.ledgerFreeze q cid ms false) s = .next (hostDone u q.toNat cid.toNat 0 0 0) ∧ u.ldg.st = .frozen ∧
        u.ldg.freezeEnd = now s + (if ms.toNat = 0 then 100 else ms.toNat) * 1000000) ∧
    (∀ (addr : Word64) (sigOk : Bool), hostTake s q.toNat 0x12 cid.toNat = some s0 → sqBad (sqEntry s q.toNat) 0x12 cid.toNat = false →
      sqSpells (sqEntry s q.toNat) 0x12 cid.toNat [(8, 8, addr.toNat)] = true →
      let why := clearWhy s0 (memReads s0.mem.host addr.toNat 1410) sigOk
      (why = none → ∃ u, exec (.ledgerClear q cid addr sigOk false) s = .next (hostDone u q.toNat cid.toNat 0 0 0) ∧ u.ldg.st = .clearing) ∧
      ∀ r, why = some r → ∃ u, exec (.ledgerClear q cid addr sigOk false) s
        = .next (hostDone u q.toNat cid.toNat 3 (refusedR0 0x9006 r) 0) ∧ u.mem.gddr = s.mem.gddr ∧ u.sec = s.sec) ∧
    (∀ (addr : Word64) (len : Word32) (sigOk : Bool), hostTake s q.toNat 0x18 cid.toNat = some s0 → sqBad (sqEntry s q.toNat) 0x18 cid.toNat = false → 
      sqSpells (sqEntry s q.toNat) 0x18 cid.toNat [(8, 8, addr.toNat), (16, 4, len.toNat)] = true → len.toNat = 1378 ∨ len.toNat = 3171 →
      let d := memReads s0.mem.host addr.toNat len.toNat
      (∀ m, cmdJudge s0 d sigOk = .ok m → jobLoaded s = false → s.seq.st = .idle →
        ∃ u, exec (.security q cid addr len sigOk false) s = .next (hostDone u q.toNat cid.toNat 0 0 0) ∧ u.sec.move = some m ∧
          u.sec.fuses = s.sec.fuses) ∧
      ∀ r, cmdJudge s0 d sigOk = .error r → ∃ u, exec (.security q cid addr len sigOk false) s
        = .next (hostDone u q.toNat cid.toNat 3 (refusedR0 0xA005 (fieldAt d 0 2 + r * 2 ^ 16)) 0) ∧ u.sec.move = s.sec.move ∧
          u.sec.fuses = s.sec.fuses ∧ u.nor = s.nor) ∧
    (∀ (nonce : List Byte) (buf : Word64), hostTake s q.toNat 0x19 cid.toNat = some s0 → sqBad (sqEntry s q.toNat) 0x19 cid.toNat = false →
      sqSpells (sqEntry s q.toNat) 0x19 cid.toNat [(8, 32, leNat (slice nonce 0 32)), (40, 8, buf.toNat)] = true →
      exec (.attest q cid nonce buf false) s = .next (hostDone (record
        (hostWrite { s0 with free := s0.free + 1 } buf.toNat (attestReport s0 nonce))
        kEvent srcSec 0xA00B (fieldAt nonce 0 8)) q.toNat cid.toNat 0 0 0)) ∧
    (∀ (region : BitVec 8) (addr len : Word64) (b k : Nat), hostTake s q.toNat 0x1A cid.toNat = some s0 → sqBad (sqEntry s q.toNat) 0x1A cid.toNat = false → 
      sqSpells (sqEntry s q.toNat) 0x1A cid.toNat [(8, 1, region.toNat), (16, 8, addr.toNat), (24, 8, len.toNat)] = true → s.job.st = .empty →
      norRegion region.toNat = some (b, k) → len.toNat ≤ k →
      exec (.flashWrite q cid region addr len false) s = .next (hostDone
        { s0 with nor := memWrites s.nor b (memReads s.mem.host addr.toNat len.toNat) } q.toNat cid.toNat 0 0 0)) ∧
    (hostTake s q.toNat 0x1C cid.toNat = some s0 → sqBad (sqEntry s q.toNat) 0x1C cid.toNat = false → 
      sqSpells (sqEntry s q.toNat) 0x1C cid.toNat [] = true → lcState s = .service → s.sec.move = none → jobLoaded s = false →
      ∃ u, exec (.relock q cid) s = .next (hostDone u q.toNat cid.toNat 0 0 0) ∧ u.sec.move = some .relock) ∧
    (∀ (o : BootOutcome) (n : Nat) (i : Instr),
      (i = .reset q cid 0x5A o ∧ hostTake s q.toNat 0x1B cid.toNat = some s0 ∧ sqBad (sqEntry s q.toNat) 0x1B cid.toNat = false ∧
        sqSpells (sqEntry s q.toNat) 0x1B cid.toNat [(8, 1, 0x5A)] = true) ∨ i = .hostCtrlReset 0x5A o →
      s.pwr.rails = .up → s.pwr.held = false → (romRun s o).2 = some n →
      ∃ t, exec i s = .next t ∧ regF t 0x3F0000E00000 3 0 = (if t.sec.boot = none then 12 else 8) ∧ regF t 0x3F0000E00008 2 0 = 3 ∧ t.tim.acc = s.tim.acc ∧ t.sec.bslot = (n == 1))

/-! ### Power -/

/-- R483, R585, R588, R589, R592, R593, R626: the power loop, the energy counter, the trip and power failure. -/
def Obligations.PowerResults : Prop :=
  (∀ (s : State) (mv : BitVec 16), s.pwr.rails = .up ∨ s.pwr.rails = .tripped →
    (s.ldg.up = true → ∃ t, exec (.pwrFailN mv) s = .next t ∧ t.pwr.rails = .failing ∧ t.pins.pwrFailN = false ∧ t.ldg.pfail = true ∧
      t.cores = [] ∧ t.job = Job.init ∧ t.mem.hive = []) ∧
    (s.ldg.up = false → ∃ t, exec (.pwrFailN mv) s = .next t ∧ t.pwr.rails = .off ∧ t.pins.pwrFailN = false ∧ t.mem.gddr = [] ∧ t.tim = Tim.init)) ∧
  (∀ (s : State) (p10 p1ms mw : Nat) (tj : List Int) (volts rate : Nat), s.pwr.rails = .up → regsWf s = true →
    let w := powerStep (regF s 0x3F0001000008 15 0) p10 p1ms (tjMax tj) ((List.range 4).any (fun i => decide (tjOf tj i < 720)))
      (decide (s.pwr.paceAt + 100000 ≤ now s)) (regF s 0x3F0001000000 47 32) (regF s 0x3F0001000000 23 20)
    ∃ t, exec (.powerLoopTick p10 p1ms mw tj volts rate) s = .next t ∧ regF t 0x3F0001000000 47 32 = w.1 ∧
      regF t 0x3F0001000000 23 20 = w.2 ∧ t.pwr.hot = tjHot tj ∧
      reg t 0x3F0001000010 = BitVec.ofNat 64 (mw % 2 ^ 32 + volts % 2 ^ 16 * 2 ^ 32)) ∧
  (∀ (s : State) (uj : Word64), s.pwr.rails = .up ∨ s.pwr.rails = .tripped → regsWf s = true →
    ∃ t, exec (.energyAdd uj) s = .next t ∧ reg t 0x3F0001000018 = reg s 0x3F0001000018 + uj ∧ t.cores = s.cores ∧ t.ldg = energyNote s) ∧
  (∀ (s : State) (field : BitVec 2) (degrees : Int), s.pwr.rails = .up → s.pwr.trip = false → 115 < degrees →
    ∃ t, exec (.overtempSense field degrees) s = .next t ∧ t.pwr.trip = true ∧ t.job.device = some (s.job.device.getD 0xD005) ∧
      t.job.left = true) ∧
  (∀ (s : State), s.pwr.trip = true → s.pwr.rails = .up →
    ∃ t, exec .tripRailTimeout s = .next t ∧ t.pwr.rails = .tripped ∧ t.cores = [] ∧ t.ldg = s.ldg ∧ t.tim.acc = s.tim.acc) ∧
  (∀ (s : State), s.pwr.rails = .up →
    ∃ t, exec .railOutOfRange s = .next t ∧ t.job.device = some (s.job.device.getD 0xD006) ∧ t.job.left = true ∧ t.pwr = s.pwr)

/-! ### The debug port -/

/-- R600: EXTEST takes the boundary cells, or BYPASS stands in its place while the state is DEPLOYED or RETIRED and while a job is loaded. R601: what
IDCODE reads on each part. -/
def Obligations.IdcodeAndExtest : Prop :=
  ∀ (s : State), s.pwr.rails = .up →
    (∃ t, exec .idcode s = .next t ∧ t.dbg.ir = 1 ∧ t.dbg.cap = (if s.part832 then 0x10A815A7 else 0x10A805A7) ∧ t.cores = s.cores ∧
      t.mem = s.mem ∧ t.regs = s.regs ∧ t.pins = s.pins) ∧
    ∀ cells,
      (lcState s ≠ .deployed → lcState s ≠ .retired → jobLoaded s = false →
        exec (.extest cells) s = .next { s with dbg := { s.dbg with ir := 0, boundary := cells } }) ∧
      (lcState s = .deployed ∨ lcState s = .retired ∨ jobLoaded s = true →
        exec (.extest cells) s = .next { s with dbg := { s.dbg with ir := 0xFF, byp := false } })

/-- R599, R602 to R604: what selecting an instruction leaves in the TAP; a NOP transaction changes nothing. That TAP_RESET selects IDCODE is the model's
choice, log entry 39. -/
def Obligations.TapSelections : Prop :=
  ∀ (s : State), s.pwr.rails = .up →
    exec .tapReset s = .next { s with dbg := { s.dbg with ir := 1 } } ∧
    exec .dap s = .next { s with dbg := { s.dbg with ir := 0x10 } } ∧
    exec .dstat s = .next { s with dbg := { s.dbg with ir := 0x11, cap := BitVec.ofNat 64 (dbgStatus s) } } ∧
    exec .bypass s = .next { s with dbg := { s.dbg with ir := 0xFF, byp := false } } ∧
    exec .dapNop s = .next s ∧
    ∀ cells, ∃ t, exec (.samplePreload cells) s = .next t ∧ t.dbg.ir = 2 ∧ t.dbg.boundary = cells ∧ t.cores = s.cores ∧ t.regs = s.regs ∧
      t.dbg.cap.getLsbD 0 = s.pins.resetN ∧ t.dbg.cap.getLsbD 1 = s.pins.pwrFailN

/-- R602, R603, R605, R606: a transaction on a register or on GDDR7 that the open port permits, and the refusal of a locked one. -/
def Obligations.DebugTransactionResults : Prop :=
  ∀ (s : State) (addr : BitVec 46) (data : Word64), s.pwr.rails = .up → s.dbg.session = true →
    (dbgOpen s = true → addr.toNat % 8 = 0 →
      (∀ v, placeOf addr.toNat = .chip → regView s addr.toNat = some v →
        exec (.dapRead addr) s = .next { s with dbg := { s.dbg with dap := BitVec.ofNat 112 (v % 2 ^ 64) } }) ∧
      (addr.toNat < 0x2000000000 → jobLoaded s = false → s.sec.wipe = none → s.mem.upsets = [] →
        (∃ t, exec (.dapRead addr) s = .next t ∧ t.mem.gddr = s.mem.gddr ∧
          t.dbg.dap = BitVec.ofNat 112 (if memPoisoned s addr.toNat 8 then 0x1020 * 2 ^ 94 + 3 * 2 ^ 110 else leNat (memReads s.mem.gddr addr.toNat 8))) ∧
        ∃ t, exec (.dapWrite addr data) s = .next t ∧ t.dbg.dap = 0 ∧
          (s.mem.gddr.wf = true → memReads t.mem.gddr addr.toNat 8 = leBytes 8 data.toNat) ∧
          ∀ b, b < addr.toNat ∨ addr.toNat + 8 ≤ b → memRead t.mem.gddr b = memRead s.mem.gddr b)) ∧
    (dbgOpen s = false →
      let a := addr.toNat
      let inBlock (lo n : Nat) : Prop := lo ≤ a ∧ a < lo + n
      let no (t : State) : Prop := t.dbg.dap = BitVec.ofNat 112 (0xE004 * 2 ^ 94 + 2 * 2 ^ 110) ∧ t.cores = s.cores ∧ t.mem.gddr = s.mem.gddr ∧
        t.sec = s.sec ∧ t.nor = s.nor ∧ t.job = s.job
      (¬ inBlock 0x3F0000C00000 0x10000 → ¬ inBlock 0x3F0000D00000 0x10000 → a ≠ 0x3F0000E00000 → a ≠ 0x3F0001200000 →
        ∃ t, exec (.dapRead addr) s = .next t ∧ no t) ∧
      (a ≠ 0x3F0000C00050 → a ≠ 0x3F0001200100 → a ≠ 0x3F0001200110 → ¬ inBlock 0x3F0001220000 0x1000 →
        ∃ t, exec (.dapWrite addr data) s = .next t ∧ no t))

/-- R608 to R611, R614: halts, resumes and steps through DBG_HALT on an open port. -/
def Obligations.DebugHaltResults : Prop :=
  (∀ (s : State) (core : Nat), s.pwr.rails = .up → s.dbg.session = true → dbgOpen s = true → coreOk s core = true →
    ((getCore s core).dbgHalt = false →
      ∃ t, exec (.dbgCoreHalt core) s = .next t ∧
        getCore t core = { getCore s core with
          dbgHalt := true, dbgStep := false, dbgCause := 1, dbgK := 0, dbgAgent := 0, dbgOff := 0, latches := [] } ∧
        (∀ i, i ≠ core → getCore t i = getCore s i) ∧ t.dbg.dap = 0 ∧ (s.sync.det = .quiet → t.sync.det = .watch)) ∧
    ((getCore s core).dbgHalt = true → smWf Core.init s.cores = true →
      ∃ t, exec (.dbgCoreResume core) s = .next t ∧
        getCore t core = { getCore s core with
          dbgHalt := false, dbgStep := false, dbgCause := 0, dbgK := 0, dbgAgent := 0, dbgOff := 0, latches := [] } ∧
        (∀ i, i ≠ core → getCore t i = getCore s i) ∧ t.dbg.dap = 0) ∧
    ((getCore s core).dbgHalt = true → (getCore s core).flight = [] →
      ∃ t, exec (.dbgCoreStep core) s = .next t ∧ getCore t core = { getCore s core with dbgStep := true } ∧
        (∀ i, i ≠ core → getCore t i = getCore s i) ∧ t.dbg.dap = 0)) ∧
  (∀ (s : State), s.pwr.rails = .up → s.dbg.session = true → dbgOpen s = true →
    (∃ t, exec .dbgChalt s = .next t ∧ t.dbg.chip = true ∧ t.dbg.dap = 0 ∧
      ∀ i, i < nCores s → (getCore t i).dbgHalt = true ∧ (getCore t i).flight = (getCore s i).flight ∧ (getCore t i).s = (getCore s i).s) ∧
    ∃ t, exec .dbgCresume s = .next t ∧ t.dbg.chip = false ∧ t.dbg.dap = 0 ∧ ∀ i, (getCore t i).dbgHalt = false ∧ (getCore t i).dbgStep = false)

/-- R618, R534: a write of DBG_RESET with key 0x5A resets the module with cause 4, whatever its life-cycle state; another key does nothing. -/
def Obligations.DebugResetByKey : Prop :=
  (∀ (s : State) (o : BootOutcome) (n : Nat), s.pwr.rails = .up → s.dbg.session = true → s.pwr.held = false → (romRun s o).2 = some n →
    ∃ t, exec (.dbgReset 0x5A o) s = .next t ∧ regF t 0x3F0000E00000 3 0 = (if t.sec.boot = none then 12 else 8) ∧ regF t 0x3F0000E00008 2 0 = 4 ∧ t.tim.acc = s.tim.acc ∧
      t.sec.bslot = (n == 1)) ∧
  (∀ (s : State) (o : BootOutcome) (key : BitVec 8), s.pwr.rails = .up → s.dbg.session = true → key ≠ 0x5A →
    exec (.dbgReset key o) s = .next { s with dbg := { s.dbg with dap := 0 } })

/-- R500 to R502, R509, R516 to R518, R616, R617: the mailbox operations and what DBG_MRES answers. -/
def Obligations.MailboxResults : Prop :=
  ∀ (s : State), s.pwr.rails = .up → s.dbg.session = true → regsWf s = true →
    (∀ (len : BitVec 13) (sigOk : Bool), len.toNat = 1378 ∨ len.toNat = 3171 →
      let d := memReads s.dbg.mbox 0 len.toNat
      (∀ m, cmdJudge s d sigOk = .ok m → jobLoaded s = false → s.seq.st = .idle → s.job.device = none → s.sec.wipe = none → s.sec.provisioning = false →
        ∃ t w, exec (.mboxSecurity len sigOk) s = .next t ∧ reg t 0x3F0001200108 = 0 ∧ t.sec.move = some m ∧ t.sec.wipe = some w ∧ w.scope = 3 ∧
          t.sec.fuses = s.sec.fuses) ∧
      ∀ r, cmdJudge s d sigOk = .error r →
        ∃ t, exec (.mboxSecurity len sigOk) s = .next t ∧ reg t 0x3F0001200108 = BitVec.ofNat 64 (3 * 2 ^ 8 + 0xA005 * 2 ^ 48) ∧
          t.sec.move = s.sec.move ∧ t.sec.fuses = s.sec.fuses ∧ t.nor = s.nor ∧ t.cores = s.cores) ∧
    (∀ (len : BitVec 13) (sigOk : Bool), len.toNat = 1410 → s.ldg.up = true →
      let why := clearWhy s (memReads s.dbg.mbox 0 1410) sigOk
      (why = none → ∃ t, exec (.mboxLedgerClear len sigOk) s = .next t ∧ reg t 0x3F0001200108 = 0 ∧ t.ldg.st = .clearing) ∧
      ∀ r, why = some r → ∃ t, exec (.mboxLedgerClear len sigOk) s = .next t ∧
        reg t 0x3F0001200108 = BitVec.ofNat 64 (3 * 2 ^ 8 + 0x9006 * 2 ^ 48) ∧ t.cores = s.cores) ∧
    (∀ (region : BitVec 4) (off : BitVec 15) (len : BitVec 13) (b k : Nat), norRegion region.toNat = some (b, k) → s.sec.recovery = false →
      0 < len.toNat → len.toNat ≤ 4096 → off.toNat * 4096 + len.toNat ≤ k →
      (dbgOpen s = true → ∃ t, exec (.mboxFlashWrite region off len) s = .next t ∧ reg t 0x3F0001200108 = 0 ∧
        t.nor = memWrites s.nor (b + off.toNat * 4096) (memReads s.dbg.mbox 0 len.toNat) ∧ t.mem = s.mem ∧ t.sec = s.sec) ∧
      (dbgOpen s = false → ∃ t, exec (.mboxFlashWrite region off len) s = .next t ∧ reg t 0x3F0001200108 = 0x100 ∧ t.nor = s.nor)) ∧
    (lcState s = .blank → s.sec.move = none →
      ∃ t, exec .mboxProvision s = .next t ∧ reg t 0x3F0001200108 = 0 ∧ t.sec.move = some .provision ∧ t.sec.provisioning = true ∧
        t.sec.fuses = s.sec.fuses ∧ t.cores = s.cores) ∧
    (lcState s ≠ .blank →
      ∃ t, exec .mboxProvision s = .next t ∧ reg t 0x3F0001200108 = 0x100 ∧ t.sec = s.sec ∧ t.nor = s.nor) ∧
    (∀ (len : BitVec 13), len.toNat = 3115 → lcState s = .blank → s.sec.provisioning = true → s.sec.move = some .provision →
      s.job.device = none → s.seq.st = .idle → jobLoaded s = false → s.sec.wipe = none →
      ∃ t w, exec (.mboxCertWrite len) s = .next t ∧ reg t 0x3F0001200108 = 0 ∧ t.sec.provisioning = false ∧ t.sec.wipe = some w ∧
        w.scope = 3 ∧ t.nor = memWrites s.nor 0x20000 (memReads s.dbg.mbox 0 3115))

/-- R9, R73, R203, R212, R246, R313, R351, R423, R507, R620: a register write sets RW fields, sets RWL fields only while no job has started, clears ovf
bits by writing 1, and leaves RO registers alone; the host agent reaches only the HOST_ registers. -/
def Obligations.RegisterWriteResults : Prop :=
  ∀ (s : State) (v : Word64), s.pwr.rails = .up →
    (∀ (a m : Nat), (a, m) ∈ [(0x3F0000280018, 2 ^ 64 - 1), (0x3F0000280020, 2 ^ 32 - 1), (0x3F0000280028, 2 ^ 48 - 1), (0x3F0000C00050, 2 ^ 48 - 1),
        (0x3F0000B00040, 2 ^ 64 - 1), (0x3F0001200040, 3 * 2 ^ 62 + 0x3FF * 2 ^ 48 + (2 ^ 32 - 1)),
        (0x3F0001200080, 7 * 2 ^ 61 + 0x3FF * 2 ^ 48 + (2 ^ 22 - 1)), (0x3F0001200088, 2 ^ 22 - 1)] →
      regsWf s = true →
      ∃ t, exec (.registerWrite .mgmt (BitVec.ofNat 46 a) v) s = .next t ∧ t = { s with regs := t.regs } ∧
        reg t a = (reg s a &&& ~~~(BitVec.ofNat 64 m)) ||| (v &&& BitVec.ofNat 64 m) ∧ ∀ b, b ≠ a → reg t b = reg s b) ∧
    (∀ (a m : Nat), (a, m) ∈ [(0x3F0000010010, 2 ^ 46 - 2 ^ 6), (0x3F0000010018, 2 ^ 32 - 1), (0x3F0000010020, 2 ^ 46 - 2 ^ 6),
        (0x3F0000010050, 2 ^ 46 - 2 ^ 10), (0x3F0000280000, 2 ^ 64 - 1), (0x3F0000280008, 2 ^ 64 - 1), (0x3F0000410008, 2 ^ 14 - 1),
        (0x3F0000410018, 2 ^ 46 - 2 ^ 17), (0x3F0000700000, 2 ^ 46 - 2 ^ 16), (0x3F0000B00000, 2 ^ 46 - 2 ^ 12),
        (0x3F0000B00028, 2 ^ 46 - 2 ^ 19)] →
      (s.job.st = .empty ∨ s.job.st = .loaded ∧ s.job.restarted = false → regsWf s = true →
        ∃ t, exec (.registerWrite .mgmt (BitVec.ofNat 46 a) v) s = .next t ∧ t = { s with regs := t.regs } ∧
          reg t a = (reg s a &&& ~~~(BitVec.ofNat 64 m)) ||| (v &&& BitVec.ofNat 64 m) ∧ ∀ b, b ≠ a → reg t b = reg s b) ∧
      (s.job.st = .running ∨ s.job.st = .loaded ∧ s.job.restarted = true → exec (.registerWrite .mgmt (BitVec.ofNat 46 a) v) s = .next s)) ∧
    (∀ (a : Nat), a ∈ [0x3F0000010040, 0x3F0000410028, 0x3F0000800020, 0x3F0000800028, 0x3F0000800030, 0x3F0000800038, 0x3F0000C00020] →
      (v.getLsbD 63 = true → regsWf s = true →
        ∃ t, exec (.registerWrite .mgmt (BitVec.ofNat 46 a) v) s = .next t ∧ t = { s with regs := t.regs } ∧
          reg t a = reg s a &&& 0x7FFFFFFFFFFFFFFF ∧ ∀ b, b ≠ a → reg t b = reg s b) ∧
      (v.getLsbD 63 = false → exec (.registerWrite .mgmt (BitVec.ofNat 46 a) v) s = .next s)) ∧
    (∀ (a : Nat), a ∈ [0x3F0000010008, 0x3F0000010028, 0x3F0000410010, 0x3F0000C00008, 0x3F0000D00000, 0x3F0000E00000, 0x3F0001100000,
        0x3F0001200000] → exec (.registerWrite .mgmt (BitVec.ofNat 46 a) v) s = .next s) ∧
    (∀ (a : BitVec 46), a.toNat < 0x3F0000F00000 ∨ 0x3F0000F10000 ≤ a.toNat → exec (.registerWrite .host a v) s = .next s) ∧
    ∀ (a : BitVec 46), exec (.registerWrite .debug a v) s = exec (.dapWrite a v) s

/-! ### The block as a whole -/

/-- A step takes the command at the front of the queue and runs it on the state with the queue's rest; on an empty queue one period of the oscillator
passes, in which nothing but the time base, its counters and the deadlock detector moves (log entry 8, the model's choice). -/
def Obligations.StepTakesFrontCommand : Prop :=
  (∀ (s : State) (c : Instr) (cs : List Instr), s.pending = c :: cs → step s = exec c { s with pending := cs }) ∧
  (∀ (s : State), s.pending = [] → s.pwr.rails = .off → step s = .next s) ∧
  (∀ (s : State), s.pending = [] → s.pwr.rails ≠ .off →
    ∃ t, step s = .next t ∧ t.tim = { s.tim with acc := (s.tim.acc + timeStepOf (timTrim s)) % 2 ^ 96 } ∧ t.pending = [] ∧ t.cores = s.cores ∧
      t.mem = s.mem ∧ t.seq = s.seq ∧ t.job = s.job ∧ t.sec = s.sec ∧ t.nor = s.nor ∧ t.fab = s.fab)

/-- R73, R246, R314, R343, R351, R507, R529, R549, R576, R582, R597: what registers read at power-up, where the spec gives a value; no memory lists a
byte, no command waits. -/
def Obligations.ResetRegisterValues : Prop :=
  (∀ (a v : Nat), (a, v) ∈ [(0x3F0000010008, 0), (0x3F0000010028, 0), (0x3F0000410000, 1), (0x3F0000410008, 50), (0x3F0000410010, 0),
      (0x3F0000800008, 0x200), (0x3F0000800040, 0x1F8), (0x3F0000D00000, 0), (0x3F0000D00020, 0xD), (0x3F0000E00000, 0), (0x3F0000F00008, 0x3C),
      (0x3F0001000000, 0x25800000001), (0x3F0001100000, 0), (0x3F0001200000, 1)] → regView State.reset a = some v) ∧
  State.reset.mem.gddr = [] ∧ State.reset.cores = [] ∧ State.reset.pending = []

/-- The module's memories are in their canonical form at power-up. -/
def Obligations.MemoryCanonicalAtReset : Prop := memoryWf State.reset = true

/-- R19, R20, R22, R23, R27, R30, R33, R34: the spec's own words. The bundle of the worked example of 02 and the TCFG word of 03 decode to what
the spec says they are. -/
def Obligations.SlotWordsOfSpec : Prop :=
  let b := (bundleOfBytes
    ([0x12, 0x01, 0x80, 0x00, 0x30, 0x14, 0xC1, 0x00, 0x07, 0xF9, 0x00, 0x37, 0xFF, 0xE0, 0x00, 0x00] ++ zeros 16 ++ zeros 12
      ++ [0x20, 0x08, 0x00, 0x04, 0x00, 0x00, 0x40, 0x33, 0x00, 0x00, 0x40, 0x00] ++ zeros 8)).toNat
  bVer b = 1 ∧ bDrain b = false ∧ bIdx12 b = 0x403 ∧ keepZeroBad b = false ∧
  decodeSlots b = some ⟨.mmul false 3 0x400 255 256 3 3 63 63 false 0, ⟨0, 5⟩, .vnop, decVargs 0, ⟨0, 0⟩, .nop, ⟨0, 0⟩, .nop, ⟨0, 0⟩, .swait 2 1, 0,
    .cadd 3 3 0x4000, 0⟩ ∧
  decT 0x10FCEBF87E600000 = some (.tcfg 7 5 63 63 3) ∧ hdr64 0x10FCEBF87E600000 = ⟨0, 63⟩ ∧
  decM 0x703FC0000000000000000000 = none ∧ decVop 0x900000000000000000000000 = none ∧ decT 0x7000000000000000 = none ∧
  decX 0x6000000000000000 = none ∧ decS 0x600000000000 = none ∧ decC 0x8000000000000000 = none

/-- R27, R28, R30, R70: the word of every M, V and T operation, with every value of its operands, decodes to that operation, and its
keep-zero bits are zero. -/
def Obligations.SlotWordRoundTrip : Prop :=
  (∀ (m : MOp) (p : BitVec 4) (d : BitVec 6), m ≠ .nop →
    decM (encM m p d) = some m ∧ hdr96 (encM m p d) = ⟨p, d⟩ ∧ lowBits (encM m p d) (keepM (bitsOf (encM m p d) 95 92)) = false ∧ encM m p d < 2 ^ 96) ∧
  (∀ (o : VOpc) (v : VArgs) (p : BitVec 4) (d : BitVec 6),
    decVop (encV o v p d) = some o ∧ decVargs (encV o v p d) = v ∧ hdr96 (encV o v p d) = ⟨p, d⟩ ∧ encV o v p d < 2 ^ 96) ∧
  (∀ (t : TOp) (p : BitVec 4) (d : BitVec 6), t ≠ .nop →
    decT (encT t p d) = some t ∧ hdr64 (encT t p d) = ⟨p, d⟩ ∧ lowBits (encT t p d) (keepT (bitsOf (encT t p d) 63 60)) = false ∧ encT t p d < 2 ^ 64)

/-! ### What every step keeps -/

/-- Every step keeps the byte memories of the module in their canonical form (log entry 3). -/
def Obligations.MemoryStaysCanonical : Prop :=
  ∀ (s t : State), memoryWf s = true → step s = .next t → memoryWf t = true

/-- R76, R508, R512, R516, R521: no step changes what is fixed at manufacture, and fuses are burned and never restored: a module that is RETIRED stays so. -/
def Obligations.FusesAndRepairStay : Prop :=
  ∀ (s t : State), step s = .next t → madeAs s t ∧ fusesGrow s.sec.fuses t.sec.fuses ∧ (lcState s = .retired → lcState t = .retired)

/-! ### Frames -/

/-- The frame of the commands that `leavesMemory` names, of JOB_DONE where the job's hold time is not 0, of the two commands that start-up may wait for
where it does not, and of the abort of a copy that does not go through the L1: GDDR7, the CXL tier, flash, the configuration block, the fuses and what is fixed at manufacture
keep their values; slot commands besides leave the pins, the power controller and the time base, and while the job runs on, every other core,
the engines, the job, and the memory system but for what records write to the host. -/
def Obligations.CommandFrames : Prop :=
  (∀ (s t : State) (i : Instr),
    (leavesMemory i = true ∨ (i = .jobDone ∧ s.job.hold ≠ 0) ∨ ((i = .feedTagCheck ∨ ∃ port, i = .cxlTrainTimeout port) ∧ s.sec.boot = none) ∨ ∃ core, i = .lcuRetryAbort core ∧ ∀ q, failedCopy (getCore s core) = some q → dL1 q.desc = false) → exec i s = .next t →
    (∀ a, memRead t.mem.gddr a = memRead s.mem.gddr a) ∧ t.mem.cxl = s.mem.cxl ∧ t.nor = s.nor ∧ t.cfg = s.cfg ∧ t.sec.fuses = s.sec.fuses ∧
      madeAs s t) ∧
  (∀ (s t : State) (i : Instr) (core : Nat) (sl : Slots), slotsOf i = some (core, sl) → exec i s = .next t →
    t.pins = s.pins ∧ t.pwr = s.pwr ∧ t.tim = s.tim ∧ t.sec = s.sec) ∧
  (∀ (s t : State) (i : Instr) (core : Nat) (sl : Slots), slotsOf i = some (core, sl) → sl.x = .nop → sl.s = .nop → SlotIssues s core sl →
    exec i s = .next t → t.seq.st = .running → (∀ j, j ≠ core → getCore t j = getCore s j) ∧ t.ce = s.ce ∧ t.job = s.job ∧ t.sync.g = s.sync.g ∧
      t.mem = { s.mem with host := t.mem.host, watch := t.mem.watch })
end

