-- ==== Sys2Proof/Laws/State.lean ====
section
/-! SUPPORT. What each shared update of the state leaves as it was: one lemma per update and field. -/

namespace Sys2Proof.Machine

variable (s : State)

/-! ### A core replaced or changed -/

@[simp] theorem setCore_pending (i : Nat) (c : Core) : (setCore s i c).pending = s.pending := rfl
@[simp] theorem setCore_free (i : Nat) (c : Core) : (setCore s i c).free = s.free := rfl
@[simp] theorem setCore_part832 (i : Nat) (c : Core) : (setCore s i c).part832 = s.part832 := rfl
@[simp] theorem setCore_repair (i : Nat) (c : Core) : (setCore s i c).repair = s.repair := rfl
@[simp] theorem setCore_regs (i : Nat) (c : Core) : (setCore s i c).regs = s.regs := rfl
@[simp] theorem setCore_cfg (i : Nat) (c : Core) : (setCore s i c).cfg = s.cfg := rfl
@[simp] theorem setCore_seq (i : Nat) (c : Core) : (setCore s i c).seq = s.seq := rfl
@[simp] theorem setCore_sync (i : Nat) (c : Core) : (setCore s i c).sync = s.sync := rfl
@[simp] theorem setCore_mem (i : Nat) (c : Core) : (setCore s i c).mem = s.mem := rfl
@[simp] theorem setCore_ce (i : Nat) (c : Core) : (setCore s i c).ce = s.ce := rfl
@[simp] theorem setCore_ceUid (i : Nat) (c : Core) : (setCore s i c).ceUid = s.ceUid := rfl
@[simp] theorem setCore_ldg (i : Nat) (c : Core) : (setCore s i c).ldg = s.ldg := rfl
@[simp] theorem setCore_job (i : Nat) (c : Core) : (setCore s i c).job = s.job := rfl
@[simp] theorem setCore_fab (i : Nat) (c : Core) : (setCore s i c).fab = s.fab := rfl
@[simp] theorem setCore_tim (i : Nat) (c : Core) : (setCore s i c).tim = s.tim := rfl
@[simp] theorem setCore_host (i : Nat) (c : Core) : (setCore s i c).host = s.host := rfl
@[simp] theorem setCore_dbg (i : Nat) (c : Core) : (setCore s i c).dbg = s.dbg := rfl
@[simp] theorem setCore_sec (i : Nat) (c : Core) : (setCore s i c).sec = s.sec := rfl
@[simp] theorem setCore_nor (i : Nat) (c : Core) : (setCore s i c).nor = s.nor := rfl
@[simp] theorem setCore_pwr (i : Nat) (c : Core) : (setCore s i c).pwr = s.pwr := rfl
@[simp] theorem setCore_pins (i : Nat) (c : Core) : (setCore s i c).pins = s.pins := rfl

@[simp] theorem setCore_cores (i : Nat) (c : Core) : (setCore s i c).cores = smSet Core.init s.cores i c := rfl

@[simp] theorem modCore_pending (i : Nat) (f : Core → Core) : (modCore s i f).pending = s.pending := rfl
@[simp] theorem modCore_free (i : Nat) (f : Core → Core) : (modCore s i f).free = s.free := rfl
@[simp] theorem modCore_part832 (i : Nat) (f : Core → Core) : (modCore s i f).part832 = s.part832 := rfl
@[simp] theorem modCore_repair (i : Nat) (f : Core → Core) : (modCore s i f).repair = s.repair := rfl
@[simp] theorem modCore_regs (i : Nat) (f : Core → Core) : (modCore s i f).regs = s.regs := rfl
@[simp] theorem modCore_cfg (i : Nat) (f : Core → Core) : (modCore s i f).cfg = s.cfg := rfl
@[simp] theorem modCore_seq (i : Nat) (f : Core → Core) : (modCore s i f).seq = s.seq := rfl
@[simp] theorem modCore_sync (i : Nat) (f : Core → Core) : (modCore s i f).sync = s.sync := rfl
@[simp] theorem modCore_mem (i : Nat) (f : Core → Core) : (modCore s i f).mem = s.mem := rfl
@[simp] theorem modCore_ce (i : Nat) (f : Core → Core) : (modCore s i f).ce = s.ce := rfl
@[simp] theorem modCore_ceUid (i : Nat) (f : Core → Core) : (modCore s i f).ceUid = s.ceUid := rfl
@[simp] theorem modCore_ldg (i : Nat) (f : Core → Core) : (modCore s i f).ldg = s.ldg := rfl
@[simp] theorem modCore_job (i : Nat) (f : Core → Core) : (modCore s i f).job = s.job := rfl
@[simp] theorem modCore_fab (i : Nat) (f : Core → Core) : (modCore s i f).fab = s.fab := rfl
@[simp] theorem modCore_tim (i : Nat) (f : Core → Core) : (modCore s i f).tim = s.tim := rfl
@[simp] theorem modCore_host (i : Nat) (f : Core → Core) : (modCore s i f).host = s.host := rfl
@[simp] theorem modCore_dbg (i : Nat) (f : Core → Core) : (modCore s i f).dbg = s.dbg := rfl
@[simp] theorem modCore_sec (i : Nat) (f : Core → Core) : (modCore s i f).sec = s.sec := rfl
@[simp] theorem modCore_nor (i : Nat) (f : Core → Core) : (modCore s i f).nor = s.nor := rfl
@[simp] theorem modCore_pwr (i : Nat) (f : Core → Core) : (modCore s i f).pwr = s.pwr := rfl
@[simp] theorem modCore_pins (i : Nat) (f : Core → Core) : (modCore s i f).pins = s.pins := rfl

/-! ### Registers -/

@[simp] theorem setReg_pending (a : Nat) (v : Word64) : (setReg s a v).pending = s.pending := rfl
@[simp] theorem setReg_free (a : Nat) (v : Word64) : (setReg s a v).free = s.free := rfl
@[simp] theorem setReg_part832 (a : Nat) (v : Word64) : (setReg s a v).part832 = s.part832 := rfl
@[simp] theorem setReg_repair (a : Nat) (v : Word64) : (setReg s a v).repair = s.repair := rfl
@[simp] theorem setReg_cfg (a : Nat) (v : Word64) : (setReg s a v).cfg = s.cfg := rfl
@[simp] theorem setReg_seq (a : Nat) (v : Word64) : (setReg s a v).seq = s.seq := rfl
@[simp] theorem setReg_cores (a : Nat) (v : Word64) : (setReg s a v).cores = s.cores := rfl
@[simp] theorem setReg_sync (a : Nat) (v : Word64) : (setReg s a v).sync = s.sync := rfl
@[simp] theorem setReg_mem (a : Nat) (v : Word64) : (setReg s a v).mem = s.mem := rfl
@[simp] theorem setReg_ce (a : Nat) (v : Word64) : (setReg s a v).ce = s.ce := rfl
@[simp] theorem setReg_ceUid (a : Nat) (v : Word64) : (setReg s a v).ceUid = s.ceUid := rfl
@[simp] theorem setReg_ldg (a : Nat) (v : Word64) : (setReg s a v).ldg = s.ldg := rfl
@[simp] theorem setReg_job (a : Nat) (v : Word64) : (setReg s a v).job = s.job := rfl
@[simp] theorem setReg_fab (a : Nat) (v : Word64) : (setReg s a v).fab = s.fab := rfl
@[simp] theorem setReg_tim (a : Nat) (v : Word64) : (setReg s a v).tim = s.tim := rfl
@[simp] theorem setReg_host (a : Nat) (v : Word64) : (setReg s a v).host = s.host := rfl
@[simp] theorem setReg_dbg (a : Nat) (v : Word64) : (setReg s a v).dbg = s.dbg := rfl
@[simp] theorem setReg_sec (a : Nat) (v : Word64) : (setReg s a v).sec = s.sec := rfl
@[simp] theorem setReg_nor (a : Nat) (v : Word64) : (setReg s a v).nor = s.nor := rfl
@[simp] theorem setReg_pwr (a : Nat) (v : Word64) : (setReg s a v).pwr = s.pwr := rfl
@[simp] theorem setReg_pins (a : Nat) (v : Word64) : (setReg s a v).pins = s.pins := rfl

@[simp] theorem setReg_regs (a : Nat) (v : Word64) : (setReg s a v).regs = smSet 0 s.regs a v := rfl

@[simp] theorem setRegF_pending (a hi lo x : Nat) : (setRegF s a hi lo x).pending = s.pending := rfl
@[simp] theorem setRegF_free (a hi lo x : Nat) : (setRegF s a hi lo x).free = s.free := rfl
@[simp] theorem setRegF_part832 (a hi lo x : Nat) : (setRegF s a hi lo x).part832 = s.part832 := rfl
@[simp] theorem setRegF_repair (a hi lo x : Nat) : (setRegF s a hi lo x).repair = s.repair := rfl
@[simp] theorem setRegF_cfg (a hi lo x : Nat) : (setRegF s a hi lo x).cfg = s.cfg := rfl
@[simp] theorem setRegF_seq (a hi lo x : Nat) : (setRegF s a hi lo x).seq = s.seq := rfl
@[simp] theorem setRegF_cores (a hi lo x : Nat) : (setRegF s a hi lo x).cores = s.cores := rfl
@[simp] theorem setRegF_sync (a hi lo x : Nat) : (setRegF s a hi lo x).sync = s.sync := rfl
@[simp] theorem setRegF_mem (a hi lo x : Nat) : (setRegF s a hi lo x).mem = s.mem := rfl
@[simp] theorem setRegF_ce (a hi lo x : Nat) : (setRegF s a hi lo x).ce = s.ce := rfl
@[simp] theorem setRegF_ceUid (a hi lo x : Nat) : (setRegF s a hi lo x).ceUid = s.ceUid := rfl
@[simp] theorem setRegF_ldg (a hi lo x : Nat) : (setRegF s a hi lo x).ldg = s.ldg := rfl
@[simp] theorem setRegF_job (a hi lo x : Nat) : (setRegF s a hi lo x).job = s.job := rfl
@[simp] theorem setRegF_fab (a hi lo x : Nat) : (setRegF s a hi lo x).fab = s.fab := rfl
@[simp] theorem setRegF_tim (a hi lo x : Nat) : (setRegF s a hi lo x).tim = s.tim := rfl
@[simp] theorem setRegF_host (a hi lo x : Nat) : (setRegF s a hi lo x).host = s.host := rfl
@[simp] theorem setRegF_dbg (a hi lo x : Nat) : (setRegF s a hi lo x).dbg = s.dbg := rfl
@[simp] theorem setRegF_sec (a hi lo x : Nat) : (setRegF s a hi lo x).sec = s.sec := rfl
@[simp] theorem setRegF_nor (a hi lo x : Nat) : (setRegF s a hi lo x).nor = s.nor := rfl
@[simp] theorem setRegF_pwr (a hi lo x : Nat) : (setRegF s a hi lo x).pwr = s.pwr := rfl
@[simp] theorem setRegF_pins (a hi lo x : Nat) : (setRegF s a hi lo x).pins = s.pins := rfl

@[simp] theorem bump_pending (a n : Nat) : (bump s a n).pending = s.pending := by unfold bump; split <;> rfl
@[simp] theorem bump_free (a n : Nat) : (bump s a n).free = s.free := by unfold bump; split <;> rfl
@[simp] theorem bump_part832 (a n : Nat) : (bump s a n).part832 = s.part832 := by unfold bump; split <;> rfl
@[simp] theorem bump_repair (a n : Nat) : (bump s a n).repair = s.repair := by unfold bump; split <;> rfl
@[simp] theorem bump_cfg (a n : Nat) : (bump s a n).cfg = s.cfg := by unfold bump; split <;> rfl
@[simp] theorem bump_seq (a n : Nat) : (bump s a n).seq = s.seq := by unfold bump; split <;> rfl
@[simp] theorem bump_cores (a n : Nat) : (bump s a n).cores = s.cores := by unfold bump; split <;> rfl
@[simp] theorem bump_sync (a n : Nat) : (bump s a n).sync = s.sync := by unfold bump; split <;> rfl
@[simp] theorem bump_mem (a n : Nat) : (bump s a n).mem = s.mem := by unfold bump; split <;> rfl
@[simp] theorem bump_ce (a n : Nat) : (bump s a n).ce = s.ce := by unfold bump; split <;> rfl
@[simp] theorem bump_ceUid (a n : Nat) : (bump s a n).ceUid = s.ceUid := by unfold bump; split <;> rfl
@[simp] theorem bump_ldg (a n : Nat) : (bump s a n).ldg = s.ldg := by unfold bump; split <;> rfl
@[simp] theorem bump_job (a n : Nat) : (bump s a n).job = s.job := by unfold bump; split <;> rfl
@[simp] theorem bump_fab (a n : Nat) : (bump s a n).fab = s.fab := by unfold bump; split <;> rfl
@[simp] theorem bump_tim (a n : Nat) : (bump s a n).tim = s.tim := by unfold bump; split <;> rfl
@[simp] theorem bump_host (a n : Nat) : (bump s a n).host = s.host := by unfold bump; split <;> rfl
@[simp] theorem bump_dbg (a n : Nat) : (bump s a n).dbg = s.dbg := by unfold bump; split <;> rfl
@[simp] theorem bump_sec (a n : Nat) : (bump s a n).sec = s.sec := by unfold bump; split <;> rfl
@[simp] theorem bump_nor (a n : Nat) : (bump s a n).nor = s.nor := by unfold bump; split <;> rfl
@[simp] theorem bump_pwr (a n : Nat) : (bump s a n).pwr = s.pwr := by unfold bump; split <;> rfl
@[simp] theorem bump_pins (a n : Nat) : (bump s a n).pins = s.pins := by unfold bump; split <;> rfl

/-! ### A free value -/

@[simp] theorem draw_pending  : ((draw s).2).pending = s.pending := rfl
@[simp] theorem draw_part832  : ((draw s).2).part832 = s.part832 := rfl
@[simp] theorem draw_repair  : ((draw s).2).repair = s.repair := rfl
@[simp] theorem draw_regs  : ((draw s).2).regs = s.regs := rfl
@[simp] theorem draw_cfg  : ((draw s).2).cfg = s.cfg := rfl
@[simp] theorem draw_seq  : ((draw s).2).seq = s.seq := rfl
@[simp] theorem draw_cores  : ((draw s).2).cores = s.cores := rfl
@[simp] theorem draw_sync  : ((draw s).2).sync = s.sync := rfl
@[simp] theorem draw_mem  : ((draw s).2).mem = s.mem := rfl
@[simp] theorem draw_ce  : ((draw s).2).ce = s.ce := rfl
@[simp] theorem draw_ceUid  : ((draw s).2).ceUid = s.ceUid := rfl
@[simp] theorem draw_ldg  : ((draw s).2).ldg = s.ldg := rfl
@[simp] theorem draw_job  : ((draw s).2).job = s.job := rfl
@[simp] theorem draw_fab  : ((draw s).2).fab = s.fab := rfl
@[simp] theorem draw_tim  : ((draw s).2).tim = s.tim := rfl
@[simp] theorem draw_host  : ((draw s).2).host = s.host := rfl
@[simp] theorem draw_dbg  : ((draw s).2).dbg = s.dbg := rfl
@[simp] theorem draw_sec  : ((draw s).2).sec = s.sec := rfl
@[simp] theorem draw_nor  : ((draw s).2).nor = s.nor := rfl
@[simp] theorem draw_pwr  : ((draw s).2).pwr = s.pwr := rfl
@[simp] theorem draw_pins  : ((draw s).2).pins = s.pins := rfl

/-! ### A link, an engine, a queue pair -/

@[simp] theorem setLink_pending (k : Nat) (l : Link) : (setLink s k l).pending = s.pending := rfl
@[simp] theorem setLink_free (k : Nat) (l : Link) : (setLink s k l).free = s.free := rfl
@[simp] theorem setLink_part832 (k : Nat) (l : Link) : (setLink s k l).part832 = s.part832 := rfl
@[simp] theorem setLink_repair (k : Nat) (l : Link) : (setLink s k l).repair = s.repair := rfl
@[simp] theorem setLink_regs (k : Nat) (l : Link) : (setLink s k l).regs = s.regs := rfl
@[simp] theorem setLink_cfg (k : Nat) (l : Link) : (setLink s k l).cfg = s.cfg := rfl
@[simp] theorem setLink_seq (k : Nat) (l : Link) : (setLink s k l).seq = s.seq := rfl
@[simp] theorem setLink_cores (k : Nat) (l : Link) : (setLink s k l).cores = s.cores := rfl
@[simp] theorem setLink_sync (k : Nat) (l : Link) : (setLink s k l).sync = s.sync := rfl
@[simp] theorem setLink_mem (k : Nat) (l : Link) : (setLink s k l).mem = s.mem := rfl
@[simp] theorem setLink_ce (k : Nat) (l : Link) : (setLink s k l).ce = s.ce := rfl
@[simp] theorem setLink_ceUid (k : Nat) (l : Link) : (setLink s k l).ceUid = s.ceUid := rfl
@[simp] theorem setLink_ldg (k : Nat) (l : Link) : (setLink s k l).ldg = s.ldg := rfl
@[simp] theorem setLink_job (k : Nat) (l : Link) : (setLink s k l).job = s.job := rfl
@[simp] theorem setLink_tim (k : Nat) (l : Link) : (setLink s k l).tim = s.tim := rfl
@[simp] theorem setLink_host (k : Nat) (l : Link) : (setLink s k l).host = s.host := rfl
@[simp] theorem setLink_dbg (k : Nat) (l : Link) : (setLink s k l).dbg = s.dbg := rfl
@[simp] theorem setLink_sec (k : Nat) (l : Link) : (setLink s k l).sec = s.sec := rfl
@[simp] theorem setLink_nor (k : Nat) (l : Link) : (setLink s k l).nor = s.nor := rfl
@[simp] theorem setLink_pwr (k : Nat) (l : Link) : (setLink s k l).pwr = s.pwr := rfl
@[simp] theorem setLink_pins (k : Nat) (l : Link) : (setLink s k l).pins = s.pins := rfl

@[simp] theorem modLink_pending (k : Nat) (f : Link → Link) : (modLink s k f).pending = s.pending := rfl
@[simp] theorem modLink_free (k : Nat) (f : Link → Link) : (modLink s k f).free = s.free := rfl
@[simp] theorem modLink_part832 (k : Nat) (f : Link → Link) : (modLink s k f).part832 = s.part832 := rfl
@[simp] theorem modLink_repair (k : Nat) (f : Link → Link) : (modLink s k f).repair = s.repair := rfl
@[simp] theorem modLink_regs (k : Nat) (f : Link → Link) : (modLink s k f).regs = s.regs := rfl
@[simp] theorem modLink_cfg (k : Nat) (f : Link → Link) : (modLink s k f).cfg = s.cfg := rfl
@[simp] theorem modLink_seq (k : Nat) (f : Link → Link) : (modLink s k f).seq = s.seq := rfl
@[simp] theorem modLink_cores (k : Nat) (f : Link → Link) : (modLink s k f).cores = s.cores := rfl
@[simp] theorem modLink_sync (k : Nat) (f : Link → Link) : (modLink s k f).sync = s.sync := rfl
@[simp] theorem modLink_mem (k : Nat) (f : Link → Link) : (modLink s k f).mem = s.mem := rfl
@[simp] theorem modLink_ce (k : Nat) (f : Link → Link) : (modLink s k f).ce = s.ce := rfl
@[simp] theorem modLink_ceUid (k : Nat) (f : Link → Link) : (modLink s k f).ceUid = s.ceUid := rfl
@[simp] theorem modLink_ldg (k : Nat) (f : Link → Link) : (modLink s k f).ldg = s.ldg := rfl
@[simp] theorem modLink_job (k : Nat) (f : Link → Link) : (modLink s k f).job = s.job := rfl
@[simp] theorem modLink_tim (k : Nat) (f : Link → Link) : (modLink s k f).tim = s.tim := rfl
@[simp] theorem modLink_host (k : Nat) (f : Link → Link) : (modLink s k f).host = s.host := rfl
@[simp] theorem modLink_dbg (k : Nat) (f : Link → Link) : (modLink s k f).dbg = s.dbg := rfl
@[simp] theorem modLink_sec (k : Nat) (f : Link → Link) : (modLink s k f).sec = s.sec := rfl
@[simp] theorem modLink_nor (k : Nat) (f : Link → Link) : (modLink s k f).nor = s.nor := rfl
@[simp] theorem modLink_pwr (k : Nat) (f : Link → Link) : (modLink s k f).pwr = s.pwr := rfl
@[simp] theorem modLink_pins (k : Nat) (f : Link → Link) : (modLink s k f).pins = s.pins := rfl

@[simp] theorem setCe_pending (k : Nat) (e : Engine) : (setCe s k e).pending = s.pending := rfl
@[simp] theorem setCe_free (k : Nat) (e : Engine) : (setCe s k e).free = s.free := rfl
@[simp] theorem setCe_part832 (k : Nat) (e : Engine) : (setCe s k e).part832 = s.part832 := rfl
@[simp] theorem setCe_repair (k : Nat) (e : Engine) : (setCe s k e).repair = s.repair := rfl
@[simp] theorem setCe_regs (k : Nat) (e : Engine) : (setCe s k e).regs = s.regs := rfl
@[simp] theorem setCe_cfg (k : Nat) (e : Engine) : (setCe s k e).cfg = s.cfg := rfl
@[simp] theorem setCe_seq (k : Nat) (e : Engine) : (setCe s k e).seq = s.seq := rfl
@[simp] theorem setCe_cores (k : Nat) (e : Engine) : (setCe s k e).cores = s.cores := rfl
@[simp] theorem setCe_sync (k : Nat) (e : Engine) : (setCe s k e).sync = s.sync := rfl
@[simp] theorem setCe_mem (k : Nat) (e : Engine) : (setCe s k e).mem = s.mem := rfl
@[simp] theorem setCe_ceUid (k : Nat) (e : Engine) : (setCe s k e).ceUid = s.ceUid := rfl
@[simp] theorem setCe_ldg (k : Nat) (e : Engine) : (setCe s k e).ldg = s.ldg := rfl
@[simp] theorem setCe_job (k : Nat) (e : Engine) : (setCe s k e).job = s.job := rfl
@[simp] theorem setCe_fab (k : Nat) (e : Engine) : (setCe s k e).fab = s.fab := rfl
@[simp] theorem setCe_tim (k : Nat) (e : Engine) : (setCe s k e).tim = s.tim := rfl
@[simp] theorem setCe_host (k : Nat) (e : Engine) : (setCe s k e).host = s.host := rfl
@[simp] theorem setCe_dbg (k : Nat) (e : Engine) : (setCe s k e).dbg = s.dbg := rfl
@[simp] theorem setCe_sec (k : Nat) (e : Engine) : (setCe s k e).sec = s.sec := rfl
@[simp] theorem setCe_nor (k : Nat) (e : Engine) : (setCe s k e).nor = s.nor := rfl
@[simp] theorem setCe_pwr (k : Nat) (e : Engine) : (setCe s k e).pwr = s.pwr := rfl
@[simp] theorem setCe_pins (k : Nat) (e : Engine) : (setCe s k e).pins = s.pins := rfl

@[simp] theorem setQ_pending (n : Nat) (q : HostQ) : (setQ s n q).pending = s.pending := rfl
@[simp] theorem setQ_free (n : Nat) (q : HostQ) : (setQ s n q).free = s.free := rfl
@[simp] theorem setQ_part832 (n : Nat) (q : HostQ) : (setQ s n q).part832 = s.part832 := rfl
@[simp] theorem setQ_repair (n : Nat) (q : HostQ) : (setQ s n q).repair = s.repair := rfl
@[simp] theorem setQ_regs (n : Nat) (q : HostQ) : (setQ s n q).regs = s.regs := rfl
@[simp] theorem setQ_cfg (n : Nat) (q : HostQ) : (setQ s n q).cfg = s.cfg := rfl
@[simp] theorem setQ_seq (n : Nat) (q : HostQ) : (setQ s n q).seq = s.seq := rfl
@[simp] theorem setQ_cores (n : Nat) (q : HostQ) : (setQ s n q).cores = s.cores := rfl
@[simp] theorem setQ_sync (n : Nat) (q : HostQ) : (setQ s n q).sync = s.sync := rfl
@[simp] theorem setQ_mem (n : Nat) (q : HostQ) : (setQ s n q).mem = s.mem := rfl
@[simp] theorem setQ_ce (n : Nat) (q : HostQ) : (setQ s n q).ce = s.ce := rfl
@[simp] theorem setQ_ceUid (n : Nat) (q : HostQ) : (setQ s n q).ceUid = s.ceUid := rfl
@[simp] theorem setQ_ldg (n : Nat) (q : HostQ) : (setQ s n q).ldg = s.ldg := rfl
@[simp] theorem setQ_job (n : Nat) (q : HostQ) : (setQ s n q).job = s.job := rfl
@[simp] theorem setQ_fab (n : Nat) (q : HostQ) : (setQ s n q).fab = s.fab := rfl
@[simp] theorem setQ_tim (n : Nat) (q : HostQ) : (setQ s n q).tim = s.tim := rfl
@[simp] theorem setQ_dbg (n : Nat) (q : HostQ) : (setQ s n q).dbg = s.dbg := rfl
@[simp] theorem setQ_sec (n : Nat) (q : HostQ) : (setQ s n q).sec = s.sec := rfl
@[simp] theorem setQ_nor (n : Nat) (q : HostQ) : (setQ s n q).nor = s.nor := rfl
@[simp] theorem setQ_pwr (n : Nat) (q : HostQ) : (setQ s n q).pwr = s.pwr := rfl
@[simp] theorem setQ_pins (n : Nat) (q : HostQ) : (setQ s n q).pins = s.pins := rfl

/-! ### A host vector -/

@[simp] theorem hostVector_pending (v : Nat) : (hostVector s v).pending = s.pending := by unfold hostVector; split <;> rfl
@[simp] theorem hostVector_free (v : Nat) : (hostVector s v).free = s.free := by unfold hostVector; split <;> rfl
@[simp] theorem hostVector_part832 (v : Nat) : (hostVector s v).part832 = s.part832 := by unfold hostVector; split <;> rfl
@[simp] theorem hostVector_repair (v : Nat) : (hostVector s v).repair = s.repair := by unfold hostVector; split <;> rfl
@[simp] theorem hostVector_regs (v : Nat) : (hostVector s v).regs = s.regs := by unfold hostVector; split <;> rfl
@[simp] theorem hostVector_cfg (v : Nat) : (hostVector s v).cfg = s.cfg := by unfold hostVector; split <;> rfl
@[simp] theorem hostVector_seq (v : Nat) : (hostVector s v).seq = s.seq := by unfold hostVector; split <;> rfl
@[simp] theorem hostVector_cores (v : Nat) : (hostVector s v).cores = s.cores := by unfold hostVector; split <;> rfl
@[simp] theorem hostVector_sync (v : Nat) : (hostVector s v).sync = s.sync := by unfold hostVector; split <;> rfl
@[simp] theorem hostVector_mem (v : Nat) : (hostVector s v).mem = s.mem := by unfold hostVector; split <;> rfl
@[simp] theorem hostVector_ce (v : Nat) : (hostVector s v).ce = s.ce := by unfold hostVector; split <;> rfl
@[simp] theorem hostVector_ceUid (v : Nat) : (hostVector s v).ceUid = s.ceUid := by unfold hostVector; split <;> rfl
@[simp] theorem hostVector_ldg (v : Nat) : (hostVector s v).ldg = s.ldg := by unfold hostVector; split <;> rfl
@[simp] theorem hostVector_job (v : Nat) : (hostVector s v).job = s.job := by unfold hostVector; split <;> rfl
@[simp] theorem hostVector_fab (v : Nat) : (hostVector s v).fab = s.fab := by unfold hostVector; split <;> rfl
@[simp] theorem hostVector_tim (v : Nat) : (hostVector s v).tim = s.tim := by unfold hostVector; split <;> rfl
@[simp] theorem hostVector_dbg (v : Nat) : (hostVector s v).dbg = s.dbg := by unfold hostVector; split <;> rfl
@[simp] theorem hostVector_sec (v : Nat) : (hostVector s v).sec = s.sec := by unfold hostVector; split <;> rfl
@[simp] theorem hostVector_nor (v : Nat) : (hostVector s v).nor = s.nor := by unfold hostVector; split <;> rfl
@[simp] theorem hostVector_pwr (v : Nat) : (hostVector s v).pwr = s.pwr := by unfold hostVector; split <;> rfl
@[simp] theorem hostVector_pins (v : Nat) : (hostVector s v).pins = s.pins := by unfold hostVector; split <;> rfl

end Sys2Proof.Machine
end

