-- ==== Sys2Proof/Laws/Store.lean ====
section
/-! SUPPORT. Laws of the sparse maps and byte memories: a read after a write, what a write leaves alone, and the canonical form, which
every operation keeps. -/

namespace Sys2Proof.Machine

variable {α : Type}

@[simp] theorem smGet_nil (d : α) (k : Nat) : smGet d [] k = d := rfl

theorem smGet_cons (d : α) (p : Nat × α) (m : SMap α) (k : Nat) :
    smGet d (p :: m) k = if p.1 = k then p.2 else smGet d m k := rfl

/-- A value put at another key is not seen. -/
theorem smGet_smSet_ne [DecidableEq α] (d : α) (m : SMap α) (k k' : Nat) (v : α) (h : k' ≠ k) :
    smGet d (smSet d m k v) k' = smGet d m k' := by
  induction m with
  | nil => unfold smSet; split <;> simp [smGet, Ne.symm h]
  | cons p m ih =>
    obtain ⟨j, u⟩ := p
    unfold smSet
    split
    · simp only [smGet, ih]
    · split
      · rename_i hj; subst hj
        split <;> simp [smGet, Ne.symm h]
      · split <;> simp [smGet, Ne.symm h]

/-- A value that is not the default is read back. -/
theorem smGet_smSet_val [DecidableEq α] (d : α) (m : SMap α) (k : Nat) (v : α) (h : v ≠ d) :
    smGet d (smSet d m k v) k = v := by
  induction m with
  | nil => simp [smSet, smGet, h]
  | cons p m ih =>
    obtain ⟨j, u⟩ := p
    unfold smSet
    split
    · rename_i hj; simp only [smGet, ih]; rw [if_neg (by omega)]
    · split <;> simp [smGet]

/-- Keys above a bound do not answer below it. -/
theorem smGet_of_wfFrom [DecidableEq α] (d : α) (m : SMap α) (k : Nat) :
    ∀ lo : Nat, smWfFrom d (some lo) m = true → k ≤ lo → smGet d m k = d := by
  induction m with
  | nil => intros; rfl
  | cons p m ih =>
    obtain ⟨j, u⟩ := p
    intro lo h hk
    simp only [smWfFrom, Bool.and_eq_true, decide_eq_true_eq] at h
    simp only [smGet]
    rw [if_neg (by omega)]
    exact ih j h.2 (by omega)

theorem smWfFrom_none_of_some [DecidableEq α] (d : α) (m : SMap α) (lo : Nat) (h : smWfFrom d (some lo) m = true) :
    smWfFrom d none m = true := by
  cases m with
  | nil => rfl
  | cons p m => obtain ⟨j, u⟩ := p; simp only [smWfFrom, Bool.and_eq_true, decide_eq_true_eq, true_and] at h ⊢; exact ⟨h.1.2, h.2⟩

theorem smWfFrom_mono [DecidableEq α] (d : α) (m : SMap α) (a b : Nat) (hab : a ≤ b) (h : smWfFrom d (some b) m = true) :
    smWfFrom d (some a) m = true := by
  cases m with
  | nil => rfl
  | cons p m =>
    obtain ⟨j, u⟩ := p
    simp only [smWfFrom, Bool.and_eq_true, decide_eq_true_eq] at h ⊢
    exact ⟨⟨by omega, h.1.2⟩, h.2⟩

theorem smWf_tail [DecidableEq α] (d : α) (p : Nat × α) (m : SMap α) (h : smWf d (p :: m) = true) : smWf d m = true := by
  obtain ⟨j, u⟩ := p
  simp only [smWf, smWfFrom, Bool.and_eq_true] at h
  exact smWfFrom_none_of_some d m j h.2

/-- In the canonical form a value is read back, the default too. -/
theorem smGet_smSet_same [DecidableEq α] (d : α) (m : SMap α) (k : Nat) (v : α) (h : smWf d m = true) :
    smGet d (smSet d m k v) k = v := by
  by_cases hv : v = d
  · subst hv
    induction m with
    | nil => simp [smSet]
    | cons p m ih =>
      have ht := smWf_tail v p m h
      obtain ⟨j, u⟩ := p
      simp only [smWf, smWfFrom, Bool.and_eq_true, decide_eq_true_eq] at h
      unfold smSet
      split
      · rename_i hj; simp only [smGet]; rw [if_neg (by omega)]; exact ih ht
      · split
        · rename_i hj; subst hj; simp only [if_pos]; exact smGet_of_wfFrom v m j j h.2 (Nat.le_refl j)
        · rename_i h1 h2
          simp only [if_pos, smGet]; rw [if_neg h2]; exact smGet_of_wfFrom v m k j h.2 (by omega)
  · exact smGet_smSet_val d m k v hv

theorem smWfFrom_smSet [DecidableEq α] (d : α) (m : SMap α) (k : Nat) (v : α) :
    ∀ lo : Nat, lo < k → smWfFrom d (some lo) m = true → smWfFrom d (some lo) (smSet d m k v) = true := by
  induction m with
  | nil =>
    intro lo hlo h
    unfold smSet
    split
    · rfl
    · rename_i hv; simp [smWfFrom, hlo, hv]
  | cons p m ih =>
    obtain ⟨j, u⟩ := p
    intro lo hlo h
    simp only [smWfFrom, Bool.and_eq_true, decide_eq_true_eq] at h
    unfold smSet
    split
    · rename_i hj
      simp only [smWfFrom, Bool.and_eq_true, decide_eq_true_eq]
      exact ⟨h.1, ih j hj h.2⟩
    · split
      · rename_i hj; subst hj
        split
        · exact smWfFrom_mono d m lo j (by omega) h.2
        · rename_i hv; simp only [smWfFrom, Bool.and_eq_true, decide_eq_true_eq]; exact ⟨⟨hlo, hv⟩, h.2⟩
      · split
        · simp only [smWfFrom, Bool.and_eq_true, decide_eq_true_eq]; exact h
        · rename_i h1 h2 hv
          simp only [smWfFrom, Bool.and_eq_true, decide_eq_true_eq]
          exact ⟨⟨hlo, hv⟩, ⟨by omega, h.1.2⟩, h.2⟩

/-- A value put keeps the canonical form. -/
theorem smWf_smSet [DecidableEq α] (d : α) (m : SMap α) (k : Nat) (v : α) (h : smWf d m = true) :
    smWf d (smSet d m k v) = true := by
  cases m with
  | nil => unfold smSet; split <;> simp [smWf, smWfFrom]; assumption
  | cons p m =>
    obtain ⟨j, u⟩ := p
    simp only [smWf, smWfFrom, Bool.and_eq_true, decide_eq_true_eq, true_and] at h
    unfold smSet
    split
    · rename_i hj
      simp only [smWf, smWfFrom, Bool.and_eq_true, decide_eq_true_eq, true_and]
      exact ⟨h.1, smWfFrom_smSet d m k v j hj h.2⟩
    · split
      · rename_i hj; subst hj
        split
        · exact smWfFrom_none_of_some d m j h.2
        · rename_i hv; simp only [smWf, smWfFrom, Bool.and_eq_true, decide_eq_true_eq, true_and]; exact ⟨hv, h.2⟩
      · split
        · simp only [smWf, smWfFrom, Bool.and_eq_true, decide_eq_true_eq, true_and]; exact h
        · rename_i h1 h2 hv
          simp only [smWf, smWfFrom, Bool.and_eq_true, decide_eq_true_eq, true_and]
          exact ⟨hv, ⟨by omega, h.1⟩, h.2⟩

/-! ### Runs of values -/

theorem smGet_append (d : α) (m n : SMap α) (k : Nat) (h : ∀ p ∈ m, p.1 ≠ k) : smGet d (m ++ n) k = smGet d n k := by
  induction m with
  | nil => rfl
  | cons p m ih =>
    simp only [List.cons_append, smGet_cons]
    rw [if_neg (h p (by simp))]
    exact ih (fun q hq => h q (by simp [hq]))

theorem smGet_none (d : α) (m : SMap α) (k : Nat) (h : ∀ p ∈ m, p.1 ≠ k) : smGet d m k = d := by
  have := smGet_append d m [] k h
  simpa using this

theorem smGet_append_left (d : α) (m n : SMap α) (k : Nat) (h : ∀ p ∈ n, p.1 ≠ k) : smGet d (m ++ n) k = smGet d m k := by
  induction m with
  | nil => simpa using smGet_none d n k h
  | cons p m ih => simp only [List.cons_append, smGet_cons, ih]

theorem smGet_filter (d : α) (m : SMap α) (q : Nat → Bool) (k : Nat) (h : q k = true) :
    smGet d (m.filter (fun p => q p.1)) k = smGet d m k := by
  induction m with
  | nil => rfl
  | cons p m ih =>
    rw [List.filter_cons]
    by_cases hq : q p.1 = true
    · simp only [hq, if_true, smGet_cons, ih]
    · have : p.1 ≠ k := fun e => hq (e ▸ h)
      rw [if_neg hq, ih, smGet_cons, if_neg this]

theorem smCells_keys [DecidableEq α] (d : α) (vs : List α) : ∀ k, ∀ p ∈ smCells d k vs, k ≤ p.1 ∧ p.1 < k + vs.length := by
  induction vs with
  | nil => intro k p hp; simp [smCells] at hp
  | cons v vs ih =>
    intro k p hp
    have rest : ∀ q ∈ smCells d (k + 1) vs, k ≤ q.1 ∧ q.1 < k + (v :: vs).length := fun q hq => by
      have := ih (k + 1) q hq; simp only [List.length_cons]; omega
    unfold smCells at hp
    split at hp
    · exact rest p hp
    · rcases List.mem_cons.mp hp with rfl | hp
      · simp
      · exact rest p hp

theorem smGet_smCells [DecidableEq α] (d : α) (vs : List α) : ∀ k i, i < vs.length → smGet d (smCells d k vs) (k + i) = vs.getD i d := by
  induction vs with
  | nil => intro k i h; simp at h
  | cons v vs ih =>
    intro k i h
    unfold smCells
    cases i with
    | zero =>
      split
      · rename_i hv
        rw [smGet_none]
        · simp [hv]
        · intro p hp; have := smCells_keys d vs (k + 1) p hp; omega
      · simp [smGet]
    | succ i =>
      have hi : i < vs.length := by simpa using h
      have e : k + (i + 1) = (k + 1) + i := by omega
      split
      · rw [e, ih (k + 1) i hi]; simp
      · rw [smGet_cons, if_neg (by simp), e, ih (k + 1) i hi]; simp

/-- Values put from a key on leave every other key alone. -/
theorem smGet_smPut_out [DecidableEq α] (d : α) (m : SMap α) (k : Nat) (vs : List α) (a : Nat) (h : a < k ∨ k + vs.length ≤ a) :
    smGet d (smPut d m k vs) a = smGet d m a := by
  unfold smPut smBelow smFrom
  rcases h with h | h
  · rw [smGet_append_left, smGet_append_left]
    · exact smGet_filter d m (fun x => decide (x < k)) a (by simp [h])
    · intro p hp; have := smCells_keys d vs k p hp; omega
    · intro p hp; have := (List.mem_filter.mp hp).2; simp only [decide_eq_true_eq] at this; omega
  · rw [smGet_append]
    · exact smGet_filter d m (fun x => decide (k + vs.length ≤ x)) a (by simp [h])
    · intro p hp
      rcases List.mem_append.mp hp with hp | hp
      · have := (List.mem_filter.mp hp).2; simp only [decide_eq_true_eq] at this; omega
      · have := smCells_keys d vs k p hp; omega

/-- Values put from a key on are read back. -/
theorem smGet_smPut_in [DecidableEq α] (d : α) (m : SMap α) (k : Nat) (vs : List α) (i : Nat) (h : i < vs.length) :
    smGet d (smPut d m k vs) (k + i) = vs.getD i d := by
  unfold smPut smBelow smFrom
  rw [smGet_append_left, smGet_append]
  · exact smGet_smCells d vs k i h
  · intro p hp; have := (List.mem_filter.mp hp).2; simp only [decide_eq_true_eq] at this; omega
  · intro p hp; have := (List.mem_filter.mp hp).2; simp only [decide_eq_true_eq] at this; omega

/-- Keys cleared read as the default; the others are left alone. -/
theorem smGet_smClear (d : α) (m : SMap α) (k n a : Nat) :
    smGet d (smClear m k n) a = if k ≤ a ∧ a < k + n then d else smGet d m a := by
  unfold smClear smBelow smFrom
  split
  · rename_i h
    apply smGet_none
    intro p hp
    rcases List.mem_append.mp hp with hp | hp <;>
      (have := (List.mem_filter.mp hp).2; simp only [decide_eq_true_eq] at this; omega)
  · rename_i h
    by_cases hk : a < k
    · rw [smGet_append_left]
      · exact smGet_filter d m (fun x => decide (x < k)) a (by simp [hk])
      · intro p hp; have := (List.mem_filter.mp hp).2; simp only [decide_eq_true_eq] at this; omega
    · rw [smGet_append]
      · exact smGet_filter d m (fun x => decide (k + n ≤ x)) a (by simp; omega)
      · intro p hp; have := (List.mem_filter.mp hp).2; simp only [decide_eq_true_eq] at this; omega

/-! ### The canonical form as a pairwise order -/

/-- The canonical form: keys rise strictly and no value is the default. -/
theorem smWf_iff [DecidableEq α] (d : α) (m : SMap α) :
    smWf d m = true ↔ m.Pairwise (fun p q => p.1 < q.1) ∧ ∀ p ∈ m, p.2 ≠ d := by
  have key : ∀ (m : SMap α) (lo : Option Nat),
      smWfFrom d lo m = true ↔ (∀ b, lo = some b → ∀ p ∈ m, b < p.1) ∧ m.Pairwise (fun p q => p.1 < q.1) ∧ ∀ p ∈ m, p.2 ≠ d := by
    intro m
    induction m with
    | nil => intro lo; simp [smWfFrom]
    | cons p m ih =>
      obtain ⟨j, u⟩ := p
      intro lo
      simp only [smWfFrom, Bool.and_eq_true, decide_eq_true_eq, ih, List.pairwise_cons, List.mem_cons, Option.some.injEq]
      constructor
      · rintro ⟨⟨h1, h2⟩, h3, h4, h5⟩
        refine ⟨?_, ⟨fun q hq => h3 j rfl q hq, h4⟩, ?_⟩
        · intro b hb q hq
          subst hb
          simp only [decide_eq_true_eq] at h1
          rcases hq with rfl | hq
          · exact h1
          · exact Nat.lt_trans h1 (h3 j rfl q hq)
        · intro q hq
          rcases hq with rfl | hq
          · exact h2
          · exact h5 q hq
      · rintro ⟨h1, ⟨h2, h3⟩, h4⟩
        refine ⟨⟨?_, h4 (j, u) (Or.inl rfl)⟩, ?_, h3, fun q hq => h4 q (Or.inr hq)⟩
        · cases lo with
          | none => rfl
          | some b => simpa using h1 b rfl (j, u) (Or.inl rfl)
        · intro b hb q hq; subst hb; exact h2 q hq
  have := key m none
  simpa [smWf] using this

/-- Entries left out keep the canonical form. -/
theorem smWf_filter [DecidableEq α] (d : α) (m : SMap α) (q : Nat × α → Bool) (h : smWf d m = true) : smWf d (m.filter q) = true := by
  rw [smWf_iff] at h ⊢
  exact ⟨h.1.filter q, fun p hp => h.2 p (List.mem_filter.mp hp).1⟩

theorem smCells_wf [DecidableEq α] (d : α) (vs : List α) : ∀ k, smWf d (smCells d k vs) = true := by
  induction vs with
  | nil => intro k; rfl
  | cons v vs ih =>
    intro k
    unfold smCells
    split
    · exact ih (k + 1)
    · rename_i hv
      have := ih (k + 1)
      rw [smWf_iff] at this ⊢
      refine ⟨List.pairwise_cons.mpr ⟨fun p hp => ?_, this.1⟩, fun p hp => ?_⟩
      · have := smCells_keys d vs (k + 1) p hp; simp only; omega
      · rcases List.mem_cons.mp hp with rfl | hp
        · exact hv
        · exact this.2 p hp

/-- Values put from a key on keep the canonical form. -/
theorem smWf_smPut [DecidableEq α] (d : α) (m : SMap α) (k : Nat) (vs : List α) (h : smWf d m = true) : smWf d (smPut d m k vs) = true := by
  have hc := smCells_wf d vs k
  rw [smWf_iff] at h hc ⊢
  unfold smPut smBelow smFrom
  refine ⟨List.pairwise_append.mpr ⟨List.pairwise_append.mpr ⟨h.1.filter _, hc.1, ?_⟩, h.1.filter _, ?_⟩, ?_⟩
  · intro p hp q hq
    have h1 := (List.mem_filter.mp hp).2
    have h2 := smCells_keys d vs k q hq
    simp only [decide_eq_true_eq] at h1; omega
  · intro p hp q hq
    have h2 := (List.mem_filter.mp hq).2
    simp only [decide_eq_true_eq] at h2
    rcases List.mem_append.mp hp with hp | hp
    · have h1 := (List.mem_filter.mp hp).2
      simp only [decide_eq_true_eq] at h1; omega
    · have h1 := smCells_keys d vs k p hp; omega
  · intro p hp
    rcases List.mem_append.mp hp with hp | hp
    · rcases List.mem_append.mp hp with hp | hp
      · exact h.2 p (List.mem_filter.mp hp).1
      · exact hc.2 p hp
    · exact h.2 p (List.mem_filter.mp hp).1

/-- Keys cleared keep the canonical form. -/
theorem smWf_smClear [DecidableEq α] (d : α) (m : SMap α) (k n : Nat) (h : smWf d m = true) : smWf d (smClear m k n) = true := by
  rw [smWf_iff] at h ⊢
  unfold smClear smBelow smFrom
  refine ⟨List.pairwise_append.mpr ⟨h.1.filter _, h.1.filter _, ?_⟩, ?_⟩
  · intro p hp q hq
    have h1 := (List.mem_filter.mp hp).2
    have h2 := (List.mem_filter.mp hq).2
    simp only [decide_eq_true_eq] at h1 h2; omega
  · intro p hp
    rcases List.mem_append.mp hp with hp | hp <;> exact h.2 p (List.mem_filter.mp hp).1

/-- Reading a run of a map with rising keys reads its keys one by one. -/
theorem smTake_eq (d : α) : ∀ n k (m : SMap α), m.Pairwise (fun p q => p.1 < q.1) → (∀ p ∈ m, k ≤ p.1) →
    smTake d m k n = (List.range' k n).map (smGet d m) := by
  intro n
  induction n with
  | zero => intro k m _ _; cases m <;> rfl
  | succ n ih =>
    intro k m hs hk
    rw [List.range'_succ, List.map_cons]
    match m with
    | [] =>
      rw [smTake, List.replicate_succ, smGet_nil]
      congr 1
      exact (List.eq_replicate_iff.mpr ⟨by simp, fun b hb => by
        obtain ⟨x, _, rfl⟩ := List.mem_map.mp hb
        rfl⟩).symm
    | (j, v) :: m =>
      rw [smTake]
      split
      · next h =>
        subst h
        rw [smGet_cons, if_pos rfl, ih (j + 1) m (List.Pairwise.of_cons hs) (fun p hp => List.rel_of_pairwise_cons hs hp)]
        congr 1
        refine List.map_congr_left fun x hx => ?_
        rw [smGet_cons, if_neg]
        have := (List.mem_range'_1.mp hx).1
        show ¬ j = x
        omega
      · next h =>
        have h0 : smGet d ((j, v) :: m) k = d := smGet_none d _ k (fun p hp he => by
          have := hk p hp
          rcases List.mem_cons.mp hp with rfl | hp
          · exact h he
          · have := List.rel_of_pairwise_cons hs hp
            have := hk (j, v) (List.mem_cons_self ..)
            simp only at *
            omega)
        rw [h0, ih (k + 1) _ hs]
        intro p hp
        have h1 := hk p hp
        rcases List.mem_cons.mp hp with rfl | hp
        · simp only at *; omega
        · have := List.rel_of_pairwise_cons hs hp
          have := hk (j, v) (List.mem_cons_self ..)
          simp only at *
          omega

/-! ### Byte memories -/

theorem Memory.wf_write (m : Memory) (a : Nat) (b : Byte) (h : m.wf = true) : (memWrite m a b).wf = true := smWf_smSet _ m a b h

theorem Memory.wf_writes (m : Memory) (a : Nat) (bs : List Byte) (h : m.wf = true) : (memWrites m a bs).wf = true :=
  smWf_smPut _ m a bs h

theorem Memory.wf_clear (m : Memory) (a n : Nat) (h : m.wf = true) : Memory.wf (smClear m a n) = true := smWf_smClear _ m a n h

theorem Memory.wf_filter (m : Memory) (q : Nat × Byte → Bool) (h : m.wf = true) : Memory.wf (m.filter q) = true := smWf_filter _ m q h

theorem memRead_write (m : Memory) (a : Nat) (b : Byte) (h : m.wf = true) : memRead (memWrite m a b) a = b :=
  smGet_smSet_same _ m a b h

theorem memRead_write_ne (m : Memory) (a x : Nat) (b : Byte) (h : x ≠ a) : memRead (memWrite m a b) x = memRead m x :=
  smGet_smSet_ne _ m a x b h

theorem memRead_writes_in (m : Memory) (a : Nat) (bs : List Byte) (i : Nat) (h : i < bs.length) :
    memRead (memWrites m a bs) (a + i) = bs.getD i 0 := smGet_smPut_in _ m a bs i h

theorem memRead_writes_out (m : Memory) (a : Nat) (bs : List Byte) (x : Nat) (h : x < a ∨ a + bs.length ≤ x) :
    memRead (memWrites m a bs) x = memRead m x := smGet_smPut_out _ m a bs x h

/-- Reading memory with rising addresses reads its bytes one by one. -/
theorem memReads_eq (m : Memory) (a n : Nat) (h : m.Pairwise (fun p q => p.1 < q.1)) :
    memReads m a n = (List.range' a n).map (memRead m) := by
  unfold memReads smRange
  have hf : ∀ p ∈ smFrom m a, a ≤ p.1 := fun p hp => of_decide_eq_true (List.mem_filter.mp hp).2
  have hs : (smFrom m a).Pairwise (fun p q => p.1 < q.1) := h.filter _
  rw [smTake_eq _ _ _ _ hs hf]
  refine List.map_congr_left fun x hx => ?_
  exact smGet_filter _ m (fun k => decide (a ≤ k)) x (decide_eq_true (List.mem_range'_1.mp hx).1)

/-- A part of what was read is what reading that part gives. -/
theorem slice_memReads (m : Memory) (a n i k : Nat) (h : m.Pairwise (fun p q => p.1 < q.1)) (hk : i + k ≤ n) :
    slice (memReads m a n) i k = memReads m (a + i) k := by
  rw [memReads_eq m a n h, memReads_eq m (a + i) k h]
  have h1 : (List.range' a n).drop i = List.range' (a + i) (n - i) := by
    rw [List.drop_range', Nat.mul_one]
  have h2 : (List.range' (a + i) (n - i)).take k = List.range' (a + i) k := by
    rw [show n - i = k + (n - i - k) by omega, ← List.range'_append_1, List.take_left' (by simp)]
  simp [slice, ← List.map_drop, ← List.map_take, h1, h2, zeros]

end Sys2Proof.Machine
end

