-- ==== Sys2Proof/Laws/Record.lean ====
section
/-! SUPPORT. What recording an event can change: the Ledger, the host's event entries (completion queue 0 in host memory, its pointers,
the lost-event count, vectors, the watches they tear) and LDG_LOST; nothing else. -/

namespace Sys2Proof.Machine

/-- `t` is `s` but for the Ledger, the host port, host memory with the watches on it, and LDG_LOST. -/
def RecSame (s t : State) : Prop :=
  ∃ l h m w r, t = { s with ldg := l, host := h, mem := { s.mem with host := m, watch := w }, regs := r } ∧
    ∀ a, a ≠ aLdgLost → smGet 0 r a = smGet 0 s.regs a

theorem RecSame.refl (s : State) : RecSame s s := ⟨s.ldg, s.host, s.mem.host, s.mem.watch, s.regs, rfl, fun _ _ => rfl⟩

theorem RecSame.trans {s t u : State} (h1 : RecSame s t) (h2 : RecSame t u) : RecSame s u := by
  obtain ⟨l, h, m, w, r, rfl, hr⟩ := h1
  obtain ⟨l', h', m', w', r', rfl, hr'⟩ := h2
  exact ⟨l', h', m', w', r', rfl, fun a ha => (hr' a ha).trans (hr a ha)⟩

theorem RecSame.host (s : State) (h : HostPort) : RecSame s { s with host := h } := ⟨s.ldg, h, s.mem.host, s.mem.watch, s.regs, rfl, fun _ _ => rfl⟩

theorem hostVector_same (s : State) (v : Nat) : RecSame s (hostVector s v) := by
  unfold hostVector; split
  · exact .refl s
  · exact .host s _

theorem hostPut_same (s : State) (n cid : Nat) (more : Bool) (st r0 r1 : Nat) : RecSame s (hostPut s n cid more st r0 r1) := by
  unfold hostPut
  refine RecSame.trans ?_ (hostVector_same _ n)
  exact ⟨s.ldg, _, _, _, s.regs, rfl, fun _ _ => rfl⟩

theorem hostEvent_same (s : State) (r : Rec) : RecSame s (hostEvent s r).1 := by
  unfold hostEvent
  split
  · split
    · exact RecSame.trans (hostPut_same s _ _ _ _ _ _) (.host _ _)
    · exact .host s _
  · exact .refl s

theorem hostEvents_same (rs : List Rec) (s : State) : RecSame s (hostEvents rs s).1 := by
  induction rs generalizing s with
  | nil => exact .refl s
  | cons r rs ih => simp only [hostEvents]; exact (hostEvent_same s r).trans (ih _)

theorem bumpLost_same (s : State) (n : Nat) : RecSame s (bump s aLdgLost n) := by
  unfold bump
  split
  · exact .refl s
  · exact ⟨s.ldg, s.host, s.mem.host, s.mem.watch, _, rfl, fun a ha => smGet_smSet_ne _ _ _ _ _ ha⟩

theorem RecSame.ldgHost (s : State) (l : Ledger) (h : HostPort) : RecSame s { s with ldg := l, host := h } :=
  ⟨l, h, s.mem.host, s.mem.watch, s.regs, rfl, fun _ _ => rfl⟩

theorem ldgPost_same (s : State) (l : Ledger) (rs : List Rec) : RecSame s (ldgPost s l rs) := by
  have h1 : RecSame s (hostEvents rs (bump { s with ldg := l } aLdgLost (l.lostSum - s.ldg.lostSum))).1 :=
    ((RecSame.ldgHost s l s.host).trans (bumpLost_same _ _)).trans (hostEvents_same rs _)
  unfold ldgPost
  simp only
  split
  · exact ((h1.trans (.ldgHost _ _ _)).trans (bumpLost_same _ _)).trans (hostEvents_same _ _)
  · exact h1

/-- Recording an event changes nothing but the Ledger and what reports it. -/
theorem record_same (s : State) (cls : Nat) (source code : Word16) (payload : Nat) : RecSame s (record s cls source code payload) :=
  ldgPost_same s _ _

theorem contained_same (s : State) (source code : Word16) (payload : Nat) : RecSame s (contained s source code payload) :=
  record_same s _ _ _ _

variable (s : State) (cls : Nat) (source code : Word16) (payload : Nat)

/-! ### The fields of a recorded state -/

@[simp] theorem record_pending : (record s cls source code payload).pending = s.pending := by
  obtain ⟨_, _, _, _, _, h, _⟩ := record_same s cls source code payload; rw [h]
@[simp] theorem record_free : (record s cls source code payload).free = s.free := by
  obtain ⟨_, _, _, _, _, h, _⟩ := record_same s cls source code payload; rw [h]
@[simp] theorem record_part832 : (record s cls source code payload).part832 = s.part832 := by
  obtain ⟨_, _, _, _, _, h, _⟩ := record_same s cls source code payload; rw [h]
@[simp] theorem record_repair : (record s cls source code payload).repair = s.repair := by
  obtain ⟨_, _, _, _, _, h, _⟩ := record_same s cls source code payload; rw [h]
@[simp] theorem record_cfg : (record s cls source code payload).cfg = s.cfg := by
  obtain ⟨_, _, _, _, _, h, _⟩ := record_same s cls source code payload; rw [h]
@[simp] theorem record_seq : (record s cls source code payload).seq = s.seq := by
  obtain ⟨_, _, _, _, _, h, _⟩ := record_same s cls source code payload; rw [h]
@[simp] theorem record_cores : (record s cls source code payload).cores = s.cores := by
  obtain ⟨_, _, _, _, _, h, _⟩ := record_same s cls source code payload; rw [h]
@[simp] theorem record_sync : (record s cls source code payload).sync = s.sync := by
  obtain ⟨_, _, _, _, _, h, _⟩ := record_same s cls source code payload; rw [h]
@[simp] theorem record_ce : (record s cls source code payload).ce = s.ce := by
  obtain ⟨_, _, _, _, _, h, _⟩ := record_same s cls source code payload; rw [h]
@[simp] theorem record_ceUid : (record s cls source code payload).ceUid = s.ceUid := by
  obtain ⟨_, _, _, _, _, h, _⟩ := record_same s cls source code payload; rw [h]
@[simp] theorem record_job : (record s cls source code payload).job = s.job := by
  obtain ⟨_, _, _, _, _, h, _⟩ := record_same s cls source code payload; rw [h]
@[simp] theorem record_fab : (record s cls source code payload).fab = s.fab := by
  obtain ⟨_, _, _, _, _, h, _⟩ := record_same s cls source code payload; rw [h]
@[simp] theorem record_tim : (record s cls source code payload).tim = s.tim := by
  obtain ⟨_, _, _, _, _, h, _⟩ := record_same s cls source code payload; rw [h]
@[simp] theorem record_dbg : (record s cls source code payload).dbg = s.dbg := by
  obtain ⟨_, _, _, _, _, h, _⟩ := record_same s cls source code payload; rw [h]
@[simp] theorem record_sec : (record s cls source code payload).sec = s.sec := by
  obtain ⟨_, _, _, _, _, h, _⟩ := record_same s cls source code payload; rw [h]
@[simp] theorem record_nor : (record s cls source code payload).nor = s.nor := by
  obtain ⟨_, _, _, _, _, h, _⟩ := record_same s cls source code payload; rw [h]
@[simp] theorem record_pwr : (record s cls source code payload).pwr = s.pwr := by
  obtain ⟨_, _, _, _, _, h, _⟩ := record_same s cls source code payload; rw [h]
@[simp] theorem record_pins : (record s cls source code payload).pins = s.pins := by
  obtain ⟨_, _, _, _, _, h, _⟩ := record_same s cls source code payload; rw [h]
@[simp] theorem record_reg (a : Nat) (h : a ≠ aLdgLost) : reg (record s cls source code payload) a = reg s a := by
  obtain ⟨_, _, _, _, _, h1, hr⟩ := record_same s cls source code payload; rw [h1]; exact hr a h
@[simp] theorem record_gddr : (record s cls source code payload).mem.gddr = s.mem.gddr := by
  obtain ⟨_, _, _, _, _, h1, _⟩ := record_same s cls source code payload; rw [h1]
@[simp] theorem record_cxl : (record s cls source code payload).mem.cxl = s.mem.cxl := by
  obtain ⟨_, _, _, _, _, h1, _⟩ := record_same s cls source code payload; rw [h1]

end Sys2Proof.Machine
end

