-- ==== Sys2Proof/Laws/Messages.lean ====
section
/-! SUPPORT. What sending a message, announcing a departure, leaving BLOCKED, entering a job state and completing a host command can
change: one lemma per operation that says everything, then one per field that stays. -/

namespace Sys2Proof.Machine

/-- `t` is `s` but for the Ledger, the host port, host memory with the watches on it, LDG_LOST, and the TC0 source queue with its sequence numbers. -/
def MsgSame (s t : State) : Prop :=
  ∃ l h m w r q n, t = { s with ldg := l, host := h, mem := { s.mem with host := m, watch := w }, regs := r, fab := { s.fab with tc0q := q, tc0Seq := n } } ∧
    ∀ a, a ≠ aLdgLost → smGet 0 r a = smGet 0 s.regs a

theorem MsgSame.refl (s : State) : MsgSame s s := ⟨s.ldg, s.host, s.mem.host, s.mem.watch, s.regs, s.fab.tc0q, s.fab.tc0Seq, rfl, fun _ _ => rfl⟩

theorem MsgSame.trans {s t u : State} (h1 : MsgSame s t) (h2 : MsgSame t u) : MsgSame s u := by
  obtain ⟨l, h, m, w, r, q, n, rfl, hr⟩ := h1
  obtain ⟨l', h', m', w', r', q', n', rfl, hr'⟩ := h2
  exact ⟨l', h', m', w', r', q', n', rfl, fun a ha => (hr' a ha).trans (hr a ha)⟩

theorem RecSame.msg {s t : State} (h : RecSame s t) : MsgSame s t := by
  obtain ⟨l, h, m, w, r, rfl, hr⟩ := h
  exact ⟨l, h, m, w, r, s.fab.tc0q, s.fab.tc0Seq, rfl, hr⟩

/-- Sending a TC0 message puts it into the source queue under the next number of its pair, or records TC0_FORM (R342, R343). -/
theorem tc0Send_same (s : State) (k : Nat) (d : BitVec 14) (tag : Word32) (b : List Byte) : MsgSame s (tc0Send s k d tag b) := by
  unfold tc0Send tc0SendOn
  split
  · exact (record_same s _ _ _ _).msg
  · exact ⟨s.ldg, s.host, s.mem.host, s.mem.watch, s.regs, _, _, rfl, fun _ _ => rfl⟩

theorem tc0SendAll_same (k : Nat) (b : List Byte) (ds : List (BitVec 14)) : ∀ s, MsgSame s (tc0SendAll k b ds s) := by
  induction ds with
  | nil => exact fun s => .refl s
  | cons d ds ih => exact fun s => (tc0Send_same s k d _ b).trans (ih _)

/-- A message placed in the source queue stands in it. -/
theorem mem_tc0Place (m : Tc0) (q : List Tc0) : m ∈ tc0Place m q := by
  induction q with
  | nil => simp [tc0Place]
  | cons x xs ih => unfold tc0Place; split <;> simp [ih]

theorem mem_tc0Place_of_mem (m x : Tc0) (q : List Tc0) (h : x ∈ q) : x ∈ tc0Place m q := by
  induction q with
  | nil => cases h
  | cons y ys ih =>
    unfold tc0Place
    split
    · exact List.mem_cons_of_mem _ h
    · rcases List.mem_cons.1 h with rfl | h
      · simp
      · exact List.mem_cons_of_mem _ (ih h)

/-- A body of at most 64 bytes goes into the source queue (R342). -/
theorem tc0Send_mem (s : State) (k : Nat) (d : BitVec 14) (tag : Word32) (b : List Byte) (h : b.length ≤ 64) :
    (⟨BitVec.ofNat 4 k, d, devId s, smGet 0 s.fab.tc0Seq d.toNat, tag, b, false, 0, 63⟩ : Tc0) ∈ (tc0Send s k d tag b).fab.tc0q := by
  unfold tc0Send tc0SendOn
  rw [if_neg (by omega)]
  exact mem_tc0Place _ _

/-- Announcing a departure notes the pair as relayed and sends the notice down the tree (R443, R448). -/
theorem noticeSend_same (s : State) (g : BitVec 14) (cause : Nat) (code : Word16) :
    ∃ r, MsgSame { s with job := { s.job with relayed := r } } (noticeSend s g cause code) := by
  unfold noticeSend
  simp only
  split
  · exact ⟨s.job.relayed, .refl s⟩
  · exact ⟨_, tc0SendAll_same _ _ _ _⟩

/-- Leaving BLOCKED changes the detector and the reports that the lead holds, records and sends (R240). -/
theorem detWithdraw_same (s : State) :
    ∃ r, MsgSame { s with sync := { s.sync with det := .watch, reports := r } } (detWithdraw s) := by
  have h0 := record_same s kEvent srcSeq cBlockWithdrawn (now s - s.sync.blockedAt)
  obtain ⟨l, h, m, w, r, e, hr⟩ := h0
  unfold detWithdraw
  simp only [e]
  split
  · exact ⟨s.sync.reports, l, h, m, w, r, s.fab.tc0q, s.fab.tc0Seq, rfl, hr⟩
  · split
    · exact ⟨_, l, h, m, w, r, s.fab.tc0q, s.fab.tc0Seq, rfl, hr⟩
    · refine ⟨s.sync.reports, MsgSame.trans ?_ (tc0Send_same _ _ _ _ _)⟩
      exact ⟨l, h, m, w, r, s.fab.tc0q, s.fab.tc0Seq, rfl, hr⟩

theorem detLeave_same (s : State) :
    ∃ d r, MsgSame { s with sync := { s.sync with det := d, reports := r } } (detLeave s) := by
  unfold detLeave
  split
  · exact ⟨_, _, .refl _⟩
  · exact ⟨_, detWithdraw_same s⟩
  · exact ⟨s.sync.det, s.sync.reports, .refl s⟩

/-- Completing a host command changes the host port and its memory, with the watches on it, only. -/
def HostSame (s t : State) : Prop := ∃ h m w, t = { s with host := h, mem := { s.mem with host := m, watch := w } }

theorem HostSame.refl (s : State) : HostSame s s := ⟨s.host, s.mem.host, s.mem.watch, rfl⟩
theorem HostSame.trans {s t u : State} (h1 : HostSame s t) (h2 : HostSame t u) : HostSame s u := by
  obtain ⟨h, m, w, rfl⟩ := h1
  obtain ⟨h', m', w', rfl⟩ := h2
  exact ⟨h', m', w', rfl⟩

theorem hostPut_hostSame (s : State) (n cid : Nat) (more : Bool) (st r0 r1 : Nat) : HostSame s (hostPut s n cid more st r0 r1) := by
  unfold hostPut hostVector
  simp only
  split <;> exact ⟨_, _, _, rfl⟩

theorem hostPost_same (s : State) (n cid : Nat) (more : Bool) (st r0 r1 : Nat) : HostSame s (hostPost s n cid more st r0 r1) := by
  unfold hostPost
  split
  · exact .refl s
  · split
    · exact hostPut_hostSame s n cid more st r0 r1
    · exact ⟨_, s.mem.host, s.mem.watch, rfl⟩

theorem hostDone_same (s : State) (q cid st r0 r1 : Nat) : HostSame s (hostDone s q cid st r0 r1) := by
  unfold hostDone
  exact HostSame.trans ⟨_, s.mem.host, s.mem.watch, rfl⟩ (hostPost_same _ _ _ _ _ _ _)

theorem hostDoneAll_same (s : State) (op st r0 r1 : Nat) : HostSame s (hostDoneAll s op st r0 r1) := by
  unfold hostDoneAll
  generalize s.host.cmds.filter (fun c => c.op == op) = l
  induction l generalizing s with
  | nil => exact .refl s
  | cons c l ih => exact (hostDone_same s _ _ _ _ _).trans (ih _)

theorem hostDrain_same (l : List HostPost) : ∀ s, HostSame s (hostDrain l s) := by
  induction l with
  | nil => exact fun s => .refl s
  | cons c l ih => exact fun s => (hostPost_same s _ _ _ _ _ _).trans (ih _)

theorem hostRetry_same (s : State) : HostSame s (hostRetry s) :=
  HostSame.trans ⟨_, s.mem.host, s.mem.watch, rfl⟩ (hostDrain_same _ _)

/-- Entering a job state changes the state and records it (R560). -/
theorem jobTo_same (s : State) (j : JobSt) : RecSame { s with job := { s.job with st := j } } (jobTo s j) := by
  unfold jobTo
  split
  · rename_i h; subst h; exact .refl s
  · exact record_same _ _ _ _ _

@[simp] theorem jobTo_job (s : State) (j : JobSt) : (jobTo s j).job = { s.job with st := j } := by
  obtain ⟨l, h, m, w, r, e, _⟩ := jobTo_same s j; rw [e]


/-! ### A message sent -/

@[simp] theorem tc0Send_pending (s : State) (k : Nat) (d : BitVec 14) (tag : Word32) (b : List Byte) : (tc0Send s k d tag b).pending = s.pending := by
  obtain ⟨_, _, _, _, _, _, _, e, hr⟩ := tc0Send_same s k d tag b; rw [e]
@[simp] theorem tc0Send_free (s : State) (k : Nat) (d : BitVec 14) (tag : Word32) (b : List Byte) : (tc0Send s k d tag b).free = s.free := by
  obtain ⟨_, _, _, _, _, _, _, e, hr⟩ := tc0Send_same s k d tag b; rw [e]
@[simp] theorem tc0Send_part832 (s : State) (k : Nat) (d : BitVec 14) (tag : Word32) (b : List Byte) : (tc0Send s k d tag b).part832 = s.part832 := by
  obtain ⟨_, _, _, _, _, _, _, e, hr⟩ := tc0Send_same s k d tag b; rw [e]
@[simp] theorem tc0Send_repair (s : State) (k : Nat) (d : BitVec 14) (tag : Word32) (b : List Byte) : (tc0Send s k d tag b).repair = s.repair := by
  obtain ⟨_, _, _, _, _, _, _, e, hr⟩ := tc0Send_same s k d tag b; rw [e]
@[simp] theorem tc0Send_cfg (s : State) (k : Nat) (d : BitVec 14) (tag : Word32) (b : List Byte) : (tc0Send s k d tag b).cfg = s.cfg := by
  obtain ⟨_, _, _, _, _, _, _, e, hr⟩ := tc0Send_same s k d tag b; rw [e]
@[simp] theorem tc0Send_seq (s : State) (k : Nat) (d : BitVec 14) (tag : Word32) (b : List Byte) : (tc0Send s k d tag b).seq = s.seq := by
  obtain ⟨_, _, _, _, _, _, _, e, hr⟩ := tc0Send_same s k d tag b; rw [e]
@[simp] theorem tc0Send_cores (s : State) (k : Nat) (d : BitVec 14) (tag : Word32) (b : List Byte) : (tc0Send s k d tag b).cores = s.cores := by
  obtain ⟨_, _, _, _, _, _, _, e, hr⟩ := tc0Send_same s k d tag b; rw [e]
@[simp] theorem tc0Send_sync (s : State) (k : Nat) (d : BitVec 14) (tag : Word32) (b : List Byte) : (tc0Send s k d tag b).sync = s.sync := by
  obtain ⟨_, _, _, _, _, _, _, e, hr⟩ := tc0Send_same s k d tag b; rw [e]
@[simp] theorem tc0Send_ce (s : State) (k : Nat) (d : BitVec 14) (tag : Word32) (b : List Byte) : (tc0Send s k d tag b).ce = s.ce := by
  obtain ⟨_, _, _, _, _, _, _, e, hr⟩ := tc0Send_same s k d tag b; rw [e]
@[simp] theorem tc0Send_ceUid (s : State) (k : Nat) (d : BitVec 14) (tag : Word32) (b : List Byte) : (tc0Send s k d tag b).ceUid = s.ceUid := by
  obtain ⟨_, _, _, _, _, _, _, e, hr⟩ := tc0Send_same s k d tag b; rw [e]
@[simp] theorem tc0Send_job (s : State) (k : Nat) (d : BitVec 14) (tag : Word32) (b : List Byte) : (tc0Send s k d tag b).job = s.job := by
  obtain ⟨_, _, _, _, _, _, _, e, hr⟩ := tc0Send_same s k d tag b; rw [e]
@[simp] theorem tc0Send_tim (s : State) (k : Nat) (d : BitVec 14) (tag : Word32) (b : List Byte) : (tc0Send s k d tag b).tim = s.tim := by
  obtain ⟨_, _, _, _, _, _, _, e, hr⟩ := tc0Send_same s k d tag b; rw [e]
@[simp] theorem tc0Send_dbg (s : State) (k : Nat) (d : BitVec 14) (tag : Word32) (b : List Byte) : (tc0Send s k d tag b).dbg = s.dbg := by
  obtain ⟨_, _, _, _, _, _, _, e, hr⟩ := tc0Send_same s k d tag b; rw [e]
@[simp] theorem tc0Send_sec (s : State) (k : Nat) (d : BitVec 14) (tag : Word32) (b : List Byte) : (tc0Send s k d tag b).sec = s.sec := by
  obtain ⟨_, _, _, _, _, _, _, e, hr⟩ := tc0Send_same s k d tag b; rw [e]
@[simp] theorem tc0Send_nor (s : State) (k : Nat) (d : BitVec 14) (tag : Word32) (b : List Byte) : (tc0Send s k d tag b).nor = s.nor := by
  obtain ⟨_, _, _, _, _, _, _, e, hr⟩ := tc0Send_same s k d tag b; rw [e]
@[simp] theorem tc0Send_pwr (s : State) (k : Nat) (d : BitVec 14) (tag : Word32) (b : List Byte) : (tc0Send s k d tag b).pwr = s.pwr := by
  obtain ⟨_, _, _, _, _, _, _, e, hr⟩ := tc0Send_same s k d tag b; rw [e]
@[simp] theorem tc0Send_pins (s : State) (k : Nat) (d : BitVec 14) (tag : Word32) (b : List Byte) : (tc0Send s k d tag b).pins = s.pins := by
  obtain ⟨_, _, _, _, _, _, _, e, hr⟩ := tc0Send_same s k d tag b; rw [e]
@[simp] theorem tc0Send_fab_tc0Rx (s : State) (k : Nat) (d : BitVec 14) (tag : Word32) (b : List Byte) : (tc0Send s k d tag b).fab.tc0Rx = s.fab.tc0Rx := by
  obtain ⟨_, _, _, _, _, _, _, e, hr⟩ := tc0Send_same s k d tag b; rw [e]
@[simp] theorem tc0Send_fab_tc0Held (s : State) (k : Nat) (d : BitVec 14) (tag : Word32) (b : List Byte) : (tc0Send s k d tag b).fab.tc0Held = s.fab.tc0Held := by
  obtain ⟨_, _, _, _, _, _, _, e, hr⟩ := tc0Send_same s k d tag b; rw [e]
@[simp] theorem tc0Send_fab_links (s : State) (k : Nat) (d : BitVec 14) (tag : Word32) (b : List Byte) : (tc0Send s k d tag b).fab.links = s.fab.links := by
  obtain ⟨_, _, _, _, _, _, _, e, hr⟩ := tc0Send_same s k d tag b; rw [e]
@[simp] theorem tc0Send_fab_tx (s : State) (k : Nat) (d : BitVec 14) (tag : Word32) (b : List Byte) : (tc0Send s k d tag b).fab.tx = s.fab.tx := by
  obtain ⟨_, _, _, _, _, _, _, e, hr⟩ := tc0Send_same s k d tag b; rw [e]
@[simp] theorem tc0Send_fab_rx (s : State) (k : Nat) (d : BitVec 14) (tag : Word32) (b : List Byte) : (tc0Send s k d tag b).fab.rx = s.fab.rx := by
  obtain ⟨_, _, _, _, _, _, _, e, hr⟩ := tc0Send_same s k d tag b; rw [e]
@[simp] theorem tc0Send_fab_rsp (s : State) (k : Nat) (d : BitVec 14) (tag : Word32) (b : List Byte) : (tc0Send s k d tag b).fab.rsp = s.fab.rsp := by
  obtain ⟨_, _, _, _, _, _, _, e, hr⟩ := tc0Send_same s k d tag b; rw [e]
@[simp] theorem tc0Send_fab_reads (s : State) (k : Nat) (d : BitVec 14) (tag : Word32) (b : List Byte) : (tc0Send s k d tag b).fab.reads = s.fab.reads := by
  obtain ⟨_, _, _, _, _, _, _, e, hr⟩ := tc0Send_same s k d tag b; rw [e]
@[simp] theorem tc0Send_mem_gddr (s : State) (k : Nat) (d : BitVec 14) (tag : Word32) (b : List Byte) : (tc0Send s k d tag b).mem.gddr = s.mem.gddr := by
  obtain ⟨_, _, _, _, _, _, _, e, hr⟩ := tc0Send_same s k d tag b; rw [e]
@[simp] theorem tc0Send_mem_cxl (s : State) (k : Nat) (d : BitVec 14) (tag : Word32) (b : List Byte) : (tc0Send s k d tag b).mem.cxl = s.mem.cxl := by
  obtain ⟨_, _, _, _, _, _, _, e, hr⟩ := tc0Send_same s k d tag b; rw [e]
@[simp] theorem tc0Send_reg (s : State) (k : Nat) (d : BitVec 14) (tag : Word32) (b : List Byte) (a : Nat) (h : a ≠ aLdgLost) : reg (tc0Send s k d tag b) a = reg s a := by
  obtain ⟨_, _, _, _, _, _, _, e, hr⟩ := tc0Send_same s k d tag b; rw [e]; exact hr a h
@[simp] theorem tc0Send_getCore (s : State) (k : Nat) (d : BitVec 14) (tag : Word32) (b : List Byte) (i : Nat) : getCore (tc0Send s k d tag b) i = getCore s i := by
  unfold getCore; simp

/-! ### Messages to several members -/

@[simp] theorem tc0SendAll_pending (s : State) (k : Nat) (b : List Byte) (ds : List (BitVec 14)) : (tc0SendAll k b ds s).pending = s.pending := by
  obtain ⟨_, _, _, _, _, _, _, e, hr⟩ := tc0SendAll_same k b ds s; rw [e]
@[simp] theorem tc0SendAll_free (s : State) (k : Nat) (b : List Byte) (ds : List (BitVec 14)) : (tc0SendAll k b ds s).free = s.free := by
  obtain ⟨_, _, _, _, _, _, _, e, hr⟩ := tc0SendAll_same k b ds s; rw [e]
@[simp] theorem tc0SendAll_part832 (s : State) (k : Nat) (b : List Byte) (ds : List (BitVec 14)) : (tc0SendAll k b ds s).part832 = s.part832 := by
  obtain ⟨_, _, _, _, _, _, _, e, hr⟩ := tc0SendAll_same k b ds s; rw [e]
@[simp] theorem tc0SendAll_repair (s : State) (k : Nat) (b : List Byte) (ds : List (BitVec 14)) : (tc0SendAll k b ds s).repair = s.repair := by
  obtain ⟨_, _, _, _, _, _, _, e, hr⟩ := tc0SendAll_same k b ds s; rw [e]
@[simp] theorem tc0SendAll_cfg (s : State) (k : Nat) (b : List Byte) (ds : List (BitVec 14)) : (tc0SendAll k b ds s).cfg = s.cfg := by
  obtain ⟨_, _, _, _, _, _, _, e, hr⟩ := tc0SendAll_same k b ds s; rw [e]
@[simp] theorem tc0SendAll_seq (s : State) (k : Nat) (b : List Byte) (ds : List (BitVec 14)) : (tc0SendAll k b ds s).seq = s.seq := by
  obtain ⟨_, _, _, _, _, _, _, e, hr⟩ := tc0SendAll_same k b ds s; rw [e]
@[simp] theorem tc0SendAll_cores (s : State) (k : Nat) (b : List Byte) (ds : List (BitVec 14)) : (tc0SendAll k b ds s).cores = s.cores := by
  obtain ⟨_, _, _, _, _, _, _, e, hr⟩ := tc0SendAll_same k b ds s; rw [e]
@[simp] theorem tc0SendAll_sync (s : State) (k : Nat) (b : List Byte) (ds : List (BitVec 14)) : (tc0SendAll k b ds s).sync = s.sync := by
  obtain ⟨_, _, _, _, _, _, _, e, hr⟩ := tc0SendAll_same k b ds s; rw [e]
@[simp] theorem tc0SendAll_ce (s : State) (k : Nat) (b : List Byte) (ds : List (BitVec 14)) : (tc0SendAll k b ds s).ce = s.ce := by
  obtain ⟨_, _, _, _, _, _, _, e, hr⟩ := tc0SendAll_same k b ds s; rw [e]
@[simp] theorem tc0SendAll_ceUid (s : State) (k : Nat) (b : List Byte) (ds : List (BitVec 14)) : (tc0SendAll k b ds s).ceUid = s.ceUid := by
  obtain ⟨_, _, _, _, _, _, _, e, hr⟩ := tc0SendAll_same k b ds s; rw [e]
@[simp] theorem tc0SendAll_job (s : State) (k : Nat) (b : List Byte) (ds : List (BitVec 14)) : (tc0SendAll k b ds s).job = s.job := by
  obtain ⟨_, _, _, _, _, _, _, e, hr⟩ := tc0SendAll_same k b ds s; rw [e]
@[simp] theorem tc0SendAll_tim (s : State) (k : Nat) (b : List Byte) (ds : List (BitVec 14)) : (tc0SendAll k b ds s).tim = s.tim := by
  obtain ⟨_, _, _, _, _, _, _, e, hr⟩ := tc0SendAll_same k b ds s; rw [e]
@[simp] theorem tc0SendAll_dbg (s : State) (k : Nat) (b : List Byte) (ds : List (BitVec 14)) : (tc0SendAll k b ds s).dbg = s.dbg := by
  obtain ⟨_, _, _, _, _, _, _, e, hr⟩ := tc0SendAll_same k b ds s; rw [e]
@[simp] theorem tc0SendAll_sec (s : State) (k : Nat) (b : List Byte) (ds : List (BitVec 14)) : (tc0SendAll k b ds s).sec = s.sec := by
  obtain ⟨_, _, _, _, _, _, _, e, hr⟩ := tc0SendAll_same k b ds s; rw [e]
@[simp] theorem tc0SendAll_nor (s : State) (k : Nat) (b : List Byte) (ds : List (BitVec 14)) : (tc0SendAll k b ds s).nor = s.nor := by
  obtain ⟨_, _, _, _, _, _, _, e, hr⟩ := tc0SendAll_same k b ds s; rw [e]
@[simp] theorem tc0SendAll_pwr (s : State) (k : Nat) (b : List Byte) (ds : List (BitVec 14)) : (tc0SendAll k b ds s).pwr = s.pwr := by
  obtain ⟨_, _, _, _, _, _, _, e, hr⟩ := tc0SendAll_same k b ds s; rw [e]
@[simp] theorem tc0SendAll_pins (s : State) (k : Nat) (b : List Byte) (ds : List (BitVec 14)) : (tc0SendAll k b ds s).pins = s.pins := by
  obtain ⟨_, _, _, _, _, _, _, e, hr⟩ := tc0SendAll_same k b ds s; rw [e]
@[simp] theorem tc0SendAll_fab_tc0Rx (s : State) (k : Nat) (b : List Byte) (ds : List (BitVec 14)) : (tc0SendAll k b ds s).fab.tc0Rx = s.fab.tc0Rx := by
  obtain ⟨_, _, _, _, _, _, _, e, hr⟩ := tc0SendAll_same k b ds s; rw [e]
@[simp] theorem tc0SendAll_fab_tc0Held (s : State) (k : Nat) (b : List Byte) (ds : List (BitVec 14)) : (tc0SendAll k b ds s).fab.tc0Held = s.fab.tc0Held := by
  obtain ⟨_, _, _, _, _, _, _, e, hr⟩ := tc0SendAll_same k b ds s; rw [e]
@[simp] theorem tc0SendAll_fab_links (s : State) (k : Nat) (b : List Byte) (ds : List (BitVec 14)) : (tc0SendAll k b ds s).fab.links = s.fab.links := by
  obtain ⟨_, _, _, _, _, _, _, e, hr⟩ := tc0SendAll_same k b ds s; rw [e]
@[simp] theorem tc0SendAll_fab_tx (s : State) (k : Nat) (b : List Byte) (ds : List (BitVec 14)) : (tc0SendAll k b ds s).fab.tx = s.fab.tx := by
  obtain ⟨_, _, _, _, _, _, _, e, hr⟩ := tc0SendAll_same k b ds s; rw [e]
@[simp] theorem tc0SendAll_fab_rx (s : State) (k : Nat) (b : List Byte) (ds : List (BitVec 14)) : (tc0SendAll k b ds s).fab.rx = s.fab.rx := by
  obtain ⟨_, _, _, _, _, _, _, e, hr⟩ := tc0SendAll_same k b ds s; rw [e]
@[simp] theorem tc0SendAll_fab_rsp (s : State) (k : Nat) (b : List Byte) (ds : List (BitVec 14)) : (tc0SendAll k b ds s).fab.rsp = s.fab.rsp := by
  obtain ⟨_, _, _, _, _, _, _, e, hr⟩ := tc0SendAll_same k b ds s; rw [e]
@[simp] theorem tc0SendAll_fab_reads (s : State) (k : Nat) (b : List Byte) (ds : List (BitVec 14)) : (tc0SendAll k b ds s).fab.reads = s.fab.reads := by
  obtain ⟨_, _, _, _, _, _, _, e, hr⟩ := tc0SendAll_same k b ds s; rw [e]
@[simp] theorem tc0SendAll_mem_gddr (s : State) (k : Nat) (b : List Byte) (ds : List (BitVec 14)) : (tc0SendAll k b ds s).mem.gddr = s.mem.gddr := by
  obtain ⟨_, _, _, _, _, _, _, e, hr⟩ := tc0SendAll_same k b ds s; rw [e]
@[simp] theorem tc0SendAll_mem_cxl (s : State) (k : Nat) (b : List Byte) (ds : List (BitVec 14)) : (tc0SendAll k b ds s).mem.cxl = s.mem.cxl := by
  obtain ⟨_, _, _, _, _, _, _, e, hr⟩ := tc0SendAll_same k b ds s; rw [e]
@[simp] theorem tc0SendAll_reg (s : State) (k : Nat) (b : List Byte) (ds : List (BitVec 14)) (a : Nat) (h : a ≠ aLdgLost) : reg (tc0SendAll k b ds s) a = reg s a := by
  obtain ⟨_, _, _, _, _, _, _, e, hr⟩ := tc0SendAll_same k b ds s; rw [e]; exact hr a h
@[simp] theorem tc0SendAll_getCore (s : State) (k : Nat) (b : List Byte) (ds : List (BitVec 14)) (i : Nat) : getCore (tc0SendAll k b ds s) i = getCore s i := by
  unfold getCore; simp

/-! ### A departure announced -/

@[simp] theorem noticeSend_pending (s : State) (g : BitVec 14) (cause : Nat) (code : Word16) : (noticeSend s g cause code).pending = s.pending := by
  obtain ⟨_, _, _, _, _, _, _, _, e, hr⟩ := noticeSend_same s g cause code; rw [e]
@[simp] theorem noticeSend_free (s : State) (g : BitVec 14) (cause : Nat) (code : Word16) : (noticeSend s g cause code).free = s.free := by
  obtain ⟨_, _, _, _, _, _, _, _, e, hr⟩ := noticeSend_same s g cause code; rw [e]
@[simp] theorem noticeSend_part832 (s : State) (g : BitVec 14) (cause : Nat) (code : Word16) : (noticeSend s g cause code).part832 = s.part832 := by
  obtain ⟨_, _, _, _, _, _, _, _, e, hr⟩ := noticeSend_same s g cause code; rw [e]
@[simp] theorem noticeSend_repair (s : State) (g : BitVec 14) (cause : Nat) (code : Word16) : (noticeSend s g cause code).repair = s.repair := by
  obtain ⟨_, _, _, _, _, _, _, _, e, hr⟩ := noticeSend_same s g cause code; rw [e]
@[simp] theorem noticeSend_cfg (s : State) (g : BitVec 14) (cause : Nat) (code : Word16) : (noticeSend s g cause code).cfg = s.cfg := by
  obtain ⟨_, _, _, _, _, _, _, _, e, hr⟩ := noticeSend_same s g cause code; rw [e]
@[simp] theorem noticeSend_seq (s : State) (g : BitVec 14) (cause : Nat) (code : Word16) : (noticeSend s g cause code).seq = s.seq := by
  obtain ⟨_, _, _, _, _, _, _, _, e, hr⟩ := noticeSend_same s g cause code; rw [e]
@[simp] theorem noticeSend_cores (s : State) (g : BitVec 14) (cause : Nat) (code : Word16) : (noticeSend s g cause code).cores = s.cores := by
  obtain ⟨_, _, _, _, _, _, _, _, e, hr⟩ := noticeSend_same s g cause code; rw [e]
@[simp] theorem noticeSend_sync (s : State) (g : BitVec 14) (cause : Nat) (code : Word16) : (noticeSend s g cause code).sync = s.sync := by
  obtain ⟨_, _, _, _, _, _, _, _, e, hr⟩ := noticeSend_same s g cause code; rw [e]
@[simp] theorem noticeSend_ce (s : State) (g : BitVec 14) (cause : Nat) (code : Word16) : (noticeSend s g cause code).ce = s.ce := by
  obtain ⟨_, _, _, _, _, _, _, _, e, hr⟩ := noticeSend_same s g cause code; rw [e]
@[simp] theorem noticeSend_ceUid (s : State) (g : BitVec 14) (cause : Nat) (code : Word16) : (noticeSend s g cause code).ceUid = s.ceUid := by
  obtain ⟨_, _, _, _, _, _, _, _, e, hr⟩ := noticeSend_same s g cause code; rw [e]
@[simp] theorem noticeSend_tim (s : State) (g : BitVec 14) (cause : Nat) (code : Word16) : (noticeSend s g cause code).tim = s.tim := by
  obtain ⟨_, _, _, _, _, _, _, _, e, hr⟩ := noticeSend_same s g cause code; rw [e]
@[simp] theorem noticeSend_dbg (s : State) (g : BitVec 14) (cause : Nat) (code : Word16) : (noticeSend s g cause code).dbg = s.dbg := by
  obtain ⟨_, _, _, _, _, _, _, _, e, hr⟩ := noticeSend_same s g cause code; rw [e]
@[simp] theorem noticeSend_sec (s : State) (g : BitVec 14) (cause : Nat) (code : Word16) : (noticeSend s g cause code).sec = s.sec := by
  obtain ⟨_, _, _, _, _, _, _, _, e, hr⟩ := noticeSend_same s g cause code; rw [e]
@[simp] theorem noticeSend_nor (s : State) (g : BitVec 14) (cause : Nat) (code : Word16) : (noticeSend s g cause code).nor = s.nor := by
  obtain ⟨_, _, _, _, _, _, _, _, e, hr⟩ := noticeSend_same s g cause code; rw [e]
@[simp] theorem noticeSend_pwr (s : State) (g : BitVec 14) (cause : Nat) (code : Word16) : (noticeSend s g cause code).pwr = s.pwr := by
  obtain ⟨_, _, _, _, _, _, _, _, e, hr⟩ := noticeSend_same s g cause code; rw [e]
@[simp] theorem noticeSend_pins (s : State) (g : BitVec 14) (cause : Nat) (code : Word16) : (noticeSend s g cause code).pins = s.pins := by
  obtain ⟨_, _, _, _, _, _, _, _, e, hr⟩ := noticeSend_same s g cause code; rw [e]
@[simp] theorem noticeSend_job_st (s : State) (g : BitVec 14) (cause : Nat) (code : Word16) : (noticeSend s g cause code).job.st = s.job.st := by
  obtain ⟨_, _, _, _, _, _, _, _, e, hr⟩ := noticeSend_same s g cause code; rw [e]
@[simp] theorem noticeSend_job_id (s : State) (g : BitVec 14) (cause : Nat) (code : Word16) : (noticeSend s g cause code).job.id = s.job.id := by
  obtain ⟨_, _, _, _, _, _, _, _, e, hr⟩ := noticeSend_same s g cause code; rw [e]
@[simp] theorem noticeSend_job_tag (s : State) (g : BitVec 14) (cause : Nat) (code : Word16) : (noticeSend s g cause code).job.tag = s.job.tag := by
  obtain ⟨_, _, _, _, _, _, _, _, e, hr⟩ := noticeSend_same s g cause code; rw [e]
@[simp] theorem noticeSend_job_members (s : State) (g : BitVec 14) (cause : Nat) (code : Word16) : (noticeSend s g cause code).job.members = s.job.members := by
  obtain ⟨_, _, _, _, _, _, _, _, e, hr⟩ := noticeSend_same s g cause code; rw [e]
@[simp] theorem noticeSend_job_gone (s : State) (g : BitVec 14) (cause : Nat) (code : Word16) : (noticeSend s g cause code).job.gone = s.job.gone := by
  obtain ⟨_, _, _, _, _, _, _, _, e, hr⟩ := noticeSend_same s g cause code; rw [e]
@[simp] theorem noticeSend_job_leads (s : State) (g : BitVec 14) (cause : Nat) (code : Word16) : (noticeSend s g cause code).job.leads = s.job.leads := by
  obtain ⟨_, _, _, _, _, _, _, _, e, hr⟩ := noticeSend_same s g cause code; rw [e]
@[simp] theorem noticeSend_job_lead (s : State) (g : BitVec 14) (cause : Nat) (code : Word16) : (noticeSend s g cause code).job.lead = s.job.lead := by
  obtain ⟨_, _, _, _, _, _, _, _, e, hr⟩ := noticeSend_same s g cause code; rw [e]
@[simp] theorem noticeSend_job_fatal (s : State) (g : BitVec 14) (cause : Nat) (code : Word16) : (noticeSend s g cause code).job.fatal = s.job.fatal := by
  obtain ⟨_, _, _, _, _, _, _, _, e, hr⟩ := noticeSend_same s g cause code; rw [e]
@[simp] theorem noticeSend_job_device (s : State) (g : BitVec 14) (cause : Nat) (code : Word16) : (noticeSend s g cause code).job.device = s.job.device := by
  obtain ⟨_, _, _, _, _, _, _, _, e, hr⟩ := noticeSend_same s g cause code; rw [e]
@[simp] theorem noticeSend_job_order4 (s : State) (g : BitVec 14) (cause : Nat) (code : Word16) : (noticeSend s g cause code).job.order4 = s.job.order4 := by
  obtain ⟨_, _, _, _, _, _, _, _, e, hr⟩ := noticeSend_same s g cause code; rw [e]
@[simp] theorem noticeSend_job_left (s : State) (g : BitVec 14) (cause : Nat) (code : Word16) : (noticeSend s g cause code).job.left = s.job.left := by
  obtain ⟨_, _, _, _, _, _, _, _, e, hr⟩ := noticeSend_same s g cause code; rw [e]
@[simp] theorem noticeSend_job_sect (s : State) (g : BitVec 14) (cause : Nat) (code : Word16) : (noticeSend s g cause code).job.sect = s.job.sect := by
  obtain ⟨_, _, _, _, _, _, _, _, e, hr⟩ := noticeSend_same s g cause code; rw [e]
@[simp] theorem noticeSend_job_hold (s : State) (g : BitVec 14) (cause : Nat) (code : Word16) : (noticeSend s g cause code).job.hold = s.job.hold := by
  obtain ⟨_, _, _, _, _, _, _, _, e, hr⟩ := noticeSend_same s g cause code; rw [e]
@[simp] theorem noticeSend_job_quiesce (s : State) (g : BitVec 14) (cause : Nat) (code : Word16) : (noticeSend s g cause code).job.quiesce = s.job.quiesce := by
  obtain ⟨_, _, _, _, _, _, _, _, e, hr⟩ := noticeSend_same s g cause code; rw [e]
@[simp] theorem noticeSend_job_measure (s : State) (g : BitVec 14) (cause : Nat) (code : Word16) : (noticeSend s g cause code).job.measure = s.job.measure := by
  obtain ⟨_, _, _, _, _, _, _, _, e, hr⟩ := noticeSend_same s g cause code; rw [e]
@[simp] theorem noticeSend_job_image (s : State) (g : BitVec 14) (cause : Nat) (code : Word16) : (noticeSend s g cause code).job.image = s.job.image := by
  obtain ⟨_, _, _, _, _, _, _, _, e, hr⟩ := noticeSend_same s g cause code; rw [e]
@[simp] theorem noticeSend_job_saved (s : State) (g : BitVec 14) (cause : Nat) (code : Word16) : (noticeSend s g cause code).job.saved = s.job.saved := by
  obtain ⟨_, _, _, _, _, _, _, _, e, hr⟩ := noticeSend_same s g cause code; rw [e]
@[simp] theorem noticeSend_job_wiped (s : State) (g : BitVec 14) (cause : Nat) (code : Word16) : (noticeSend s g cause code).job.wiped = s.job.wiped := by
  obtain ⟨_, _, _, _, _, _, _, _, e, hr⟩ := noticeSend_same s g cause code; rw [e]
@[simp] theorem noticeSend_job_restoredHere (s : State) (g : BitVec 14) (cause : Nat) (code : Word16) : (noticeSend s g cause code).job.restoredHere = s.job.restoredHere := by
  obtain ⟨_, _, _, _, _, _, _, _, e, hr⟩ := noticeSend_same s g cause code; rw [e]
@[simp] theorem noticeSend_job_ward (s : State) (g : BitVec 14) (cause : Nat) (code : Word16) : (noticeSend s g cause code).job.ward = s.job.ward := by
  obtain ⟨_, _, _, _, _, _, _, _, e, hr⟩ := noticeSend_same s g cause code; rw [e]
@[simp] theorem noticeSend_job_wardAt (s : State) (g : BitVec 14) (cause : Nat) (code : Word16) : (noticeSend s g cause code).job.wardAt = s.job.wardAt := by
  obtain ⟨_, _, _, _, _, _, _, _, e, hr⟩ := noticeSend_same s g cause code; rw [e]
@[simp] theorem noticeSend_job_view (s : State) (g : BitVec 14) (cause : Nat) (code : Word16) : (noticeSend s g cause code).job.view = s.job.view := by
  obtain ⟨_, _, _, _, _, _, _, _, e, hr⟩ := noticeSend_same s g cause code; rw [e]
@[simp] theorem noticeSend_job_notices (s : State) (g : BitVec 14) (cause : Nat) (code : Word16) : (noticeSend s g cause code).job.notices = s.job.notices := by
  obtain ⟨_, _, _, _, _, _, _, _, e, hr⟩ := noticeSend_same s g cause code; rw [e]
@[simp] theorem noticeSend_job_viewAt (s : State) (g : BitVec 14) (cause : Nat) (code : Word16) : (noticeSend s g cause code).job.viewAt = s.job.viewAt := by
  obtain ⟨_, _, _, _, _, _, _, _, e, hr⟩ := noticeSend_same s g cause code; rw [e]
@[simp] theorem noticeSend_job_views (s : State) (g : BitVec 14) (cause : Nat) (code : Word16) : (noticeSend s g cause code).job.views = s.job.views := by
  obtain ⟨_, _, _, _, _, _, _, _, e, hr⟩ := noticeSend_same s g cause code; rw [e]
@[simp] theorem noticeSend_job_resent (s : State) (g : BitVec 14) (cause : Nat) (code : Word16) : (noticeSend s g cause code).job.resent = s.job.resent := by
  obtain ⟨_, _, _, _, _, _, _, _, e, hr⟩ := noticeSend_same s g cause code; rw [e]
@[simp] theorem noticeSend_job_plan (s : State) (g : BitVec 14) (cause : Nat) (code : Word16) : (noticeSend s g cause code).job.plan = s.job.plan := by
  obtain ⟨_, _, _, _, _, _, _, _, e, hr⟩ := noticeSend_same s g cause code; rw [e]
@[simp] theorem noticeSend_job_verify (s : State) (g : BitVec 14) (cause : Nat) (code : Word16) : (noticeSend s g cause code).job.verify = s.job.verify := by
  obtain ⟨_, _, _, _, _, _, _, _, e, hr⟩ := noticeSend_same s g cause code; rw [e]
@[simp] theorem noticeSend_job_permits (s : State) (g : BitVec 14) (cause : Nat) (code : Word16) : (noticeSend s g cause code).job.permits = s.job.permits := by
  obtain ⟨_, _, _, _, _, _, _, _, e, hr⟩ := noticeSend_same s g cause code; rw [e]
@[simp] theorem noticeSend_job_round (s : State) (g : BitVec 14) (cause : Nat) (code : Word16) : (noticeSend s g cause code).job.round = s.job.round := by
  obtain ⟨_, _, _, _, _, _, _, _, e, hr⟩ := noticeSend_same s g cause code; rw [e]
@[simp] theorem noticeSend_job_unanswered (s : State) (g : BitVec 14) (cause : Nat) (code : Word16) : (noticeSend s g cause code).job.unanswered = s.job.unanswered := by
  obtain ⟨_, _, _, _, _, _, _, _, e, hr⟩ := noticeSend_same s g cause code; rw [e]
@[simp] theorem noticeSend_job_gen (s : State) (g : BitVec 14) (cause : Nat) (code : Word16) : (noticeSend s g cause code).job.gen = s.job.gen := by
  obtain ⟨_, _, _, _, _, _, _, _, e, hr⟩ := noticeSend_same s g cause code; rw [e]
@[simp] theorem noticeSend_job_genFar (s : State) (g : BitVec 14) (cause : Nat) (code : Word16) : (noticeSend s g cause code).job.genFar = s.job.genFar := by
  obtain ⟨_, _, _, _, _, _, _, _, e, hr⟩ := noticeSend_same s g cause code; rw [e]
@[simp] theorem noticeSend_job_gp (s : State) (g : BitVec 14) (cause : Nat) (code : Word16) : (noticeSend s g cause code).job.gp = s.job.gp := by
  obtain ⟨_, _, _, _, _, _, _, _, e, hr⟩ := noticeSend_same s g cause code; rw [e]
@[simp] theorem noticeSend_job_gf (s : State) (g : BitVec 14) (cause : Nat) (code : Word16) : (noticeSend s g cause code).job.gf = s.job.gf := by
  obtain ⟨_, _, _, _, _, _, _, _, e, hr⟩ := noticeSend_same s g cause code; rw [e]
@[simp] theorem noticeSend_job_feedBad (s : State) (g : BitVec 14) (cause : Nat) (code : Word16) : (noticeSend s g cause code).job.feedBad = s.job.feedBad := by
  obtain ⟨_, _, _, _, _, _, _, _, e, hr⟩ := noticeSend_same s g cause code; rw [e]
@[simp] theorem noticeSend_job_ready (s : State) (g : BitVec 14) (cause : Nat) (code : Word16) : (noticeSend s g cause code).job.ready = s.job.ready := by
  obtain ⟨_, _, _, _, _, _, _, _, e, hr⟩ := noticeSend_same s g cause code; rw [e]
@[simp] theorem noticeSend_job_window (s : State) (g : BitVec 14) (cause : Nat) (code : Word16) : (noticeSend s g cause code).job.window = s.job.window := by
  obtain ⟨_, _, _, _, _, _, _, _, e, hr⟩ := noticeSend_same s g cause code; rw [e]
@[simp] theorem noticeSend_job_drained (s : State) (g : BitVec 14) (cause : Nat) (code : Word16) : (noticeSend s g cause code).job.drained = s.job.drained := by
  obtain ⟨_, _, _, _, _, _, _, _, e, hr⟩ := noticeSend_same s g cause code; rw [e]
@[simp] theorem noticeSend_job_restored (s : State) (g : BitVec 14) (cause : Nat) (code : Word16) : (noticeSend s g cause code).job.restored = s.job.restored := by
  obtain ⟨_, _, _, _, _, _, _, _, e, hr⟩ := noticeSend_same s g cause code; rw [e]
@[simp] theorem noticeSend_job_snapK (s : State) (g : BitVec 14) (cause : Nat) (code : Word16) : (noticeSend s g cause code).job.snapK = s.job.snapK := by
  obtain ⟨_, _, _, _, _, _, _, _, e, hr⟩ := noticeSend_same s g cause code; rw [e]
@[simp] theorem noticeSend_job_snapNext (s : State) (g : BitVec 14) (cause : Nat) (code : Word16) : (noticeSend s g cause code).job.snapNext = s.job.snapNext := by
  obtain ⟨_, _, _, _, _, _, _, _, e, hr⟩ := noticeSend_same s g cause code; rw [e]
@[simp] theorem noticeSend_job_snapCount (s : State) (g : BitVec 14) (cause : Nat) (code : Word16) : (noticeSend s g cause code).job.snapCount = s.job.snapCount := by
  obtain ⟨_, _, _, _, _, _, _, _, e, hr⟩ := noticeSend_same s g cause code; rw [e]
@[simp] theorem noticeSend_job_snapTag (s : State) (g : BitVec 14) (cause : Nat) (code : Word16) : (noticeSend s g cause code).job.snapTag = s.job.snapTag := by
  obtain ⟨_, _, _, _, _, _, _, _, e, hr⟩ := noticeSend_same s g cause code; rw [e]
@[simp] theorem noticeSend_job_dbgWrite (s : State) (g : BitVec 14) (cause : Nat) (code : Word16) : (noticeSend s g cause code).job.dbgWrite = s.job.dbgWrite := by
  obtain ⟨_, _, _, _, _, _, _, _, e, hr⟩ := noticeSend_same s g cause code; rw [e]
@[simp] theorem noticeSend_fab_tc0Rx (s : State) (g : BitVec 14) (cause : Nat) (code : Word16) : (noticeSend s g cause code).fab.tc0Rx = s.fab.tc0Rx := by
  obtain ⟨_, _, _, _, _, _, _, _, e, hr⟩ := noticeSend_same s g cause code; rw [e]
@[simp] theorem noticeSend_fab_tc0Held (s : State) (g : BitVec 14) (cause : Nat) (code : Word16) : (noticeSend s g cause code).fab.tc0Held = s.fab.tc0Held := by
  obtain ⟨_, _, _, _, _, _, _, _, e, hr⟩ := noticeSend_same s g cause code; rw [e]
@[simp] theorem noticeSend_fab_links (s : State) (g : BitVec 14) (cause : Nat) (code : Word16) : (noticeSend s g cause code).fab.links = s.fab.links := by
  obtain ⟨_, _, _, _, _, _, _, _, e, hr⟩ := noticeSend_same s g cause code; rw [e]
@[simp] theorem noticeSend_fab_tx (s : State) (g : BitVec 14) (cause : Nat) (code : Word16) : (noticeSend s g cause code).fab.tx = s.fab.tx := by
  obtain ⟨_, _, _, _, _, _, _, _, e, hr⟩ := noticeSend_same s g cause code; rw [e]
@[simp] theorem noticeSend_fab_rx (s : State) (g : BitVec 14) (cause : Nat) (code : Word16) : (noticeSend s g cause code).fab.rx = s.fab.rx := by
  obtain ⟨_, _, _, _, _, _, _, _, e, hr⟩ := noticeSend_same s g cause code; rw [e]
@[simp] theorem noticeSend_fab_rsp (s : State) (g : BitVec 14) (cause : Nat) (code : Word16) : (noticeSend s g cause code).fab.rsp = s.fab.rsp := by
  obtain ⟨_, _, _, _, _, _, _, _, e, hr⟩ := noticeSend_same s g cause code; rw [e]
@[simp] theorem noticeSend_fab_reads (s : State) (g : BitVec 14) (cause : Nat) (code : Word16) : (noticeSend s g cause code).fab.reads = s.fab.reads := by
  obtain ⟨_, _, _, _, _, _, _, _, e, hr⟩ := noticeSend_same s g cause code; rw [e]
@[simp] theorem noticeSend_mem_gddr (s : State) (g : BitVec 14) (cause : Nat) (code : Word16) : (noticeSend s g cause code).mem.gddr = s.mem.gddr := by
  obtain ⟨_, _, _, _, _, _, _, _, e, hr⟩ := noticeSend_same s g cause code; rw [e]
@[simp] theorem noticeSend_mem_cxl (s : State) (g : BitVec 14) (cause : Nat) (code : Word16) : (noticeSend s g cause code).mem.cxl = s.mem.cxl := by
  obtain ⟨_, _, _, _, _, _, _, _, e, hr⟩ := noticeSend_same s g cause code; rw [e]
@[simp] theorem noticeSend_reg (s : State) (g : BitVec 14) (cause : Nat) (code : Word16) (a : Nat) (h : a ≠ aLdgLost) : reg (noticeSend s g cause code) a = reg s a := by
  obtain ⟨_, _, _, _, _, _, _, _, e, hr⟩ := noticeSend_same s g cause code; rw [e]; exact hr a h
@[simp] theorem noticeSend_getCore (s : State) (g : BitVec 14) (cause : Nat) (code : Word16) (i : Nat) : getCore (noticeSend s g cause code) i = getCore s i := by
  unfold getCore; simp

/-! ### Leaving BLOCKED -/

@[simp] theorem detWithdraw_pending (s : State)  : (detWithdraw s).pending = s.pending := by
  obtain ⟨_, _, _, _, _, _, _, _, e, hr⟩ := detWithdraw_same s; rw [e]
@[simp] theorem detWithdraw_free (s : State)  : (detWithdraw s).free = s.free := by
  obtain ⟨_, _, _, _, _, _, _, _, e, hr⟩ := detWithdraw_same s; rw [e]
@[simp] theorem detWithdraw_part832 (s : State)  : (detWithdraw s).part832 = s.part832 := by
  obtain ⟨_, _, _, _, _, _, _, _, e, hr⟩ := detWithdraw_same s; rw [e]
@[simp] theorem detWithdraw_repair (s : State)  : (detWithdraw s).repair = s.repair := by
  obtain ⟨_, _, _, _, _, _, _, _, e, hr⟩ := detWithdraw_same s; rw [e]
@[simp] theorem detWithdraw_cfg (s : State)  : (detWithdraw s).cfg = s.cfg := by
  obtain ⟨_, _, _, _, _, _, _, _, e, hr⟩ := detWithdraw_same s; rw [e]
@[simp] theorem detWithdraw_seq (s : State)  : (detWithdraw s).seq = s.seq := by
  obtain ⟨_, _, _, _, _, _, _, _, e, hr⟩ := detWithdraw_same s; rw [e]
@[simp] theorem detWithdraw_cores (s : State)  : (detWithdraw s).cores = s.cores := by
  obtain ⟨_, _, _, _, _, _, _, _, e, hr⟩ := detWithdraw_same s; rw [e]
@[simp] theorem detWithdraw_ce (s : State)  : (detWithdraw s).ce = s.ce := by
  obtain ⟨_, _, _, _, _, _, _, _, e, hr⟩ := detWithdraw_same s; rw [e]
@[simp] theorem detWithdraw_ceUid (s : State)  : (detWithdraw s).ceUid = s.ceUid := by
  obtain ⟨_, _, _, _, _, _, _, _, e, hr⟩ := detWithdraw_same s; rw [e]
@[simp] theorem detWithdraw_job (s : State)  : (detWithdraw s).job = s.job := by
  obtain ⟨_, _, _, _, _, _, _, _, e, hr⟩ := detWithdraw_same s; rw [e]
@[simp] theorem detWithdraw_tim (s : State)  : (detWithdraw s).tim = s.tim := by
  obtain ⟨_, _, _, _, _, _, _, _, e, hr⟩ := detWithdraw_same s; rw [e]
@[simp] theorem detWithdraw_dbg (s : State)  : (detWithdraw s).dbg = s.dbg := by
  obtain ⟨_, _, _, _, _, _, _, _, e, hr⟩ := detWithdraw_same s; rw [e]
@[simp] theorem detWithdraw_sec (s : State)  : (detWithdraw s).sec = s.sec := by
  obtain ⟨_, _, _, _, _, _, _, _, e, hr⟩ := detWithdraw_same s; rw [e]
@[simp] theorem detWithdraw_nor (s : State)  : (detWithdraw s).nor = s.nor := by
  obtain ⟨_, _, _, _, _, _, _, _, e, hr⟩ := detWithdraw_same s; rw [e]
@[simp] theorem detWithdraw_pwr (s : State)  : (detWithdraw s).pwr = s.pwr := by
  obtain ⟨_, _, _, _, _, _, _, _, e, hr⟩ := detWithdraw_same s; rw [e]
@[simp] theorem detWithdraw_pins (s : State)  : (detWithdraw s).pins = s.pins := by
  obtain ⟨_, _, _, _, _, _, _, _, e, hr⟩ := detWithdraw_same s; rw [e]
@[simp] theorem detWithdraw_sync_g (s : State)  : (detWithdraw s).sync.g = s.sync.g := by
  obtain ⟨_, _, _, _, _, _, _, _, e, hr⟩ := detWithdraw_same s; rw [e]
@[simp] theorem detWithdraw_sync_rounds (s : State)  : (detWithdraw s).sync.rounds = s.sync.rounds := by
  obtain ⟨_, _, _, _, _, _, _, _, e, hr⟩ := detWithdraw_same s; rw [e]
@[simp] theorem detWithdraw_sync_held (s : State)  : (detWithdraw s).sync.held = s.sync.held := by
  obtain ⟨_, _, _, _, _, _, _, _, e, hr⟩ := detWithdraw_same s; rw [e]
@[simp] theorem detWithdraw_sync_selfWait (s : State)  : (detWithdraw s).sync.selfWait = s.sync.selfWait := by
  obtain ⟨_, _, _, _, _, _, _, _, e, hr⟩ := detWithdraw_same s; rw [e]
@[simp] theorem detWithdraw_sync_tally (s : State)  : (detWithdraw s).sync.tally = s.sync.tally := by
  obtain ⟨_, _, _, _, _, _, _, _, e, hr⟩ := detWithdraw_same s; rw [e]
@[simp] theorem detWithdraw_sync_quietAt (s : State)  : (detWithdraw s).sync.quietAt = s.sync.quietAt := by
  obtain ⟨_, _, _, _, _, _, _, _, e, hr⟩ := detWithdraw_same s; rw [e]
@[simp] theorem detWithdraw_sync_blockedAt (s : State)  : (detWithdraw s).sync.blockedAt = s.sync.blockedAt := by
  obtain ⟨_, _, _, _, _, _, _, _, e, hr⟩ := detWithdraw_same s; rw [e]
@[simp] theorem detWithdraw_sync_sent (s : State)  : (detWithdraw s).sync.sent = s.sync.sent := by
  obtain ⟨_, _, _, _, _, _, _, _, e, hr⟩ := detWithdraw_same s; rw [e]
@[simp] theorem detWithdraw_sync_recv (s : State)  : (detWithdraw s).sync.recv = s.sync.recv := by
  obtain ⟨_, _, _, _, _, _, _, _, e, hr⟩ := detWithdraw_same s; rw [e]
@[simp] theorem detWithdraw_sync_reported (s : State)  : (detWithdraw s).sync.reported = s.sync.reported := by
  obtain ⟨_, _, _, _, _, _, _, _, e, hr⟩ := detWithdraw_same s; rw [e]
@[simp] theorem detWithdraw_fab_tc0Rx (s : State)  : (detWithdraw s).fab.tc0Rx = s.fab.tc0Rx := by
  obtain ⟨_, _, _, _, _, _, _, _, e, hr⟩ := detWithdraw_same s; rw [e]
@[simp] theorem detWithdraw_fab_tc0Held (s : State)  : (detWithdraw s).fab.tc0Held = s.fab.tc0Held := by
  obtain ⟨_, _, _, _, _, _, _, _, e, hr⟩ := detWithdraw_same s; rw [e]
@[simp] theorem detWithdraw_fab_links (s : State)  : (detWithdraw s).fab.links = s.fab.links := by
  obtain ⟨_, _, _, _, _, _, _, _, e, hr⟩ := detWithdraw_same s; rw [e]
@[simp] theorem detWithdraw_fab_tx (s : State)  : (detWithdraw s).fab.tx = s.fab.tx := by
  obtain ⟨_, _, _, _, _, _, _, _, e, hr⟩ := detWithdraw_same s; rw [e]
@[simp] theorem detWithdraw_fab_rx (s : State)  : (detWithdraw s).fab.rx = s.fab.rx := by
  obtain ⟨_, _, _, _, _, _, _, _, e, hr⟩ := detWithdraw_same s; rw [e]
@[simp] theorem detWithdraw_fab_rsp (s : State)  : (detWithdraw s).fab.rsp = s.fab.rsp := by
  obtain ⟨_, _, _, _, _, _, _, _, e, hr⟩ := detWithdraw_same s; rw [e]
@[simp] theorem detWithdraw_fab_reads (s : State)  : (detWithdraw s).fab.reads = s.fab.reads := by
  obtain ⟨_, _, _, _, _, _, _, _, e, hr⟩ := detWithdraw_same s; rw [e]
@[simp] theorem detWithdraw_mem_gddr (s : State)  : (detWithdraw s).mem.gddr = s.mem.gddr := by
  obtain ⟨_, _, _, _, _, _, _, _, e, hr⟩ := detWithdraw_same s; rw [e]
@[simp] theorem detWithdraw_mem_cxl (s : State)  : (detWithdraw s).mem.cxl = s.mem.cxl := by
  obtain ⟨_, _, _, _, _, _, _, _, e, hr⟩ := detWithdraw_same s; rw [e]
@[simp] theorem detWithdraw_reg (s : State)  (a : Nat) (h : a ≠ aLdgLost) : reg (detWithdraw s) a = reg s a := by
  obtain ⟨_, _, _, _, _, _, _, _, e, hr⟩ := detWithdraw_same s; rw [e]; exact hr a h
@[simp] theorem detWithdraw_getCore (s : State)  (i : Nat) : getCore (detWithdraw s) i = getCore s i := by
  unfold getCore; simp

/-! ### The detector stirred -/

@[simp] theorem detLeave_pending (s : State)  : (detLeave s).pending = s.pending := by
  obtain ⟨_, _, _, _, _, _, _, _, _, e, hr⟩ := detLeave_same s; rw [e]
@[simp] theorem detLeave_free (s : State)  : (detLeave s).free = s.free := by
  obtain ⟨_, _, _, _, _, _, _, _, _, e, hr⟩ := detLeave_same s; rw [e]
@[simp] theorem detLeave_part832 (s : State)  : (detLeave s).part832 = s.part832 := by
  obtain ⟨_, _, _, _, _, _, _, _, _, e, hr⟩ := detLeave_same s; rw [e]
@[simp] theorem detLeave_repair (s : State)  : (detLeave s).repair = s.repair := by
  obtain ⟨_, _, _, _, _, _, _, _, _, e, hr⟩ := detLeave_same s; rw [e]
@[simp] theorem detLeave_cfg (s : State)  : (detLeave s).cfg = s.cfg := by
  obtain ⟨_, _, _, _, _, _, _, _, _, e, hr⟩ := detLeave_same s; rw [e]
@[simp] theorem detLeave_seq (s : State)  : (detLeave s).seq = s.seq := by
  obtain ⟨_, _, _, _, _, _, _, _, _, e, hr⟩ := detLeave_same s; rw [e]
@[simp] theorem detLeave_cores (s : State)  : (detLeave s).cores = s.cores := by
  obtain ⟨_, _, _, _, _, _, _, _, _, e, hr⟩ := detLeave_same s; rw [e]
@[simp] theorem detLeave_ce (s : State)  : (detLeave s).ce = s.ce := by
  obtain ⟨_, _, _, _, _, _, _, _, _, e, hr⟩ := detLeave_same s; rw [e]
@[simp] theorem detLeave_ceUid (s : State)  : (detLeave s).ceUid = s.ceUid := by
  obtain ⟨_, _, _, _, _, _, _, _, _, e, hr⟩ := detLeave_same s; rw [e]
@[simp] theorem detLeave_job (s : State)  : (detLeave s).job = s.job := by
  obtain ⟨_, _, _, _, _, _, _, _, _, e, hr⟩ := detLeave_same s; rw [e]
@[simp] theorem detLeave_tim (s : State)  : (detLeave s).tim = s.tim := by
  obtain ⟨_, _, _, _, _, _, _, _, _, e, hr⟩ := detLeave_same s; rw [e]
@[simp] theorem detLeave_dbg (s : State)  : (detLeave s).dbg = s.dbg := by
  obtain ⟨_, _, _, _, _, _, _, _, _, e, hr⟩ := detLeave_same s; rw [e]
@[simp] theorem detLeave_sec (s : State)  : (detLeave s).sec = s.sec := by
  obtain ⟨_, _, _, _, _, _, _, _, _, e, hr⟩ := detLeave_same s; rw [e]
@[simp] theorem detLeave_nor (s : State)  : (detLeave s).nor = s.nor := by
  obtain ⟨_, _, _, _, _, _, _, _, _, e, hr⟩ := detLeave_same s; rw [e]
@[simp] theorem detLeave_pwr (s : State)  : (detLeave s).pwr = s.pwr := by
  obtain ⟨_, _, _, _, _, _, _, _, _, e, hr⟩ := detLeave_same s; rw [e]
@[simp] theorem detLeave_pins (s : State)  : (detLeave s).pins = s.pins := by
  obtain ⟨_, _, _, _, _, _, _, _, _, e, hr⟩ := detLeave_same s; rw [e]
@[simp] theorem detLeave_sync_g (s : State)  : (detLeave s).sync.g = s.sync.g := by
  obtain ⟨_, _, _, _, _, _, _, _, _, e, hr⟩ := detLeave_same s; rw [e]
@[simp] theorem detLeave_sync_rounds (s : State)  : (detLeave s).sync.rounds = s.sync.rounds := by
  obtain ⟨_, _, _, _, _, _, _, _, _, e, hr⟩ := detLeave_same s; rw [e]
@[simp] theorem detLeave_sync_held (s : State)  : (detLeave s).sync.held = s.sync.held := by
  obtain ⟨_, _, _, _, _, _, _, _, _, e, hr⟩ := detLeave_same s; rw [e]
@[simp] theorem detLeave_sync_selfWait (s : State)  : (detLeave s).sync.selfWait = s.sync.selfWait := by
  obtain ⟨_, _, _, _, _, _, _, _, _, e, hr⟩ := detLeave_same s; rw [e]
@[simp] theorem detLeave_sync_tally (s : State)  : (detLeave s).sync.tally = s.sync.tally := by
  obtain ⟨_, _, _, _, _, _, _, _, _, e, hr⟩ := detLeave_same s; rw [e]
@[simp] theorem detLeave_sync_quietAt (s : State)  : (detLeave s).sync.quietAt = s.sync.quietAt := by
  obtain ⟨_, _, _, _, _, _, _, _, _, e, hr⟩ := detLeave_same s; rw [e]
@[simp] theorem detLeave_sync_blockedAt (s : State)  : (detLeave s).sync.blockedAt = s.sync.blockedAt := by
  obtain ⟨_, _, _, _, _, _, _, _, _, e, hr⟩ := detLeave_same s; rw [e]
@[simp] theorem detLeave_sync_sent (s : State)  : (detLeave s).sync.sent = s.sync.sent := by
  obtain ⟨_, _, _, _, _, _, _, _, _, e, hr⟩ := detLeave_same s; rw [e]
@[simp] theorem detLeave_sync_recv (s : State)  : (detLeave s).sync.recv = s.sync.recv := by
  obtain ⟨_, _, _, _, _, _, _, _, _, e, hr⟩ := detLeave_same s; rw [e]
@[simp] theorem detLeave_sync_reported (s : State)  : (detLeave s).sync.reported = s.sync.reported := by
  obtain ⟨_, _, _, _, _, _, _, _, _, e, hr⟩ := detLeave_same s; rw [e]
@[simp] theorem detLeave_fab_tc0Rx (s : State)  : (detLeave s).fab.tc0Rx = s.fab.tc0Rx := by
  obtain ⟨_, _, _, _, _, _, _, _, _, e, hr⟩ := detLeave_same s; rw [e]
@[simp] theorem detLeave_fab_tc0Held (s : State)  : (detLeave s).fab.tc0Held = s.fab.tc0Held := by
  obtain ⟨_, _, _, _, _, _, _, _, _, e, hr⟩ := detLeave_same s; rw [e]
@[simp] theorem detLeave_fab_links (s : State)  : (detLeave s).fab.links = s.fab.links := by
  obtain ⟨_, _, _, _, _, _, _, _, _, e, hr⟩ := detLeave_same s; rw [e]
@[simp] theorem detLeave_fab_tx (s : State)  : (detLeave s).fab.tx = s.fab.tx := by
  obtain ⟨_, _, _, _, _, _, _, _, _, e, hr⟩ := detLeave_same s; rw [e]
@[simp] theorem detLeave_fab_rx (s : State)  : (detLeave s).fab.rx = s.fab.rx := by
  obtain ⟨_, _, _, _, _, _, _, _, _, e, hr⟩ := detLeave_same s; rw [e]
@[simp] theorem detLeave_fab_rsp (s : State)  : (detLeave s).fab.rsp = s.fab.rsp := by
  obtain ⟨_, _, _, _, _, _, _, _, _, e, hr⟩ := detLeave_same s; rw [e]
@[simp] theorem detLeave_fab_reads (s : State)  : (detLeave s).fab.reads = s.fab.reads := by
  obtain ⟨_, _, _, _, _, _, _, _, _, e, hr⟩ := detLeave_same s; rw [e]
@[simp] theorem detLeave_mem_gddr (s : State)  : (detLeave s).mem.gddr = s.mem.gddr := by
  obtain ⟨_, _, _, _, _, _, _, _, _, e, hr⟩ := detLeave_same s; rw [e]
@[simp] theorem detLeave_mem_cxl (s : State)  : (detLeave s).mem.cxl = s.mem.cxl := by
  obtain ⟨_, _, _, _, _, _, _, _, _, e, hr⟩ := detLeave_same s; rw [e]
@[simp] theorem detLeave_reg (s : State)  (a : Nat) (h : a ≠ aLdgLost) : reg (detLeave s) a = reg s a := by
  obtain ⟨_, _, _, _, _, _, _, _, _, e, hr⟩ := detLeave_same s; rw [e]; exact hr a h
@[simp] theorem detLeave_getCore (s : State)  (i : Nat) : getCore (detLeave s) i = getCore s i := by
  unfold getCore; simp

/-! ### The detector stirred by a counter -/

@[simp] theorem detStir_pending (s : State)  : (detStir s).pending = s.pending := by
  obtain ⟨_, _, _, _, _, _, _, _, _, e, hr⟩ := detLeave_same s; unfold detStir; rw [e]
@[simp] theorem detStir_free (s : State)  : (detStir s).free = s.free := by
  obtain ⟨_, _, _, _, _, _, _, _, _, e, hr⟩ := detLeave_same s; unfold detStir; rw [e]
@[simp] theorem detStir_part832 (s : State)  : (detStir s).part832 = s.part832 := by
  obtain ⟨_, _, _, _, _, _, _, _, _, e, hr⟩ := detLeave_same s; unfold detStir; rw [e]
@[simp] theorem detStir_repair (s : State)  : (detStir s).repair = s.repair := by
  obtain ⟨_, _, _, _, _, _, _, _, _, e, hr⟩ := detLeave_same s; unfold detStir; rw [e]
@[simp] theorem detStir_cfg (s : State)  : (detStir s).cfg = s.cfg := by
  obtain ⟨_, _, _, _, _, _, _, _, _, e, hr⟩ := detLeave_same s; unfold detStir; rw [e]
@[simp] theorem detStir_seq (s : State)  : (detStir s).seq = s.seq := by
  obtain ⟨_, _, _, _, _, _, _, _, _, e, hr⟩ := detLeave_same s; unfold detStir; rw [e]
@[simp] theorem detStir_cores (s : State)  : (detStir s).cores = s.cores := by
  obtain ⟨_, _, _, _, _, _, _, _, _, e, hr⟩ := detLeave_same s; unfold detStir; rw [e]
@[simp] theorem detStir_ce (s : State)  : (detStir s).ce = s.ce := by
  obtain ⟨_, _, _, _, _, _, _, _, _, e, hr⟩ := detLeave_same s; unfold detStir; rw [e]
@[simp] theorem detStir_ceUid (s : State)  : (detStir s).ceUid = s.ceUid := by
  obtain ⟨_, _, _, _, _, _, _, _, _, e, hr⟩ := detLeave_same s; unfold detStir; rw [e]
@[simp] theorem detStir_job (s : State)  : (detStir s).job = s.job := by
  obtain ⟨_, _, _, _, _, _, _, _, _, e, hr⟩ := detLeave_same s; unfold detStir; rw [e]
@[simp] theorem detStir_tim (s : State)  : (detStir s).tim = s.tim := by
  obtain ⟨_, _, _, _, _, _, _, _, _, e, hr⟩ := detLeave_same s; unfold detStir; rw [e]
@[simp] theorem detStir_dbg (s : State)  : (detStir s).dbg = s.dbg := by
  obtain ⟨_, _, _, _, _, _, _, _, _, e, hr⟩ := detLeave_same s; unfold detStir; rw [e]
@[simp] theorem detStir_sec (s : State)  : (detStir s).sec = s.sec := by
  obtain ⟨_, _, _, _, _, _, _, _, _, e, hr⟩ := detLeave_same s; unfold detStir; rw [e]
@[simp] theorem detStir_nor (s : State)  : (detStir s).nor = s.nor := by
  obtain ⟨_, _, _, _, _, _, _, _, _, e, hr⟩ := detLeave_same s; unfold detStir; rw [e]
@[simp] theorem detStir_pwr (s : State)  : (detStir s).pwr = s.pwr := by
  obtain ⟨_, _, _, _, _, _, _, _, _, e, hr⟩ := detLeave_same s; unfold detStir; rw [e]
@[simp] theorem detStir_pins (s : State)  : (detStir s).pins = s.pins := by
  obtain ⟨_, _, _, _, _, _, _, _, _, e, hr⟩ := detLeave_same s; unfold detStir; rw [e]
@[simp] theorem detStir_sync_g (s : State)  : (detStir s).sync.g = s.sync.g := by
  obtain ⟨_, _, _, _, _, _, _, _, _, e, hr⟩ := detLeave_same s; unfold detStir; rw [e]
@[simp] theorem detStir_sync_rounds (s : State)  : (detStir s).sync.rounds = s.sync.rounds := by
  obtain ⟨_, _, _, _, _, _, _, _, _, e, hr⟩ := detLeave_same s; unfold detStir; rw [e]
@[simp] theorem detStir_sync_held (s : State)  : (detStir s).sync.held = s.sync.held := by
  obtain ⟨_, _, _, _, _, _, _, _, _, e, hr⟩ := detLeave_same s; unfold detStir; rw [e]
@[simp] theorem detStir_sync_selfWait (s : State)  : (detStir s).sync.selfWait = s.sync.selfWait := by
  obtain ⟨_, _, _, _, _, _, _, _, _, e, hr⟩ := detLeave_same s; unfold detStir; rw [e]
@[simp] theorem detStir_sync_tally (s : State)  : (detStir s).sync.tally = s.sync.tally := by
  obtain ⟨_, _, _, _, _, _, _, _, _, e, hr⟩ := detLeave_same s; unfold detStir; rw [e]
@[simp] theorem detStir_sync_quietAt (s : State)  : (detStir s).sync.quietAt = s.sync.quietAt := by
  obtain ⟨_, _, _, _, _, _, _, _, _, e, hr⟩ := detLeave_same s; unfold detStir; rw [e]
@[simp] theorem detStir_sync_blockedAt (s : State)  : (detStir s).sync.blockedAt = s.sync.blockedAt := by
  obtain ⟨_, _, _, _, _, _, _, _, _, e, hr⟩ := detLeave_same s; unfold detStir; rw [e]
@[simp] theorem detStir_sync_sent (s : State)  : (detStir s).sync.sent = s.sync.sent := by
  obtain ⟨_, _, _, _, _, _, _, _, _, e, hr⟩ := detLeave_same s; unfold detStir; rw [e]
@[simp] theorem detStir_sync_recv (s : State)  : (detStir s).sync.recv = s.sync.recv := by
  obtain ⟨_, _, _, _, _, _, _, _, _, e, hr⟩ := detLeave_same s; unfold detStir; rw [e]
@[simp] theorem detStir_sync_reported (s : State)  : (detStir s).sync.reported = s.sync.reported := by
  obtain ⟨_, _, _, _, _, _, _, _, _, e, hr⟩ := detLeave_same s; unfold detStir; rw [e]
@[simp] theorem detStir_fab_tc0Rx (s : State)  : (detStir s).fab.tc0Rx = s.fab.tc0Rx := by
  obtain ⟨_, _, _, _, _, _, _, _, _, e, hr⟩ := detLeave_same s; unfold detStir; rw [e]
@[simp] theorem detStir_fab_tc0Held (s : State)  : (detStir s).fab.tc0Held = s.fab.tc0Held := by
  obtain ⟨_, _, _, _, _, _, _, _, _, e, hr⟩ := detLeave_same s; unfold detStir; rw [e]
@[simp] theorem detStir_fab_links (s : State)  : (detStir s).fab.links = s.fab.links := by
  obtain ⟨_, _, _, _, _, _, _, _, _, e, hr⟩ := detLeave_same s; unfold detStir; rw [e]
@[simp] theorem detStir_fab_tx (s : State)  : (detStir s).fab.tx = s.fab.tx := by
  obtain ⟨_, _, _, _, _, _, _, _, _, e, hr⟩ := detLeave_same s; unfold detStir; rw [e]
@[simp] theorem detStir_fab_rx (s : State)  : (detStir s).fab.rx = s.fab.rx := by
  obtain ⟨_, _, _, _, _, _, _, _, _, e, hr⟩ := detLeave_same s; unfold detStir; rw [e]
@[simp] theorem detStir_fab_rsp (s : State)  : (detStir s).fab.rsp = s.fab.rsp := by
  obtain ⟨_, _, _, _, _, _, _, _, _, e, hr⟩ := detLeave_same s; unfold detStir; rw [e]
@[simp] theorem detStir_fab_reads (s : State)  : (detStir s).fab.reads = s.fab.reads := by
  obtain ⟨_, _, _, _, _, _, _, _, _, e, hr⟩ := detLeave_same s; unfold detStir; rw [e]
@[simp] theorem detStir_mem_gddr (s : State)  : (detStir s).mem.gddr = s.mem.gddr := by
  obtain ⟨_, _, _, _, _, _, _, _, _, e, hr⟩ := detLeave_same s; unfold detStir; rw [e]
@[simp] theorem detStir_mem_cxl (s : State)  : (detStir s).mem.cxl = s.mem.cxl := by
  obtain ⟨_, _, _, _, _, _, _, _, _, e, hr⟩ := detLeave_same s; unfold detStir; rw [e]
@[simp] theorem detStir_reg (s : State)  (a : Nat) (h : a ≠ aLdgLost) : reg (detStir s) a = reg s a := by
  obtain ⟨_, _, _, _, _, _, _, _, _, e, hr⟩ := detLeave_same s; unfold detStir; rw [e]; exact hr a h
@[simp] theorem detStir_getCore (s : State)  (i : Nat) : getCore (detStir s) i = getCore s i := by
  unfold getCore; simp

/-! ### A job state entered -/

@[simp] theorem jobTo_pending (s : State) (j : JobSt) : (jobTo s j).pending = s.pending := by
  obtain ⟨_, _, _, _, _, e, hr⟩ := jobTo_same s j; rw [e]
@[simp] theorem jobTo_free (s : State) (j : JobSt) : (jobTo s j).free = s.free := by
  obtain ⟨_, _, _, _, _, e, hr⟩ := jobTo_same s j; rw [e]
@[simp] theorem jobTo_part832 (s : State) (j : JobSt) : (jobTo s j).part832 = s.part832 := by
  obtain ⟨_, _, _, _, _, e, hr⟩ := jobTo_same s j; rw [e]
@[simp] theorem jobTo_repair (s : State) (j : JobSt) : (jobTo s j).repair = s.repair := by
  obtain ⟨_, _, _, _, _, e, hr⟩ := jobTo_same s j; rw [e]
@[simp] theorem jobTo_cfg (s : State) (j : JobSt) : (jobTo s j).cfg = s.cfg := by
  obtain ⟨_, _, _, _, _, e, hr⟩ := jobTo_same s j; rw [e]
@[simp] theorem jobTo_seq (s : State) (j : JobSt) : (jobTo s j).seq = s.seq := by
  obtain ⟨_, _, _, _, _, e, hr⟩ := jobTo_same s j; rw [e]
@[simp] theorem jobTo_cores (s : State) (j : JobSt) : (jobTo s j).cores = s.cores := by
  obtain ⟨_, _, _, _, _, e, hr⟩ := jobTo_same s j; rw [e]
@[simp] theorem jobTo_sync (s : State) (j : JobSt) : (jobTo s j).sync = s.sync := by
  obtain ⟨_, _, _, _, _, e, hr⟩ := jobTo_same s j; rw [e]
@[simp] theorem jobTo_ce (s : State) (j : JobSt) : (jobTo s j).ce = s.ce := by
  obtain ⟨_, _, _, _, _, e, hr⟩ := jobTo_same s j; rw [e]
@[simp] theorem jobTo_ceUid (s : State) (j : JobSt) : (jobTo s j).ceUid = s.ceUid := by
  obtain ⟨_, _, _, _, _, e, hr⟩ := jobTo_same s j; rw [e]
@[simp] theorem jobTo_tim (s : State) (j : JobSt) : (jobTo s j).tim = s.tim := by
  obtain ⟨_, _, _, _, _, e, hr⟩ := jobTo_same s j; rw [e]
@[simp] theorem jobTo_dbg (s : State) (j : JobSt) : (jobTo s j).dbg = s.dbg := by
  obtain ⟨_, _, _, _, _, e, hr⟩ := jobTo_same s j; rw [e]
@[simp] theorem jobTo_sec (s : State) (j : JobSt) : (jobTo s j).sec = s.sec := by
  obtain ⟨_, _, _, _, _, e, hr⟩ := jobTo_same s j; rw [e]
@[simp] theorem jobTo_nor (s : State) (j : JobSt) : (jobTo s j).nor = s.nor := by
  obtain ⟨_, _, _, _, _, e, hr⟩ := jobTo_same s j; rw [e]
@[simp] theorem jobTo_pwr (s : State) (j : JobSt) : (jobTo s j).pwr = s.pwr := by
  obtain ⟨_, _, _, _, _, e, hr⟩ := jobTo_same s j; rw [e]
@[simp] theorem jobTo_pins (s : State) (j : JobSt) : (jobTo s j).pins = s.pins := by
  obtain ⟨_, _, _, _, _, e, hr⟩ := jobTo_same s j; rw [e]
@[simp] theorem jobTo_fab (s : State) (j : JobSt) : (jobTo s j).fab = s.fab := by
  obtain ⟨_, _, _, _, _, e, hr⟩ := jobTo_same s j; rw [e]
@[simp] theorem jobTo_mem_gddr (s : State) (j : JobSt) : (jobTo s j).mem.gddr = s.mem.gddr := by
  obtain ⟨_, _, _, _, _, e, hr⟩ := jobTo_same s j; rw [e]
@[simp] theorem jobTo_mem_cxl (s : State) (j : JobSt) : (jobTo s j).mem.cxl = s.mem.cxl := by
  obtain ⟨_, _, _, _, _, e, hr⟩ := jobTo_same s j; rw [e]
@[simp] theorem jobTo_reg (s : State) (j : JobSt) (a : Nat) (h : a ≠ aLdgLost) : reg (jobTo s j) a = reg s a := by
  obtain ⟨_, _, _, _, _, e, hr⟩ := jobTo_same s j; rw [e]; exact hr a h
@[simp] theorem jobTo_getCore (s : State) (j : JobSt) (i : Nat) : getCore (jobTo s j) i = getCore s i := by
  unfold getCore; simp

/-! ### A completion posted -/

@[simp] theorem hostPost_pending (s : State) (n cid : Nat) (more : Bool) (st r0 r1 : Nat) : (hostPost s n cid more st r0 r1).pending = s.pending := by
  obtain ⟨_, _, _, e⟩ := hostPost_same s n cid more st r0 r1; rw [e]
@[simp] theorem hostPost_free (s : State) (n cid : Nat) (more : Bool) (st r0 r1 : Nat) : (hostPost s n cid more st r0 r1).free = s.free := by
  obtain ⟨_, _, _, e⟩ := hostPost_same s n cid more st r0 r1; rw [e]
@[simp] theorem hostPost_part832 (s : State) (n cid : Nat) (more : Bool) (st r0 r1 : Nat) : (hostPost s n cid more st r0 r1).part832 = s.part832 := by
  obtain ⟨_, _, _, e⟩ := hostPost_same s n cid more st r0 r1; rw [e]
@[simp] theorem hostPost_repair (s : State) (n cid : Nat) (more : Bool) (st r0 r1 : Nat) : (hostPost s n cid more st r0 r1).repair = s.repair := by
  obtain ⟨_, _, _, e⟩ := hostPost_same s n cid more st r0 r1; rw [e]
@[simp] theorem hostPost_cfg (s : State) (n cid : Nat) (more : Bool) (st r0 r1 : Nat) : (hostPost s n cid more st r0 r1).cfg = s.cfg := by
  obtain ⟨_, _, _, e⟩ := hostPost_same s n cid more st r0 r1; rw [e]
@[simp] theorem hostPost_seq (s : State) (n cid : Nat) (more : Bool) (st r0 r1 : Nat) : (hostPost s n cid more st r0 r1).seq = s.seq := by
  obtain ⟨_, _, _, e⟩ := hostPost_same s n cid more st r0 r1; rw [e]
@[simp] theorem hostPost_cores (s : State) (n cid : Nat) (more : Bool) (st r0 r1 : Nat) : (hostPost s n cid more st r0 r1).cores = s.cores := by
  obtain ⟨_, _, _, e⟩ := hostPost_same s n cid more st r0 r1; rw [e]
@[simp] theorem hostPost_sync (s : State) (n cid : Nat) (more : Bool) (st r0 r1 : Nat) : (hostPost s n cid more st r0 r1).sync = s.sync := by
  obtain ⟨_, _, _, e⟩ := hostPost_same s n cid more st r0 r1; rw [e]
@[simp] theorem hostPost_ce (s : State) (n cid : Nat) (more : Bool) (st r0 r1 : Nat) : (hostPost s n cid more st r0 r1).ce = s.ce := by
  obtain ⟨_, _, _, e⟩ := hostPost_same s n cid more st r0 r1; rw [e]
@[simp] theorem hostPost_ceUid (s : State) (n cid : Nat) (more : Bool) (st r0 r1 : Nat) : (hostPost s n cid more st r0 r1).ceUid = s.ceUid := by
  obtain ⟨_, _, _, e⟩ := hostPost_same s n cid more st r0 r1; rw [e]
@[simp] theorem hostPost_job (s : State) (n cid : Nat) (more : Bool) (st r0 r1 : Nat) : (hostPost s n cid more st r0 r1).job = s.job := by
  obtain ⟨_, _, _, e⟩ := hostPost_same s n cid more st r0 r1; rw [e]
@[simp] theorem hostPost_tim (s : State) (n cid : Nat) (more : Bool) (st r0 r1 : Nat) : (hostPost s n cid more st r0 r1).tim = s.tim := by
  obtain ⟨_, _, _, e⟩ := hostPost_same s n cid more st r0 r1; rw [e]
@[simp] theorem hostPost_dbg (s : State) (n cid : Nat) (more : Bool) (st r0 r1 : Nat) : (hostPost s n cid more st r0 r1).dbg = s.dbg := by
  obtain ⟨_, _, _, e⟩ := hostPost_same s n cid more st r0 r1; rw [e]
@[simp] theorem hostPost_sec (s : State) (n cid : Nat) (more : Bool) (st r0 r1 : Nat) : (hostPost s n cid more st r0 r1).sec = s.sec := by
  obtain ⟨_, _, _, e⟩ := hostPost_same s n cid more st r0 r1; rw [e]
@[simp] theorem hostPost_nor (s : State) (n cid : Nat) (more : Bool) (st r0 r1 : Nat) : (hostPost s n cid more st r0 r1).nor = s.nor := by
  obtain ⟨_, _, _, e⟩ := hostPost_same s n cid more st r0 r1; rw [e]
@[simp] theorem hostPost_pwr (s : State) (n cid : Nat) (more : Bool) (st r0 r1 : Nat) : (hostPost s n cid more st r0 r1).pwr = s.pwr := by
  obtain ⟨_, _, _, e⟩ := hostPost_same s n cid more st r0 r1; rw [e]
@[simp] theorem hostPost_pins (s : State) (n cid : Nat) (more : Bool) (st r0 r1 : Nat) : (hostPost s n cid more st r0 r1).pins = s.pins := by
  obtain ⟨_, _, _, e⟩ := hostPost_same s n cid more st r0 r1; rw [e]
@[simp] theorem hostPost_fab (s : State) (n cid : Nat) (more : Bool) (st r0 r1 : Nat) : (hostPost s n cid more st r0 r1).fab = s.fab := by
  obtain ⟨_, _, _, e⟩ := hostPost_same s n cid more st r0 r1; rw [e]
@[simp] theorem hostPost_ldg (s : State) (n cid : Nat) (more : Bool) (st r0 r1 : Nat) : (hostPost s n cid more st r0 r1).ldg = s.ldg := by
  obtain ⟨_, _, _, e⟩ := hostPost_same s n cid more st r0 r1; rw [e]
@[simp] theorem hostPost_regs (s : State) (n cid : Nat) (more : Bool) (st r0 r1 : Nat) : (hostPost s n cid more st r0 r1).regs = s.regs := by
  obtain ⟨_, _, _, e⟩ := hostPost_same s n cid more st r0 r1; rw [e]
@[simp] theorem hostPost_mem_gddr (s : State) (n cid : Nat) (more : Bool) (st r0 r1 : Nat) : (hostPost s n cid more st r0 r1).mem.gddr = s.mem.gddr := by
  obtain ⟨_, _, _, e⟩ := hostPost_same s n cid more st r0 r1; rw [e]
@[simp] theorem hostPost_mem_cxl (s : State) (n cid : Nat) (more : Bool) (st r0 r1 : Nat) : (hostPost s n cid more st r0 r1).mem.cxl = s.mem.cxl := by
  obtain ⟨_, _, _, e⟩ := hostPost_same s n cid more st r0 r1; rw [e]
@[simp] theorem hostPost_getCore (s : State) (n cid : Nat) (more : Bool) (st r0 r1 : Nat) (i : Nat) : getCore (hostPost s n cid more st r0 r1) i = getCore s i := by
  unfold getCore; simp

@[simp] theorem hostPost_reg (s : State) (n cid : Nat) (more : Bool) (st r0 r1 : Nat) (a : Nat) : reg (hostPost s n cid more st r0 r1) a = reg s a := by
  unfold reg; simp

/-! ### A host command completed -/

@[simp] theorem hostDone_pending (s : State) (q cid st r0 r1 : Nat) : (hostDone s q cid st r0 r1).pending = s.pending := by
  obtain ⟨_, _, _, e⟩ := hostDone_same s q cid st r0 r1; rw [e]
@[simp] theorem hostDone_free (s : State) (q cid st r0 r1 : Nat) : (hostDone s q cid st r0 r1).free = s.free := by
  obtain ⟨_, _, _, e⟩ := hostDone_same s q cid st r0 r1; rw [e]
@[simp] theorem hostDone_part832 (s : State) (q cid st r0 r1 : Nat) : (hostDone s q cid st r0 r1).part832 = s.part832 := by
  obtain ⟨_, _, _, e⟩ := hostDone_same s q cid st r0 r1; rw [e]
@[simp] theorem hostDone_repair (s : State) (q cid st r0 r1 : Nat) : (hostDone s q cid st r0 r1).repair = s.repair := by
  obtain ⟨_, _, _, e⟩ := hostDone_same s q cid st r0 r1; rw [e]
@[simp] theorem hostDone_cfg (s : State) (q cid st r0 r1 : Nat) : (hostDone s q cid st r0 r1).cfg = s.cfg := by
  obtain ⟨_, _, _, e⟩ := hostDone_same s q cid st r0 r1; rw [e]
@[simp] theorem hostDone_seq (s : State) (q cid st r0 r1 : Nat) : (hostDone s q cid st r0 r1).seq = s.seq := by
  obtain ⟨_, _, _, e⟩ := hostDone_same s q cid st r0 r1; rw [e]
@[simp] theorem hostDone_cores (s : State) (q cid st r0 r1 : Nat) : (hostDone s q cid st r0 r1).cores = s.cores := by
  obtain ⟨_, _, _, e⟩ := hostDone_same s q cid st r0 r1; rw [e]
@[simp] theorem hostDone_sync (s : State) (q cid st r0 r1 : Nat) : (hostDone s q cid st r0 r1).sync = s.sync := by
  obtain ⟨_, _, _, e⟩ := hostDone_same s q cid st r0 r1; rw [e]
@[simp] theorem hostDone_ce (s : State) (q cid st r0 r1 : Nat) : (hostDone s q cid st r0 r1).ce = s.ce := by
  obtain ⟨_, _, _, e⟩ := hostDone_same s q cid st r0 r1; rw [e]
@[simp] theorem hostDone_ceUid (s : State) (q cid st r0 r1 : Nat) : (hostDone s q cid st r0 r1).ceUid = s.ceUid := by
  obtain ⟨_, _, _, e⟩ := hostDone_same s q cid st r0 r1; rw [e]
@[simp] theorem hostDone_job (s : State) (q cid st r0 r1 : Nat) : (hostDone s q cid st r0 r1).job = s.job := by
  obtain ⟨_, _, _, e⟩ := hostDone_same s q cid st r0 r1; rw [e]
@[simp] theorem hostDone_tim (s : State) (q cid st r0 r1 : Nat) : (hostDone s q cid st r0 r1).tim = s.tim := by
  obtain ⟨_, _, _, e⟩ := hostDone_same s q cid st r0 r1; rw [e]
@[simp] theorem hostDone_dbg (s : State) (q cid st r0 r1 : Nat) : (hostDone s q cid st r0 r1).dbg = s.dbg := by
  obtain ⟨_, _, _, e⟩ := hostDone_same s q cid st r0 r1; rw [e]
@[simp] theorem hostDone_sec (s : State) (q cid st r0 r1 : Nat) : (hostDone s q cid st r0 r1).sec = s.sec := by
  obtain ⟨_, _, _, e⟩ := hostDone_same s q cid st r0 r1; rw [e]
@[simp] theorem hostDone_nor (s : State) (q cid st r0 r1 : Nat) : (hostDone s q cid st r0 r1).nor = s.nor := by
  obtain ⟨_, _, _, e⟩ := hostDone_same s q cid st r0 r1; rw [e]
@[simp] theorem hostDone_pwr (s : State) (q cid st r0 r1 : Nat) : (hostDone s q cid st r0 r1).pwr = s.pwr := by
  obtain ⟨_, _, _, e⟩ := hostDone_same s q cid st r0 r1; rw [e]
@[simp] theorem hostDone_pins (s : State) (q cid st r0 r1 : Nat) : (hostDone s q cid st r0 r1).pins = s.pins := by
  obtain ⟨_, _, _, e⟩ := hostDone_same s q cid st r0 r1; rw [e]
@[simp] theorem hostDone_fab (s : State) (q cid st r0 r1 : Nat) : (hostDone s q cid st r0 r1).fab = s.fab := by
  obtain ⟨_, _, _, e⟩ := hostDone_same s q cid st r0 r1; rw [e]
@[simp] theorem hostDone_ldg (s : State) (q cid st r0 r1 : Nat) : (hostDone s q cid st r0 r1).ldg = s.ldg := by
  obtain ⟨_, _, _, e⟩ := hostDone_same s q cid st r0 r1; rw [e]
@[simp] theorem hostDone_regs (s : State) (q cid st r0 r1 : Nat) : (hostDone s q cid st r0 r1).regs = s.regs := by
  obtain ⟨_, _, _, e⟩ := hostDone_same s q cid st r0 r1; rw [e]
@[simp] theorem hostDone_mem_gddr (s : State) (q cid st r0 r1 : Nat) : (hostDone s q cid st r0 r1).mem.gddr = s.mem.gddr := by
  obtain ⟨_, _, _, e⟩ := hostDone_same s q cid st r0 r1; rw [e]
@[simp] theorem hostDone_mem_cxl (s : State) (q cid st r0 r1 : Nat) : (hostDone s q cid st r0 r1).mem.cxl = s.mem.cxl := by
  obtain ⟨_, _, _, e⟩ := hostDone_same s q cid st r0 r1; rw [e]
@[simp] theorem hostDone_getCore (s : State) (q cid st r0 r1 : Nat) (i : Nat) : getCore (hostDone s q cid st r0 r1) i = getCore s i := by
  unfold getCore; simp

@[simp] theorem hostDone_reg (s : State) (q cid st r0 r1 : Nat) (a : Nat) : reg (hostDone s q cid st r0 r1) a = reg s a := by
  unfold reg; simp

/-! ### All commands of an opcode completed -/

@[simp] theorem hostDoneAll_pending (s : State) (op st r0 r1 : Nat) : (hostDoneAll s op st r0 r1).pending = s.pending := by
  obtain ⟨_, _, _, e⟩ := hostDoneAll_same s op st r0 r1; rw [e]
@[simp] theorem hostDoneAll_free (s : State) (op st r0 r1 : Nat) : (hostDoneAll s op st r0 r1).free = s.free := by
  obtain ⟨_, _, _, e⟩ := hostDoneAll_same s op st r0 r1; rw [e]
@[simp] theorem hostDoneAll_part832 (s : State) (op st r0 r1 : Nat) : (hostDoneAll s op st r0 r1).part832 = s.part832 := by
  obtain ⟨_, _, _, e⟩ := hostDoneAll_same s op st r0 r1; rw [e]
@[simp] theorem hostDoneAll_repair (s : State) (op st r0 r1 : Nat) : (hostDoneAll s op st r0 r1).repair = s.repair := by
  obtain ⟨_, _, _, e⟩ := hostDoneAll_same s op st r0 r1; rw [e]
@[simp] theorem hostDoneAll_cfg (s : State) (op st r0 r1 : Nat) : (hostDoneAll s op st r0 r1).cfg = s.cfg := by
  obtain ⟨_, _, _, e⟩ := hostDoneAll_same s op st r0 r1; rw [e]
@[simp] theorem hostDoneAll_seq (s : State) (op st r0 r1 : Nat) : (hostDoneAll s op st r0 r1).seq = s.seq := by
  obtain ⟨_, _, _, e⟩ := hostDoneAll_same s op st r0 r1; rw [e]
@[simp] theorem hostDoneAll_cores (s : State) (op st r0 r1 : Nat) : (hostDoneAll s op st r0 r1).cores = s.cores := by
  obtain ⟨_, _, _, e⟩ := hostDoneAll_same s op st r0 r1; rw [e]
@[simp] theorem hostDoneAll_sync (s : State) (op st r0 r1 : Nat) : (hostDoneAll s op st r0 r1).sync = s.sync := by
  obtain ⟨_, _, _, e⟩ := hostDoneAll_same s op st r0 r1; rw [e]
@[simp] theorem hostDoneAll_ce (s : State) (op st r0 r1 : Nat) : (hostDoneAll s op st r0 r1).ce = s.ce := by
  obtain ⟨_, _, _, e⟩ := hostDoneAll_same s op st r0 r1; rw [e]
@[simp] theorem hostDoneAll_ceUid (s : State) (op st r0 r1 : Nat) : (hostDoneAll s op st r0 r1).ceUid = s.ceUid := by
  obtain ⟨_, _, _, e⟩ := hostDoneAll_same s op st r0 r1; rw [e]
@[simp] theorem hostDoneAll_job (s : State) (op st r0 r1 : Nat) : (hostDoneAll s op st r0 r1).job = s.job := by
  obtain ⟨_, _, _, e⟩ := hostDoneAll_same s op st r0 r1; rw [e]
@[simp] theorem hostDoneAll_tim (s : State) (op st r0 r1 : Nat) : (hostDoneAll s op st r0 r1).tim = s.tim := by
  obtain ⟨_, _, _, e⟩ := hostDoneAll_same s op st r0 r1; rw [e]
@[simp] theorem hostDoneAll_dbg (s : State) (op st r0 r1 : Nat) : (hostDoneAll s op st r0 r1).dbg = s.dbg := by
  obtain ⟨_, _, _, e⟩ := hostDoneAll_same s op st r0 r1; rw [e]
@[simp] theorem hostDoneAll_sec (s : State) (op st r0 r1 : Nat) : (hostDoneAll s op st r0 r1).sec = s.sec := by
  obtain ⟨_, _, _, e⟩ := hostDoneAll_same s op st r0 r1; rw [e]
@[simp] theorem hostDoneAll_nor (s : State) (op st r0 r1 : Nat) : (hostDoneAll s op st r0 r1).nor = s.nor := by
  obtain ⟨_, _, _, e⟩ := hostDoneAll_same s op st r0 r1; rw [e]
@[simp] theorem hostDoneAll_pwr (s : State) (op st r0 r1 : Nat) : (hostDoneAll s op st r0 r1).pwr = s.pwr := by
  obtain ⟨_, _, _, e⟩ := hostDoneAll_same s op st r0 r1; rw [e]
@[simp] theorem hostDoneAll_pins (s : State) (op st r0 r1 : Nat) : (hostDoneAll s op st r0 r1).pins = s.pins := by
  obtain ⟨_, _, _, e⟩ := hostDoneAll_same s op st r0 r1; rw [e]
@[simp] theorem hostDoneAll_fab (s : State) (op st r0 r1 : Nat) : (hostDoneAll s op st r0 r1).fab = s.fab := by
  obtain ⟨_, _, _, e⟩ := hostDoneAll_same s op st r0 r1; rw [e]
@[simp] theorem hostDoneAll_ldg (s : State) (op st r0 r1 : Nat) : (hostDoneAll s op st r0 r1).ldg = s.ldg := by
  obtain ⟨_, _, _, e⟩ := hostDoneAll_same s op st r0 r1; rw [e]
@[simp] theorem hostDoneAll_regs (s : State) (op st r0 r1 : Nat) : (hostDoneAll s op st r0 r1).regs = s.regs := by
  obtain ⟨_, _, _, e⟩ := hostDoneAll_same s op st r0 r1; rw [e]
@[simp] theorem hostDoneAll_mem_gddr (s : State) (op st r0 r1 : Nat) : (hostDoneAll s op st r0 r1).mem.gddr = s.mem.gddr := by
  obtain ⟨_, _, _, e⟩ := hostDoneAll_same s op st r0 r1; rw [e]
@[simp] theorem hostDoneAll_mem_cxl (s : State) (op st r0 r1 : Nat) : (hostDoneAll s op st r0 r1).mem.cxl = s.mem.cxl := by
  obtain ⟨_, _, _, e⟩ := hostDoneAll_same s op st r0 r1; rw [e]
@[simp] theorem hostDoneAll_getCore (s : State) (op st r0 r1 : Nat) (i : Nat) : getCore (hostDoneAll s op st r0 r1) i = getCore s i := by
  unfold getCore; simp

@[simp] theorem hostDoneAll_reg (s : State) (op st r0 r1 : Nat) (a : Nat) : reg (hostDoneAll s op st r0 r1) a = reg s a := by
  unfold reg; simp

/-! ### Completions tried again -/

@[simp] theorem hostRetry_pending (s : State)  : (hostRetry s).pending = s.pending := by
  obtain ⟨_, _, _, e⟩ := hostRetry_same s; rw [e]
@[simp] theorem hostRetry_free (s : State)  : (hostRetry s).free = s.free := by
  obtain ⟨_, _, _, e⟩ := hostRetry_same s; rw [e]
@[simp] theorem hostRetry_part832 (s : State)  : (hostRetry s).part832 = s.part832 := by
  obtain ⟨_, _, _, e⟩ := hostRetry_same s; rw [e]
@[simp] theorem hostRetry_repair (s : State)  : (hostRetry s).repair = s.repair := by
  obtain ⟨_, _, _, e⟩ := hostRetry_same s; rw [e]
@[simp] theorem hostRetry_cfg (s : State)  : (hostRetry s).cfg = s.cfg := by
  obtain ⟨_, _, _, e⟩ := hostRetry_same s; rw [e]
@[simp] theorem hostRetry_seq (s : State)  : (hostRetry s).seq = s.seq := by
  obtain ⟨_, _, _, e⟩ := hostRetry_same s; rw [e]
@[simp] theorem hostRetry_cores (s : State)  : (hostRetry s).cores = s.cores := by
  obtain ⟨_, _, _, e⟩ := hostRetry_same s; rw [e]
@[simp] theorem hostRetry_sync (s : State)  : (hostRetry s).sync = s.sync := by
  obtain ⟨_, _, _, e⟩ := hostRetry_same s; rw [e]
@[simp] theorem hostRetry_ce (s : State)  : (hostRetry s).ce = s.ce := by
  obtain ⟨_, _, _, e⟩ := hostRetry_same s; rw [e]
@[simp] theorem hostRetry_ceUid (s : State)  : (hostRetry s).ceUid = s.ceUid := by
  obtain ⟨_, _, _, e⟩ := hostRetry_same s; rw [e]
@[simp] theorem hostRetry_job (s : State)  : (hostRetry s).job = s.job := by
  obtain ⟨_, _, _, e⟩ := hostRetry_same s; rw [e]
@[simp] theorem hostRetry_tim (s : State)  : (hostRetry s).tim = s.tim := by
  obtain ⟨_, _, _, e⟩ := hostRetry_same s; rw [e]
@[simp] theorem hostRetry_dbg (s : State)  : (hostRetry s).dbg = s.dbg := by
  obtain ⟨_, _, _, e⟩ := hostRetry_same s; rw [e]
@[simp] theorem hostRetry_sec (s : State)  : (hostRetry s).sec = s.sec := by
  obtain ⟨_, _, _, e⟩ := hostRetry_same s; rw [e]
@[simp] theorem hostRetry_nor (s : State)  : (hostRetry s).nor = s.nor := by
  obtain ⟨_, _, _, e⟩ := hostRetry_same s; rw [e]
@[simp] theorem hostRetry_pwr (s : State)  : (hostRetry s).pwr = s.pwr := by
  obtain ⟨_, _, _, e⟩ := hostRetry_same s; rw [e]
@[simp] theorem hostRetry_pins (s : State)  : (hostRetry s).pins = s.pins := by
  obtain ⟨_, _, _, e⟩ := hostRetry_same s; rw [e]
@[simp] theorem hostRetry_fab (s : State)  : (hostRetry s).fab = s.fab := by
  obtain ⟨_, _, _, e⟩ := hostRetry_same s; rw [e]
@[simp] theorem hostRetry_ldg (s : State)  : (hostRetry s).ldg = s.ldg := by
  obtain ⟨_, _, _, e⟩ := hostRetry_same s; rw [e]
@[simp] theorem hostRetry_regs (s : State)  : (hostRetry s).regs = s.regs := by
  obtain ⟨_, _, _, e⟩ := hostRetry_same s; rw [e]
@[simp] theorem hostRetry_mem_gddr (s : State)  : (hostRetry s).mem.gddr = s.mem.gddr := by
  obtain ⟨_, _, _, e⟩ := hostRetry_same s; rw [e]
@[simp] theorem hostRetry_mem_cxl (s : State)  : (hostRetry s).mem.cxl = s.mem.cxl := by
  obtain ⟨_, _, _, e⟩ := hostRetry_same s; rw [e]
@[simp] theorem hostRetry_getCore (s : State)  (i : Nat) : getCore (hostRetry s) i = getCore s i := by
  unfold getCore; simp

@[simp] theorem hostRetry_reg (s : State)  (a : Nat) : reg (hostRetry s) a = reg s a := by
  unfold reg; simp

end Sys2Proof.Machine
end

