-- ==== Sys2Proof/Laws/Slots.lean ====
section
/-! SUPPORT. A slot command that nothing stands against issues and its operations run to their end; and what the shared steps of an
issue do to the core. -/

namespace Sys2Proof.Machine

/-- A core put into the state is read back unless it is a core as at job start. -/
theorem getCore_setCore (s : State) (i : Nat) (c : Core) (h : c ≠ Core.init) : getCore (setCore s i c) i = c :=
  smGet_smSet_val Core.init s.cores i c h

theorem getCore_setCore_ne (s : State) (i j : Nat) (c : Core) (h : j ≠ i) : getCore (setCore s i c) j = getCore s j :=
  smGet_smSet_ne Core.init s.cores i j c h

theorem ne_init_of_st (c : Core) (h : c.st ≠ .idle) : c ≠ Core.init := fun e => h (e ▸ rfl)

theorem getCore_modCore (s : State) (i : Nat) (f : Core → Core) (h : f (getCore s i) ≠ Core.init) :
    getCore (modCore s i f) i = f (getCore s i) := getCore_setCore s i _ h

theorem getCore_modCore_ne (s : State) (i j : Nat) (f : Core → Core) (h : j ≠ i) : getCore (modCore s i f) j = getCore s j :=
  getCore_setCore_ne s i j _ h

@[simp] theorem getCore_setReg (s : State) (a : Nat) (v : Word64) (i : Nat) : getCore (setReg s a v) i = getCore s i := rfl
@[simp] theorem getCore_bump (s : State) (a n i : Nat) : getCore (bump s a n) i = getCore s i := by unfold getCore; simp
@[simp] theorem getCore_record (s : State) (k : Nat) (x y : Word16) (p i : Nat) : getCore (record s k x y p) i = getCore s i := by
  unfold getCore; simp
@[simp] theorem getCore_trimLog (s : State) (i : Nat) : getCore (trimLog s) i = getCore s i := rfl
@[simp] theorem getCore_detBreak (s : State) (i : Nat) : getCore (detBreak s) i = getCore s i := by unfold detBreak; split <;> rfl
@[simp] theorem detBreak_seq (s : State) : (detBreak s).seq = s.seq := by unfold detBreak; split <;> rfl
@[simp] theorem detBreak_cores (s : State) : (detBreak s).cores = s.cores := by unfold detBreak; split <;> rfl
@[simp] theorem detBreak_mem (s : State) : (detBreak s).mem = s.mem := by unfold detBreak; split <;> rfl
@[simp] theorem detBreak_regs (s : State) : (detBreak s).regs = s.regs := by unfold detBreak; split <;> rfl

/-- Where no memory word has gone bad unseen, a reading meets no error (R135, R251, R260). -/
theorem meetBy_nil (s : State) (reads : Nat → Upset → Bool) (h : s.mem.upsets = []) : meetBy s reads = s := by
  obtain ⟨_, _, _, _, _, _, _, _, _, m⟩ := s
  cases m
  simp_all [meetBy]

theorem meet_nil (s : State) (core : Nat) (reads : Upset → Bool) (h : s.mem.upsets = []) : meet s core reads = s := meetBy_nil s _ h
theorem meetSpans_nil (s : State) (rs : List (Nat × Nat)) (h : s.mem.upsets = []) : meetSpans s rs = s := meetBy_nil s _ h

/-- A slot command that nothing stands against issues; its operations then run to their end. -/
theorem soloSlot_issues (s : State) (core : Nat) (sl : Slots) (h : SlotIssues s core sl) :
    soloSlot s core sl = settleUnit core 64 (issuedBy s core sl) := by
  obtain ⟨_, h1, h2, h3, h4, h5, h6, h7, h8, h9⟩ := h
  unfold soloSlot steps3to6 issuedBy
  simp [meet_nil _ _ _ h9, h1, h2, h3, h4, h5, h6, h7, h8]

theorem onCore_enabled (s : State) (core : Nat) (t : State) (h : coreOk s core = true) : onCore s core t = .next t := by
  simp [onCore, h]

/-! ### A core's counters -/

theorem plain_s (c : Core) (m : SMap Word16) : plain { c with s := m } = plain c := rfl

theorem detStir_core (s : State) (h : s.sync.det = .watch ∨ s.sync.det = .quiet) (i : Nat) :
    getCore (detStir s) i = getCore s i ∧ (detStir s).sync.det = .watch := by
  unfold detStir detLeave
  rcases h with h | h
  · simp [h]
  · simp [h]; rfl

/-- A counter that does not saturate goes up and nothing else of the core changes (R219). -/
theorem addS_core (s : State) (core i n : Nat) (hd : s.sync.det = .watch ∨ s.sync.det = .quiet)
    (hst : (getCore s core).st ≠ .idle) (hf : (smGet 0 (getCore s core).s i).toNat + n < 65536) :
    getCore (addS s core i n) core =
      { getCore s core with s := if n = 0 then (getCore s core).s else smSet 0 (getCore s core).s i (smGet 0 (getCore s core).s i + BitVec.ofNat 16 n) } := by
  unfold addS
  split
  · simp
  · have e : sincr (smGet 0 (getCore s core).s i) n = (smGet 0 (getCore s core).s i + BitVec.ofNat 16 n, false) := by
      unfold sincr
      rw [if_neg (by omega)]
      congr 1
      rw [← BitVec.toNat_inj]; simp
    simp only [e]
    have := detStir_core (setCore s core { getCore s core with s := smSet 0 (getCore s core).s i (smGet 0 (getCore s core).s i + BitVec.ofNat 16 n) }) hd core
    simp only [Bool.false_eq_true, if_false]
    rw [this.1, getCore_setCore]
    exact ne_init_of_st _ hst

/-- The detector is not BLOCKED, so that a step of a core is no withdrawal (R240). -/
def DetFree (s : State) : Prop := s.sync.det = .watch ∨ s.sync.det = .quiet

/-- A step of the module that breaks a quiet time leaves the detector free (R240). -/
theorem detFree_detBreak {s : State} (h : DetFree s) : DetFree (detBreak s) := by
  unfold detBreak
  split
  · exact .inl rfl
  · exact h

/-- `t` is `s` as far as core `i` goes, but for what the debug port holds of it. -/
def CoreSame (s t : State) (i : Nat) : Prop :=
  plain (getCore t i) = plain (getCore s i) ∧ (getCore t i).s = (getCore s i).s ∧ (getCore t i).flight = (getCore s i).flight ∧
  (getCore t i).st = (getCore s i).st ∧ (DetFree s → DetFree t)

theorem CoreSame.refl (s : State) (i : Nat) : CoreSame s s i := ⟨rfl, rfl, rfl, rfl, id⟩

theorem CoreSame.trans {s t u : State} {i : Nat} (h : CoreSame s t i) (k : CoreSame t u i) : CoreSame s u i :=
  ⟨k.1.trans h.1, k.2.1.trans h.2.1, k.2.2.1.trans h.2.2.1, k.2.2.2.1.trans h.2.2.2.1, fun d => k.2.2.2.2 (h.2.2.2.2 d)⟩

theorem dbgHaltCore_core (s : State) (hd : DetFree s) (core a b c d : Nat) : CoreSame s (dbgHaltCore s core a b c d) core := by
  unfold dbgHaltCore
  simp only
  split
  · exact .refl s core
  · let c1 : Core := { getCore s core with dbgHalt := true, dbgStep := false, dbgCause := a, dbgK := b, dbgAgent := c, dbgOff := d, latches := [] }
    have hne : c1 ≠ Core.init := fun e => by
      have := congrArg Core.dbgHalt e
      exact Bool.noConfusion this
    have h1 : getCore (record (setCore s core c1) kEvent srcDebug cDbgHalted (core % 1024 + a * 2 ^ 16 + b * 2 ^ 20)) core = c1 := by
      rw [getCore_record, getCore_setCore s core c1 hne]
    have h2 := detStir_core (record (setCore s core c1) kEvent srcDebug cDbgHalted (core % 1024 + a * 2 ^ 16 + b * 2 ^ 20)) (by simpa [DetFree] using hd) core
    unfold detStir at h2
    unfold CoreSame
    rw [h2.1, h1]
    exact ⟨rfl, rfl, rfl, rfl, fun _ => .inl h2.2⟩

theorem wpGo_core (core off n agent : Nat) (w : Bool) (f : Nat) :
    ∀ (k : Nat) (s : State), DetFree s → CoreSame s (wpGo core off n agent w f k s) core := by
  induction f with
  | zero => intro k s _; exact .refl s core
  | succ f ih =>
    intro k s hd
    unfold wpGo
    split
    · have h := dbgHaltCore_core s hd core 3 k agent (max off (regF s (aDbgWpA k) 21 0))
      exact h.trans (ih (k + 1) _ (h.2.2.2.2 hd))
    · exact ih (k + 1) s hd

/-- Watchpoints change nothing of a core but what the debug port holds of it (R613). -/
theorem touchAll_core (core : Nat) (l : List Touch) : ∀ s : State, DetFree s → CoreSame s (touchAll core l s) core := by
  induction l with
  | nil => intro s _; exact .refl s core
  | cons x l ih =>
    intro s hd
    obtain ⟨off, n, w, ag⟩ := x
    unfold touchAll bufTouch
    split
    · exact ih s hd
    · have h := wpGo_core core off n ag w 8 0 s hd
      exact h.trans (ih _ (h.2.2.2.2 hd))

/-- A done field counts and nothing else of the core changes (R24). -/
theorem doneAdvance_core (s : State) (core : Nat) (done : BitVec 6) (hd : DetFree s) (hst : (getCore s core).st ≠ .idle)
    (hf : done.toNat < 48 → (smGet 0 (getCore s core).s done.toNat).toNat < 65535) :
    getCore (doneAdvance s core done) core = { getCore s core with s := doneTo (getCore s core).s done } := by
  unfold doneAdvance doneTo
  split
  · rename_i h
    rw [addS_core s core done.toNat 1 hd hst (by have := hf h; omega)]
    rfl
  · rfl

/-- The end of an operation: it leaves flight and its done field counts (R92). -/
theorem finishOp_core (s : State) (core : Nat) (o : FOp) (hd : DetFree s) (hst : (getCore s core).st ≠ .idle)
    (hf : o.done.toNat < 48 → (smGet 0 (getCore s core).s o.done.toNat).toNat < 65535) :
    plain (getCore (finishOp s core o) core) = plain (getCore s core) ∧
    (getCore (finishOp s core o) core).s = doneTo (getCore s core).s o.done ∧
    (getCore (finishOp s core o) core).flight = (getCore s core).flight.filter (fun x => x.ord != o.ord) := by
  have key : ∀ t : State, CoreSame s t core →
      plain (getCore (doneAdvance (modCore t core (fun c => dropOp c o)) core o.done) core) = plain (getCore s core) ∧
      (getCore (doneAdvance (modCore t core (fun c => dropOp c o)) core o.done) core).s = doneTo (getCore s core).s o.done ∧
      (getCore (doneAdvance (modCore t core (fun c => dropOp c o)) core o.done) core).flight
        = (getCore s core).flight.filter (fun x => x.ord != o.ord) := by
    intro t ht
    obtain ⟨h1, h2, h3, h4, h5⟩ := ht
    have hne : dropOp (getCore t core) o ≠ Core.init := ne_init_of_st _ (by rw [show (dropOp (getCore t core) o).st = (getCore t core).st from rfl, h4]; exact hst)
    have e := getCore_modCore t core (fun c => dropOp c o) hne
    have hd' : DetFree (modCore t core (fun c => dropOp c o)) := h5 hd
    rw [doneAdvance_core _ core o.done hd' (by rw [e]; exact fun q => hst (h4 ▸ q))
      (by rw [e]; intro hq; rw [show (dropOp (getCore t core) o).s = (getCore t core).s from rfl, h2]; exact hf hq), e]
    refine ⟨?_, ?_, ?_⟩
    · rw [← h1]; rfl
    · show doneTo (getCore t core).s o.done = _
      rw [h2]
    · show (getCore t core).flight.filter _ = _
      rw [h3]
  unfold finishOp
  split
  · exact key s (.refl s core)
  · exact key _ (touchAll_core core _ s hd)

/-! ### Issue of one unit's slot -/

/-- Moving past a bundle without a C slot changes the place in the stream only. -/
theorem advance_nop (x : SeqCtx) (n p i : Nat) (c : Core) :
    plain (advance x n p i .nop c) = plain c ∧ (advance x n p i .nop c).s = c.s ∧ (advance x n p i .nop c).flight = c.flight ∧
    (advance x n p i .nop c).st = c.st := ⟨rfl, rfl, rfl, rfl⟩

/-- The state right after the issue of M, V or T slots that launch operations: the core, and the detector. -/
theorem issuedBy_units (s : State) (core : Nat) (sl : Slots) (he : effSlots (getCore s core).p sl = sl)
    (hs : sl.s = .nop) (hx : sl.x = .nop) (hc : sl.c = .nop) (hk : ¬(sl.vop = .vsr ∧ sl.v.fn = 0))
    (ht : ∀ a b c d e, sl.t ≠ .tcfg a b c d e)
    (hst : (issueT (issueV (issueM (issuing (getCore s core)) sl.m sl.mh (getCore s core).nextIdx) sl.vop sl.v sl.vh (getCore s core).nextIdx)
      sl.t sl.th (getCore s core).nextIdx).st = .issuing) :
    let c1 := issueT (issueV (issueM (issuing (getCore s core)) sl.m sl.mh (getCore s core).nextIdx) sl.vop sl.v sl.vh (getCore s core).nextIdx)
      sl.t sl.th (getCore s core).nextIdx
    plain (getCore (issuedBy s core sl) core) = plain c1 ∧ (getCore (issuedBy s core sl) core).s = c1.s ∧
    (getCore (issuedBy s core sl) core).flight = c1.flight ∧ (getCore (issuedBy s core sl) core).st = .issuing ∧
    (DetFree s → DetFree (issuedBy s core sl)) ∧ (issuedBy s core sl).mem = s.mem := by
  intro c1
  have e1 : ∀ t, instantDone (keyCount t core sl) core sl = t := by
    intro t
    unfold instantDone keyCount
    simp only [hk, if_false]
  have e2 : issuedBy s core sl = trimLog (modCore (detBreak (modCore s core (fun _ => c1))) core (fun c => effC s core .nop
      (advance s.seq.ctx s.seq.nextPos (getCore s core).nextPos (getCore s core).nextIdx .nop c))) := by
    unfold issuedBy issueAll
    rw [he]
    simp only [hs, hx, hc, lateS, issueX]
    rw [show (modCore s core fun c => issueT (issueV (issueM (takeS .nop { c with st := .issuing, wait := 0, cause := 0 }) sl.m sl.mh
      (soloBundle (getCore s core) s.seq.ctx).idx) sl.vop sl.v sl.vh (soloBundle (getCore s core) s.seq.ctx).idx) sl.t sl.th
      (soloBundle (getCore s core) s.seq.ctx).idx) = modCore s core (fun _ => c1) from rfl, e1, detBreak_seq]
    rfl
  have hne : c1 ≠ Core.init := ne_init_of_st _ (by rw [hst]; decide)
  have g1 : getCore (detBreak (modCore s core (fun _ => c1))) core = c1 := by rw [getCore_detBreak]; exact getCore_modCore s core _ hne
  have hne2 : (fun c => effC s core .nop (advance s.seq.ctx s.seq.nextPos (getCore s core).nextPos (getCore s core).nextIdx .nop c)) c1 ≠ Core.init :=
    ne_init_of_st _ (by show c1.st ≠ _; rw [hst]; decide)
  have g2 := getCore_modCore (detBreak (modCore s core (fun _ => c1))) core
    (fun c => effC s core .nop (advance s.seq.ctx s.seq.nextPos (getCore s core).nextPos (getCore s core).nextIdx .nop c)) (by rw [g1]; exact hne2)
  rw [g1] at g2
  rw [e2, getCore_trimLog, g2]
  exact ⟨rfl, rfl, rfl, hst, fun h => detFree_detBreak (s := modCore s core (fun _ => c1)) h, by
    show (detBreak (modCore s core (fun _ => c1))).mem = s.mem
    rw [detBreak_mem]; rfl⟩

theorem detFree_of_issues {s : State} {core : Nat} {sl : Slots} (hi : SlotIssues s core sl) : DetFree s := by
  have := hi.runs
  simp only [coreRuns, Bool.and_eq_true, Bool.or_eq_true, beq_iff_eq] at this
  exact this.1.1.1.1.2

@[simp] theorem launch_flight (c : Core) (b : OpBody) (h : Hdr) (i : Nat) (x y : Word64) :
    (launch c b h i x y).flight = c.flight ++ [launchOp c b h i x y] := rfl
@[simp] theorem launch_plain (c : Core) (b : OpBody) (h : Hdr) (i : Nat) (x y : Word64) :
    plain (launch c b h i x y) = plain c := rfl
@[simp] theorem launch_s (c : Core) (b : OpBody) (h : Hdr) (i : Nat) (x y : Word64) : (launch c b h i x y).s = c.s := rfl
@[simp] theorem launch_st (c : Core) (b : OpBody) (h : Hdr) (i : Nat) (x y : Word64) :
    (launch c b h i x y).st = c.st := rfl
@[simp] theorem issuing_flight (c : Core) : (issuing c).flight = c.flight := rfl
@[simp] theorem issuing_plain (c : Core) : plain (issuing c) = plain c := rfl
@[simp] theorem issuing_s (c : Core) : (issuing c).s = c.s := rfl
@[simp] theorem issuing_st (c : Core) : (issuing c).st = .issuing := rfl

/-- An idle core after the issue of a slot that launches one operation. -/
structure Launched (s : State) (core : Nat) (s1 : State) (o : FOp) : Prop where
  plain_eq : plain (getCore s1 core) = plain (getCore s core)
  s_eq : (getCore s1 core).s = (getCore s core).s
  flight_eq : (getCore s1 core).flight = [o]
  st_eq : (getCore s1 core).st = .issuing
  det : DetFree s1
  mem_eq : s1.mem = s.mem

/-- A core that is not as at job start, changed and then an operation of it ended (R92). -/
theorem finish_launched {s : State} {core : Nat} {s1 s2 : State} {o : FOp} (h : Launched s core s1 o) (hd2 : DetFree s2)
    (h2s : (getCore s2 core).s = (getCore s1 core).s) (h2f : (getCore s2 core).flight = (getCore s1 core).flight)
    (h2t : (getCore s2 core).st = .issuing)
    (hd : o.done.toNat < 48 → (smGet 0 (getCore s core).s o.done.toNat).toNat < 65535) :
    plain (getCore (finishOp s2 core o) core) = plain (getCore s2 core) ∧
    (getCore (finishOp s2 core o) core).s = doneTo (getCore s core).s o.done ∧ (getCore (finishOp s2 core o) core).flight = [] := by
  have hf := finishOp_core s2 core o hd2 (by rw [h2t]; decide) (by rw [h2s, h.s_eq]; exact hd)
  refine ⟨hf.1, ?_, ?_⟩
  · rw [hf.2.1, h2s, h.s_eq]
  · rw [hf.2.2, h2f, h.flight_eq]; simp

/-- One operation in flight that can complete does so, and the units are then at rest. -/
theorem settleUnit_one (core n : Nat) (s : State) (o : FOp) (hf : (getCore s core).flight = [o]) (hc : canComplete (getCore s core) o = true)
    (hr : (getCore (completeOp s core o) core).flight = []) : settleUnit core (n + 2) s = completeOp s core o := by
  have h2 : ∀ (m : Nat) (t : State), (getCore t core).flight = [] → settleUnit core m t = t := by
    intro m t ht
    cases m with
    | zero => rfl
    | succ m => simp [settleUnit, ht, oldestChain]
  unfold settleUnit
  simp only [hf, List.find?_cons, hc]
  exact h2 _ _ hr

/-- An idle core after the issue of a slot that launches one operation. -/
theorem launched_of (s : State) (core : Nat) (sl : Slots) (b : OpBody) (h : Hdr) (a1 a2 : Word64)
    (hi : SlotIssues s core sl) (he : effSlots (getCore s core).p sl = sl) (hs : sl.s = .nop) (hx : sl.x = .nop) (hc : sl.c = .nop)
    (hk : ¬(sl.vop = .vsr ∧ sl.v.fn = 0)) (ht : ∀ a b c d e, sl.t ≠ .tcfg a b c d e) (hfl : (getCore s core).flight = [])
    (hl : issueT (issueV (issueM (issuing (getCore s core)) sl.m sl.mh (getCore s core).nextIdx) sl.vop sl.v sl.vh (getCore s core).nextIdx)
      sl.t sl.th (getCore s core).nextIdx = launch (issuing (getCore s core)) b h (getCore s core).nextIdx a1 a2) :
    Launched s core (issuedBy s core sl) (launchOp (issuing (getCore s core)) b h (getCore s core).nextIdx a1 a2) := by
  obtain ⟨b1, b2, b3, b4, b5, b6⟩ := issuedBy_units s core sl he hs hx hc hk ht (by rw [hl]; rfl)
  rw [hl] at b1 b2 b3
  exact ⟨b1, b2, by rw [b3]; simp [hfl], b4, b5 (detFree_of_issues hi), b6⟩

/-- What a slot command with one operation comes to, when its completion changes the core and then ends it. -/
theorem solo_result {s : State} {core : Nat} {sl : Slots} {o : FOp} {s2 : State} (hi : SlotIssues s core sl)
    (hL : Launched s core (issuedBy s core sl) o) (hc : canComplete (getCore (issuedBy s core sl) core) o = true)
    (hco : completeOp (issuedBy s core sl) core o = finishOp s2 core o) (hd2 : DetFree s2)
    (h2s : (getCore s2 core).s = (getCore (issuedBy s core sl) core).s)
    (h2f : (getCore s2 core).flight = (getCore (issuedBy s core sl) core).flight) (h2t : (getCore s2 core).st = .issuing)
    (hd : o.done.toNat < 48 → (smGet 0 (getCore s core).s o.done.toNat).toNat < 65535) :
    onCore s core (soloSlot s core sl) = .next (finishOp s2 core o) ∧
    plain (getCore (finishOp s2 core o) core) = plain (getCore s2 core) ∧
    (getCore (finishOp s2 core o) core).s = doneTo (getCore s core).s o.done ∧ (getCore (finishOp s2 core o) core).flight = [] := by
  have hf := finish_launched hL hd2 h2s h2f h2t hd
  refine ⟨?_, hf⟩
  rw [onCore_enabled _ _ _ hi.enabled, soloSlot_issues _ _ _ hi, settleUnit_one core 62 _ o hL.flight_eq hc (by rw [hco]; exact hf.2.2), hco]

end Sys2Proof.Machine
end

