-- ==== Sys2Proof/WellFormed.lean ====
section
/-! DEFINITION. Well-formed commands: operands that name what some part of the spec has. The meanings are total; these checks say which
commands a sender of the spec can form. -/

namespace Sys2Proof

/-- A logical core ID of the larger part (R4). -/
def coreFits (n : Nat) : Bool := decide (n < 896)

/-- A link number (R315). -/
def linkFits (n : Nat) : Bool := decide (n < 36)

/-- A CRC error is cleared by 1 to 4 retries (R305). -/
def eccFits (e : EccOutcome) : Bool := match e with | .crcRetried n => decide (1 ≤ n) && decide (n ≤ 4) | _ => true

/-- A flit has 640 bytes (R320). -/
def flitFits (raw : List Byte) : Bool := raw.length == 640

/-- A Falcon-1024 public key has 1,793 bytes (R511). -/
def keyFits (k : List Byte) : Bool := k.length == 1793

/-- A Ledger record has 32 bytes (R474). -/
def recordFits (r : List Byte) : Bool := r.length == 32

/-- An attestation nonce has 32 bytes (R523). -/
def nonceFits (n : List Byte) : Bool := n.length == 32

/-- One junction per field (R589). -/
def fieldsFit (tj : List Int) : Bool := tj.length == 4

/-- One entry per CXL port. -/
def bootFits (o : BootOutcome) : Bool := o.cxl.length == 4 && o.cxlLevel.length == 4 && o.cxlTimeout.length == 4

/-- A packet carries its payload; only an RD_REQ names a length and carries none (R325). -/
def packetFits (p : Packet) : Bool := if p.typ = 2 then p.payload.isEmpty else p.payload.length == p.len.toNat

/-- The index of a failed copy: a core, or an engine. -/
def retryFits (isLcu : Bool) (i : Nat) : Bool := if isLcu then coreFits i else decide (i < 16)

/-- Whether a command is well formed. -/
def Instr.wf (i : Instr) : Bool :=
  match i with
  | .bundleFetch => true
  | .bundleMulticast => true
  | .bundleIssue core => coreFits core
  | .mld core _ _ _ _ => coreFits core
  | .mswap core _ => coreFits core
  | .mmul core _ _ _ _ _ _ _ _ _ _ _ => coreFits core
  | .mmulz core _ _ _ _ _ _ _ _ _ _ _ => coreFits core
  | .mdrain core _ _ _ _ _ _ _ _ _ _ => coreFits core
  | .mtopk core _ _ _ _ _ _ _ _ _ _ => coreFits core
  | .passStart core _ => coreFits core
  | .chainCommit core => coreFits core
  | .operationCommit core _ => coreFits core
  | .vop core _ _ => coreFits core
  | .vcvt core _ _ => coreFits core
  | .vred core _ _ => coreFits core
  | .vscale core _ _ => coreFits core
  | .vrq core _ _ => coreFits core
  | .vfn core _ _ => coreFits core
  | .vsrKey core _ _ => coreFits core
  | .vsrDraw core _ _ => coreFits core
  | .vadam core _ _ => coreFits core
  | .tcfg core _ _ _ _ _ _ => coreFits core
  | .tld core _ _ _ _ _ _ => coreFits core
  | .tst core _ _ _ _ _ _ => coreFits core
  | .tmov core _ _ _ _ _ => coreFits core
  | .tzero core _ _ _ => coreFits core
  | .txp core _ _ _ _ _ => coreFits core
  | .xloc core _ _ _ => coreFits core
  | .xstr core _ _ _ _ => coreFits core
  | .xcol core _ _ _ _ => coreFits core
  | .xwatchArm core _ _ _ => coreFits core
  | .xwatchRelease core _ _ _ => coreFits core
  | .xfence core _ _ _ _ _ => coreFits core
  | .xfenceComplete core => coreFits core
  | .sinc core _ _ _ => coreFits core
  | .swait core _ _ _ => coreFits core
  | .sdec core _ _ _ => coreFits core
  | .ssig core _ _ _ => coreFits core
  | .sbar core _ _ _ => coreFits core
  | .cloop core _ _ _ _ _ => coreFits core
  | .cbr core _ _ => coreFits core
  | .cvar _ _ => true
  | .cadd core _ _ _ _ => coreFits core
  | .cset core _ _ _ _ _ _ => coreFits core
  | .cmark core _ _ _ => coreFits core
  | .chalt core _ => coreFits core
  | .jobDone => true
  | .trainingStepCommit => true
  | .seqTablePoll => true
  | .seqRun => true
  | .seqHalt => true
  | .haltDrainComplete => true
  | .haltTimeout core => coreFits core
  | .seqResume => true
  | .barrierRelease _ => true
  | .signalRelease _ _ => true
  | .quietWindowElapsed => true
  | .blockedReport _ _ _ _ => true
  | .withdraw _ => true
  | .jobDeadlockMessage _ _ => true
  | .lcuCopyStart core _ _ => coreFits core
  | .lcuCopyComplete core => coreFits core
  | .tornReread core _ => coreFits core
  | .lcuRetryGo core _ => coreFits core
  | .lcuRetryAbort core => coreFits core
  | .mcRequest _ outcome => eccFits outcome
  | .gddr7Scrub _ _ outcome => eccFits outcome
  | .cxlPortDown _ => true
  | .sanitizeComplete _ _ => true
  | .sanitizeTimeout _ => true
  | .trainingAttemptEnd link _ => linkFits link
  | .hello link _ _ _ _ _ _ => linkFits link
  | .laneUnhealthy link _ => linkFits link
  | .retrainLock link => linkFits link
  | .retrainTimeout link => linkFits link
  | .flitSend link => linkFits link
  | .dataFlit link _ raw => linkFits link && flitFits raw
  | .idleFlit link _ raw => linkFits link && flitFits raw
  | .nak link _ => linkFits link
  | .wr link p => linkFits link && packetFits p
  | .rdReq link p => linkFits link && packetFits p && (match p.guard with | some e => decide (e.1 < e.2) && decide (e.2 ≤ 2 ^ 46) | none => true)
  | .rdRsp link p => linkFits link && packetFits p
  | .sig link p => linkFits link && packetFits p
  | .ack link p => linkFits link && packetFits p
  | .ackc link p => linkFits link && packetFits p
  | .nack link p => linkFits link && packetFits p
  | .err link p => linkFits link && packetFits p
  | .e2eResendTimeout _ _ => true
  | .nackResend _ _ => true
  | .tc0Release => true
  | .tc0GapTimeout _ => true
  | .syncExchangeTimer => true
  | .syncReq link _ _ _ => linkFits link
  | .syncRsp link _ _ _ _ => linkFits link
  | .holdoverExpiry => true
  | .ppsEdge => true
  | .ppsTimeout => true
  | .ceOperationStart _ _ => true
  | .ceOperationComplete _ => true
  | .collectiveStep _ _ => true
  | .collectiveRelease _ => true
  | .bucketCommit _ => true
  | .ceRetryGo _ _ _ => true
  | .ceRetryAbort _ _ _ => true
  | .snapRequest _ => true
  | .recoveryRetry isLcu index _ _ => retryFits isLcu index
  | .heartbeatSend => true
  | .heartbeat _ _ => true
  | .heartbeatTimeout => true
  | .failureNotice _ _ _ _ _ _ _ => true
  | .report _ _ _ => true
  | .reportResendTimeout => true
  | .reportTimeout _ => true
  | .plan _ _ _ _ _ => true
  | .restoreComplete => true
  | .permit _ _ _ _ _ _ => true
  | .securingCopiesComplete => true
  | .securingCloseComplete => true
  | .genDone _ _ _ _ _ _ _ => true
  | .feedTagCheck => true
  | .ledgerFlushComplete _ => true
  | .ledgerClearComplete => true
  | .accountingWindowBoundary => true
  | .ldgFreeze _ => true
  | .unfreeze => true
  | .freezeExpiry => true
  | .ledgerQuery _ _ _ _ => true
  | .ledgerAnswer _ _ record => recordFits record
  | .registration key => keyFits key
  | .unlock => true
  | .deregistration => true
  | .retire => true
  | .secRelock => true
  | .lcTransitionComplete => true
  | .wipeComplete _ _ _ => true
  | .holdTimeExpiry => true
  | .powerUp o => bootFits o
  | .cxlTrainTimeout _ => true
  | .resetN => true
  | .watchdogExpiry o => bootFits o
  | .bootWdogKick => true
  | .hostSqTail _ _ _ => true
  | .hostCqHead _ _ => true
  | .hostQcfg _ _ _ _ => true
  | .load _ _ _ _ _ => true
  | .start _ _ => true
  | .preempt _ _ => true
  | .resume _ _ => true
  | .unload _ _ => true
  | .restart _ _ _ _ _ _ => true
  | .snapshot _ _ _ _ => true
  | .wipeOndie _ _ => true
  | .ledgerRead _ _ _ _ _ _ _ => true
  | .ledgerFreeze _ _ _ _ => true
  | .ledgerClear _ _ _ _ _ => true
  | .security _ _ _ _ _ _ => true
  | .attest _ _ nonce _ _ => nonceFits nonce
  | .flashWrite _ _ _ _ _ _ => true
  | .reset _ _ _ o => bootFits o
  | .hostCtrlReset _ o => bootFits o
  | .relock _ _ => true
  | .ready _ => true
  | .go _ _ => true
  | .abort _ _ => true
  | .startWindowExpiry => true
  | .preemptMsg _ _ => true
  | .drained _ _ _ => true
  | .quiesce _ _ => true
  | .resumeMsg _ _ => true
  | .restored _ => true
  | .pcieLinkDown => true
  | .hostPerstN => true
  | .pwrFailN _ => true
  | .powerLoopTick _ _ _ tj _ _ => fieldsFit tj
  | .energyAdd _ => true
  | .overtempSense _ _ => true
  | .tripRailTimeout => true
  | .railOutOfRange => true
  | .timSnap => true
  | .tapReset => true
  | .extest _ => true
  | .idcode => true
  | .samplePreload _ => true
  | .dap => true
  | .dstat => true
  | .bypass => true
  | .dapRead _ => true
  | .dapWrite _ _ => true
  | .dapNop => true
  | .dbgCoreHalt core => coreFits core
  | .dbgCoreResume core => coreFits core
  | .dbgCoreStep core => coreFits core
  | .dbgChalt => true
  | .dbgCresume => true
  | .dbgReset _ o => bootFits o
  | .mboxSecurity _ _ => true
  | .mboxLedgerClear _ _ => true
  | .mboxFlashWrite _ _ _ => true
  | .mboxProvision => true
  | .mboxCertWrite _ => true
  | .registerWrite _ _ _ => true
  | .neighbourRetrain link => linkFits link
  | .securingOpenComplete => true
  | .pcieLinkUp _ _ => true
  | .resetNRelease o => bootFits o

end Sys2Proof
end

