-- ==== Sys2Proof/Tests/Slice0.lean ====
section
/-! SUPPORT. Tests: an ill-formed command for each check of WellFormed.lean, the worked examples of the spec, small states of one module, and
for every obligation a witness that its hypotheses can be met together, clause by clause. Expected values come from the spec's worked
examples (and from FIPS 202 for the hash of the empty message). -/

open Sys2Proof Sys2Proof.Machine
namespace Sys2Proof.Tests

-- one theorem after another: the long evaluations would otherwise all run at once
set_option Elab.async false

/-! ### Ill-formed commands are refused by WellFormed -/

theorem test_wf_core : (Instr.mswap 896 ⟨0, 0⟩).wf = false ∧ (Instr.mswap 895 ⟨0, 0⟩).wf = true := by decide
theorem test_wf_link : (Instr.retrainLock 36).wf = false ∧ (Instr.retrainLock 35).wf = true := by decide
theorem test_wf_ecc : (Instr.mcRequest 0 (.crcRetried 5)).wf = false ∧ (Instr.mcRequest 0 (.crcRetried 0)).wf = false := by decide
theorem test_wf_flit : (Instr.dataFlit 0 .clean [0]).wf = false := by decide
theorem test_wf_key : (Instr.registration [0]).wf = false := by decide
theorem test_wf_record : (Instr.ledgerAnswer 0 0 [0]).wf = false := by decide
theorem test_wf_nonce : (Instr.attest 0 0 [0] 0 false).wf = false := by decide
theorem test_wf_fields : (Instr.powerLoopTick 0 0 0 [1] 0 0).wf = false := by decide
theorem test_wf_boot :
    (Instr.powerUp ⟨true, true, true, true, true, true, none, none, [], [], [], false, true, 0, 0, 0, 0⟩).wf = false := by decide
theorem test_wf_packet :
    (Instr.wr 0 ⟨1, 2, 0, 1, 0, false, false, 0, 5, 9, 0, 2, 0, 0, 0, false, [1], none, false⟩).wf = false
      ∧ (Instr.rdReq 0 ⟨2, 2, 0, 1, 0, false, false, 0, 5, 9, 0, 2, 0, 0, 0, false, [1], none, false⟩).wf = false := by decide
theorem test_wf_retry : (Instr.recoveryRetry true 896 0 false).wf = false ∧ (Instr.recoveryRetry false 16 0 false).wf = false := by decide

/-! ### Worked examples of the spec -/

/-- The twelve E5M2 products of the worked example of 05. -/
def cancel : List Machine.Num :=
  fpProds ⟨true, 4, 1, 0, 1, 12, false, 0⟩ { StatSet.none with fmt := 4 } none
    [0x7B, 0xFB, 0x01, 0x01, 0x7B, 0x3C, 0x3E, 0x00, 0xFB, 0, 0, 0] [0x7B, 0x7B, 0x01, 0x01, 0x7B, 0x3C, 0x40, 0x3C, 0x7B, 0x3C, 0x3C, 0x3C]

/-- 05, worked example, modes 0 to 2: +0, +0 and 4.0. -/
theorem test_cancellation : [4, 8, 16].map (fun g => toF32 (accGroups g (ofF32 0) cancel)) = [0, 0, 0x40800000] := by decide +kernel

/-- 05, worked example, mode 3: the slot V = 2^34 + 2. -/
theorem test_cancellation_tally : slotNat (cancel.foldl slotAddProd Slot96.zero) = 0x400000002 := by decide +kernel

/-- 06, worked example: INT8 products with zero points, −16,279. -/
theorem test_zero_points :
    (intTerms ⟨true, 11, 1, 4, 1, 4, false, 0xFD83⟩ { StatSet.none with fmt := 10 } [131, 200, 60, 255] [10, 0xFC, 7, 0x80]).foldl (· + ·) 0
      = -16279 := by decide +kernel

/-- 06, worked example: that element requantised to UINT8, 0x0D. -/
theorem test_requantise :
    requant 11 (reqEntry [0xAE, 0x47, 0xE1, 0x7A, 0xE8, 0x03, 0, 0, 0x26, 0x80, 0, 0, 0, 0, 0, 0]) (.ofInt (-16279)) 0 0 = 0x0D := by
  decide +kernel

/-- 06, worked example: a row drained to E4M3 with s = 3 (scale byte 0x82), and with s clamped to 2. -/
def drained : List Machine.Num := [.fin false 4001 (-2), .ofInt (-3584), .fin false 1 (-9)]
theorem test_row_scale : scaleByte8 (rowScale8 3 (-14) 20 drained) = 0x82
    ∧ scaleRow8 3 (rowScale8 3 (-14) 20 drained) (drained.map (fun x => (x, 0))) 0 = [0x70, 0xFE, 0x00] := by decide +kernel
theorem test_row_scale_clamped : rowScale8 3 (-14) 2 drained = some (2, true)
    ∧ (scaleRow8 3 (rowScale8 3 (-14) 2 drained) (drained.map (fun x => (x, 0))) 0).take 2 = [0x78, 0xFE] := by decide +kernel

/-- 07, worked example: stochastic rounding of 0x3F806000 to BF16 by two Mint words. -/
theorem test_stochastic : encodeElem 1 (ofF32 0x3F806000) 2 0x5A1F0C33 = 0x3F81 ∧ encodeElem 1 (ofF32 0x3F806000) 2 0xC0021D90 = 0x3F80 := by
  decide +kernel

/-- 07, worked example: the element's index. -/
theorem test_mint_index : mintIndex false 581 7340544 7168 3 10 = 0x70560A := by decide +kernel

/-- 04, worked example: S[200][60] lies at offset 0x13C of the region. -/
theorem test_stream_place : streamElem 3 256 (zeros 0x13C ++ [0x77]) 200 60 = 0x77 := by decide +kernel

/-- 10, worked example: controller, local address and window entry of one address. -/
theorem test_address : mcOf 0x60015E33C = 9 ∧ mcLocal 0x60015E33C = 0x60015E3C ∧ wtIndex 0x60015E33C = 12288 := by decide +kernel

/-- 11, worked example: delay 95, offset +45, trims of 200 and 160 ppm. -/
theorem test_exchange : syncTheta 1000000000 1000000140 1000000350 1000000400 = 45
    ∧ syncDelay 1000000000 1000000140 1000000350 1000000400 = 95 ∧ trimFor 45 = 20000 ∧ trimFor 20 = 16000 := by decide +kernel

/-- 12, worked example: element 7,171,000 in replica 3 lies in place 31 at 0x1B5A70. -/
theorem test_layout :
    mapPlace ⟨2, 1, 64, 512, 0, [⟨7168, 128, 8, 2⟩, ⟨7168, 7168, 1, 1792⟩], false⟩ 3 7171000 = (31, 0x1B5A70) := by decide +kernel

/-- 21, worked example: CORE_STATUS of core 581 that waits at step 3 of R39 reads 0x62. -/
theorem test_core_status :
    regView { State.reset with seq := { Seq.init with st := .running }, cores := [(581, { Core.init with st := .waiting, wait := 3 })] } 0x3E00917C0008
      = some 0x62 := by decide +kernel

/-- 03, worked example: the TCFG word. -/
theorem test_tcfg_word : decT 0x10FCEBF87E600000 = some (.tcfg 7 5 63 63 3) := by decide +kernel

/-- FIPS 202: SHAKE256 of the empty message. -/
theorem test_shake_empty : (shake64 []).take 8 = [0x46, 0xB9, 0xDD, 0x2B, 0x0B, 0xA8, 0x8D, 0x13] := by decide +kernel

/-! ### One step -/

/-- A waiting command is taken from the front. -/
theorem test_step_front : (match step { State.reset with pending := [.tapReset, .idcode] } with | .next t => t.pending | _ => []) = [.idcode] := by
  decide +kernel

/-- A word of the table spells no command. -/
theorem test_fetch_word : State.reset.withFetchWord 8 5 = State.reset := rfl

/-! ### States -/

/-- Rails up, no wipe under way. -/
def on : State := { State.reset with pwr := { State.reset.pwr with rails := .up }, sec := { State.reset.sec with wipe := none } }

/-- A job runs. -/
def run : State := { on with seq := { on.seq with st := .running, run := true }, job := { on.job with st := .running } }

/-- A core with FP32 tiles 1 to 3, E4M3 tiles 4 and 5, BF16 tiles 6 to 8 and 9, an FP32 row in tile 1, and registers. -/
def cs : Core := { Core.init with
  shapes := [(1, ⟨1, 0, 2, 2⟩), (2, ⟨2, 0, 2, 2⟩), (3, ⟨3, 0, 2, 2⟩), (4, ⟨4, 3, 2, 2⟩), (5, ⟨5, 3, 2, 64⟩), (6, ⟨6, 1, 1, 2⟩), (7, ⟨7, 1, 1, 2⟩),
    (8, ⟨8, 1, 1, 2⟩), (9, ⟨9, 0, 2, 1⟩), (10, ⟨10, 0, 2, 64⟩), (11, ⟨11, 14, 2, 1⟩), (12, ⟨12, 11, 1, 512⟩),
    (13, ⟨13, 1, 1, 2⟩)]
  comb := [(8194, 0x80), (8195, 0x3F), (16387, 0x40)]
  a := [(1, 0x40), (2, 0x100)]
  s := [(2, 5)] }

/-- That core as core 3 of a running job, with a scale window. -/
def rs : State := setReg { run with cores := [(3, cs)] } (aArr 3 + 0x30) 0x700

/-- Every condition of an issue, as one decidable proposition. -/
theorem issues_of (s : State) (core : Nat) (sl : Slots)
    (h : coreOk s core = true ∧ coreRuns s (getCore s core) = true ∧ operandBad sl = false ∧ uniformBad sl = false
      ∧ step2 s core (getCore s core) (soloBundle (getCore s core) s.seq.ctx) (getCore s core).nextPos (getCore s core).nextIdx
        (effSlots (getCore s core).p sl) = none
      ∧ step3Ok (getCore s core) (effSlots (getCore s core).p sl).s = true
      ∧ step4Waits s core (getCore s core) false (effSlots (getCore s core).p sl) = false
      ∧ step5Cause s (getCore s core) (effSlots (getCore s core).p sl) = 0
      ∧ check6 s (getCore s core) (effSlots (getCore s core).p sl) = none ∧ s.mem.upsets = []) : SlotIssues s core sl := by
  obtain ⟨a, b, c, d, e, f, g, i, j, k⟩ := h
  exact { enabled := a, runs := b, operands := c, uniform := d, passes2 := e, passes3 := f, passes4 := g, passes5 := i, passes6 := j, sound := k }

/-- A command that issues alone. -/
theorem alone_of (s : State) (core : Nat) (sl : Slots) (h : Hdr) (hi : SlotIssues s core sl)
    (hp : predTrue (getCore s core).p h.pred = true ∧ (getCore s core).flight = []
      ∧ (h.done.toNat < 48 → (smGet 0 (getCore s core).s h.done.toNat).toNat < 65535)) : RunsAlone s core sl h :=
  ⟨hi, hp.1, hp.2.1, hp.2.2⟩

/-- A state with `c` as core 3 of a running job. -/
def rc (c : Core) : State := { run with cores := [(3, c)] }

/-- Bytes of a buffer or a memory. -/
def bytesAt (a : Nat) (l : List Byte) : Memory := memWrites [] a l

/-- A core with a stationary set of BF16 values, for MMUL. -/
def rm : State := rc { cs with act := { StatSet.none with loaded := true, cls := 0, fmt := 3, k := 2, n := 2, rows := 2, elems := 2, data := [] } }

/-- A core with an AdamW block whose skip word is `k`. -/
def rv (k : Byte) : State := rc { cs with buf := if k = 0 then [] else [(0x40 + 32, k)] }

/-- A sequencer that fetches, with a variant table at 0x1000 that names a variant of 5 bundles. -/
def rf : State :=
  let s := setReg (setReg rs aSeqVtab 0x1000) aSeqImgLen 100
  { s with mem := { s.mem with gddr := [(0, 7), (0x1000, 5), (0x1004, 5), (0x1008, 1)] } }

/-- A signal descriptor at buffer offset 0x40, to device bytes `a`, `b`, core 3, counter 2, amount 1. -/
def rsig (a b : Byte) : State := rc { cs with buf := bytesAt 0x40 [a, b, 0, 0, 3, 0, 2, 0, 1] }

/-- A copy descriptor at 0x40: buffer 0x400 to buffer 0x800, one row of 16 FP32. -/
def dcp : List Byte := slice ([0x11, 0, 0, 0, 0, 0, 0, 0, 0, 4, 0, 0, 0, 0, 0, 0, 0, 8] ++ zeros 18 ++ [15]) 0 64
def rcp : State := rc { cs with buf := bytesAt 0x40 dcp }

/-- An XSTR descriptor: GDDR7 0x10000 to 0x20000, one row of 16 FP32, class 2. -/
def dstr : List Byte := slice ([1, 0, 0, 2, 0, 0, 0, 0, 0, 0, 1, 0, 0, 0, 0, 0, 0, 0, 2, 0, 0, 0, 0, 0, 15]) 0 128
def rstr : State := rc { cs with buf := bytesAt 0x40 dstr }

/-- An XCOL descriptor: an all-gather of BF16, class 2, epoch 1. -/
def dcol : List Byte := slice ([2, 0x11, 0, 2] ++ zeros 12 ++ [1]) 0 128
def rcol : State := rc { cs with buf := bytesAt 0x40 dcol }

/-- An XWATCH descriptor of operation `op` on handle 0, 64 bytes from 0x2000. -/
def rwat (op : Byte) (h : SMap Handle) : State := rc { cs with handles := h, buf := bytesAt 0x40 [op, 0, 0, 0, 0, 0, 0, 0, 0, 0x20, 0, 0, 0, 0, 0, 0, 64] }

/-- A bundle of no operations at image index 0, and its bytes. -/
def nopBundle : Bundle := ⟨0, 0, false, BitVec.ofNat 512 (2 ^ 508), ⟨[], none, 0⟩⟩

/-- A fetched bundle waits for core 3, whose window table admits the first granule. -/
def rb : State := { setReg rs aSeqImgLen 100 with
  seq := { rs.seq with log := [nopBundle], fetchQ := [nopBundle], miss := true, poll := false }
  mem := { rs.mem with gddr := [(0, 0x1F), (64, 0x10)] } }

/-- An MMULZ in flight, and the same one after its pass. -/
def fop : FOp := ⟨0, .m (.mmul true 1 0 0 0 3 0 1 1 false 0), 63, 0, 0, 0x40, [], .zero, 0, 0, false, .none, .clean, [], [], 0, false⟩
def fop1 : FOp := { fop with started := true, set := (getCore rm 3).act, snap := zeros 64 }
def rfl1 (o : FOp) : State := rc { getCore rm 3 with st := .issuing, flight := [o], nextOrd := 1, nextChain := 1 }

/-- Job states: device 0 leads members 0, 5 and 6; or device 5 leads. -/
def jl (st : JobSt) : State := { setReg on aSeqImgLen 100 with job := { on.job with st := st, members := [0, 5, 6], leads := [0, 5] } }
def jm (st : JobSt) : State := { jl st with job := { (jl st).job with leads := [5, 0] } }
def jr : State := { jl .running with seq := { on.seq with st := .running, run := true } }

/-- A time base of a minute. -/
def late (s : State) : State := { s with tim := { s.tim with acc := 60000000000 * 2 ^ 32 } }

/-- Every core with the same contents. -/
def allCores (s : State) (c : Core) : State := { s with cores := (List.range (nCores s)).map (fun i => (i, c)) }

/-- Devices 0 and 5 have sent READY; 6 sends it. -/
theorem ready_all (d : BitVec 14) (h : (liveMembers (jl .starting)).contains d = true) : d = 6 ∨ ([0, 5] : List (BitVec 14)).contains d = true := by
  simp [liveMembers, jl] at h
  simp
  tauto

/-- A running module with link 0 up. -/
def up0 : Link := { Link.init with st := .up, lanes := 4, fpl := 2, ndev := 5 }
def lk (l : Link) : State := { jr with fab := { jr.fab with links := [(0, l)] }, mem := { jr.mem with gddr := [(0, 0x1F), (0x1000, 7)] } }

/-- A packet of device 5 on context 9. -/
def pk (typ : BitVec 4) (len : BitVec 13) (pay : List Byte) : Packet :=
  ⟨typ, 2, 0, 1, 0, false, false, 0, 5, 9, 0, len, 0, 0x1000, 0, false, pay, none, false⟩

/-- A data flit with its CRC. -/
def rawFlit (h : List Byte) : List Byte := slice h 0 632 ++ leBytes 8 (crc64 (slice h 0 632)).toNat

theorem slice_length (l : List Byte) (a n : Nat) : (slice l a n).length = n := by
  simp only [slice, zeros, List.length_append, List.length_take, List.length_drop, List.length_replicate]
  omega

theorem slice_left (b c : List Byte) : slice (b ++ c) 0 b.length = b := by simp [slice, zeros]

theorem slice_right (b c : List Byte) : slice (b ++ c) b.length c.length = c := by simp [slice, zeros]

theorem leBytes_length (n v : Nat) : (leBytes n v).length = n := by
  induction n generalizing v with
  | zero => rfl
  | succ n ih => simp [leBytes, ih]

theorem leNat_leBytes (n v : Nat) (h : v < 256 ^ n) : leNat (leBytes n v) = v := by
  induction n generalizing v with
  | zero => simp [leBytes, leNat]; omega
  | succ n ih =>
    have h2 : v / 256 < 256 ^ n := Nat.div_lt_of_lt_mul (by rw [Nat.pow_succ] at h; omega)
    simp only [leBytes, leNat, ih _ h2, BitVec.toNat_ofNat]
    omega

/-- Such a flit is good unless its correction failed. -/
theorem rawFlit_ok (h : List Byte) : flitOk .clean (rawFlit h) = true := by
  have h1 : slice (rawFlit h) 0 632 = slice h 0 632 := by
    have := slice_left (slice h 0 632) (leBytes 8 (crc64 (slice h 0 632)).toNat)
    rwa [slice_length] at this
  have h2 : fieldAt (rawFlit h) 632 8 = (crc64 (slice h 0 632)).toNat := by
    have := slice_right (slice h 0 632) (leBytes 8 (crc64 (slice h 0 632)).toNat)
    rw [slice_length, leBytes_length] at this
    rw [fieldAt, rawFlit, this, leNat_leBytes _ _ (by have := (crc64 (slice h 0 632)).isLt; omega)]
  rw [flitOk, h1, h2, beq_self_eq_true]
  rfl

/-- A packet to device 5 on context 9 in flight. -/
def txq : TxPkt := ⟨{ pk 1 64 (zeros 64) with dst := 5, src := 0 }, .ce 2 1 0, 0, false⟩
def ltx (q : TxPkt) : State := { lk up0 with fab := { (lk up0).fab with tx := [(txKey 9 5, ⟨1, [q], [], []⟩)] } }

/-- An operation of a copy engine. -/
def cop : CeOp := { newCeOp 3 2 .copy dstr 63 0 0 with started := true, todo := 0, uid := 1 }

/-- A failure message of device 5's heartbeat. -/
def hb : Tc0 := ⟨4, 5, 0, 0, 0, zeros 16, false, 0, 63⟩

/-! ### Time, copies, engines -/

/-- A child of the device on link 0, with the given synchronisation state. -/
def tm (st : Word64) : State := { setReg (lk up0) 0x3F0000800040 st with tim := { (lk up0).tim with started := true } }
/-- A root. -/
def tr (st : Word64) (n : Nat) (f : Bool) : State := { setReg jr 0x3F0000800040 (0x1FC + st) with tim := { jr.tim with started := true, edges := n, follows := f } }

/-- An LCU's copy of descriptor `d`. -/
def cpy (d : List Byte) : Copy := ⟨0, d, 0x40, 63, 1, false, false, 0, 0, false, false, 0, false, [], 0, [], [], 0, false⟩
def lcu (q : Copy) : State := { rc { cs with st := .issuing, lcu := [q] } with mem := { run.mem with gddr := [(0, 0x1F)] } }

/-- An engine's operation, alone in engine 2. -/
def ceOf (o : CeOp) : State := { lk up0 with ce := [(2, ⟨[o], 0⟩)], ceUid := 5 }

/-- An all-gather of 8,192 BF16 values by devices 0 and 5, whose arrive words have come. -/
def dgat : List Byte := slice ([2, 0x11, 0, 2] ++ zeros 12 ++ [1] ++ zeros 8 ++ [0x30] ++ zeros 7 ++ [0x40] ++ zeros 16 ++ [1] ++ zeros 7 ++ [2] ++ zeros 6 ++ [0x20]) 0 128
def gat : CeOp := { cop with kind := .col, desc := dgat, started := true }
def sgat (o : CeOp) : State := { ceOf o with mem := { (ceOf o).mem with
  gddr := [(0, 0x1F), (0x3000, 2), (0x300A, 5), (0x4008, 1), (0x4010, 1), (0x4012, 1), (0x4018, 1)] } }
/-- A bucket operation that has ended its steps. -/
def bkt : CeOp := { gat with desc := dgat.set 0 0x43, step := stepEnd }

/-- Snapshot area 0 with a valid header. -/
def snp : State := { setReg (setReg jr 0x3F0000B00030 0x80000000) 0x3F0000B00040 0 with mem := { jr.mem with gddr := [(0, 0x1F), (8, 1)] } }

/-! ### Ledger, security, start-up, host -/

/-- A module that is provisioned, and one that is registered with a key hash of `k`. -/
def prov : State := { on with sec := { on.sec with fuses := { on.sec.fuses with provisioned := true } }, ldg := { on.ldg with up := true } }
def depl : State := { prov with sec := { prov.sec with fuses := { prov.sec.fuses with iak := [(0, [1])] } } }
def serv : State := { depl with sec := { depl.sec with unlocked := true } }

/-- Flash whose slot A holds an image without a body, with a certificate of type 2 and the digest of no bytes. -/
def bootCells : Memory :=
  [(0x400000, 0x55), (0x400001, 0x41), (0x400002, 0x38), (0x400003, 0x46), (0x400004, 1)] ++
    ((shake64 []).zipIdx).map (fun p => (0x400018 + p.2, p.1)) ++ [(0x40055A, 2)]

/-- The same with the certificate's issuer. -/
def bootNor (b : List Byte) : Memory := bootCells ++ (b.zipIdx).map (fun p => (0x400572 + p.2, p.1))

/-- A module whose root hash matches its flash and whose slot A holds an image with a certificate of the root key. -/
def boots (s : State) : State :=
  let n := bootNor ((shake64 (memReads bootCells 0 1793)).take 16)
  { s with nor := n, sec := { s.sec with fuses := { s.sec.fuses with root := shake64 (memReads n 0 1793) } } }

/-- Keys below the first read as the default. -/
theorem take_low (v : Byte) (m : Memory) (j : Nat) : ∀ n k, k + n ≤ j → smTake memDefault ((j, v) :: m) k n = List.replicate n memDefault := by
  intro n
  induction n with
  | zero => intro k _; rfl
  | succ n ih =>
    intro k h
    have : j ≠ k := by omega
    simp only [smTake, if_neg this, ih (k + 1) (by omega), List.replicate_succ]

theorem low_boot (b : List Byte) : memReads (bootNor b) 0 1793 = memReads bootCells 0 1793 := by
  have h : ∀ m : Memory, memReads ((0x400000, 0x55) :: m) 0 1793 = List.replicate 1793 memDefault := fun m => by
    simp only [memReads, smRange, smFrom, List.filter, Nat.zero_le, decide_true]
    exact take_low _ _ _ _ _ (by decide)
  exact (h _).trans (h _).symm

theorem issuer_of (b : List Byte) (h : b.length = 16) :
    slice (memReads (bootNor b) 0x40055A 40) 24 16 = b ∧ fieldAt (memReads (bootNor b) 0x40055A 40) 0 2 = 2 := by
  match b, h with
  | [b0, b1, b2, b3, b4, b5, b6, b7, b8, b9, b10, b11, b12, b13, b14, b15], _ => exact ⟨rfl, rfl⟩

theorem shake_len (m : List Byte) : ((shake64 m).take 16).length = 16 := rfl

theorem named_boots (s : State) : imgCertNamed (boots s) 0x400000 = true := by
  have h := issuer_of _ (shake_len (memReads bootCells 0 1793))
  simp only [imgCertNamed, boots, low_boot]
  simp only [Nat.reduceAdd]
  rw [h.1, h.2]
  simp

/-- Everything verifies and trains. -/
def good : BootOutcome := ⟨true, true, true, true, true, true, none, none, [], [], [], false, true, 1, 2, 0, 0⟩

theorem rootOk_boots (s : State) : rootOk (boots s) = true := by simp [rootOk, boots]

/-- A host command waits on queue pair 0. -/
def hq (s : State) : State := setReg (setReg s (aHostQcfg 0) 9) (aHostSqTail 0) 1
/-- Its entry spells command 7 with an opcode and parameters. -/
def ent (op : Nat) (ps : List (Nat × Nat × Nat)) (s : State) : State := { s with mem := { s.mem with
  host := ps.foldl (fun m p => memWrites m p.1 (leBytes p.2.1 p.2.2)) (memWrites s.mem.host 0 (leBytes 4 (op + 7 * 65536))) } }
/-- The state after command 7 with opcode `op` was taken. -/
def tk (s : State) (op : Nat) : State := (hostTake s 0 op 7).getD s

theorem took (s : State) (op : Nat) (h : (hostTake s 0 op 7).isSome = true) : hostTake s 0 op 7 = some (tk s op) := by
  unfold tk
  cases hh : hostTake s 0 op 7 with
  | none => rw [hh] at h; cases h
  | some x => rfl

/-- What a judged command does. -/
def moveOf (x : Except Nat LcMove) : Option LcMove := match x with | .ok m => some m | .error _ => none
def whyOf (x : Except Nat LcMove) : Option Nat := match x with | .ok _ => none | .error r => some r

theorem moveOf_some (x : Except Nat LcMove) (m : LcMove) (h : moveOf x = some m) : x = .ok m := by
  cases x with
  | error r => cases h
  | ok n => cases h; rfl

theorem whyOf_some (x : Except Nat LcMove) (r : Nat) (h : whyOf x = some r) : x = .error r := by
  cases x with
  | error n => cases h; rfl
  | ok n => cases h

/-- The nonzero bytes of a job image of device 0: three parts, of which one is the window table. -/
def imgCells : List (Nat × Byte) :=
  [(0, 0x55), (1, 0x41), (2, 0x38), (3, 0x4A), (4, 1), (16, 1), (20, 1), (22, 3), (50, 0x20), (65, 0x10), (66, 0x20), (75, 1), (82, 0x40), (123, 2),
   (512, 1), (514, 1), (515, 1), (580, 1),
   (1089, 8), (1096, 64), (1106, 0x20), (1112, 1), (1121, 8), (1128, 64), (1137, 0x10), (1138, 0x20), (1144, 2),
   (1153, 8), (1160, 16), (1170, 0x40), (1176, 3), (2056, 7)]

def ready (s : State) : State := setReg (setReg s 0x3F0000E00000 0x10C) 0x3F0000800008 0x201
def loads : State := { hq (ready prov) with mem := { on.mem with host := imgCells.map (fun p => (0x10000 + p.1, p.2)) } }

def mbx (s : State) (m : Memory) : State := { s with dbg := { s.dbg with mbox := m, session := true } }

/-- A deployed module whose root key verifies, with a flushed seal 0. -/
def usab (s : State) : State := { s with
  sec := { s.sec with fuses := { s.sec.fuses with provisioned := true, revoked := 0, iak := [(0, (shake64 (memReads s.nor 0x40000 1793)).take 32)] } }
  ldg := { s.ldg with up := true, recs := [(⟨0, 0, 0, cLdgSeal, 0, 0, 0, 0⟩, 0)], nFlushed := 1, seals := [(0, zeros 2048)] } }

theorem leBytes_ne (n v : Nat) : leBytes (n + 1) v ≠ [] := by simp [leBytes]

theorem shake_cons (m : List Byte) : ∃ b l, (shake64 m).take 32 = b :: l := by
  have : shake64 m = leBytes 8 ((shakeState m).getD 0 0) ++ ([1, 2, 3, 4, 5, 6, 7]).flatMap (fun i => leBytes 8 ((shakeState m).getD i 0)) := rfl
  rw [this]
  simp only [leBytes, List.cons_append, List.take_succ_cons]
  exact ⟨_, _, rfl⟩

theorem usab_slot (s : State) : iakSlot (usab s) = some 0 := by
  obtain ⟨b, l, h⟩ := shake_cons (memReads s.nor 0x40000 1793)
  have h0 : smGet [] (usab s).sec.fuses.iak 0 = b :: l := by simp [usab, smGet, h]
  have h1 : (usab s).sec.fuses.revoked = 0 := rfl
  have : List.range 8 = [0, 1, 2, 3, 4, 5, 6, 7] := rfl
  simp [iakSlot, this, h0, h1]

theorem usab_ok (s : State) : iakUsable (usab s) = true := by
  have h : iakSlot (usab s) = some 0 := usab_slot s
  simp only [iakUsable, h]
  simp [usab, iakKey, smGet]

theorem usab_lc (s : State) (h1 : s.sec.unlocked = false) (h2 : s.sec.fuses.retired = false) : lcState (usab s) = .deployed := by
  have h : (usab s).sec.unlocked = false := h1
  have hr : (usab s).sec.fuses.retired = false := h2
  simp [lcState, usab_slot, h, hr]

theorem usab_signs (s : State) (h : lcState (usab s) ≠ .provisioned) : signerBad (usab s) = none := by
  rw [signerBad, if_neg h, usab_ok]
  rfl

theorem lc_of (s t : State) (h : t.sec = s.sec) : lcState t = lcState s := by unfold lcState iakSlot; rw [h]

theorem signs_of (s t : State) (h1 : t.sec = (usab s).sec) (h2 : t.nor = (usab s).nor) (h : lcState (usab s) ≠ .provisioned) : signerBad t = none := by
  have hl : lcState t = lcState (usab s) := lc_of _ _ h1
  have hu : iakUsable t = iakUsable (usab s) := by unfold iakUsable iakSlot iakKey; rw [h1, h2]
  rw [signerBad, hl, if_neg h, hu, usab_ok]
  rfl

/-- The unit's answer to a command that its state takes and whose signer it has. -/
theorem judge_of (s : State) (d : List Byte) (sigOk : Bool) (m : LcMove) (hm : s.sec.move = none)
    (hc : cmdMove s (fieldAt d 0 2) (slice d 1378 1793) = some m) (ht : fieldAt d 0 2 ≠ 0x101) (hs : signerBad s = none) :
    cmdJudge s d sigOk = if !sigOk then .error 3 else if slice d 16 16 ≠ modIdent s then .error 4 else if !cmdFresh s d then .error 5
      else if cmdFormBad d then .error 7 else .ok m := by
  simp [cmdJudge, cmdEarly, hm, hc, hs, ht]

/-- A security command that retires a deployed module, at host address 0x1000 and in the mailbox. -/
def cmds : State := ent 0x18 [(8, 8, 0x1000), (16, 4, 1378)] { hq (usab on) with mem := { on.mem with host := [(0x1000, 4), (0x1001, 1)] } }
def cmdz : State := ent 0x18 [(8, 8, 0x3000), (16, 4, 3171)] (hq prov)

/-- Flash with certificates of types 1 and 3 whose issuers and subjects are `b`, all keys zero. -/
def chainNor (b : List Byte) : Memory :=
  (0x10000, 1) :: (b.zipIdx).map (fun p => (0x10008 + p.2, p.1)) ++ (b.zipIdx).map (fun p => (0x10018 + p.2, p.1)) ++
    (0x20000, 3) :: (b.zipIdx).map (fun p => (0x20008 + p.2, p.1)) ++ (b.zipIdx).map (fun p => (0x20018 + p.2, p.1))

theorem chain_keys (b : List Byte) (h : b.length = 16) : (chainNor b).map Prod.fst = (chainNor (zeros 16)).map Prod.fst := by
  match b, h with
  | [b0, b1, b2, b3, b4, b5, b6, b7, b8, b9, b10, b11, b12, b13, b14, b15], _ => rfl

theorem chain_rises (b : List Byte) (h : b.length = 16) : (chainNor b).Pairwise (fun p q => p.1 < q.1) := by
  have hk : ((chainNor b).map Prod.fst).Pairwise (· < ·) := by rw [chain_keys b h]; decide +kernel
  exact List.pairwise_map.mp hk

/-- A provisioned module with such a chain. -/
def chn : State := { prov with nor := chainNor (keyId (zeros 1793)) }

theorem ceOf_kind (o : CeOp) (h : o.kind = .copy) (x : CeOp) (hx : x ∈ (getCe (ceOf o) 2).ops) (d : BitVec 14) (g : Signal) : x.kind ≠ .sig d g := by
  have : (getCe (ceOf o) 2).ops = [o] := by
    show (smGet Engine.init [(2, ⟨[o], 0⟩)] 2).ops = [o]
    simp [smGet]
  rw [this, List.mem_singleton] at hx
  rw [hx, h]
  exact fun h => nomatch h

theorem cfg_links (k : Nat) : (cfgLink [0] k).1 ≠ true := by
  have h : slice [0] (cf [0] 108 4 + 8 * k) 8 = zeros 8 := by
    rcases hk : cf [0] 108 4 + 8 * k with _ | n
    · rfl
    · simp [slice, zeros]
  simp only [cfgLink, h]
  decide

theorem rootOk_of (s : State) (h1 : s.nor = (boots on).nor) (h2 : s.sec = (boots on).sec) : rootOk s = true := by
  have h := rootOk_boots on
  simp only [rootOk] at h ⊢
  rw [h1, h2]
  exact h

theorem rom_of (s : State) (o : BootOutcome) (h : rootOk s = true) : (romRun s o).2 = (bootPick s o (bootOrder s)).2 := by
  simp [romRun, h]

/-- The outcome's state. -/
def after (i : Instr) (s : State) : State := match exec i s with | .next t => t | _ => s
def nexts (i : Instr) (s : State) : Bool := match exec i s with | .next _ => true | _ => false
theorem after_eq (i : Instr) (s : State) (h : nexts i s = true) : exec i s = .next (after i s) := by
  unfold nexts at h
  unfold after
  split at h
  · next t ht => rw [ht]
  · cases h

/-- A retired module without power. -/
def retd : State := { State.reset with sec := { State.reset.sec with fuses := { State.reset.sec.fuses with retired := true } } }

theorem rom_pick (s : State) (h1 : s.nor = (boots on).nor) (h2 : s.sec = (boots on).sec) :
    (romRun s good).2 = (bootPick s good (bootOrder s)).2 := rom_of s good (rootOk_of s h1 h2)

theorem pick_of (s : State) (l : List Nat) (h : s.nor = (boots on).nor) (ho : bootOrder s = 0 :: l) : (bootPick s good (bootOrder s)).2 = some 0 := by
  have hn : imgCertNamed s 0x400000 = true := by
    rw [show imgCertNamed s 0x400000 = imgCertNamed (boots on) 0x400000 by simp only [imgCertNamed, h]]
    exact named_boots on
  have hd : imgDigestOk s 0x400000 = true := by
    rw [show imgDigestOk s 0x400000 = imgDigestOk (boots on) 0x400000 by simp only [imgDigestOk, h]]
    decide +kernel
  have hs : slotBase 0 = 0x400000 := rfl
  rw [ho]
  simp [bootPick, slotFails, hs, hn, hd, good]

/-- RESET waits in queue pair 0. -/
def hqr : State := ent 0x1B [(8, 1, 0x5A)] (hq (boots on))

theorem order_late : bootOrder (late (boots on)) = [0] := by decide +kernel
theorem order_hq : bootOrder hqr = [0] := by decide +kernel
theorem order_mbx : bootOrder (mbx (boots on) []) = [0] := by decide +kernel

theorem rom_boots_late : (romRun (late (boots on)) good).2 = some 0 := by
  rw [rom_pick (late (boots on)) rfl rfl, pick_of (late (boots on)) [] rfl order_late]
theorem rom_boots_hq : (romRun hqr good).2 = some 0 := by
  rw [rom_pick hqr rfl rfl, pick_of hqr [] rfl order_hq]
theorem rom_boots_mbx : (romRun (mbx (boots on) []) good).2 = some 0 := by
  rw [rom_pick (mbx (boots on) []) rfl rfl, pick_of (mbx (boots on) []) [] rfl order_mbx]

/-- A seal's clear command, in host memory and in the mailbox. -/
def clr : State := ent 0x12 [(8, 8, 0x1000)] { hq (usab on) with mem := { on.mem with host := [(0x1000, 1)] } }

theorem tk_sec (s : State) (op : Nat) : (tk s op).sec = s.sec ∧ (tk s op).nor = s.nor := by
  unfold tk hostTake
  dsimp only
  split <;> exact ⟨rfl, rfl⟩

theorem clr_usable : iakUsable (tk clr 0x12) = true := by
  have h := usab_ok on
  simp only [iakUsable, iakSlot, iakKey] at h ⊢
  rw [(tk_sec clr 0x12).1, (tk_sec clr 0x12).2]
  exact h

theorem clr_why : clearWhy (tk clr 0x12) (memReads (tk clr 0x12).mem.host 0x1000 1410) true = none := by
  rw [clearWhy, clr_usable]
  decide +kernel
theorem clr_no : clearWhy (tk clr 0x12) (memReads (tk clr 0x12).mem.host 0x1000 1410) false = some 3 := by
  rw [clearWhy, clr_usable]
  decide +kernel
theorem mbx_why : clearWhy (mbx (usab on) [(0, 1)]) (memReads [(0, 1)] 0 1410) true = none := by
  rw [clearWhy, show iakUsable (mbx (usab on) [(0, 1)]) = true from usab_ok on]
  decide +kernel
theorem mbx_no : clearWhy (mbx (usab on) [(0, 1)]) (memReads [(0, 1)] 0 1410) false = some 3 := by
  rw [clearWhy, show iakUsable (mbx (usab on) [(0, 1)]) = true from usab_ok on]
  decide +kernel

/-- A module that has recovered to boundary 9, and an image of its state. -/
def rest : State :=
  let s := setReg (hq (jl .recovered)) 0x3F0000700000 0x400000
  { s with
    job := { s.job with members := [0], plan := some ⟨1, 0, 9, 1⟩ }
    mem := { s.mem with
      gddr := [(0x400008, 7)]
      host := ((imgCells.takeWhile (fun p => p.1 < 1152)).map (fun p => (0x10000 + p.1, if p.1 = 22 then 2 else p.2))).flatMap
        (fun p => if p.1 = 0x10016 then [p, (0x10020, 9), (0x1002E, 1)] else [p]) } }

/-- A member with a PERMIT whose round stands at `r`. -/
def prm (r : RoundSt) : State := { jm .running with job := { (jm .running).job with permits := [⟨1, 9, false, 0, 0⟩], round := r } }

theorem cmds_signs : signerBad (tk cmds 0x18) = none :=
  signs_of on _ (tk_sec cmds 0x18).1 (tk_sec cmds 0x18).2 (by rw [usab_lc on rfl rfl]; decide)

theorem cmds_moves : cmdMove (tk cmds 0x18) 0x104 (slice (memReads (tk cmds 0x18).mem.host 0x1000 1378) 1378 1793) = some .retire := by
  have h : lcState (tk cmds 0x18) = .deployed := (lc_of (usab on) _ (tk_sec cmds 0x18).1).trans (usab_lc on rfl rfl)
  simp only [cmdMove, h]

theorem cmds_typ : fieldAt (memReads (tk cmds 0x18).mem.host 0x1000 1378) 0 2 = 0x104 := by decide +kernel

theorem cmds_judge (b : Bool) : cmdJudge (tk cmds 0x18) (memReads (tk cmds 0x18).mem.host 0x1000 1378) b = if !b then .error 3 else .ok .retire := by
  rw [judge_of _ _ _ .retire (by decide +kernel) (by rw [cmds_typ]; exact cmds_moves) (by rw [cmds_typ]; decide) cmds_signs]
  have h1 : slice (memReads (tk cmds 0x18).mem.host 0x1000 1378) 16 16 = modIdent (tk cmds 0x18) := by decide +kernel
  have h2 : cmdFresh (tk cmds 0x18) (memReads (tk cmds 0x18).mem.host 0x1000 1378) = true := by decide +kernel
  have h3 : cmdFormBad (memReads (tk cmds 0x18).mem.host 0x1000 1378) = false := by decide +kernel
  simp [h1, h2, h3]
theorem cmds_ok : cmdJudge (tk cmds 0x18) (memReads (tk cmds 0x18).mem.host 0x1000 1378) true = .ok .retire := cmds_judge true
theorem cmds_no : cmdJudge (tk cmds 0x18) (memReads (tk cmds 0x18).mem.host 0x1000 1378) false = .error 3 := cmds_judge false

/-- The same command in the mailbox. -/
def mbr : State := mbx (usab on) [(0, 4), (1, 1)]
theorem mbx_judge (b : Bool) : cmdJudge mbr (memReads [(0, 4), (1, 1)] 0 1378) b = if !b then .error 3 else .ok .retire := by
  have ht : fieldAt (memReads [(0, 4), (1, 1)] 0 1378) 0 2 = 0x104 := by decide +kernel
  have hl : lcState mbr = .deployed := usab_lc on rfl rfl
  rw [judge_of mbr _ _ .retire rfl (by rw [ht]; simp only [cmdMove, hl]) (by rw [ht]; decide)
    (signs_of on mbr rfl rfl (by rw [usab_lc on rfl rfl]; decide))]
  have h1 : slice (memReads [(0, 4), (1, 1)] 0 1378) 16 16 = modIdent mbr := by decide +kernel
  have h2 : cmdFresh mbr (memReads [(0, 4), (1, 1)] 0 1378) = true := by decide +kernel
  have h3 : cmdFormBad (memReads [(0, 4), (1, 1)] 0 1378) = false := by decide +kernel
  rw [if_neg (not_not_intro h1), h2, h3]
  rfl
theorem mbx_ok : cmdJudge mbr (memReads [(0, 4), (1, 1)] 0 1378) true = .ok .retire := mbx_judge true
theorem mbx_refuse : cmdJudge mbr (memReads [(0, 4), (1, 1)] 0 1378) false = .error 3 := mbx_judge false

theorem low_chain (b : List Byte) : memReads (chainNor b) 0 1793 = zeros 1793 := by
  have h : ∀ m : Memory, memReads ((0x10000, 1) :: m) 0 1793 = List.replicate 1793 memDefault := fun m => by
    simp only [memReads, smRange, smFrom, List.filter, Nat.zero_le, decide_true]
    exact take_low _ _ _ _ _ (by decide)
  exact h _

/-- Bytes that no entry lists. -/
theorem reads_zero (m : Memory) (a n : Nat) (hr : m.Pairwise (fun p q => p.1 < q.1)) (h : ∀ p ∈ m, p.1 < a ∨ a + n ≤ p.1) :
    memReads m a n = zeros n := by
  have hg : ∀ (m : Memory) x, (∀ p ∈ m, p.1 ≠ x) → smGet memDefault m x = memDefault := by
    intro m x
    induction m with
    | nil => intro _; rfl
    | cons p m ih =>
      intro hp
      have h1 : p.1 ≠ x := hp p (by simp)
      simp only [smGet, if_neg h1]
      exact ih (fun q hq => hp q (by simp [hq]))
  rw [memReads_eq m a n hr]
  refine List.ext_getElem (by simp [zeros]) (fun i hi hj => ?_)
  simp only [List.getElem_map, zeros, List.getElem_replicate, memRead]
  refine hg m _ (fun p hp he => ?_)
  rcases h p hp with h' | h' <;> simp at hi <;> rw [he, List.getElem_range'] at h' <;> omega

/-- The fields of its two certificates. -/
theorem chain_cert (b : List Byte) (h : b.length = 16) (a k : Nat) (ha : a = 0x10000 ∧ k = 1 ∨ a = 0x20000 ∧ k = 3) (hb : b = keyId (zeros 1793)) :
    certNamed (memReads (chainNor b) a 3115) k b = true ∧ slice (memReads (chainNor b) a 3115) 40 1793 = zeros 1793 := by
  have hr := chain_rises b h
  have hz : memReads (chainNor b) (a + 40) 1793 = zeros 1793 := by
    refine reads_zero _ _ _ hr (fun p hp => ?_)
    have hm : p.1 ∈ (chainNor (zeros 16)).map Prod.fst := by rw [← chain_keys b h]; exact List.mem_map_of_mem hp
    have hd : ∀ x ∈ (chainNor (zeros 16)).map Prod.fst, x < a + 40 ∨ a + 40 + 1793 ≤ x := by
      rcases ha with ⟨rfl, rfl⟩ | ⟨rfl, rfl⟩ <;> decide +kernel
    exact hd _ hm
  have hf : leNat (memReads (chainNor b) (a + 0) 2) = k ∧ leNat (memReads (chainNor b) (a + 2) 2) = 0 ∧ memReads (chainNor b) (a + 24) 16 = b
      ∧ memReads (chainNor b) (a + 8) 16 = b ∧ leNat (memReads (chainNor b) (a + 1833) 2) = 0 := by
    clear hb hr hz
    match b, h with
    | [b0, b1, b2, b3, b4, b5, b6, b7, b8, b9, b10, b11, b12, b13, b14, b15], _ =>
      rcases ha with ⟨rfl, rfl⟩ | ⟨rfl, rfl⟩ <;> exact ⟨rfl, rfl, rfl, rfl, rfl⟩
  have e := fun i n (hn : i + n ≤ 3115) => slice_memReads (chainNor b) a 3115 i n hr hn
  have hs : slice (memReads (chainNor b) a 3115) 40 1793 = zeros 1793 := (e 40 1793 (by decide)).trans hz
  refine ⟨?_, hs⟩
  simp only [certNamed, fieldAt, hs, e 0 2 (by decide), e 2 2 (by decide), e 24 16 (by decide), e 8 16 (by decide), e 1833 2 (by decide), hf.1, hf.2.1, hf.2.2.1,
    hf.2.2.2.1, hf.2.2.2.2, ← hb]
  simp

theorem chn_signs : signerBad chn = none := by
  have hl : lcState chn = .provisioned := by decide +kernel
  have h1 := chain_cert _ (shake_len (zeros 1793)) 0x10000 1 (.inl ⟨rfl, rfl⟩) rfl
  have h2 := chain_cert _ (shake_len (zeros 1793)) 0x20000 3 (.inr ⟨rfl, rfl⟩) rfl
  have hn : chn.nor = chainNor ((shake64 (zeros 1793)).take 16) := rfl
  have hk : keyId (zeros 1793) = (shake64 (zeros 1793)).take 16 := rfl
  rw [signerBad, if_pos hl]
  simp only [chainOk, hn, low_chain, h1.2, hk, h1.1, h2.1, Bool.and_self, if_true]

/-- No predicate, done counter 5. -/
def h5 : Hdr := ⟨0, 5⟩

/-! ### Witnesses: the hypotheses of each obligation, clause by clause -/

theorem witness_SlotCommandIssues :
    (∃ (s : State), ∃ (i : Instr), ∃ (core : Nat), ∃ (sl : Slots), slotsOf i = some (core, sl) ∧ SlotIssues s core sl) :=
  ⟨rs, .tzero 3 h5 1 1, 3, { t := .tzero 1 1, th := h5 }, by decide +kernel, issues_of _ _ _ (by decide +kernel)⟩

theorem witness_FalsePredicateIsNop :
    (∃ (s : State), ∃ (i : Instr), ∃ (core : Nat), ∃ (sl : Slots), slotsOf i = some (core, sl) ∧ SlotIssues s core sl ∧ (getCore s core).flight = [] ∧ effSlots (getCore s core).p sl = { sl with m := .nop, vop := .vnop, t := .nop, x := .nop, s := .nop, c := .nop }) :=
  ⟨rs, .cadd 3 8 3 3 7, 3, { c := .cadd 3 3 7, cp := 8 }, by decide +kernel, issues_of _ _ _ (by decide +kernel), by decide +kernel⟩

theorem witness_SlotOperandFaults :
    (∃ (s : State), ∃ (i : Instr), ∃ (core : Nat), ∃ (sl : Slots), slotsOf i = some (core, sl) ∧ coreOk s core = true ∧ coreRuns s (getCore s core) = true ∧ operandBad sl = true) ∧
    (∃ (s : State), ∃ (core : Nat), ∃ (p : BitVec 4), coreOk s core = true ∧ coreRuns s (getCore s core) = true ∧ p ≠ 0) :=
  ⟨⟨rs, .sinc 3 0 48 1, 3, { s := .sinc 48 1 }, by decide +kernel⟩,
   ⟨rs, 3, 2, by decide +kernel⟩⟩

theorem witness_TileUnitResults :
    (∃ (s : State), ∃ (core : Nat), ∃ (h : Hdr), ∃ (tile : BitVec 5), ∃ (tag : BitVec 4), RunsAlone s core { t := .tzero tile tag, th := h } h) ∧
    (∃ (s : State), ∃ (core : Nat), ∃ (h : Hdr), ∃ (dst : BitVec 5), ∃ (dtag : BitVec 4), ∃ (src : BitVec 5), ∃ (stag : BitVec 4), RunsAlone s core { t := .tmov dst dtag src stag, th := h } h) ∧
    (∃ (s : State), ∃ (core : Nat), ∃ (h : Hdr), ∃ (dst : BitVec 5), ∃ (dtag : BitVec 4), ∃ (src : BitVec 5), ∃ (stag : BitVec 4), RunsAlone s core { t := .txp dst dtag src stag, th := h } h) ∧
    (∃ (s : State), ∃ (core : Nat), ∃ (h : Hdr), ∃ (tile : BitVec 5), ∃ (tag areg : BitVec 4), ∃ (off : BitVec 16), ∃ (pitch : BitVec 12), RunsAlone s core { t := .tld tile tag areg off pitch, th := h } h ∧ (∀ u, smGet false (getCore s core).bufPoison u = false)) ∧
    (∃ (s : State), ∃ (core : Nat), ∃ (h : Hdr), ∃ (tile : BitVec 5), ∃ (tag areg : BitVec 4), ∃ (off : BitVec 16), ∃ (pitch : BitVec 12), RunsAlone s core { t := .tst tile tag areg off pitch, th := h } h) :=
  ⟨⟨rs, 3, h5, 1, 1, alone_of _ _ _ _ (issues_of _ _ _ (by decide +kernel)) (by decide +kernel)⟩,
   ⟨rs, 3, h5, 2, 2, 1, 1, alone_of _ _ _ _ (issues_of _ _ _ (by decide +kernel)) (by decide +kernel)⟩,
   ⟨rs, 3, h5, 3, 3, 1, 1, alone_of _ _ _ _ (issues_of _ _ _ (by decide +kernel)) (by decide +kernel)⟩,
   ⟨rs, 3, h5, 1, 1, 1, 0, 0, alone_of _ _ _ _ (issues_of _ _ _ (by decide +kernel)) (by decide +kernel), fun _ => rfl⟩,
   ⟨rs, 3, h5, 1, 1, 1, 0, 0, alone_of _ _ _ _ (issues_of _ _ _ (by decide +kernel)) (by decide +kernel)⟩⟩

theorem witness_TileConfigResult :
    (∃ (s : State), ∃ (core : Nat), ∃ (h : Hdr), ∃ (tile : BitVec 5), ∃ (tag : BitVec 4), ∃ (rows1 : BitVec 6), ∃ (elems1 : BitVec 10), ∃ (fmt : BitVec 4), RunsAlone s core { t := .tcfg tile tag rows1 elems1 fmt, th := h } h) :=
  ⟨rs, 3, h5, 13, 1, 63, 63, 3, alone_of _ _ _ _ (issues_of _ _ _ (by decide +kernel)) (by decide +kernel)⟩

theorem witness_VectorUnitResults :
    (∃ (s : State), ∃ (core : Nat), ∃ (h : Hdr), ∃ (v w : VArgs), ∃ (op : VOpc), ∃ (i : Instr), ((i = .vop core h v ∧ op = .vop ∧ w = v) ∨ (i = .vcvt core h v ∧ op = .vcvt ∧ w = v) ∨ (i = .vred core h v ∧ op = .vred ∧ w = v) ∨ (i = .vscale core h v ∧ op = .vscale ∧ w = v) ∨ (i = .vrq core h v ∧ op = .vrq ∧ w = v) ∨ (i = .vfn core h v ∧ op = .vfn ∧ w = v) ∨ (i = .vsrDraw core h v ∧ op = .vsr ∧ w = { v with fn := 1 })) ∧ RunsAlone s core { vop := op, v := w, vh := h } h ∧ vrqBad (issuedBy s core { vop := op, v := w, vh := h }) core (opOf s core (.v op w) h 0 0) op w = false) ∧
    (∃ (s : State), ∃ (core : Nat), ∃ (h : Hdr), ∃ (v w : VArgs), ∃ (op : VOpc), ∃ (i : Instr), ((i = .vop core h v ∧ op = .vop ∧ w = v) ∨ (i = .vcvt core h v ∧ op = .vcvt ∧ w = v) ∨ (i = .vred core h v ∧ op = .vred ∧ w = v) ∨ (i = .vscale core h v ∧ op = .vscale ∧ w = v) ∨ (i = .vrq core h v ∧ op = .vrq ∧ w = v) ∨ (i = .vfn core h v ∧ op = .vfn ∧ w = v) ∨ (i = .vsrDraw core h v ∧ op = .vsr ∧ w = { v with fn := 1 })) ∧ RunsAlone s core { vop := op, v := w, vh := h } h ∧ vrqBad (issuedBy s core { vop := op, v := w, vh := h }) core (opOf s core (.v op w) h 0 0) op w = false) ∧
    (∃ (s : State), ∃ (core : Nat), ∃ (h : Hdr), ∃ (v w : VArgs), ∃ (op : VOpc), ∃ (i : Instr), ((i = .vop core h v ∧ op = .vop ∧ w = v) ∨ (i = .vcvt core h v ∧ op = .vcvt ∧ w = v) ∨ (i = .vred core h v ∧ op = .vred ∧ w = v) ∨ (i = .vscale core h v ∧ op = .vscale ∧ w = v) ∨ (i = .vrq core h v ∧ op = .vrq ∧ w = v) ∨ (i = .vfn core h v ∧ op = .vfn ∧ w = v) ∨ (i = .vsrDraw core h v ∧ op = .vsr ∧ w = { v with fn := 1 })) ∧ RunsAlone s core { vop := op, v := w, vh := h } h ∧ vrqBad (issuedBy s core { vop := op, v := w, vh := h }) core (opOf s core (.v op w) h 0 0) op w = false) ∧
    (∃ (s : State), ∃ (core : Nat), ∃ (h : Hdr), ∃ (v w : VArgs), ∃ (op : VOpc), ∃ (i : Instr), ((i = .vop core h v ∧ op = .vop ∧ w = v) ∨ (i = .vcvt core h v ∧ op = .vcvt ∧ w = v) ∨ (i = .vred core h v ∧ op = .vred ∧ w = v) ∨ (i = .vscale core h v ∧ op = .vscale ∧ w = v) ∨ (i = .vrq core h v ∧ op = .vrq ∧ w = v) ∨ (i = .vfn core h v ∧ op = .vfn ∧ w = v) ∨ (i = .vsrDraw core h v ∧ op = .vsr ∧ w = { v with fn := 1 })) ∧ RunsAlone s core { vop := op, v := w, vh := h } h ∧ vrqBad (issuedBy s core { vop := op, v := w, vh := h }) core (opOf s core (.v op w) h 0 0) op w = false) ∧
    (∃ (s : State), ∃ (core : Nat), ∃ (h : Hdr), ∃ (v w : VArgs), ∃ (op : VOpc), ∃ (i : Instr), ((i = .vop core h v ∧ op = .vop ∧ w = v) ∨ (i = .vcvt core h v ∧ op = .vcvt ∧ w = v) ∨ (i = .vred core h v ∧ op = .vred ∧ w = v) ∨ (i = .vscale core h v ∧ op = .vscale ∧ w = v) ∨ (i = .vrq core h v ∧ op = .vrq ∧ w = v) ∨ (i = .vfn core h v ∧ op = .vfn ∧ w = v) ∨ (i = .vsrDraw core h v ∧ op = .vsr ∧ w = { v with fn := 1 })) ∧ RunsAlone s core { vop := op, v := w, vh := h } h ∧ vrqBad (issuedBy s core { vop := op, v := w, vh := h }) core (opOf s core (.v op w) h 0 0) op w = false) ∧
    (∃ (s : State), ∃ (core : Nat), ∃ (h : Hdr), ∃ (v w : VArgs), ∃ (op : VOpc), ∃ (i : Instr), ((i = .vop core h v ∧ op = .vop ∧ w = v) ∨ (i = .vcvt core h v ∧ op = .vcvt ∧ w = v) ∨ (i = .vred core h v ∧ op = .vred ∧ w = v) ∨ (i = .vscale core h v ∧ op = .vscale ∧ w = v) ∨ (i = .vrq core h v ∧ op = .vrq ∧ w = v) ∨ (i = .vfn core h v ∧ op = .vfn ∧ w = v) ∨ (i = .vsrDraw core h v ∧ op = .vsr ∧ w = { v with fn := 1 })) ∧ RunsAlone s core { vop := op, v := w, vh := h } h ∧ vrqBad (issuedBy s core { vop := op, v := w, vh := h }) core (opOf s core (.v op w) h 0 0) op w = false) ∧
    (∃ (s : State), ∃ (core : Nat), ∃ (h : Hdr), ∃ (v w : VArgs), ∃ (op : VOpc), ∃ (i : Instr), ((i = .vop core h v ∧ op = .vop ∧ w = v) ∨ (i = .vcvt core h v ∧ op = .vcvt ∧ w = v) ∨ (i = .vred core h v ∧ op = .vred ∧ w = v) ∨ (i = .vscale core h v ∧ op = .vscale ∧ w = v) ∨ (i = .vrq core h v ∧ op = .vrq ∧ w = v) ∨ (i = .vfn core h v ∧ op = .vfn ∧ w = v) ∨ (i = .vsrDraw core h v ∧ op = .vsr ∧ w = { v with fn := 1 })) ∧ RunsAlone s core { vop := op, v := w, vh := h } h ∧ vrqBad (issuedBy s core { vop := op, v := w, vh := h }) core (opOf s core (.v op w) h 0 0) op w = false) :=
  ⟨⟨rs, 3, h5, ⟨3, 3, 1, 1, 2, 2, 0, 0, 0, 0, 0, 0⟩, ⟨3, 3, 1, 1, 2, 2, 0, 0, 0, 0, 0, 0⟩, .vop, .vop 3 h5 ⟨3, 3, 1, 1, 2, 2, 0, 0, 0, 0, 0, 0⟩, by decide +kernel, alone_of _ _ _ _ (issues_of _ _ _ (by decide +kernel)) (by decide +kernel), by decide +kernel⟩,
   ⟨rs, 3, h5, ⟨4, 4, 1, 1, 0, 0, 0, 0, 0, 0, 3, 0⟩, ⟨4, 4, 1, 1, 0, 0, 0, 0, 0, 0, 3, 0⟩, .vcvt, .vcvt 3 h5 ⟨4, 4, 1, 1, 0, 0, 0, 0, 0, 0, 3, 0⟩, by decide +kernel, alone_of _ _ _ _ (issues_of _ _ _ (by decide +kernel)) (by decide +kernel), by decide +kernel⟩,
   ⟨rs, 3, h5, ⟨9, 9, 1, 1, 0, 0, 0, 0, 0, 0, 0, 0⟩, ⟨9, 9, 1, 1, 0, 0, 0, 0, 0, 0, 0, 0⟩, .vred, .vred 3 h5 ⟨9, 9, 1, 1, 0, 0, 0, 0, 0, 0, 0, 0⟩, by decide +kernel, alone_of _ _ _ _ (issues_of _ _ _ (by decide +kernel)) (by decide +kernel), by decide +kernel⟩,
   ⟨rs, 3, h5, ⟨11, 11, 1, 1, 0, 0, 0, 0, 0, 0, 3, 0⟩, ⟨11, 11, 1, 1, 0, 0, 0, 0, 0, 0, 3, 0⟩, .vscale, .vscale 3 h5 ⟨11, 11, 1, 1, 0, 0, 0, 0, 0, 0, 3, 0⟩, by decide +kernel, alone_of _ _ _ _ (issues_of _ _ _ (by decide +kernel)) (by decide +kernel), by decide +kernel⟩,
   ⟨rs, 3, h5, ⟨4, 4, 1, 1, 12, 12, 0, 0, 0, 0, 3, 0⟩, ⟨4, 4, 1, 1, 12, 12, 0, 0, 0, 0, 3, 0⟩, .vrq, .vrq 3 h5 ⟨4, 4, 1, 1, 12, 12, 0, 0, 0, 0, 3, 0⟩, by decide +kernel, alone_of _ _ _ _ (issues_of _ _ _ (by decide +kernel)) (by decide +kernel), by decide +kernel⟩,
   ⟨rs, 3, h5, ⟨3, 3, 1, 1, 0, 0, 0, 0, 4, 0, 0, 0⟩, ⟨3, 3, 1, 1, 0, 0, 0, 0, 4, 0, 0, 0⟩, .vfn, .vfn 3 h5 ⟨3, 3, 1, 1, 0, 0, 0, 0, 4, 0, 0, 0⟩, by decide +kernel, alone_of _ _ _ _ (issues_of _ _ _ (by decide +kernel)) (by decide +kernel), by decide +kernel⟩,
   ⟨rs, 3, h5, ⟨3, 3, 0, 0, 0, 0, 0, 0, 1, 0, 0, 0⟩, ⟨3, 3, 0, 0, 0, 0, 0, 0, 1, 0, 0, 0⟩, .vsr, .vsrDraw 3 h5 ⟨3, 3, 0, 0, 0, 0, 0, 0, 1, 0, 0, 0⟩, by decide +kernel, alone_of _ _ _ _ (issues_of _ _ _ (by decide +kernel)) (by decide +kernel), by decide +kernel⟩⟩

theorem witness_MintKeyResult :
    (∃ (s : State), ∃ (core : Nat), ∃ (h : Hdr), ∃ (v : VArgs), RunsAlone s core { vop := .vsr, v := { v with fn := 0 }, vh := h } h) :=
  ⟨rs, 3, h5, ⟨0, 0, 0, 0, 0, 0, 0, 0, 0, 0, 0, 0x21⟩, alone_of _ _ _ _ (issues_of _ _ _ (by decide +kernel)) (by decide +kernel)⟩

theorem witness_StationarySetResults :
    (∃ (s : State), ∃ (core : Nat), ∃ (h : Hdr), ∃ (tile : BitVec 5), ∃ (tag : BitVec 4), ∃ (turn : Bool), RunsAlone s core { m := .mld tile tag turn, mh := h } h) ∧
    (∃ (s : State), ∃ (core : Nat), ∃ (h : Hdr), RunsAlone s core { m := .mswap, mh := h } h) :=
  ⟨⟨rs, 3, h5, 5, 5, true, alone_of _ _ _ _ (issues_of _ _ _ (by decide +kernel)) (by decide +kernel)⟩,
   ⟨rs, 3, h5, alone_of _ _ _ _ (issues_of _ _ _ (by decide +kernel)) (by decide +kernel)⟩⟩

theorem witness_AccumulatorReadResults :
    (∃ (s : State), ∃ (core : Nat), ∃ (h : Hdr), ∃ (first rows1 : BitVec 11), ∃ (tile : BitVec 5), ∃ (tag : BitVec 4), ∃ (rnd : BitVec 2), ∃ (areg : BitVec 4), ∃ (off : BitVec 16), ∃ (kind : BitVec 2), RunsAlone s core { m := .mdrain first rows1 tile tag 0 rnd areg off kind, mh := h } h ∧ (∀ j, accBad (getCore s core) j = false)) ∧
    (∃ (s : State), ∃ (core : Nat), ∃ (h : Hdr), ∃ (first rows1 : BitVec 11), ∃ (tile : BitVec 5), ∃ (tag : BitVec 4), ∃ (rnd : BitVec 2), ∃ (areg : BitVec 4), ∃ (off : BitVec 16), ∃ (kind : BitVec 2), RunsAlone s core { m := .mdrain first rows1 tile tag 1 rnd areg off kind, mh := h } h ∧ (∀ j, accBad (getCore s core) j = false) ∧ ((shapeOf (getCore s core) tile.toNat).fmt = 3 ∨ (shapeOf (getCore s core) tile.toNat).fmt = 4)) ∧
    (∃ (s : State), ∃ (core : Nat), ∃ (h : Hdr), ∃ (first rows1 : BitVec 11), ∃ (tile : BitVec 5), ∃ (tag : BitVec 4), ∃ (rnd : BitVec 2), ∃ (areg : BitVec 4), ∃ (off : BitVec 16), ∃ (kind : BitVec 2), RunsAlone s core { m := .mdrain first rows1 tile tag 2 rnd areg off kind, mh := h } h ∧ (∀ j, accBad (getCore s core) j = false) ∧ (∀ u, smGet false (getCore s core).bufPoison u = false) ∧ (∀ j, j < 64 → reqOk (shapeOf (getCore s core) tile.toNat).fmt (reqEntry (slice (bufRead (getCore s core) (resolve (getCore s core) areg off).toNat 1024) (16 * j) 16)) = true)) ∧
    (∃ (s : State), ∃ (core : Nat), ∃ (h : Hdr), ∃ (first rows1 : BitVec 11), ∃ (vt : BitVec 5), ∃ (vg : BitVec 4), ∃ (pt : BitVec 5), ∃ (pg k1 : BitVec 4), ∃ (base : BitVec 24), ∃ (kind : BitVec 2), RunsAlone s core { m := .mtopk first rows1 vt vg pt pg k1 base kind, mh := h } h ∧ (∀ j, accBad (getCore s core) j = false)) :=
  ⟨⟨rs, 3, h5, 0, 1, 10, 10, 0, 1, 0, 0, alone_of _ _ _ _ (issues_of _ _ _ (by decide +kernel)) (by decide +kernel), fun _ => rfl⟩,
   ⟨rs, 3, h5, 0, 1, 5, 5, 0, 1, 0, 0, alone_of _ _ _ _ (issues_of _ _ _ (by decide +kernel)) (by decide +kernel), fun _ => rfl, by decide +kernel⟩,
   ⟨rs, 3, h5, 0, 1, 5, 5, 0, 1, 0, 0, alone_of _ _ _ _ (issues_of _ _ _ (by decide +kernel)) (by decide +kernel), fun _ => rfl, fun _ => rfl, by decide +kernel⟩,
   ⟨rs, 3, h5, 0, 1, 1, 1, 2, 2, 1, 9, 0, alone_of _ _ _ _ (issues_of _ _ _ (by decide +kernel)) (by decide +kernel), fun _ => rfl⟩⟩

theorem witness_MatrixMultiplyResult :
    (∃ (s : State), ∃ (core : Nat), ∃ (h : Hdr), ∃ (zero : Bool), ∃ (areg : BitVec 4), ∃ (off : BitVec 16), ∃ (rows1 dest : BitVec 11), ∃ (fmt : BitVec 4), ∃ (acc : BitVec 3), ∃ (depth1 cols1 : BitVec 6), ∃ (rs : Bool), ∃ (sareg : BitVec 4), ∃ (i : Instr), (i = if zero then .mmulz core h areg off rows1 dest fmt acc depth1 cols1 rs sareg else .mmul core h areg off rows1 dest fmt acc depth1 cols1 rs sareg) ∧ RunsAlone s core { m := .mmul zero areg off rows1 dest fmt acc depth1 cols1 rs sareg, mh := h } h ∧ (∀ u, smGet false (getCore s core).bufPoison u = false) ∧ (∀ j, accBad (getCore s core) j = false) ∧ (getCore s core).act.faulty = false ∧ (getCore s core).lcu = [] ∧ coreWf (getCore s core) = true) ∧
    (∃ (s : State), ∃ (core : Nat), ∃ (h : Hdr), ∃ (zero : Bool), ∃ (areg : BitVec 4), ∃ (off : BitVec 16), ∃ (rows1 dest : BitVec 11), ∃ (fmt : BitVec 4), ∃ (acc : BitVec 3), ∃ (depth1 cols1 : BitVec 6), ∃ (rs : Bool), ∃ (sareg : BitVec 4), ∃ (i : Instr), (i = if zero then .mmulz core h areg off rows1 dest fmt acc depth1 cols1 rs sareg else .mmul core h areg off rows1 dest fmt acc depth1 cols1 rs sareg) ∧ RunsAlone s core { m := .mmul zero areg off rows1 dest fmt acc depth1 cols1 rs sareg, mh := h } h ∧ (∀ u, smGet false (getCore s core).bufPoison u = false) ∧ (∀ j, accBad (getCore s core) j = false) ∧ (getCore s core).act.faulty = false ∧ (getCore s core).lcu = [] ∧ coreWf (getCore s core) = true) :=
  ⟨⟨rm, 3, h5, true, 1, 0, 0, 0, 3, 0, 1, 1, false, 0, .mmulz 3 h5 1 0 0 0 3 0 1 1 false 0, by decide +kernel, alone_of _ _ _ _ (issues_of _ _ _ (by decide +kernel)) (by decide +kernel), fun _ => rfl, fun _ => rfl, by decide +kernel⟩,
   ⟨rm, 3, h5, false, 1, 0, 0, 4, 3, 0, 1, 1, false, 0, .mmul 3 h5 1 0 0 4 3 0 1 1 false 0, by decide +kernel, alone_of _ _ _ _ (issues_of _ _ _ (by decide +kernel)) (by decide +kernel), fun _ => rfl, fun _ => rfl, by decide +kernel⟩⟩

theorem witness_OptimiserResult :
    (∃ (s : State), ∃ (core : Nat), ∃ (h : Hdr), ∃ (v : VArgs), RunsAlone s core { vop := .vadam, v := v, vh := h } h ∧ (∀ u, smGet false (getCore s core).bufPoison u = false) ∧ 
    let c := getCore s core
    
    let bs := bufRead c (smGet 0 c.a (v.imm.toNat % 16)).toNat 64
    ((slice bs 36 28).all (fun b => b == 0) = true) ∧ (adamBlock bs).skip = true) ∧
    (∃ (s : State), ∃ (core : Nat), ∃ (h : Hdr), ∃ (v : VArgs), RunsAlone s core { vop := .vadam, v := v, vh := h } h ∧ (∀ u, smGet false (getCore s core).bufPoison u = false) ∧ 
    let c := getCore s core
    
    let bs := bufRead c (smGet 0 c.a (v.imm.toNat % 16)).toNat 64
    ((slice bs 36 28).all (fun b => b == 0) = true) ∧ (adamBlock bs).skip = false) :=
  ⟨⟨rv 1, 3, h5, ⟨6, 6, 13, 13, 7, 7, 8, 8, 0, 0, 1, 1⟩, alone_of _ _ _ _ (issues_of _ _ _ (by decide +kernel)) (by decide +kernel), fun _ => rfl, by decide +kernel⟩,
   ⟨rv 0, 3, h5, ⟨6, 6, 13, 13, 7, 7, 8, 8, 0, 0, 1, 1⟩, alone_of _ _ _ _ (issues_of _ _ _ (by decide +kernel)) (by decide +kernel), fun _ => rfl, by decide +kernel⟩⟩

theorem witness_ControlRegisterResults :
    (∃ (s : State), ∃ (core : Nat), ∃ (p dst src : BitVec 4), ∃ (imm : BitVec 32), SlotIssues s core { c := .cadd dst src imm, cp := p } ∧ predTrue (getCore s core).p p = true ∧ (getCore s core).flight = []) ∧
    (∃ (s : State), ∃ (core : Nat), ∃ (p areg : BitVec 4), ∃ (sub : BitVec 3), ∃ (imm : BitVec 32), SlotIssues s core { c := .csetReg areg sub imm, cp := p } ∧ predTrue (getCore s core).p p = true ∧ (getCore s core).flight = []) ∧
    (∃ (s : State), ∃ (core : Nat), ∃ (p areg : BitVec 4), ∃ (cmp pdst : BitVec 3), ∃ (imm : BitVec 32), SlotIssues s core { c := .csetPred areg cmp pdst imm, cp := p } ∧ predTrue (getCore s core).p p = true ∧ (getCore s core).flight = []) ∧
    (∃ (s : State), ∃ (core : Nat), ∃ (areg : BitVec 4), ∃ (cmp : BitVec 3), coreOk s core = true ∧ coreRuns s (getCore s core) = true ∧ (cmp = 6 ∨ cmp = 7) ∧ areg ≠ 0) ∧
    (∃ (s : State), ∃ (core : Nat), ∃ (p : BitVec 4), ∃ (v : BitVec 32), SlotIssues s core { c := .cmark 0 v, cp := p } ∧ predTrue (getCore s core).p p = true ∧ (getCore s core).flight = []) ∧
    (∃ (s : State), ∃ (core : Nat), ∃ (v : BitVec 32), SlotIssues s core { c := .cmark 1 v } ∧ (getCore s core).flight = []) :=
  ⟨⟨rs, 3, 0, 3, 1, 7, issues_of _ _ _ (by decide +kernel), by decide +kernel⟩,
   ⟨rs, 3, 0, 1, 0, 7, issues_of _ _ _ (by decide +kernel), by decide +kernel⟩,
   ⟨rs, 3, 0, 1, 0, 2, 0x40, issues_of _ _ _ (by decide +kernel), by decide +kernel⟩,
   ⟨rs, 3, 1, 6, by decide +kernel⟩,
   ⟨rs, 3, 0, 77, issues_of _ _ _ (by decide +kernel), by decide +kernel⟩,
   ⟨rs, 3, 77, issues_of _ _ _ (by decide +kernel), by decide +kernel⟩⟩

theorem witness_ControlFlowResults :
    (∃ (s : State), ∃ (core : Nat), ∃ (p : BitVec 4), ∃ (n : BitVec 10), SlotIssues s core { c := .cbr n, cp := p } ∧ predTrue (getCore s core).p p = true ∧ (getCore s core).flight = [] ∧ (getCore s core).loops = []) ∧
    (∃ (s : State), ∃ (core : Nat), ∃ (p : BitVec 4), ∃ (fromReg : Bool), ∃ (areg : BitVec 4), ∃ (count1 body1 : BitVec 16), SlotIssues s core { c := .cloop fromReg areg count1 body1, cp := p } ∧ predTrue (getCore s core).p p = true ∧ (getCore s core).flight = [] ∧ body1.toNat + 1 ≤ 1024 ∧ (getCore s core).loops = []) ∧
    (∃ (s : State), ∃ (core : Nat), ∃ (p : BitVec 4), ∃ (fromReg : Bool), ∃ (areg : BitVec 4), ∃ (count1 body1 : BitVec 16), SlotIssues s core { c := .cloop fromReg areg count1 body1, cp := p } ∧ predTrue (getCore s core).p p = true ∧ (getCore s core).flight = [] ∧ body1.toNat + 1 ≤ 1024 ∧ (getCore s core).loops = []) ∧
    (∃ (s : State), ∃ (core : Nat), ∃ (status : BitVec 16), SlotIssues (seqSolo s (.chalt status)) core { c := .chalt status } ∧ (getCore s core).flight = []) ∧
    (∃ (s : State), ∃ (core : Nat), ∃ (v : BitVec 32), seqFetches s = true ∧ s.seq.kind2.length < 8 ∧ s.seq.walk = [] ∧ SlotIssues (seqMark2 s s.seq.fetchPos s.seq.fetchIdx) core { c := .cmark 2 v } ∧ (getCore s core).flight = []) ∧
    (∃ (s : State), ∃ (v : Variant), seqFetches s = true ∧ s.seq.ctx.variant = some v ∧ s.seq.ctx.loops = []) ∧
    (∃ (s : State), ∃ (mode : BitVec 2), ∃ (index : BitVec 6), seqFetches s = true ∧ (mode = 0 ∨ mode = 1) ∧ s.seq.ctx.variant = none ∧ 
    let k := if mode = 0 then s.seq.ctx.vclass else index.toNat
    
    let a := regF s 0x3F0000010020 45 6 * 64 + 16 * k
    memCheck s a 16 false false = none ∧ spanDown s a 16 = false ∧ firstPoison s a 16 = none ∧ fieldAt (memBytes s a 16) 8 1 = 1 ∧ fieldAt (memBytes s a 16) 9 7 = 0) ∧
    (∃ (s : State), ∃ (mode : BitVec 2), ∃ (index : BitVec 6), seqFetches s = true ∧ (mode = 0 ∨ mode = 1) ∧ s.seq.ctx.variant = none ∧ 
    let k := if mode = 0 then s.seq.ctx.vclass else index.toNat
    
    let a := regF s 0x3F0000010020 45 6 * 64 + 16 * k
    memCheck s a 16 false false = none ∧ spanDown s a 16 = false ∧ firstPoison s a 16 = none ∧ fieldAt (memBytes s a 16) 8 1 = 1 ∧ fieldAt (memBytes s a 16) 9 7 = 0) :=
  ⟨⟨rs, 3, 0, 4, issues_of _ _ _ (by decide +kernel), by decide +kernel⟩,
   ⟨rs, 3, 0, false, 0, 1, 3, issues_of _ _ _ (by decide +kernel), by decide +kernel⟩,
   ⟨rs, 3, 0, true, 1, 0, 1023, issues_of _ _ _ (by decide +kernel), by decide +kernel⟩,
   ⟨rs, 3, 9, issues_of _ _ _ (by decide +kernel), by decide +kernel⟩,
   ⟨rf, 3, 9, by decide +kernel, by decide +kernel, by decide +kernel, ⟨issues_of _ _ _ (by decide +kernel), by decide +kernel⟩⟩,
   ⟨{ rf with seq := { rf.seq with ctx := ⟨[], some ⟨7, 2, 3, 0⟩, 0⟩ } }, ⟨7, 2, 3, 0⟩, by decide +kernel⟩,
   ⟨rf, 0, 0, by decide +kernel⟩,
   ⟨rf, 1, 0, by decide +kernel⟩⟩

theorem witness_CounterSlotResults :
    (∃ (s : State), ∃ (core : Nat), ∃ (p : BitVec 4), ∃ (ctr : BitVec 6), ∃ (n : BitVec 16), SlotIssues s core { s := .sinc ctr n, sp := p } ∧ predTrue (getCore s core).p p = true ∧ (getCore s core).flight = [] ∧ (smGet 0 (getCore s core).s ctr.toNat).toNat + n.toNat ≤ 65535) ∧
    (∃ (s : State), ∃ (core : Nat), ∃ (p : BitVec 4), ∃ (ctr : BitVec 6), ∃ (n : BitVec 16), SlotIssues s core { s := .sinc ctr n, sp := p } ∧ predTrue (getCore s core).p p = true ∧ (getCore s core).flight = [] ∧ (smGet 0 (getCore s core).s ctr.toNat).toNat + n.toNat ≤ 65535) ∧
    (∃ (s : State), ∃ (core : Nat), ∃ (p : BitVec 4), ∃ (ctr : BitVec 6), ∃ (n : BitVec 16), SlotIssues s core { s := .sinc ctr n, sp := p } ∧ predTrue (getCore s core).p p = true ∧ 65535 < (smGet 0 (getCore s core).s ctr.toNat).toNat + n.toNat ∧ s.job.fatal = none) ∧
    (∃ (s : State), ∃ (core : Nat), ∃ (p : BitVec 4), ∃ (ctr : BitVec 6), ∃ (n : BitVec 16), SlotIssues s core { s := .swait ctr n, sp := p } ∧ predTrue (getCore s core).p p = true ∧ (getCore s core).flight = []) ∧
    (∃ (s : State), ∃ (core : Nat), ∃ (p : BitVec 4), ∃ (ctr : BitVec 6), ∃ (n : BitVec 16), coreOk s core = true ∧ coreRuns s (getCore s core) = true ∧ operandBad { s := .swait ctr n, sp := p } = false ∧ step2 s core (getCore s core) (soloBundle (getCore s core) s.seq.ctx) (getCore s core).nextPos (getCore s core).nextIdx { s := .swait ctr n, sp := p } = none ∧ predTrue (getCore s core).p p = true ∧ (getCore s core).flight = [] ∧ (smGet 0 (getCore s core).s ctr.toNat).toNat < n.toNat) ∧
    (∃ (s : State), ∃ (core : Nat), ∃ (p : BitVec 4), ∃ (ctr : BitVec 6), ∃ (n : BitVec 16), SlotIssues s core { s := .sdec ctr n, sp := p } ∧ predTrue (getCore s core).p p = true ∧ (getCore s core).flight = [] ∧ n.toNat ≤ (smGet 0 (getCore s core).s ctr.toNat).toNat) ∧
    (∃ (s : State), ∃ (core : Nat), ∃ (p : BitVec 4), ∃ (ctr : BitVec 6), ∃ (n : BitVec 16), SlotIssues s core { s := .sdec ctr n, sp := p } ∧ predTrue (getCore s core).p p = true ∧ (smGet 0 (getCore s core).s ctr.toNat).toNat < n.toNat ∧ s.job.fatal = none ∧ (getCore s core).flight = []) :=
  ⟨⟨rs, 3, 0, 2, 0, issues_of _ _ _ (by decide +kernel), by decide +kernel⟩,
   ⟨rs, 3, 0, 2, 65530, issues_of _ _ _ (by decide +kernel), by decide +kernel⟩,
   ⟨rs, 3, 0, 2, 65531, issues_of _ _ _ (by decide +kernel), by decide +kernel⟩,
   ⟨rs, 3, 0, 2, 5, issues_of _ _ _ (by decide +kernel), by decide +kernel⟩,
   ⟨rs, 3, 0, 2, 6, by decide +kernel⟩,
   ⟨rs, 3, 0, 2, 5, issues_of _ _ _ (by decide +kernel), by decide +kernel⟩,
   ⟨rs, 3, 0, 2, 6, issues_of _ _ _ (by decide +kernel), by decide +kernel⟩⟩

theorem witness_BarrierAndSignalResults :
    (∃ (s : State), ∃ (core : Nat), ∃ (p : BitVec 4), ∃ (g : BitVec 9), ∃ (n : BitVec 16), SlotIssues s core { s := .sbar g n, sp := p } ∧ predTrue (getCore s core).p p = true ∧ (getCore s core).flight = []) ∧
    (∃ (s : State), ∃ (core : Nat), ∃ (p : BitVec 4), ∃ (g : BitVec 9), ∃ (n : BitVec 16), coreOk s core = true ∧ coreRuns s (getCore s core) = true ∧ operandBad { s := .sbar g n, sp := p } = false ∧ step2 s core (getCore s core) (soloBundle (getCore s core) s.seq.ctx) (getCore s core).nextPos (getCore s core).nextIdx { s := .sbar g n, sp := p } = none ∧ predTrue (getCore s core).p p = true ∧ (getCore s core).flight = [] ∧ (getCore s core).token = false ∧ (getCore s core).arrived = none ∧ (smGet 0 s.sync.g g.toNat).toNat < 65535 ∧ (∀ r, smGet none s.sync.rounds g.toNat = some r → r.n = n)) ∧
    (∃ (s : State), ∃ (core : Nat), ∃ (p areg : BitVec 4), ∃ (off : BitVec 16), SlotIssues s core { s := .ssig areg off, sp := p } ∧ predTrue (getCore s core).p p = true ∧ (getCore s core).flight = [] ∧ 
    let a := (resolve (getCore s core) areg off).toNat
    
    let d := bufRead (getCore s core) a 32
    a % 32 = 0 ∧ (∀ u, smGet false (getCore s core).bufPoison u = false) ∧ sigDescBad s d = false ∧ (sigOf s d).1 = devId s ∧ sigCount s < 4096 ∧ s.sync.selfWait = [] ∧ sigTargetBad s (sigOf s d).2 = false) ∧
    (∃ (s : State), ∃ (core : Nat), ∃ (p areg : BitVec 4), ∃ (off : BitVec 16), SlotIssues s core { s := .ssig areg off, sp := p } ∧ predTrue (getCore s core).p p = true ∧ (getCore s core).flight = [] ∧ 
    let a := (resolve (getCore s core) areg off).toNat
    
    let d := bufRead (getCore s core) a 32
    a % 32 = 0 ∧ (∀ u, smGet false (getCore s core).bufPoison u = false) ∧ sigDescBad s d = false ∧ (sigOf s d).1 ≠ devId s) :=
  ⟨⟨rc { cs with token := true }, 3, 0, 1, 2, issues_of _ _ _ (by decide +kernel), by decide +kernel⟩,
   ⟨rs, 3, 0, 1, 2, by decide +kernel, by decide +kernel, by decide +kernel, ⟨by decide +kernel, by decide +kernel, by decide +kernel, ⟨by decide +kernel, by decide +kernel, by decide +kernel, fun r h => nomatch (h : none = some r)⟩⟩⟩,
   ⟨rsig 0xFF 0x3F, 3, 0, 1, 0, issues_of _ _ _ (by decide +kernel), by decide +kernel, by decide +kernel, by decide +kernel, ⟨fun _ => rfl, by decide +kernel⟩⟩,
   ⟨{ rsig 5 0 with job := { run.job with members := [0, 5] } }, 3, 0, 1, 0, issues_of _ _ _ (by decide +kernel), by decide +kernel, by decide +kernel, by decide +kernel, ⟨fun _ => rfl, by decide +kernel⟩⟩⟩

theorem witness_CopySlotResults :
    (∃ (s : State), ∃ (core : Nat), ∃ (h : Hdr), ∃ (areg : BitVec 4), ∃ (off : BitVec 16), SlotIssues s core { x := .xloc areg off, xh := h } ∧ predTrue (getCore s core).p h.pred = true ∧ (getCore s core).flight = []) ∧
    (∃ (s : State), ∃ (core : Nat), ∃ (h : Hdr), ∃ (areg : BitVec 4), ∃ (off : BitVec 16), ∃ (ctx : BitVec 14), ∃ (col : Bool), (SlotIssues s core { x := if col then .xcol areg off ctx else .xstr areg off ctx, xh := h }) ∧ predTrue (getCore s core).p h.pred = true ∧ (getCore s core).flight = []) ∧
    (∃ (s : State), ∃ (core : Nat), ∃ (h : Hdr), ∃ (areg : BitVec 4), ∃ (off : BitVec 16), ∃ (ctx : BitVec 14), ∃ (col : Bool), (SlotIssues s core { x := if col then .xcol areg off ctx else .xstr areg off ctx, xh := h }) ∧ predTrue (getCore s core).p h.pred = true ∧ (getCore s core).flight = []) ∧
    (∃ (s : State), ∃ (core : Nat), ∃ (h : Hdr), ∃ (areg : BitVec 4), ∃ (off : BitVec 16), SlotIssues s core { x := .xwatch areg off, xh := h } ∧ predTrue (getCore s core).p h.pred = true ∧ (getCore s core).flight = [] ∧ (s.cores.all (fun p => p.2.arms.isEmpty) = true) ∧ 
    let d := bufRead (getCore s core) (resolve (getCore s core) areg off).toNat 32
    fieldAt d 0 1 = 1 ∧ slotsFree s (fieldAt d 8 8) (fieldAt d 8 8 + fieldAt d 16 8) = true) ∧
    (∃ (s : State), ∃ (core : Nat), ∃ (h : Hdr), ∃ (areg : BitVec 4), ∃ (off : BitVec 16), SlotIssues s core { x := .xwatch areg off, xh := h } ∧ predTrue (getCore s core).p h.pred = true ∧ (getCore s core).flight = [] ∧ (s.cores.all (fun p => p.2.arms.isEmpty) = true) ∧ 
    let d := bufRead (getCore s core) (resolve (getCore s core) areg off).toNat 32
    fieldAt d 0 1 = 2) ∧
    (∃ (s : State), ∃ (core : Nat), ∃ (h : Hdr), ∃ (a b w i : Bool), SlotIssues s core { x := .xfence a b w i, xh := h } ∧ predTrue (getCore s core).p h.pred = true ∧ (getCore s core).flight = []) ∧
    (∃ (s : State), ∃ (core : Nat), ∃ (f : Fence), coreOk s core = true ∧ (getCore s core).fence = some f ∧ (getCore s core).st ≠ .idle ∧ fenceOpen s core (getCore s core) f = true) :=
  ⟨⟨rcp, 3, h5, 1, 0, issues_of _ _ _ (by decide +kernel), by decide +kernel⟩,
   ⟨rstr, 3, h5, 1, 0, 7, false, issues_of _ _ _ (by decide +kernel), by decide +kernel⟩,
   ⟨rcol, 3, h5, 1, 0, 7, true, issues_of _ _ _ (by decide +kernel), by decide +kernel⟩,
   ⟨rwat 1 [], 3, h5, 1, 0, issues_of _ _ _ (by decide +kernel), by decide +kernel⟩,
   ⟨rwat 2 [(0, ⟨true, false⟩)], 3, h5, 1, 0, issues_of _ _ _ (by decide +kernel), by decide +kernel⟩,
   ⟨rs, 3, h5, true, true, true, false, issues_of _ _ _ (by decide +kernel), by decide +kernel⟩,
   ⟨rc { cs with st := .issuing, fence := some ⟨0xF, 5, 0, false⟩ }, 3, ⟨0xF, 5, 0, false⟩, by decide +kernel⟩⟩

theorem witness_BundleIssues :
    (∃ (s : State), ∃ (core : Nat), ∃ (b : Bundle), ∃ (sl : Slots), coreOk s core = true ∧ coreRuns s (getCore s core) = true ∧ (s.seq.log.find? (fun b => b.pos = (getCore s core).nextPos) = some b) ∧ bpHit s core b.idx = none ∧ (getCore s core).dbgStep = false ∧ s.mem.upsets = [] ∧ b.poison = false ∧ staticForm b.bits.toNat = none ∧ decodeSlots b.bits.toNat = some sl ∧ 
    let e := effSlots (getCore s core).p sl
    step2 s core (getCore s core) b (b.pos + 1) (b.idx + 1) e = none ∧ step3Ok (getCore s core) e.s = true ∧ step4Waits s core (getCore s core) (bDrain b.bits.toNat) e = false ∧ step5Cause s (getCore s core) e = 0 ∧ check6 s (getCore s core) e = none) ∧
    (∃ (s : State), ∃ (core : Nat), ∃ (b : Bundle), ∃ (sl : Slots), coreOk s core = true ∧ coreRuns s (getCore s core) = true ∧ (s.seq.log.find? (fun b => b.pos = (getCore s core).nextPos) = some b) ∧ bpHit s core b.idx = none ∧ (getCore s core).dbgStep = false ∧ s.mem.upsets = [] ∧ b.poison = false ∧ staticForm b.bits.toNat = none ∧ decodeSlots b.bits.toNat = some sl ∧ 
    let c := getCore s core
    
    let e := effSlots c.p sl
    step2 s core c b (b.pos + 1) (b.idx + 1) e = none ∧ step4Waits s core c (bDrain b.bits.toNat) e = false ∧ step5Cause s c e = 0 ∧ check6 s c e = none ∧ e.x = .nop ∧ e.s = .nop ∧ e.c = .nop ∧ (¬(e.vop = .vsr ∧ e.v.fn = 0)) ∧ (∀ t g r n f, e.t ≠ .tcfg t g r n f)) :=
  ⟨⟨rb, 3, nopBundle, { mh := ⟨0, 0⟩, vh := ⟨0, 0⟩, th := ⟨0, 0⟩, xh := ⟨0, 0⟩ }, by decide +kernel⟩,
   ⟨rb, 3, nopBundle, { mh := ⟨0, 0⟩, vh := ⟨0, 0⟩, th := ⟨0, 0⟩, xh := ⟨0, 0⟩ }, by decide +kernel, by decide +kernel, by decide +kernel, ⟨by decide +kernel, by decide +kernel, by decide +kernel, ⟨by decide +kernel, by decide +kernel, by decide +kernel, ⟨by decide +kernel, by decide +kernel, by decide +kernel, ⟨by decide +kernel, by decide +kernel, by decide +kernel, ⟨by decide +kernel, by decide +kernel, fun _ _ _ _ _ h => by cases h⟩⟩⟩⟩⟩⟩⟩

theorem witness_StreamMoves :
    (∃ (s : State), seqFetches s = true ∧ s.seq.ctx = ⟨[], none, s.seq.ctx.vclass⟩ ∧ s.seq.fetchIdx < regF s 0x3F0000010018 31 0 ∧ 
    let a := regF s 0x3F0000010010 45 6 * 64 + s.seq.fetchIdx * 64
    
    let w := bundleOfBytes (memBytes s a 64)
    memCheck s a 64 false false = none ∧ spanDown s a 64 = false ∧ s.mem.upsets = [] ∧ (wtNopf s a = false ∨ fetchDemand s = true) ∧ s.seq.miss = true ∧ mcPending s (a / 64) = false ∧ memPoisoned s a 64 = false ∧ bIdx12 w.toNat = s.seq.fetchIdx % 4096 ∧ decC (bC w.toNat) = some .nop) ∧
    (∃ (s : State), ∃ (b : Bundle), ∃ (q : List Bundle), multicastOk s = true ∧ s.seq.fetchQ = b :: q ∧ (s.cores.all (fun p => p.2.skips.isEmpty) = true)) :=
  ⟨⟨setReg rb aSeqImgBase 64, by decide +kernel⟩,
   ⟨rb, nopBundle, [], by decide +kernel⟩⟩

theorem witness_ArrayStepResults :
    (∃ (s : State), ∃ (core : Nat), ∃ (x : FOp), ∃ (p : Pass), coreOk s core = true ∧ (getCore s core).st ≠ .idle ∧ ((getCore s core).flight.find? (fun o => isMmul o && !o.started) = some x) ∧ passReady (getCore s core) x = true ∧ (∃ m, x.body = .m m ∧ passOf m x.addr2.toNat = some p) ∧ (∀ u, smGet false (getCore s core).bufPoison u = false) ∧ (∀ j, accBad (getCore s core) j = false) ∧ (getCore s core).act.faulty = false ∧ (getCore s core).shd.faulty = false ∧ s.mem.upsets = []) ∧
    (∃ (s : State), ∃ (core k : Nat), coreOk s core = true ∧ (getCore s core).st ≠ .idle ∧ oldestChain (getCore s core) = some k ∧ ((chainMembers (getCore s core) k).all (fun x => x.started) = true)) ∧
    (∃ (s : State), ∃ (core k : Nat), ∃ (x : FOp), ∃ (xs : List FOp), ∃ (first n : Nat), ∃ (zero : Bool), ∃ (ar : BitVec 4), ∃ (off : BitVec 16), ∃ (rows1 dest : BitVec 11), ∃ (fmt : BitVec 4), ∃ (acc : BitVec 3), ∃ (d1 c1 : BitVec 6), ∃ (rs : Bool), ∃ (sar : BitVec 4), coreOk s core = true ∧ (getCore s core).st ≠ .idle ∧ coreWf (getCore s core) = true ∧ oldestChain (getCore s core) = some k ∧ chainMembers (getCore s core) k = x :: xs ∧ ((x :: xs).all (fun y => y.started && decide (y.done = 63)) = true) ∧ x.body = .m (.mmul zero ar off rows1 dest fmt acc d1 c1 rs sar) ∧ mmulRange x.body = some (first, n) ∧ first % 1024 + n ≤ 1024) ∧
    (∃ (s : State), ∃ (core : Nat), ∃ (u : Unit3), ∃ (o : FOp), coreOk s core = true ∧ nextDone (getCore s core) u = some o) :=
  ⟨⟨rfl1 fop, 3, fop, ⟨true, 3, 1, 0, 2, 2, false, 0x40⟩, by decide +kernel, by decide +kernel, by decide +kernel, ⟨by decide +kernel, ⟨_, rfl, rfl⟩, fun _ => rfl, fun _ => rfl, by decide +kernel⟩⟩,
   ⟨rfl1 fop1, 3, 0, by decide +kernel⟩,
   ⟨rfl1 fop1, 3, 0, fop1, [], 0, 1, true, 1, 0, 0, 0, 3, 0, 1, 1, false, 0, by decide +kernel, by decide +kernel, by decide +kernel, ⟨by decide +kernel, by decide +kernel, by decide +kernel, ⟨rfl, by decide +kernel⟩⟩⟩,
   ⟨rfl1 { fop with body := .m .mswap }, 3, .m, { fop with body := .m .mswap }, by decide +kernel⟩⟩

theorem witness_SequencerCommandResults :
    (∃ (s : State), s.seq.st = .idle ∧ s.job.device = none ∧ regF s 0x3F0000010018 31 0 ≠ 0) ∧
    (∃ (s : State), s.seq.st = .running ∧ allHalted s = false ∧ s.job.device = none) ∧
    (∃ (s : State), s.seq.st = .halted ∧ s.job.fatal = none ∧ s.job.device = none) ∧
    (∃ (s : State), s.seq.st = .running ∧ s.job.device = none ∧ s.cores.length = nCores s ∧ (s.cores.all (fun p => p.2.chalted && coreIdle p.2) = true) ∧ (s.ce.all (fun p => p.2.ops.all (fun o => o.mgmt != 0 || !isWork o || o.completed)) = true) ∧ commitDue s = false) ∧
    (∃ (s : State), s.seq.st = .running ∧ s.job.device = none ∧ s.cores.length = nCores s ∧ (s.cores.all (fun p => p.2.chalted && coreIdle p.2) = true) ∧ (s.ce.all (fun p => p.2.ops.all (fun o => o.mgmt != 0 || !isWork o || o.completed)) = true) ∧ commitDue s = false) :=
  ⟨⟨jl .loaded, by decide +kernel⟩,
   ⟨jr, by decide +kernel⟩,
   ⟨{ jr with seq := { jr.seq with st := .halted } }, by decide +kernel⟩,
   ⟨allCores { jr with job := { jr.job with hold := 0 } } { Core.init with chalted := true }, by decide +kernel⟩,
   ⟨allCores { jr with job := { jr.job with hold := 5000 } } { Core.init with chalted := true }, by decide +kernel⟩⟩

theorem witness_StepAndHaltResults :
    (∃ (s : State), (s.seq.st = .running ∨ s.seq.st = .halting) ∧ s.job.device = none ∧ commitDue s = true) ∧
    (∃ (s : State), (s.seq.st = .running ∨ s.seq.st = .halting) ∧ s.job.device = none ∧ commitDue s = true) ∧
    (∃ (s : State), s.seq.st = .running ∧ s.seq.poll = true ∧ s.job.device = none ∧ s.mem.upsets = [] ∧ 
    let a := regF s 0x3F0000B00000 45 12 * 4096
    s.seq.tab = 2 ∧ tabWaits s a 64 = false ∧ tabWaits s a 0x940 = false ∧ spanDown s a 64 = false ∧ spanDown s a 0x940 = false ∧ memCheck s a 64 false false = none ∧ firstPoison s a 64 = none ∧ fieldAt (memBytes s a 64) 0 2 = (reg s 0x3F0000B00010).toNat % 65536 ∧ memCheck s a 0x940 false false = none ∧ firstPoison s a 0x940 = none ∧ seqFormBreach (memBytes s a 0x940) = none ∧ ∃ c, seqClass (memBytes s a 0x940) (seqTokens (memBytes s a 0x940)) = some c) ∧
    (∃ (s : State), s.seq.st = .halting ∧ s.job.order4 = false ∧ s.job.device = none ∧ s.job.fatal = none ∧ haltWaits s = false ∧ s.job.st ≠ .recovering ∧ s.job.st ≠ .preempting ∧ (s.cores.all (fun p => p.2.arms.isEmpty && p.2.l1.isEmpty && p.2.lcu.all (fun q => !q.active)) = true)) ∧
    (∃ (s : State), ∃ (core : Nat), coreOk s core = true ∧ s.seq.st = .halting ∧ s.job.device = none) :=
  ⟨⟨allCores jr { Core.init with key := ⟨1, 0, 0, 0⟩ }, .inl rfl, by decide +kernel⟩,
   ⟨allCores { jr with seq := { jr.seq with st := .halting } } { Core.init with key := ⟨1, 0, 0, 0⟩ }, .inr rfl, by decide +kernel⟩,
   ⟨{ setReg jr 0x3F0000B00000 0x1000 with seq := { jr.seq with poll := true, tab := 2 }, mem := { jr.mem with gddr := [(0, 0x1F), (0x1840, 1), (0x1843, 0x80)] } }, by decide +kernel, by decide +kernel, by decide +kernel, ⟨by decide +kernel, by decide +kernel, by decide +kernel, ⟨by decide +kernel, by decide +kernel, by decide +kernel, ⟨by decide +kernel, by decide +kernel, by decide +kernel, ⟨by decide +kernel, by decide +kernel, by decide +kernel, ⟨0, by decide +kernel⟩⟩⟩⟩⟩⟩,
   ⟨{ jr with seq := { jr.seq with st := .halting } }, by decide +kernel⟩,
   ⟨{ jr with seq := { jr.seq with st := .halting } }, 3, by decide +kernel⟩⟩

theorem witness_StartRendezvous :
    (∃ (s : State), ∃ (src d : BitVec 14), isLead s = true ∧ (s.job.st = .loaded ∨ s.job.st = .starting) ∧ s.job.members.contains src = true ∧ (liveMembers s).contains d = true ∧ d ≠ src ∧ s.job.ready.contains d = false) ∧
    (∃ (s : State), ∃ (src d : BitVec 14), isLead s = true ∧ (s.job.st = .loaded ∨ s.job.st = .starting) ∧ s.job.members.contains src = true ∧ (liveMembers s).contains d = true ∧ d ≠ src ∧ s.job.ready.contains d = false) ∧
    (∃ (s : State), ∃ (src : BitVec 14), isLead s = true ∧ s.job.st = .starting ∧ s.job.members.contains src = true ∧ (∀ d, (liveMembers s).contains d = true → d = src ∨ s.job.ready.contains d = true)) ∧
    (∃ (s : State), s.job.st = .starting ∧ s.seq.st = .idle ∧ s.job.device = none ∧ regF s 0x3F0000010018 31 0 ≠ 0) ∧
    (∃ (s : State), s.job.st = .starting) ∧
    (∃ (s : State), s.job.window = true ∧ isLead s = true ∧ s.job.st = .starting) :=
  ⟨⟨jl .loaded, 5, 6, by decide +kernel, .inl rfl, by decide +kernel⟩,
   ⟨jl .starting, 0, 6, by decide +kernel, .inr rfl, by decide +kernel⟩,
   ⟨{ jl .starting with job := { (jl .starting).job with ready := [0, 5] } }, 6, by decide +kernel, by decide +kernel, by decide +kernel, ready_all⟩,
   ⟨jm .starting, by decide +kernel⟩,
   ⟨jm .starting, by decide +kernel⟩,
   ⟨{ jl .starting with job := { (jl .starting).job with window := true } }, by decide +kernel⟩⟩

theorem witness_PreemptRendezvous :
    (∃ (s : State), s.job.st = .running ∧ allHalted s = false ∧ s.seq.st = .running ∧ s.job.device = none) ∧
    (∃ (s : State), ∃ (src d : BitVec 14), isLead s = true ∧ s.job.members.contains src = true ∧ (liveMembers s).contains d = true ∧ d ≠ src ∧ d ≠ devId s ∧ ((s.job.drained.any (fun p => p.1 == d)) = false)) ∧
    (∃ (s : State), s.job.st = .preempting ∧ s.job.order4 = true ∧ s.seq.st = .halting) ∧
    (∃ (s : State), ∃ (d : BitVec 14), s.job.st = .preempted ∧ s.job.restoredHere = false ∧ s.job.wiped = false ∧ jobLead s.job = some d ∧ d ≠ devId s ∧ s.mem.upsets = []) ∧
    (∃ (s : State), ∃ (src d : BitVec 14), isLead s = true ∧ s.job.st = .preempted ∧ s.job.members.contains src = true ∧ (liveMembers s).contains d = true ∧ d ≠ src ∧ s.job.restored.contains d = false ∧ s.job.restored.contains src = false) ∧
    (∃ (s : State), ∃ (src : BitVec 14), isLead s = true ∧ s.job.st = .preempted ∧ s.job.restoredHere = true ∧ s.seq.st = .halted ∧ s.job.fatal = none ∧ s.job.device = none ∧ s.job.members.contains src = true ∧ (∀ d, (liveMembers s).contains d = true → d = src ∨ s.job.restored.contains d = true)) :=
  ⟨⟨jr, by decide +kernel⟩,
   ⟨jl .preempting, 5, 6, by decide +kernel⟩,
   ⟨{ jr with seq := { jr.seq with st := .halting }, job := { jr.job with st := .preempting, order4 := true } }, by decide +kernel⟩,
   ⟨jm .preempted, 5, by decide +kernel⟩,
   ⟨jl .preempted, 5, 6, by decide +kernel⟩,
   ⟨{ jl .preempted with seq := { (jl .preempted).seq with st := .halted }, job := { (jl .preempted).job with restoredHere := true, restored := [0, 5] } }, 6, by decide +kernel, by decide +kernel, by decide +kernel, ⟨by decide +kernel, by decide +kernel, by decide +kernel, ⟨by decide +kernel, ready_all⟩⟩⟩⟩

theorem witness_MemberFailureResults :
    (∃ (s : State), ∃ (d : BitVec 14), jobLive s = true ∧ hasLeft s = false ∧ s.job.device = none ∧ watcherOf s = some d) ∧
    (∃ (s : State), ∃ (src : BitVec 14), jobLive s = true ∧ wardOf s = some src) ∧
    (∃ (s : State), ∃ (d : BitVec 14), jobLive s = true ∧ hasLeft s = false ∧ s.job.wardAt + 100000 ≤ now s ∧ wardOf s = some d ∧ d ≠ devId s ∧ s.job.members.contains d = true) ∧
    (∃ (s : State), ∃ (left : BitVec 14), ∃ (cause : BitVec 8), s.job.members.contains left = true ∧ cause ≠ 6 ∧ left ≠ devId s ∧ s.job.gone.contains left = false) ∧
    (∃ (s : State), ∃ (left orig : BitVec 14), s.job.members.contains left = true ∧ s.job.relayed.contains (left, orig) = false ∧ s.job.st = .running ∧ s.seq.st = .running ∧ allHalted s = false ∧ s.job.device = none ∧ s.job.fatal = none) ∧
    (∃ (s : State), ∃ (src : BitVec 14), isLead s = true ∧ s.job.members.contains src = true ∧ s.job.gone.contains src = false) ∧
    (∃ (s : State), ∃ (d : BitVec 14), isLead s = true ∧ s.job.st = .recovering ∧ s.job.viewAt + 10000000 ≤ now s ∧ s.job.notices ≠ [] ∧ (liveMembers s).contains d = true ∧ d ≠ devId s ∧ (reported s).contains d = false ∧ s.job.resent.contains d = false) ∧
    (∃ (s : State), ∃ (d : BitVec 14), isLead s = true ∧ s.job.st = .recovering ∧ s.job.viewAt + 20000000 ≤ now s ∧ s.job.notices ≠ [] ∧ (liveMembers s).contains d = true ∧ d ≠ devId s ∧ (reported s).contains d = false) :=
  ⟨⟨jr, 6, by decide +kernel⟩,
   ⟨jr, 5, by decide +kernel⟩,
   ⟨late jr, 5, by decide +kernel⟩,
   ⟨jr, 6, 1, by decide +kernel⟩,
   ⟨jr, 6, 6, by decide +kernel⟩,
   ⟨jl .recovering, 5, by decide +kernel⟩,
   ⟨late { jl .recovering with job := { (jl .recovering).job with notices := [⟨6, 6, 1, 0, 0, 0⟩] } }, 5, by decide +kernel⟩,
   ⟨late { jl .recovering with job := { (jl .recovering).job with notices := [⟨6, 6, 1, 0, 0, 0⟩] } }, 5, by decide +kernel⟩⟩

theorem witness_RecoveryAndSecuringResults :
    (∃ (s : State), ∃ (view : BitVec 32), s.job.st = .recovering ∧ s.job.view.toNat ≤ view.toNat) ∧
    (∃ (s : State), ∃ (p : PlanMsg), s.job.st = .recovering ∧ s.job.plan = some p ∧ copiesLeft s 3 = false) ∧
    (∃ (s : State), ∃ (b : BitVec 64), jobLive s = true ∧ s.seq.step.toNat < b.toNat) ∧
    (∃ (s : State), ∃ (p : Permit), ∃ (ps : List Permit), s.job.permits = p :: ps ∧ s.job.round = .opening ∧ ownerBusy s isRound = false ∧ roundLost s = false ∧ (ceBusy (getCe s (engineOf (fsCtx s))) + ((roundSlots s p).flatMap (fun x => regionCopies s x.1 x.2 true)).length ≤ 64)) ∧
    (∃ (s : State), ∃ (p : Permit), ∃ (ps : List Permit), s.job.permits = p :: ps ∧ s.job.round = .copying ∧ ownerBusy s isRound = false ∧ roundLost s = false ∧ copiesLeft s 2 = false) ∧
    (∃ (s : State), ∃ (p : Permit), ∃ (ps : List Permit), ∃ (d : BitVec 14), s.job.permits = p :: ps ∧ s.job.round = .closing ∧ ownerBusy s isRound = false ∧ roundLost s = false ∧ jobLead s.job = some d ∧ d ≠ devId s) ∧
    (∃ (s : State), ∃ (src d : BitVec 14), ∃ (gen : BitVec 32), ∃ (g : Gen), isLead s = true ∧ s.job.gen = some g ∧ g.gen = gen ∧ s.job.members.contains src = true ∧ (liveMembers s).contains d = true ∧ d ≠ src ∧ (g.answers.any (fun a => a.src == d) = false)) :=
  ⟨⟨jm .recovering, 0, by decide +kernel⟩,
   ⟨{ jm .recovering with job := { (jm .recovering).job with plan := some ⟨1, 0, 9, 1⟩ } }, ⟨1, 0, 9, 1⟩, by decide +kernel⟩,
   ⟨jm .running, 9, by decide +kernel⟩,
   ⟨prm .opening, ⟨1, 9, false, 0, 0⟩, [], by decide +kernel⟩,
   ⟨prm .copying, ⟨1, 9, false, 0, 0⟩, [], by decide +kernel⟩,
   ⟨prm .closing, ⟨1, 9, false, 0, 0⟩, [], 5, by decide +kernel⟩,
   ⟨{ jl .running with job := { (jl .running).job with gen := some ⟨1, 9, []⟩ } }, 5, 6, 1, ⟨1, 9, []⟩, by decide +kernel⟩⟩

theorem witness_SyncResults :
    (∃ (s : State), ∃ (g : BitVec 9), ∃ (r : Round), smGet none s.sync.rounds g.toNat = some r ∧ s.seq.st = .running ∧ r.n.toNat ≤ (smGet 0 s.sync.g g.toNat).toNat) ∧
    (∃ (s : State), ∃ (src ctx : BitVec 14), ∃ (g : Signal), oldestSig s src ctx = some g ∧ g.count.toNat ≤ (smGet 0 s.sync.tally (tallyKey src ctx)).toNat ∧ s.seq.st ≠ .faulted ∧ s.job.device = none ∧ s.sync.selfWait = [] ∧ (∀ k, (getLink s k).held = []) ∧ (bitOf g.counter.toNat 15 = true → (smGet 0 s.sync.g (g.counter.toNat % 512)).toNat + g.amount.toNat < 65536) ∧ (bitOf g.counter.toNat 15 = false → (smGet 0 (getCore s g.core.toNat).s (g.counter.toNat % 512)).toNat + g.amount.toNat < 65536) ∧ g.amount ≠ 0) ∧
    (∃ (s : State), ∃ (d : BitVec 14), detOn s = true ∧ allQuiet s = true ∧ s.sync.det = .quiet ∧ s.sync.quietAt + dlWindow s * 1000000 ≤ now s ∧ jobLead s.job = some d ∧ d ≠ devId s) ∧
    (∃ (s : State), ∃ (src d : BitVec 14), s.job.members.contains src = true ∧ (liveMembers s).contains d = true ∧ d ≠ src ∧ (s.sync.reports.any (fun r => r.src == d) = false)) ∧
    (∃ (s : State), s.sync.det = .blocked ∧ s.seq.st = .running ∧ s.job.fatal = none) :=
  ⟨⟨{ jr with sync := { jr.sync with g := [(1, 3)], rounds := [(1, some ⟨2, [3]⟩)] } }, 1, ⟨2, [3]⟩, by decide +kernel⟩,
   ⟨{ jr with sync := { jr.sync with held := [⟨5, 9, 3, 2, 1, 64⟩], tally := [(tallyKey 5 9, 100)] } }, 5, 9, ⟨5, 9, 3, 2, 1, 64⟩, by decide +kernel, by decide +kernel, by decide +kernel, ⟨by decide +kernel, by decide +kernel, fun _ => rfl, by decide +kernel⟩⟩,
   ⟨let s := late (setReg jr 0x3F0000410000 1); { s with seq := { s.seq with poll := true }, sync := { s.sync with det := .quiet }, job := { s.job with leads := [5] } }, 5, by decide +kernel⟩,
   ⟨jr, 5, 6, by decide +kernel⟩,
   ⟨{ jr with sync := { jr.sync with det := .blocked } }, by decide +kernel⟩⟩

theorem witness_PacketLands :
    (∃ (s : State), ∃ (link : Nat), ∃ (p : Packet), linkUp s link = true ∧ p.dst = devId s ∧ p.kz = false ∧ p.tag = s.job.tag ∧ s.job.gone.contains p.src = false ∧ jobTakes s = true ∧ s.job.device = none ∧ s.job.fatal = none ∧ s.job.left = false ∧ noneLost s = true ∧ noServed s = true ∧ (¬(s.job.st = .preempting ∧ s.job.order4 = true)) ∧ p.seq = (rxPair s p).point ∧ (rxPair s p).ahead = [] ∧ p.len ≠ 0 ∧ p.maskValid = false ∧ placeOf p.addr.toNat = .gddr ∧ landBad s p.addr.toNat p.len.toNat true = none ∧ (p.counted = false ∨ s.sync.pairs.length < 8192)) ∧
    (∃ (s : State), ∃ (link : Nat), ∃ (p : Packet), linkUp s link = true ∧ p.dst = devId s ∧ p.kz = false ∧ p.tag = s.job.tag ∧ s.job.gone.contains p.src = false ∧ jobTakes s = true ∧ s.job.device = none ∧ s.job.fatal = none ∧ s.job.left = false ∧ noneLost s = true ∧ noServed s = true ∧ (¬(s.job.st = .preempting ∧ s.job.order4 = true)) ∧ p.seq = (rxPair s p).point ∧ (rxPair s p).ahead = [] ∧ landBad s p.addr.toNat p.len.toNat false = none ∧ s.mem.upsets = [] ∧ placeOf p.addr.toNat ≠ .host ∧ s.seq.st ≠ .faulted ∧ (s.sync.det = .watch ∨ s.sync.det = .quiet) ∧ linesIn (touchRead s p.addr.toNat p.len.toNat 0) p = true ∧ (p.guard.all (fun g => slotsFree s g.1 g.2) = true)) ∧
    (∃ (s : State), ∃ (link : Nat), ∃ (p : Packet), linkUp s link = true ∧ p.dst = devId s ∧ p.kz = false ∧ p.tag = s.job.tag ∧ s.job.gone.contains p.src = false ∧ jobTakes s = true ∧ s.job.device = none ∧ s.job.fatal = none ∧ s.job.left = false ∧ noneLost s = true ∧ noServed s = true ∧ (¬(s.job.st = .preempting ∧ s.job.order4 = true)) ∧ p.seq = (rxPair s p).point ∧ (rxPair s p).ahead = [] ∧ sigBad { p with typ := 4 } = false ∧ sigTargetBad s (sigIn p) = false ∧ sigCount s < 4096) :=
  ⟨⟨lk up0, 0, pk 1 2 [1, 2], by decide +kernel, by decide +kernel, by decide +kernel, ⟨by decide +kernel, by decide +kernel, by decide +kernel, ⟨by decide +kernel, by decide +kernel, by decide +kernel, ⟨by decide +kernel, by decide +kernel, by decide +kernel, ⟨by decide +kernel, by decide +kernel, by decide +kernel, ⟨by decide +kernel, by decide +kernel, by decide +kernel, .inl (by decide +kernel)⟩⟩⟩⟩⟩⟩,
   ⟨let s := lk up0; { s with mem := { s.mem with hive := (touchRead s 0x1000 2 0).mem.hive } }, 0, { pk 2 2 [] with guard := some (0, 64) }, by decide +kernel, by decide +kernel, by decide +kernel, ⟨by decide +kernel, by decide +kernel, by decide +kernel, ⟨by decide +kernel, by decide +kernel, by decide +kernel, ⟨by decide +kernel, by decide +kernel, by decide +kernel, ⟨by decide +kernel, by decide +kernel, by decide +kernel, ⟨by decide +kernel, by decide +kernel, by decide +kernel, ⟨.inl (by decide +kernel), by decide +kernel⟩⟩⟩⟩⟩⟩⟩,
   ⟨lk up0, 0, pk 4 16 [3, 0, 2, 0, 1, 0, 0, 0, 0, 0, 0, 0, 0, 0, 0, 0], by decide +kernel⟩⟩

theorem witness_PacketAnswers :
    (∃ (s : State), ∃ (link : Nat), ∃ (p : Packet), linkUp s link = true ∧ p.dst = devId s ∧ p.kz = false ∧ s.job.device = none ∧ noneLost s = true ∧ (¬(s.job.st = .preempting ∧ s.job.order4 = true)) ∧ smWf TxPair.init s.fab.tx = true ∧ p.tag = s.job.tag ∧ s.job.gone.contains p.src = false ∧ jobTakes s = true ∧ s.job.fatal = none ∧ s.job.left = false ∧ noServed s = true ∧ ∃ (r : ReadWait), (s.fab.reads.find? (fun r => r.dst == p.src && r.ctx == p.ctx && r.seq == p.seq) = some r)) ∧
    (∃ (s : State), ∃ (link : Nat), ∃ (p : Packet), linkUp s link = true ∧ p.dst = devId s ∧ p.kz = false ∧ s.job.device = none ∧ noneLost s = true ∧ (¬(s.job.st = .preempting ∧ s.job.order4 = true)) ∧ smWf TxPair.init s.fab.tx = true ∧ p.tag = s.job.tag ∧ s.job.gone.contains p.src = false ∧ jobTakes s = true ∧ s.job.fatal = none ∧ s.job.left = false ∧ noServed s = true ∧ 
    let pair := smGet TxPair.init s.fab.tx (txKey p.ctx p.src)
    pair.wait = []) ∧
    (∃ (s : State), ∃ (link : Nat), ∃ (p : Packet), linkUp s link = true ∧ p.dst = devId s ∧ p.kz = false ∧ s.job.device = none ∧ noneLost s = true ∧ (¬(s.job.st = .preempting ∧ s.job.order4 = true)) ∧ smWf TxPair.init s.fab.tx = true ∧ p.tag = s.job.tag ∧ s.job.gone.contains p.src = false ∧ jobTakes s = true ∧ s.job.fatal = none ∧ s.job.left = false ∧ noServed s = true ∧ 
    let ctx := BitVec.ofNat 14 (fieldAt p.payload 0 2)
    
    let pair := smGet TxPair.init s.fab.tx (txKey ctx p.src)
    2 ≤ (getLink s link).fpl ∧ p.len = 4 ∧ pair.wait = []) ∧
    (∃ (s : State), ∃ (link : Nat), ∃ (p : Packet), linkUp s link = true ∧ p.dst = devId s ∧ p.kz = false ∧ s.job.device = none ∧ noneLost s = true ∧ (¬(s.job.st = .preempting ∧ s.job.order4 = true)) ∧ smWf TxPair.init s.fab.tx = true ∧ p.tag = s.job.tag ∧ s.job.gone.contains p.src = false ∧ jobTakes s = true ∧ s.job.fatal = none ∧ s.job.left = false ∧ noServed s = true) ∧
    (∃ (s : State), ∃ (link : Nat), ∃ (p : Packet), linkUp s link = true ∧ p.dst = devId s ∧ p.kz = false ∧ s.job.device = none ∧ noneLost s = true ∧ (¬(s.job.st = .preempting ∧ s.job.order4 = true)) ∧ smWf TxPair.init s.fab.tx = true ∧ p.tag = s.job.tag ∧ s.job.gone.contains p.src = false ∧ jobTakes s = true ∧ s.job.fatal = none ∧ s.job.left = false ∧ noServed s = true ∧ ∃ q k uid frag o, ((smGet TxPair.init s.fab.tx (txKey p.ctx p.src)).air.find? (fun q => q.pkt.seq == BitVec.ofNat 16 p.spec.toNat) = some q) ∧ q.owner = .ce k uid frag ∧ o ∈ (getCe s k).ops ∧ o.uid = uid) :=
  ⟨⟨{ ltx txq with fab := { (ltx txq).fab with reads := [⟨5, 9, 0, .ce 2 1 0, 0, 2⟩] } }, 0, pk 3 2 [1, 2], by decide +kernel, by decide +kernel, by decide +kernel, ⟨by decide +kernel, by decide +kernel, by decide +kernel, ⟨by decide +kernel, by decide +kernel, by decide +kernel, ⟨by decide +kernel, by decide +kernel, by decide +kernel, ⟨by decide +kernel, ⟨5, 9, 0, .ce 2 1 0, 0, 2⟩, by decide +kernel⟩⟩⟩⟩⟩,
   ⟨ltx txq, 0, pk 5 0 [], by decide +kernel⟩,
   ⟨ltx txq, 0, pk 8 4 [9, 0, 0, 0], by decide +kernel⟩,
   ⟨ltx txq, 0, pk 6 0 [], by decide +kernel⟩,
   ⟨{ ltx txq with ce := [(2, ⟨[cop], 0⟩)] }, 0, pk 7 0 [], by decide +kernel, by decide +kernel, by decide +kernel, ⟨by decide +kernel, by decide +kernel, by decide +kernel, ⟨by decide +kernel, by decide +kernel, by decide +kernel, ⟨by decide +kernel, by decide +kernel, by decide +kernel, ⟨by decide +kernel, txq, 2, 1, 0, cop, by decide +kernel⟩⟩⟩⟩⟩⟩

theorem witness_SourceTimers :
    (∃ (s : State), ∃ (dst ctx : BitVec 14), ∃ (q : TxPkt), mayInject s = true ∧ noneLost s = true ∧ noServed s = true ∧ (¬(s.job.st = .preempting ∧ s.job.order4 = true)) ∧ 
    let pair := smGet TxPair.init s.fab.tx (txKey ctx dst)
    (dueOf (pair.air ++ s.fab.rsp.filter (fun q => q.pkt.dst == dst && q.pkt.ctx == ctx)) = some q) ∧ q ∈ pair.air ∧ q.pkt.typ ≠ 3) ∧
    (∃ (s : State), ∃ (dst ctx : BitVec 14), ∃ (q : TxPkt), mayInject s = true ∧ 
    let pair := smGet TxPair.init s.fab.tx (txKey ctx dst)
    (pair.air.find? (fun q => q.nacked) = some q)) ∧
    (∃ (s : State), ∃ (m : Tc0), ∃ (ms : List Tc0), ∃ (i k h : Nat), s.fab.tc0q = m :: ms ∧ m.dst ≠ devId s ∧ m.kind ≠ 5 ∧ pickPath s (.tc0 m 0 0) = some (i, k, h)) ∧
    (∃ (s : State), ∃ (m : Tc0), s.fab.tc0Held = [m] ∧ m.kind = 4 ∧ smWf 0 s.fab.tc0Rx = true) :=
  ⟨⟨ltx txq, 5, 9, txq, by decide +kernel⟩,
   ⟨ltx { txq with nacked := true }, 5, 9, { txq with nacked := true }, by decide +kernel⟩,
   ⟨{ setReg (lk up0) 0x3F0000900028 0x8040 with fab := { (lk up0).fab with tc0q := [hb] } }, hb, [], 0, 0, 1, by decide +kernel⟩,
   ⟨{ lk up0 with fab := { (lk up0).fab with tc0Held := [{ hb with dst := 0, src := 5, seq := 1 }] } }, { hb with dst := 0, src := 5, seq := 1 }, by decide +kernel⟩⟩

theorem witness_LinkStates :
    (∃ (s : State), ∃ (k : Nat), k < 36 ∧ (getLink s k).st = .training ∧ (getLink s k).hello = false) ∧
    (∃ (s : State), ∃ (k : Nat), k < 36 ∧ (getLink s k).st = .training ∧ (getLink s k).attempts < 3) ∧
    (∃ (s : State), ∃ (k : Nat), k < 36 ∧ (getLink s k).st = .training ∧ 3 ≤ (getLink s k).attempts) ∧
    (∃ (s : State), ∃ (k : Nat), ∃ (dev : BitVec 14), ∃ (index fpl : BitVec 8), k < 36 ∧ (getLink s k).st = .training ∧ (getLink s k).hello = true ∧ fieldAt (linkEntry s k) 2 2 = dev.toNat ∧ fieldAt (linkEntry s k) 4 1 = index.toNat ∧ fpl ≠ 0) ∧
    (∃ (s : State), ∃ (k : Nat), ∃ (dev : BitVec 14), ∃ (index fpl : BitVec 8), k < 36 ∧ (getLink s k).st = .training ∧ (getLink s k).hello = true ∧ (¬(fieldAt (linkEntry s k) 2 2 = dev.toNat ∧ fieldAt (linkEntry s k) 4 1 = index.toNat ∧ fpl ≠ 0))) ∧
    (∃ (s : State), ∃ (k : Nat), ∃ (dev : BitVec 14), ∃ (index fpl : BitVec 8), k < 36 ∧ (getLink s k).st = .training ∧ (getLink s k).hello = true ∧ (¬(fieldAt (linkEntry s k) 2 2 = dev.toNat ∧ fieldAt (linkEntry s k) 4 1 = index.toNat ∧ fpl ≠ 0))) ∧
    (∃ (s : State), ∃ (k : Nat), linkUp s k = true) ∧
    (∃ (s : State), ∃ (k : Nat), ∃ (i : Instr), linkUp s k = true ∧ (i = .laneUnhealthy k none ∨ i = .neighbourRetrain k)) ∧
    (∃ (s : State), ∃ (k : Nat), ∃ (i : Instr), linkUp s k = true ∧ (i = .laneUnhealthy k none ∨ i = .neighbourRetrain k)) ∧
    (∃ (s : State), ∃ (k : Nat), k < 36 ∧ (getLink s k).st = .retrain ∧ (lanePick (getLink s k).sick).1 ≠ 0) ∧
    (∃ (s : State), ∃ (k : Nat), k < 36 ∧ (getLink s k).st = .retrain) :=
  ⟨⟨lk { up0 with st := .training }, 0, by decide +kernel⟩,
   ⟨lk { up0 with st := .training, attempts := 2 }, 0, by decide +kernel⟩,
   ⟨lk { up0 with st := .training, attempts := 3 }, 0, by decide +kernel⟩,
   ⟨lk { up0 with st := .training, hello := true }, 0, 0, 0, 2, by decide +kernel⟩,
   ⟨lk { up0 with st := .training, hello := true }, 0, 5, 0, 2, by decide +kernel⟩,
   ⟨lk { up0 with st := .training, hello := true }, 0, 0, 0, 0, by decide +kernel⟩,
   ⟨lk up0, 0, by decide +kernel⟩,
   ⟨lk up0, 0, .laneUnhealthy 0 none, by decide +kernel, .inl rfl⟩,
   ⟨lk up0, 0, .neighbourRetrain 0, by decide +kernel, .inr rfl⟩,
   ⟨lk { up0 with st := .retrain, sick := 1 }, 0, by decide +kernel⟩,
   ⟨lk { up0 with st := .retrain, sick := 15 }, 0, by decide +kernel⟩⟩

theorem witness_FlitResults :
    (∃ (s : State), ∃ (k : Nat), ∃ (f : TxFlit), ∃ (fs : List TxFlit), linkUp s k = true ∧ (getLink s k).replay = f :: fs) ∧
    (∃ (s : State), ∃ (k cls ph : Nat), ∃ (d : SMap Int), linkUp s k = true ∧ (getLink s k).replay = [] ∧ (getLink s k).retry.length < 256 ∧ pickClass s (getLink s k) = some (cls, d) ∧ pickPhase s (getLink s k) cls = some ph) ∧
    (∃ (s : State), ∃ (k : Nat), linkUp s k = true ∧ (getLink s k).replay = [] ∧ (256 ≤ (getLink s k).retry.length ∨ pickClass s (getLink s k) = none)) ∧
    (∃ (s : State), ∃ (k : Nat), ∃ (fec : FecOutcome), ∃ (raw : List Byte), linkUp s k = true ∧ flitOk fec raw = true ∧ bitsOf (fieldAt raw 0 2) 15 14 = 0 ∧ bitsOf (fieldAt raw 0 2) 13 12 ≠ 0 ∧ 
    let l := getLink s k
    
    let n := BitVec.ofNat 12 (fieldAt raw 0 2 % 4096)
    
    let want : BitVec 12 := if l.rxAny then l.rxSeq + 1 else 0
    
    let lane := bitsOf (fieldAt raw 0 2) 13 12 * 3 + fieldAt raw 14 1 % 4
    
    let got := parsePkts 22 (smGet [] l.part lane ++ slice raw 16 flitPay)
    n = want ∧ got.1 = []) ∧
    (∃ (s : State), ∃ (k : Nat), ∃ (fec : FecOutcome), ∃ (raw : List Byte), linkUp s k = true ∧ flitOk fec raw = true ∧ bitsOf (fieldAt raw 0 2) 15 14 = 0 ∧ bitsOf (fieldAt raw 0 2) 13 12 ≠ 0 ∧ 
    let l := getLink s k
    
    let n := BitVec.ofNat 12 (fieldAt raw 0 2 % 4096)
    
    let want : BitVec 12 := if l.rxAny then l.rxSeq + 1 else 0
    n ≠ want ∧ (n - want).toNat < 2048 ∧ l.rxWait = false) ∧
    (∃ (s : State), ∃ (k : Nat), ∃ (fec : FecOutcome), ∃ (raw : List Byte), linkUp s k = true ∧ flitOk fec raw = true ∧ bitsOf (fieldAt raw 0 2) 15 14 = 0 ∧ bitsOf (fieldAt raw 0 2) 13 12 ≠ 0 ∧ 
    let l := getLink s k
    
    let n := BitVec.ofNat 12 (fieldAt raw 0 2 % 4096)
    
    let want : BitVec 12 := if l.rxAny then l.rxSeq + 1 else 0
    2048 ≤ (n - want).toNat) ∧
    (∃ (s : State), ∃ (k : Nat), ∃ (fec : FecOutcome), ∃ (raw : List Byte), ∃ (i : Instr), linkUp s k = true ∧ flitOk fec raw = false ∧ (i = .dataFlit k fec raw ∨ i = .idleFlit k fec raw)) ∧
    (∃ (s : State), ∃ (k : Nat), ∃ (fec : FecOutcome), ∃ (raw : List Byte), ∃ (i : Instr), linkUp s k = true ∧ flitOk fec raw = false ∧ (i = .dataFlit k fec raw ∨ i = .idleFlit k fec raw)) ∧
    (∃ (s : State), ∃ (k : Nat), ∃ (fec : FecOutcome), ∃ (raw : List Byte), linkUp s k = true ∧ flitOk fec raw = true ∧ bitOf (fieldAt raw 2 2) 12 = true ∧ bitOf (fieldAt raw 2 2) 13 = false) ∧
    (∃ (s : State), ∃ (k : Nat), linkUp s k = true) :=
  ⟨⟨lk { up0 with replay := [⟨0, zeros 640, []⟩], retry := [⟨0, zeros 640, []⟩] }, 0, ⟨0, zeros 640, []⟩, [], by decide +kernel⟩,
   ⟨lk { up0 with q := [(0, [⟨.tc0 hb 0 0, zeros 32, 0, 36⟩])] }, 0, 0, 0, [], by decide +kernel⟩,
   ⟨lk up0, 0, by decide +kernel⟩,
   ⟨lk up0, 0, .clean, rawFlit [0, 0x10], by decide +kernel, rawFlit_ok _, by decide +kernel⟩,
   ⟨lk up0, 0, .clean, rawFlit [0xFF, 0x17], by decide +kernel, rawFlit_ok _, by decide +kernel⟩,
   ⟨lk up0, 0, .clean, rawFlit [0, 0x18], by decide +kernel, rawFlit_ok _, by decide +kernel⟩,
   ⟨lk up0, 0, .uncorrectable, zeros 640, .dataFlit 0 .uncorrectable (zeros 640), by decide +kernel, by decide +kernel, .inl rfl⟩,
   ⟨lk up0, 0, .uncorrectable, zeros 640, .idleFlit 0 .uncorrectable (zeros 640), by decide +kernel, by decide +kernel, .inr rfl⟩,
   ⟨lk up0, 0, .clean, rawFlit [0, 0, 0, 0x10], by decide +kernel, rawFlit_ok _, by decide +kernel⟩,
   ⟨lk { up0 with retry := [⟨7, [], []⟩] }, 0, by decide +kernel⟩⟩

theorem witness_TimeResults :
    (∃ (s : State), isRoot s = false ∧ s.tim.started = true ∧ linkUp s (parentLink s) = true) ∧
    (∃ (s : State), ∃ (link : Nat), link < 36 ∧ syncSt s = 2) ∧
    (∃ (s : State), ∃ (link : Nat), link < 36 ∧ syncSt s ≠ 2) ∧
    (∃ (s : State), ∃ (link : Nat), isRoot s = false ∧ link = parentLink s ∧ linkUp s link = true ∧ syncSt s = 0 ∧ regsWf s = true) ∧
    (∃ (s : State), ∃ (link : Nat), isRoot s = false ∧ link = parentLink s ∧ linkUp s link = true ∧ syncSt s = 1 ∧ regsWf s = true) ∧
    (∃ (s : State), ∃ (link : Nat), isRoot s = false ∧ link = parentLink s ∧ linkUp s link = true ∧ syncSt s = 2 ∧ regsWf s = true) ∧
    (∃ (s : State), isRoot s = false ∧ s.tim.holdover = true ∧ syncSt s ≠ 3) ∧
    (∃ (s : State), isRoot s = false ∧ regsWf s = true) ∧
    (∃ (s : State), isRoot s = true ∧ s.tim.edges = 0 ∧ syncSt s = 0) ∧
    (∃ (s : State), isRoot s = true ∧ ((s.tim.edges = 0 ∧ syncSt s ≠ 0) ∨ (s.tim.edges ≠ 0 ∧ s.tim.follows = false))) ∧
    (∃ (s : State), isRoot s = true ∧ ((s.tim.edges = 0 ∧ syncSt s ≠ 0) ∨ (s.tim.edges ≠ 0 ∧ s.tim.follows = false))) ∧
    (∃ (s : State), isRoot s = true ∧ s.tim.edges ≠ 0 ∧ s.tim.follows = true) ∧
    (∃ (s : State), isRoot s = true ∧ s.tim.started = true ∧ s.tim.follows = true) ∧
    (∃ (s : State), isRoot s = true ∧ s.tim.started = true ∧ s.tim.follows = false ∧ syncSt s = 0) ∧
    (∃ (s : State), regsWf s = true) :=
  ⟨⟨tm 0, by decide +kernel⟩,
   ⟨tm 2, 0, by decide +kernel⟩,
   ⟨tm 0, 0, by decide +kernel⟩,
   ⟨tm 0, 0, by decide +kernel⟩,
   ⟨tm 1, 0, by decide +kernel⟩,
   ⟨tm 2, 0, by decide +kernel⟩,
   ⟨let s := tm 0; { s with tim := { s.tim with holdover := true } }, by decide +kernel⟩,
   ⟨tm 0, by decide +kernel⟩,
   ⟨tr 0 0 false, by decide +kernel⟩,
   ⟨tr 1 0 false, by decide +kernel, .inl (by decide +kernel)⟩,
   ⟨tr 2 2 false, by decide +kernel, .inr (by decide +kernel)⟩,
   ⟨tr 1 1 true, by decide +kernel⟩,
   ⟨tr 2 2 true, by decide +kernel⟩,
   ⟨tr 0 0 false, by decide +kernel⟩,
   ⟨jr, by decide +kernel⟩⟩

theorem witness_LocalCopyResults :
    (∃ (s : State), ∃ (core : Nat), ∃ (q : Copy), coreOk s core = true ∧ copiesRun s = true ∧ nextCopy s (getCore s core) = some q) ∧
    (∃ (s : State), ∃ (core : Nat), ∃ (q0 q : Copy), ∃ (l0 l : List Copy), coreOk s core = true ∧ s.seq.st = .running ∧ s.job.device = none ∧ (getCore s core).lcu = q0 :: l0 ∧ q0.active = true ∧ readsIn s q0 = true ∧ 
    let s0 := lateRead s core q0
    (getCore s0 core).st ≠ .idle ∧ (getCore s0 core).lcu = q :: l ∧ readsIn s0 q = true ∧ q.fails = 0 ∧ (dGuard q.desc && watchTorn s0 (copyWatch core q)) = false ∧ (s0.cores.all (fun p => p.2.arms.isEmpty) = true) ∧ 
    let d := q.desc
    (dDstKind d = 0 ∨ dDstKind d = 1)) ∧
    (∃ (s : State), ∃ (core : Nat), ∃ (q0 q : Copy), ∃ (l0 l : List Copy), coreOk s core = true ∧ s.seq.st = .running ∧ s.job.device = none ∧ (getCore s core).lcu = q0 :: l0 ∧ q0.active = true ∧ readsIn s q0 = true ∧ 
    let s0 := lateRead s core q0
    (getCore s0 core).st ≠ .idle ∧ (getCore s0 core).lcu = q :: l ∧ readsIn s0 q = true ∧ q.fails = 0 ∧ (dGuard q.desc && watchTorn s0 (copyWatch core q)) = false ∧ (s0.cores.all (fun p => p.2.arms.isEmpty) = true) ∧ 
    let d := q.desc
    (dDstKind d = 0 ∨ dDstKind d = 1)) ∧
    (∃ (s : State), ∃ (core : Nat), ∃ (q0 q : Copy), ∃ (l0 l : List Copy), coreOk s core = true ∧ s.seq.st = .running ∧ s.job.device = none ∧ (getCore s core).lcu = q0 :: l0 ∧ q0.active = true ∧ readsIn s q0 = true ∧ 
    let s0 := lateRead s core q0
    (getCore s0 core).st ≠ .idle ∧ (getCore s0 core).lcu = q :: l ∧ readsIn s0 q = true ∧ q.fails = 0 ∧ (dGuard q.desc && watchTorn s0 (copyWatch core q)) = false ∧ (s0.cores.all (fun p => p.2.arms.isEmpty) = true) ∧ 
    let d := q.desc
    
    let r := draw s0
    
    let u := srcUsed r.2 core q r.1 q.todo false
    dDstKind d = 5 ∧ firstBad q core u = none) ∧
    (∃ (s : State), ∃ (core : Nat), ∃ (q0 q : Copy), ∃ (l0 l : List Copy), coreOk s core = true ∧ s.seq.st = .running ∧ s.job.device = none ∧ (getCore s core).lcu = q0 :: l0 ∧ q0.active = true ∧ readsIn s q0 = true ∧ 
    let s0 := lateRead s core q0
    (getCore s0 core).st ≠ .idle ∧ (getCore s0 core).lcu = q :: l ∧ readsIn s0 q = true ∧ q.fails = 0 ∧ (dGuard q.desc && watchTorn s0 (copyWatch core q)) = false ∧ (s0.cores.all (fun p => p.2.arms.isEmpty) = true) ∧ 
    let d := q.desc
    dDstKind d ≠ 0 ∧ dDstKind d ≠ 1 ∧ dDstKind d ≠ 5 ∧ (getCore s0 core).flight = []) ∧
    (∃ (s : State), ∃ (core : Nat), ∃ (q : Copy), coreOk s core = true ∧ copiesRun s = true ∧ ((getCore s core).lcu.find? (fun q => q.active && dGuard q.desc && watchTorn s (copyWatch core q) && (!(dTornfault q.desc || q.reread) || decide ((getCore s core).lcu.head?.map (fun q => q.ord) = some q.ord))) = some q) ∧ dTornfault q.desc = false ∧ q.reread = false) ∧
    (∃ (s : State), ∃ (core : Nat), ∃ (q : Copy), coreOk s core = true ∧ copiesRun s = true ∧ failedCopy (getCore s core) = some q ∧ s.job.fatal = none) ∧
    (∃ (s : State), ∃ (core : Nat), ∃ (q : Copy), coreOk s core = true ∧ (getCore s core).st ≠ .idle ∧ failedCopy (getCore s core) = some q ∧ copiesRun s = true ∧ s.job.fatal = none ∧ dDstKind q.desc = 1 ∧ (s.cores.all (fun p => p.2.arms.isEmpty) = true)) :=
  ⟨⟨lcu (cpy dcp), 3, cpy dcp, by decide +kernel⟩,
   ⟨lcu { cpy dcp with active := true }, 3, { cpy dcp with active := true }, { cpy dcp with active := true }, [], [], by decide +kernel, by decide +kernel, by decide +kernel, ⟨by decide +kernel, by decide +kernel, by decide +kernel, ⟨by decide +kernel, by decide +kernel, by decide +kernel, ⟨by decide +kernel, by decide +kernel, by decide +kernel, .inr (by decide +kernel)⟩⟩⟩⟩,
   ⟨lcu { cpy (dcp.set 0 1) with active := true }, 3, { cpy (dcp.set 0 1) with active := true }, { cpy (dcp.set 0 1) with active := true }, [], [], by decide +kernel, by decide +kernel, by decide +kernel, ⟨by decide +kernel, by decide +kernel, by decide +kernel, ⟨by decide +kernel, by decide +kernel, by decide +kernel, ⟨by decide +kernel, by decide +kernel, by decide +kernel, .inl (by decide +kernel)⟩⟩⟩⟩,
   ⟨lcu { cpy (dcp.set 0 0x51) with active := true }, 3, { cpy (dcp.set 0 0x51) with active := true }, { cpy (dcp.set 0 0x51) with active := true }, [], [], by decide +kernel⟩,
   ⟨lcu { cpy (dcp.set 0 0x21) with active := true }, 3, { cpy (dcp.set 0 0x21) with active := true }, { cpy (dcp.set 0 0x21) with active := true }, [], [], by decide +kernel⟩,
   ⟨let q := { cpy (dcp.set 3 1) with active := true }; { lcu q with mem := { (lcu q).mem with watch := [⟨copyWatch 3 q, 0, 64, true⟩] } }, 3, { cpy (dcp.set 3 1) with active := true }, by decide +kernel⟩,
   ⟨lcu { cpy dcp with active := true, failed := true }, 3, { cpy dcp with active := true, failed := true }, by decide +kernel⟩,
   ⟨lcu { cpy dcp with active := true, failed := true }, 3, { cpy dcp with active := true, failed := true }, by decide +kernel⟩⟩

theorem witness_EngineResults :
    (∃ (s : State), ∃ (k : BitVec 4), ∃ (o : CeOp), (∀ x, x ∈ (getCe s k.toNat).ops → ∀ d g, x.kind ≠ .sig d g) ∧ pickStart s k.toNat = some o ∧ o.kind = .copy ∧ o.mgmt = 0) ∧
    (∃ (s : State), ∃ (k : BitVec 4), ∃ (o : CeOp), s.seq.st = .running ∧ s.job.device = none ∧ snapSt s ≠ 2 ∧ pickEnd s k.toNat = some o ∧ getOp s k.toNat o.uid = some o ∧ o.kind = .copy ∧ o.mgmt = 0 ∧ (xstrPlan s o.desc).guard = false ∧ planFar (xstrPlan s o.desc) = false ∧ o.fails = 0 ∧ o.aborting = false ∧ ownFull s o (xstrPlan s o.desc) = false ∧ sStatus o.desc = 0 ∧ (s.cores.all (fun p => p.2.arms.isEmpty) = true) ∧ smWf Engine.init s.ce = true ∧ 
    let p := xstrPlan s o.desc
    
    let s1 := ceLate (setCe s k.toNat { getCe s k.toNat with last := o.ctx.toNat }) k.toNat o p
    ∃ o1, getOp s1 k.toNat o.uid = some o1 ∧ opReadsIn s1 p = true) ∧
    (∃ (s : State), ∃ (k : BitVec 4), ∃ (ctx : BitVec 14), ∃ (o : CeOp), failedOp s k.toNat ctx = some o ∧ retryOn s = true ∧ o.kind = .copy ∧ o.mgmt = 0 ∧ planSlots s (opPlan s o) = true) ∧
    (∃ (s : State), ∃ (k : BitVec 4), ∃ (ctx : BitVec 14), ∃ (o : CeOp), failedOp s k.toNat ctx = some o ∧ retryOn s = true) ∧
    (∃ (s : State), ∃ (k : BitVec 4), ∃ (ctx : BitVec 14), ∃ (o : CeOp), failedOp s k.toNat ctx = some o ∧ retryOn s = true ∧ o.kind = .copy ∧ o.mgmt = 0 ∧ abortOk s o (opPlan s o) = true ∧ smWf Engine.init s.ce = true ∧ planFar (opPlan s o) = false ∧ ctxFirst s k.toNat o = true) ∧
    (∃ (s : State), ∃ (k : BitVec 4), ∃ (ctx : BitVec 14), ∃ (o : CeOp), failedOp s k.toNat ctx = some o ∧ retryOn s = true ∧ o.kind = .copy ∧ o.mgmt = 0 ∧ abortOk s o (opPlan s o) = true ∧ smWf Engine.init s.ce = true ∧ (planFar (opPlan s o) = true ∨ ctxFirst s k.toNat o = false)) ∧
    (∃ (s : State), ∃ (k : BitVec 4), ∃ (ctx : BitVec 14), ∃ (o : CeOp), failedOp s k.toNat ctx = some o ∧ retryOn s = true ∧ o.kind = .copy ∧ o.mgmt = 0 ∧ abortOk s o (opPlan s o) = true ∧ smWf Engine.init s.ce = true ∧ (planFar (opPlan s o) = true ∨ ctxFirst s k.toNat o = false)) ∧
    (∃ (s : State), ∃ (ctx : BitVec 14), ∃ (o : CeOp), failedOp s (engineOf ctx) ctx = some o ∧ defaultOn s = true ∧ o.kind = .copy ∧ o.mgmt = 0 ∧ o.goes < (if o.code = 0x5003 then 1 else 3) ∧ (o.code = 0x5003 ∨ ceStuck s o = false) ∧ planSlots s (opPlan s o) = true) ∧
    (∃ (s : State), ∃ (ctx : BitVec 14), ∃ (o : CeOp), failedOp s (engineOf ctx) ctx = some o ∧ defaultOn s = true ∧ 3 ≤ o.goes) ∧
    (∃ (s : State), ∃ (core : Nat), ∃ (q : Copy), coreOk s core = true ∧ failedCopy (getCore s core) = some q ∧ defaultOn s = true ∧ q.goes < (if q.code = 0x5003 then 1 else 3) ∧ (q.code = 0x5003 ∨ lcuStuck s q = false) ∧ dGuard q.desc = false) :=
  ⟨⟨ceOf { cop with started := false }, 2, { cop with started := false }, ceOf_kind _ rfl, by decide +kernel⟩,
   ⟨ceOf { cop with started := true }, 2, { cop with started := true }, by decide +kernel, by decide +kernel, by decide +kernel, ⟨by decide +kernel, by decide +kernel, by decide +kernel, ⟨by decide +kernel, by decide +kernel, by decide +kernel, ⟨by decide +kernel, by decide +kernel, by decide +kernel, ⟨by decide +kernel, by decide +kernel, by decide +kernel, ⟨{ cop with started := true }, by decide +kernel⟩⟩⟩⟩⟩⟩,
   ⟨ceOf { cop with started := true, failed := true, code := 0x5003, failMask := 1 }, 2, 2, { cop with started := true, failed := true, code := 0x5003, failMask := 1 }, by decide +kernel⟩,
   ⟨ceOf { cop with started := true, failed := true, code := 0x5003, failMask := 1 }, 2, 2, { cop with started := true, failed := true, code := 0x5003, failMask := 1 }, by decide +kernel⟩,
   ⟨ceOf { cop with started := true, failed := true, code := 0x5003, failMask := 1 }, 2, 2, { cop with started := true, failed := true, code := 0x5003, failMask := 1 }, by decide +kernel⟩,
   ⟨ceOf { cop with started := true, failed := true, code := 0x5003, failMask := 1, desc := ((dstr.set 21 0x40).set 22 1).set 23 0x80 }, 2, 2, { cop with started := true, failed := true, code := 0x5003, failMask := 1, desc := ((dstr.set 21 0x40).set 22 1).set 23 0x80 }, by decide +kernel, by decide +kernel, by decide +kernel, ⟨by decide +kernel, by decide +kernel, by decide +kernel, .inl (by decide +kernel)⟩⟩,
   ⟨{ ceOf { cop with started := true, failed := true, code := 0x5003, failMask := 1 } with ce := [(2, ⟨[{ cop with uid := 2 }, { cop with started := true, failed := true, code := 0x5003, failMask := 1 }], 0⟩)] }, 2, 2, { cop with started := true, failed := true, code := 0x5003, failMask := 1 }, by decide +kernel, by decide +kernel, by decide +kernel, ⟨by decide +kernel, by decide +kernel, by decide +kernel, .inr (by decide +kernel)⟩⟩,
   ⟨ceOf { cop with started := true, failed := true, code := 0x5003, failMask := 1 }, 2, { cop with started := true, failed := true, code := 0x5003, failMask := 1 }, by decide +kernel, by decide +kernel, by decide +kernel, ⟨by decide +kernel, by decide +kernel, .inl rfl, by decide +kernel⟩⟩,
   ⟨ceOf { cop with failed := true, goes := 3 }, 2, { cop with failed := true, goes := 3 }, by decide +kernel⟩,
   ⟨lcu { cpy dcp with active := true, failed := true, code := 0x5003 }, 3, { cpy dcp with active := true, failed := true, code := 0x5003 }, by decide +kernel, by decide +kernel, by decide +kernel, ⟨by decide +kernel, .inl rfl, by decide +kernel⟩⟩⟩

theorem witness_CollectiveResults :
    (∃ (s : State), ∃ (k : BitVec 4), ∃ (ranges : List (BitVec 48 × BitVec 48)), ∃ (o : CeOp), noneLost s = true ∧ ctxNext (getCe s k.toNat).last ((getCe s k.toNat).ops.filter (colReady s k.toNat ranges)) = some o ∧ 
    let s1 := setCe s k.toNat { getCe s k.toNat with last := o.ctx.toNat }
    
    let c := colOf s1 k.toNat o
    colCheck s1 k.toNat o none = none ∧ o.asked = false ∧ flagPoison s1 c = none ∧ cOp o.desc ≠ 4 ∧ cOp o.desc ≠ 5 ∧ colAskBad s1 c (stepIn s1 c o.step ranges).reads = none) ∧
    (∃ (s : State), ∃ (k : BitVec 4), ∃ (ranges : List (BitVec 48 × BitVec 48)), ∃ (o : CeOp), noneLost s = true ∧ ctxNext (getCe s k.toNat).last ((getCe s k.toNat).ops.filter (colReady s k.toNat ranges)) = some o ∧ 
    let s1 := setCe s k.toNat { getCe s k.toNat with last := o.ctx.toNat }
    
    let c := colOf s1 k.toNat o
    colCheck s1 k.toNat o none = none ∧ o.asked = true ∧ cOp o.desc = 2 ∧ (cAlg o.desc = 0 ∨ c.g ≤ o.step + 1)) ∧
    (∃ (s : State), ∃ (k : BitVec 4), ∃ (o : CeOp), ((getCe s k.toNat).ops.find? (fun o => o.kind == .col && o.completed && ((relCheck s k.toNat o).isSome || allDone s (colOf s k.toNat o))) = some o) ∧ relCheck s k.toNat o = none ∧ ceSteps s = true ∧ snapSt s ≠ 2 ∧ smWf Engine.init s.ce = true) ∧
    (∃ (s : State), ∃ (k : BitVec 4), ∃ (o : CeOp), ceSteps s = true ∧ bktNext s k.toNat = some o ∧ 1 ≤ o.stage ∧ runsPend s (bktReads s o) = false ∧ bktCheck s k.toNat o = none) ∧
    (∃ (s : State), snapSt s ≠ 0) ∧
    (∃ (s : State), snapSt s = 0 ∧ (reg s 0x3F0000B00040).toNat ≤ s.seq.step.toNat) ∧
    (∃ (s : State), ∃ (t : BitVec 3), snapSt s = 0 ∧ s.seq.step.toNat < (reg s 0x3F0000B00040).toNat ∧ (snapEn s = false ∨ snapValid s t.toNat = false)) ∧
    (∃ (s : State), ∃ (t : BitVec 3), snapSt s = 0 ∧ s.seq.step.toNat < (reg s 0x3F0000B00040).toNat ∧ (snapEn s = false ∨ snapValid s t.toNat = false)) ∧
    (∃ (s : State), ∃ (t : BitVec 3), snapSt s = 0 ∧ s.seq.step.toNat < (reg s 0x3F0000B00040).toNat ∧ snapEn s = true ∧ snapValid s t.toNat = true) :=
  ⟨⟨sgat gat, 2, [], gat, by decide +kernel⟩,
   ⟨sgat { gat with asked := true, step := 1 }, 2, [], { gat with asked := true, step := 1 }, by decide +kernel, by decide +kernel, by decide +kernel, ⟨by decide +kernel, by decide +kernel, .inl (by decide +kernel)⟩⟩,
   ⟨sgat { gat with completed := true }, 2, { gat with completed := true }, by decide +kernel⟩,
   ⟨sgat { bkt with stage := 1 }, 2, { bkt with stage := 1 }, by decide +kernel⟩,
   ⟨setReg snp 0x3F0000B00048 1, by decide +kernel⟩,
   ⟨snp, by decide +kernel⟩,
   ⟨setReg snp 0x3F0000B00040 5, 1, by decide +kernel, by decide +kernel, .inr (by decide +kernel)⟩,
   ⟨setReg jr 0x3F0000B00040 5, 0, by decide +kernel, by decide +kernel, .inl (by decide +kernel)⟩,
   ⟨setReg snp 0x3F0000B00040 5, 0, by decide +kernel⟩⟩

theorem witness_MemoryEvents :
    (∃ (s : State), ∃ (mc : BitVec 4), ∃ (r : MReq), 
    let q := smGet [] s.mem.win mc.toNat
    
    let i := mcPick s (q.take 256)
    q[i]? = some r ∧ noServed s = true) ∧
    (∃ n, n ≠ 0) ∧
    (∃ (s : State), ∃ (mc : BitVec 4), ∃ (line : BitVec 27), 
    let l := mcGlobal mc.toNat (line.toNat * 64) / 64
    poisonCount s (mcOf (l * 64)) < 1024) ∧
    (∃ (s : State), ∃ (port : BitVec 2), regF s (aCxl port.toNat) 0 0 = 1 ∧ regsWf s = true) :=
  ⟨⟨{ on with mem := { on.mem with win := [(0, [⟨0, false, true, 0, 0⟩])] } }, 0, ⟨0, false, true, 0, 0⟩, by decide +kernel⟩,
   ⟨2, by decide +kernel⟩,
   ⟨on, 1, 7, by decide +kernel⟩,
   ⟨setReg on (aCxl 1) 0x40001, 1, by decide +kernel⟩⟩

theorem witness_LedgerResults :
    (∃ (s : State), s.pwr.rails ≠ .failing ∧ s.pwr.trip = false ∧ s.ldg.flushing = true ∧ s.ldg.st = .recording ∧ s.ldg.flushAgain = false ∧ s.ldg.flushTo ≤ 1718528 ∧ s.ldg.lost = 0) ∧
    (∃ (s : State), s.pwr.rails ≠ .failing ∧ s.pwr.trip = false ∧ s.ldg.flushing = true ∧ s.ldg.st ≠ .frozen) ∧
    (∃ (s : State), s.pwr.rails ≠ .failing ∧ s.ldg.st = .frozen) ∧
    (∃ (s : State), s.ldg.st = .clearing ∧ s.ldg.flushing = false ∧ s.ldg.clearing = none) ∧
    (∃ (s : State), ∃ (x : SegSnap), ∃ (xs : List SegSnap), s.ldg.up = true ∧ s.ldg.snaps = x :: xs ∧ x.at_ < now s) ∧
    (∃ (s : State), ∃ (x : SegSnap), ∃ (xs : List SegSnap), s.ldg.up = true ∧ s.ldg.snaps = x :: xs ∧ now s ≤ x.at_) ∧
    (∃ (s : State), s.ldg.snaps = []) ∧
    (∃ (s : State), ∃ (ms : BitVec 7), s.ldg.st = .recording ∧ s.ldg.lastUnfreeze = none ∧ ms.toNat ≤ 100) ∧
    (∃ (s : State), ∃ (ms : BitVec 7), s.ldg.st = .recording ∧ s.ldg.lastUnfreeze = none ∧ ms.toNat ≤ 100) ∧
    (∃ (s : State), ∃ (i : Instr), s.ldg.st = .frozen ∧ (i = .unfreeze ∨ (i = .freezeExpiry ∧ s.ldg.freezeEnd ≤ now s))) ∧
    (∃ (s : State), ∃ (i : Instr), s.ldg.st = .frozen ∧ (i = .unfreeze ∨ (i = .freezeExpiry ∧ s.ldg.freezeEnd ≤ now s))) ∧
    (∃ (s : State), ∃ (count : BitVec 8), 1 ≤ count.toNat ∧ count.toNat ≤ 8 ∧ s.ldg.up = true) ∧
    (∃ (s : State), ∃ (count : BitVec 8), 1 ≤ count.toNat ∧ count.toNat ≤ 8 ∧ s.ldg.up = true) :=
  ⟨⟨{ on with ldg := { on.ldg with up := true, flushing := true } }, by decide +kernel⟩,
   ⟨{ on with ldg := { on.ldg with up := true, flushing := true } }, by decide +kernel⟩,
   ⟨{ on with ldg := { on.ldg with st := .frozen } }, by decide +kernel⟩,
   ⟨{ on with ldg := { on.ldg with st := .clearing, up := true } }, by decide +kernel⟩,
   ⟨{ late prov with ldg := { prov.ldg with snaps := [⟨1, none, 0, 0, 0⟩] } }, ⟨1, none, 0, 0, 0⟩, [], by decide +kernel⟩,
   ⟨{ prov with ldg := { prov.ldg with snaps := [⟨1, none, 0, 0, 0⟩] } }, ⟨1, none, 0, 0, 0⟩, [], by decide +kernel⟩,
   ⟨prov, by decide +kernel⟩,
   ⟨prov, 0, by decide +kernel⟩,
   ⟨prov, 100, by decide +kernel⟩,
   ⟨{ on with ldg := { on.ldg with st := .frozen } }, .unfreeze, by decide +kernel, .inl rfl⟩,
   ⟨{ on with ldg := { on.ldg with st := .frozen } }, .freezeExpiry, by decide +kernel, .inr (by decide +kernel)⟩,
   ⟨usab jr, 1, by decide +kernel⟩,
   ⟨usab jr, 8, by decide +kernel⟩⟩

theorem witness_SecurityCommandResults :
    (∃ (s : State), ∃ (key : List Byte), ∃ (i : Instr), ∃ (m : LcMove), ((i = .registration key ∧ m = .register key ∧ lcState s = .provisioned ∧ slotFree s ≠ none ∧ signerBad s = none) ∨ (i = .unlock ∧ m = .unlock ∧ lcState s = .deployed ∧ signerBad s = none) ∨ (i = .deregistration ∧ m = .deregister ∧ (lcState s = .deployed ∨ lcState s = .service) ∧ signerBad s = none) ∨ (i = .retire ∧ m = .retire ∧ (lcState s = .provisioned ∨ lcState s = .deployed ∨ lcState s = .service) ∧ signerBad s = none) ∨ (i = .secRelock ∧ m = .relock ∧ lcState s = .service)) ∧ s.sec.move = none ∧ s.sec.provisioning = false ∧ s.seq.st = .idle ∧ jobLoaded s = false ∧ s.sec.wipe = none) ∧
    (∃ (s : State), ∃ (key : List Byte), ∃ (i : Instr), ∃ (m : LcMove), ((i = .registration key ∧ m = .register key ∧ lcState s = .provisioned ∧ slotFree s ≠ none ∧ signerBad s = none) ∨ (i = .unlock ∧ m = .unlock ∧ lcState s = .deployed ∧ signerBad s = none) ∨ (i = .deregistration ∧ m = .deregister ∧ (lcState s = .deployed ∨ lcState s = .service) ∧ signerBad s = none) ∨ (i = .retire ∧ m = .retire ∧ (lcState s = .provisioned ∨ lcState s = .deployed ∨ lcState s = .service) ∧ signerBad s = none) ∨ (i = .secRelock ∧ m = .relock ∧ lcState s = .service)) ∧ s.sec.move = none ∧ s.sec.provisioning = false ∧ s.seq.st = .idle ∧ jobLoaded s = false ∧ s.sec.wipe = none) ∧
    (∃ (s : State), ∃ (key : List Byte), ∃ (i : Instr), ∃ (m : LcMove), ((i = .registration key ∧ m = .register key ∧ lcState s = .provisioned ∧ slotFree s ≠ none ∧ signerBad s = none) ∨ (i = .unlock ∧ m = .unlock ∧ lcState s = .deployed ∧ signerBad s = none) ∨ (i = .deregistration ∧ m = .deregister ∧ (lcState s = .deployed ∨ lcState s = .service) ∧ signerBad s = none) ∨ (i = .retire ∧ m = .retire ∧ (lcState s = .provisioned ∨ lcState s = .deployed ∨ lcState s = .service) ∧ signerBad s = none) ∨ (i = .secRelock ∧ m = .relock ∧ lcState s = .service)) ∧ s.sec.move = none ∧ s.sec.provisioning = false ∧ s.seq.st = .idle ∧ jobLoaded s = false ∧ s.sec.wipe = none) ∧
    (∃ (s : State), ∃ (key : List Byte), ∃ (i : Instr), ∃ (m : LcMove), ((i = .registration key ∧ m = .register key ∧ lcState s = .provisioned ∧ slotFree s ≠ none ∧ signerBad s = none) ∨ (i = .unlock ∧ m = .unlock ∧ lcState s = .deployed ∧ signerBad s = none) ∨ (i = .deregistration ∧ m = .deregister ∧ (lcState s = .deployed ∨ lcState s = .service) ∧ signerBad s = none) ∨ (i = .retire ∧ m = .retire ∧ (lcState s = .provisioned ∨ lcState s = .deployed ∨ lcState s = .service) ∧ signerBad s = none) ∨ (i = .secRelock ∧ m = .relock ∧ lcState s = .service)) ∧ s.sec.move = none ∧ s.sec.provisioning = false ∧ s.seq.st = .idle ∧ jobLoaded s = false ∧ s.sec.wipe = none) ∧
    (∃ (s : State), ∃ (key : List Byte), ∃ (i : Instr), ∃ (m : LcMove), ((i = .registration key ∧ m = .register key ∧ lcState s = .provisioned ∧ slotFree s ≠ none ∧ signerBad s = none) ∨ (i = .unlock ∧ m = .unlock ∧ lcState s = .deployed ∧ signerBad s = none) ∨ (i = .deregistration ∧ m = .deregister ∧ (lcState s = .deployed ∨ lcState s = .service) ∧ signerBad s = none) ∨ (i = .retire ∧ m = .retire ∧ (lcState s = .provisioned ∨ lcState s = .deployed ∨ lcState s = .service) ∧ signerBad s = none) ∨ (i = .secRelock ∧ m = .relock ∧ lcState s = .service)) ∧ s.sec.move = none ∧ s.sec.provisioning = false ∧ s.seq.st = .idle ∧ jobLoaded s = false ∧ s.sec.wipe = none) ∧
    (∃ (s : State), s.cfg ≠ [] ∧ s.sec.feedDone = false ∧ (∀ k, k < 36 → (cfgLink s.cfg k).1 = true → (getLink s k).st = .up ∨ (getLink s k).st = .failed)) :=
  ⟨⟨chn, [7], .registration [7], .register [7], .inl ⟨rfl, rfl, by decide +kernel, by decide +kernel, chn_signs⟩, by decide +kernel⟩,
   ⟨usab on, [7], .unlock, .unlock, .inr (.inl ⟨rfl, rfl, usab_lc _ rfl rfl, usab_signs _ (by rw [usab_lc _ rfl rfl]; decide)⟩), by decide +kernel⟩,
   ⟨usab on, [7], .deregistration, .deregister, .inr (.inr (.inl ⟨rfl, rfl, .inl (usab_lc _ rfl rfl), usab_signs _ (by rw [usab_lc _ rfl rfl]; decide)⟩)), by decide +kernel⟩,
   ⟨chn, [7], .retire, .retire, .inr (.inr (.inr (.inl ⟨rfl, rfl, .inl (by decide +kernel), chn_signs⟩))), by decide +kernel⟩,
   ⟨serv, [7], .secRelock, .relock, .inr (.inr (.inr (.inr (by decide +kernel)))), by decide +kernel⟩,
   ⟨{ on with cfg := [0] }, by decide +kernel, by decide +kernel, fun k _ h => absurd h (cfg_links k)⟩⟩

theorem witness_TransitionResults :
    (∃ (s : State), ∃ (m : LcMove), s.sec.move = some m ∧ s.sec.wipe = none ∧ s.sec.provisioning = false ∧ s.job.st = .empty) :=
  ⟨{ prov with sec := { prov.sec with move := some .retire } }, .retire, by decide +kernel⟩

theorem witness_WipeResults :
    (∃ (s : State), ∃ (port : BitVec 2), ∃ (w : Wipe), s.sec.wipe = some w ∧ w.sanit.getLsbD port.toNat = true) ∧
    (∃ (s : State), ∃ (port : BitVec 2), ∃ (w : Wipe), s.sec.wipe = some w ∧ w.sanit.getLsbD port.toNat = true ∧ ∃ (i : Instr), (i = .sanitizeComplete port false ∨ i = .sanitizeTimeout port)) ∧
    (∃ (s : State), ∃ (port : BitVec 2), ∃ (w : Wipe), s.sec.wipe = some w ∧ w.sanit.getLsbD port.toNat = true ∧ ∃ (i : Instr), (i = .sanitizeComplete port false ∨ i = .sanitizeTimeout port)) ∧
    (∃ (s : State), ∃ (w : Wipe), s.sec.wipe = some w ∧ w.sanit = 0 ∧ wipeBegun s w = true ∧ wipeStuck s w = false) ∧
    (∃ (s : State), ∃ (w : Wipe), s.sec.wipe = some w ∧ w.sanit = 0 ∧ wipeBegun s w = true) ∧
    (∃ (s : State), (s.job.st = .done ∨ s.job.st = .faulted)) ∧
    (∃ (s : State), (s.job.st = .done ∨ s.job.st = .faulted)) :=
  ⟨⟨{ on with sec := { on.sec with wipe := some ⟨3, 15, 2, 0, [], [.jobEnd]⟩ } }, 1, ⟨3, 15, 2, 0, [], [.jobEnd]⟩, by decide +kernel⟩,
   ⟨{ on with sec := { on.sec with wipe := some ⟨3, 15, 2, 0, [], [.jobEnd]⟩ } }, 1, ⟨3, 15, 2, 0, [], [.jobEnd]⟩, by decide +kernel, by decide +kernel, .sanitizeComplete 1 false, .inl rfl⟩,
   ⟨{ on with sec := { on.sec with wipe := some ⟨3, 15, 2, 0, [], [.jobEnd]⟩ } }, 1, ⟨3, 15, 2, 0, [], [.jobEnd]⟩, by decide +kernel, by decide +kernel, .sanitizeTimeout 1, .inr rfl⟩,
   ⟨{ on with sec := { on.sec with wipe := some ⟨3, 15, 0, 0, [], [.jobEnd]⟩ } }, ⟨3, 15, 0, 0, [], [.jobEnd]⟩, by decide +kernel⟩,
   ⟨{ on with sec := { on.sec with wipe := some ⟨3, 15, 0, 0, [], [.jobEnd]⟩ } }, ⟨3, 15, 0, 0, [], [.jobEnd]⟩, by decide +kernel⟩,
   ⟨jl .done, .inl rfl⟩,
   ⟨jl .faulted, .inr rfl⟩⟩

theorem witness_StartUpResults :
    (∃ (s : State), ∃ (o : BootOutcome), ∃ (i : Instr), ((i = .powerUp o ∧ s.pwr.rails ≠ .up ∧ s.pwr.rails ≠ .failing ∧ s.pins.resetN = true) ∨ (i = .resetNRelease o ∧ s.pwr.waits = true) ∨ (i = .resetNRelease o ∧ s.pwr.waits = false ∧ s.pwr.held = true ∧ s.pwr.rails = .up))) ∧
    (∃ (s : State), ∃ (o : BootOutcome), ∃ (i : Instr), ((i = .powerUp o ∧ s.pwr.rails ≠ .up ∧ s.pwr.rails ≠ .failing ∧ s.pins.resetN = true) ∨ (i = .resetNRelease o ∧ s.pwr.waits = true) ∨ (i = .resetNRelease o ∧ s.pwr.waits = false ∧ s.pwr.held = true ∧ s.pwr.rails = .up))) ∧
    (∃ (s : State), ∃ (o : BootOutcome), ∃ (i : Instr), ((i = .powerUp o ∧ s.pwr.rails ≠ .up ∧ s.pwr.rails ≠ .failing ∧ s.pins.resetN = true) ∨ (i = .resetNRelease o ∧ s.pwr.waits = true) ∨ (i = .resetNRelease o ∧ s.pwr.waits = false ∧ s.pwr.held = true ∧ s.pwr.rails = .up))) ∧
    (∃ (s : State), s.pwr.rails ≠ .up ∧ s.pwr.rails ≠ .failing ∧ s.pins.resetN = false) ∧
    (∃ (s : State), s.pwr.rails = .up ∧ s.pwr.held = false) ∧
    (∃ (s : State), ∃ (o : BootOutcome), ∃ (n : Nat), s.pwr.rails = .up ∧ s.pwr.held = false ∧ s.sec.wdogAt + 10000000 ≤ (now s : Int) ∧ (romRun s o).2 = some n) ∧
    (∃ (s : State), ∃ (port : BitVec 2), s.sec.cxlWait.getLsbD port.toNat = true) ∧
    (∃ (s : State), ∃ (o : BootOutcome), s.sec.boot = some o ∧ s.job.device = none ∧ s.cfg.isEmpty = false ∧ s.sec.feedDone = false ∧ s.sec.cxlWait = 0 ∧ (∀ k, k < 36 → (cfgLink s.cfg k).1 = true → (getLink s k).st = .up ∨ (getLink s k).st = .failed)) :=
  ⟨⟨State.reset, good, .powerUp good, .inl (by decide +kernel)⟩,
   ⟨{ State.reset with pwr := { State.reset.pwr with waits := true } }, good, .resetNRelease good, .inr (.inl (by decide +kernel))⟩,
   ⟨{ on with pwr := { on.pwr with held := true } }, good, .resetNRelease good, .inr (.inr (by decide +kernel))⟩,
   ⟨{ State.reset with pins := { State.reset.pins with resetN := false } }, by decide +kernel⟩,
   ⟨jr, by decide +kernel⟩,
   ⟨late (boots on), good, 0, by decide +kernel, by decide +kernel, by decide +kernel, rom_boots_late⟩,
   ⟨{ on with sec := { on.sec with cxlWait := 4 } }, 2, by decide +kernel⟩,
   ⟨{ on with cfg := [0], sec := { on.sec with boot := some good, feedDone := false } }, good, by decide +kernel, by decide +kernel, by decide +kernel, ⟨by decide +kernel, by decide +kernel, fun k _ h => absurd h (cfg_links k)⟩⟩⟩

theorem witness_HostQueueResults :
    (∃ (s : State), regsWf s = true) ∧
    (∃ (s : State), regsWf s = true) ∧
    (∃ (s : State), ∃ (q : BitVec 2), regsWf s = true ∧ hostEn s q.toNat = false) ∧
    (∃ (s : State), regsWf s = true) ∧
    (∃ (s : State), regsWf s = true ∧ s.host.width ≠ 0) ∧
    (∃ (s : State), regsWf s = true ∧ s.pwr.rails = .up) ∧
    (∃ (s : State), ∃ (rate width : BitVec 2), s.pwr.rails = .up ∧ s.pwr.held = false ∧ s.sec.recovery = false ∧ s.sec.boot = none ∧ rate ≠ 0 ∧ width ≠ 0) :=
  ⟨⟨on, by decide +kernel⟩,
   ⟨on, by decide +kernel⟩,
   ⟨on, 3, by decide +kernel⟩,
   ⟨on, by decide +kernel⟩,
   ⟨{ on with host := { on.host with width := 3 } }, by decide +kernel⟩,
   ⟨on, by decide +kernel⟩,
   ⟨on, 1, 3, by decide +kernel⟩⟩

theorem witness_HostJobResults :
    (∃ (s s0 : State), ∃ (q : BitVec 2), ∃ (cid : Word16), ∃ (addr len : Word64), hostTake s q.toNat 1 cid.toNat = some s0 ∧ sqBad (sqEntry s q.toNat) 1 cid.toNat = false ∧ sqSpells (sqEntry s q.toNat) 1 cid.toNat [(8, 8, addr.toNat), (16, 8, len.toNat)] = true ∧ s.job.st = .empty ∧ regF s 0x3F0000E00000 8 8 = 1 ∧ s.sec.wipe = none ∧ s.sec.move = none ∧ lcNoJobs s = false ∧ loadBad s0 addr.toNat len.toNat (imgFront s0 addr.toNat) = none) ∧
    (∃ (s s0 : State), ∃ (q : BitVec 2), ∃ (cid : Word16), ∃ d, hostTake s q.toNat 2 cid.toNat = some s0 ∧ sqBad (sqEntry s q.toNat) 2 cid.toNat = false ∧ sqSpells (sqEntry s q.toNat) 2 cid.toNat [] = true ∧ s.job.st = .loaded ∧ jobLead s.job = some d ∧ d ≠ devId s) ∧
    (∃ (s s0 : State), ∃ (q : BitVec 2), ∃ (cid : Word16), hostTake s q.toNat 3 cid.toNat = some s0 ∧ sqBad (sqEntry s q.toNat) 3 cid.toNat = false ∧ sqSpells (sqEntry s q.toNat) 3 cid.toNat [] = true ∧ s.job.st = .running ∧ s.seq.st = .running ∧ allHalted s = false ∧ s.job.device = none) ∧
    (∃ (s s0 : State), ∃ (q : BitVec 2), ∃ (cid : Word16), ∃ d, hostTake s q.toNat 4 cid.toNat = some s0 ∧ sqBad (sqEntry s q.toNat) 4 cid.toNat = false ∧ sqSpells (sqEntry s q.toNat) 4 cid.toNat [] = true ∧ s.job.st = .preempted ∧ s.job.restoredHere = false ∧ s.job.wiped = false ∧ jobLead s.job = some d ∧ d ≠ devId s) ∧
    (∃ (s s0 : State), ∃ (q : BitVec 2), ∃ (cid : Word16), hostTake s q.toNat 5 cid.toNat = some s0 ∧ sqBad (sqEntry s q.toNat) 5 cid.toNat = false ∧ sqSpells (sqEntry s q.toNat) 5 cid.toNat [] = true ∧ stIn s [.loaded, .preempted, .done, .faulted, .recovered] = true) ∧
    (∃ (s s0 : State), ∃ (q : BitVec 2), ∃ (cid : Word16), hostTake s q.toNat 5 cid.toNat = some s0 ∧ sqBad (sqEntry s q.toNat) 5 cid.toNat = false ∧ sqSpells (sqEntry s q.toNat) 5 cid.toNat [] = true ∧ stIn s [.loaded, .preempted, .done, .faulted, .recovered] = true) ∧
    (∃ (s s0 : State), ∃ (q : BitVec 2), ∃ (cid : Word16), hostTake s q.toNat 5 cid.toNat = some s0 ∧ sqBad (sqEntry s q.toNat) 5 cid.toNat = false ∧ sqSpells (sqEntry s q.toNat) 5 cid.toNat [] = true ∧ stIn s [.loaded, .preempted, .done, .faulted, .recovered] = true) ∧
    (∃ (s s0 : State), ∃ (q : BitVec 2), ∃ (cid : Word16), hostTake s q.toNat 5 cid.toNat = some s0 ∧ sqBad (sqEntry s q.toNat) 5 cid.toNat = false ∧ sqSpells (sqEntry s q.toNat) 5 cid.toNat [] = true ∧ stIn s [.loaded, .preempted, .done, .faulted, .recovered] = true) ∧
    (∃ (s s0 : State), ∃ (q : BitVec 2), ∃ (cid : Word16), hostTake s q.toNat 5 cid.toNat = some s0 ∧ sqBad (sqEntry s q.toNat) 5 cid.toNat = false ∧ sqSpells (sqEntry s q.toNat) 5 cid.toNat [] = true ∧ stIn s [.loaded, .preempted, .done, .faulted, .recovered] = true) ∧
    (∃ (s s0 : State), ∃ (q : BitVec 2), ∃ (cid : Word16), ∃ (addr len b : Word64), hostTake s q.toNat 6 cid.toNat = some s0 ∧ sqBad (sqEntry s q.toNat) 6 cid.toNat = false ∧ sqSpells (sqEntry s q.toNat) 6 cid.toNat [(8, 8, addr.toNat), (16, 8, len.toNat), (24, 8, b.toNat)] = true ∧ s.job.st = .recovered ∧ memPoisoned s (regF s 0x3F0000700000 45 16 * 0x10000) wtBytes = false ∧ restartBad s0 addr.toNat len.toNat b.toNat (imgFront s0 addr.toNat) = none) ∧
    (∃ (s s0 : State), ∃ (q : BitVec 2), ∃ (cid : Word16), ∃ (t : BitVec 8), ∃ (k : Word64), hostTake s q.toNat 7 cid.toNat = some s0 ∧ sqBad (sqEntry s q.toNat) 7 cid.toNat = false ∧ sqSpells (sqEntry s q.toNat) 7 cid.toNat [(8, 1, t.toNat), (16, 8, k.toNat)] = true ∧ stIn s [.loaded, .starting, .running, .preempted] = true ∧ t.toNat < 8 ∧ snapSt s = 0 ∧ s.seq.step.toNat < k.toNat ∧ snapEn s = true ∧ snapValid s t.toNat = true ∧ memPoisoned s (snapArea s t.toNat) 128 = false) ∧
    (∃ (s s0 : State), ∃ (q : BitVec 2), ∃ (cid : Word16), hostTake s q.toNat 8 cid.toNat = some s0 ∧ sqBad (sqEntry s q.toNat) 8 cid.toNat = false ∧ sqSpells (sqEntry s q.toNat) 8 cid.toNat [] = true ∧ (s.job.st = .empty ∨ s.job.st = .preempted) ∧ s.job.restoredHere = false) ∧
    (∃ (s s0 : State), ∃ (q : BitVec 2), ∃ (cid : Word16), hostTake s q.toNat 8 cid.toNat = some s0 ∧ sqBad (sqEntry s q.toNat) 8 cid.toNat = false ∧ sqSpells (sqEntry s q.toNat) 8 cid.toNat [] = true ∧ (s.job.st = .empty ∨ s.job.st = .preempted) ∧ s.job.restoredHere = false) :=
  ⟨⟨ent 1 [(8, 8, 0x10000), (16, 8, 4096)] (loads), tk (ent 1 [(8, 8, 0x10000), (16, 8, 4096)] (loads)) 1, 0, 7, 0x10000, 4096, took _ _ (by decide +kernel), by decide +kernel⟩,
   ⟨ent 2 [] (hq (jm .loaded)), tk (ent 2 [] (hq (jm .loaded))) 2, 0, 7, 5, took _ _ (by decide +kernel), by decide +kernel⟩,
   ⟨ent 3 [] (hq jr), tk (ent 3 [] (hq jr)) 3, 0, 7, took _ _ (by decide +kernel), by decide +kernel⟩,
   ⟨ent 4 [] (hq (jm .preempted)), tk (ent 4 [] (hq (jm .preempted))) 4, 0, 7, 5, took _ _ (by decide +kernel), by decide +kernel⟩,
   ⟨ent 5 [] (hq (jm .loaded)), tk (ent 5 [] (hq (jm .loaded))) 5, 0, 7, took _ _ (by decide +kernel), by decide +kernel⟩,
   ⟨ent 5 [] (hq (jm .preempted)), tk (ent 5 [] (hq (jm .preempted))) 5, 0, 7, took _ _ (by decide +kernel), by decide +kernel⟩,
   ⟨ent 5 [] (hq (jm .done)), tk (ent 5 [] (hq (jm .done))) 5, 0, 7, took _ _ (by decide +kernel), by decide +kernel⟩,
   ⟨ent 5 [] (hq (jm .faulted)), tk (ent 5 [] (hq (jm .faulted))) 5, 0, 7, took _ _ (by decide +kernel), by decide +kernel⟩,
   ⟨ent 5 [] (hq (jm .recovered)), tk (ent 5 [] (hq (jm .recovered))) 5, 0, 7, took _ _ (by decide +kernel), by decide +kernel⟩,
   ⟨ent 6 [(8, 8, 0x10000), (16, 8, 4096), (24, 8, 9)] (rest), tk (ent 6 [(8, 8, 0x10000), (16, 8, 4096), (24, 8, 9)] (rest)) 6, 0, 7, 0x10000, 4096, 9, took _ _ (by decide +kernel), by decide +kernel⟩,
   ⟨ent 7 [(8, 1, 0), (16, 8, 6)] (hq (setReg snp 0x3F0000B00040 5)), tk (ent 7 [(8, 1, 0), (16, 8, 6)] (hq (setReg snp 0x3F0000B00040 5))) 7, 0, 7, 0, 6, took _ _ (by decide +kernel), by decide +kernel⟩,
   ⟨ent 8 [] (hq on), tk (ent 8 [] (hq on)) 8, 0, 7, took _ _ (by decide +kernel), by decide +kernel, by decide +kernel, .inl rfl, by decide +kernel⟩,
   ⟨ent 8 [] (hq (jm .preempted)), tk (ent 8 [] (hq (jm .preempted))) 8, 0, 7, took _ _ (by decide +kernel), by decide +kernel, by decide +kernel, .inr rfl, by decide +kernel⟩⟩

theorem witness_HostServiceResults :
    (∃ (s s0 : State), ∃ (q : BitVec 2), ∃ (cid : Word16), ∃ (seq : Word32), ∃ (epoch : Word16), ∃ (count : Word32), ∃ (buf : Word64), hostTake s q.toNat 0x10 cid.toNat = some s0 ∧ sqBad (sqEntry s q.toNat) 0x10 cid.toNat = false ∧ sqSpells (sqEntry s q.toNat) 0x10 cid.toNat [(8, 4, seq.toNat), (12, 2, epoch.toNat), (16, 4, count.toNat), (24, 8, buf.toNat)] = true ∧ 1 ≤ count.toNat ∧ count.toNat ≤ 65536) ∧
    (∃ (s s0 : State), ∃ (q : BitVec 2), ∃ (cid : Word16), ∃ (seq : Word32), ∃ (epoch : Word16), ∃ (count : Word32), ∃ (buf : Word64), hostTake s q.toNat 0x10 cid.toNat = some s0 ∧ sqBad (sqEntry s q.toNat) 0x10 cid.toNat = false ∧ sqSpells (sqEntry s q.toNat) 0x10 cid.toNat [(8, 4, seq.toNat), (12, 2, epoch.toNat), (16, 4, count.toNat), (24, 8, buf.toNat)] = true ∧ 1 ≤ count.toNat ∧ count.toNat ≤ 65536) ∧
    (∃ (s s0 : State), ∃ (q : BitVec 2), ∃ (cid : Word16), ∃ (ms : BitVec 8), hostTake s q.toNat 0x11 cid.toNat = some s0 ∧ sqBad (sqEntry s q.toNat) 0x11 cid.toNat = false ∧ sqSpells (sqEntry s q.toNat) 0x11 cid.toNat [(8, 1, ms.toNat)] = true ∧ bitOf (fieldAt (sqEntry s q.toNat) 9 1) 0 = false ∧ ms.toNat ≤ 100 ∧ s.ldg.st = .recording ∧ s.ldg.lastUnfreeze = none) ∧
    (∃ (s s0 : State), ∃ (q : BitVec 2), ∃ (cid : Word16), ∃ (addr : Word64), ∃ (sigOk : Bool), hostTake s q.toNat 0x12 cid.toNat = some s0 ∧ sqBad (sqEntry s q.toNat) 0x12 cid.toNat = false ∧ sqSpells (sqEntry s q.toNat) 0x12 cid.toNat [(8, 8, addr.toNat)] = true ∧ 
    let why := clearWhy s0 (memReads s0.mem.host addr.toNat 1410) sigOk
    why = none) ∧
    (∃ (s s0 : State), ∃ (q : BitVec 2), ∃ (cid : Word16), ∃ (addr : Word64), ∃ (sigOk : Bool), hostTake s q.toNat 0x12 cid.toNat = some s0 ∧ sqBad (sqEntry s q.toNat) 0x12 cid.toNat = false ∧ sqSpells (sqEntry s q.toNat) 0x12 cid.toNat [(8, 8, addr.toNat)] = true ∧ 
    let why := clearWhy s0 (memReads s0.mem.host addr.toNat 1410) sigOk
    ∃ r, why = some r) ∧
    (∃ (s s0 : State), ∃ (q : BitVec 2), ∃ (cid : Word16), ∃ (addr : Word64), ∃ (len : Word32), ∃ (sigOk : Bool), hostTake s q.toNat 0x18 cid.toNat = some s0 ∧ sqBad (sqEntry s q.toNat) 0x18 cid.toNat = false ∧ sqSpells (sqEntry s q.toNat) 0x18 cid.toNat [(8, 8, addr.toNat), (16, 4, len.toNat)] = true ∧ (len.toNat = 1378 ∨ len.toNat = 3171) ∧ 
    let d := memReads s0.mem.host addr.toNat len.toNat
    ∃ m, cmdJudge s0 d sigOk = .ok m ∧ jobLoaded s = false ∧ s.seq.st = .idle) ∧
    (∃ (s s0 : State), ∃ (q : BitVec 2), ∃ (cid : Word16), ∃ (addr : Word64), ∃ (len : Word32), ∃ (sigOk : Bool), hostTake s q.toNat 0x18 cid.toNat = some s0 ∧ sqBad (sqEntry s q.toNat) 0x18 cid.toNat = false ∧ sqSpells (sqEntry s q.toNat) 0x18 cid.toNat [(8, 8, addr.toNat), (16, 4, len.toNat)] = true ∧ (len.toNat = 1378 ∨ len.toNat = 3171) ∧ 
    let d := memReads s0.mem.host addr.toNat len.toNat
    ∃ r, cmdJudge s0 d sigOk = .error r) ∧
    (∃ (s s0 : State), ∃ (q : BitVec 2), ∃ (cid : Word16), ∃ (addr : Word64), ∃ (len : Word32), ∃ (sigOk : Bool), hostTake s q.toNat 0x18 cid.toNat = some s0 ∧ sqBad (sqEntry s q.toNat) 0x18 cid.toNat = false ∧ sqSpells (sqEntry s q.toNat) 0x18 cid.toNat [(8, 8, addr.toNat), (16, 4, len.toNat)] = true ∧ (len.toNat = 1378 ∨ len.toNat = 3171) ∧ 
    let d := memReads s0.mem.host addr.toNat len.toNat
    ∃ r, cmdJudge s0 d sigOk = .error r) ∧
    (∃ (s s0 : State), ∃ (q : BitVec 2), ∃ (cid : Word16), ∃ (nonce : List Byte), ∃ (buf : Word64), hostTake s q.toNat 0x19 cid.toNat = some s0 ∧ sqBad (sqEntry s q.toNat) 0x19 cid.toNat = false ∧ sqSpells (sqEntry s q.toNat) 0x19 cid.toNat [(8, 32, leNat (slice nonce 0 32)), (40, 8, buf.toNat)] = true) ∧
    (∃ (s s0 : State), ∃ (q : BitVec 2), ∃ (cid : Word16), ∃ (region : BitVec 8), ∃ (addr len : Word64), ∃ (b k : Nat), hostTake s q.toNat 0x1A cid.toNat = some s0 ∧ sqBad (sqEntry s q.toNat) 0x1A cid.toNat = false ∧ sqSpells (sqEntry s q.toNat) 0x1A cid.toNat [(8, 1, region.toNat), (16, 8, addr.toNat), (24, 8, len.toNat)] = true ∧ s.job.st = .empty ∧ norRegion region.toNat = some (b, k) ∧ len.toNat ≤ k) ∧
    (∃ (s s0 : State), ∃ (q : BitVec 2), ∃ (cid : Word16), hostTake s q.toNat 0x1C cid.toNat = some s0 ∧ sqBad (sqEntry s q.toNat) 0x1C cid.toNat = false ∧ sqSpells (sqEntry s q.toNat) 0x1C cid.toNat [] = true ∧ lcState s = .service ∧ s.sec.move = none ∧ jobLoaded s = false) ∧
    (∃ (s s0 : State), ∃ (q : BitVec 2), ∃ (cid : Word16), ∃ (o : BootOutcome), ∃ (n : Nat), ∃ (i : Instr), ((i = .reset q cid 0x5A o ∧ hostTake s q.toNat 0x1B cid.toNat = some s0 ∧ sqBad (sqEntry s q.toNat) 0x1B cid.toNat = false ∧ sqSpells (sqEntry s q.toNat) 0x1B cid.toNat [(8, 1, 0x5A)] = true) ∨ i = .hostCtrlReset 0x5A o) ∧ s.pwr.rails = .up ∧ s.pwr.held = false ∧ (romRun s o).2 = some n) ∧
    (∃ (s s0 : State), ∃ (q : BitVec 2), ∃ (cid : Word16), ∃ (o : BootOutcome), ∃ (n : Nat), ∃ (i : Instr), ((i = .reset q cid 0x5A o ∧ hostTake s q.toNat 0x1B cid.toNat = some s0 ∧ sqBad (sqEntry s q.toNat) 0x1B cid.toNat = false ∧ sqSpells (sqEntry s q.toNat) 0x1B cid.toNat [(8, 1, 0x5A)] = true) ∨ i = .hostCtrlReset 0x5A o) ∧ s.pwr.rails = .up ∧ s.pwr.held = false ∧ (romRun s o).2 = some n) :=
  ⟨⟨ent 0x10 [(8, 4, 0), (12, 2, 0), (16, 4, 1), (24, 8, 0x1000)] (hq (usab jr)), tk (ent 0x10 [(8, 4, 0), (12, 2, 0), (16, 4, 1), (24, 8, 0x1000)] (hq (usab jr))) 0x10, 0, 7, 0, 0, 1, 0x1000, took _ _ (by decide +kernel), by decide +kernel⟩,
   ⟨ent 0x10 [(8, 4, 0), (12, 2, 0), (16, 4, 65536), (24, 8, 0x1000)] (hq (usab jr)), tk (ent 0x10 [(8, 4, 0), (12, 2, 0), (16, 4, 65536), (24, 8, 0x1000)] (hq (usab jr))) 0x10, 0, 7, 0, 0, 65536, 0x1000, took _ _ (by decide +kernel), by decide +kernel⟩,
   ⟨ent 0x11 [(8, 1, 100)] (hq prov), tk (ent 0x11 [(8, 1, 100)] (hq prov)) 0x11, 0, 7, 100, took _ _ (by decide +kernel), by decide +kernel⟩,
   ⟨clr, tk (clr) 0x12, 0, 7, 0x1000, true, took _ _ (by decide +kernel), by decide +kernel, by decide +kernel, clr_why⟩,
   ⟨clr, tk (clr) 0x12, 0, 7, 0x1000, false, took _ _ (by decide +kernel), by decide +kernel, by decide +kernel, 3, clr_no⟩,
   ⟨cmds, tk (cmds) 0x18, 0, 7, 0x1000, 1378, true, took _ _ (by decide +kernel), by decide +kernel, by decide +kernel, .inl rfl, .retire, cmds_ok, by decide +kernel⟩,
   ⟨cmds, tk (cmds) 0x18, 0, 7, 0x1000, 1378, false, took _ _ (by decide +kernel), by decide +kernel, by decide +kernel, .inl rfl, 3, cmds_no⟩,
   ⟨cmdz, tk (cmdz) 0x18, 0, 7, 0x3000, 3171, true, took _ _ (by decide +kernel), by decide +kernel, by decide +kernel, .inr rfl, 6, whyOf_some _ _ (by decide +kernel)⟩,
   ⟨ent 0x19 [(8, 32, 0), (40, 8, 0x1000)] (hq prov), tk (ent 0x19 [(8, 32, 0), (40, 8, 0x1000)] (hq prov)) 0x19, 0, 7, zeros 32, 0x1000, took _ _ (by decide +kernel), by decide +kernel⟩,
   ⟨ent 0x1A [(8, 1, 1), (16, 8, 0x1000), (24, 8, 16)] (hq on), tk (ent 0x1A [(8, 1, 1), (16, 8, 0x1000), (24, 8, 16)] (hq on)) 0x1A, 0, 7, 1, 0x1000, 16, 0x100000, 0x100000, took _ _ (by decide +kernel), by decide +kernel⟩,
   ⟨ent 0x1C [] (hq serv), tk (ent 0x1C [] (hq serv)) 0x1C, 0, 7, took _ _ (by decide +kernel), by decide +kernel⟩,
   ⟨hqr, tk hqr 0x1B, 0, 7, good, 0, .reset 0 7 0x5A good, .inl ⟨rfl, took _ _ (by decide +kernel), by decide +kernel, by decide +kernel⟩, by decide +kernel, by decide +kernel, rom_boots_hq⟩,
   ⟨hqr, tk hqr 0x1B, 0, 7, good, 0, .hostCtrlReset 0x5A good, .inr rfl, by decide +kernel, by decide +kernel, rom_boots_hq⟩⟩

theorem witness_PowerResults :
    (∃ (s : State), (s.pwr.rails = .up ∨ s.pwr.rails = .tripped) ∧ s.ldg.up = true) ∧
    (∃ (s : State), (s.pwr.rails = .up ∨ s.pwr.rails = .tripped) ∧ s.ldg.up = true) ∧
    (∃ (s : State), (s.pwr.rails = .up ∨ s.pwr.rails = .tripped) ∧ s.ldg.up = false) ∧
    (∃ (s : State), s.pwr.rails = .up ∧ regsWf s = true) ∧
    (∃ (s : State), (s.pwr.rails = .up ∨ s.pwr.rails = .tripped) ∧ regsWf s = true) ∧
    (∃ (s : State), ∃ (degrees : Int), s.pwr.rails = .up ∧ s.pwr.trip = false ∧ 115 < degrees) ∧
    (∃ (s : State), s.pwr.trip = true ∧ s.pwr.rails = .up) ∧
    (∃ (s : State), s.pwr.rails = .up) :=
  ⟨⟨prov, .inl rfl, by decide +kernel⟩,
   ⟨{ prov with pwr := { prov.pwr with rails := .tripped } }, .inr rfl, by decide +kernel⟩,
   ⟨on, .inl rfl, by decide +kernel⟩,
   ⟨on, by decide +kernel⟩,
   ⟨on, .inl rfl, by decide +kernel⟩,
   ⟨on, 116, by decide +kernel⟩,
   ⟨{ prov with pwr := { prov.pwr with trip := true } }, by decide +kernel⟩,
   ⟨on, by decide +kernel⟩⟩

theorem witness_IdcodeAndExtest :
    (∃ (s : State), s.pwr.rails = .up) ∧
    (∃ (s : State), s.pwr.rails = .up ∧ lcState s ≠ .deployed ∧ lcState s ≠ .retired ∧ jobLoaded s = false) ∧
    (∃ (s : State), s.pwr.rails = .up ∧ (lcState s = .deployed ∨ lcState s = .retired ∨ jobLoaded s = true)) ∧
    (∃ (s : State), s.pwr.rails = .up ∧ (lcState s = .deployed ∨ lcState s = .retired ∨ jobLoaded s = true)) ∧
    (∃ (s : State), s.pwr.rails = .up ∧ (lcState s = .deployed ∨ lcState s = .retired ∨ jobLoaded s = true)) :=
  ⟨⟨on, by decide +kernel⟩,
   ⟨prov, by decide +kernel⟩,
   ⟨depl, by decide +kernel, .inl (by decide +kernel)⟩,
   ⟨jl .loaded, by decide +kernel, .inr (.inr (by decide +kernel))⟩,
   ⟨{ prov with sec := { prov.sec with fuses := { prov.sec.fuses with retired := true } } }, by decide +kernel, .inr (.inl (by decide +kernel))⟩⟩

theorem witness_TapSelections :
    (∃ (s : State), s.pwr.rails = .up) ∧
    (∃ (s : State), s.pwr.rails = .up) :=
  ⟨⟨on, by decide +kernel⟩,
   ⟨on, by decide +kernel⟩⟩

theorem witness_DebugTransactionResults :
    (∃ (s : State), ∃ (addr : BitVec 46), s.pwr.rails = .up ∧ s.dbg.session = true ∧ dbgOpen s = true ∧ addr.toNat % 8 = 0 ∧ ∃ v, placeOf addr.toNat = .chip ∧ regView s addr.toNat = some v) ∧
    (∃ (s : State), ∃ (addr : BitVec 46), s.pwr.rails = .up ∧ s.dbg.session = true ∧ dbgOpen s = true ∧ addr.toNat % 8 = 0 ∧ addr.toNat < 0x2000000000 ∧ jobLoaded s = false ∧ s.sec.wipe = none ∧ s.mem.upsets = []) ∧
    (∃ (s : State), ∃ (addr : BitVec 46), s.pwr.rails = .up ∧ s.dbg.session = true ∧ dbgOpen s = false ∧ 
    let a := addr.toNat
    
    let inBlock (lo n : Nat) : Prop := lo ≤ a ∧ a < lo + n
    (¬ inBlock 0x3F0000C00000 0x10000) ∧ (¬ inBlock 0x3F0000D00000 0x10000) ∧ a ≠ 0x3F0000E00000 ∧ a ≠ 0x3F0001200000) ∧
    (∃ (s : State), ∃ (addr : BitVec 46), s.pwr.rails = .up ∧ s.dbg.session = true ∧ dbgOpen s = false ∧ 
    let a := addr.toNat
    
    let inBlock (lo n : Nat) : Prop := lo ≤ a ∧ a < lo + n
    a ≠ 0x3F0000C00050 ∧ a ≠ 0x3F0001200100 ∧ a ≠ 0x3F0001200110 ∧ (¬ inBlock 0x3F0001220000 0x1000)) :=
  ⟨⟨mbx prov [], 0x3F0000410008, by decide +kernel, by decide +kernel, by decide +kernel, ⟨by decide +kernel, 50, by decide +kernel⟩⟩,
   ⟨mbx prov [], 0x1FFFFFFFF8, by decide +kernel⟩,
   ⟨mbx depl [], 0x3F0000C10000, by decide +kernel, by decide +kernel, by decide +kernel, ⟨fun h => absurd h.2 (by decide), fun h => absurd h.1 (by decide), by decide, by decide⟩⟩,
   ⟨mbx depl [], 0x3F0001221000, by decide +kernel, by decide +kernel, by decide +kernel, ⟨by decide, by decide, by decide, fun h => absurd h.2 (by decide)⟩⟩⟩

theorem witness_DebugHaltResults :
    (∃ (s : State), ∃ (core : Nat), s.pwr.rails = .up ∧ s.dbg.session = true ∧ dbgOpen s = true ∧ coreOk s core = true ∧ (getCore s core).dbgHalt = false) ∧
    (∃ (s : State), ∃ (core : Nat), s.pwr.rails = .up ∧ s.dbg.session = true ∧ dbgOpen s = true ∧ coreOk s core = true ∧ (getCore s core).dbgHalt = true ∧ smWf Core.init s.cores = true) ∧
    (∃ (s : State), ∃ (core : Nat), s.pwr.rails = .up ∧ s.dbg.session = true ∧ dbgOpen s = true ∧ coreOk s core = true ∧ (getCore s core).dbgHalt = true ∧ (getCore s core).flight = []) ∧
    (∃ (s : State), s.pwr.rails = .up ∧ s.dbg.session = true ∧ dbgOpen s = true) :=
  ⟨⟨mbx prov [], 895, by decide +kernel⟩,
   ⟨(let s := mbx prov []; { s with cores := [(3, { cs with dbgHalt := true })] }), 3, by decide +kernel⟩,
   ⟨(let s := mbx prov []; { s with cores := [(3, { cs with dbgHalt := true })] }), 3, by decide +kernel⟩,
   ⟨mbx prov [], by decide +kernel⟩⟩

theorem witness_DebugResetByKey :
    (∃ (s : State), ∃ (o : BootOutcome), ∃ (n : Nat), s.pwr.rails = .up ∧ s.dbg.session = true ∧ s.pwr.held = false ∧ (romRun s o).2 = some n) ∧
    (∃ (s : State), ∃ (key : BitVec 8), s.pwr.rails = .up ∧ s.dbg.session = true ∧ key ≠ 0x5A) :=
  ⟨⟨mbx (boots on) [], good, 0, by decide +kernel, by decide +kernel, by decide +kernel, rom_boots_mbx⟩,
   ⟨mbx prov [], 0x5B, by decide +kernel⟩⟩

theorem witness_MailboxResults :
    (∃ (s : State), s.pwr.rails = .up ∧ s.dbg.session = true ∧ regsWf s = true ∧ ∃ (len : BitVec 13), ∃ (sigOk : Bool), (len.toNat = 1378 ∨ len.toNat = 3171) ∧ 
    let d := memReads s.dbg.mbox 0 len.toNat
    ∃ m, cmdJudge s d sigOk = .ok m ∧ jobLoaded s = false ∧ s.seq.st = .idle ∧ s.job.device = none ∧ s.sec.wipe = none ∧ s.sec.provisioning = false) ∧
    (∃ (s : State), s.pwr.rails = .up ∧ s.dbg.session = true ∧ regsWf s = true ∧ ∃ (len : BitVec 13), ∃ (sigOk : Bool), (len.toNat = 1378 ∨ len.toNat = 3171) ∧ 
    let d := memReads s.dbg.mbox 0 len.toNat
    ∃ r, cmdJudge s d sigOk = .error r) ∧
    (∃ (s : State), s.pwr.rails = .up ∧ s.dbg.session = true ∧ regsWf s = true ∧ ∃ (len : BitVec 13), ∃ (sigOk : Bool), len.toNat = 1410 ∧ s.ldg.up = true ∧ 
    let why := clearWhy s (memReads s.dbg.mbox 0 1410) sigOk
    why = none) ∧
    (∃ (s : State), s.pwr.rails = .up ∧ s.dbg.session = true ∧ regsWf s = true ∧ ∃ (len : BitVec 13), ∃ (sigOk : Bool), len.toNat = 1410 ∧ s.ldg.up = true ∧ 
    let why := clearWhy s (memReads s.dbg.mbox 0 1410) sigOk
    ∃ r, why = some r) ∧
    (∃ (s : State), s.pwr.rails = .up ∧ s.dbg.session = true ∧ regsWf s = true ∧ ∃ (region : BitVec 4), ∃ (off : BitVec 15), ∃ (len : BitVec 13), ∃ (b k : Nat), norRegion region.toNat = some (b, k) ∧ s.sec.recovery = false ∧ 0 < len.toNat ∧ len.toNat ≤ 4096 ∧ off.toNat * 4096 + len.toNat ≤ k ∧ dbgOpen s = true) ∧
    (∃ (s : State), s.pwr.rails = .up ∧ s.dbg.session = true ∧ regsWf s = true ∧ ∃ (region : BitVec 4), ∃ (off : BitVec 15), ∃ (len : BitVec 13), ∃ (b k : Nat), norRegion region.toNat = some (b, k) ∧ s.sec.recovery = false ∧ 0 < len.toNat ∧ len.toNat ≤ 4096 ∧ off.toNat * 4096 + len.toNat ≤ k ∧ dbgOpen s = false) ∧
    (∃ (s : State), s.pwr.rails = .up ∧ s.dbg.session = true ∧ regsWf s = true ∧ lcState s = .blank ∧ s.sec.move = none) ∧
    (∃ (s : State), s.pwr.rails = .up ∧ s.dbg.session = true ∧ regsWf s = true ∧ lcState s ≠ .blank) ∧
    (∃ (s : State), s.pwr.rails = .up ∧ s.dbg.session = true ∧ regsWf s = true ∧ ∃ (len : BitVec 13), len.toNat = 3115 ∧ lcState s = .blank ∧ s.sec.provisioning = true ∧ s.sec.move = some .provision ∧ s.job.device = none ∧ s.seq.st = .idle ∧ jobLoaded s = false ∧ s.sec.wipe = none) :=
  ⟨⟨mbx (usab on) [(0, 4), (1, 1)], by decide +kernel, by decide +kernel, by decide +kernel, ⟨1378, true, .inl rfl, .retire, mbx_ok, by decide +kernel⟩⟩,
   ⟨mbx (usab on) [(0, 4), (1, 1)], by decide +kernel, by decide +kernel, by decide +kernel, ⟨1378, false, .inl rfl, 3, mbx_refuse⟩⟩,
   ⟨mbx (usab on) [(0, 1)], by decide +kernel, by decide +kernel, by decide +kernel, ⟨1410, true, by decide +kernel, by decide +kernel, mbx_why⟩⟩,
   ⟨mbx (usab on) [(0, 1)], by decide +kernel, by decide +kernel, by decide +kernel, ⟨1410, false, by decide +kernel, by decide +kernel, 3, mbx_no⟩⟩,
   ⟨mbx prov [], by decide +kernel, by decide +kernel, by decide +kernel, ⟨2, 0, 4096, 0x200000, 0x200000, by decide +kernel⟩⟩,
   ⟨mbx depl [], by decide +kernel, by decide +kernel, by decide +kernel, ⟨2, 1, 1, 0x200000, 0x200000, by decide +kernel⟩⟩,
   ⟨mbx on [], by decide +kernel⟩,
   ⟨mbx prov [], by decide +kernel⟩,
   ⟨let s := mbx on []; { s with sec := { s.sec with provisioning := true, move := some .provision } }, by decide +kernel, by decide +kernel, by decide +kernel, ⟨3115, by decide +kernel⟩⟩⟩

theorem witness_RegisterWriteResults :
    (∃ (s : State), s.pwr.rails = .up ∧ ∃ (a m : Nat), (a, m) ∈ [(0x3F0000280018, 2 ^ 64 - 1), (0x3F0000280020, 2 ^ 32 - 1), (0x3F0000280028, 2 ^ 48 - 1), (0x3F0000C00050, 2 ^ 48 - 1), (0x3F0000B00040, 2 ^ 64 - 1), (0x3F0001200040, 3 * 2 ^ 62 + 0x3FF * 2 ^ 48 + (2 ^ 32 - 1)), (0x3F0001200080, 7 * 2 ^ 61 + 0x3FF * 2 ^ 48 + (2 ^ 22 - 1)), (0x3F0001200088, 2 ^ 22 - 1)] ∧ regsWf s = true) ∧
    (∃ (s : State), s.pwr.rails = .up ∧ ∃ (a m : Nat), (a, m) ∈ [(0x3F0000010010, 2 ^ 46 - 2 ^ 6), (0x3F0000010018, 2 ^ 32 - 1), (0x3F0000010020, 2 ^ 46 - 2 ^ 6), (0x3F0000010050, 2 ^ 46 - 2 ^ 10), (0x3F0000280000, 2 ^ 64 - 1), (0x3F0000280008, 2 ^ 64 - 1), (0x3F0000410008, 2 ^ 14 - 1), (0x3F0000410018, 2 ^ 46 - 2 ^ 17), (0x3F0000700000, 2 ^ 46 - 2 ^ 16), (0x3F0000B00000, 2 ^ 46 - 2 ^ 12), (0x3F0000B00028, 2 ^ 46 - 2 ^ 19)] ∧ (s.job.st = .empty ∨ s.job.st = .loaded ∧ s.job.restarted = false) ∧ regsWf s = true) ∧
    (∃ (s : State), s.pwr.rails = .up ∧ ∃ (a m : Nat), (a, m) ∈ [(0x3F0000010010, 2 ^ 46 - 2 ^ 6), (0x3F0000010018, 2 ^ 32 - 1), (0x3F0000010020, 2 ^ 46 - 2 ^ 6), (0x3F0000010050, 2 ^ 46 - 2 ^ 10), (0x3F0000280000, 2 ^ 64 - 1), (0x3F0000280008, 2 ^ 64 - 1), (0x3F0000410008, 2 ^ 14 - 1), (0x3F0000410018, 2 ^ 46 - 2 ^ 17), (0x3F0000700000, 2 ^ 46 - 2 ^ 16), (0x3F0000B00000, 2 ^ 46 - 2 ^ 12), (0x3F0000B00028, 2 ^ 46 - 2 ^ 19)] ∧ (s.job.st = .empty ∨ s.job.st = .loaded ∧ s.job.restarted = false) ∧ regsWf s = true) ∧
    (∃ (s : State), s.pwr.rails = .up ∧ ∃ (a m : Nat), (a, m) ∈ [(0x3F0000010010, 2 ^ 46 - 2 ^ 6), (0x3F0000010018, 2 ^ 32 - 1), (0x3F0000010020, 2 ^ 46 - 2 ^ 6), (0x3F0000010050, 2 ^ 46 - 2 ^ 10), (0x3F0000280000, 2 ^ 64 - 1), (0x3F0000280008, 2 ^ 64 - 1), (0x3F0000410008, 2 ^ 14 - 1), (0x3F0000410018, 2 ^ 46 - 2 ^ 17), (0x3F0000700000, 2 ^ 46 - 2 ^ 16), (0x3F0000B00000, 2 ^ 46 - 2 ^ 12), (0x3F0000B00028, 2 ^ 46 - 2 ^ 19)] ∧ (s.job.st = .running ∨ s.job.st = .loaded ∧ s.job.restarted = true)) ∧
    (∃ (s : State), ∃ (v : Word64), s.pwr.rails = .up ∧ ∃ (a : Nat), a ∈ [0x3F0000010040, 0x3F0000410028, 0x3F0000800020, 0x3F0000800028, 0x3F0000800030, 0x3F0000800038, 0x3F0000C00020] ∧ v.getLsbD 63 = true ∧ regsWf s = true) ∧
    (∃ (s : State), ∃ (v : Word64), s.pwr.rails = .up ∧ ∃ (a : Nat), a ∈ [0x3F0000010040, 0x3F0000410028, 0x3F0000800020, 0x3F0000800028, 0x3F0000800030, 0x3F0000800038, 0x3F0000C00020] ∧ v.getLsbD 63 = false) ∧
    (∃ (s : State), s.pwr.rails = .up ∧ ∃ (a : Nat), a ∈ [0x3F0000010008, 0x3F0000010028, 0x3F0000410010, 0x3F0000C00008, 0x3F0000D00000, 0x3F0000E00000, 0x3F0001100000, 0x3F0001200000]) ∧
    (∃ (s : State), s.pwr.rails = .up ∧ ∃ (a : BitVec 46), (a.toNat < 0x3F0000F00000 ∨ 0x3F0000F10000 ≤ a.toNat)) ∧
    (∃ (s : State), s.pwr.rails = .up ∧ ∃ (a : BitVec 46), (a.toNat < 0x3F0000F00000 ∨ 0x3F0000F10000 ≤ a.toNat)) ∧
    (∃ (s : State), s.pwr.rails = .up) :=
  ⟨⟨on, by decide +kernel, 0x3F0000280018, 2 ^ 64 - 1, by decide, by decide +kernel⟩,
   ⟨on, by decide +kernel, 0x3F0000B00028, 2 ^ 46 - 2 ^ 19, by decide, .inl rfl, by decide +kernel⟩,
   ⟨jl .loaded, by decide +kernel, 0x3F0000B00028, 2 ^ 46 - 2 ^ 19, by decide, .inr ⟨rfl, rfl⟩, by decide +kernel⟩,
   ⟨jr, by decide +kernel, 0x3F0000B00028, 2 ^ 46 - 2 ^ 19, by decide, by decide +kernel⟩,
   ⟨on, 0x8000000000000000, by decide +kernel, 0x3F0000C00020, by decide, by decide +kernel⟩,
   ⟨on, 1, by decide +kernel, 0x3F0000C00020, by decide, by decide +kernel⟩,
   ⟨on, by decide +kernel, 0x3F0001200000, by decide⟩,
   ⟨on, by decide +kernel, 0x3F0000EFFFF8, .inl (by decide)⟩,
   ⟨on, by decide +kernel, 0x3F0000F10000, .inr (by decide)⟩,
   ⟨on, by decide +kernel⟩⟩

theorem witness_StepTakesFrontCommand :
    (∃ (s : State), ∃ (c : Instr), ∃ (cs : List Instr), s.pending = c :: cs) ∧
    (∃ (s : State), s.pending = [] ∧ s.pwr.rails = .off) ∧
    (∃ (s : State), s.pending = [] ∧ s.pwr.rails ≠ .off) :=
  ⟨⟨{ on with pending := [.timSnap] }, .timSnap, [], by decide +kernel⟩,
   ⟨State.reset, by decide +kernel⟩,
   ⟨on, by decide +kernel⟩⟩

theorem witness_ResetRegisterValues :
    (∃ (a v : Nat), (a, v) ∈ [(0x3F0000010008, 0), (0x3F0000010028, 0), (0x3F0000410000, 1), (0x3F0000410008, 50), (0x3F0000410010, 0), (0x3F0000800008, 0x200), (0x3F0000800040, 0x1F8), (0x3F0000D00000, 0), (0x3F0000D00020, 0xD), (0x3F0000E00000, 0), (0x3F0000F00008, 0x3C), (0x3F0001000000, 0x25800000001), (0x3F0001100000, 0), (0x3F0001200000, 1)]) :=
  ⟨0x3F0001200000, 1, by decide⟩

theorem witness_SlotWordRoundTrip :
    (∃ (m : MOp), m ≠ .nop) ∧
    (∃ (t : TOp), t ≠ .nop) :=
  ⟨⟨.mswap, by decide +kernel⟩,
   ⟨.tcfg 1 2 3 4 5, by decide +kernel⟩⟩

theorem witness_MemoryStaysCanonical :
    (∃ (s t : State), memoryWf s = true ∧ step s = .next t) :=
  ⟨State.reset, State.reset, by decide +kernel, rfl⟩

theorem witness_FusesAndRepairStay :
    (∃ (s t : State), step s = .next t) ∧
    (∃ (s t : State), step s = .next t ∧ lcState s = .retired) :=
  ⟨⟨State.reset, State.reset, rfl⟩,
   ⟨retd, retd, rfl, by decide +kernel⟩⟩

theorem witness_CommandFrames :
    (∃ (s t : State), ∃ (i : Instr), (leavesMemory i = true ∨ (i = .jobDone ∧ s.job.hold ≠ 0) ∨ ((i = .feedTagCheck ∨ ∃ port, i = .cxlTrainTimeout port) ∧ s.sec.boot = none) ∨ ∃ core, i = .lcuRetryAbort core ∧ ∀ q, failedCopy (getCore s core) = some q → dL1 q.desc = false) ∧ exec i s = .next t) ∧
    (∃ (s t : State), ∃ (i : Instr), (leavesMemory i = true ∨ (i = .jobDone ∧ s.job.hold ≠ 0) ∨ ((i = .feedTagCheck ∨ ∃ port, i = .cxlTrainTimeout port) ∧ s.sec.boot = none) ∨ ∃ core, i = .lcuRetryAbort core ∧ ∀ q, failedCopy (getCore s core) = some q → dL1 q.desc = false) ∧ exec i s = .next t) ∧
    (∃ (s t : State), ∃ (i : Instr), (leavesMemory i = true ∨ (i = .jobDone ∧ s.job.hold ≠ 0) ∨ ((i = .feedTagCheck ∨ ∃ port, i = .cxlTrainTimeout port) ∧ s.sec.boot = none) ∨ ∃ core, i = .lcuRetryAbort core ∧ ∀ q, failedCopy (getCore s core) = some q → dL1 q.desc = false) ∧ exec i s = .next t) ∧
    (∃ (s t : State), ∃ (i : Instr), ∃ (core : Nat), ∃ (sl : Slots), slotsOf i = some (core, sl) ∧ exec i s = .next t) ∧
    (∃ (s t : State), ∃ (i : Instr), ∃ (core : Nat), ∃ (sl : Slots), slotsOf i = some (core, sl) ∧ sl.x = .nop ∧ sl.s = .nop ∧ SlotIssues s core sl ∧ exec i s = .next t ∧ t.seq.st = .running ∧ ∃ j, j ≠ core) ∧
    (∃ (s t : State), ∃ (i : Instr), ∃ (core : Nat), ∃ (sl : Slots), slotsOf i = some (core, sl) ∧ sl.x = .nop ∧ sl.s = .nop ∧ SlotIssues s core sl ∧ exec i s = .next t ∧ t.seq.st = .running) :=
  ⟨⟨jr, after .timSnap jr, .timSnap, .inl (by decide +kernel), after_eq _ _ (by decide +kernel)⟩,
   ⟨jr, after .timSnap jr, .timSnap, .inl (by decide +kernel), after_eq _ _ (by decide +kernel)⟩,
   ⟨lcu { cpy dcp with active := true, failed := true }, after (.lcuRetryAbort 3) (lcu { cpy dcp with active := true, failed := true }), .lcuRetryAbort 3, .inr (.inr (.inr ⟨3, rfl, fun q h => by rw [show failedCopy (getCore (lcu { cpy dcp with active := true, failed := true }) 3) = some { cpy dcp with active := true, failed := true } from by decide +kernel] at h; cases h; decide +kernel⟩)), after_eq _ _ (by decide +kernel)⟩,
   ⟨rs, after (.cadd 3 0 3 3 7) rs, (.cadd 3 0 3 3 7), 3, { c := .cadd 3 3 7 }, by decide +kernel, after_eq _ _ (by decide +kernel)⟩,
   ⟨rs, after (.cadd 3 0 3 3 7) rs, (.cadd 3 0 3 3 7), 3, { c := .cadd 3 3 7 }, by decide +kernel, by decide +kernel, by decide +kernel, ⟨issues_of _ _ _ (by decide +kernel), after_eq _ _ (by decide +kernel), by decide +kernel, 4, by decide +kernel⟩⟩,
   ⟨rs, after (.cadd 3 0 3 3 7) rs, (.cadd 3 0 3 3 7), 3, { c := .cadd 3 3 7 }, by decide +kernel, by decide +kernel, by decide +kernel, ⟨issues_of _ _ _ (by decide +kernel), after_eq _ _ (by decide +kernel), by decide +kernel⟩⟩⟩

end Sys2Proof.Tests
end

section
/-! PROOFS. O52: what a register write of the management core does under each access code (R9). The registers of the statement hold a value each and no
write of theirs triggers an action (`valueReg`); on those a write is `maskPut` under the fields' mask, the clearing of ovf, or nothing. -/

namespace Sys2Proof.Machine

/-! ### Reading a register after a write -/

/-- A register reads what was last put in it (canonical form: `setReg` drops an entry that becomes 0, and no second entry may stand behind it). -/
theorem reg_setReg_same {s : State} (hwf : regsWf s = true) (a : Nat) (w : Word64) : reg (setReg s a w) a = w :=
  smGet_smSet_same 0 s.regs a w hwf

theorem reg_setReg_ne (s : State) {a b : Nat} (w : Word64) (h : b ≠ a) : reg (setReg s a w) b = reg s b :=
  smGet_smSet_ne 0 s.regs a b w h

/-- A register set changes that register, no other, and nothing else of the state. -/
theorem setReg_sets_only {s : State} (hwf : regsWf s = true) (a : Nat) (w : Word64) :
    setReg s a w = { s with regs := (setReg s a w).regs } ∧ reg (setReg s a w) a = w ∧ ∀ b, b ≠ a → reg (setReg s a w) b = reg s b :=
  ⟨rfl, reg_setReg_same hwf a w, fun _ hb => reg_setReg_ne s w hb⟩

/-! ### Fields as words -/

theorem ofNat_maskPut (x v : Word64) {m : Nat} (hm : m < 2 ^ 64) :
    BitVec.ofNat 64 (maskPut x.toNat v.toNat m) = (x &&& ~~~(BitVec.ofNat 64 m)) ||| (v &&& BitVec.ofNat 64 m) := by
  have hnot : BitVec.ofNat 64 (2 ^ 64 - 1 - m) = ~~~(BitVec.ofNat 64 m) := by
    apply BitVec.eq_of_toNat_eq
    rw [BitVec.toNat_not, BitVec.toNat_ofNat, BitVec.toNat_ofNat, Nat.mod_eq_of_lt hm, Nat.mod_eq_of_lt (by omega)]
  simp only [maskPut, BitVec.ofNat_or, BitVec.ofNat_and, BitVec.ofNat_toNat, BitVec.setWidth_eq, hnot]

theorem ofNat_putBits_top_zero (x : Word64) : BitVec.ofNat 64 (putBits x.toNat 63 63 0) = x &&& 0x7FFFFFFFFFFFFFFF := by
  have hlow : putBits x.toNat 63 63 0 = x.toNat % 2 ^ 63 := by
    have hx := x.isLt
    simp only [putBits]
    omega
  apply BitVec.eq_of_toNat_eq
  rw [hlow, BitVec.toNat_and, BitVec.toNat_ofNat, Nat.mod_eq_of_lt (by omega)]
  exact (Nat.and_two_pow_sub_one_eq_mod x.toNat 63).symm

theorem bitOf_toNat (v : Word64) (i : Nat) : bitOf v.toNat i = v.getLsbD i := by
  simp [bitOf, BitVec.getLsbD, Nat.testBit_eq_decide_div_mod_eq, Nat.shiftRight_eq_div_pow, Bool.beq_eq_decide_eq]

/-! ### Registers outside the blocks of the cores -/

theorem nCores_le (s : State) : nCores s ≤ 896 := by
  unfold nCores
  split <;> omega

/-- A block with fewer units covers no more. -/
theorem blockAt_none_of_le {a base stride n k : Nat} (hk : k ≤ n) (h : blockAt a base stride n = none) : blockAt a base stride k = none := by
  have hmul : stride * k ≤ stride * n := Nat.mul_le_mul_left stride hk
  unfold blockAt at h ⊢
  split at h
  · cases h
  · rw [if_neg (by omega)]

/-- No block of registers that repeats with each core covers the address, on a part of either size. -/
abbrev offCoreBlocks (a : Nat) : Prop :=
  blockAt a (aCore 0) 0x400000 896 = none ∧ blockAt a (aArr 0) 0x40 896 = none ∧ blockAt a (aVecOps 0) 0x40 896 = none
  ∧ blockAt a (aMint 0) 0x40 896 = none ∧ blockAt a (aLcu 0) 0x80 896 = none

/-- Off the cores' blocks every part has the same ovf counters: those of the state at reset. -/
theorem ovfAt_eq_reset {a : Nat} (h : offCoreBlocks a) (s : State) : ovfAt s a = ovfAt State.reset a := by
  obtain ⟨hcore, harr, hvec, hmint, hlcu⟩ := h
  simp only [ovfAt, blockAt_none_of_le (nCores_le _) hcore, blockAt_none_of_le (nCores_le _) harr,
    blockAt_none_of_le (nCores_le _) hvec, blockAt_none_of_le (nCores_le _) hmint, blockAt_none_of_le (nCores_le _) hlcu]

/-- Off the cores' blocks every part has the same RWL fields: those of the state at reset. -/
theorem rwlMask_eq_reset {a : Nat} (h : offCoreBlocks a) (s : State) : rwlMask s a = rwlMask State.reset a := by
  obtain ⟨-, harr, -, -, -⟩ := h
  simp only [rwlMask, blockAt_none_of_le (nCores_le _) harr]

/-! ### Registers that hold a value -/

/-- A chip register off the cores' blocks that no action, no mailbox byte and no meaning of its own stands behind: a write of it can act on the fields of
its RW and RWL masks and on its ovf bit only. -/
abbrev valueReg (a : Nat) : Prop :=
  a % 8 = 0 ∧ a < 2 ^ 46 ∧ placeOf a = .chip ∧ a ∉ [aDbgHalt, aDbgMcmd, aDbgReset] ∧ ¬(aMbox ≤ a ∧ a < aMbox + 0x1000)
  ∧ woAt a = false ∧ a ∉ [aSeqFault, aMemRefInfo, aLdg] ∧ offCoreBlocks a

/-- The management core's write of such a register is a plain write, wherever a register stands at the address. -/
theorem exec_registerWrite_mgmt {s : State} {a : Nat} (hup : s.pwr.rails = .up) (ha : valueReg a) (v : Word64) :
    exec (.registerWrite .mgmt (BitVec.ofNat 46 a) v) s = .next (if (regView s a).isSome then plainWrite s a v.toNat else s) := by
  obtain ⟨halign, hlt, hplace, haction, hmbox, -, -, -⟩ := ha
  simp only [List.mem_cons, List.not_mem_nil, or_false, not_or] at haction
  obtain ⟨hhalt, hmcmd, hreset⟩ := haction
  have hnat : (BitVec.ofNat 46 a).toNat = a := by rw [BitVec.toNat_ofNat, Nat.mod_eq_of_lt hlt]
  have hchip : chipWrite s a v.toNat = some (plainWrite s a v.toNat) := by
    rw [chipWrite, if_neg hhalt, if_neg hmcmd, if_neg hreset, if_neg hmbox]
  change Host.Outcome.next (regWrite s .mgmt (BitVec.ofNat 46 a).toNat v.toNat) = _
  simp only [hnat, regWrite, hup, halign, hplace, hchip, ne_eq, not_true_eq_false, if_false, Option.getD_some]

/-- The bits of such a register that a write replaces: its RW fields, and its RWL fields while these are open. -/
def openMask (s : State) (a : Nat) : Nat := rwMask a + if rwlOpen s then rwlMask State.reset a else 0

/-- A plain write of such a register clears ovf where it has one and is told to, and else replaces the fields that are open. -/
theorem plainWrite_valueReg {a : Nat} (ha : valueReg a) (s : State) (v : Nat) :
    plainWrite s a v =
      if ovfAt State.reset a then (if bitOf v 63 then setRegF s a 63 63 0 else s)
      else if openMask s a = 0 then s
      else setReg s a (BitVec.ofNat 64 (maskPut (reg s a).toNat v (openMask s a))) := by
  obtain ⟨-, -, -, -, -, hwo, hown, hoff⟩ := ha
  simp only [List.mem_cons, List.not_mem_nil, or_false, not_or] at hown
  obtain ⟨hfault, hinfo, hldg⟩ := hown
  rw [plainWrite, hwo, if_neg Bool.false_ne_true, if_neg hfault, if_neg hinfo, if_neg hldg, ovfAt_eq_reset hoff, rwlMask_eq_reset hoff]
  rfl

/-- The management core's write of a register whose open fields are those under the mask `m`. -/
theorem exec_write_open_fields {s : State} {a m : Nat} (hup : s.pwr.rails = .up) (ha : valueReg a) (hview : (regView s a).isSome = true)
    (hovf : ovfAt State.reset a = false) (hmask : openMask s a = m) (hpos : m ≠ 0) (hm : m < 2 ^ 64) (v : Word64) :
    exec (.registerWrite .mgmt (BitVec.ofNat 46 a) v) s
      = .next (setReg s a ((reg s a &&& ~~~(BitVec.ofNat 64 m)) ||| (v &&& BitVec.ofNat 64 m))) := by
  rw [exec_registerWrite_mgmt hup ha, if_pos hview, plainWrite_valueReg ha, hovf, hmask, ← ofNat_maskPut (reg s a) v hm]
  simp only [Bool.false_eq_true, if_false, if_neg hpos]

/-- The management core's write of a register without an open field. -/
theorem exec_write_no_fields {s : State} {a : Nat} (hup : s.pwr.rails = .up) (ha : valueReg a) (hovf : ovfAt State.reset a = false)
    (hmask : openMask s a = 0) (v : Word64) :
    exec (.registerWrite .mgmt (BitVec.ofNat 46 a) v) s = .next s := by
  rw [exec_registerWrite_mgmt hup ha, plainWrite_valueReg ha, hovf, hmask]
  simp only [Bool.false_eq_true, if_false, if_true, ite_self]

/-- The management core's write of a counter: bit 63 written 1 clears ovf. -/
theorem exec_write_counter {s : State} {a : Nat} (hup : s.pwr.rails = .up) (ha : valueReg a) (hview : (regView s a).isSome = true)
    (hovf : ovfAt State.reset a = true) (v : Word64) :
    exec (.registerWrite .mgmt (BitVec.ofNat 46 a) v) s
      = .next (if v.getLsbD 63 then setReg s a (reg s a &&& 0x7FFFFFFFFFFFFFFF) else s) := by
  rw [exec_registerWrite_mgmt hup ha, if_pos hview, plainWrite_valueReg ha, hovf, if_pos rfl, bitOf_toNat, setRegF, ofNat_putBits_top_zero]

/-! ### When RWL fields are open -/

theorem rwlOpen_of_no_start {s : State} (h : s.job.st = .empty ∨ s.job.st = .loaded ∧ s.job.restarted = false) : rwlOpen s = true := by
  obtain hst | ⟨hst, hre⟩ := h
  · simp only [rwlOpen, hst]
  · simp only [rwlOpen, hst, hre, Bool.not_false]

theorem rwlOpen_of_started {s : State} (h : s.job.st = .running ∨ s.job.st = .loaded ∧ s.job.restarted = true) : rwlOpen s = false := by
  obtain hst | ⟨hst, hre⟩ := h
  · simp only [rwlOpen, hst]
  · simp only [rwlOpen, hst, hre, Bool.not_true]

/-! ### The registers of the statement -/

/-- Registers with RW fields, each with the mask of its fields. -/
def rwRegs : List (Nat × Nat) :=
  [(0x3F0000280018, 2 ^ 64 - 1), (0x3F0000280020, 2 ^ 32 - 1), (0x3F0000280028, 2 ^ 48 - 1), (0x3F0000C00050, 2 ^ 48 - 1),
   (0x3F0000B00040, 2 ^ 64 - 1), (0x3F0001200040, 3 * 2 ^ 62 + 0x3FF * 2 ^ 48 + (2 ^ 32 - 1)),
   (0x3F0001200080, 7 * 2 ^ 61 + 0x3FF * 2 ^ 48 + (2 ^ 22 - 1)), (0x3F0001200088, 2 ^ 22 - 1)]

/-- Registers with RWL fields, each with the mask of its fields. -/
def rwlRegs : List (Nat × Nat) :=
  [(0x3F0000010010, 2 ^ 46 - 2 ^ 6), (0x3F0000010018, 2 ^ 32 - 1), (0x3F0000010020, 2 ^ 46 - 2 ^ 6), (0x3F0000010050, 2 ^ 46 - 2 ^ 10),
   (0x3F0000280000, 2 ^ 64 - 1), (0x3F0000280008, 2 ^ 64 - 1), (0x3F0000410008, 2 ^ 14 - 1), (0x3F0000410018, 2 ^ 46 - 2 ^ 17),
   (0x3F0000700000, 2 ^ 46 - 2 ^ 16), (0x3F0000B00000, 2 ^ 46 - 2 ^ 12), (0x3F0000B00028, 2 ^ 46 - 2 ^ 19)]

/-- Counters with an ovf bit. -/
def ovfRegs : List Nat :=
  [0x3F0000010040, 0x3F0000410028, 0x3F0000800020, 0x3F0000800028, 0x3F0000800030, 0x3F0000800038, 0x3F0000C00020]

/-- Registers whose fields are all RO. -/
def roRegs : List Nat :=
  [0x3F0000010008, 0x3F0000010028, 0x3F0000410010, 0x3F0000C00008, 0x3F0000D00000, 0x3F0000E00000, 0x3F0001100000, 0x3F0001200000]

theorem rwRegs_masks : ∀ p ∈ rwRegs, valueReg p.1 ∧ ovfAt State.reset p.1 = false ∧ rwMask p.1 = p.2 ∧ rwlMask State.reset p.1 = 0
    ∧ p.2 ≠ 0 ∧ p.2 < 2 ^ 64 := by decide

theorem rwlRegs_masks : ∀ p ∈ rwlRegs, valueReg p.1 ∧ ovfAt State.reset p.1 = false ∧ rwMask p.1 = 0 ∧ rwlMask State.reset p.1 = p.2
    ∧ p.2 ≠ 0 ∧ p.2 < 2 ^ 64 := by decide

theorem ovfRegs_ovf : ∀ a ∈ ovfRegs, valueReg a ∧ ovfAt State.reset a = true := by decide

theorem roRegs_masks : ∀ a ∈ roRegs, valueReg a ∧ ovfAt State.reset a = false ∧ rwMask a = 0 ∧ rwlMask State.reset a = 0 := by decide

/-- In every state a register stands at the RW, RWL and ovf addresses. -/
theorem regView_isSome_of_listed (s : State) :
    (∀ p ∈ rwRegs, (regView s p.1).isSome = true) ∧ (∀ p ∈ rwlRegs, (regView s p.1).isSome = true) ∧ ∀ a ∈ ovfRegs, (regView s a).isSome = true :=
  ⟨List.all_eq_true.mp rfl, List.all_eq_true.mp rfl, List.all_eq_true.mp rfl⟩

/-! ### The write under each access code -/

/-- R9, R215, R423, R507, R620: RW fields take the value written, whatever the job's state. -/
theorem exec_write_rw {s : State} {a m : Nat} (hup : s.pwr.rails = .up) (h : (a, m) ∈ rwRegs) (v : Word64) :
    exec (.registerWrite .mgmt (BitVec.ofNat 46 a) v) s
      = .next (setReg s a ((reg s a &&& ~~~(BitVec.ofNat 64 m)) ||| (v &&& BitVec.ofNat 64 m))) := by
  obtain ⟨hview, -, -⟩ := regView_isSome_of_listed s
  obtain ⟨ha, hovf, hrw, hrwl, hpos, hm⟩ := rwRegs_masks _ h
  have hmask : openMask s a = m := by rw [openMask, hrw, hrwl, ite_self, Nat.add_zero]
  exact exec_write_open_fields hup ha (hview _ h) hovf hmask hpos hm v

/-- R9, R73, R215, R246, R314, R423 (log entry 38): RWL fields take the value written while no job has started, and ignore it afterwards. -/
theorem exec_write_rwl {s : State} {a m : Nat} (hup : s.pwr.rails = .up) (h : (a, m) ∈ rwlRegs) (v : Word64) :
    exec (.registerWrite .mgmt (BitVec.ofNat 46 a) v) s
      = .next (if rwlOpen s then setReg s a ((reg s a &&& ~~~(BitVec.ofNat 64 m)) ||| (v &&& BitVec.ofNat 64 m)) else s) := by
  obtain ⟨-, hview, -⟩ := regView_isSome_of_listed s
  obtain ⟨ha, hovf, hrw, hrwl, hpos, hm⟩ := rwlRegs_masks _ h
  have hmask : openMask s a = if rwlOpen s then m else 0 := by rw [openMask, hrw, hrwl, Nat.zero_add]
  split at hmask
  · rw [if_pos ‹_›]
    exact exec_write_open_fields hup ha (hview _ h) hovf hmask hpos hm v
  · rw [if_neg ‹_›]
    exact exec_write_no_fields hup ha hovf hmask v

/-- R9, R73, R246, R351, R507: a 1 written to bit 63 of a counter clears ovf and leaves the count; a 0 changes nothing. -/
theorem exec_write_ovf {s : State} {a : Nat} (hup : s.pwr.rails = .up) (h : a ∈ ovfRegs) (v : Word64) :
    exec (.registerWrite .mgmt (BitVec.ofNat 46 a) v) s
      = .next (if v.getLsbD 63 then setReg s a (reg s a &&& 0x7FFFFFFFFFFFFFFF) else s) := by
  obtain ⟨-, -, hview⟩ := regView_isSome_of_listed s
  obtain ⟨ha, hovf⟩ := ovfRegs_ovf a h
  exact exec_write_counter hup ha (hview a h) hovf v

/-- R9: RO fields ignore a write. -/
theorem exec_write_ro {s : State} {a : Nat} (hup : s.pwr.rails = .up) (h : a ∈ roRegs) (v : Word64) :
    exec (.registerWrite .mgmt (BitVec.ofNat 46 a) v) s = .next s := by
  obtain ⟨ha, hovf, hrw, hrwl⟩ := roRegs_masks a h
  exact exec_write_no_fields hup ha hovf (by rw [openMask, hrw, hrwl, ite_self]) v

/-! ### The other agents -/

/-- Outside the HOST_ registers a write of the host changes nothing (R553, log entry 60). -/
theorem exec_write_host_outside (s : State) {a : BitVec 46} (ha : a.toNat < 0x3F0000F00000 ∨ 0x3F0000F10000 ≤ a.toNat) (v : Word64) :
    exec (.registerWrite .host a v) s = .next s := by
  change Host.Outcome.next (regWrite s .host a.toNat v.toNat) = _
  have hbar : ¬(s.host.width ≠ 0 ∧ aHost ≤ a.toNat ∧ a.toNat < aHost + 0x10000 ∧ a.toNat % 8 = 0) := by
    simp only [aHost]
    omega
  simp only [regWrite, if_neg hbar, ite_self]

/-- The debug port's register write is its write transaction (R605). -/
theorem exec_write_debug {s : State} (hup : s.pwr.rails = .up) (a : BitVec 46) (v : Word64) :
    exec (.registerWrite .debug a v) s = exec (.dapWrite a v) s := by
  change Host.Outcome.next (regWrite s .debug a.toNat v.toNat) = .next (dapWrites s a.toNat v.toNat)
  simp only [regWrite, hup, ne_eq, not_true_eq_false, if_false]

/-- Settles O52: the listed registers are `valueReg`s, so a write is decided by their masks and their ovf bit. -/
theorem registerWriteResults : Obligations.RegisterWriteResults := by
  intro s v hup
  refine ⟨fun a m h hwf => ?_, fun a m h => ⟨fun hjob hwf => ?_, fun hjob => ?_⟩, fun a h => ⟨fun hv hwf => ?_, fun hv => ?_⟩,
    fun a h => exec_write_ro hup h v, fun a ha => exec_write_host_outside s ha v, fun a => exec_write_debug hup a v⟩
  · exact ⟨_, exec_write_rw hup h v, setReg_sets_only hwf a _⟩
  · exact ⟨_, (exec_write_rwl hup h v).trans (by rw [rwlOpen_of_no_start hjob, if_pos rfl]), setReg_sets_only hwf a _⟩
  · rw [exec_write_rwl hup h v, rwlOpen_of_started hjob]
    rfl
  · exact ⟨_, (exec_write_ovf hup h v).trans (by rw [if_pos hv]), setReg_sets_only hwf a _⟩
  · rw [exec_write_ovf hup h v, hv]
    rfl

end Sys2Proof.Machine
end

section
/-! PROOFS. O57, O56: the slot words. A slot word is the concatenation of its fields, high field first (`packed`); each encoder builds one and each decoder
reads the fields back at their places. -/

namespace Sys2Proof.Machine

/-! ### Words as runs of fields -/

/-- A field of a word: its width and its bits. -/
abbrev Field := (w : Nat) × BitVec w

/-- How many bits a run of fields takes. -/
def widthOf : List Field → Nat
  | [] => 0
  | f :: fs => f.1 + widthOf fs

/-- The word that a run of fields makes, the first field at the top. -/
def packed : List Field → Nat
  | [] => 0
  | f :: fs => f.2.toNat * 2 ^ widthOf fs + packed fs

theorem packed_lt (fs : List Field) : packed fs < 2 ^ widthOf fs := by
  induction fs with
  | nil => simp [packed, widthOf]
  | cons f fs ih =>
    have hf : f.2.toNat + 1 ≤ 2 ^ f.1 := f.2.isLt
    calc f.2.toNat * 2 ^ widthOf fs + packed fs
        < f.2.toNat * 2 ^ widthOf fs + 2 ^ widthOf fs := by omega
      _ = (f.2.toNat + 1) * 2 ^ widthOf fs := by ring
      _ ≤ 2 ^ f.1 * 2 ^ widthOf fs := Nat.mul_le_mul_right _ hf
      _ = 2 ^ widthOf (f :: fs) := by rw [widthOf, pow_add]

/-- The first field of a word is read back at its place. -/
theorem bitsOf_packed_first {w hi lo : Nat} (x : BitVec w) (fs : List Field) (hlo : lo = widthOf fs) (hhi : hi + 1 = w + lo) :
    bitsOf (packed (⟨w, x⟩ :: fs)) hi lo = x.toNat := by
  have hdiv : (x.toNat * 2 ^ widthOf fs + packed fs) / 2 ^ widthOf fs = x.toNat := by
    rw [Nat.add_comm, Nat.add_mul_div_right _ _ (Nat.two_pow_pos _), Nat.div_eq_of_lt (packed_lt fs), Nat.zero_add]
  rw [bitsOf, packed, Nat.shiftRight_eq_div_pow, hlo, hdiv, show hi + 1 - widthOf fs = w by omega, Nat.mod_eq_of_lt x.isLt]

/-- Bits below the first field are bits of the rest. -/
theorem bitsOf_packed_rest {hi lo : Nat} (f : Field) (fs : List Field) (h : hi < widthOf fs) (hle : lo ≤ hi) :
    bitsOf (packed (f :: fs)) hi lo = bitsOf (packed fs) hi lo := by
  have hsplit : f.2.toNat * 2 ^ widthOf fs = 2 ^ lo * (2 ^ (hi + 1 - lo) * (f.2.toNat * 2 ^ (widthOf fs - (hi + 1)))) := by
    rw [mul_left_comm (2 ^ (hi + 1 - lo)), mul_left_comm (2 ^ lo), ← pow_add, ← pow_add]
    congr 2
    omega
  rw [bitsOf, bitsOf, packed, hsplit, Nat.shiftRight_eq_div_pow, Nat.shiftRight_eq_div_pow, Nat.mul_add_div (Nat.two_pow_pos _),
    Nat.mul_add_mod]

theorem fld_packed_first {w hi lo : Nat} (x : BitVec w) (fs : List Field) (hlo : lo = widthOf fs) (hhi : hi + 1 = w + lo) :
    fld w (packed (⟨w, x⟩ :: fs)) hi lo = x := by
  rw [fld, bitsOf_packed_first x fs hlo hhi, BitVec.ofNat_toNat, BitVec.setWidth_eq]

theorem fld_packed_rest {w hi lo : Nat} (f : Field) (fs : List Field) (h : hi < widthOf fs) (hle : lo ≤ hi) :
    fld w (packed (f :: fs)) hi lo = fld w (packed fs) hi lo := by
  rw [fld, fld, bitsOf_packed_rest f fs h hle]

/-- The last field of a word is read back at the bottom. -/
theorem fld_packed_last {w hi : Nat} (x : BitVec w) (hhi : hi + 1 = w) : fld w (packed [⟨w, x⟩]) hi 0 = x :=
  fld_packed_first x [] rfl hhi

theorem bitOf_eq_bitsOf (v i : Nat) : bitOf v i = (bitsOf v i i == 1) := by
  rw [bitOf, bitsOf, show i + 1 - i = 1 by omega, pow_one]

theorem bitOf_packed_first {i : Nat} (b : Bool) (fs : List Field) (hi : i = widthOf fs) :
    bitOf (packed (⟨1, BitVec.ofBool b⟩ :: fs)) i = b := by
  rw [bitOf_eq_bitsOf, bitsOf_packed_first _ fs hi (by omega)]
  cases b <;> rfl

theorem bitOf_packed_rest {i : Nat} (f : Field) (fs : List Field) (h : i < widthOf fs) :
    bitOf (packed (f :: fs)) i = bitOf (packed fs) i := by
  rw [bitOf_eq_bitsOf, bitsOf_packed_rest f fs h (Nat.le_refl i), ← bitOf_eq_bitsOf]

/-- The low bits of a word lie in the fields behind the first. -/
theorem lowBits_packed_rest {n : Nat} (f : Field) (fs : List Field) (h : n ≤ widthOf fs) :
    lowBits (packed (f :: fs)) n = lowBits (packed fs) n := by
  have hdvd : 2 ^ n ∣ f.2.toNat * 2 ^ widthOf fs := (pow_dvd_pow 2 h).mul_left _
  rw [lowBits, lowBits, packed, Nat.add_mod, Nat.mod_eq_zero_of_dvd hdvd, Nat.zero_add, Nat.mod_mod]

theorem lowBits_packed_zero (w n : Nat) : lowBits (packed [⟨w, 0#w⟩]) n = false := by
  simp [lowBits, packed]

/-! ### The fields of each slot word (R27, R28, R30) -/

theorem b2n_eq_toNat_ofBool (b : Bool) : b2n b = (BitVec.ofBool b).toNat := by cases b <;> rfl

/-- The fields of an M word. -/
def fieldsM (m : MOp) (p : BitVec 4) (d : BitVec 6) : List Field :=
  match m with
  | .nop => [⟨96, 0⟩]
  | .mld t g turn => [⟨4, 1⟩, ⟨4, p⟩, ⟨6, d⟩, ⟨5, t⟩, ⟨4, g⟩, ⟨1, .ofBool turn⟩, ⟨72, 0⟩]
  | .mswap => [⟨4, 2⟩, ⟨4, p⟩, ⟨6, d⟩, ⟨82, 0⟩]
  | .mmul zero areg off rows1 dest fmt acc d1 c1 rs sareg =>
    [⟨4, if zero then 4 else 3⟩, ⟨4, p⟩, ⟨6, d⟩, ⟨4, areg⟩, ⟨16, off⟩, ⟨11, rows1⟩, ⟨11, dest⟩, ⟨4, fmt⟩, ⟨3, acc⟩, ⟨6, d1⟩, ⟨6, c1⟩,
     ⟨1, .ofBool rs⟩, ⟨4, sareg⟩, ⟨16, 0⟩]
  | .mdrain first rows1 t g mode rnd areg off kind =>
    [⟨4, 5⟩, ⟨4, p⟩, ⟨6, d⟩, ⟨11, first⟩, ⟨11, rows1⟩, ⟨5, t⟩, ⟨4, g⟩, ⟨3, mode⟩, ⟨2, rnd⟩, ⟨4, areg⟩, ⟨16, off⟩, ⟨2, kind⟩, ⟨24, 0⟩]
  | .mtopk first rows1 vt vg pt pg k1 base kind =>
    [⟨4, 6⟩, ⟨4, p⟩, ⟨6, d⟩, ⟨11, first⟩, ⟨11, rows1⟩, ⟨5, vt⟩, ⟨4, vg⟩, ⟨5, pt⟩, ⟨4, pg⟩, ⟨4, k1⟩, ⟨24, base⟩, ⟨2, kind⟩, ⟨12, 0⟩]

/-- The fields of a V word. -/
def fieldsV (o : VOpc) (v : VArgs) (p : BitVec 4) (d : BitVec 6) : List Field :=
  [⟨4, .ofNat 4 (encVop o)⟩, ⟨4, p⟩, ⟨6, d⟩, ⟨5, v.dst⟩, ⟨4, v.dtag⟩, ⟨5, v.a⟩, ⟨4, v.atag⟩, ⟨5, v.b⟩, ⟨4, v.btag⟩, ⟨5, v.c⟩, ⟨4, v.ctag⟩,
   ⟨8, v.fn⟩, ⟨2, v.rnd⟩, ⟨4, v.fmt⟩, ⟨32, v.imm⟩]

/-- The fields of a T word. -/
def fieldsT (t : TOp) (p : BitVec 4) (d : BitVec 6) : List Field :=
  match t with
  | .nop => [⟨64, 0⟩]
  | .tcfg t g rows1 elems1 fmt => [⟨4, 1⟩, ⟨4, p⟩, ⟨6, d⟩, ⟨5, t⟩, ⟨4, g⟩, ⟨6, rows1⟩, ⟨10, elems1⟩, ⟨4, fmt⟩, ⟨21, 0⟩]
  | .tld t g areg off pitch => [⟨4, 2⟩, ⟨4, p⟩, ⟨6, d⟩, ⟨5, t⟩, ⟨4, g⟩, ⟨4, areg⟩, ⟨16, off⟩, ⟨12, pitch⟩, ⟨9, 0⟩]
  | .tst t g areg off pitch => [⟨4, 3⟩, ⟨4, p⟩, ⟨6, d⟩, ⟨5, t⟩, ⟨4, g⟩, ⟨4, areg⟩, ⟨16, off⟩, ⟨12, pitch⟩, ⟨9, 0⟩]
  | .tmov dst dg src qg => [⟨4, 4⟩, ⟨4, p⟩, ⟨6, d⟩, ⟨5, dst⟩, ⟨4, dg⟩, ⟨5, src⟩, ⟨4, qg⟩, ⟨32, 0⟩]
  | .tzero t g => [⟨4, 5⟩, ⟨4, p⟩, ⟨6, d⟩, ⟨5, t⟩, ⟨4, g⟩, ⟨41, 0⟩]
  | .txp dst dg src qg => [⟨4, 6⟩, ⟨4, p⟩, ⟨6, d⟩, ⟨5, dst⟩, ⟨4, dg⟩, ⟨5, src⟩, ⟨4, qg⟩, ⟨32, 0⟩]

theorem encM_eq_packed (m : MOp) (p : BitVec 4) (d : BitVec 6) : encM m p d = packed (fieldsM m p d) := by
  cases m with
  | mmul zero => cases zero <;> simp [encM, encHead96, fieldsM, packed, widthOf, b2n_eq_toNat_ofBool] <;> omega
  | _ => simp [encM, encHead96, fieldsM, packed, widthOf, b2n_eq_toNat_ofBool] <;> omega

theorem encV_eq_packed (o : VOpc) (v : VArgs) (p : BitVec 4) (d : BitVec 6) : encV o v p d = packed (fieldsV o v p d) := by
  have hop : encVop o % 16 = encVop o := by cases o <;> rfl
  simp [encV, encHead96, fieldsV, packed, widthOf, hop]
  omega

theorem encT_eq_packed (t : TOp) (p : BitVec 4) (d : BitVec 6) : encT t p d = packed (fieldsT t p d) := by
  cases t <;> simp [encT, fieldsT, packed, widthOf] <;> omega

/-! ### What the decoders read -/

theorem decM_packed (m : MOp) (p : BitVec 4) (d : BitVec 6) (h : m ≠ .nop) : decM (packed (fieldsM m p d)) = some m := by
  cases m with
  | nop => exact absurd rfl h
  | mmul zero =>
    cases zero <;>
      simp (disch := simp [widthOf]) [decM, fieldsM, bitsOf_packed_first, fld_packed_first, fld_packed_rest, bitOf_packed_first, bitOf_packed_rest]
  | _ => simp (disch := simp [widthOf]) [decM, fieldsM, bitsOf_packed_first, fld_packed_first, fld_packed_rest, bitOf_packed_first, bitOf_packed_rest]

theorem hdr96_packedM (m : MOp) (p : BitVec 4) (d : BitVec 6) (h : m ≠ .nop) : hdr96 (packed (fieldsM m p d)) = ⟨p, d⟩ := by
  cases m with
  | nop => exact absurd rfl h
  | _ => simp (disch := simp [widthOf]) [hdr96, fieldsM, fld_packed_first, fld_packed_rest]

/-- The opcode of an M operation (R27). -/
def opcodeM (m : MOp) : Nat :=
  match m with
  | .nop => 0 | .mld .. => 1 | .mswap => 2 | .mmul zero .. => if zero then 4 else 3 | .mdrain .. => 5 | .mtopk .. => 6

theorem opcode_packedM (m : MOp) (p : BitVec 4) (d : BitVec 6) (h : m ≠ .nop) : bitsOf (packed (fieldsM m p d)) 95 92 = opcodeM m := by
  cases m with
  | nop => exact absurd rfl h
  | mmul zero => cases zero <;> simp (disch := simp [widthOf]) [opcodeM, fieldsM, bitsOf_packed_first]
  | _ => simp (disch := simp [widthOf]) [opcodeM, fieldsM, bitsOf_packed_first]

theorem lowBits_packedM (m : MOp) (p : BitVec 4) (d : BitVec 6) (h : m ≠ .nop) : lowBits (packed (fieldsM m p d)) (keepM (opcodeM m)) = false := by
  cases m with
  | nop => exact absurd rfl h
  | mmul zero => cases zero <;> simp (disch := simp [widthOf]) [opcodeM, keepM, fieldsM, lowBits_packed_rest, lowBits_packed_zero]
  | _ => simp (disch := simp [widthOf]) [opcodeM, keepM, fieldsM, lowBits_packed_rest, lowBits_packed_zero]

theorem decVop_packed (o : VOpc) (v : VArgs) (p : BitVec 4) (d : BitVec 6) : decVop (packed (fieldsV o v p d)) = some o := by
  cases o <;> simp (disch := simp [widthOf]) [decVop, fieldsV, encVop, bitsOf_packed_first]

theorem decVargs_packed (o : VOpc) (v : VArgs) (p : BitVec 4) (d : BitVec 6) : decVargs (packed (fieldsV o v p d)) = v := by
  simp (disch := simp [widthOf]) [decVargs, fieldsV, fld_packed_first, fld_packed_rest, fld_packed_last]

theorem hdr96_packedV (o : VOpc) (v : VArgs) (p : BitVec 4) (d : BitVec 6) : hdr96 (packed (fieldsV o v p d)) = ⟨p, d⟩ := by
  simp (disch := simp [widthOf]) [hdr96, fieldsV, fld_packed_first, fld_packed_rest]

theorem decT_packed (t : TOp) (p : BitVec 4) (d : BitVec 6) (h : t ≠ .nop) : decT (packed (fieldsT t p d)) = some t := by
  cases t with
  | nop => exact absurd rfl h
  | _ => simp (disch := simp [widthOf]) [decT, fieldsT, bitsOf_packed_first, fld_packed_first, fld_packed_rest]

theorem hdr64_packedT (t : TOp) (p : BitVec 4) (d : BitVec 6) (h : t ≠ .nop) : hdr64 (packed (fieldsT t p d)) = ⟨p, d⟩ := by
  cases t with
  | nop => exact absurd rfl h
  | _ => simp (disch := simp [widthOf]) [hdr64, fieldsT, fld_packed_first, fld_packed_rest]

/-- The opcode of a T operation (R30). -/
def opcodeT (t : TOp) : Nat :=
  match t with
  | .nop => 0 | .tcfg .. => 1 | .tld .. => 2 | .tst .. => 3 | .tmov .. => 4 | .tzero .. => 5 | .txp .. => 6

theorem opcode_packedT (t : TOp) (p : BitVec 4) (d : BitVec 6) (h : t ≠ .nop) : bitsOf (packed (fieldsT t p d)) 63 60 = opcodeT t := by
  cases t with
  | nop => exact absurd rfl h
  | _ => simp (disch := simp [widthOf]) [opcodeT, fieldsT, bitsOf_packed_first]

theorem lowBits_packedT (t : TOp) (p : BitVec 4) (d : BitVec 6) (h : t ≠ .nop) : lowBits (packed (fieldsT t p d)) (keepT (opcodeT t)) = false := by
  cases t with
  | nop => exact absurd rfl h
  | _ => simp (disch := simp [widthOf]) [opcodeT, keepT, fieldsT, lowBits_packed_rest, lowBits_packed_zero]

theorem packedM_lt (m : MOp) (p : BitVec 4) (d : BitVec 6) : packed (fieldsM m p d) < 2 ^ 96 := by
  have h := packed_lt (fieldsM m p d)
  cases m <;> simpa [fieldsM, widthOf] using h

theorem packedV_lt (o : VOpc) (v : VArgs) (p : BitVec 4) (d : BitVec 6) : packed (fieldsV o v p d) < 2 ^ 96 := by
  simpa [fieldsV, widthOf] using packed_lt (fieldsV o v p d)

theorem packedT_lt (t : TOp) (p : BitVec 4) (d : BitVec 6) : packed (fieldsT t p d) < 2 ^ 64 := by
  have h := packed_lt (fieldsT t p d)
  cases t <;> simpa [fieldsT, widthOf] using h

/-- Settles O57: each slot word is its fields packed, and every decoder reads a packed field back at its place. -/
theorem slotWordRoundTrip : Obligations.SlotWordRoundTrip := by
  refine ⟨fun m p d h => ?_, fun o v p d => ?_, fun t p d h => ?_⟩
  · rw [encM_eq_packed]
    exact ⟨decM_packed m p d h, hdr96_packedM m p d h, by rw [opcode_packedM m p d h, lowBits_packedM m p d h], packedM_lt m p d⟩
  · rw [encV_eq_packed]
    exact ⟨decVop_packed o v p d, decVargs_packed o v p d, hdr96_packedV o v p d, packedV_lt o v p d⟩
  · rw [encT_eq_packed]
    exact ⟨decT_packed t p d h, hdr64_packedT t p d h, by rw [opcode_packedT t p d h, lowBits_packedT t p d h], packedT_lt t p d⟩

/-- Settles O56: the bytes of the spec's bundle and the spec's slot words, decoded. -/
theorem slotWordsOfSpec : Obligations.SlotWordsOfSpec := by
  unfold Obligations.SlotWordsOfSpec
  decide +kernel

end Sys2Proof.Machine
end

section
/-! PROOFS. O1, O2, O3: a slot command issues, becomes a NOP, or faults. The issue of a bundle without X and S slots is two changes of its core around a
break of the quiet time (`issueAll_units`); the statements about T, V and C slots and about whole bundles rest on that. -/

namespace Sys2Proof.Machine

/-! ### A slot command is its slots run alone -/

/-- Every slot command runs its slots on its core (log entry 7). -/
theorem exec_of_slotsOf {i : Instr} {core : Nat} {sl : Slots} (h : slotsOf i = some (core, sl)) (s : State) :
    exec i s = onCore s core (soloSlot s core sl) := by
  unfold slotsOf at h
  split at h <;> cases h <;> rfl

/-- Settles O1: nothing stands against the issue, so every check of the slot's own bundle passes (`soloSlot_issues`). -/
theorem slotCommandIssues : Obligations.SlotCommandIssues := by
  intro s i core sl h hi
  rw [exec_of_slotsOf h, onCore_enabled _ _ _ hi.enabled, soloSlot_issues _ _ _ hi]

/-! ### Operand and uniform faults -/

theorem soloSlot_operandBad {s : State} {core : Nat} {sl : Slots} (hr : coreRuns s (getCore s core) = true) (hb : operandBad sl = true) :
    soloSlot s core sl = coreFault s core (getCore s core).nextIdx 0x1004 := by
  simp only [soloSlot, hr, hb, Bool.not_true, Bool.false_eq_true, if_false, if_true, cBundleOperand]

theorem soloSlot_uniformBad {s : State} {core : Nat} {sl : Slots} (hr : coreRuns s (getCore s core) = true) (hb : operandBad sl = false)
    (hu : uniformBad sl = true) : soloSlot s core sl = coreFault s core (getCore s core).nextIdx 0x1006 := by
  simp only [soloSlot, hr, hb, hu, Bool.not_true, Bool.false_eq_true, if_false, if_true, cBundleUniform]

/-- A mark of kind 1 is no mark of the sequencer: it is its slot alone. -/
theorem exec_cmark_one (s : State) (core : Nat) (p : BitVec 4) (v : BitVec 32) :
    exec (.cmark core p 1 v) s = onCore s core (soloSlot s core { c := .cmark 1 v, cp := p }) := rfl

/-- Settles O3: both faults are found on the slot's own bits, before its predicate is looked at. -/
theorem slotOperandFaults : Obligations.SlotOperandFaults := by
  refine ⟨fun s i core sl h hok hr hb => ?_, fun s core p v hok hr hp => ?_⟩
  · rw [exec_of_slotsOf h, onCore_enabled _ _ _ hok, soloSlot_operandBad hr hb]
  · rw [exec_cmark_one, onCore_enabled _ _ _ hok, soloSlot_uniformBad hr rfl (by simpa [uniformBad, cUniform] using hp)]

/-! ### The issue of M, V, T and C slots -/

@[simp] theorem detBreak_ce (s : State) : (detBreak s).ce = s.ce := by unfold detBreak; split <;> rfl
@[simp] theorem detBreak_fab (s : State) : (detBreak s).fab = s.fab := by unfold detBreak; split <;> rfl
@[simp] theorem detBreak_job (s : State) : (detBreak s).job = s.job := by unfold detBreak; split <;> rfl

/-- The core with the operations of its M, V and T slots launched (R40). -/
def launchSlots (c : Core) (e : Slots) (idx : Nat) : Core :=
  issueT (issueV (issueM (issuing c) e.m e.mh idx) e.vop e.v e.vh idx) e.t e.th idx

theorem issueM_st (c : Core) (m : MOp) (h : Hdr) (idx : Nat) : (issueM c m h idx).st = c.st := by cases m <;> rfl

theorem issueV_st (c : Core) (op : VOpc) (v : VArgs) (h : Hdr) (idx : Nat) : (issueV c op v h idx).st = c.st := by
  cases op with
  | vsr => simp only [issueV]; split <;> rfl
  | _ => rfl

theorem issueT_st (c : Core) (t : TOp) (h : Hdr) (idx : Nat) : (issueT c t h idx).st = c.st := by cases t <;> rfl

theorem launchSlots_st (c : Core) (e : Slots) (idx : Nat) : (launchSlots c e idx).st = .issuing := by
  rw [launchSlots, issueT_st, issueV_st, issueM_st, issuing_st]

theorem advance_st (x : SeqCtx) (n p i : Nat) (y : COp) (c : Core) : (advance x n p i y c).st = c.st := by
  cases y with
  | cloop => simp only [advance]; split <;> rfl
  | _ => rfl

theorem effC_st (s : State) (core : Nat) (y : COp) (c : Core) : (effC s core y c).st = c.st := by
  cases y with
  | csetPred => simp only [effC]; split <;> rfl
  | cmark => simp only [effC]; split_ifs <;> rfl
  | _ => rfl

/-- A bundle that completes nothing as it issues: no X and S operation, no VSR KEY, no TCFG (R91, R209). -/
structure UnitsOnly (e : Slots) : Prop where
  x_nop : e.x = .nop
  s_nop : e.s = .nop
  no_key : ¬(e.vop = .vsr ∧ e.v.fn = 0)
  no_cfg : ∀ t g r n f, e.t ≠ .tcfg t g r n f

/-- VSR KEY and TCFG apart, nothing counts at the issue itself. -/
theorem instantDone_units {e : Slots} (h : UnitsOnly e) (s : State) (core : Nat) : instantDone (keyCount s core e) core e = s := by
  have ht := h.no_cfg
  unfold instantDone keyCount
  simp only [h.no_key, if_false]

/-- The core after the issue: its operations launched, its place moved, its C slot done. -/
def afterIssue (s : State) (core : Nat) (b : Bundle) (p1 i1 : Nat) (e : Slots) : Core :=
  effC s core e.c (advance b.ctx s.seq.nextPos p1 i1 e.c (launchSlots (getCore s core) e b.idx))

theorem afterIssue_st (s : State) (core : Nat) (b : Bundle) (p1 i1 : Nat) (e : Slots) : (afterIssue s core b p1 i1 e).st = .issuing := by
  rw [afterIssue, effC_st, advance_st, launchSlots_st]

/-- The issue of a bundle without X and S slots (R40). -/
theorem issueAll_units {e : Slots} (h : UnitsOnly e) (s : State) (core : Nat) (b : Bundle) (p1 i1 : Nat) :
    issueAll s core b p1 i1 e =
      trimLog (modCore (detBreak (modCore s core fun c => launchSlots c e b.idx)) core fun c =>
        effC s core e.c (advance b.ctx s.seq.nextPos p1 i1 e.c c)) := by
  unfold issueAll
  simp only [h.x_nop, h.s_nop, issueX, instantDone_units h, lateS, xFinish, detBreak_seq, modCore_seq]
  rfl

/-- What such an issue makes of its core. -/
theorem getCore_issueAll_units {e : Slots} (h : UnitsOnly e) (s : State) (core : Nat) (b : Bundle) (p1 i1 : Nat) :
    getCore (issueAll s core b p1 i1 e) core = afterIssue s core b p1 i1 e := by
  have hlaunch : getCore (detBreak (modCore s core fun c => launchSlots c e b.idx)) core = launchSlots (getCore s core) e b.idx := by
    rw [getCore_detBreak, getCore_modCore _ _ _ (ne_init_of_st _ (by rw [launchSlots_st]; decide))]
  have hst : (afterIssue s core b p1 i1 e).st ≠ .idle := by rw [afterIssue_st]; decide
  rw [issueAll_units h, getCore_trimLog, getCore_modCore _ _ _ (ne_init_of_st _ (by rw [hlaunch]; exact hst)), hlaunch]
  rfl

/-- What such an issue leaves alone. -/
theorem issueAll_units_frame {e : Slots} (h : UnitsOnly e) (s : State) (core : Nat) (b : Bundle) (p1 i1 : Nat) :
    (issueAll s core b p1 i1 e).mem = s.mem ∧ (issueAll s core b p1 i1 e).fab = s.fab ∧ (issueAll s core b p1 i1 e).ce = s.ce
    ∧ (issueAll s core b p1 i1 e).regs = s.regs := by
  rw [issueAll_units h]
  simp [trimLog]

/-- With nothing in flight the units are at rest. -/
theorem settleUnit_rest {s : State} {core : Nat} (h : (getCore s core).flight = []) (n : Nat) : settleUnit core n s = s := by
  cases n with
  | zero => rfl
  | succ n => simp [settleUnit, h, oldestChain]

/-! ### A false predicate -/

/-- Slots without an operation keep the core but for its place. -/
theorem afterIssue_nop (s : State) (core : Nat) (b : Bundle) (p1 i1 : Nat) (e : Slots) (hm : e.m = .nop) (hv : e.vop = .vnop)
    (ht : e.t = .nop) (hc : e.c = .nop) :
    plain (afterIssue s core b p1 i1 e) = plain (getCore s core) ∧ (afterIssue s core b p1 i1 e).s = (getCore s core).s
    ∧ (afterIssue s core b p1 i1 e).flight = (getCore s core).flight := by
  simp only [afterIssue, launchSlots, hm, hv, ht, hc]
  exact ⟨rfl, rfl, rfl⟩

/-- Settles O2: the bundle that issues has six NOPs. -/
theorem falsePredicateIsNop : Obligations.FalsePredicateIsNop := by
  intro s i core sl h hi hfl he
  have hu : UnitsOnly (effSlots (getCore s core).p sl) := by
    rw [he]
    exact ⟨rfl, rfl, by simp, by simp⟩
  have hcore : getCore (issuedBy s core sl) core = _ := getCore_issueAll_units hu s core _ _ _
  obtain ⟨hplain, hs, hflight⟩ := afterIssue_nop s core (soloBundle (getCore s core) s.seq.ctx) (getCore s core).nextPos
    (getCore s core).nextIdx (effSlots (getCore s core).p sl) (by rw [he]) (by rw [he]) (by rw [he]) (by rw [he])
  rw [← hcore] at hplain hs hflight
  rw [hfl] at hflight
  have hexec : exec i s = .next (issuedBy s core sl) := by rw [slotCommandIssues s i core sl h hi, settleUnit_rest hflight]
  obtain ⟨hmem, hfab, hce, hregs⟩ := issueAll_units_frame hu s core (soloBundle (getCore s core) s.seq.ctx) (getCore s core).nextPos
    (getCore s core).nextIdx
  exact ⟨_, hexec, hplain, hs, hflight, hmem, hfab, hce, hregs⟩

end Sys2Proof.Machine
end


section
/-! PROOFS. O4, O5, O6: the results of the T and V slots. A slot that launches one operation ends with the core that the operation's completion makes
(`endsAs_of_completes`); what an operation reads of the core is the same before the issue and at its completion, as `plain` keeps it. -/

namespace Sys2Proof.Machine

/-! ### One operation, from issue to completion -/

/-- A change of a core that leaves its run alone: its sync counters, its operations in flight, its state. -/
def RunSame (c d : Core) : Prop := d.s = c.s ∧ d.flight = c.flight ∧ d.st = c.st

/-- A slot command that runs one operation alone ends with the core that its completion makes. -/
theorem endsAs_of_completes {s s2 : State} {core : Nat} {sl : Slots} {h : Hdr} {o : FOp} {d target : Core} (hr : RunsAlone s core sl h)
    (hL : Launched s core (issuedBy s core sl) o) (hdone : o.done = h.done) (hcan : canComplete (getCore (issuedBy s core sl) core) o = true)
    (hco : completeOp (issuedBy s core sl) core o = finishOp s2 core o) (hdet : DetFree s2) (hd : getCore s2 core = d)
    (hrun : RunSame (getCore (issuedBy s core sl) core) d) (hp : plain d = plain target) :
    ∃ t, onCore s core (soloSlot s core sl) = .next t ∧ EndsAs s t core h target := by
  obtain ⟨hs, hf, hst⟩ := hrun
  rw [← hd] at hs hf hst hp
  obtain ⟨hexec, hplain, hcount, hrest⟩ := solo_result hr.issues hL hcan hco hdet hs hf (hst.trans hL.st_eq) (by rw [hdone]; exact hr.done)
  exact ⟨_, hexec, hplain.trans hp, by rw [hcount, hdone], hrest⟩

/-- The same where the completion puts the core `d` into a state that differs from the issued one in latches and counters only. -/
theorem endsAs_of_setCore {s s1 : State} {core : Nat} {sl : Slots} {h : Hdr} {o : FOp} {d target : Core} (hr : RunsAlone s core sl h)
    (hL : Launched s core (issuedBy s core sl) o) (hdone : o.done = h.done) (hcan : canComplete (getCore (issuedBy s core sl) core) o = true)
    (hsame : CoreSame (issuedBy s core sl) s1 core) (hco : completeOp (issuedBy s core sl) core o = finishOp (setCore s1 core d) core o)
    (hrun : RunSame (getCore s1 core) d) (hp : plain d = plain target) :
    ∃ t, onCore s core (soloSlot s core sl) = .next t ∧ EndsAs s t core h target := by
  obtain ⟨-, hcount, hflight, hst, hdet⟩ := hsame
  obtain ⟨hs, hf, ht⟩ := hrun
  have hd : getCore (setCore s1 core d) core = d := getCore_setCore _ _ _ (ne_init_of_st _ (by rw [ht, hst, hL.st_eq]; decide))
  exact endsAs_of_completes hr hL hdone hcan hco (hdet hL.det) hd ⟨hs.trans hcount, hf.trans hflight, ht.trans hst⟩ hp

/-- The slots of a T operation whose predicate is true all execute. -/
theorem effSlots_t {c : Core} {op : TOp} {h : Hdr} (hp : predTrue c.p h.pred = true) :
    effSlots c.p { t := op, th := h } = { t := op, th := h } := by
  simp [effSlots, hp]

/-- A T operation that is no TCFG is launched by its slot command. -/
theorem launched_t {s : State} {core : Nat} {op : TOp} {h : Hdr} {a1 : Word64} (hr : RunsAlone s core { t := op, th := h } h)
    (hcfg : ∀ t g r n f, op ≠ .tcfg t g r n f)
    (hl : issueT (issuing (getCore s core)) op h (getCore s core).nextIdx
      = launch (issuing (getCore s core)) (.t op) h (getCore s core).nextIdx a1 0) :
    Launched s core (issuedBy s core { t := op, th := h }) (opOf s core (.t op) h a1 0) :=
  launched_of s core _ (.t op) h a1 0 hr.issues (effSlots_t hr.pred) rfl rfl rfl (by simp) hcfg hr.alone hl

/-- An operation's completion meets no error where no memory word has gone bad unseen. -/
theorem meet_launched {s s1 : State} {core : Nat} {sl : Slots} {o : FOp} (hi : SlotIssues s core sl) (hL : Launched s core s1 o) :
    meet s1 core (opMeets o) = s1 :=
  meet_nil _ _ _ (by rw [hL.mem_eq]; exact hi.sound)

/-- The shape an operation captured of a register that it names is the register's shape at its issue (R90). -/
theorem capShape_opOf {s : State} {core : Nat} {b : OpBody} {h : Hdr} {a1 a2 : Word64} {t : Nat} (ht : t ∈ (bodyUses b).map (fun u => u.tile)) :
    capShape (opOf s core b h a1 a2) t = shapeOf (getCore s core) t := by
  have hfind : ∀ us : List TUse, t ∈ us.map (fun u => u.tile) →
      (us.map (fun u => (u.tile, shapeOf (getCore s core) u.tile))).find? (fun p => p.1 == t) = some (t, shapeOf (getCore s core) t) := by
    intro us
    induction us with
    | nil => simp
    | cons u us ih =>
      intro hu
      by_cases hut : u.tile = t
      · simp [hut]
      · have hrest : t ∈ us.map (fun u => u.tile) := by simpa [Ne.symm hut] using hu
        simp only [List.map_cons, List.find?_cons, beq_eq_false_iff_ne.mpr hut, ih hrest]
  have hcap : (opOf s core b h a1 a2).shapes = (bodyUses b).map (fun u => (u.tile, shapeOf (getCore s core) u.tile)) := rfl
  rw [capShape, hcap, hfind _ ht]
  rfl

/-! ### What `plain` keeps of the units' functions -/

theorem plain_comb {c d : Core} (h : plain c = plain d) : c.comb = d.comb := congrArg (fun x => x.comb) h
theorem plain_buf {c d : Core} (h : plain c = plain d) : c.buf = d.buf := congrArg (fun x => x.buf) h
theorem plain_bufPoison {c d : Core} (h : plain c = plain d) : c.bufPoison = d.bufPoison := congrArg (fun x => x.bufPoison) h

theorem tileRow_congr {c d : Core} (h : c.comb = d.comb) (t : Nat) (sh : Shape) (r : Nat) : tileRow c t sh r = tileRow d t sh r := by
  rw [tileRow, tileRow, h]

theorem vCodes_congr {c d : Core} (h : c.comb = d.comb) (t : Nat) (sh : Shape) (r : Nat) : vCodes c t sh r = vCodes d t sh r := by
  rw [vCodes, vCodes, tileRow_congr h]

theorem plain_tileWrite {c d : Core} (h : plain c = plain d) (t : Nat) (sh : Shape) (rows : List (List Byte)) :
    plain (tileWrite c t sh rows) = plain (tileWrite d t sh rows) := by
  change plain (tileWrite (plain c) t sh rows) = plain (tileWrite (plain d) t sh rows)
  rw [h]

theorem plain_bufWrite {c d : Core} (h : plain c = plain d) (a : Nat) (bs : List Byte) (bad : Bool) :
    plain (bufWrite c a bs bad) = plain (bufWrite d a bs bad) := by
  change plain (bufWrite (plain c) a bs bad) = plain (bufWrite (plain d) a bs bad)
  rw [h]

/-! ### Comb reads -/

theorem latchReads_core (port : Nat) (rows : List (Nat × Nat)) : ∀ (c : Core) (n : Nat), ∃ l, (latchReads port rows c n).1 = { c with latches := l } := by
  induction rows with
  | nil => exact fun c _ => ⟨c.latches, rfl⟩
  | cons x rows ih =>
    obtain ⟨t, r⟩ := x
    intro c n
    rw [latchReads]
    split
    · exact ih c _
    · obtain ⟨l, hl⟩ := ih { c with latches := smSet none c.latches port (some (t, r)) } n
      exact ⟨l, hl⟩

/-- Comb reads touch latches and counters only (R103, R105). -/
theorem combReads_core {s : State} {core : Nat} (hst : (getCore s core).st ≠ .idle) (port : Nat) (rows : List (Nat × Nat)) :
    CoreSame s (combReads s core port rows) core := by
  obtain ⟨l, hl⟩ := latchReads_core port rows (getCore s core) 0
  have hcore : getCore (combReads s core port rows) core = { getCore s core with latches := l } := by
    simp only [combReads, getCore_bump, hl]
    exact getCore_setCore _ _ _ (ne_init_of_st _ hst)
  refine ⟨by rw [hcore]; rfl, by rw [hcore], by rw [hcore], by rw [hcore], fun hd => ?_⟩
  simpa [combReads, DetFree] using hd

/-! ### The T unit -/

/-- The core with a register's bytes cleared (R644). -/
def tileCleared (c : Core) (t : Nat) : Core := dropLatches { c with comb := memWrites c.comb (t * tileBytes) (zeros tileBytes) } t

theorem plain_tileCleared {c d : Core} (h : plain c = plain d) (t : Nat) :
    plain (tileCleared c t) = plain { d with comb := memWrites d.comb (t * 8192) (zeros 8192) } := by
  change plain (tileCleared (plain c) t) = plain (tileCleared (plain d) t)
  rw [h]

theorem tzero_result (s : State) (core : Nat) (h : Hdr) (tile : BitVec 5) (tag : BitVec 4)
    (hr : RunsAlone s core { t := .tzero tile tag, th := h } h) :
    ∃ t, exec (.tzero core h tile tag) s = .next t ∧
      EndsAs s t core h { getCore s core with comb := memWrites (getCore s core).comb (tile.toNat * 8192) (zeros 8192) } := by
  have hL := launched_t (a1 := 0) hr (by simp) rfl
  refine endsAs_of_setCore (d := tileCleared (getCore (issuedBy s core { t := .tzero tile tag, th := h }) core) tile.toNat) hr hL rfl rfl
    (.refl _ _) ?_ ⟨rfl, rfl, rfl⟩ (plain_tileCleared hL.plain_eq _)
  simp only [completeOp, meet_launched hr.issues hL]
  rfl

/-- An operation that writes one tile register of a core which differs from the issued one in latches only. -/
theorem endsAs_tileWrite {s s1 : State} {core : Nat} {sl : Slots} {h : Hdr} {o : FOp} {t : Nat} {sh : Shape} {rows : List (List Byte)}
    (hr : RunsAlone s core sl h) (hL : Launched s core (issuedBy s core sl) o) (hdone : o.done = h.done)
    (hcan : canComplete (getCore (issuedBy s core sl) core) o = true) (hsame : CoreSame (issuedBy s core sl) s1 core)
    (hco : completeOp (issuedBy s core sl) core o = finishOp (setCore s1 core (tileWrite (getCore s1 core) t sh rows)) core o) :
    ∃ u, onCore s core (soloSlot s core sl) = .next u ∧ EndsAs s u core h (tileWrite (getCore s core) t sh rows) :=
  endsAs_of_setCore hr hL hdone hcan hsame hco ⟨rfl, rfl, rfl⟩ (plain_tileWrite (hsame.1.trans hL.plain_eq) t sh rows)

/-- The rows that TMOV, TST and TXP read pass through a latch of the comb. -/
theorem tile_reads {s : State} {core : Nat} {sl : Slots} {o : FOp} (hL : Launched s core (issuedBy s core sl) o) (rows : List (Nat × Nat)) :
    CoreSame (issuedBy s core sl) (combReads (issuedBy s core sl) core 4 rows) core :=
  combReads_core (by rw [hL.st_eq]; decide) 4 rows

theorem tmov_result (s : State) (core : Nat) (h : Hdr) (dst : BitVec 5) (dtag : BitVec 4) (src : BitVec 5) (stag : BitVec 4)
    (hr : RunsAlone s core { t := .tmov dst dtag src stag, th := h } h) :
    ∃ t, exec (.tmov core h dst dtag src stag) s = .next t ∧
      EndsAs s t core h (tileWrite (getCore s core) dst.toNat (shapeOf (getCore s core) dst.toNat)
        ((List.range (shapeOf (getCore s core) src.toNat).rows).map
          (fun r => tileRow (getCore s core) src.toNat (shapeOf (getCore s core) src.toNat) r))) := by
  have hL := launched_t (a1 := 0) hr (by simp) rfl
  have hdst : capShape (opOf s core (.t (.tmov dst dtag src stag)) h 0 0) dst.toNat = _ := capShape_opOf (by simp [bodyUses, tUses])
  have hsrc : capShape (opOf s core (.t (.tmov dst dtag src stag)) h 0 0) src.toNat = _ := capShape_opOf (by simp [bodyUses, tUses])
  have hsame := tile_reads hL (allRows src.toNat (shapeOf (getCore s core) src.toNat).rows)
  rw [exec_of_slotsOf rfl]
  refine endsAs_tileWrite hr hL rfl rfl hsame ?_
  simp only [completeOp, meet_launched hr.issues hL]
  change doTmov _ _ _ _ _ = _
  simp only [doTmov, hdst, hsrc, tileRow_congr (plain_comb (hsame.1.trans hL.plain_eq))]

theorem txp_result (s : State) (core : Nat) (h : Hdr) (dst : BitVec 5) (dtag : BitVec 4) (src : BitVec 5) (stag : BitVec 4)
    (hr : RunsAlone s core { t := .txp dst dtag src stag, th := h } h) :
    ∃ t, exec (.txp core h dst dtag src stag) s = .next t ∧
      EndsAs s t core h (tileWrite (getCore s core) dst.toNat (shapeOf (getCore s core) dst.toNat)
        ((List.range (shapeOf (getCore s core) src.toNat).elems).map (fun e =>
          leBytes (elemBytes (shapeOf (getCore s core) dst.toNat).fmt (shapeOf (getCore s core) dst.toNat).elems)
            (packCodes (fmtBits (shapeOf (getCore s core) dst.toNat).fmt)
              ((List.range (shapeOf (getCore s core) src.toNat).rows).map (fun r =>
                (vCodes (getCore s core) src.toNat (shapeOf (getCore s core) src.toNat) r).getD e 0)))))) := by
  have hL := launched_t (a1 := 0) hr (by simp) rfl
  have hdst : capShape (opOf s core (.t (.txp dst dtag src stag)) h 0 0) dst.toNat = _ := capShape_opOf (by simp [bodyUses, tUses])
  have hsrc : capShape (opOf s core (.t (.txp dst dtag src stag)) h 0 0) src.toNat = _ := capShape_opOf (by simp [bodyUses, tUses])
  have hsame := tile_reads hL (allRows src.toNat (shapeOf (getCore s core) src.toNat).rows)
  rw [exec_of_slotsOf rfl]
  refine endsAs_tileWrite hr hL rfl rfl hsame ?_
  simp only [completeOp, meet_launched hr.issues hL]
  change doTxp _ _ _ _ _ = _
  simp only [doTxp, hdst, hsrc, vCodes_congr (plain_comb (hsame.1.trans hL.plain_eq)), List.map_map, Function.comp_def]

/-! ### TLD and TST -/

theorem length_smTake (d : α) : ∀ (n k : Nat) (m : SMap α), (smTake d m k n).length = n := by
  intro n
  induction n with
  | zero => intro k m; cases m <;> rfl
  | succ n ih =>
    intro k m
    cases m with
    | nil => simp [smTake]
    | cons p m =>
      rw [smTake]
      split <;> simp [ih]

theorem length_bufRead (c : Core) (a n : Nat) : (bufRead c a n).length = n := length_smTake _ _ _ _

/-- A row cut out of rows of one length, one behind the other. -/
theorem slice_flatMap_row (f : Nat → List Byte) (n : Nat) (hf : ∀ r, (f r).length = n) (k r : Nat) (hr : r < k) :
    slice ((List.range k).flatMap f) (r * n) n = f r := by
  have hlen : ∀ j, ((List.range j).flatMap f).length = j * n := by
    intro j
    simp [List.length_flatMap, hf]
  obtain ⟨m, rfl⟩ := Nat.exists_eq_add_of_lt hr
  have hsplit : (List.range (r + m + 1)).flatMap f = (List.range r).flatMap f ++ (f r ++ (List.range m).flatMap fun i => f (r + (i + 1))) := by
    rw [Nat.add_assoc, List.range_add, List.range_succ_eq_map]
    simp [List.flatMap_map]
  rw [slice, hsplit, List.drop_left' (hlen r), List.take_left' (hf r), hf r]
  simp [zeros]

theorem slices_flatMap_rows (k n : Nat) (f : Nat → List Byte) (hf : ∀ r, (f r).length = n) :
    (List.range k).map (fun r => slice ((List.range k).flatMap f) (r * n) n) = (List.range k).map f :=
  List.map_congr_left fun r hr => slice_flatMap_row f n hf k r (List.mem_range.mp hr)

/-- Bytes that nothing overwrote since the issue are read as they stand (R249). -/
theorem raceOlds_nil (ctr : Nat) (cur : List Byte) : raceOlds ctr [] cur = cur := rfl

theorem bufFirstPoison_none {c : Core} (h : ∀ u, smGet false c.bufPoison u = false) (a n : Nat) : bufFirstPoison c a n = none := by
  simp [bufFirstPoison, h]

theorem tld_result (s : State) (core : Nat) (h : Hdr) (tile : BitVec 5) (tag areg : BitVec 4) (off : BitVec 16) (pitch : BitVec 12)
    (hr : RunsAlone s core { t := .tld tile tag areg off pitch, th := h } h) (hclean : ∀ u, smGet false (getCore s core).bufPoison u = false) :
    ∃ t, exec (.tld core h tile tag areg off pitch) s = .next t ∧
      EndsAs s t core h (tileWrite (getCore s core) tile.toNat (shapeOf (getCore s core) tile.toNat)
        ((List.range (shapeOf (getCore s core) tile.toNat).rows).map (fun r =>
          bufRead (getCore s core) ((resolve (getCore s core) areg off).toNat + r * tPitch (shapeOf (getCore s core) tile.toNat) pitch.toNat)
            (rowPayload (shapeOf (getCore s core) tile.toNat).fmt (shapeOf (getCore s core) tile.toNat).elems)))) := by
  have hL := launched_t (a1 := resolve (getCore s core) areg off) hr (by simp) rfl
  have hshape : capShape (opOf s core (.t (.tld tile tag areg off pitch)) h (resolve (getCore s core) areg off) 0) tile.toNat = _ :=
    capShape_opOf (by simp [bodyUses, tUses])
  have hbuf : ∀ a n, bufRead (getCore (issuedBy s core { t := .tld tile tag areg off pitch, th := h }) core) a n = bufRead (getCore s core) a n :=
    fun a n => by rw [bufRead, bufRead, plain_buf hL.plain_eq]
  have hclean' : ∀ u, smGet false (getCore (issuedBy s core { t := .tld tile tag areg off pitch, th := h }) core).bufPoison u = false := by
    rw [plain_bufPoison hL.plain_eq]
    exact hclean
  rw [exec_of_slotsOf rfl]
  refine endsAs_tileWrite (s1 := (draw (issuedBy s core { t := .tld tile tag areg off pitch, th := h })).2) hr hL rfl rfl
    ⟨rfl, rfl, rfl, rfl, id⟩ ?_
  simp only [completeOp, meet_launched hr.issues hL]
  change doTld _ _ _ _ _ = _
  have holds : (opOf s core (.t (.tld tile tag areg off pitch)) h (resolve (getCore s core) areg off) 0).olds = [] := rfl
  have hfind : ∀ k (f : Nat → Nat) n, (List.range k).findSome? (fun r =>
      bufFirstPoison (getCore (issuedBy s core { t := .tld tile tag areg off pitch, th := h }) core) (f r) n) = none := fun k f n =>
    List.findSome?_eq_none_iff.mpr fun r _ => bufFirstPoison_none hclean' (f r) n
  simp only [doTld, hshape, hfind, holds, raceOlds_nil, slices_flatMap_rows _ _ _ fun _ => length_bufRead _ _ _, hbuf]
  rfl

/-! ### Writes of the buffer -/

/-- TST reads no buffer byte, so its own writes leave it as it is. -/
theorem keepOlds_of_no_reads {o : FOp} (h : opReads o = []) (c : Core) (a n : Nat) : keepOlds c a n o = o := by
  simp [keepOlds, h]

theorem bufWrites_run {o : FOp} (ho : opReads o = []) (ps : List (Nat × List Byte × Bool)) : ∀ c : Core, c.flight = [o] →
    RunSame c (ps.foldl (fun c p => bufWrite c p.1 p.2.1 p.2.2) c) := by
  induction ps with
  | nil => exact fun c _ => ⟨rfl, rfl, rfl⟩
  | cons p ps ih =>
    intro c hc
    have hw : (bufWrite c p.1 p.2.1 p.2.2).flight = [o] := by simp [bufWrite, hc, keepOlds_of_no_reads ho]
    obtain ⟨hs, hf, hst⟩ := ih (bufWrite c p.1 p.2.1 p.2.2) hw
    exact ⟨hs, by rw [List.foldl_cons, hf, hw, hc], hst⟩

theorem plain_bufWrites (ps : List (Nat × List Byte × Bool)) : ∀ {c d : Core}, plain c = plain d →
    plain (ps.foldl (fun c p => bufWrite c p.1 p.2.1 p.2.2) c) = plain (ps.foldl (fun c p => bufWrite c p.1 p.2.1 p.2.2) d) := by
  induction ps with
  | nil => exact fun h => h
  | cons p ps ih => exact fun h => ih (plain_bufWrite h _ _ _)

theorem bufPieces_run {o : FOp} (ho : opReads o = []) {c : Core} (hc : c.flight = [o]) (ps : List (Nat × List Byte × Bool)) :
    RunSame c (bufPieces c ps) := bufWrites_run ho ps c hc

/-- The core with some units of its buffer marked valid. -/
def unitsValid (us : List Nat) (c : Core) : Core := { c with bufPoison := us.foldl (fun m u => smSet false m u false) c.bufPoison }

theorem plain_bufPieces {c d : Core} (h : plain c = plain d) (ps : List (Nat × List Byte × Bool)) :
    plain (bufPieces c ps) = plain (bufPieces d ps) := by
  let writes (x : Core) : Core := ps.foldl (fun c p => bufWrite c p.1 p.2.1 p.2.2) x
  have hw : plain (writes c) = plain (writes d) := plain_bufWrites ps h
  change plain (unitsValid (coveredUnits [] ps) (plain (writes c))) = plain (unitsValid (coveredUnits [] ps) (plain (writes d)))
  rw [hw]

theorem tst_result (s : State) (core : Nat) (h : Hdr) (tile : BitVec 5) (tag areg : BitVec 4) (off : BitVec 16) (pitch : BitVec 12)
    (hr : RunsAlone s core { t := .tst tile tag areg off pitch, th := h } h) :
    ∃ t, exec (.tst core h tile tag areg off pitch) s = .next t ∧
      EndsAs s t core h (bufPieces (getCore s core)
        ((List.range (shapeOf (getCore s core) tile.toNat).rows).map (fun r =>
          ((resolve (getCore s core) areg off).toNat + r * tPitch (shapeOf (getCore s core) tile.toNat) pitch.toNat,
            tileRow (getCore s core) tile.toNat (shapeOf (getCore s core) tile.toNat) r, false)))) := by
  have hL := launched_t (a1 := resolve (getCore s core) areg off) hr (by simp) rfl
  have hshape : capShape (opOf s core (.t (.tst tile tag areg off pitch)) h (resolve (getCore s core) areg off) 0) tile.toNat = _ :=
    capShape_opOf (by simp [bodyUses, tUses])
  have hsame := tile_reads hL (allRows tile.toNat (shapeOf (getCore s core) tile.toNat).rows)
  have hplain := hsame.1.trans hL.plain_eq
  have hwrites : opReads (opOf s core (.t (.tst tile tag areg off pitch)) h (resolve (getCore s core) areg off) 0) = [] := by
    simp [opReads, opTouches, opOf, launchOp, rowTouches]
  rw [exec_of_slotsOf rfl]
  refine endsAs_of_setCore hr hL rfl rfl hsame ?_ (bufPieces_run hwrites (hsame.2.2.1.trans hL.flight_eq) _) (plain_bufPieces hplain _)
  simp only [completeOp, meet_launched hr.issues hL]
  change doTst _ _ _ _ _ = _
  simp only [doTst, hshape, tileRow_congr (plain_comb hplain)]
  rfl

/-- Settles O4: each operation launches alone and its completion makes the core that the statement names. -/
theorem tileUnitResults : Obligations.TileUnitResults :=
  ⟨tzero_result, tmov_result, txp_result, tld_result, tst_result⟩

end Sys2Proof.Machine
end


section
/-! PROOFS. O5, O6: TCFG, which takes effect as it issues, and the operations of the V unit. -/

namespace Sys2Proof.Machine

/-! ### TCFG -/

/-- The issue of TCFG: the shape is set, the done field counts, the core moves on (R82, R91). -/
theorem issuedBy_tcfg {s : State} {core : Nat} {h : Hdr} {tile : BitVec 5} {tag : BitVec 4} {rows1 : BitVec 6} {elems1 : BitVec 10} {fmt : BitVec 4}
    (hr : RunsAlone s core { t := .tcfg tile tag rows1 elems1 fmt, th := h } h) :
    EndsAs s (issuedBy s core { t := .tcfg tile tag rows1 elems1 fmt, th := h }) core h { getCore s core with
      shapes := smSet Shape.none (getCore s core).shapes tile.toNat ⟨tag.toNat, fmt.toNat, rows1.toNat + 1, elems1.toNat + 1⟩ } := by
  let e : Slots := { t := .tcfg tile tag rows1 elems1 fmt, th := h }
  let s3 := detBreak (modCore s core fun c => launchSlots c e (getCore s core).nextIdx)
  have h3 : getCore s3 core = launchSlots (getCore s core) e (getCore s core).nextIdx := by
    rw [getCore_detBreak, getCore_modCore _ _ _ (ne_init_of_st _ (by rw [launchSlots_st]; decide))]
  have hst3 : (getCore s3 core).st = .issuing := by rw [h3, launchSlots_st]
  have hdet : DetFree s := detFree_of_issues hr.issues
  have hdet3 : DetFree s3 := detFree_detBreak (s := modCore s core fun c => launchSlots c e (getCore s core).nextIdx) hdet
  have h4 := doneAdvance_core s3 core h.done hdet3 (by rw [hst3]; decide)
    (by rw [h3]; exact hr.done)
  have hissued : issuedBy s core e = trimLog (modCore (doneAdvance s3 core h.done) core fun c =>
      effC s core .nop (advance s.seq.ctx (doneAdvance s3 core h.done).seq.nextPos (getCore s core).nextPos (getCore s core).nextIdx .nop c)) := by
    unfold issuedBy
    rw [effSlots_t hr.pred]
    rfl
  have h5 := getCore_modCore (doneAdvance s3 core h.done) core (fun c =>
      effC s core .nop (advance s.seq.ctx (doneAdvance s3 core h.done).seq.nextPos (getCore s core).nextPos (getCore s core).nextIdx .nop c))
    (ne_init_of_st _ (by rw [effC_st, advance_st, h4]; change (getCore s3 core).st ≠ _; rw [hst3]; decide))
  have hfinal : getCore (issuedBy s core e) core = _ := (congrArg (fun t => getCore t core) hissued).trans ((getCore_trimLog _ _).trans h5)
  rw [h4, h3] at hfinal
  constructor <;> rw [hfinal]
  · rfl
  · rfl
  · exact hr.alone

/-- Settles O5: TCFG is complete as it issues, so nothing is left to settle. -/
theorem tileConfigResult : Obligations.TileConfigResult := by
  intro s core h tile tag rows1 elems1 fmt hr
  have hends := issuedBy_tcfg hr
  exact ⟨_, (slotCommandIssues s _ core _ rfl hr.issues).trans (by rw [settleUnit_rest hends.rest]), hends⟩

/-! ### The V unit -/

/-- The V operations that go into flight and complete in `doV`'s own way: all but VSR KEY and VADAM. -/
structure RowsOp (op : VOpc) (v : VArgs) : Prop where
  not_nop : op ≠ .vnop
  not_adam : op ≠ .vadam
  not_key : ¬(op = .vsr ∧ v.fn = 0)

theorem issueV_rowsOp {op : VOpc} {v : VArgs} (h : RowsOp op v) (c : Core) (hd : Hdr) (idx : Nat) :
    issueV c op v hd idx = launch c (.v op v) hd idx 0 0 := by
  cases op with
  | vnop => exact absurd rfl h.not_nop
  | vadam => exact absurd rfl h.not_adam
  | vsr => exact (if_neg h.not_key : (if VOpc.vsr = .vsr ∧ v.fn = 0 then setKey c v.imm else launch c (.v .vsr v) hd idx 0 0) = _)
  | _ => rfl

theorem launched_v {s : State} {core : Nat} {op : VOpc} {v : VArgs} {h : Hdr} (hop : RowsOp op v)
    (hr : RunsAlone s core { vop := op, v := v, vh := h } h) :
    Launched s core (issuedBy s core { vop := op, v := v, vh := h }) (opOf s core (.v op v) h 0 0) :=
  launched_of s core _ (.v op v) h 0 0 hr.issues (by simp [effSlots, hr.pred]) rfl rfl rfl hop.not_key (by simp) hr.alone
    (issueV_rowsOp hop _ h _)

/-- The comb reads of a V operation (R103). -/
theorem vReads_core {s : State} {core : Nat} (hst : (getCore s core).st ≠ .idle) (o : FOp) (op : VOpc) (v : VArgs) :
    CoreSame s (vReads s core o op v) core := by
  have step : ∀ {t : State} (b : Bool) (port : Nat) (rows : List (Nat × Nat)), CoreSame s t core →
      CoreSame s (if b then combReads t core port rows else t) core := by
    intro t b port rows ht
    cases b with
    | false => exact ht
    | true => exact ht.trans (combReads_core (by rw [ht.2.2.2.1]; exact hst) port rows)
  unfold vReads
  split
  · exact .refl s core
  · exact step _ 3 _ (step _ 2 _ (step _ 1 _ (.refl s core)))

/-- The state with the rows of a V operation in place and its counters advanced. -/
def vCommitted (s : State) (core : Nat) (o : FOp) (op : VOpc) (v : VArgs) : State :=
  bump (bump (bump (modCore (vReads s core o op v) core fun c => tileWrite c v.dst.toNat (capShape o v.dst.toNat) (vRows s core o op v).1)
    (aArrQclamp core) (vRows s core o op v).2) (aMintDraws core) (vDraws o op v)) (aVecOps core) 1

theorem doV_rows {s : State} {core : Nat} {o : FOp} {op : VOpc} {v : VArgs} (hadam : op ≠ .vadam) (htab : vrqBad s core o op v = false) :
    doV s core o op v = finishOp (vCommitted s core o op v) core o := by
  simp only [doV, if_neg hadam, htab, Bool.false_eq_true, if_false, vCommitted]

theorem getCore_vCommitted {s : State} {core : Nat} (hst : (getCore s core).st ≠ .idle) (o : FOp) (op : VOpc) (v : VArgs) :
    getCore (vCommitted s core o op v) core
      = tileWrite (getCore (vReads s core o op v) core) v.dst.toNat (capShape o v.dst.toNat) (vRows s core o op v).1 := by
  obtain ⟨-, -, -, hst', -⟩ := vReads_core hst o op v
  simp only [vCommitted, getCore_bump]
  exact getCore_modCore _ _ _ (ne_init_of_st _ (by change (getCore _ core).st ≠ _; rw [hst']; exact hst))

theorem vectorUnit_result {s : State} {core : Nat} {h : Hdr} {op : VOpc} {w : VArgs} (hop : RowsOp op w)
    (hr : RunsAlone s core { vop := op, v := w, vh := h } h)
    (htab : vrqBad (issuedBy s core { vop := op, v := w, vh := h }) core (opOf s core (.v op w) h 0 0) op w = false) :
    ∃ t, onCore s core (soloSlot s core { vop := op, v := w, vh := h }) = .next t ∧
      EndsAs s t core h (tileWrite (getCore s core) w.dst.toNat (capShape (opOf s core (.v op w) h 0 0) w.dst.toNat)
        (vRows (issuedBy s core { vop := op, v := w, vh := h }) core (opOf s core (.v op w) h 0 0) op w).1) := by
  have hL := launched_v hop hr
  have hst : (getCore (issuedBy s core { vop := op, v := w, vh := h }) core).st ≠ .idle := by rw [hL.st_eq]; decide
  obtain ⟨hplain, hcount, hflight, hst', hdet⟩ := vReads_core hst (opOf s core (.v op w) h 0 0) op w
  have hco : completeOp (issuedBy s core { vop := op, v := w, vh := h }) core (opOf s core (.v op w) h 0 0)
      = finishOp (vCommitted (issuedBy s core { vop := op, v := w, vh := h }) core (opOf s core (.v op w) h 0 0) op w) core
        (opOf s core (.v op w) h 0 0) := by
    rw [← doV_rows hop.not_adam htab]
    simp only [completeOp, meet_launched hr.issues hL]
    rfl
  exact endsAs_of_completes hr hL rfl rfl hco (by simpa [DetFree, vCommitted] using hdet hL.det) (getCore_vCommitted hst _ op w)
    ⟨hcount, hflight, hst'⟩ (plain_tileWrite (hplain.trans hL.plain_eq) _ _ _)

/-- Settles O6: each of the seven commands runs a `RowsOp`. -/
theorem vectorUnitResults : Obligations.VectorUnitResults := by
  intro s core h v w op i hi hr htab
  have hop : RowsOp op w ∧ slotsOf i = some (core, { vop := op, v := w, vh := h }) := by
    obtain ⟨rfl, rfl, rfl⟩ | ⟨rfl, rfl, rfl⟩ | ⟨rfl, rfl, rfl⟩ | ⟨rfl, rfl, rfl⟩ | ⟨rfl, rfl, rfl⟩ | ⟨rfl, rfl, rfl⟩ | ⟨rfl, rfl, rfl⟩ := hi
    all_goals exact ⟨⟨by decide, by decide, by simp⟩, rfl⟩
  rw [exec_of_slotsOf hop.2]
  exact vectorUnit_result hop.1 hr htab

end Sys2Proof.Machine
end


section
/-! PROOFS. O12, O13: the C slot on a core. A C operation alone leaves nothing in flight, so its command ends with the issue itself. -/

namespace Sys2Proof.Machine

/-! ### A C operation alone -/

theorem unitsOnly_c (x : COp) (p : BitVec 4) : UnitsOnly { c := x, cp := p } := ⟨rfl, rfl, by simp, by simp⟩

/-- The core after a C operation: its place moved, its registers written. -/
def afterC (s : State) (core : Nat) (x : COp) : Core :=
  effC s core x (advance s.seq.ctx s.seq.nextPos (getCore s core).nextPos (getCore s core).nextIdx x (issuing (getCore s core)))

theorem effC_flight_nil {c : Core} (h : c.flight = []) (s : State) (core : Nat) (x : COp) : (effC s core x c).flight = [] := by
  cases x with
  | csetPred => simp only [effC]; split <;> exact h
  | cmark => simp only [effC]; split_ifs <;> simp [h]
  | _ => exact h

theorem advance_flight (x : SeqCtx) (n p i : Nat) (y : COp) (c : Core) : (advance x n p i y c).flight = c.flight := by
  cases y with
  | cloop => simp only [advance]; split <;> rfl
  | _ => rfl

/-- A C operation whose predicate is true and that issues on a core with nothing in flight. -/
structure CIssues (s : State) (core : Nat) (x : COp) (p : BitVec 4) : Prop where
  issues : SlotIssues s core { c := x, cp := p }
  pred : predTrue (getCore s core).p p = true
  alone : (getCore s core).flight = []

theorem effSlots_c {s : State} {core : Nat} {x : COp} {p : BitVec 4} (h : predTrue (getCore s core).p p = true) :
    effSlots (getCore s core).p { c := x, cp := p } = { c := x, cp := p } := by
  simp [effSlots, h]

theorem issuedBy_c {s : State} {core : Nat} {x : COp} {p : BitVec 4} (h : predTrue (getCore s core).p p = true) :
    issuedBy s core { c := x, cp := p } = issueAll s core (soloBundle (getCore s core) s.seq.ctx) (getCore s core).nextPos
      (getCore s core).nextIdx { c := x, cp := p } := by
  rw [issuedBy, effSlots_c h]

/-- Its command ends with the issue. -/
theorem soloSlot_c {s : State} {core : Nat} {x : COp} {p : BitVec 4} (h : CIssues s core x p) :
    soloSlot s core { c := x, cp := p } = issuedBy s core { c := x, cp := p } ∧ getCore (issuedBy s core { c := x, cp := p }) core = afterC s core x := by
  have hcore : getCore (issuedBy s core { c := x, cp := p }) core = afterC s core x := by
    rw [issuedBy_c h.pred, getCore_issueAll_units (unitsOnly_c x p)]
    rfl
  refine ⟨?_, hcore⟩
  rw [soloSlot_issues _ _ _ h.issues, settleUnit_rest]
  rw [hcore, afterC]
  exact effC_flight_nil (by rw [advance_flight]; exact h.alone) s core x

/-- The command of a C operation, with what the core then holds. -/
theorem onCore_c {s : State} {core : Nat} {x : COp} {p : BitVec 4} (h : CIssues s core x p) :
    ∃ t, onCore s core (soloSlot s core { c := x, cp := p }) = .next t ∧ getCore t core = afterC s core x := by
  obtain ⟨hsolo, hcore⟩ := soloSlot_c h
  exact ⟨_, by rw [onCore_enabled _ _ _ h.issues.enabled, hsolo], hcore⟩

/-! ### CSET (R34, R35) -/

theorem csetVal_low (s : State) (core : Nat) (old : Word64) (imm : BitVec 32) :
    csetVal s core old 0 imm = old.extractLsb' 32 32 ++ imm := by
  apply BitVec.eq_of_toNat_eq
  have hold := old.isLt
  have himm := imm.isLt
  change (BitVec.ofNat 64 (putBits old.toNat 31 0 imm.toNat)).toNat = _
  simp only [putBits, BitVec.toNat_ofNat, BitVec.toNat_append, BitVec.extractLsb'_toNat, Nat.shiftRight_eq_div_pow]
  rw [← Nat.shiftLeft_add_eq_or_of_lt himm, Nat.shiftLeft_eq]
  omega

theorem csetVal_high (s : State) (core : Nat) (old : Word64) (imm : BitVec 32) :
    csetVal s core old 1 imm = imm ++ old.extractLsb' 0 32 := by
  apply BitVec.eq_of_toNat_eq
  have hold := old.isLt
  have himm := imm.isLt
  have hlow : old.toNat % 2 ^ 32 < 2 ^ 32 := Nat.mod_lt _ (by decide)
  change (BitVec.ofNat 64 (putBits old.toNat 63 32 imm.toNat)).toNat = _
  simp only [putBits, BitVec.toNat_ofNat, BitVec.toNat_append, BitVec.extractLsb'_toNat, Nat.shiftRight_zero]
  rw [← Nat.shiftLeft_add_eq_or_of_lt hlow, Nat.shiftLeft_eq]
  omega

theorem csetVal_zeroExtend (s : State) (core : Nat) (old : Word64) (imm : BitVec 32) : csetVal s core old 2 imm = imm.zeroExtend 64 := by
  apply BitVec.eq_of_toNat_eq
  simp [csetVal]

theorem cmpVal_spec (x : Word64) (cmp : BitVec 3) (imm : BitVec 32) :
    (cmp = 0 → (cmpVal x cmp imm = true ↔ x = imm.signExtend 64)) ∧ (cmp = 1 → (cmpVal x cmp imm = true ↔ x ≠ imm.signExtend 64)) ∧
    (cmp = 2 → (cmpVal x cmp imm = true ↔ x.toNat < (imm.signExtend 64).toNat)) ∧
    (cmp = 3 → (cmpVal x cmp imm = true ↔ (imm.signExtend 64).toNat ≤ x.toNat)) ∧
    (cmp = 4 → (cmpVal x cmp imm = true ↔ x.toInt < (imm.signExtend 64).toInt)) ∧
    (cmp = 5 → (cmpVal x cmp imm = true ↔ (imm.signExtend 64).toInt ≤ x.toInt)) ∧
    (cmp = 6 → cmpVal x cmp imm = true) ∧ (cmp = 7 → cmpVal x cmp imm = false) := by
  refine ⟨?_, ?_, ?_, ?_, ?_, ?_, ?_, ?_⟩ <;> rintro rfl <;> simp [cmpVal, sext32, BitVec.ult_eq_decide, BitVec.slt_eq_decide]

/-- Compares 6 and 7 of an areg are operands out of range (R35). -/
theorem csetPred_operandBad {areg : BitVec 4} {cmp : BitVec 3} (hcmp : cmp = 6 ∨ cmp = 7) (hareg : areg ≠ 0) (p : BitVec 4) (pdst : BitVec 3)
    (imm : BitVec 32) : operandBad { c := .csetPred areg cmp pdst imm, cp := p } = true := by
  have hbad : cBad (.csetPred areg cmp pdst imm) = true := by rcases hcmp with rfl | rfl <;> simpa [cBad] using hareg
  simp only [operandBad, hbad, Bool.or_true]

theorem plain_csetPred (s : State) (core : Nat) (areg : BitVec 4) (cmp pdst : BitVec 3) (imm : BitVec 32) :
    plain (afterC s core (.csetPred areg cmp pdst imm)) = plain { getCore s core with
      p := if pdst = 0 then (getCore s core).p
        else smSet false (getCore s core).p pdst.toNat (cmpVal (smGet 0 (getCore s core).a areg.toNat) cmp imm) } := by
  simp only [afterC, effC]
  split <;> rfl

/-- Settles O12: each operation is `effC` on the core that `advance` has moved, and `plain` looks past the move. -/
theorem controlRegisterResults : Obligations.ControlRegisterResults := by
  refine ⟨fun s core p dst src imm hi hp hfl => ?_, fun s core p areg sub pdst imm hi hp hfl => ?_, fun s core p areg cmp pdst imm hi hp hfl => ?_,
    fun s core p areg cmp pdst imm hok hr hcmp hareg => ?_, fun s core p v hi hp hfl => ?_, fun s core v hi hfl => ?_⟩
  · obtain ⟨t, hexec, hcore⟩ := onCore_c ⟨hi, hp, hfl⟩
    exact ⟨t, hexec, by rw [hcore]; rfl, by rw [hcore]; rfl⟩
  · obtain ⟨t, hexec, hcore⟩ := onCore_c ⟨hi, hp, hfl⟩
    refine ⟨t, csetVal s core (smGet 0 (getCore s core).a areg.toNat) sub imm, hexec, by rw [hcore]; rfl, ?_, ?_, ?_, ?_, ?_, ?_, ?_, ?_⟩
    all_goals rintro rfl
    · exact csetVal_low ..
    · exact csetVal_high ..
    · exact csetVal_zeroExtend ..
    all_goals rfl
  · obtain ⟨t, hexec, hcore⟩ := onCore_c ⟨hi, hp, hfl⟩
    exact ⟨t, cmpVal (smGet 0 (getCore s core).a areg.toNat) cmp imm, hexec, by rw [hcore, plain_csetPred], cmpVal_spec _ cmp imm⟩
  · rw [exec_of_slotsOf (sl := { c := .csetPred areg cmp pdst imm, cp := p }) rfl, onCore_enabled _ _ _ hok,
      soloSlot_operandBad hr (csetPred_operandBad hcmp hareg p pdst imm)]
  · obtain ⟨t, hexec, hcore⟩ := onCore_c ⟨hi, hp, hfl⟩
    exact ⟨t, hexec, by rw [hcore]; rfl⟩
  · obtain ⟨t, hexec, hcore⟩ := onCore_c ⟨hi, rfl, hfl⟩
    exact ⟨t, hexec, by rw [hcore]; rfl⟩

/-! ### The micro-batch counter of a state outside the canonical form -/

/-- A running module whose list of registers names the micro-batch counter twice, the first time with all bits set: its next value is 0, which `smSet`
keeps by dropping the entry, and the second entry then answers. -/
def countedTwice : State :=
  { State.reset with seq := { Seq.init with st := .running }, regs := [(aTrnMb, 0xFFFFFFFFFFFFFFFF), (aTrnMb, 5)] }

theorem countedTwice_issues : SlotIssues (seqMark2 countedTwice 0 0) 3 { c := .cmark 2 9 } := by
  constructor <;> decide +kernel

/-- What the counter reads before and after a mark of kind 2. -/
theorem countedTwice_reads : reg countedTwice aTrnMb = 0xFFFFFFFFFFFFFFFF ∧
    ∀ t, exec (.cmark 3 0 2 9) countedTwice = .next t → reg t aTrnMb = 5 := by
  refine ⟨by decide +kernel, fun t ht => ?_⟩
  have hrun : (match exec (.cmark 3 0 2 9) countedTwice with | .next u => reg u aTrnMb | _ => 0) = 5 := by decide +kernel
  rwa [ht] at hrun

/-- Refutes O13, by its clause on marks of kind 2: it counts the micro-batch with no premise that the registers are in their canonical form. -/
theorem not_controlFlowResults : ¬ Obligations.ControlFlowResults := by
  rintro ⟨-, -, -, hmark, -⟩
  obtain ⟨t, hexec, -, -, hreg⟩ := hmark countedTwice 3 9 (by decide) (by decide) rfl countedTwice_issues (by decide)
  obtain ⟨hbefore, hafter⟩ := countedTwice_reads
  rw [show (0x3F0000B00010 : Nat) = aTrnMb from rfl, hafter t hexec, hbefore] at hreg
  exact absurd hreg (by decide)

end Sys2Proof.Machine
end

section
/-! PROOFS. O17: the issue of a whole bundle. -/

namespace Sys2Proof.Machine

/-! ### The bundle at the core's place -/

/-- What BUNDLE_ISSUE finds where nothing stands against the bundle at the core's place (R39): it has arrived, no breakpoint, step or bad memory word
is in the way, and its static form holds. -/
structure BundleReady (s : State) (core : Nat) (b : Bundle) (sl : Slots) : Prop where
  enabled : coreOk s core = true
  runs : coreRuns s (getCore s core) = true
  arrived : s.seq.log.find? (fun b => b.pos = (getCore s core).nextPos) = some b
  no_break : bpHit s core b.idx = none
  no_step : (getCore s core).dbgStep = false
  sound : s.mem.upsets = []
  clean : b.poison = false
  form : staticForm b.bits.toNat = none
  slots : decodeSlots b.bits.toNat = some sl

/-- Such a bundle goes through the steps of R39. -/
theorem exec_bundleIssue {s : State} {core : Nat} {b : Bundle} {sl : Slots} (h : BundleReady s core b sl) :
    exec (.bundleIssue core) s = .next (tryBundle s core b) := by
  obtain ⟨hok, hruns, harrived, hbreak, hstep, hsound, -, -, -⟩ := h
  change onCore s core (bundleIssueCore s core) = _
  rw [onCore_enabled _ _ _ hok]
  simp only [bundleIssueCore, hruns, meet_nil _ _ _ hsound, harrived, hstep, hbreak, endStep, if_true, Bool.not_true, Bool.false_eq_true, if_false,
    Bool.false_and]

/-- It issues when no step stands against its slots. -/
theorem tryBundle_issues {s : State} {core : Nat} {b : Bundle} {sl : Slots} (h : BundleReady s core b sl)
    (h2 : step2 s core (getCore s core) b (b.pos + 1) (b.idx + 1) (effSlots (getCore s core).p sl) = none)
    (h3 : step3Ok (getCore s core) (effSlots (getCore s core).p sl).s = true)
    (h4 : step4Waits s core (getCore s core) (bDrain b.bits.toNat) (effSlots (getCore s core).p sl) = false)
    (h5 : step5Cause s (getCore s core) (effSlots (getCore s core).p sl) = 0)
    (h6 : check6 s (getCore s core) (effSlots (getCore s core).p sl) = none) :
    tryBundle s core b = issueAll s core b (b.pos + 1) (b.idx + 1) (effSlots (getCore s core).p sl) := by
  simp only [tryBundle, h.clean, h.form, h.slots, h2, steps3to6, h3, h4, h5, h6, Bool.false_eq_true, if_false, Bool.not_true, ne_eq,
    not_true_eq_false]

/-! ### What M, V and T slots launch -/

/-- Body and done field of an operation. -/
def opKey (o : FOp) : OpBody × BitVec 6 := (o.body, o.done)

/-- `d` is `c` with the operations `ops` put into flight. -/
def Launches (c d : Core) (ops : List (OpBody × BitVec 6)) : Prop :=
  ∃ f n k, d = { c with flight := f, nextOrd := n, nextChain := k } ∧ f.map opKey = c.flight.map opKey ++ ops

theorem Launches.refl (c : Core) : Launches c c [] := ⟨c.flight, c.nextOrd, c.nextChain, rfl, (List.append_nil _).symm⟩

theorem Launches.trans {c d e : Core} {xs ys : List (OpBody × BitVec 6)} (h : Launches c d xs) (k : Launches d e ys) : Launches c e (xs ++ ys) := by
  obtain ⟨f, n, m, rfl, hf⟩ := h
  obtain ⟨f', n', m', rfl, hf'⟩ := k
  exact ⟨f', n', m', rfl, by rw [hf', hf, List.append_assoc]⟩

theorem launches_launch (c : Core) (b : OpBody) (h : Hdr) (idx : Nat) (a1 a2 : Word64) : Launches c (launch c b h idx a1 a2) [(b, h.done)] :=
  ⟨_, _, _, rfl, by rw [List.map_append]; rfl⟩

theorem launches_issueM (c : Core) (m : MOp) (h : Hdr) (idx : Nat) :
    Launches c (issueM c m h idx) (if m = .nop then [] else [(.m m, h.done)]) := by
  cases m with
  | nop => exact .refl c
  | _ => exact launches_launch ..

theorem launches_issueV (c : Core) {op : VOpc} {v : VArgs} (hkey : ¬(op = .vsr ∧ v.fn = 0)) (h : Hdr) (idx : Nat) :
    Launches c (issueV c op v h idx) (if op = .vnop then [] else [(.v op v, h.done)]) := by
  cases op with
  | vnop => exact .refl c
  | vadam => exact launches_launch ..
  | _ =>
    rw [issueV_rowsOp ⟨by decide, by decide, hkey⟩]
    exact launches_launch ..

theorem launches_issueT (c : Core) {t : TOp} (hcfg : ∀ i g r n f, t ≠ .tcfg i g r n f) (h : Hdr) (idx : Nat) :
    Launches c (issueT c t h idx) (if t = .nop then [] else [(.t t, h.done)]) := by
  cases t with
  | nop => exact .refl c
  | tcfg => exact (hcfg _ _ _ _ _ rfl).elim
  | _ => exact launches_launch ..

/-- The operations of a bundle's M, V and T slots, in slot order. -/
def unitOps (e : Slots) : List (OpBody × BitVec 6) :=
  (if e.m = .nop then [] else [(.m e.m, e.mh.done)]) ++ (if e.vop = .vnop then [] else [(.v e.vop e.v, e.vh.done)])
    ++ (if e.t = .nop then [] else [(.t e.t, e.th.done)])

theorem launches_launchSlots {e : Slots} (h : UnitsOnly e) (c : Core) (idx : Nat) : Launches (issuing c) (launchSlots c e idx) (unitOps e) :=
  ((launches_issueM _ _ _ _).trans (launches_issueV _ h.no_key _ _)).trans (launches_issueT _ h.no_cfg _ _)

/-- What the issue of such a bundle without C slot makes of its core. -/
theorem afterIssue_launches {e : Slots} (h : UnitsOnly e) (hc : e.c = .nop) (s : State) (core : Nat) (b : Bundle) (p1 i1 : Nat) :
    (afterIssue s core b p1 i1 e).flight.map opKey = (getCore s core).flight.map opKey ++ unitOps e
    ∧ ((getCore s core).loops = [] → (afterIssue s core b p1 i1 e).nextPos = p1 ∧ (afterIssue s core b p1 i1 e).nextIdx = i1)
    ∧ plain (afterIssue s core b p1 i1 e) = plain (getCore s core) ∧ (afterIssue s core b p1 i1 e).s = (getCore s core).s := by
  obtain ⟨f, n, k, hlaunch, hflight⟩ := launches_launchSlots h (getCore s core) b.idx
  simp only [afterIssue, hc, hlaunch]
  refine ⟨hflight, fun hl => ?_, rfl, rfl⟩
  simp [effC, advance, cSkip, issuing, hl, loopEnds]

/-- Settles O17: the checks of R39 pass, and the issue launches the slots' operations. -/
theorem bundleIssues : Obligations.BundleIssues := by
  refine ⟨fun s core b sl hok hruns harr hbp hstep hsound hclean hform hsl => ?_, fun s core b sl hok hruns harr hbp hstep hsound hclean hform hsl => ?_⟩
  all_goals have hready : BundleReady s core b sl := ⟨hok, hruns, harr, hbp, hstep, hsound, hclean, hform, hsl⟩
  · intro e h2 h3 h4 h5 h6
    rw [exec_bundleIssue hready, tryBundle_issues hready h2 h3 h4 h5 h6]
  · intro c e h2 h4 h5 h6 hx hs hc hkey hcfg
    have hu : UnitsOnly e := ⟨hx, hs, hkey, hcfg⟩
    have h3 : step3Ok c e.s = true := by rw [hs]; rfl
    have hcore := getCore_issueAll_units hu s core b (b.pos + 1) (b.idx + 1)
    obtain ⟨hmem, -, -, hregs⟩ := issueAll_units_frame hu s core b (b.pos + 1) (b.idx + 1)
    obtain ⟨hflight, hplace, hplain, hcount⟩ := afterIssue_launches hu hc s core b (b.pos + 1) (b.idx + 1)
    rw [← hcore] at hflight hplace hplain hcount
    refine ⟨_, (exec_bundleIssue hready).trans (congrArg _ (tryBundle_issues hready h2 h3 h4 h5 h6)), ?_, ?_, hplace, hplain, hcount, hmem, hregs⟩
    · rw [List.append_assoc, List.append_assoc, ← List.append_assoc (if e.m = _ then _ else _)]
      exact hflight
    · rw [hcore, afterIssue_st]

end Sys2Proof.Machine
end

section
/-! PROOFS. O18: fetch and multicast. -/

namespace Sys2Proof.Machine

/-- Outside every loop and variant the stream goes on at the next index (R50, R59). -/
theorem seqGo_plain (s : State) (v n : Nat) : seqGo s ⟨[], none, v⟩ n = { s with seq := { s.seq with ctx := ⟨[], none, v⟩, fetchIdx := n } } := rfl

/-- A sound bundle without C operation enters the queue, and the stream goes to the next index. -/
theorem seqTake_nop {s : State} {a idx : Nat} (hclean : memPoisoned s a 64 = false)
    (hidx : bIdx12 (bundleOfBytes (memBytes s a 64)).toNat = idx % 4096) (hnop : decC (bC (bundleOfBytes (memBytes s a 64)).toNat) = some .nop) :
    seqTake s a idx
      = seqGo (seqEnqueue s ⟨s.seq.fetchPos, idx, false, bundleOfBytes (memBytes s a 64), s.seq.ctx⟩) s.seq.ctx (idx + 1) := by
  simp [seqTake, hclean, hidx, hnop, actReads, seqAct, seqEnqueue]

/-- BUNDLE_FETCH whose line is at hand takes the bundle (R44). -/
theorem doFetch_takes {s : State} (hf : seqFetches s = true) (hv : s.seq.ctx.variant = none) (hin : s.seq.fetchIdx < regF s aSeqImgLen 31 0)
    (hcheck : memCheck s (imgAddr s s.seq.fetchIdx) 64 false false = none) (hup : spanDown s (imgAddr s s.seq.fetchIdx) 64 = false)
    (hsound : s.mem.upsets = []) (hwant : wtNopf s (imgAddr s s.seq.fetchIdx) = false ∨ fetchDemand s = true) (hmiss : s.seq.miss = true)
    (hline : mcPending s (imgAddr s s.seq.fetchIdx / 64) = false) : doFetch s = seqTake s (imgAddr s s.seq.fetchIdx) s.seq.fetchIdx := by
  have hgo : (wtNopf s (imgAddr s s.seq.fetchIdx) && !fetchDemand s) = false := by
    rcases hwant with h | h
    · rw [h]; rfl
    · rw [h, Bool.not_true, Bool.and_false]
  simp [doFetch, hf, meetSpans_nil _ _ hsound, hv, Nat.not_le.2 hin, hcheck, hup, hgo, hmiss, hline]

/-- Multicast of the oldest fetched bundle while no core skips (R49). -/
theorem doMulticast_takes {s : State} {b : Bundle} {q : List Bundle} (hok : multicastOk s = true) (hq : s.seq.fetchQ = b :: q)
    (hskip : s.cores.all (fun p => p.2.skips.isEmpty) = true) :
    doMulticast s = trimLog { s with seq := { s.seq with fetchQ := q, log := s.seq.log ++ [b], nextPos := b.pos + 1 } } := by
  have hnone : s.cores.filter (fun p => !p.2.skips.isEmpty) = [] :=
    List.filter_eq_nil_iff.2 fun p hp => by simp [List.all_eq_true.1 hskip p hp]
  simp [doMulticast, hok, hq, hnone, arriveGo]

/-- Settles O18: the fetch takes its line and goes to the next index; multicast moves the oldest bundle into the log. -/
theorem streamMoves : Obligations.StreamMoves := by
  refine ⟨?_, fun s b q hok hq hskip => ?_⟩
  · intro s hf hctx hin a w hcheck hup hsound hwant hmiss hline hclean hidx hnop
    refine ⟨_, congrArg Host.Outcome.next ((doFetch_takes hf (by rw [hctx]) hin hcheck hup hsound hwant hmiss hline).trans (seqTake_nop hclean hidx hnop)), ?_⟩
    rw [hctx, seqGo_plain]
    exact ⟨rfl, rfl, rfl, rfl, rfl⟩
  · refine ⟨_, congrArg Host.Outcome.next (doMulticast_takes hok hq hskip), rfl, rfl, fun hlow => ?_, rfl, rfl⟩
    exact List.mem_filter.2 ⟨List.mem_append_right _ (List.mem_singleton.2 rfl), decide_eq_true hlow⟩

end Sys2Proof.Machine
end

section
/-! PROOFS. O16: the release of a watch whose descriptor a watchpoint sees. -/

namespace Sys2Proof.Machine

/-- A core with handle 3 armed, and at buffer offset 0 an XWATCH descriptor that releases it with the result at offset 64. -/
def watchingCore : Core := { Core.init with st := .issuing, handles := [(3, ⟨true, false⟩)], buf := [(0, 2), (1, 3), (24, 64)] }

/-- The envelope of that handle covers the first 64 bytes of the host window, where the completion queue of Q0 stands too. Watchpoint 0 sees reads of
the descriptor, events are posted to the host, and the Ledger records. -/
def watchedRelease : State :=
  { State.reset with
    seq := { Seq.init with st := .running }
    cores := [(0, watchingCore)]
    mem := { State.reset.mem with watch := [⟨.handle 0 3, 0x200000000000, 0x200000000040, false⟩] }
    ldg := { State.reset.ldg with up := true, prelock := false, st := .recording }
    host := { State.reset.host with width := 1 }
    regs := [(aHostCtrl, 1), (aHostQcfg 0, 0x21), (aDbgWpA 0, 0xA000000000000000), (aDbgWpB 0, 31)] }

theorem watchedRelease_issues : SlotIssues watchedRelease 0 { x := .xwatch 0 0, xh := ⟨0, 63⟩ } := by
  constructor <;> decide +kernel

/-- No write has reached the envelope before the slot issues. -/
theorem watchedRelease_whole :
    (smGet Handle.none (getCore watchedRelease 0).handles 3).torn = false ∧ watchTorn watchedRelease (.handle 0 3) = false := by
  decide +kernel

/-- The reading of the descriptor halts the core at the watchpoint; the event entry of that halt goes into host memory and tears the envelope, so the
release finds it torn. -/
theorem watchedRelease_result {t : State} (h : exec (.xwatchRelease 0 ⟨0, 63⟩ 0 0) watchedRelease = .next t) :
    (getCore t 0).buf = [(0, 2), (1, 3), (24, 64), (64, 1)] := by
  have hrun : (match exec (.xwatchRelease 0 ⟨0, 63⟩ 0 0) watchedRelease with | .next u => (getCore u 0).buf | _ => [])
      = [(0, 2), (1, 3), (24, 64), (64, 1)] := by decide +kernel
  rwa [h] at hrun

/-- Refutes O16, by its clause on the release: the result word counts a tear that the slot's own reading of its descriptor has brought about. -/
theorem not_copySlotResults : ¬ Obligations.CopySlotResults := by
  rintro ⟨-, -, -, hrelease, -⟩
  obtain ⟨t, hexec, -, hbuf⟩ := hrelease watchedRelease 0 ⟨0, 63⟩ 0 0 watchedRelease_issues (by decide) rfl (by decide) (by decide +kernel)
  rw [watchedRelease_result hexec] at hbuf
  exact absurd hbuf (by decide +kernel)

end Sys2Proof.Machine
end

section
/-! PROOFS. O20: SEQ_RUN, SEQ_HALT, SEQ_RESUME and JOB_DONE. Each of them changes every core by one function, so the rules for `smMap` come first. -/

namespace Sys2Proof.Machine

/-! ### Sparse maps changed in every entry -/

section
variable {α : Type} [DecidableEq α] {d : α} {f : Nat → α → α}

theorem smMap_cons (j : Nat) (v : α) (m : SMap α) : smMap d f ((j, v) :: m) = if f j v = d then smMap d f m else (j, f j v) :: smMap d f m := by
  by_cases h : f j v = d <;> simp [smMap, h]

/-- An entry that is no default, and whose new value is none, is read back changed. -/
theorem smGet_smMap {k : Nat} : ∀ {m : SMap α}, smGet d m k ≠ d → f k (smGet d m k) ≠ d → smGet d (smMap d f m) k = f k (smGet d m k)
  | [], h, _ => absurd rfl h
  | (j, v) :: m, h, hf => by
    rw [smMap_cons]
    by_cases hj : j = k
    · subst hj
      simp only [smGet, if_true] at hf ⊢
      rw [if_neg hf]
      simp [smGet]
    · simp only [smGet, if_neg hj] at h hf ⊢
      have ih := smGet_smMap h hf
      split
      · exact ih
      · simpa [smGet, hj] using ih

/-- What holds of the default and of every new value holds of what is read. -/
theorem smGet_smMap_prop {P : α → Prop} {k : Nat} (hd : P d) (hf : ∀ v, P (f k v)) : ∀ m : SMap α, P (smGet d (smMap d f m) k)
  | [] => hd
  | (j, v) :: m => by
    have ih := smGet_smMap_prop hd hf m
    rw [smMap_cons]
    split
    · exact ih
    · by_cases hj : j = k
      · subst hj
        simpa [smGet] using hf v
      · simpa [smGet, hj] using ih

/-- A change that never gives the default relates every value read before to the one read after. -/
theorem smGet_smMap_rel {R : α → α → Prop} {k : Nat} (hd : R d d) (hf : ∀ v, R v (f k v)) (hne : ∀ v, f k v ≠ d) :
    ∀ m : SMap α, R (smGet d m k) (smGet d (smMap d f m) k)
  | [] => hd
  | (j, v) :: m => by
    have ih := smGet_smMap_rel hd hf hne m
    rw [smMap_cons]
    by_cases hj : j = k
    · subst hj
      rw [if_neg (hne v)]
      simpa [smGet] using hf v
    · split <;> simpa [smGet, hj] using ih

end

theorem smGet_map_mem {α : Type} {d : α} (g : Nat → α) {k : Nat} : ∀ {l : List Nat}, k ∈ l → smGet d (l.map fun i => (i, g i)) k = g k
  | j :: l, h => by
    by_cases hj : j = k
    · simp [smGet, hj]
    · simp only [List.map_cons, smGet, if_neg hj]
      exact smGet_map_mem g ((List.mem_cons.1 h).resolve_left fun e => hj e.symm)

/-! ### SEQ_RUN -/

/-- SEQ_RUN over an image of at least one bundle. -/
theorem seqStart_runs {s : State} (hst : s.seq.st = .idle) (hdev : s.job.device = none) (himg : regF s aSeqImgLen 31 0 ≠ 0) :
    seqStart s = { streamInit s with seq := { Seq.init with st := .running, step := s.seq.step, poll := true, run := true } } := by
  have hlen : ∀ q : Seq, regF { streamInit s with seq := q } aSeqImgLen 31 0 ≠ 0 := fun _ => himg
  simp only [seqStart, hst, hdev]
  rw [if_neg (by simp), if_neg (hlen _)]
  rfl

/-! ### SEQ_HALT -/

/-- Rows that become unspecified are rows of the accumulator. -/
theorem scrambleRows_acc (ctr : Nat) : ∀ (rs : List Nat) (c : Core), ∃ acc, scrambleRows ctr rs c = { c with acc := acc }
  | [], c => ⟨c.acc, rfl⟩
  | _ :: rs, _ => by
    obtain ⟨acc, h⟩ := scrambleRows_acc ctr rs _
    exact ⟨acc, h⟩

/-- An operation as the replay list holds it. -/
def replayed (o : FOp) : FOp := { o with started := false, set := .none, outcome := .clean, snap := [], olds := [] }

/-- A core that abandons its operations (R67). -/
theorem abandonCore_eq (ctr : Nat) (c : Core) :
    ∃ acc, abandonCore ctr c
      = { c with acc := acc, replay := c.replay ++ c.flight.map replayed, flight := [], closed := [], latches := [], arrived := none, wait := 0 } := by
  obtain ⟨acc, h⟩ := scrambleRows_acc ctr (chainRows c) c
  exact ⟨acc, by rw [abandonCore, h]; rfl⟩

theorem abandonCore_flight (ctr : Nat) (c : Core) : (abandonCore ctr c).flight = [] := rfl
theorem abandonCore_replay (ctr : Nat) (c : Core) : (abandonCore ctr c).replay = c.replay ++ c.flight.map replayed := rfl

theorem abandonCore_ne_init (ctr : Nat) {c : Core} (h : c.replay ++ c.flight ≠ []) : abandonCore ctr c ≠ Core.init := fun e => by
  have hr := congrArg Core.replay e
  rw [abandonCore_replay] at hr
  obtain ⟨h1, h2⟩ := List.append_eq_nil_iff.1 hr
  exact h (List.append_eq_nil_iff.2 ⟨h1, List.map_eq_nil_iff.1 h2⟩)

/-- Every core that the part has abandons its operations at a halt that no core's fault began. -/
theorem getCore_haltStart (s : State) (i : Nat) :
    getCore (haltStart s) i
      = smGet Core.init (smMap Core.init (fun j c => if j = noCore then { c with arrived := none, wait := 0, latches := [] } else abandonCore s.free c) s.cores) i := by
  rw [haltStart, detLeave_getCore]
  rfl

/-- What a halt leaves of the rest of the module. -/
theorem haltStart_frame (s : State) :
    (haltStart s).seq = { s.seq with st := .halting } ∧ (haltStart s).sync.rounds = [] ∧ (haltStart s).job = s.job ∧ (haltStart s).ce = s.ce
      ∧ (haltStart s).mem.gddr = s.mem.gddr ∧ (haltStart s).sec = s.sec := by
  simp [haltStart, haltOrders]

theorem ne_noCore {s : State} {i : Nat} (h : i < nCores s) : i ≠ noCore := by
  unfold nCores at h
  unfold noCore
  split at h <;> omega

theorem haltStart_flight {s : State} {i : Nat} (h : i < nCores s) : (getCore (haltStart s) i).flight = [] := by
  rw [getCore_haltStart]
  refine smGet_smMap_prop (P := fun c : Core => c.flight = []) rfl (fun c => ?_) _
  rw [if_neg (ne_noCore h)]
  exact abandonCore_flight ..

theorem getCore_haltStart_busy {s : State} {i : Nat} (h : i < nCores s) (hbusy : (getCore s i).replay ++ (getCore s i).flight ≠ []) :
    getCore (haltStart s) i = abandonCore s.free (getCore s i) := by
  have hne : getCore s i ≠ Core.init := fun e => hbusy (by rw [e]; rfl)
  rw [getCore_haltStart]
  refine (smGet_smMap hne ?_).trans (if_neg (ne_noCore h))
  rw [if_neg (ne_noCore h)]
  exact abandonCore_ne_init _ hbusy

/-! ### SEQ_RESUME -/

/-- `d` is `c` after some of its replay entries were issued again. -/
def Relaunches (c d : Core) (ops : List FOp) : Prop :=
  ∃ f n k, d = { c with flight := f, nextOrd := n, nextChain := k } ∧ f.map (fun o => (o.body, o.done, o.pred, o.addr1, o.addr2))
    = (c.flight ++ ops).map (fun o => (o.body, o.done, o.pred, o.addr1, o.addr2))

theorem relaunches_foldl : ∀ (ops : List FOp) (c : Core), Relaunches c (ops.foldl relaunch c) ops
  | [], c => ⟨c.flight, c.nextOrd, c.nextChain, rfl, by rw [List.append_nil]⟩
  | o :: ops, c => by
    obtain ⟨f, n, k, h, hf⟩ := relaunches_foldl ops (relaunch c o)
    refine ⟨f, n, k, h, hf.trans ?_⟩
    simp [relaunch]

/-- What SEQ_RESUME does to a core: its replay list is in flight again, its registers and memories stay. -/
def Resumes (c d : Core) : Prop :=
  d.replay = [] ∧ d.flight.map (fun o => (o.body, o.done, o.pred, o.addr1, o.addr2)) = c.replay.map (fun o => (o.body, o.done, o.pred, o.addr1, o.addr2))
    ∧ d.a = c.a ∧ d.p = c.p ∧ d.buf = c.buf ∧ d.acc = c.acc

theorem coreResume_resumes (c : Core) : Resumes c (coreResume c) := by
  obtain ⟨f, n, k, h, hf⟩ := relaunches_foldl c.replay { c with replay := [], flight := [], closed := [], latches := [], wait := 0, cause := 0, arrived := none }
  unfold coreResume
  rw [h]
  exact ⟨rfl, hf, rfl, rfl, rfl, rfl⟩

theorem coreResume_ne_init (c : Core) : coreResume c ≠ Core.init := ne_init_of_st _ (by
  unfold coreResume
  cases c.chalted <;> simp)

theorem getCore_resumes {s t : State} (h : t.cores = smMap Core.init (fun _ c => coreResume c) s.cores) (i : Nat) :
    Resumes (getCore s i) (getCore t i) := by
  rw [getCore, getCore, h]
  exact smGet_smMap_rel (R := Resumes) ⟨rfl, rfl, rfl, rfl, rfl, rfl⟩ coreResume_resumes coreResume_ne_init s.cores

/-! ### JOB_DONE -/

@[simp] theorem hostVector_exit (s : State) (v : Nat) : (hostVector s v).host.exit = s.host.exit := by
  unfold hostVector; split <;> rfl

@[simp] theorem hostPut_exit (s : State) (n cid : Nat) (more : Bool) (st r0 r1 : Nat) : (hostPut s n cid more st r0 r1).host.exit = s.host.exit := by
  simp [hostPut, hostWrite, hostTear]

@[simp] theorem hostEvent_exit (s : State) (r : Rec) : (hostEvent s r).1.host.exit = s.host.exit := by
  unfold hostEvent
  split
  · split
    · exact hostPut_exit ..
    · rfl
  · rfl

@[simp] theorem hostEvents_exit : ∀ (rs : List Rec) (s : State), (hostEvents rs s).1.host.exit = s.host.exit
  | [], _ => rfl
  | _ :: rs, _ => (hostEvents_exit rs _).trans (hostEvent_exit ..)

@[simp] theorem ldgPost_exit (s : State) (l : Ledger) (rs : List Rec) : (ldgPost s l rs).host.exit = s.host.exit := by
  unfold ldgPost
  simp only
  split <;> simp

@[simp] theorem record_exit (s : State) (k : Nat) (x y : Word16) (p : Nat) : (record s k x y p).host.exit = s.host.exit := ldgPost_exit ..

@[simp] theorem jobTo_exit (s : State) (j : JobSt) : (jobTo s j).host.exit = s.host.exit := by
  unfold jobTo; split <;> simp

@[simp] theorem hostPost_exit (s : State) (q cid : Nat) (more : Bool) (st r0 r1 : Nat) : (hostPost s q cid more st r0 r1).host.exit = s.host.exit := by
  unfold hostPost
  split
  · rfl
  · split
    · exact hostPut_exit ..
    · rfl

theorem hostDone_exit (s : State) (q cid st r0 r1 : Nat) : (hostDone s q cid st r0 r1).host.exit = s.host.exit := hostPost_exit ..

@[simp] theorem hostDoneAll_exit (s : State) (op st r0 r1 : Nat) : (hostDoneAll s op st r0 r1).host.exit = s.host.exit := by
  unfold hostDoneAll
  generalize s.host.cmds.filter _ = l
  induction l generalizing s with
  | nil => rfl
  | cons c l ih => exact (ih _).trans (hostDone_exit ..)

theorem foldl_setRegF_job (f : Nat → Nat) (hi lo x : Nat) (l : List Nat) (s : State) :
    (l.foldl (fun s k => setRegF s (f k) hi lo x) s).job = s.job := by
  induction l generalizing s with
  | nil => rfl
  | cons k l ih => exact ih _

/-- A wipe that begins leaves the job state as it is. -/
theorem wipeStart_jobSt (s : State) (why : WipeWhy) : (wipeStart s 2 why).job.st = s.job.st := by
  simp only [wipeStart, wipeShow, setRegF_job, foldl_setRegF_job]
  rfl

theorem wipeStart_runs (s : State) (scope : Nat) (why : WipeWhy) : (wipeStart s scope why).sec.wipe.isSome = true := rfl

/-- The stream's end as the cores and the sequencer have it. -/
def streamDone (s : State) : State :=
  detLeave { s with seq := { s.seq with st := .done, run := false }, cores := smMap Core.init (fun _ c => { c with st := .done }) s.cores }

/-- The stream's end reported to the host, before the hold time counts. -/
def doneReported (s : State) : State :=
  hostDoneAll (jobTo { streamDone s with host := { (streamDone s).host with exit := some (streamDone s).seq.exit } } .done) 3 0 0 0

/-- Nothing is left to do in any core or engine and no commit is due. -/
structure StreamOver (s : State) : Prop where
  running : s.seq.st = .running
  alive : s.job.device = none
  listed : s.cores.length = nCores s
  cores : s.cores.all (fun p => p.2.chalted && coreIdle p.2) = true
  engines : s.ce.all (fun p => p.2.ops.all (fun o => o.mgmt != 0 || !isWork o || o.completed)) = true
  committed : commitDue s = false

theorem jobEnds_over {s : State} (h : StreamOver s) : jobEnds s = holdZero (doneReported s) := by
  have hcores : s.cores.any (fun p => !p.2.chalted || !coreIdle p.2) = false := by
    rw [List.any_eq_false]
    intro p hp
    have := List.all_eq_true.1 h.cores p hp
    simp_all
  have hce : s.ce.any (fun p => p.2.ops.any (fun o => o.mgmt == 0 && isWork o && !o.completed)) = false := by
    rw [List.any_eq_false]
    intro p hp
    rw [Bool.not_eq_true, List.any_eq_false]
    intro o ho
    have := List.all_eq_true.1 (List.all_eq_true.1 h.engines p hp) o ho
    simp only [Bool.or_eq_true, bne_iff_ne, Bool.not_eq_true'] at this
    rcases this with (hm | hw) | hc
    · simp [hm]
    · simp [hw]
    · simp [hc]
  simp only [jobEnds, h.running, h.alive, h.listed, hcores, hce, h.committed]
  rw [if_neg (by simp)]
  rfl

theorem doneReported_frame (s : State) :
    (doneReported s).seq = { s.seq with st := .done, run := false } ∧ (doneReported s).host.exit = some s.seq.exit
      ∧ (doneReported s).job = { s.job with st := .done } ∧ (doneReported s).mem.gddr = s.mem.gddr ∧ (doneReported s).ce = s.ce
      ∧ (doneReported s).sec = s.sec ∧ (doneReported s).cores = smMap Core.init (fun _ c => { c with st := .done }) s.cores := by
  simp [doneReported, streamDone]

theorem smMap_all {α : Type} [DecidableEq α] {d : α} {f : Nat → α → α} {P : α → Bool} (hf : ∀ k v, P (f k v) = true) (m : SMap α) :
    (smMap d f m).all (fun p => P p.2) = true := by
  rw [List.all_eq_true]
  intro p hp
  obtain ⟨q, -, rfl⟩ := List.mem_map.1 (List.mem_filter.1 hp).1
  exact hf _ _

/-- Settles O20, by what each of the four commands makes of the sequencer and of every core. -/
theorem sequencerCommandResults : Obligations.SequencerCommandResults := by
  refine ⟨fun s hst hdev himg => ?_, fun s hst hopen hdev => ?_, fun s hst hfatal hdev => ?_, fun s hst hdev hlen hcores hce hcommit => ?_⟩
  · refine ⟨_, congrArg Host.Outcome.next (seqStart_runs hst hdev himg), rfl, fun i hi => ?_⟩
    have hcore : getCore { streamInit s with seq := { Seq.init with st := .running, step := s.seq.step, poll := true, run := true } } i
        = coreStart s (getCore s i) := smGet_map_mem (fun i => coreStart s (getCore s i)) (List.mem_range.2 hi)
    rw [hcore]
    exact ⟨rfl, rfl, rfl, rfl, rfl, rfl, rfl, rfl, rfl, rfl, rfl, rfl, rfl⟩
  · have hgo : haltAsk s = haltStart s := if_pos ⟨hst, hopen, by rw [hdev]; rfl⟩
    obtain ⟨hseq, hrounds, hjob, hengines, hgddr, hsec⟩ := haltStart_frame s
    refine ⟨_, congrArg Host.Outcome.next hgo, hseq, hrounds, hjob, hengines, hgddr, hsec, fun i hi => ⟨haltStart_flight hi, fun hbusy => ?_⟩⟩
    obtain ⟨acc, hacc⟩ := abandonCore_eq s.free (getCore s i)
    rw [getCore_haltStart_busy hi hbusy, hacc]
    refine ⟨rfl, rfl, ?_⟩
    rw [List.map_append, List.map_append, List.map_map]
    rfl
  · have hgo : seqResumes s = _ := if_neg (by simp [hst, hfatal, hdev])
    exact ⟨_, congrArg Host.Outcome.next hgo, rfl, rfl, rfl, rfl, rfl, rfl, rfl, rfl, rfl, rfl, rfl, getCore_resumes rfl⟩
  · obtain ⟨hseq, hexit, hjob, hgddr, hengines, hsec, hdone⟩ := doneReported_frame s
    refine ⟨_, congrArg Host.Outcome.next (jobEnds_over ⟨hst, hdev, hlen, hcores, hce, hcommit⟩), fun hhold => ?_, fun hhold => ?_⟩
    · have hstay : holdZero (doneReported s) = doneReported s := if_neg fun h => hhold (by rw [← h.1, hjob])
      rw [hstay, hdone]
      exact ⟨hseq, hexit, hjob, hgddr, hengines, hsec, smMap_all (P := fun c : Core => c.st == .done) (fun _ _ => rfl) _⟩
    · have hend : holdZero (doneReported s) = jobEnd (doneReported s) := if_pos (by rw [hjob]; exact ⟨hhold, .inl rfl⟩)
      rw [hend]
      exact ⟨(wipeStart_jobSt _ _).trans (by rw [jobTo_job]), wipeStart_runs ..⟩

end Sys2Proof.Machine
end

section
/-! PROOFS. O21: the step commit, the table poll, the end of a halt and its timeout. The rules say what each operation leaves of SEQ_STEP, of the
sequencer and of the job. -/

namespace Sys2Proof.Machine

/-! ### SEQ_STEP under faults -/

@[simp] theorem seqFault_seq (s : State) (core idx : Nat) (code : Word16) : (seqFault s core idx code).seq = s.seq := by
  unfold seqFault; split <;> simp
@[simp] theorem seqFault_job (s : State) (core idx : Nat) (code : Word16) : (seqFault s core idx code).job = s.job := by
  unfold seqFault; split <;> simp
@[simp] theorem seqFault_cores (s : State) (core idx : Nat) (code : Word16) : (seqFault s core idx code).cores = s.cores := by
  unfold seqFault; split <;> simp
@[simp] theorem readyDrop_seq (s : State) : (readyDrop s).seq = s.seq := by unfold readyDrop; split <;> simp
@[simp] theorem readyDrop_job (s : State) : (readyDrop s).job = s.job := by unfold readyDrop; split <;> simp
@[simp] theorem readyDrop_cores (s : State) : (readyDrop s).cores = s.cores := by unfold readyDrop; split <;> simp

@[simp] theorem fatalMark_seq (s : State) (core idx : Nat) (code : Word16) : (fatalMark s core idx code).seq = s.seq := by simp [fatalMark]
@[simp] theorem coreStops_seq (s : State) (core : Nat) : (coreStops s core).seq = s.seq := by unfold coreStops; split <;> simp
@[simp] theorem haltOrders_step (s : State) (keep : Nat) : (haltOrders keep s).seq.step = s.seq.step := by simp [haltOrders]

/-- A fault moves the sequencer's state only. -/
@[simp] theorem jobFatalKeep_step (s : State) (keep core idx : Nat) (code src : Word16) (p : Nat) :
    (jobFatalKeep keep s core idx code src p).seq.step = s.seq.step := by
  unfold jobFatalKeep
  simp only
  split
  case h_1 => split <;> split <;> simp
  case h_2 => simp
  case h_3 => simp
  case h_4 => split <;> simp
  case h_5 => split <;> simp
  case h_6 => simp

@[simp] theorem jobFatal_step (s : State) (core idx : Nat) (code src : Word16) (p : Nat) : (jobFatal s core idx code src p).seq.step = s.seq.step :=
  jobFatalKeep_step ..

@[simp] theorem deviceFatal_step (s : State) (src code : Word16) (p : Nat) : (deviceFatal s src code p).seq.step = s.seq.step := by
  simp [deviceFatal]

@[simp] theorem addG_step (s : State) (i n : Nat) : (addG s i n).seq.step = s.seq.step := by
  unfold addG
  split
  · rfl
  · simp only
    split <;> simp

/-! ### SEQ_STEP under the errors of memory words -/

@[simp] theorem setLinePoison_step (s : State) (line : Nat) (bad : Bool) : (setLinePoison s line bad).seq.step = s.seq.step := by
  unfold setLinePoison
  split
  · simp only
    split <;> simp
  all_goals rfl

@[simp] theorem strike_step (s : State) (core : Nat) (u : Upset) : (strike s core u).seq.step = s.seq.step := by
  cases u with
  | none => rfl
  | bufCorrected => exact congrArg Seq.step (record_seq ..)
  | bufPoisoned => simp only [strike]; split <;> simp
  | hiveCorrected => simp [strike]
  | hivePoisoned => simp only [strike]; split <;> simp [sliceBad]
  | accCorrected => simp [strike]
  | accPoisoned => simp only [strike]; split <;> simp [contained]
  | l1Poisoned => simp [strike]
  | hostPoisoned => simp [strike]

theorem strikes_step (l : List (Nat × Upset)) (s : State) : (l.foldl (fun t p => strike t p.1 p.2) s).seq.step = s.seq.step := by
  induction l generalizing s with
  | nil => rfl
  | cons p l ih => exact (ih _).trans (strike_step ..)

@[simp] theorem meetSpans_step (s : State) (rs : List (Nat × Nat)) : (meetSpans s rs).seq.step = s.seq.step := strikes_step ..

/-- The slices' counters and lines are no part of the sequencer or the job. -/
theorem bumps_frame (f g : Nat → Nat) (x y : Nat → Nat) (l : List Nat) (s : State) :
    (l.foldl (fun t k => bump (bump t (f k) (x k)) (g k) (y k)) s).seq = s.seq
      ∧ (l.foldl (fun t k => bump (bump t (f k) (x k)) (g k) (y k)) s).job = s.job := by
  induction l generalizing s with
  | nil => exact ⟨rfl, rfl⟩
  | cons k l ih => simpa using ih (bump (bump s (f k) (x k)) (g k) (y k))

@[simp] theorem devTouch_read_step (a n : Nat) (s : State) : (devTouch false a n s).seq.step = s.seq.step := by
  unfold devTouch
  split
  · rfl
  · simp [bumps_frame]

/-- A write of the management core is no part of the sequencer or the job. -/
theorem devTouch_write (a n : Nat) (s : State) : (devTouch true a n s).seq = s.seq ∧ (devTouch true a n s).job = s.job := by
  have htear : (tearWatches s a n).seq = s.seq ∧ (tearWatches s a n).job = s.job := by unfold tearWatches; split <;> exact ⟨rfl, rfl⟩
  unfold devTouch
  split
  · exact ⟨rfl, rfl⟩
  · simp [bumps_frame, htear]

/-! ### SEQ_STEP under the fabric -/

@[simp] theorem linkPut_seq (s : State) (k input : Nat) (w : Wire) : (linkPut s k input w).seq = s.seq := by
  unfold linkPut
  split
  · rfl
  · split <;> simp

@[simp] theorem fabSource_seq (s : State) (p : Packet) : (fabSource s p).seq = s.seq := by
  unfold fabSource fabOut
  split
  · rfl
  · exact linkPut_seq ..

theorem txPumpGo_seq (key : Nat) : ∀ (f : Nat) (s : State), (txPumpGo key f s).seq = s.seq
  | 0, _ => rfl
  | f + 1, s => by
    unfold txPumpGo
    simp only
    split
    · rfl
    · split
      · rfl
      · rw [txPumpGo_seq key f, fabSource_seq]

@[simp] theorem takeDeadlock_step (s : State) (lead : BitVec 14) (n : Nat) : (takeDeadlock s lead n).seq.step = s.seq.step := by
  unfold takeDeadlock; split <;> simp

@[simp] theorem leadCheck_step (s : State) : (leadCheck s).seq.step = s.seq.step := by
  unfold leadCheck
  simp only
  split <;> simp

@[simp] theorem sendBlocked_step (s : State) : (sendBlocked s).seq.step = s.seq.step := by
  unfold sendBlocked
  simp only
  split
  · rfl
  · split <;> simp

@[simp] theorem txPump_step (s : State) (key : Nat) : (txPump s key).seq.step = s.seq.step := by
  unfold txPump sentNote
  split
  · split <;> simp [txPumpGo_seq]
  · rfl

theorem fabWrites_step (cls : Nat) (dst ctx : BitVec 14) (counted : Bool) (o : Owner) :
    ∀ (f a : Nat) (bs : List Byte) (bad : List Bool) (s : State), (fabWrites cls dst ctx counted o f a bs bad s).seq.step = s.seq.step
  | 0, _, _, _, _ => rfl
  | f + 1, a, bs, bad, s => by
    unfold fabWrites
    split
    · rfl
    · simp only
      rw [fabWrites_step cls dst ctx counted o f]
      exact txPump_step ..

@[simp] theorem roundOpen_step (s : State) (p : Permit) : (roundOpen s p).seq.step = s.seq.step := by
  have hputs : ∀ (l : List (BitVec 14 × Nat)) (u : State), (l.foldl (fun s x => roundPut s x.1 x.2 (leBytes 8 p.gen.toNat)) u).seq.step = u.seq.step := by
    intro l
    induction l with
    | nil => exact fun _ => rfl
    | cons x l ih => exact fun u => (ih _).trans (fabWrites_step ..)
  exact hputs _ _

/-! ### What a commit does for tokens, losses, snapshots and securing -/

@[simp] theorem imbalance_step (s : State) : (imbalance s).seq.step = s.seq.step := by
  unfold imbalance
  simp only [setReg_seq]
  split <;> simp

@[simp] theorem stepLoss_step (s : State) (w : Word64) : (stepLoss s w).seq.step = s.seq.step := by
  unfold stepLoss
  simp only
  split
  · simp
  · split
    · simp
    · split <;> simp

@[simp] theorem snapG_step (s : State) : (snapG s).seq.step = s.seq.step := by unfold snapG; split <;> simp
@[simp] theorem snapEnd_step (s : State) (code : Word16) (x : Nat) : (snapEnd s code x).seq.step = s.seq.step := by simp [snapEnd]
@[simp] theorem cePush_seq (s : State) (o : CeOp) : (cePush s o).seq = s.seq := rfl

/-- Where the next descriptor of the snapshot's target stands (R417). -/
def snapPlace (s : State) : Nat := snapArea s (snapT s) + 128 + s.job.snapNext * 128

/-- The job replaced. -/
def withJob (s : State) (j : Job) : State := { s with job := j }

theorem withJob_seq (s : State) (j : Job) : (withJob s j).seq = s.seq := rfl

/-- Issuing ends, or fails at a bad descriptor, or hands the descriptor's copy to its engine and goes on (R418). -/
theorem snapIssue_cases (f : Nat) (s : State) :
    snapIssue (f + 1) s = s ∨ snapIssue (f + 1) s = snapEnd (devTouch false (snapPlace s) 128 s) cSnapFailed s.job.snapNext
      ∨ ∃ j o, snapIssue (f + 1) s = snapIssue f (cePush (withJob (devTouch false (snapPlace s) 128 s) j) o) := by
  by_cases hend : snapSt s ≠ 2 ∨ s.job.snapNext ≥ s.job.snapCount
      ∨ ceBusy (getCe s (engineOf (BitVec.ofNat 14 (regF s aTrnSnapCfg 13 0)))) ≥ 64
  · exact .inl (if_pos hend)
  · by_cases hbad : snapBad s (memBytes s (snapPlace s) 128) = true
    · exact .inr (.inl ((if_neg hend).trans (if_pos hbad)))
    · exact .inr (.inr ⟨_, _, (if_neg hend).trans (if_neg hbad)⟩)

@[simp] theorem snapIssue_step : ∀ (f : Nat) (s : State), (snapIssue f s).seq.step = s.seq.step
  | 0, _ => rfl
  | f + 1, s => by
    have hread := devTouch_read_step (snapPlace s) 128 s
    rcases snapIssue_cases f s with h | h | ⟨j, o, h⟩
    · rw [h]
    · rw [h, snapEnd_step, hread]
    · rw [h, snapIssue_step f, cePush_seq, withJob_seq, hread]

/-- The job as a snapshot begins: count and tag of its target, and its number (R418). -/
def snapJob (s : State) : Job :=
  let h := memBytes s (snapArea s (snapT s)) 8
  { (devTouch false (snapArea s (snapT s)) 128 s).job with
    snapNext := 0, snapCount := fieldAt h 0 2, snapTag := BitVec.ofNat 32 (fieldAt h 4 4), snapNo := s.job.snapNo + 1 }

theorem snapBegin_eq (s : State) :
    snapBegin s = snapIssue 64 (setRegF (withJob (devTouch false (snapArea s (snapT s)) 128 s) (snapJob s)) aTrnSnapStatus 1 0 2) := rfl

theorem snapBegin_step (s : State) : (snapBegin s).seq.step = s.seq.step := by
  rw [snapBegin_eq, snapIssue_step, setRegF_seq, withJob_seq, devTouch_read_step]

@[simp] theorem snapAt_step (s : State) : (snapAt s).seq.step = s.seq.step := by
  unfold snapAt
  split
  · exact snapBegin_step s
  · exact snapG_step s

@[simp] theorem secureAt_step (s : State) : (secureAt s).seq.step = s.seq.step := by
  unfold secureAt
  split
  · split <;> simp
  · simp

/-! ### The end of a halt -/

/-- A core without copies under way, waiting arms and L1 lines has nothing to do at order 4 of R67. -/
def calmCore (c : Core) : Bool := c.arms.isEmpty && c.l1.isEmpty && c.lcu.all (fun q => !q.active)

/-- Every core listed is calm. -/
def Calm (s : State) : Prop := s.cores.all (fun p => calmCore p.2) = true

/-- `t` keeps the sequencer and the job of `s`, and its cores are calm. -/
structure StaysCalm (s t : State) : Prop where
  seq : t.seq = s.seq
  job : t.job = s.job
  calm : Calm t

theorem StaysCalm.trans {s t u : State} (h : StaysCalm s t) (k : StaysCalm t u) : StaysCalm s u :=
  ⟨k.seq.trans h.seq, k.job.trans h.job, k.calm⟩

theorem smSet_all {α : Type} [DecidableEq α] {d v : α} {P : α → Bool} (hv : P v = true) {k : Nat} :
    ∀ {m : SMap α}, m.all (fun p => P p.2) = true → (smSet d m k v).all (fun p => P p.2) = true
  | [], _ => by unfold smSet; split <;> simp [hv]
  | (j, u) :: m, h => by
    simp only [List.all_cons, Bool.and_eq_true] at h
    unfold smSet
    split
    · simp [h.1, smSet_all hv h.2]
    · split
      · split <;> simp [hv, h.2]
      · split <;> simp [hv, h.1, h.2]

theorem smGet_of_all {α : Type} {d : α} {P : α → Bool} (hd : P d = true) {k : Nat} :
    ∀ {m : SMap α}, m.all (fun p => P p.2) = true → P (smGet d m k) = true
  | [], _ => hd
  | (j, u) :: m, h => by
    simp only [List.all_cons, Bool.and_eq_true] at h
    unfold smGet
    split
    · exact h.1
    · exact smGet_of_all hd h.2

theorem Calm.core {s : State} (h : Calm s) (i : Nat) : calmCore (getCore s i) = true := smGet_of_all (P := calmCore) rfl h

theorem calm_modCore {s : State} (h : Calm s) (i : Nat) {f : Core → Core} (hf : ∀ c, calmCore c = true → calmCore (f c) = true) :
    StaysCalm s (modCore s i f) :=
  ⟨rfl, rfl, smSet_all (P := calmCore) (hf _ (h.core i)) h⟩

/-- Watch slots that are freed concern no core. -/
theorem calm_freeWatches {β : Type} {s : State} (h : Calm s) (w : β → Watcher) (l : List β) : StaysCalm s (l.foldl (fun s x => freeWatch s (w x)) s) := by
  induction l generalizing s with
  | nil => exact ⟨rfl, rfl, h⟩
  | cons x l ih => exact StaysCalm.trans (t := freeWatch s (w x)) ⟨rfl, rfl, h⟩ (ih h)

theorem haltCopies_idle (core : Nat) (s : State) : ∀ {l : List Copy}, l.all (fun q => !q.active) = true → l.foldl (haltCopy core) s = s
  | [], _ => rfl
  | q :: l, h => by
    simp only [List.all_cons, Bool.and_eq_true] at h
    rw [List.foldl_cons, show haltCopy core s q = s by simp [haltCopy, h.1], haltCopies_idle core s h.2]

/-- A copy as it stands after the halt: one that keeps no fragments begins again. -/
def haltedCopy (q : Copy) : Copy :=
  if restarts q then { q with active := false, todo := fragAll q.desc, fails := 0, torn := false, reread := false, snap := [], was := [], cover := [] } else q

theorem haltedCopies_idle {l : List Copy} (h : l.all (fun q => !q.active) = true) : (l.map haltedCopy).all (fun q => !q.active) = true := by
  rw [List.all_eq_true] at h ⊢
  intro q hq
  obtain ⟨x, hx, rfl⟩ := List.mem_map.1 hq
  unfold haltedCopy
  split
  · rfl
  · exact h x hx

/-- A core's copies and arms after the halt. -/
def haltedCore (c : Core) : Core := { c with lcu := c.lcu.map haltedCopy, arms := [] }

/-- A core's handles after the halt: those armed read torn. -/
def tornHandles (c : Core) : Core := { c with handles := c.handles.map (fun p => (p.1, { p.2 with torn := p.2.armed })) }

theorem haltedCore_calm {c : Core} (h : calmCore c = true) : calmCore (haltedCore c) = true := by
  simp only [calmCore, Bool.and_eq_true] at h ⊢
  exact ⟨⟨rfl, h.1.2⟩, haltedCopies_idle h.2⟩

theorem calm_l1Keep {s : State} (h : Calm s) (core : Nat) (keep : L1Line → Bool) : StaysCalm s (l1Keep s core keep) := by
  have hcores : (l1Keep s core keep).cores = (modCore s core fun c => { c with l1 := c.l1.filter keep }).cores := rfl
  refine ⟨rfl, rfl, ?_⟩
  rw [Calm, hcores]
  refine (calm_modCore h core fun c hc => ?_).calm
  simp only [calmCore, Bool.and_eq_true, List.isEmpty_iff] at hc ⊢
  exact ⟨⟨hc.1.1, by rw [hc.1.2]; rfl⟩, hc.2⟩

/-- Order 4 of R67 in a calm core: its watches are free, its handles torn, its copies ready to begin again. -/
theorem haltLcu_eq {s : State} (h : Calm s) (core : Nat) :
    haltLcu s core = l1Keep (modCore ((List.range 16).foldl (fun s h => freeWatch s (.handle core h))
      (modCore ((getCore s core).lcu.foldl (fun s q => freeWatch s (copyWatch core q)) s) core haltedCore)) core tornHandles) core (fun _ => false) := by
  have hcore := h.core core
  simp only [calmCore, Bool.and_eq_true, List.isEmpty_iff] at hcore
  obtain ⟨⟨harms, hl1⟩, hidle⟩ := hcore
  simp only [haltLcu, haltCopies_idle core s hidle, harms, hl1, List.foldl_nil, l1BackAll]
  rfl

theorem haltLcu_calm {s : State} (h : Calm s) (core : Nat) : StaysCalm s (haltLcu s core) := by
  have hcopies := calm_freeWatches h (copyWatch core) (getCore s core).lcu
  have hcore := hcopies.trans (calm_modCore hcopies.calm core fun _ => haltedCore_calm)
  have hfree := hcore.trans (calm_freeWatches hcore.calm (Watcher.handle core) (List.range 16))
  have htorn := hfree.trans (calm_modCore hfree.calm core (f := tornHandles) fun _ hc => hc)
  rw [haltLcu_eq h]
  exact htorn.trans (calm_l1Keep htorn.calm core _)

theorem haltLcus_calm {s : State} (h : Calm s) (l : List Nat) : StaysCalm s (l.foldl haltLcu s) := by
  induction l generalizing s with
  | nil => exact ⟨rfl, rfl, h⟩
  | cons i l ih => exact (haltLcu_calm h i).trans (ih (haltLcu_calm h i).calm)

theorem haltCe_calm {s : State} (h : Calm s) (k : Nat) : StaysCalm s (haltCe s k) := by
  have h1 := calm_freeWatches h (fun o : CeOp => Watcher.ce k o.uid) (getCe s k).ops
  exact ⟨h1.seq, h1.job, h1.calm⟩

theorem haltCes_calm {s : State} (h : Calm s) (l : List Nat) : StaysCalm s (l.foldl haltCe s) := by
  induction l generalizing s with
  | nil => exact ⟨rfl, rfl, h⟩
  | cons i l ih => exact (haltCe_calm h i).trans (ih (haltCe_calm h i).calm)

theorem rawPut_frame (s : State) (a : Nat) (bs : List Byte) : (rawPut s a bs).seq = s.seq ∧ (rawPut s a bs).job = s.job := by
  unfold rawPut
  simp only
  split <;> exact ⟨rfl, rfl⟩

theorem rawPuts_frame (f : Nat → Nat) (g : Nat → List Byte) (l : List Nat) (s : State) :
    (l.foldl (fun t i => rawPut t (f i) (g i)) s).seq = s.seq ∧ (l.foldl (fun t i => rawPut t (f i) (g i)) s).job = s.job := by
  induction l generalizing s with
  | nil => exact ⟨rfl, rfl⟩
  | cons i l ih =>
    obtain ⟨h1, h2⟩ := ih (rawPut s (f i) (g i))
    obtain ⟨h3, h4⟩ := rawPut_frame s (f i) (g i)
    exact ⟨h1.trans h3, h2.trans h4⟩

/-- The save area is memory. -/
theorem saveCtx_frame (s : State) : (saveCtx s).seq = s.seq ∧ (saveCtx s).job = s.job := by
  obtain ⟨h1, h2⟩ := devTouch_write (ctxBase s) (0x400 + nCores s * 0x400) s
  unfold saveCtx
  simp only
  constructor
  · rw [(rawPuts_frame _ _ _ _).1, (rawPut_frame _ _ _).1, h1]
  · rw [(rawPuts_frame _ _ _ _).2, (rawPut_frame _ _ _).2, h2]

/-- The state reads HALTED, and what the halt was for is still known. -/
theorem haltDone_frame (s : State) :
    (haltDone s).seq.st = .halted ∧ (haltDone s).job = { s.job with left := s.job.left || s.job.fatal.isSome } := by
  unfold haltDone
  rw [(saveCtx_frame _).1, (saveCtx_frame _).2]
  refine ⟨rfl, ?_⟩
  split
  · split <;> simp
  · rfl

/-- What HALT_DRAIN_COMPLETE finds where a halt of a job without fault can end. -/
structure HaltReady (s : State) : Prop where
  halting : s.seq.st = .halting
  first : s.job.order4 = false
  alive : s.job.device = none
  sound : s.job.fatal = none
  waits : haltWaits s = false
  no_recovery : s.job.st ≠ .recovering
  no_preempt : s.job.st ≠ .preempting
  calm : Calm s

/-- The state that such a halt saves. -/
def drained (s : State) : State :=
  let s2 := (List.range nEngines).foldl haltCe ((s.cores.map (fun p => p.1)).foldl haltLcu s)
  { s2 with job := { s2.job with order4 := true } }

theorem haltDrained_done {s : State} (h : HaltReady s) : (drained s).job = { s.job with order4 := true } ∧ haltDrained s = haltDone (drained s) := by
  obtain ⟨hst, hfirst, hdev, hsound, hwaits, hrec, hpre, hcalm⟩ := h
  have h1 := haltLcus_calm hcalm (s.cores.map (fun p => p.1))
  have h2 := h1.trans (haltCes_calm h1.calm (List.range nEngines))
  have hjob : (drained s).job = { s.job with order4 := true } := by simp only [drained, h2.job]
  refine ⟨hjob, ?_⟩
  have hdrain : haltDrained s = afterDrain (drained s) := by
    simp only [haltDrained, hdev, hst, hfirst, hwaits, Option.isSome_none, Bool.false_eq_true, if_false]
    rfl
  rw [hdrain, afterDrain, hjob]
  simp only [hsound, Option.isSome_none, Bool.false_eq_true, if_false]

/-- A transition's wipe does not begin while the job stands halted. -/
theorem moveGo_halted {s : State} (hdev : s.job.device = none) (hst : s.seq.st = .halted) : moveGo s = s := by
  unfold moveGo
  exact if_pos (by simp [hdev, hst])

/-! ### The halt timeout -/

theorem noticeSend_job (s : State) (g : BitVec 14) (cause : Nat) (code : Word16) : ∃ r, (noticeSend s g cause code).job = { s.job with relayed := r } := by
  obtain ⟨r, l, h, m, w, x, q, n, e, -⟩ := noticeSend_same s g cause code
  exact ⟨r, by rw [e]⟩

/-- A first device fault: its code, the departure, and every core without operations (R430). -/
theorem deviceFatal_first {s : State} (hdev : s.job.device = none) (src code : Word16) (p : Nat) :
    (deviceFatal s src code p).job.device = some code ∧ (deviceFatal s src code p).job.left = true ∧ (deviceFatal s src code p).seq.stop = true
      ∧ ∃ ctr, (deviceFatal s src code p).cores = smMap Core.init (fun _ c => { abandonCore ctr c with replay := [] }) s.cores := by
  unfold deviceFatal
  simp only [hostVector_job, readyDrop_job, hostVector_seq, readyDrop_seq, hostVector_cores, readyDrop_cores, noticeSend_seq, noticeSend_cores]
  refine ⟨?_, ?_, by simp, _, by simp; rfl⟩
  · obtain ⟨r, hr⟩ := noticeSend_job _ _ _ _
    rw [hr]
    simp [hdev]
  · obtain ⟨r, hr⟩ := noticeSend_job _ _ _ _
    rw [hr]
    simp

theorem haltLate_halting {s : State} (h : s.seq.st = .halting) (core : Nat) :
    haltLate s core
      = deviceFatal (seqFault s core (getCore s core).nextIdx cHaltTimeout) srcSeq cHaltTimeout (openPay cHaltTimeout srcSeq) := if_pos h

/-! ### The table poll -/

/-- The lines of a table that were asked for are asked for once (R409). -/
theorem tabAsk_asked {s : State} {a n step : Nat} (hsound : s.mem.upsets = []) (htab : step ≤ s.seq.tab) : tabAsk s a n step = s := by
  unfold tabAsk
  split
  · rfl
  · simp only [meetSpans_nil _ _ hsound]
    exact if_pos htab

theorem seqRead_ok {s : State} {a n idx : Nat} (hcheck : memCheck s a n false false = none) (hup : spanDown s a n = false)
    (hclean : firstPoison s a n = none) : seqRead s a n idx = .ok (memBytes s a n) := by
  simp [seqRead, hcheck, hup, hclean]

/-- A poll whose table has come (R409). -/
structure PollReady (s : State) (a : Nat) : Prop where
  running : s.seq.st = .running
  polls : s.seq.poll = true
  alive : s.job.device = none
  sound : s.mem.upsets = []
  asked : s.seq.tab = 2
  header : tabWaits s a 64 = false
  table : tabWaits s a seqTableLen = false

theorem doTablePoll_takes {s : State} {h t : List Byte} (hr : PollReady s (regF s aTrn 45 12 * 4096))
    (hhead : seqRead s (regF s aTrn 45 12 * 4096) 64 s.seq.fetchIdx = .ok h) (hround : fieldAt h 0 2 = (reg s aTrnMb).toNat % 65536)
    (htable : seqRead s (regF s aTrn 45 12 * 4096) seqTableLen s.seq.fetchIdx = .ok t) :
    doTablePoll s = pollEnds { seqTableTake s t s.seq.fetchIdx with seq := { (seqTableTake s t s.seq.fetchIdx).seq with tab := 0 } } := by
  obtain ⟨hst, hpoll, hdev, hsound, htab, hwait, hwaitAll⟩ := hr
  simp [doTablePoll, hst, hpoll, hdev, tabAsk_asked hsound (show 1 ≤ s.seq.tab by omega), tabAsk_asked hsound (show 2 ≤ s.seq.tab by omega), hwait,
    hwaitAll, hhead, hround, htable]

/-- The sequencer and the cores after a poll that finds its round. -/
theorem seqTableTake_ends {s : State} {t : List Byte} {idx c : Nat} (hform : seqFormBreach t = none) (hclass : seqClass t (seqTokens t) = some c) :
    (seqTableTake s t idx).seq.poll = false ∧ (seqTableTake s t idx).seq.ctx.vclass = c ∧ (seqTableTake s t idx).cores = s.cores := by
  unfold seqTableTake
  simp [hform, hclass]

@[simp] theorem pollEnds_seq (s : State) : (pollEnds s).seq = s.seq := by unfold pollEnds; split <;> simp
@[simp] theorem pollEnds_cores (s : State) : (pollEnds s).cores = s.cores := by unfold pollEnds; split <;> simp

/-- Settles O21: the commit's later work keeps SEQ_STEP, the poll takes the table it reads, a calm halt ends, a late one is a device fault. -/
theorem stepAndHaltResults : Obligations.StepAndHaltResults := by
  refine ⟨fun s hst hdev hdue => ?_, ?_, fun s hst hfirst hdev hsound hwaits hrec hpre hcores => ?_, fun s core hok hst hdev => ?_⟩
  · have hgo : stepCommit s = _ := if_neg (by rcases hst with h | h <;> simp [h, hdev, hdue])
    exact ⟨_, congrArg Host.Outcome.next hgo, by simp⟩
  · intro s hst hpoll hdev hsound a htab hwait hwaitAll hup hupAll hcheck hclean hround hcheckAll hcleanAll hform c hclass
    have hgo := doTablePoll_takes ⟨hst, hpoll, hdev, hsound, htab, hwait, hwaitAll⟩ (seqRead_ok hcheck hup hclean) hround
      (seqRead_ok hcheckAll hupAll hcleanAll)
    obtain ⟨hends, hvclass, hsame⟩ := seqTableTake_ends (s := s) (idx := s.seq.fetchIdx) hform hclass
    refine ⟨_, congrArg Host.Outcome.next hgo, ?_, ?_, ?_⟩
    · rw [pollEnds_seq]; exact hends
    · rw [pollEnds_seq]; exact hvclass
    · rw [pollEnds_cores]; exact hsame
  · have hcalm : Calm s := hcores
    obtain ⟨hjob, hgo⟩ := haltDrained_done ⟨hst, hfirst, hdev, hsound, hwaits, hrec, hpre, hcalm⟩
    obtain ⟨hhalted, hleft⟩ := haltDone_frame (drained s)
    rw [hjob] at hleft
    have hstay : moveGo (haltDone (drained s)) = haltDone (drained s) := moveGo_halted (by rw [hleft]; exact hdev) hhalted
    refine ⟨haltDone (drained s), congrArg Host.Outcome.next ((congrArg moveGo hgo).trans hstay), hhalted, by rw [hleft]⟩
  · have hdev' : (seqFault s core (getCore s core).nextIdx cHaltTimeout).job.device = none := by rw [seqFault_job, hdev]
    obtain ⟨hcode, hleft, hstop, ctr, hcores⟩ := deviceFatal_first hdev' srcSeq cHaltTimeout (openPay cHaltTimeout srcSeq)
    refine ⟨_, (onCore_enabled _ _ _ hok).trans (congrArg Host.Outcome.next (haltLate_halting hst core)), hcode, hleft, hstop, fun i => ?_⟩
    rw [getCore, hcores]
    exact smGet_smMap_prop (P := fun c : Core => c.flight = [] ∧ c.replay = []) ⟨rfl, rfl⟩ (fun _ => ⟨rfl, rfl⟩) _

end Sys2Proof.Machine
end

section
/-! PROOFS. O54: the registers at power-up, read one by one. -/

namespace Sys2Proof.Machine

/-- Registers to which the spec gives a value at power-up, with that value. -/
def resetTable : List (Nat × Nat) :=
  [(aSeq + 0x08, 0), (aSeq + 0x28, 0), (0x3F0000410000, 1), (0x3F0000410008, 50), (0x3F0000410010, 0), (0x3F0000800008, 0x200), (0x3F0000800040, 0x1F8),
    (aSec, 0), (aSec + 0x20, 0xD), (aBoot, 0), (aHostCtrl, 0x3C), (0x3F0001000000, 0x25800000001), (0x3F0001100000, 0), (aDbg, 1)]

theorem resetTable_reads : ∀ p ∈ resetTable, regView State.reset p.1 = some p.2 := by
  decide +kernel

/-- Settles O54: each register of the table is read in the state at power-up. -/
theorem resetRegisterValues : Obligations.ResetRegisterValues :=
  ⟨fun a v h => resetTable_reads (a, v) h, rfl, rfl, rfl⟩

end Sys2Proof.Machine
end

section
/-! PROOFS. O8: MLD and MSWAP, alone in flight. -/

namespace Sys2Proof.Machine

/-! ### One M operation alone -/

/-- An M operation is launched by its slot command with the addresses that its issue resolves. -/
theorem launched_m {s : State} {core : Nat} {op : MOp} {h : Hdr} {a1 a2 : Word64} (hr : RunsAlone s core { m := op, mh := h } h)
    (hl : issueM (issuing (getCore s core)) op h (getCore s core).nextIdx
      = launch (issuing (getCore s core)) (.m op) h (getCore s core).nextIdx a1 a2) :
    Launched s core (issuedBy s core { m := op, mh := h }) (opOf s core (.m op) h a1 a2) :=
  launched_of s core _ (.m op) h a1 a2 hr.issues (by simp [effSlots, hr.pred]) rfl rfl rfl (by simp) (by simp) hr.alone hl

theorem earlier_alone {c : Core} {o : FOp} (hf : c.flight = [o]) : earlier c o = [] := by
  simp [earlier, hf]

/-- What an MLD or an MSWAP waits for is earlier than itself; alone in flight it waits for nothing (R111 to R113). -/
theorem canComplete_alone {c : Core} {o : FOp} (hf : c.flight = [o]) (ho : isMmul o = false) : canComplete c o = true := by
  rw [canComplete, earlier_alone hf]
  split
  · rfl
  · rfl
  · next hbody => simp [isMmul, hbody] at ho
  · rfl

/-! ### MLD and MSWAP -/

/-- The core with a shadow set. -/
def withShadow (c : Core) (st : StatSet) : Core := { c with shd := st }

/-- The core with its sets exchanged (R112). -/
def swapped (c : Core) : Core := { c with act := c.shd, shd := c.act }

theorem plain_withShadow {c d : Core} (h : plain c = plain d) (st : StatSet) : plain (withShadow c st) = plain (withShadow d st) := by
  change plain (withShadow (plain c) st) = plain (withShadow (plain d) st)
  rw [h]

theorem plain_swapped {c d : Core} (h : plain c = plain d) : plain (swapped c) = plain (swapped d) := by
  change plain (swapped (plain c)) = plain (swapped (plain d))
  rw [h]

theorem mld_result (s : State) (core : Nat) (h : Hdr) (tile : BitVec 5) (tag : BitVec 4) (turn : Bool)
    (hr : RunsAlone s core { m := .mld tile tag turn, mh := h } h) :
    ∃ t, exec (.mld core h tile tag turn) s = .next t ∧
      EndsAs s t core h (withShadow (getCore s core) { mldRecord (shapeOf (getCore s core) tile.toNat) turn with
        data := tileAll (getCore s core) tile.toNat (shapeOf (getCore s core) tile.toNat) }) := by
  let o := opOf s core (.m (.mld tile tag turn)) h 0 0
  let s1 := issuedBy s core { m := .mld tile tag turn, mh := h }
  let sh := shapeOf (getCore s core) tile.toNat
  let d := withShadow (getCore s1 core) { mldRecord sh turn with data := tileAll (getCore s1 core) tile.toNat sh }
  have hL : Launched s core s1 o := launched_m hr rfl
  have hshape : capShape o tile.toNat = sh := capShape_opOf (by simp [bodyUses, mUses])
  have htile : tileAll (getCore s1 core) tile.toNat sh = tileAll (getCore s core) tile.toNat sh := by
    rw [tileAll, tileAll, plain_comb hL.plain_eq]
  have hst : d.st ≠ .idle := by
    change (getCore s1 core).st ≠ .idle
    rw [hL.st_eq]
    decide
  have hput : getCore (setCore s1 core d) core = d := getCore_setCore _ _ _ (ne_init_of_st _ hst)
  obtain ⟨hplain, hcount, hflight, hst', hdet⟩ := combReads_core (s := setCore s1 core d) (by rw [hput]; exact hst) 0 (allRows tile.toNat sh.rows)
  rw [hput] at hplain hcount hflight hst'
  have hco : completeOp s1 core o = finishOp (combReads (setCore s1 core d) core 0 (allRows tile.toNat sh.rows)) core o := by
    simp only [completeOp, s1, meet_launched hr.issues hL]
    change finishOp (doMld _ _ _ _ _) _ _ = _
    rw [doMld, hshape]
    rfl
  rw [exec_of_slotsOf rfl]
  refine endsAs_of_completes hr hL rfl (canComplete_alone hL.flight_eq rfl) hco (hdet hL.det) rfl
    ⟨hcount, hflight, hst'⟩ (hplain.trans ?_)
  rw [← htile]
  exact plain_withShadow hL.plain_eq _

theorem mswap_result (s : State) (core : Nat) (h : Hdr) (hr : RunsAlone s core { m := .mswap, mh := h } h) :
    ∃ t, exec (.mswap core h) s = .next t ∧ EndsAs s t core h (swapped (getCore s core)) := by
  have hL := launched_m (a1 := 0) (a2 := 0) hr rfl
  rw [exec_of_slotsOf rfl]
  refine endsAs_of_setCore (d := swapped (getCore (issuedBy s core { m := .mswap, mh := h }) core)) hr hL rfl
    (canComplete_alone hL.flight_eq rfl) (.refl _ _) ?_ ⟨rfl, rfl, rfl⟩ (plain_swapped hL.plain_eq)
  simp only [completeOp, meet_launched hr.issues hL]
  rfl

/-- Settles O8: each of the two is alone in flight, so nothing holds its completion back. -/
theorem stationarySetResults : Obligations.StationarySetResults :=
  ⟨mld_result, mswap_result⟩

end Sys2Proof.Machine
end


section
/-! PROOFS. O10: accumulator rows at the commit of a chain. A commit writes each row of its range into the pair's other physical row and flips the pair
(`flipRow`), so the rows of its range are in place and the rows of every other pair are read as before. -/

namespace Sys2Proof.Machine

/-! ### Bytes read after a write of a run -/

theorem length_memReads (m : Memory) (a n : Nat) : (memReads m a n).length = n := length_smTake _ _ _ _

theorem Memory.rises {m : Memory} (h : m.wf = true) : m.Pairwise (fun p q => p.1 < q.1) := ((smWf_iff memDefault m).mp h).1

theorem memReads_memWrites_same {m : Memory} (h : m.wf = true) (a : Nat) (bs : List Byte) : memReads (memWrites m a bs) a bs.length = bs := by
  rw [memReads_eq _ _ _ (Memory.rises (Memory.wf_writes m a bs h))]
  refine List.ext_getElem (by simp) fun i _ hi => ?_
  simp only [List.getElem_map, List.getElem_range', Nat.one_mul, memRead_writes_in m a bs i hi]
  simp [hi]

theorem memReads_memWrites_apart {m : Memory} (h : m.wf = true) {a b n : Nat} {bs : List Byte} (hab : b + n ≤ a ∨ a + bs.length ≤ b) :
    memReads (memWrites m a bs) b n = memReads m b n := by
  rw [memReads_eq _ _ _ (Memory.rises (Memory.wf_writes m a bs h)), memReads_eq _ _ _ (Memory.rises h)]
  refine List.map_congr_left fun x hx => memRead_writes_out m a bs x ?_
  obtain ⟨hlo, hhi⟩ := List.mem_range'_1.mp hx
  omega

/-! ### The row mapping (R97, R98) -/

theorem pairRow_mod (j : Nat) : pairRow j % 1024 = j % 1024 := by
  unfold pairRow
  split <;> omega

theorem physRow_mod (c : Core) (j : Nat) : physRow c j % 1024 = j % 1024 := by
  unfold physRow
  split_ifs <;> omega

/-- A core's accumulator and its row mapping are in their canonical form. -/
def AccWf (c : Core) : Prop := c.acc.wf = true ∧ smWf false c.flips = true

theorem accWf_of_coreWf {c : Core} (h : coreWf c = true) : AccWf c := by
  simp only [coreWf, Bool.and_eq_true] at h
  exact ⟨h.1.2, h.2⟩

/-- One working row put into its pair's physical row, and the pair flipped. -/
def flipRow (bad : Bool) (j : Nat) (bs : List Byte) (c : Core) : Core :=
  { c with
    acc := memWrites c.acc (accRowAddr (physRow c (pairRow j))) bs
    accPoison := smSet false c.accPoison (physRow c (pairRow j)) (bad || smGet false c.accPoison (physRow c (pairRow j)))
    flips := smSet false c.flips (j % 1024) (!smGet false c.flips (j % 1024)) }

theorem flipRows_cons (bad : Bool) (j : Nat) (bs : List Byte) (l : List (Nat × List Byte)) (c : Core) :
    flipRows bad ((j, bs) :: l) c = flipRows bad l (flipRow bad j bs c) := rfl

theorem accWf_flipRow {c : Core} (h : AccWf c) (bad : Bool) (j : Nat) (bs : List Byte) : AccWf (flipRow bad j bs c) :=
  ⟨Memory.wf_writes _ _ _ h.1, smWf_smSet _ _ _ _ h.2⟩

theorem physRow_flipRow_same {c : Core} (h : AccWf c) (bad : Bool) {j : Nat} (hj : j < 2048) (bs : List Byte) :
    physRow (flipRow bad j bs c) j = physRow c (pairRow j) := by
  simp only [physRow, flipRow, smGet_smSet_same _ _ _ _ h.2, pairRow_mod]
  cases smGet false c.flips (j % 1024) <;> simp only [pairRow] <;> split_ifs <;> simp_all
  omega

theorem physRow_flipRow_ne (c : Core) (bad : Bool) {i j : Nat} (hij : i % 1024 ≠ j % 1024) (bs : List Byte) :
    physRow (flipRow bad j bs c) i = physRow c i := by
  simp only [physRow, flipRow, smGet_smSet_ne _ _ _ _ _ hij]

theorem accRow_flipRow_same {c : Core} (h : AccWf c) (bad : Bool) {j : Nat} (hj : j < 2048) {bs : List Byte} (hbs : bs.length = 256) :
    accRow (flipRow bad j bs c) j = bs := by
  rw [accRow, physRow_flipRow_same h bad hj, ← hbs]
  exact memReads_memWrites_same h.1 _ bs

/-- A flip leaves every row of another pair as it is (R98). -/
theorem accRow_flipRow_ne {c : Core} (h : AccWf c) (bad : Bool) {i j : Nat} (hij : i % 1024 ≠ j % 1024) {bs : List Byte} (hbs : bs.length = 256) :
    accRow (flipRow bad j bs c) i = accRow c i := by
  have hne : physRow c i ≠ physRow c (pairRow j) := fun e => hij (by rw [← physRow_mod c i, e, physRow_mod, pairRow_mod])
  rw [accRow, physRow_flipRow_ne c bad hij]
  refine memReads_memWrites_apart h.1 ?_
  simp only [accRowAddr, hbs]
  omega

/-- What a commit leaves alone: rows whose pair it does not flip. -/
theorem accRow_flipRows_ne (bad : Bool) {i : Nat} (l : List (Nat × List Byte)) : ∀ {c : Core}, AccWf c →
    (∀ p ∈ l, p.2.length = 256) → (∀ p ∈ l, i % 1024 ≠ p.1 % 1024) → accRow (flipRows bad l c) i = accRow c i := by
  induction l with
  | nil => exact fun _ _ _ => rfl
  | cons p l ih =>
    intro c h hlen hne
    rw [flipRows_cons, ih (accWf_flipRow h _ _ _) (fun q hq => hlen q (.tail _ hq)) (fun q hq => hne q (.tail _ hq)),
      accRow_flipRow_ne h bad (hne p (.head _)) (hlen p (.head _))]

/-- What a commit puts in place: each row of its list, where no two share a pair. -/
theorem accRow_flipRows_mem (bad : Bool) {p : Nat × List Byte} (l : List (Nat × List Byte)) : ∀ {c : Core}, AccWf c →
    (∀ q ∈ l, q.2.length = 256 ∧ q.1 < 2048) → l.Pairwise (fun q r => q.1 % 1024 ≠ r.1 % 1024) → p ∈ l →
    accRow (flipRows bad l c) p.1 = p.2 := by
  induction l with
  | nil => exact fun _ _ _ hp => absurd hp List.not_mem_nil
  | cons q l ih =>
    intro c h hok hpw hp
    obtain ⟨hq, hpw⟩ := List.pairwise_cons.mp hpw
    rw [flipRows_cons]
    rcases List.mem_cons.mp hp with rfl | hp
    · obtain ⟨hlen, hlt⟩ := hok _ (.head _)
      rw [accRow_flipRows_ne bad l (accWf_flipRow h _ _ _) (fun r hr => (hok r (.tail _ hr)).1) hq, accRow_flipRow_same h bad hlt hlen]
    · exact ih (accWf_flipRow h _ _ _) (fun r hr => hok r (.tail _ hr)) hpw hp

/-- A commit changes a core's accumulator, its marks and its row mapping only. -/
theorem flipRows_frame (bad : Bool) (l : List (Nat × List Byte)) : ∀ c : Core, ∃ a q f,
    flipRows bad l c = { c with acc := a, accPoison := q, flips := f } := by
  induction l with
  | nil => exact fun c => ⟨c.acc, c.accPoison, c.flips, rfl⟩
  | cons p l ih => exact fun c => ih (flipRow bad p.1 p.2 c)

/-! ### Bytes as FP32 rows -/

theorem chunksGo_eq (w : Nat) : ∀ (n : Nat) (l : List Byte), l.length = w * n →
    chunksGo w n l = (List.range n).map (fun k => slice l (w * k) w) := by
  intro n
  induction n with
  | zero => exact fun _ _ => rfl
  | succ n ih =>
    intro l hl
    have hw : w ≤ l.length := by rw [hl]; exact Nat.le_mul_of_pos_right w (Nat.succ_pos n)
    have hrest : (l.drop w).length = w * n := by rw [List.length_drop, hl, Nat.mul_succ, Nat.add_sub_cancel]
    have hcut : ∀ k, slice (l.drop w) (w * k) w = slice l (w * (k + 1)) w := fun k => by
      simp only [slice, List.drop_drop, Nat.mul_succ, Nat.add_comm]
    rw [chunksGo, ih _ hrest, List.range_succ_eq_map, List.map_cons, List.map_map]
    refine congrArg₂ List.cons ?_ (List.map_congr_left fun k _ => hcut k)
    simp [slice, zeros, hw]

/-- A run of bytes as FP32 rows numbered from `first`. -/
theorem asRows_eq {n : Nat} {bs : List Byte} (h : bs.length = 256 * n) (first : Nat) :
    asRows first bs = (List.range n).map (fun k => (first + k, slice bs (256 * k) 256)) := by
  have hcount : ceilDiv bs.length 256 = n := by
    rw [ceilDiv, h]
    omega
  rw [asRows, chunks, hcount, chunksGo_eq 256 n bs h]
  exact List.ext_getElem (by simp) fun k _ _ => by simp

/-- The commit of a run of rows: the rows of the run are in place. -/
theorem accRow_commit {c : Core} (h : AccWf c) (bad : Bool) {first n : Nat} {bs : List Byte} (hbs : bs.length = 256 * n)
    (hfit : first % 1024 + n ≤ 1024) (hlast : first + n ≤ 2048) {k : Nat} (hk : k < n) :
    accRow (flipRows bad (asRows first bs) c) (first + k) = slice bs (256 * k) 256 := by
  rw [asRows_eq hbs]
  refine accRow_flipRows_mem (p := (first + k, slice bs (256 * k) 256)) bad _ h ?_ ?_ (List.mem_map.mpr ⟨k, List.mem_range.mpr hk, rfl⟩)
  · intro q hq
    obtain ⟨i, hi, rfl⟩ := List.mem_map.mp hq
    have := List.mem_range.mp hi
    exact ⟨Tests.slice_length _ _ _, by change first + i < 2048; omega⟩
  · rw [List.pairwise_map]
    refine (List.pairwise_lt_range).imp_of_mem fun {i j} hi hj hij => ?_
    have := List.mem_range.mp hi
    have := List.mem_range.mp hj
    change (first + i) % 1024 ≠ (first + j) % 1024
    omega

/-- The commit of a run of rows: rows of other pairs keep their bytes. -/
theorem accRow_commit_ne {c : Core} (h : AccWf c) (bad : Bool) {first n : Nat} {bs : List Byte} (hbs : bs.length = 256 * n) {j : Nat}
    (hj : ∀ k, k < n → j % 1024 ≠ (first + k) % 1024) : accRow (flipRows bad (asRows first bs) c) j = accRow c j := by
  rw [asRows_eq hbs]
  refine accRow_flipRows_ne bad _ h (fun q hq => ?_) (fun q hq => ?_)
  all_goals obtain ⟨k, hk, rfl⟩ := List.mem_map.mp hq
  · exact Tests.slice_length _ _ _
  · exact hj k (List.mem_range.mp hk)

/-! ### Rows of a pass -/

theorem length_leBytes (n v : Nat) : (leBytes n v).length = n := by
  induction n generalizing v with
  | zero => rfl
  | succ n ih => simp [leBytes, ih]

theorem length_passRow (p : Pass) (st : StatSet) (region : List Byte) (scale : Option Nat) (m : Nat) (prior : List Byte) :
    (passRow p st region scale m prior).length = 256 * rowUnits p.mode := by
  simp only [passRow, rowUnits, List.length_flatMap, length_leBytes]
  split <;> simp

theorem length_passRows_flatten (p : Pass) (st : StatSet) (region scales : List Byte) (work : List (List Byte)) :
    (passRows p st region scales work).flatten.length = 256 * rowUnits p.mode * work.length := by
  simp [passRows, List.length_flatten, Function.comp_def, length_passRow, Nat.mul_comm]

end Sys2Proof.Machine
end


section
/-! PROOFS. O10: MMUL and MMULZ. Alone in its core an MMUL runs its pass (`runPass_alone`), commits its chain (`commitChain_one`) and leaves flight. -/

namespace Sys2Proof.Machine

/-! ### A pass alone in its core -/

/-- The core with what a pass left over of its counters, and the time at which it ended. -/
def passLeft (gated masked at_ ns : Nat) (c : Core) : Core := { c with gatedRem := gated, maskedRem := masked, passAt := at_, passNs := ns }

/-- The core with its pass's working rows fresh and what the pass left over of its counters. -/
def passRan (first n gated masked : Nat) (c : Core) : Core := passLeft gated masked 0 0 (freshRows first n c)

theorem plain_passRan {c d : Core} (h : plain c = plain d) (first n g k : Nat) : plain (passRan first n g k c) = plain (passRan first n g k d) := by
  change plain (passRan first n g k (plain c)) = plain (passRan first n g k (plain d))
  rw [h]

/-- An MMUL in flight after its pass: its set and the bytes it streamed are kept (R119). -/
def passed (o : FOp) (st : StatSet) (used : List Byte) : FOp := { o with started := true, outcome := .clean, set := st, snap := used, olds := [] }

/-- The working rows lie in the other half of each pair: clearing their marks leaves the marks of the range itself. -/
theorem accBad_freshRows {c : Core} {first n : Nat} (hfit : first % 1024 + n ≤ 1024) (hlast : first + n ≤ 2048)
    {i : Nat} (hi : i < n) : accBad (freshRows first n c) (first + i) = accBad c (first + i) := by
  have hapart : ∀ k, k < n → physRow c (first + i) ≠ physRow c (pairRow (first + k)) := by
    intro k hk he
    have hmod : (first + i) % 1024 = (first + k) % 1024 := by rw [← physRow_mod c (first + i), he, physRow_mod, pairRow_mod]
    obtain rfl : i = k := by omega
    simp only [physRow, pairRow_mod] at he
    cases hflip : smGet false c.flips ((first + i) % 1024) <;> simp only [hflip, pairRow, if_true, Bool.false_eq_true, if_false] at he <;>
      split_ifs at he <;> omega
  have hkeep : ∀ (ks : List Nat) (m : SMap Bool), (∀ k ∈ ks, k < n) →
      smGet false (ks.foldl (fun m k => smSet false m (physRow c (pairRow (first + k))) false) m) (physRow c (first + i))
        = smGet false m (physRow c (first + i)) := by
    intro ks
    induction ks with
    | nil => exact fun _ _ => rfl
    | cons k ks ih =>
      intro m hks
      rw [List.foldl_cons, ih _ (fun x hx => hks x (.tail _ hx)), smGet_smSet_ne _ _ _ _ _ (hapart k (hks k (.head _)))]
  exact hkeep (List.range n) c.accPoison fun k hk => List.mem_range.mp hk

/-- An MMUL that is alone in its core, whose range lies in one half of the accumulator, and which nothing poisoned stands against. -/
structure PassAlone (s : State) (core : Nat) (o : FOp) (m : MOp) (p : Pass) (first n : Nat) : Prop where
  flight : (getCore s core).flight = [o]
  lcu : (getCore s core).lcu = []
  body : o.body = .m m
  pass : passOf m o.addr2.toNat = some p
  range : mmulRange o.body = some (first, n)
  fits : first % 1024 + n ≤ 1024
  last : first + n ≤ 2048
  waits : o.started = false
  olds : o.olds = []
  st : (getCore s core).st = .issuing
  set : (getCore s core).act.faulty = false
  buf : ∀ u, smGet false (getCore s core).bufPoison u = false
  acc : ∀ j, accBad (getCore s core) j = false
  sound : s.mem.upsets = []
  det : DetFree s

section
variable {s : State} {core : Nat} {o : FOp} {m : MOp} {p : Pass} {first n : Nat}

theorem isMmul_of_range (h : mmulRange o.body = some (first, n)) : isMmul o = true := by
  unfold mmulRange at h
  split at h
  · next hbody => simp [isMmul, hbody]
  · cases h

/-- The bytes that a pass streams, its row scales behind its region. -/
def streamed (c : Core) (o : FOp) (p : Pass) : List Byte :=
  bufRead c o.addr1.toNat (regionBytes p) ++ bufRead c o.addr2.toNat (if p.rowscale then p.rows else 0)

/-- Alone in flight the pass may run. -/
theorem passReady_alone (h : PassAlone s core o m p first n) : passReady (getCore s core) o = true := by
  simp [passReady, passFree, h.range, earlier_alone h.flight, h.lcu]

theorem raceRegion_nil (ctr fmt rows : Nat) (cur : List Byte) : raceRegion ctr fmt rows [] cur = cur := rfl

/-- The end of a pass without its touches of the buffer: the operation `o` as its pass leaves it, the counters, and what `c` had left over of them. -/
def passEnds (s : State) (core : Nat) (o : FOp) (p : Pass) (c : Core) (ctr : Nat) : State :=
  let ran := bump (modCore s core (fun c => setOp c o)) (aArrBeats core) p.rows
  let gated := bump64 ran (aArrGated core) c.gatedRem (gatedCount p o.set (o.snap.take (regionBytes p)) (o.snap.drop (regionBytes p)))
  let masked := bump64 gated.1 (aArrMasked core) c.maskedRem (maskedCount p)
  modCore masked.1 core (passLeft gated.2 masked.2 (now masked.1) (Config.freeWord ctr).toNat)

theorem passEnds_core (hst : (getCore s core).st ≠ .idle) (o : FOp) (p : Pass) (c : Core) (ctr : Nat) : ∃ g k pa pn,
    getCore (passEnds s core o p c ctr) core = passLeft g k pa pn (setOp (getCore s core) o) := by
  have hset : getCore (modCore s core fun c => setOp c o) core = setOp (getCore s core) o :=
    getCore_modCore _ _ _ (ne_init_of_st (setOp _ _) hst)
  have hcore : ∀ g k pa pn (t : State), getCore t core = setOp (getCore s core) o →
      getCore (modCore t core (passLeft g k pa pn)) core = passLeft g k pa pn (setOp (getCore s core) o) := fun g k pa pn t ht => by
    rw [getCore_modCore _ _ _ (ne_init_of_st (passLeft _ _ _ _ _) (by rw [ht]; exact hst)), ht]
  exact ⟨_, _, _, _, hcore _ _ _ _ _ (by simp only [bump64, getCore_bump, hset])⟩

theorem detFree_passEnds (hdet : DetFree s) (core : Nat) (o : FOp) (p : Pass) (c : Core) (ctr : Nat) : DetFree (passEnds s core o p c ctr) := by
  simpa [DetFree, passEnds, bump64] using hdet

/-- The pass runs: its set and its bytes are kept, the rows themselves stay as they are (R119, R120). -/
theorem runPass_alone (h : PassAlone s core o m p first n) : ∃ g k,
    plain (getCore (runPass s core o .clean) core) = plain (passRan first n g k (getCore s core)) ∧
    (getCore (runPass s core o .clean) core).s = (getCore s core).s ∧
    (getCore (runPass s core o .clean) core).flight = [passed o (getCore s core).act (streamed (getCore s core) o p)] ∧
    (getCore (runPass s core o .clean) core).st = .issuing ∧ DetFree (runPass s core o .clean) := by
  have hshadow : usesShadow (getCore s core) o = false := by simp [usesShadow, earlier_alone h.flight]
  have hfirst : ((getCore s core).flight.all fun x => !(isMmul x && x.chain == o.chain && decide (x.ord < o.ord))) = true := by
    simp [h.flight]
  have hfresh : getCore (modCore s core (freshRows first n)) core = freshRows first n (getCore s core) :=
    getCore_modCore _ _ _ (ne_init_of_st _ (by change (getCore s core).st ≠ _; rw [h.st]; decide))
  have hmeet : ∀ reads, meet (modCore s core (freshRows first n)) core reads = modCore s core (freshRows first n) := fun reads =>
    meet_nil _ _ _ h.sound
  have hprior : (if p.zero = true then [] else [(first, n)]).findSome? (fun r => accFirstBad (freshRows first n (getCore s core)) r.1 r.2) = none := by
    split
    · rfl
    · simp only [List.findSome?_cons, List.findSome?_nil]
      have hnone : accFirstBad (freshRows first n (getCore s core)) first n = none := by
        refine List.find?_eq_none.mpr fun j hj => ?_
        obtain ⟨i, hi, rfl⟩ := List.mem_map.mp hj
        rw [accBad_freshRows h.fits h.last (List.mem_range.mp hi), h.acc]
        decide
      rw [hnone]
  have hnopoison : ∀ a k, bufFirstPoison (freshRows first n (getCore s core)) a k = none := fun a k => bufFirstPoison_none h.buf a k
  let s0 := (draw (modCore s core (freshRows first n))).2
  let ctr := (draw (modCore s core (freshRows first n))).1
  let o2 := passed o (getCore s core).act (streamed (getCore s core) o p)
  have hrange := h.range
  rw [h.body] at hrange
  have hrun : runPass s core o .clean = touchAll core (opTouches o) (passEnds s0 core o2 p (getCore s core) ctr) := by
    unfold runPass
    simp only [h.body, hrange, h.pass, hshadow, hfirst, h.set, arrayEvent, hmeet, hfresh, hnopoison, hprior, h.olds, List.map_nil, raceRegion_nil,
      raceOlds_nil, if_true, Bool.false_eq_true, if_false, ite_self, Option.orElse_none]
    simp only [o2, s0, ctr, passEnds, passed, h.body]
    rfl
  have hdraw : getCore s0 core = freshRows first n (getCore s core) := hfresh
  have hst : (getCore s0 core).st ≠ .idle := by
    rw [hdraw]
    change (getCore s core).st ≠ _
    rw [h.st]
    decide
  obtain ⟨g, k, pa, pn, hcore⟩ := passEnds_core hst o2 p (getCore s core) ctr
  obtain ⟨hplain, hs, hflight, hst', hdet⟩ := touchAll_core core (opTouches o) _ (detFree_passEnds (s := s0) h.det core o2 p (getCore s core) ctr)
  rw [hcore, hdraw] at hplain hs hflight hst'
  rw [hrun]
  refine ⟨g, k, hplain, hs, hflight.trans ?_, hst'.trans h.st, hdet (detFree_passEnds (s := s0) h.det ..)⟩
  simp [passLeft, setOp, freshRows, h.flight, o2, passed]
end

/-! ### The units settle -/

theorem canComplete_mmul (c : Core) {o : FOp} (h : isMmul o = true) : canComplete c o = false := by
  unfold isMmul at h
  split at h
  · next hbody => simp [canComplete, hbody]
  · cases h

section
variable {s : State} {core : Nat} {o : FOp}

/-- An MMUL that waits for its pass alone runs it. -/
theorem settleUnit_pass (hf : (getCore s core).flight = [o]) (hm : isMmul o = true) (hw : o.started = false)
    (hr : passReady (getCore s core) o = true) (k : Nat) : settleUnit core (k + 1) s = settleUnit core k (runPass s core o .clean) := by
  simp [settleUnit, hf, canComplete_mmul _ hm, hm, hw, hr]

/-- An MMUL alone whose pass has run commits its chain (R100). -/
theorem settleUnit_commit (hf : (getCore s core).flight = [o]) (hm : isMmul o = true) (hw : o.started = true) (k : Nat) :
    settleUnit core (k + 1) s = settleUnit core k (commitChain s core o.chain) := by
  simp [settleUnit, hf, canComplete_mmul _ hm, hm, hw, oldestChain]

/-- The member of a chain that has left flight: its done field has counted (R24, R100). -/
theorem finishAll_one (hdet : DetFree s) (hst : (getCore s core).st = .issuing) (hf : (getCore s core).flight = [o])
    (hfit : o.done.toNat < 48 → (smGet 0 (getCore s core).s o.done.toNat).toNat < 65535) :
    getCore (finishAll core [o] s) core = { getCore s core with flight := [], s := doneTo (getCore s core).s o.done } := by
  have hdrop : getCore (modCore s core fun c => { c with flight := c.flight.filter fun x => !([o].map fun o => o.ord).contains x.ord }) core
      = { getCore s core with flight := [] } := by
    rw [getCore_modCore _ _ _ (ne_init_of_st _ (by change (getCore s core).st ≠ _; rw [hst]; decide))]
    simp [hf]
  change getCore (doneAdvance _ core o.done) core = _
  rw [doneAdvance_core _ core o.done (by exact hdet) (by rw [hdrop]; change (getCore s core).st ≠ _; rw [hst]; decide) (by rw [hdrop]; exact hfit), hdrop]

variable {zero : Bool} {ar : BitVec 4} {off : BitVec 16} {rows1 dest : BitVec 11} {fmt : BitVec 4} {acc : BitVec 3} {d1 c1 : BitVec 6}
  {rs : Bool} {sar : BitVec 4} {first n : Nat} {p : Pass}

/-- A chain of one member puts the rows of its pass in place (R98, R125). -/
theorem commitChain_one (hf : (getCore s core).flight = [o]) (hbody : o.body = .m (.mmul zero ar off rows1 dest fmt acc d1 c1 rs sar))
    (hrange : mmulRange o.body = some (first, n)) (hp : passOf (.mmul zero ar off rows1 dest fmt acc d1 c1 rs sar) o.addr2.toNat = some p) :
    commitChain s core o.chain = finishAll core [o] (setCore s core (flipRows (o.outcome == .statParity)
      (asRows first (passRows p o.set (o.snap.take (regionBytes p)) (o.snap.drop (regionBytes p))
        (workRows (getCore s core) first n (rowUnits acc.toNat))).flatten) (getCore s core))) := by
  have hms : chainMembers (getCore s core) o.chain = [o] := by simp [chainMembers, hf, isMmul_of_range hrange]
  rw [hbody] at hrange
  simp only [commitChain, hms, hbody, hrange, chainRun, hp, List.any_cons, List.any_nil, Bool.or_false]
end

/-! ### The result of MMUL and MMULZ -/

section
variable {s : State} {core : Nat} {h : Hdr} {zero : Bool} {areg : BitVec 4} {off : BitVec 16} {rows1 dest : BitVec 11} {fmt : BitVec 4}
  {acc : BitVec 3} {depth1 cols1 : BitVec 6} {rs : Bool} {sareg : BitVec 4}

theorem passes_none {tag fmt dim : Bool} (h : passes tag fmt dim = none) : tag = false ∧ fmt = false ∧ dim = false := by
  cases tag <;> cases fmt <;> cases dim <;> simp_all [passes]

theorem check6M_none {c : Core} {e : Slots} (h : check6 s c e = none) : check6M c e.m = none := by
  cases hm : check6M c e.m with
  | none => rfl
  | some code => simp [check6, hm] at h

/-- The checks of step 6 and of the operand ranges keep the destination in one half of the accumulator (R27, R88, R114). -/
theorem mmul_fits (hi : SlotIssues s core { m := .mmul zero areg off rows1 dest fmt acc depth1 cols1 rs sareg, mh := h })
    (hp : predTrue (getCore s core).p h.pred = true) :
    (fpRows (accTally acc) dest.toNat (rows1.toNat + 1)).1 % 1024 + (fpRows (accTally acc) dest.toNat (rows1.toNat + 1)).2 ≤ 1024 ∧
    (fpRows (accTally acc) dest.toNat (rows1.toNat + 1)).1 + (fpRows (accTally acc) dest.toNat (rows1.toNat + 1)).2 ≤ 2048 := by
  have hrange : dest.toNat + rows1.toNat + 1 ≤ accRows (accTally acc) := by
    have hbad := hi.operands
    simp only [operandBad, mBad, Bool.or_eq_false_iff, decide_eq_false_iff_not] at hbad
    omega
  have hhalf : ¬(dest.toNat < (if accTally acc then 256 else 1024) ∧ (if accTally acc then 256 else 1024) < dest.toNat + rows1.toNat + 1) := by
    have hcheck : check6M (getCore s core) (.mmul zero areg off rows1 dest fmt acc depth1 cols1 rs sareg) = none := by
      have hall := hi.passes6
      rw [show effSlots (getCore s core).p { m := .mmul zero areg off rows1 dest fmt acc depth1 cols1 rs sareg, mh := h } = _ by
        simp [effSlots, hp]; rfl] at hall
      exact check6M_none hall
    simp only [check6M] at hcheck
    split at hcheck
    · cases hcheck
    · have hdim := (passes_none hcheck).2.2
      simp only [Bool.or_eq_false_iff, Bool.and_eq_false_iff, decide_eq_false_iff_not] at hdim
      omega
  cases htally : accTally acc <;> simp only [htally, accRows, fpRows, if_true, Bool.false_eq_true, if_false] at hrange hhalf ⊢ <;> omega
end

theorem plain_lcu {c d : Core} (h : plain c = plain d) : c.lcu = d.lcu := congrArg (fun x => x.lcu) h
theorem plain_act {c d : Core} (h : plain c = plain d) : c.act = d.act := congrArg (fun x => x.act) h
theorem plain_acc {c d : Core} (h : plain c = plain d) : c.acc = d.acc := congrArg (fun x => x.acc) h
theorem plain_flips {c d : Core} (h : plain c = plain d) : c.flips = d.flips := congrArg (fun x => x.flips) h
theorem plain_accPoison {c d : Core} (h : plain c = plain d) : c.accPoison = d.accPoison := congrArg (fun x => x.accPoison) h

theorem physRow_congr {c d : Core} (h : c.flips = d.flips) (j : Nat) : physRow c j = physRow d j := by rw [physRow, physRow, h]

theorem accRow_congr {c d : Core} (hacc : c.acc = d.acc) (hflips : c.flips = d.flips) (j : Nat) : accRow c j = accRow d j := by
  rw [accRow, accRow, hacc, physRow_congr hflips]

theorem workRows_congr {c d : Core} (hacc : c.acc = d.acc) (hflips : c.flips = d.flips) (first n units : Nat) :
    workRows c first n units = workRows d first n units := by
  simp only [workRows, accRowsAt, accRow_congr hacc hflips]

theorem length_workRows (c : Core) (first n units : Nat) : (workRows c first n units).length = n / units := by simp [workRows]

/-- The accumulator part of a core: its rows, its marks and its row mapping, and what passes left over of their counters. -/
def withAcc (c d : Core) : Core :=
  { c with acc := d.acc, accPoison := d.accPoison, flips := d.flips, gatedRem := d.gatedRem, maskedRem := d.maskedRem }

/-- A pass and its commit change the accumulator part of a core only. -/
theorem plain_committed {c d : Core} {first n g k : Nat} (h : plain d = plain (passRan first n g k c)) (bad : Bool) (l : List (Nat × List Byte)) :
    plain (flipRows bad l d) = plain (withAcc c (flipRows bad l d)) := by
  obtain ⟨a, q, f, he⟩ := flipRows_frame bad l d
  rw [he]
  change { plain d with acc := a, accPoison := q, flips := f }
    = { plain c with acc := a, accPoison := q, flips := f, gatedRem := (plain d).gatedRem, maskedRem := (plain d).maskedRem }
  rw [h]
  rfl

/-- The zero points or the scales' address that an MMUL captures (R175). -/
def capturedZp (c : Core) (fmt : BitVec 4) (rs : Bool) (sareg : BitVec 4) : Word64 :=
  if !rs && fmtInt fmt.toNat && sareg == 0 then 0 else smGet 0 c.a sareg.toNat

theorem capturedZp_toNat (c : Core) (fmt : BitVec 4) (rs : Bool) (sareg : BitVec 4) :
    (capturedZp c fmt rs sareg).toNat = if rs = false ∧ fmtInt fmt.toNat = true ∧ sareg = 0 then 0 else (smGet 0 c.a sareg.toNat).toNat := by
  simp only [capturedZp, Bool.and_eq_true, Bool.not_eq_true', beq_iff_eq, and_assoc]
  split <;> rfl

section
variable {s : State} {core : Nat} {h : Hdr} {zero : Bool} {areg : BitVec 4} {off : BitVec 16} {rows1 dest : BitVec 11} {fmt : BitVec 4}
  {acc : BitVec 3} {depth1 cols1 : BitVec 6} {rs : Bool} {sareg : BitVec 4}

/-- What stands against no MMUL: its buffer and accumulator are sound, its set is not faulty, and no copy is at work. -/
structure ArraySound (c : Core) : Prop where
  buf : ∀ u, smGet false c.bufPoison u = false
  acc : ∀ j, accBad c j = false
  set : c.act.faulty = false
  lcu : c.lcu = []
  wf : coreWf c = true

theorem rowUnits_acc (acc : BitVec 3) : rowUnits acc.toNat = if accTally acc then 4 else 1 := by
  revert acc
  decide

/-- The rows of a pass over its whole destination fill its FP32 rows. -/
theorem length_mmulWork {c : Core} {st : StatSet} {region scales : List Byte} {zp : Nat} {p : Pass} {first n : Nat}
    (hp : passOf (.mmul zero areg off rows1 dest fmt acc depth1 cols1 rs sareg) zp = some p)
    (hrange : fpRows (accTally acc) dest.toNat (rows1.toNat + 1) = (first, n)) :
    (passRows p st region scales (workRows c first n (rowUnits acc.toNat))).flatten.length = 256 * n := by
  obtain rfl := Option.some.inj hp
  rw [length_passRows_flatten, length_workRows, rowUnits_acc]
  cases htally : accTally acc <;> simp only [fpRows, htally, if_true, Bool.false_eq_true, if_false, Prod.mk.injEq] at hrange ⊢ <;> omega

/-- MMUL and MMULZ as they run alone: launched, passed, committed. -/
theorem mmul_result (hr : RunsAlone s core { m := .mmul zero areg off rows1 dest fmt acc depth1 cols1 rs sareg, mh := h } h)
    (hc : ArraySound (getCore s core)) {p : Pass} {first n : Nat}
    (hp : passOf (.mmul zero areg off rows1 dest fmt acc depth1 cols1 rs sareg) (capturedZp (getCore s core) fmt rs sareg).toNat = some p)
    (hrange : fpRows (accTally acc) dest.toNat (rows1.toNat + 1) = (first, n)) :
    let work := (passRows p (getCore s core).act (bufRead (getCore s core) (resolve (getCore s core) areg off).toNat (regionBytes p))
      (bufRead (getCore s core) (capturedZp (getCore s core) fmt rs sareg).toNat (if p.rowscale then p.rows else 0))
      (workRows (getCore s core) first n (rowUnits acc.toNat))).flatten
    ∃ t, onCore s core (soloSlot s core { m := .mmul zero areg off rows1 dest fmt acc depth1 cols1 rs sareg, mh := h }) = .next t ∧
      (∀ k, k < n → accRow (getCore t core) (first + k) = slice work (256 * k) 256) ∧
      (∀ j, (∀ k, k < n → j % 1024 ≠ (first + k) % 1024) → accRow (getCore t core) j = accRow (getCore s core) j) ∧
      EndsAs s t core h (withAcc (getCore s core) (getCore t core)) := by
  intro work
  let m : MOp := .mmul zero areg off rows1 dest fmt acc depth1 cols1 rs sareg
  let o := opOf s core (.m m) h (resolve (getCore s core) areg off) (capturedZp (getCore s core) fmt rs sareg)
  let s1 := issuedBy s core { m := m, mh := h }
  have hL : Launched s core s1 o := launched_m hr rfl
  have hfits := mmul_fits hr.issues hr.pred
  rw [hrange] at hfits
  have hflips := plain_flips hL.plain_eq
  have halone : PassAlone s1 core o m p first n :=
    { flight := hL.flight_eq, lcu := (plain_lcu hL.plain_eq).trans hc.lcu, body := rfl, pass := hp, range := congrArg some hrange
      fits := hfits.1, last := hfits.2, waits := rfl, olds := rfl, st := hL.st_eq, set := by rw [plain_act hL.plain_eq]; exact hc.set
      buf := by rw [plain_bufPoison hL.plain_eq]; exact hc.buf
      acc := fun j => by rw [accBad, plain_accPoison hL.plain_eq, physRow_congr hflips]; exact hc.acc j
      sound := by rw [hL.mem_eq]; exact hr.issues.sound
      det := hL.det }
  obtain ⟨g, k, hplain, hs, hflight, hst, hdet⟩ := runPass_alone halone
  let s2 := runPass s1 core o .clean
  let o2 := passed o (getCore s1 core).act (streamed (getCore s1 core) o p)
  have hran : plain (getCore s2 core) = plain (passRan first n g k (getCore s core)) := hplain.trans (plain_passRan hL.plain_eq _ _ _ _)
  have hacc2 : (getCore s2 core).acc = (getCore s core).acc := (plain_acc hran).trans rfl
  have hflips2 : (getCore s2 core).flips = (getCore s core).flips := (plain_flips hran).trans rfl
  have hwf : AccWf (getCore s2 core) := by
    rw [AccWf, hacc2, hflips2]
    exact accWf_of_coreWf hc.wf
  have hwork : (passRows p o2.set (o2.snap.take (regionBytes p)) (o2.snap.drop (regionBytes p))
      (workRows (getCore s2 core) first n (rowUnits acc.toNat))).flatten = work := by
    have hset : o2.set = (getCore s core).act := plain_act hL.plain_eq
    have hsnap : o2.snap = bufRead (getCore s core) (resolve (getCore s core) areg off).toNat (regionBytes p)
        ++ bufRead (getCore s core) (capturedZp (getCore s core) fmt rs sareg).toNat (if p.rowscale then p.rows else 0) := by
      simp only [o2, passed, streamed, bufRead, plain_buf hL.plain_eq]
      rfl
    rw [hset, hsnap, List.take_left' (length_bufRead _ _ _), List.drop_left' (length_bufRead _ _ _),
      workRows_congr hacc2 hflips2]
  have hlen : work.length = 256 * n := length_mmulWork hp hrange
  let cc := flipRows false (asRows first work) (getCore s2 core)
  obtain ⟨a, q, f, hframe⟩ := flipRows_frame false (asRows first work) (getCore s2 core)
  have hput : getCore (setCore s2 core cc) core = cc := getCore_setCore _ _ _ (ne_init_of_st _ (by
    change (flipRows _ _ _).st ≠ _; rw [hframe]; change (getCore s2 core).st ≠ _; rw [hst]; decide))
  have hcommit : commitChain s2 core o2.chain = finishAll core [o2] (setCore s2 core cc) := by
    rw [commitChain_one (o := o2) hflight rfl (congrArg some hrange) hp, hwork]
    rfl
  have hcc : RunSame (getCore s2 core) cc := by simp only [cc, hframe]; exact ⟨rfl, rfl, rfl⟩
  obtain ⟨hccs, hccf, hccst⟩ := hcc
  have hdone := finishAll_one (s := setCore s2 core cc) (core := core) (o := o2) hdet (by rw [hput, hccst]; exact hst)
    (by rw [hput, hccf]; exact hflight) (by rw [hput, hccs, hs, hL.s_eq]; exact hr.done)
  rw [hput, hccs, hs, hL.s_eq] at hdone
  have hsettle : settleUnit core 64 s1 = finishAll core [o2] (setCore s2 core cc) := by
    rw [settleUnit_pass hL.flight_eq rfl rfl (passReady_alone halone), settleUnit_commit hflight rfl rfl, hcommit,
      settleUnit_rest (by rw [hdone])]
  have hrow : ∀ j, accRow (getCore (finishAll core [o2] (setCore s2 core cc)) core) j = accRow cc j := fun j => by rw [hdone]; rfl
  have hexec : onCore s core (soloSlot s core { m := m, mh := h }) = .next (finishAll core [o2] (setCore s2 core cc)) := by
    rw [onCore_enabled _ _ _ hr.issues.enabled, soloSlot_issues _ _ _ hr.issues]
    exact congrArg _ hsettle
  refine ⟨finishAll core [o2] (setCore s2 core cc), hexec, fun k hk => ?_, fun j hj => ?_, ?_⟩
  · rw [hrow]
    exact accRow_commit hwf false hlen hfits.1 hfits.2 hk
  · rw [hrow, accRow_commit_ne hwf false hlen hj, accRow_congr hacc2 hflips2]
  · constructor <;> rw [hdone]
    · exact plain_committed hran false (asRows first work)
    · rfl
end

/-- Settles O10: the operands that the statement names are those that the issue captures. -/
theorem matrixMultiplyResult : Obligations.MatrixMultiplyResult := by
  intro s core h zero areg off rows1 dest fmt acc depth1 cols1 rs sareg i hi hr hbuf hacc hset hlcu hwf c zp p r region scales work
  have hslot : slotsOf i = some (core, { m := .mmul zero areg off rows1 dest fmt acc depth1 cols1 rs sareg, mh := h }) := by
    subst hi
    cases zero <;> rfl
  have hzp : zp = (capturedZp c fmt rs sareg).toNat := (capturedZp_toNat c fmt rs sareg).symm
  have hscales : bufRead c (capturedZp c fmt rs sareg).toNat (if rs then rows1.toNat + 1 else 0) = scales := by
    cases rs
    · rfl
    · simp [scales, capturedZp]
  obtain ⟨t, hexec, hrows, hothers, hends⟩ := mmul_result hr ⟨hbuf, hacc, hset, hlcu, hwf⟩ (p := p) (first := r.1) (n := r.2)
    (by rw [← hzp]; rfl) rfl
  rw [exec_of_slotsOf hslot]
  refine ⟨t, hexec, fun k hk => (hrows k hk).trans ?_, hothers, hends⟩
  exact congrArg (fun x => slice (passRows p c.act region x (workRows c r.1 r.2 (rowUnits acc.toNat))).flatten (256 * k) 256) hscales

end Sys2Proof.Machine
end


section
/-! PROOFS. O19: the commit of a chain whose members disagree. The issue puts MMULs of one accumulation mode into a chain (`joinChain`, R100), but the statement
speaks of every state, and its premises name the mode of a chain's first member only. -/

namespace Sys2Proof.Machine

/-- The first member of the chain: mode 3, whose destination is one Tally row, four FP32 rows from row 0 on. -/
def tallyMember : FOp := { Tests.fop1 with body := .m (.mmul true 1 0 0 0 3 3 1 1 false 0) }

/-- The second member: mode 0, whose rows are one FP32 row each. -/
def fp32Member : FOp := { Tests.fop1 with ord := 1, body := .m (.mmul false 1 0 0 0 3 0 1 1 false 0) }

/-- A core with both members in one chain, and a byte of FP32 row 1 set. -/
def mixedChain : State :=
  Tests.rc { getCore Tests.rm 3 with st := .issuing, flight := [tallyMember, fp32Member], nextOrd := 2, nextChain := 1, acc := [(256, 5)], flips := [] }

theorem slice_past {l : List Byte} {a n : Nat} (h : l.length ≤ a) : slice l a n = zeros n := by
  simp [slice, List.drop_eq_nil_of_le h]

/-- The second member leaves one FP32 row of the Tally row, so the commit puts row 0 in place only. -/
theorem mixedChain_rows :
    (chainRun [tallyMember, fp32Member] (workRows (getCore mixedChain 3) 0 4 (rowUnits 3))).flatten.length = 256 := by
  decide +kernel

/-- Row 1 keeps its old bytes. -/
theorem mixedChain_row : (accRow (getCore (chainCommit mixedChain 3) 3) 1).head? = some 5 := by
  decide +kernel

/-- Refutes O19: in `mixedChain` row 1 lies in the range of the first member, and the commit does not put it in place. -/
theorem not_arrayStepResults : ¬ Obligations.ArrayStepResults := by
  rintro ⟨-, -, hcommit, -⟩
  obtain ⟨t, hexec, hrows⟩ := hcommit mixedChain 3 0 tallyMember [fp32Member] 0 4 true 1 0 0 0 3 3 1 1 false 0 (by decide +kernel) (by decide +kernel)
    (by decide +kernel) (by decide +kernel) (by decide +kernel) (by decide +kernel) rfl rfl (by decide)
  have ht : chainCommit mixedChain 3 = t := Host.Outcome.next.inj ((onCore_enabled mixedChain 3 _ (by decide +kernel)).symm.trans hexec)
  have hrow : accRow (getCore t 3) 1 = zeros 256 := (hrows 1 (by decide)).trans (slice_past (Nat.le_of_eq mixedChain_rows))
  have hold := mixedChain_row
  rw [ht, hrow] at hold
  exact absurd hold (by decide)

end Sys2Proof.Machine
end

section
/-! PROOFS. O59 (R76, R508, R512, R516, R521): no step changes the part or the repair map, or restores a fuse. Each function of the model is shown to keep
what is fixed, in the order of the model's files; then the few that burn fuses; then the step. -/

namespace Sys2Proof.Machine

/-- What is fixed at manufacture and what is burned into fuses (R2, R76, R508). -/
def fixedPart (s : State) : Bool × SMap (List Nat) × Fuses := (s.part832, s.repair, s.sec.fuses)

@[simp] theorem fixedPart_mk (a b c d e f g h i j k l m n o p q r t u v w) :
    fixedPart (State.mk a b c d e f g h i j k l m n o p q r t u v w) = (c, d, t.fuses) := Prod.ext rfl rfl

@[simp] theorem fixedPart_eta (s : State) : (s.part832, s.repair, s.sec.fuses) = fixedPart s := Prod.ext rfl rfl

@[simp] theorem fixedPart_ite (c : Prop) [Decidable c] (s t : State) : fixedPart (if c then s else t) = if c then fixedPart s else fixedPart t :=
  apply_ite _ _ _ _

@[simp] theorem fixedPart_foldl {α : Type} (f : State → α → State) (h : ∀ s x, fixedPart (f s x) = fixedPart s) (l : List α) (s : State) :
    fixedPart (l.foldl f s) = fixedPart s := by
  induction l generalizing s with
  | nil => rfl
  | cons x l ih => exact (ih _).trans (h s x)

/-! ### What the functions of `Ops` keep -/

@[simp] theorem setCore_fixedPart (s i c) : fixedPart (setCore s i c) = fixedPart s := by simp [setCore]

@[simp] theorem modCore_fixedPart (s i f) : fixedPart (modCore s i f) = fixedPart s := by simp [modCore]

@[simp] theorem setReg_fixedPart (s a v) : fixedPart (setReg s a v) = fixedPart s := by simp [setReg]

@[simp] theorem setRegF_fixedPart (s a hi lo x) : fixedPart (setRegF s a hi lo x) = fixedPart s := by simp [setRegF]

@[simp] theorem bump_fixedPart (s a n) : fixedPart (bump s a n) = fixedPart s := by simp [bump]

@[simp] theorem draw_fixedPart (s) : fixedPart (draw s).2 = fixedPart s := by simp [draw]

@[simp] theorem hostTear_fixedPart (s p n) : fixedPart (hostTear s p n) = fixedPart s := by simp [hostTear]

@[simp] theorem hostVector_fixedPart (s v) : fixedPart (hostVector s v) = fixedPart s := by simp [hostVector]

@[simp] theorem hostWrite_fixedPart (s a bs) : fixedPart (hostWrite s a bs) = fixedPart s := by simp [hostWrite]

@[simp] theorem hostPut_fixedPart (s n cid more status r0 r1) : fixedPart (hostPut s n cid more status r0 r1) = fixedPart s := by simp [hostPut]

@[simp] theorem hostEvent_fixedPart (s r) : fixedPart (hostEvent s r).1 = fixedPart s := by
  unfold hostEvent
  repeat' split
  all_goals simp

@[simp] theorem hostEvents_fixedPart (rs s) : fixedPart (hostEvents rs s).1 = fixedPart s := by
  induction rs generalizing s with
  | nil => rfl
  | cons r rs ih => exact (ih _).trans (hostEvent_fixedPart s r)

@[simp] theorem ldgPost_fixedPart (s l rs) : fixedPart (ldgPost s l rs) = fixedPart s := by simp [ldgPost]

@[simp] theorem record_fixedPart (s cls source code payload) : fixedPart (record s cls source code payload) = fixedPart s := by simp [record]

@[simp] theorem tc0SendOn_fixedPart (via s kind dst tag body) : fixedPart (tc0SendOn via s kind dst tag body) = fixedPart s := by simp [tc0SendOn]

@[simp] theorem tc0Send_fixedPart (s kind dst tag body) : fixedPart (tc0Send s kind dst tag body) = fixedPart s := by simp [tc0Send]

@[simp] theorem tc0SendAll_fixedPart (kind body a s) : fixedPart (tc0SendAll kind body a s) = fixedPart s := by
  fun_induction tc0SendAll kind body a s <;> simp_all

@[simp] theorem noticeSend_fixedPart (s gone cause code) : fixedPart (noticeSend s gone cause code) = fixedPart s := by simp [noticeSend]

@[simp] theorem detWithdraw_fixedPart (s) : fixedPart (detWithdraw s) = fixedPart s := by
  simp only [detWithdraw]
  repeat' split
  all_goals simp

@[simp] theorem detLeave_fixedPart (s) : fixedPart (detLeave s) = fixedPart s := by unfold detLeave; split <;> simp

@[simp] theorem detStir_fixedPart (s) : fixedPart (detStir s) = fixedPart s := by simp [detStir]

@[simp] theorem detBreak_fixedPart (s) : fixedPart (detBreak s) = fixedPart s := by simp [detBreak]

@[simp] theorem haltOrders_fixedPart (keep s) : fixedPart (haltOrders keep s) = fixedPart s := by simp [haltOrders]

@[simp] theorem haltStart_fixedPart (s) : fixedPart (haltStart s) = fixedPart s := by simp [haltStart]

@[simp] theorem seqFault_fixedPart (s core idx code) : fixedPart (seqFault s core idx code) = fixedPart s := by simp [seqFault]

@[simp] theorem fatalMark_fixedPart (s core idx code) : fixedPart (fatalMark s core idx code) = fixedPart s := by simp [fatalMark]

@[simp] theorem coreStops_fixedPart (s core) : fixedPart (coreStops s core) = fixedPart s := by simp [coreStops]

@[simp] theorem jobFatalKeep_fixedPart (keep s core idx code source payload) :
    fixedPart (jobFatalKeep keep s core idx code source payload) = fixedPart s := by
  simp only [jobFatalKeep]
  repeat' split
  all_goals simp

@[simp] theorem jobFatal_fixedPart (s core idx code source payload) :
    fixedPart (jobFatal s core idx code source payload) = fixedPart s := by simp [jobFatal]

@[simp] theorem contained_fixedPart (s source code payload) : fixedPart (contained s source code payload) = fixedPart s := by simp [contained]

@[simp] theorem readyDrop_fixedPart (s) : fixedPart (readyDrop s) = fixedPart s := by simp [readyDrop]

@[simp] theorem deviceFatal_fixedPart (s source code payload) : fixedPart (deviceFatal s source code payload) = fixedPart s := by simp [deviceFatal]

@[simp] theorem poisonConsumed_fixedPart (s core idx source addr consumer) :
    fixedPart (poisonConsumed s core idx source addr consumer) = fixedPart s := by simp [poisonConsumed]

@[simp] theorem addS_fixedPart (s core i n) : fixedPart (addS s core i n) = fixedPart s := by simp [addS]

@[simp] theorem addG_fixedPart (s i n) : fixedPart (addG s i n) = fixedPart s := by simp [addG]

@[simp] theorem doneAdvance_fixedPart (s core done) : fixedPart (doneAdvance s core done) = fixedPart s := by simp [doneAdvance]

@[simp] theorem ctrAdvance_fixedPart (s core f) : fixedPart (ctrAdvance s core f) = fixedPart s := by simp [ctrAdvance]

/-! ### What the functions of `MemOps` keep -/

@[simp] theorem refuseAccess_fixedPart (s source gaddr place agent write) :
    fixedPart (refuseAccess s source gaddr place agent write) = fixedPart s := by simp [refuseAccess]

@[simp] theorem setLinePoison_fixedPart (s line bad) : fixedPart (setLinePoison s line bad) = fixedPart s := by unfold setLinePoison; split <;> simp

@[simp] theorem sliceBad_fixedPart (s line) : fixedPart (sliceBad s line) = fixedPart s := by simp [sliceBad]

@[simp] theorem strike_fixedPart (s core u) : fixedPart (strike s core u) = fixedPart s := by unfold strike; split <;> simp

@[simp] theorem upsetNew_fixedPart (s core u) : fixedPart (upsetNew s core u) = fixedPart s := by simp [upsetNew]

@[simp] theorem meetBy_fixedPart (s reads) : fixedPart (meetBy s reads) = fixedPart s := by simp [meetBy]

@[simp] theorem meet_fixedPart (s core reads) : fixedPart (meet s core reads) = fixedPart s := by simp [meet]

@[simp] theorem meetSpans_fixedPart (s rs) : fixedPart (meetSpans s rs) = fixedPart s := by simp [meetSpans]

@[simp] theorem mcPush_fixedPart (s r) : fixedPart (mcPush s r) = fixedPart s := by simp [mcPush]

@[simp] theorem hiveBack_fixedPart (s0 line) : fixedPart (hiveBack s0 line) = fixedPart s0 := by simp [hiveBack]

@[simp] theorem hiveLeave_fixedPart (s0 v) : fixedPart (hiveLeave s0 v) = fixedPart s0 := by simp [hiveLeave]

@[simp] theorem hiveAlloc_fixedPart (s line dirty hint) : fixedPart (hiveAlloc s line dirty hint) = fixedPart s := by
  simp only [hiveAlloc]
  repeat' split
  all_goals simp

@[simp] theorem hiveAccess_fixedPart (s line write whole nopf hint) : fixedPart (hiveAccess s line write whole nopf hint) = fixedPart s := by
  simp only [hiveAccess]
  repeat' split
  all_goals simp

@[simp] theorem hiveRun_fixedPart (write hint a n a1 s) : fixedPart (hiveRun write hint a n a1 s) = fixedPart s := by
  fun_induction hiveRun write hint a n a1 s <;> simp_all

@[simp] theorem poisonLines_fixedPart (lo n bad a s) : fixedPart (poisonLines lo n bad a s) = fixedPart s := by
  fun_induction poisonLines lo n bad a s <;> simp_all

@[simp] theorem tearWatches_fixedPart (s a n) : fixedPart (tearWatches s a n) = fixedPart s := by simp [tearWatches]

@[simp] theorem storeBytes_fixedPart (s a bs) : fixedPart (storeBytes s a bs) = fixedPart s := by unfold storeBytes; split <;> simp

@[simp] theorem touchLines_fixedPart (s a n hint ls) : fixedPart (touchLines s a n hint ls) = fixedPart s := by unfold touchLines; split <;> simp

@[simp] theorem touchRead_fixedPart (s a n hint) : fixedPart (touchRead s a n hint) = fixedPart s := by simp [touchRead]

@[simp] theorem touchPart_fixedPart (late s a n hint) : fixedPart (touchPart late s a n hint) = fixedPart s := by simp [touchPart]

@[simp] theorem keepMem_fixedPart (s a bs) : fixedPart (keepMem s a bs) = fixedPart s := by simp [keepMem]

@[simp] theorem memStore_fixedPart (s a bs bad hint) : fixedPart (memStore s a bs bad hint) = fixedPart s := by
  unfold memStore
  repeat' split
  all_goals simp

@[simp] theorem devStore_fixedPart (s a bs) : fixedPart (devStore s a bs) = fixedPart s := by simp [devStore]

@[simp] theorem devTouch_fixedPart (write a n s) : fixedPart (devTouch write a n s) = fixedPart s := by simp [devTouch]

@[simp] theorem armWatch_fixedPart (s w lo hi) : fixedPart (armWatch s w lo hi) = fixedPart s := by simp [armWatch]

@[simp] theorem freeWatch_fixedPart (s w) : fixedPart (freeWatch s w) = fixedPart s := by simp [freeWatch]

/-! ### What the functions of `CoreOps` keep -/

@[simp] theorem combReads_fixedPart (s core port rows) : fixedPart (combReads s core port rows) = fixedPart s := by simp [combReads]

/-! ### What the functions of `DebugOps` keep -/

@[simp] theorem dbgHaltCore_fixedPart (s core cause k agent off) :
    fixedPart (dbgHaltCore s core cause k agent off) = fixedPart s := by simp [dbgHaltCore]

@[simp] theorem wpGo_fixedPart (core off n agent write a a1 s) : fixedPart (wpGo core off n agent write a a1 s) = fixedPart s := by
  fun_induction wpGo core off n agent write a a1 s <;> simp_all

@[simp] theorem bufTouch_fixedPart (s core off n write agent) : fixedPart (bufTouch s core off n write agent) = fixedPart s := by simp [bufTouch]

@[simp] theorem touchAll_fixedPart (core a s) : fixedPart (touchAll core a s) = fixedPart s := by
  fun_induction touchAll core a s <;> simp_all

/-! ### What the functions of `ArrayUnit` keep -/

@[simp] theorem bump64_fixedPart (s a rem n) : fixedPart (bump64 s a rem n).1 = fixedPart s := by simp [bump64]

@[simp] theorem finishOp_fixedPart (s core o) : fixedPart (finishOp s core o) = fixedPart s := by simp [finishOp]

@[simp] theorem arrayEvent_fixedPart (s core shadow o first reads) :
    fixedPart (arrayEvent s core shadow o first reads) = fixedPart s := by unfold arrayEvent; split <;> simp

@[simp] theorem runPass_fixedPart (s core o outcome) : fixedPart (runPass s core o outcome) = fixedPart s := by
  simp only [runPass]
  repeat' split
  all_goals simp

@[simp] theorem finishDone_fixedPart (core a s) : fixedPart (finishDone core a s) = fixedPart s := by
  fun_induction finishDone core a s <;> simp_all

@[simp] theorem finishAll_fixedPart (core ms s) : fixedPart (finishAll core ms s) = fixedPart s := by simp [finishAll]

@[simp] theorem commitChain_fixedPart (s core k) : fixedPart (commitChain s core k) = fixedPart s := by
  simp only [commitChain]
  repeat' split
  all_goals simp

@[simp] theorem doMld_fixedPart (s core o t turn) : fixedPart (doMld s core o t turn) = fixedPart s := by simp [doMld]

@[simp] theorem doMswap_fixedPart (s core) : fixedPart (doMswap s core) = fixedPart s := by simp [doMswap]

@[simp] theorem rangeEvent_fixedPart (s core first n kind topk) : fixedPart (rangeEvent s core first n kind topk) = fixedPart s := by
  unfold rangeEvent
  repeat' split
  all_goals simp

@[simp] theorem doMdrain_fixedPart (s core o first n t mode rnd kind) : fixedPart (doMdrain s core o first n t mode rnd kind) = fixedPart s := by
  simp only [doMdrain]
  repeat' split
  all_goals simp

@[simp] theorem doMtopk_fixedPart (s core o first n vt pt k base kind) : fixedPart (doMtopk s core o first n vt pt k base kind) = fixedPart s := by
  simp only [doMtopk]
  repeat' split
  all_goals simp

/-! ### What the functions of `VectorUnit` keep -/

@[simp] theorem vReads_fixedPart (s core o op v) : fixedPart (vReads s core o op v) = fixedPart s := by unfold vReads; split <;> simp

@[simp] theorem doVadam_fixedPart (s core o v) : fixedPart (doVadam s core o v) = fixedPart s := by
  simp only [doVadam]
  repeat' split
  all_goals simp

@[simp] theorem doV_fixedPart (s core o op v) : fixedPart (doV s core o op v) = fixedPart s := by simp [doV]

@[simp] theorem doTld_fixedPart (s core o t pitch) : fixedPart (doTld s core o t pitch) = fixedPart s := by
  simp only [doTld]
  repeat' split
  all_goals simp

@[simp] theorem doTst_fixedPart (s core o t pitch) : fixedPart (doTst s core o t pitch) = fixedPart s := by simp [doTst]

@[simp] theorem doTmov_fixedPart (s core o d src) : fixedPart (doTmov s core o d src) = fixedPart s := by simp [doTmov]

@[simp] theorem doTzero_fixedPart (s core o t) : fixedPart (doTzero s core o t) = fixedPart s := by simp [doTzero]

@[simp] theorem doTxp_fixedPart (s core o d src) : fixedPart (doTxp s core o d src) = fixedPart s := by simp [doTxp]

@[simp] theorem completeOp_fixedPart (s0 core o) : fixedPart (completeOp s0 core o) = fixedPart s0 := by unfold completeOp; split <;> simp

/-! ### What the functions of `LcuOps` keep -/

@[simp] theorem l1Back_fixedPart (s0 core l0) : fixedPart (l1Back s0 core l0) = fixedPart s0 := by simp [l1Back]

@[simp] theorem l1BackAll_fixedPart (core a s) : fixedPart (l1BackAll core a s) = fixedPart s := by
  fun_induction l1BackAll core a s <;> simp_all

@[simp] theorem l1Keep_fixedPart (s core keep) : fixedPart (l1Keep s core keep) = fixedPart s := by simp [l1Keep]

@[simp] theorem l1Fill_fixedPart (s core l) : fixedPart (l1Fill s core l) = fixedPart s := by
  simp only [l1Fill]
  repeat' split
  all_goals simp

@[simp] theorem l1Reads_fixedPart (core hint a s) : fixedPart (l1Reads core hint a s).1 = fixedPart s := by
  induction a generalizing s with
  | nil => rfl
  | cons x l ih =>
    unfold l1Reads
    split <;> simp [ih]

@[simp] theorem l1Write_fixedPart (s core ln off hint bs bad) :
    fixedPart (l1Write s core ln off hint bs bad) = fixedPart s := by unfold l1Write; split <;> simp

@[simp] theorem l1Piece_fixedPart (core hint a a1 a2 a3 s) : fixedPart (l1Piece core hint a a1 a2 a3 s) = fixedPart s := by
  induction a generalizing s with
  | nil => rfl
  | cons x l ih => simp [l1Piece, ih]

@[simp] theorem memCovered_fixedPart (a s) : fixedPart (memCovered a s) = fixedPart s := by
  induction a generalizing s with
  | nil => rfl
  | cons x l ih => simp [memCovered, ih]

@[simp] theorem memCover_fixedPart (hint before ps s) : fixedPart (memCover hint before ps s) = fixedPart s := by simp [memCover]

@[simp] theorem memPieces_fixedPart (hint ps s) : fixedPart (memPieces hint ps s) = fixedPart s := by simp [memPieces]

@[simp] theorem l1Pieces_fixedPart (core hint before ps s) : fixedPart (l1Pieces core hint before ps s) = fixedPart s := by simp [l1Pieces]

@[simp] theorem lcuMemPieces_fixedPart (core hint l1 before ps s) :
    fixedPart (lcuMemPieces core hint l1 before ps s) = fixedPart s := by simp [lcuMemPieces]

@[simp] theorem lcuBufPieces_fixedPart (core before ps s) : fixedPart (lcuBufPieces core before ps s) = fixedPart s := by simp [lcuBufPieces]

/-! ### What the functions of `CeDesc` keep -/

@[simp] theorem ctr4Advance_fixedPart (s f) : fixedPart (ctr4Advance s f) = fixedPart s := by simp [ctr4Advance]

@[simp] theorem setCe_fixedPart (s k e) : fixedPart (setCe s k e) = fixedPart s := by simp [setCe]

/-! ### What the functions of `SyncOps` keep -/

@[simp] theorem pairFree_fixedPart (s src ctx) : fixedPart (pairFree s src ctx) = fixedPart s := by simp [pairFree]

@[simp] theorem pairHold_fixedPart (s src ctx n) : fixedPart (pairHold s src ctx n) = fixedPart s := by simp [pairHold]

@[simp] theorem sigHold_fixedPart (s g) : fixedPart (sigHold s g) = fixedPart s := by simp [sigHold]

@[simp] theorem sigSelf_fixedPart (s g) : fixedPart (sigSelf s g) = fixedPart s := by simp [sigSelf]

@[simp] theorem sigPull_fixedPart (s) : fixedPart (sigPull s) = fixedPart s := by unfold sigPull; split <;> simp

@[simp] theorem cePush_fixedPart (s o) : fixedPart (cePush s o) = fixedPart s := by simp [cePush]

@[simp] theorem doSsig_fixedPart (s core idx addr) : fixedPart (doSsig s core idx addr) = fixedPart s := by
  simp only [doSsig]
  repeat' split
  all_goals simp

@[simp] theorem barArrive_fixedPart (s core idx g n) : fixedPart (barArrive s core idx g n) = fixedPart s := by unfold barArrive; split <;> simp

@[simp] theorem watchRelease_fixedPart (s core h res done) : fixedPart (watchRelease s core h res done) = fixedPart s := by simp [watchRelease]

@[simp] theorem armsGo_fixedPart (core as s) : fixedPart (armsGo core as s) = fixedPart s := by
  induction as generalizing s with
  | nil => rfl
  | cons a as ih =>
    unfold armsGo
    split <;> simp [ih]

@[simp] theorem armsAll_fixedPart (a s) : fixedPart (armsAll a s) = fixedPart s := by
  fun_induction armsAll a s <;> simp_all

@[simp] theorem retryArms_fixedPart (s) : fixedPart (retryArms s) = fixedPart s := by simp [retryArms]

@[simp] theorem doXwatch_fixedPart (s core d done) : fixedPart (doXwatch s core d done) = fixedPart s := by simp [doXwatch]

/-! ### What the functions of `Issue` keep -/

@[simp] theorem coreFault_fixedPart (s core idx code) : fixedPart (coreFault s core idx code) = fixedPart s := by simp [coreFault]

theorem xDescFault_fixedPart {s core idx c x t} (h : xDescFault s core idx c x = some t) : fixedPart t = fixedPart s := by
  simp only [xDescFault] at h
  repeat' split at h
  all_goals simp only [reduceCtorEq, Option.some.injEq] at h
  all_goals simp [← h]

theorem step2_fixedPart {s core c b p1 i1 e t} (h : step2 s core c b p1 i1 e = some t) : fixedPart t = fixedPart s := by
  simp only [step2] at h
  split at h
  · simp [← Option.some.inj h]
  · split at h
    · simp [← Option.some.inj h]
    · split at h
      · simp [← Option.some.inj h]
      · split at h
        · next hx => exact xDescFault_fixedPart (hx.trans h)
        · split at h
          · simp [← Option.some.inj h]
          · cases h

@[simp] theorem issueX_fixedPart (s core c0 x done idx) : fixedPart (issueX s core c0 x done idx) = fixedPart s := by
  unfold issueX
  repeat' split
  all_goals simp

@[simp] theorem trimLog_fixedPart (s) : fixedPart (trimLog s) = fixedPart s := by simp [trimLog]

@[simp] theorem doSdec_fixedPart (s core idx i n) : fixedPart (doSdec s core idx i n) = fixedPart s := by simp [doSdec]

@[simp] theorem lateS_fixedPart (s core idx c0 y) : fixedPart (lateS s core idx c0 y) = fixedPart s := by unfold lateS; split <;> simp

@[simp] theorem instantDone_fixedPart (s core e) : fixedPart (instantDone s core e) = fixedPart s := by
  unfold instantDone
  repeat' split
  all_goals simp

@[simp] theorem keyCount_fixedPart (s core e) : fixedPart (keyCount s core e) = fixedPart s := by simp [keyCount]

@[simp] theorem xFinish_fixedPart (core x s) : fixedPart (xFinish core x s) = fixedPart s := by unfold xFinish; split <;> simp

@[simp] theorem issueAll_fixedPart (s core b p1 i1 e) : fixedPart (issueAll s core b p1 i1 e) = fixedPart s := by
  simp only [issueAll]
  repeat' split
  all_goals simp

@[simp] theorem waitAt_fixedPart (s core step cause) : fixedPart (waitAt s core step cause) = fixedPart s := by simp [waitAt]

@[simp] theorem steps3to6_fixedPart (s core b p1 i1 e drain) : fixedPart (steps3to6 s core b p1 i1 e drain) = fixedPart s := by
  simp only [steps3to6]
  repeat' split
  all_goals simp

@[simp] theorem tryBundle_fixedPart (s core b) : fixedPart (tryBundle s core b) = fixedPart s := by
  simp only [tryBundle]
  split
  · simp
  · split
    · simp
    · split
      · rfl
      · split
        · next hstep => exact step2_fixedPart hstep
        · simp

@[simp] theorem endStep_fixedPart (core stepped pos0 s) : fixedPart (endStep core stepped pos0 s) = fixedPart s := by simp [endStep]

@[simp] theorem bundleIssueCore_fixedPart (s0 core) : fixedPart (bundleIssueCore s0 core) = fixedPart s0 := by
  simp only [bundleIssueCore]
  repeat' split
  all_goals simp

@[simp] theorem settleUnit_fixedPart (core a s) : fixedPart (settleUnit core a s) = fixedPart s := by
  fun_induction settleUnit core a s <;> simp_all

@[simp] theorem soloSlot_fixedPart (s core sl) : fixedPart (soloSlot s core sl) = fixedPart s := by
  simp only [soloSlot]
  split
  · rfl
  · split
    · simp
    · split
      · simp
      · split
        · next hstep => simp [step2_fixedPart hstep]
        · simp

/-! ### What the functions of `Sequencer` keep -/

@[simp] theorem seqStop_fixedPart (s idx code payload) : fixedPart (seqStop s idx code payload) = fixedPart s := by simp [seqStop]

@[simp] theorem seqRefused_fixedPart (s a idx place) : fixedPart (seqRefused s a idx place) = fixedPart s := by simp [seqRefused]

@[simp] theorem seqPoison_fixedPart (s a idx) : fixedPart (seqPoison s a idx) = fixedPart s := by simp [seqPoison]

@[simp] theorem tabAsk_fixedPart (s0 a n step) : fixedPart (tabAsk s0 a n step) = fixedPart s0 := by simp [tabAsk]

theorem seqRead_error_fixedPart {s a n idx t} (h : seqRead s a n idx = .error t) : fixedPart t = fixedPart s := by
  unfold seqRead at h
  repeat' split at h
  all_goals cases h
  all_goals simp

@[simp] theorem seqGo_fixedPart (s ctx n) : fixedPart (seqGo s ctx n) = fixedPart s := by simp [seqGo]

@[simp] theorem seqEnqueue_fixedPart (s b) : fixedPart (seqEnqueue s b) = fixedPart s := by simp [seqEnqueue]

@[simp] theorem seqCvar_fixedPart (s idx mode index) : fixedPart (seqCvar s idx mode index) = fixedPart s := by
  simp only [seqCvar]
  split
  · simp
  · split
    · split <;> simp
    · split
      · simp
      · split
        · next hread => exact seqRead_error_fixedPart hread
        · simp

@[simp] theorem seqMark2_fixedPart (s pos idx) : fixedPart (seqMark2 s pos idx) = fixedPart s := by unfold seqMark2; split <;> simp

@[simp] theorem seqAct_fixedPart (s pos idx c) : fixedPart (seqAct s pos idx c) = fixedPart s := by unfold seqAct; split <;> simp

@[simp] theorem seqTake_fixedPart (s a idx) : fixedPart (seqTake s a idx) = fixedPart s := by
  simp only [seqTake]
  repeat' split
  all_goals simp

@[simp] theorem doFetch_fixedPart (s0) : fixedPart (doFetch s0) = fixedPart s0 := by
  simp only [doFetch]
  repeat' split
  all_goals simp

@[simp] theorem arriveGo_fixedPart (b is s) : fixedPart (arriveGo b is s) = fixedPart s := by
  induction is generalizing s with
  | nil => rfl
  | cons i is ih =>
    rw [arriveGo, ih]
    split <;> simp

@[simp] theorem doMulticast_fixedPart (s) : fixedPart (doMulticast s) = fixedPart s := by
  unfold doMulticast
  repeat' split
  all_goals simp

@[simp] theorem seqTableTake_fixedPart (s t idx) : fixedPart (seqTableTake s t idx) = fixedPart s := by
  simp only [seqTableTake]
  repeat' split
  all_goals simp

@[simp] theorem pollEnds_fixedPart (s) : fixedPart (pollEnds s) = fixedPart s := by simp [pollEnds]

@[simp] theorem doTablePoll_fixedPart (s) : fixedPart (doTablePoll s) = fixedPart s := by
  simp only [doTablePoll]
  split
  · rfl
  · split
    · simp
    · split
      · next hread => simp [seqRead_error_fixedPart hread]
      · split
        · simp
        · split
          · simp
          · split
            · next hread => simp [seqRead_error_fixedPart hread]
            · simp

/-! ### What the functions of `SlotCmds` keep -/

@[simp] theorem passStart_fixedPart (s core o) : fixedPart (passStart s core o) = fixedPart s := by
  simp only [passStart]
  repeat' split
  all_goals simp

@[simp] theorem chainCommit_fixedPart (s core) : fixedPart (chainCommit s core) = fixedPart s := by
  simp only [chainCommit]
  repeat' split
  all_goals simp

@[simp] theorem operationCommit_fixedPart (s core u) : fixedPart (operationCommit s core u) = fixedPart s := by unfold operationCommit; split <;> simp

@[simp] theorem fenceEnd_fixedPart (s core) : fixedPart (fenceEnd s core) = fixedPart s := by
  simp only [fenceEnd]
  repeat' split
  all_goals simp

@[simp] theorem seqSolo_fixedPart (s c) : fixedPart (seqSolo s c) = fixedPart s := by
  unfold seqSolo
  repeat' split
  all_goals simp

/-! ### What the functions of `LcuRun` keep -/

@[simp] theorem refuseFrags_fixedPart (core d a s) : fixedPart (refuseFrags core d a s) = fixedPart s := by
  induction a generalizing s with
  | nil => rfl
  | cons x l ih =>
    unfold refuseFrags
    split <;> simp [ih]

@[simp] theorem putDst_fixedPart (s core d before ps) : fixedPart (putDst s core d before ps) = fixedPart s := by simp [putDst]

@[simp] theorem covered_fixedPart (s core ord ps) : fixedPart (covered s core ord ps) = fixedPart s := by simp [covered]

@[simp] theorem setLcu_fixedPart (s core l) : fixedPart (setLcu s core l) = fixedPart s := by simp [setLcu]

@[simp] theorem modCopy_fixedPart (s core ord f) : fixedPart (modCopy s core ord f) = fixedPart s := by simp [modCopy]

@[simp] theorem copyTouch_fixedPart (s core d todo) : fixedPart (copyTouch s core d todo).1 = fixedPart s := by
  unfold copyTouch
  repeat' split
  all_goals simp

@[simp] theorem copyLate_fixedPart (s core d todo) : fixedPart (copyLate s core d todo) = fixedPart s := by simp [copyLate]

@[simp] theorem lateRead_fixedPart (s core q) : fixedPart (lateRead s core q) = fixedPart s := by simp [lateRead]

@[simp] theorem beginRun_fixedPart (s core q fail) : fixedPart (beginRun s core q fail) = fixedPart s := by simp [beginRun]

@[simp] theorem armCopy_fixedPart (s core q) : fixedPart (armCopy s core q) = fixedPart s := by simp [armCopy]

@[simp] theorem lcuStart_fixedPart (s core fail u) : fixedPart (lcuStart s core fail u) = fixedPart s := by
  unfold lcuStart
  repeat' split
  all_goals simp

@[simp] theorem lcuDone_fixedPart (s core q) : fixedPart (lcuDone s core q) = fixedPart s := by simp [lcuDone]

@[simp] theorem lcuFail_fixedPart (s core q mask code) : fixedPart (lcuFail s core q mask code) = fixedPart s := by simp [lcuFail]

@[simp] theorem countRows_fixedPart (s core d rows bytes) : fixedPart (countRows s core d rows bytes) = fixedPart s := by simp [countRows]

@[simp] theorem endRun_fixedPart (s core q settled ok lost code) : fixedPart (endRun s core q settled ok lost code) = fixedPart s := by
  simp only [endRun]
  repeat' split
  all_goals simp

@[simp] theorem movePart_fixedPart (s core q ok rest) : fixedPart (movePart s core q ok rest) = fixedPart s := by simp [movePart]

@[simp] theorem tornFail_fixedPart (s core q) : fixedPart (tornFail s core q) = fixedPart s := by simp [tornFail]

@[simp] theorem lcuEnd_fixedPart (s core q) : fixedPart (lcuEnd s core q) = fixedPart s := by simp [lcuEnd]

@[simp] theorem lcuTry_fixedPart (s core) : fixedPart (lcuTry s core) = fixedPart s := by unfold lcuTry; split <;> simp

@[simp] theorem lcuComplete_fixedPart (s core) : fixedPart (lcuComplete s core) = fixedPart s := by unfold lcuComplete; split <;> simp

@[simp] theorem tornReread_fixedPart (s core fail) : fixedPart (tornReread s core fail) = fixedPart s := by
  simp only [tornReread]
  repeat' split
  all_goals simp

@[simp] theorem lcuGo_fixedPart (s core fail) : fixedPart (lcuGo s core fail) = fixedPart s := by unfold lcuGo; split <;> simp

@[simp] theorem poisonMem_fixedPart (a s) : fixedPart (poisonMem a s) = fixedPart s := by
  induction a generalizing s with
  | nil => rfl
  | cons x l ih => simp [poisonMem, ih]

@[simp] theorem poisonL1_fixedPart (core hint a s) : fixedPart (poisonL1 core hint a s) = fixedPart s := by
  induction a generalizing s with
  | nil => rfl
  | cons x l ih => simp [poisonL1, ih]

@[simp] theorem abortEnd_fixedPart (s core q) : fixedPart (abortEnd s core q) = fixedPart s := by simp [abortEnd]

@[simp] theorem lcuAbort_fixedPart (s core) : fixedPart (lcuAbort s core) = fixedPart s := by
  simp only [lcuAbort]
  repeat' split
  all_goals simp

/-! ### What the functions of `SyncRun` keep -/

@[simp] theorem giveTokens_fixedPart (a s) : fixedPart (giveTokens a s) = fixedPart s := by
  induction a generalizing s with
  | nil => rfl
  | cons x l ih => simp [giveTokens, ih]

@[simp] theorem barrierRelease_fixedPart (s g) : fixedPart (barrierRelease s g) = fixedPart s := by unfold barrierRelease; split <;> simp

@[simp] theorem signalRelease_fixedPart (s src ctx) : fixedPart (signalRelease s src ctx) = fixedPart s := by unfold signalRelease; split <;> simp

@[simp] theorem devStores_fixedPart (base a s) : fixedPart (devStores base a s) = fixedPart s := by
  induction a generalizing s with
  | nil => rfl
  | cons x l ih => simp [devStores, ih]

@[simp] theorem takeDeadlock_fixedPart (s lead count) : fixedPart (takeDeadlock s lead count) = fixedPart s := by simp [takeDeadlock]

@[simp] theorem leadCheck_fixedPart (s) : fixedPart (leadCheck s) = fixedPart s := by simp [leadCheck]

@[simp] theorem sendBlocked_fixedPart (s) : fixedPart (sendBlocked s) = fixedPart s := by unfold sendBlocked; split <;> simp

@[simp] theorem enterBlocked_fixedPart (s) : fixedPart (enterBlocked s) = fixedPart s := by simp [enterBlocked]

@[simp] theorem detTick_fixedPart (s) : fixedPart (detTick s) = fixedPart s := by simp [detTick]

@[simp] theorem quietElapsed_fixedPart (s) : fixedPart (quietElapsed s) = fixedPart s := by simp [quietElapsed]

@[simp] theorem takeReport_fixedPart (s src sent recv) : fixedPart (takeReport s src sent recv) = fixedPart s := by simp [takeReport]

@[simp] theorem takeWithdraw_fixedPart (s src) : fixedPart (takeWithdraw s src) = fixedPart s := by simp [takeWithdraw]

/-! ### What the functions of `FabOps` keep -/

@[simp] theorem setLink_fixedPart (s k l) : fixedPart (setLink s k l) = fixedPart s := by simp [setLink]

@[simp] theorem modLink_fixedPart (s k f) : fixedPart (modLink s k f) = fixedPart s := by simp [modLink]

@[simp] theorem linkPut_fixedPart (s k input w) : fixedPart (linkPut s k input w) = fixedPart s := by simp [linkPut]

@[simp] theorem fabOut_fixedPart (s input w) : fixedPart (fabOut s input w) = fixedPart s := by unfold fabOut; split <;> simp

@[simp] theorem fabSource_fixedPart (s p) : fixedPart (fabSource s p) = fixedPart s := by simp [fabSource]

@[simp] theorem fabAgain_fixedPart (s p) : fixedPart (fabAgain s p) = fixedPart s := by unfold fabAgain; split <;> simp

@[simp] theorem txPumpGo_fixedPart (key a s) : fixedPart (txPumpGo key a s) = fixedPart s := by
  induction a generalizing s with
  | zero => rfl
  | succ n ih =>
    simp only [txPumpGo]
    repeat' split
    all_goals simp [ih]

@[simp] theorem sentNote_fixedPart (s) : fixedPart (sentNote s) = fixedPart s := by simp [sentNote]

@[simp] theorem txPump_fixedPart (s key) : fixedPart (txPump s key) = fixedPart s := by simp [txPump]

@[simp] theorem fabSend_fixedPart (s p o) : fixedPart (fabSend s p o) = fixedPart s := by simp [fabSend]

@[simp] theorem fabAnswer_fixedPart (s typ p spec) : fixedPart (fabAnswer s typ p spec) = fixedPart s := by simp [fabAnswer]

@[simp] theorem fabAck_fixedPart (s p n) : fixedPart (fabAck s p n) = fixedPart s := by
  simp only [fabAck]
  repeat' split
  all_goals simp

@[simp] theorem fabWrites_fixedPart (cls dst ctx counted o a a1 a2 a3 s) :
    fixedPart (fabWrites cls dst ctx counted o a a1 a2 a3 s) = fixedPart s := by
  fun_induction fabWrites cls dst ctx counted o a a1 a2 a3 s <;> simp_all

@[simp] theorem fabReads_fixedPart (cls dst ctx counted o home f a n key s) :
    fixedPart (fabReads cls dst ctx counted o home f a n key s) = fixedPart s := by
  induction f generalizing a n key s with
  | zero => rfl
  | succ f ih =>
    unfold fabReads
    split <;> simp [ih]

@[simp] theorem txAgain_fixedPart (o a s) : fixedPart (txAgain o a s) = fixedPart s := by
  induction a generalizing s with
  | nil => rfl
  | cons x l ih => simp [txAgain, ih]

@[simp] theorem ownerFail_fixedPart (s o) : fixedPart (ownerFail s o) = fixedPart s := by unfold ownerFail; split <;> simp

@[simp] theorem ackTake_fixedPart (s dst ctx n) : fixedPart (ackTake s dst ctx n) = fixedPart s := by simp [ackTake]

@[simp] theorem txDrop_fixedPart (s key q err) : fixedPart (txDrop s key q err) = fixedPart s := by simp [txDrop]

@[simp] theorem e2eLost_fixedPart (s p) : fixedPart (e2eLost s p) = fixedPart s := by simp [e2eLost]

@[simp] theorem txLose_fixedPart (s key q) : fixedPart (txLose s key q) = fixedPart s := by simp [txLose]

@[simp] theorem txLoseAll_fixedPart (key a s) : fixedPart (txLoseAll key a s) = fixedPart s := by
  induction a generalizing s with
  | nil => rfl
  | cons x l ih => simp [txLoseAll, ih]

@[simp] theorem txCancel_fixedPart (a s) : fixedPart (txCancel a s) = fixedPart s := by
  induction a generalizing s with
  | nil => rfl
  | cons x l ih => simp [txCancel, ih]

@[simp] theorem loseDstGo_fixedPart (dev a s) : fixedPart (loseDstGo dev a s) = fixedPart s := by
  induction a generalizing s with
  | nil => rfl
  | cons x l ih => simp [loseDstGo, ih]

@[simp] theorem loseDst_fixedPart (s dev) : fixedPart (loseDst s dev) = fixedPart s := by simp [loseDst]

/-! ### What the functions of `CeCopy` keep -/

@[simp] theorem ceRefuseGo_fixedPart (src p a s) : fixedPart (ceRefuseGo src p a s) = fixedPart s := by
  induction a generalizing s with
  | nil => rfl
  | cons x l ih =>
    simp only [ceRefuseGo]
    repeat' split
    all_goals simp [ih]

@[simp] theorem ceTouch_fixedPart (s a n hint) : fixedPart (ceTouch s a n hint) = fixedPart s := by unfold ceTouch; split <;> simp

@[simp] theorem ceTouchPart_fixedPart (late s a n hint) :
    fixedPart (ceTouchPart late s a n hint) = fixedPart s := by unfold ceTouchPart; split <;> simp

@[simp] theorem ceBufPut_fixedPart (before ps id s) : fixedPart (ceBufPut before ps id s) = fixedPart s := by simp [ceBufPut]

@[simp] theorem ceCover_fixedPart (before s hint ps) : fixedPart (ceCover before s hint ps) = fixedPart s := by simp [ceCover]

@[simp] theorem cePut_fixedPart (s hint ps) : fixedPart (cePut s hint ps) = fixedPart s := by simp [cePut]

@[simp] theorem modOp_fixedPart (s k uid f) : fixedPart (modOp s k uid f) = fixedPart s := by simp [modOp]

@[simp] theorem readersOff_fixedPart (s uid) : fixedPart (readersOff s uid) = fixedPart s := by simp [readersOff]

@[simp] theorem ceDrop_fixedPart (s k uid) : fixedPart (ceDrop s k uid) = fixedPart s := by simp [ceDrop]

@[simp] theorem readPiece_fixedPart (k uid ctx p q s) : fixedPart (readPiece k uid ctx p q s) = fixedPart s := by
  unfold readPiece
  repeat' split
  all_goals simp

@[simp] theorem readPieces_fixedPart (k uid ctx p a s) : fixedPart (readPieces k uid ctx p a s) = fixedPart s := by
  induction a generalizing s with
  | nil => rfl
  | cons x l ih => simp [readPieces, ih]

@[simp] theorem sendCuts_fixedPart (k uid ctx p dev a a1 s) : fixedPart (sendCuts k uid ctx p dev a a1 s) = fixedPart s := by
  fun_induction sendCuts k uid ctx p dev a a1 s <;> simp_all

@[simp] theorem sendPieces_fixedPart (k uid ctx p m a s) : fixedPart (sendPieces k uid ctx p m a s) = fixedPart s := by
  induction a generalizing s with
  | nil => rfl
  | cons x l ih =>
    unfold sendPieces
    split <;> simp [ih]

@[simp] theorem planArm_fixedPart (s k uid p) : fixedPart (planArm s k uid p) = fixedPart s := by unfold planArm; split <;> simp

@[simp] theorem readersOn_fixedPart (s uid ps) : fixedPart (readersOn s uid ps) = fixedPart s := by simp [readersOn]

@[simp] theorem ceBegin_fixedPart (s k o p todo fail) : fixedPart (ceBegin s k o p todo fail) = fixedPart s := by simp [ceBegin]

@[simp] theorem lateReads_fixedPart (s p m) : fixedPart (lateReads s p m) = fixedPart s := by simp [lateReads]

@[simp] theorem ceLate_fixedPart (s k o p) : fixedPart (ceLate s k o p) = fixedPart s := by simp [ceLate]

@[simp] theorem ceFlagsIn_fixedPart (s k o p) : fixedPart (ceFlagsIn s k o p) = fixedPart s := by simp [ceFlagsIn]

@[simp] theorem landOwn_fixedPart (s k o p lost) : fixedPart (landOwn s k o p lost) = fixedPart s := by simp [landOwn]

@[simp] theorem ceFail_fixedPart (s k o mask code) : fixedPart (ceFail s k o mask code) = fixedPart s := by simp [ceFail]

@[simp] theorem ceMove_fixedPart (s k o p settled lost code) : fixedPart (ceMove s k o p settled lost code).1 = fixedPart s := by
  simp only [ceMove]
  repeat' split
  all_goals simp

@[simp] theorem ceSettle_fixedPart (s0 k o0 p) : fixedPart (ceSettle s0 k o0 p).1 = fixedPart s0 := by
  simp only [ceSettle]
  repeat' split
  all_goals simp

@[simp] theorem ceFinish_fixedPart (s k o p) : fixedPart (ceFinish s k o p).1 = fixedPart s := by
  simp only [ceFinish]
  repeat' split
  all_goals simp

@[simp] theorem sendPoison_fixedPart (k uid ctx p a s) : fixedPart (sendPoison k uid ctx p a s) = fixedPart s := by
  induction a generalizing s with
  | nil => rfl
  | cons x l ih => simp [sendPoison, ih]

@[simp] theorem ceAbortWrites_fixedPart (s k o p unsent) : fixedPart (ceAbortWrites s k o p unsent) = fixedPart s := by
  simp only [ceAbortWrites, sendPoison_fixedPart, txAgain_fixedPart, fixedPart_mk, fixedPart_eta]
  exact fixedPart_foldl _ (fun t r => by split <;> simp) _ _

/-! ### What the functions of `CeCol` keep -/

@[simp] theorem colWord_fixedPart (c i a v s) : fixedPart (colWord c i a v s) = fixedPart s := by simp [colWord]

@[simp] theorem sendArrive_fixedPart (c step who s) : fixedPart (sendArrive c step who s) = fixedPart s := by simp [sendArrive]

@[simp] theorem sendDone_fixedPart (c s) : fixedPart (sendDone c s) = fixedPart s := by simp [sendDone]

@[simp] theorem ceTouchAll_fixedPart (hint rs s) : fixedPart (ceTouchAll hint rs s) = fixedPart s := by simp [ceTouchAll]

@[simp] theorem colPack_fixedPart (c s) : fixedPart (colPack c s) = fixedPart s := by
  simp only [colPack]
  repeat' split
  all_goals simp

theorem bucketStart_fixedPart {s c t} (h : bucketStart s c = some t) : fixedPart t = fixedPart s := by
  simp only [bucketStart] at h
  split at h
  · cases h
  · split at h
    · rw [Option.some.inj h]
    · rw [← Option.some.inj h]
      simp only [cePut_fixedPart, setReg_fixedPart]

@[simp] theorem colAsk_fixedPart (c a s) : fixedPart (colAsk c a s) = fixedPart s := by
  induction a generalizing s with
  | nil => rfl
  | cons x l ih => simp [colAsk, ih]

@[simp] theorem cePoison_fixedPart (s k a) : fixedPart (cePoison s k a) = fixedPart s := by simp [cePoison]

@[simp] theorem nextStep_fixedPart (c step s) : fixedPart (nextStep c step s) = fixedPart s := by simp [nextStep]

@[simp] theorem endSteps_fixedPart (c s) : fixedPart (endSteps c s) = fixedPart s := by simp [endSteps]

@[simp] theorem ownReduced_fixedPart (c xs s) : fixedPart (ownReduced c xs s) = fixedPart s := by simp [ownReduced]

@[simp] theorem copyOut_fixedPart (c o rs s) : fixedPart (copyOut c o rs s) = fixedPart s := by simp [copyOut]

@[simp] theorem stepOut_fixedPart (s c o si) : fixedPart (stepOut s c o si) = fixedPart s := by
  simp only [stepOut]
  repeat' split
  all_goals simp

@[simp] theorem colFirst_fixedPart (c s) : fixedPart (colFirst c s) = fixedPart s := by
  simp only [colFirst]
  repeat' split
  all_goals simp

/-! ### What the functions of `CeRun` keep -/

@[simp] theorem opEnter_fixedPart (s o) : fixedPart (opEnter s o) = fixedPart s := by simp [opEnter]

@[simp] theorem opLeave_fixedPart (s o t) : fixedPart (opLeave s o t) = fixedPart t := by
  unfold opLeave
  split <;> simp

@[simp] theorem asOp_fixedPart {f} (h : ∀ t, fixedPart (f t) = fixedPart t) (s o) : fixedPart (asOp s o f) = fixedPart s := by simp [asOp, h]

@[simp] theorem sendSigs_fixedPart (k a s) : fixedPart (sendSigs k a s) = fixedPart s := by
  induction a generalizing s with
  | zero => rfl
  | succ n ih =>
    unfold sendSigs
    repeat' split
    all_goals simp [ih]

@[simp] theorem colFault_fixedPart (s k o code) : fixedPart (colFault s k o code) = fixedPart s := by simp [colFault]

@[simp] theorem colFail_fixedPart (s k o) : fixedPart (colFail s k o) = fixedPart s := by simp [colFail]

theorem colCheck_fixedPart {s k o first t} (h : colCheck s k o first = some t) : fixedPart t = fixedPart s := by
  simp only [colCheck] at h
  repeat' split at h
  all_goals simp only [reduceCtorEq, Option.some.injEq] at h
  all_goals simp [← h]

@[simp] theorem colFetch_fixedPart (s k o stage rs) : fixedPart (colFetch s k o stage rs) = fixedPart s := by simp [colFetch]

@[simp] theorem colStart_fixedPart (s k o) : fixedPart (colStart s k o) = fixedPart s := by
  simp only [colStart]
  split
  · simp
  · split
    · simp
    · split
      · next hcheck => simp [colCheck_fixedPart hcheck]
      · split
        · simp
        · next t hstart =>
          have ht : fixedPart t = fixedPart s := by
            split at hstart
            · exact (bucketStart_fixedPart hstart).trans (colFetch_fixedPart ..)
            · rw [← Option.some.inj hstart, colFetch_fixedPart]
          split <;> simp [ht]

@[simp] theorem ceRun_fixedPart (s k o p todo fail) : fixedPart (ceRun s k o p todo fail) = fixedPart s := by simp [ceRun]

@[simp] theorem ceStart_fixedPart (s k fail) : fixedPart (ceStart s k fail) = fixedPart s := by
  simp only [ceStart]
  repeat' split
  all_goals simp

@[simp] theorem snapAsk_fixedPart (s t) : fixedPart (snapAsk s t) = fixedPart s := by simp [snapAsk]

@[simp] theorem snapG_fixedPart (s) : fixedPart (snapG s) = fixedPart s := by simp [snapG]

@[simp] theorem snapEnd_fixedPart (s code x) : fixedPart (snapEnd s code x) = fixedPart s := by simp [snapEnd]

@[simp] theorem snapIssue_fixedPart (a s) : fixedPart (snapIssue a s) = fixedPart s := by
  induction a generalizing s with
  | zero => rfl
  | succ n ih => simp [snapIssue, ih]

@[simp] theorem snapBegin_fixedPart (s) : fixedPart (snapBegin s) = fixedPart s := by simp [snapBegin]

@[simp] theorem snapDone_fixedPart (s o) : fixedPart (snapDone s o) = fixedPart s := by
  simp only [snapDone]
  repeat' split
  all_goals simp

@[simp] theorem ceDone_fixedPart (s k o) : fixedPart (ceDone s k o) = fixedPart s := by
  unfold ceDone
  repeat' split
  all_goals simp

@[simp] theorem ceComplete_fixedPart (s k o) : fixedPart (ceComplete s k o) = fixedPart s := by unfold ceComplete; split <;> simp

@[simp] theorem ceMoved_fixedPart (s k o) : fixedPart (ceMoved s k o) = fixedPart s := by
  simp only [ceMoved]
  repeat' split
  all_goals simp

@[simp] theorem ceAbort_fixedPart (s k o unwritable) : fixedPart (ceAbort s k o unwritable) = fixedPart s := by simp [ceAbort]

@[simp] theorem snapFail_fixedPart (s k uid) : fixedPart (snapFail s k uid) = fixedPart s := by unfold snapFail; split <;> simp

@[simp] theorem ceEndGo_fixedPart (s k) : fixedPart (ceEndGo s k) = fixedPart s := by
  simp only [ceEndGo]
  repeat' split
  all_goals simp

@[simp] theorem ceEnd_fixedPart (s k) : fixedPart (ceEnd s k) = fixedPart s := by simp [ceEnd]

theorem relCheck_fixedPart {s k o t} (h : relCheck s k o = some t) : fixedPart t = fixedPart s := by
  unfold relCheck at h
  split at h
  · simp [← Option.some.inj h]
  · simp [← Option.some.inj h]
  · obtain ⟨a, -, rfl⟩ := Option.map_eq_some_iff.mp h
    simp

@[simp] theorem colRelease_fixedPart (s k) : fixedPart (colRelease s k) = fixedPart s := by
  unfold colRelease
  split
  · rfl
  · split
    · rfl
    · split
      · next hcheck => simp [relCheck_fixedPart hcheck]
      · simp

@[simp] theorem scramble_fixedPart (s a n) : fixedPart (scramble s a n) = fixedPart s := by
  simp only [scramble]
  repeat' split
  all_goals simp

@[simp] theorem colLost_fixedPart (s k o) : fixedPart (colLost s k o) = fixedPart s := by simp [colLost]

@[simp] theorem colSweepGo_fixedPart (k a s) : fixedPart (colSweepGo k a s) = fixedPart s := by
  induction a generalizing s with
  | nil => rfl
  | cons x l ih => simp [colSweepGo, ih]

@[simp] theorem markLost_fixedPart (started s dev) : fixedPart (markLost started s dev) = fixedPart s := by simp [markLost]

@[simp] theorem colSweep_fixedPart (s) : fixedPart (colSweep s) = fixedPart s := by simp [colSweep]

@[simp] theorem colGone_fixedPart (s dev) : fixedPart (colGone s dev) = fixedPart s := by simp [colGone]

@[simp] theorem colAskStep_fixedPart (s k o ranges) : fixedPart (colAskStep s k o ranges) = fixedPart s := by
  simp only [colAskStep]
  repeat' split
  all_goals simp

@[simp] theorem colStep_fixedPart (s k ranges) : fixedPart (colStep s k ranges) = fixedPart s := by
  simp only [colStep]
  split
  · simp
  · split
    · next hcheck => simp [colCheck_fixedPart hcheck]
    · simp

theorem bktCheck_fixedPart {s k o t} (h : bktCheck s k o = some t) : fixedPart t = fixedPart s := by
  unfold bktCheck at h
  rcases hcol : colCheck s k o none with _ | u
  · rw [hcol] at h
    obtain ⟨a, -, rfl⟩ := Option.map_eq_some_iff.mp h
    simp
  · rw [hcol] at h
    exact Option.some.inj h ▸ colCheck_fixedPart hcol

@[simp] theorem bktCommit_fixedPart (s k) : fixedPart (bktCommit s k) = fixedPart s := by
  simp only [bktCommit]
  split
  · rfl
  · split
    · rfl
    · split
      · simp
      · split
        · next hcheck => simp [bktCheck_fixedPart hcheck]
        · simp

@[simp] theorem ceGo_fixedPart (s k o fail) : fixedPart (ceGo s k o fail) = fixedPart s := by simp [ceGo]

@[simp] theorem ceRetryGo_fixedPart (s k ctx fail) : fixedPart (ceRetryGo s k ctx fail) = fixedPart s := by unfold ceRetryGo; split <;> simp

@[simp] theorem ceRetryAbort_fixedPart (s k ctx unwritable) :
    fixedPart (ceRetryAbort s k ctx unwritable) = fixedPart s := by unfold ceRetryAbort; split <;> simp

@[simp] theorem exhausted_fixedPart (s payload) : fixedPart (exhausted s payload) = fixedPart s := by simp [exhausted]

@[simp] theorem ceDefault_fixedPart (s ctx cannot) : fixedPart (ceDefault s ctx cannot) = fixedPart s := by
  simp only [ceDefault]
  repeat' split
  all_goals simp

@[simp] theorem lcuDefault_fixedPart (s core cannot) : fixedPart (lcuDefault s core cannot) = fixedPart s := by unfold lcuDefault; split <;> simp

/-! ### What the functions of `LedgerRun` keep -/

@[simp] theorem ldgDo_fixedPart (s f) : fixedPart (ldgDo s f) = fixedPart s := by simp [ldgDo]

@[simp] theorem flushDone_fixedPart (s) : fixedPart (flushDone s) = fixedPart s := by simp [flushDone]

@[simp] theorem flushNext_fixedPart (s) : fixedPart (flushNext s) = fixedPart s := by simp [flushNext]

@[simp] theorem clearApply_fixedPart (s seq ep cmd iak) : fixedPart (clearApply s seq ep cmd iak) = fixedPart s := by simp [clearApply]

@[simp] theorem lostNote_fixedPart (s) : fixedPart (lostNote s) = fixedPart s := by simp [lostNote]

@[simp] theorem flushEnd_fixedPart (s verifies) : fixedPart (flushEnd s verifies) = fixedPart s := by
  simp only [flushEnd]
  repeat' split
  all_goals simp

@[simp] theorem clearEnd_fixedPart (s) : fixedPart (clearEnd s) = fixedPart s := by simp [clearEnd]

@[simp] theorem ldgNonce_fixedPart (s) : fixedPart (ldgNonce s) = fixedPart s := by simp [ldgNonce]

@[simp] theorem clearTry_fixedPart (s d sigOk) : fixedPart (clearTry s d sigOk).1 = fixedPart s := by unfold clearTry; split <;> simp

@[simp] theorem freezeTry_fixedPart (s ms) : fixedPart (freezeTry s ms).1 = fixedPart s := by
  simp only [freezeTry]
  repeat' split
  all_goals simp

@[simp] theorem ldgSpill_fixedPart (s) : fixedPart (ldgSpill s) = fixedPart s := by simp [ldgSpill]

@[simp] theorem thaw_fixedPart (s cause) : fixedPart (thaw s cause) = fixedPart s := by simp [thaw]

@[simp] theorem useWrite_fixedPart (s win at_ energy active steps preempts) :
    fixedPart (useWrite s win at_ energy active steps preempts) = fixedPart s := by simp [useWrite]

@[simp] theorem windowGroup_fixedPart (s) : fixedPart (windowGroup s) = fixedPart s := by unfold windowGroup; split <;> simp

@[simp] theorem windowEnd_fixedPart (s) : fixedPart (windowEnd s) = fixedPart s := by unfold windowEnd; split <;> simp

@[simp] theorem segmentEnd_fixedPart (s next) : fixedPart (segmentEnd s next) = fixedPart s := by simp [segmentEnd]

@[simp] theorem queryAnswers_fixedPart (s src count seq ep) : fixedPart (queryAnswers s src count seq ep) = fixedPart s := by simp [queryAnswers]

@[simp] theorem ledgerAsk_fixedPart (s src count seq ep) : fixedPart (ledgerAsk s src count seq ep) = fixedPart s := by simp [ledgerAsk]

@[simp] theorem ldgUp_fixedPart (s) : fixedPart (ldgUp s) = fixedPart s := by simp [ldgUp]

@[simp] theorem ldgLock_fixedPart (s) : fixedPart (ldgLock s) = fixedPart s := by simp [ldgLock]

/-! ### What the functions of `MemRun` keep -/

@[simp] theorem eccTake_fixedPart (s line e) : fixedPart (eccTake s line e) = fixedPart s := by unfold eccTake; split <;> simp

@[simp] theorem mcEnter_fixedPart (k a s) : fixedPart (mcEnter k a s) = fixedPart s := by
  induction a generalizing s with
  | zero => rfl
  | succ n ih =>
    simp only [mcEnter]
    repeat' split
    all_goals simp [ih]

@[simp] theorem l1Come_fixedPart (s line) : fixedPart (l1Come s line) = fixedPart s := by simp [l1Come]

@[simp] theorem mcServe_fixedPart (s k e) : fixedPart (mcServe s k e) = fixedPart s := by
  simp only [mcServe]
  repeat' split
  all_goals simp

@[simp] theorem mcScrub_fixedPart (s k line e) : fixedPart (mcScrub s k line e) = fixedPart s := by simp [mcScrub]

@[simp] theorem downCopies_fixedPart (s core) : fixedPart (downCopies s core) = fixedPart s := by simp [downCopies]

@[simp] theorem downOps_fixedPart (s k) : fixedPart (downOps s k) = fixedPart s := by simp [downOps]

@[simp] theorem portDown_fixedPart (s k) : fixedPart (portDown s k) = fixedPart s := by simp [portDown]

/-! ### What the functions of `QuiesceOps` keep -/

@[simp] theorem rawPut_fixedPart (s a bs) : fixedPart (rawPut s a bs) = fixedPart s := by simp [rawPut]

@[simp] theorem rawBlit_fixedPart (s a n m bad) : fixedPart (rawBlit s a n m bad) = fixedPart s := by simp [rawBlit]

@[simp] theorem saveCtx_fixedPart (s0) : fixedPart (saveCtx s0) = fixedPart s0 := by simp [saveCtx]

@[simp] theorem saveCore_fixedPart (base c s) : fixedPart (saveCore base c s) = fixedPart s := by simp [saveCore]

@[simp] theorem saveSync_fixedPart (base s) : fixedPart (saveSync base s) = fixedPart s := by simp [saveSync]

@[simp] theorem saveLcu_fixedPart (base c s) : fixedPart (saveLcu base c s) = fixedPart s := by simp [saveLcu]

@[simp] theorem saveCe_fixedPart (base e s) : fixedPart (saveCe base e s) = fixedPart s := by simp [saveCe]

@[simp] theorem hiveClean_fixedPart (s) : fixedPart (hiveClean s) = fixedPart s := by simp [hiveClean]

@[simp] theorem saveImage_fixedPart (s0) : fixedPart (saveImage s0) = fixedPart s0 := by simp [saveImage]

@[simp] theorem loadCe_fixedPart (s k ctr) : fixedPart (loadCe s k ctr) = fixedPart s := by simp [loadCe]

@[simp] theorem loadSync_fixedPart (s) : fixedPart (loadSync s) = fixedPart s := by simp [loadSync]

@[simp] theorem loadSeq_fixedPart (s) : fixedPart (loadSeq s) = fixedPart s := by simp [loadSeq]

@[simp] theorem loadImage_fixedPart (s0) : fixedPart (loadImage s0) = fixedPart s0 := by
  unfold loadImage
  extract_lets s h hw s1 q1 q2 q3 s2
  split
  next ctr s3 hdraw =>
    have hs3 : fixedPart s3 = fixedPart s2 := by rw [← draw_fixedPart s2, hdraw]
    have hs2 : fixedPart s2 = fixedPart s0 := by
      simp only [s2, loadSeq_fixedPart, fixedPart_mk, fixedPart_eta, s1, setReg_fixedPart]
      exact fixedPart_foldl _ (fun _ _ => devTouch_fixedPart _ _ _ _) _ _
    simp only [loadSync_fixedPart, fixedPart_mk, fixedPart_eta]
    rw [fixedPart_foldl _ (fun _ _ => loadCe_fixedPart _ _ _), fixedPart_foldl _ (fun _ _ => setCore_fixedPart _ _ _), hs3, hs2]

/-! ### What the functions of `WipeOps` keep -/

@[simp] theorem wipeDie_fixedPart (s) : fixedPart (wipeDie s) = fixedPart s := by simp [wipeDie]

@[simp] theorem wipeMem_fixedPart (s scope) : fixedPart (wipeMem s scope) = fixedPart s := by simp [wipeMem]

@[simp] theorem mllDrop_fixedPart (s) : fixedPart (mllDrop s) = fixedPart s := by simp [mllDrop]

@[simp] theorem wipeClear_fixedPart (s scope) : fixedPart (wipeClear s scope) = fixedPart s := by simp [wipeClear]

@[simp] theorem wipeShow_fixedPart (s w) : fixedPart (wipeShow s w) = fixedPart s := by simp [wipeShow]

@[simp] theorem wipeStart_fixedPart (s scope why) : fixedPart (wipeStart s scope why) = fixedPart s := by simp [wipeStart]

/-! ### What the functions of `JobOps` keep -/

@[simp] theorem jobTo_fixedPart (s j) : fixedPart (jobTo s j) = fixedPart s := by simp [jobTo]

@[simp] theorem jobEnd_fixedPart (s) : fixedPart (jobEnd s) = fixedPart s := by simp [jobEnd]

@[simp] theorem holdZero_fixedPart (s) : fixedPart (holdZero s) = fixedPart s := by simp [holdZero]

@[simp] theorem hostPost_fixedPart (s q cid more status r0 r1) : fixedPart (hostPost s q cid more status r0 r1) = fixedPart s := by simp [hostPost]

@[simp] theorem hostDrain_fixedPart (a s) : fixedPart (hostDrain a s) = fixedPart s := by
  induction a generalizing s with
  | nil => rfl
  | cons x l ih => simp [hostDrain, ih]

@[simp] theorem hostRetry_fixedPart (s) : fixedPart (hostRetry s) = fixedPart s := by simp [hostRetry]

@[simp] theorem hostDone_fixedPart (s q cid status r0 r1) : fixedPart (hostDone s q cid status r0 r1) = fixedPart s := by simp [hostDone]

@[simp] theorem hostDoneAll_fixedPart (s op status r0 r1) : fixedPart (hostDoneAll s op status r0 r1) = fixedPart s := by simp [hostDoneAll]

@[simp] theorem wardTime_fixedPart (s) : fixedPart (wardTime s) = fixedPart s := by simp [wardTime]

@[simp] theorem wardStart_fixedPart (s) : fixedPart (wardStart s) = fixedPart s := by simp [wardStart]

@[simp] theorem roundPut_fixedPart (s d a bs) : fixedPart (roundPut s d a bs) = fixedPart s := by simp [roundPut]

@[simp] theorem pushCopies_fixedPart (s mgmt ds) : fixedPart (pushCopies s mgmt ds) = fixedPart s := by simp [pushCopies]

@[simp] theorem genSend_fixedPart (s lead gen a) : fixedPart (genSend s lead gen a) = fixedPart s := by simp [genSend]

@[simp] theorem imbalance_fixedPart (s) : fixedPart (imbalance s) = fixedPart s := by simp [imbalance]

@[simp] theorem stepLoss_fixedPart (s step) : fixedPart (stepLoss s step) = fixedPart s := by
  simp only [stepLoss]
  repeat' split
  all_goals simp

@[simp] theorem roundOpen_fixedPart (s p) : fixedPart (roundOpen s p) = fixedPart s := by simp [roundOpen]

@[simp] theorem secureAt_fixedPart (s) : fixedPart (secureAt s) = fixedPart s := by unfold secureAt; split <;> simp

@[simp] theorem snapAt_fixedPart (s) : fixedPart (snapAt s) = fixedPart s := by simp [snapAt]

@[simp] theorem stepCommit_fixedPart (s) : fixedPart (stepCommit s) = fixedPart s := by simp [stepCommit]

@[simp] theorem jobEnds_fixedPart (s) : fixedPart (jobEnds s) = fixedPart s := by simp [jobEnds]

@[simp] theorem haltCopy_fixedPart (core s q) : fixedPart (haltCopy core s q) = fixedPart s := by simp [haltCopy]

@[simp] theorem haltLcu_fixedPart (s core) : fixedPart (haltLcu s core) = fixedPart s := by
  simp only [haltLcu, l1Keep_fixedPart, l1BackAll_fixedPart, modCore_fixedPart]
  rw [fixedPart_foldl _ (fun _ _ => freeWatch_fixedPart _ _), fixedPart_foldl _ (fun t a => by split <;> simp)]
  simp

@[simp] theorem haltCe_fixedPart (s k) : fixedPart (haltCe s k) = fixedPart s := by simp [haltCe]

@[simp] theorem haltDone_fixedPart (s) : fixedPart (haltDone s) = fixedPart s := by unfold haltDone; split <;> simp

@[simp] theorem faultEnd_fixedPart (s) : fixedPart (faultEnd s) = fixedPart s := by simp [faultEnd]

@[simp] theorem relayOwn_fixedPart (s kind body) : fixedPart (relayOwn s kind body) = fixedPart s := by simp [relayOwn]

/-! ### What the functions of `JobRun` keep -/

@[simp] theorem writeHeader_fixedPart (s h) : fixedPart (writeHeader s h) = fixedPart s := by simp [writeHeader]

@[simp] theorem streamInit_fixedPart (s) : fixedPart (streamInit s) = fixedPart s := by simp [streamInit]

@[simp] theorem seqStart_fixedPart (s) : fixedPart (seqStart s) = fixedPart s := by simp [seqStart]

@[simp] theorem haltAsk_fixedPart (s) : fixedPart (haltAsk s) = fixedPart s := by simp [haltAsk]

@[simp] theorem haltLate_fixedPart (s core) : fixedPart (haltLate s core) = fixedPart s := by simp [haltLate]

@[simp] theorem seqResumes_fixedPart (s) : fixedPart (seqResumes s) = fixedPart s := by simp [seqResumes]

@[simp] theorem toLead_fixedPart {here} (h : ∀ t, fixedPart (here t) = fixedPart t) (s kind body) :
    fixedPart (toLead s kind body here) = fixedPart s := by
  unfold toLead
  split <;> simp [h]

@[simp] theorem relayFrom_fixedPart (s origin kind body) : fixedPart (relayFrom s origin kind body) = fixedPart s := by simp [relayFrom]

@[simp] theorem goHere_fixedPart (s) : fixedPart (goHere s) = fixedPart s := by unfold goHere; split <;> simp

@[simp] theorem abortHere_fixedPart (s) : fixedPart (abortHere s) = fixedPart s := by simp [abortHere]

@[simp] theorem permitHere_fixedPart {answer} (h : ∀ t a, fixedPart (answer t a) = fixedPart t) (s p) :
    fixedPart (permitHere s p answer) = fixedPart s := by
  simp [permitHere, h]

@[simp] theorem permitSend_fixedPart (s p) : fixedPart (permitSend s p) = fixedPart s := by simp [permitSend]

@[simp] theorem leadGo_fixedPart (s) : fixedPart (leadGo s) = fixedPart s := by simp [leadGo]

@[simp] theorem readyTake_fixedPart (s src) : fixedPart (readyTake s src) = fixedPart s := by simp [readyTake]

@[simp] theorem windowEnds_fixedPart (s) : fixedPart (windowEnds s) = fixedPart s := by simp [windowEnds]

@[simp] theorem quiesceHere_fixedPart (s) : fixedPart (quiesceHere s) = fixedPart s := by simp [quiesceHere]

@[simp] theorem drainCheck_fixedPart (s) : fixedPart (drainCheck s) = fixedPart s := by simp [drainCheck]

@[simp] theorem drainedSend_fixedPart (s) : fixedPart (drainedSend s) = fixedPart s := by simp [drainedSend]

@[simp] theorem drainNote_fixedPart (s) : fixedPart (drainNote s) = fixedPart s := by simp [drainNote]

@[simp] theorem drainedTake_fixedPart (s src sent recv) : fixedPart (drainedTake s src sent recv) = fixedPart s := by simp [drainedTake]

@[simp] theorem preemptHere_fixedPart (s) : fixedPart (preemptHere s) = fixedPart s := by unfold preemptHere; split <;> simp

@[simp] theorem rewriteJob_fixedPart (s) : fixedPart (rewriteJob s) = fixedPart s := by simp [rewriteJob]

@[simp] theorem restoredTake_fixedPart (s src) : fixedPart (restoredTake s src) = fixedPart s := by simp [restoredTake]

@[simp] theorem restoreHere_fixedPart (s) : fixedPart (restoreHere s) = fixedPart s := by
  unfold restoreHere
  split
  · rfl
  · rw [toLead_fixedPart (fun t => restoredTake_fixedPart t _)]
    simp

/-! ### What the functions of `FailRun` keep -/

@[simp] theorem beatSend_fixedPart (s) : fixedPart (beatSend s) = fixedPart s := by
  unfold beatSend
  repeat' split
  all_goals simp

@[simp] theorem beatTake_fixedPart (s src) : fixedPart (beatTake s src) = fixedPart s := by simp [beatTake]

@[simp] theorem planHere_fixedPart (s p) : fixedPart (planHere s p) = fixedPart s := by
  simp only [planHere]
  repeat' split
  all_goals simp

@[simp] theorem planTake_fixedPart (s src body p) : fixedPart (planTake s src body p) = fixedPart s := by simp [planTake]

@[simp] theorem planCheck_fixedPart (s) : fixedPart (planCheck s) = fixedPart s := by
  unfold planCheck
  repeat' split
  all_goals simp

@[simp] theorem reportTake_fixedPart (s src view counter) : fixedPart (reportTake s src view counter) = fixedPart s := by simp [reportTake]

@[simp] theorem reportSend_fixedPart (s) : fixedPart (reportSend s) = fixedPart s := by simp [reportSend]

@[simp] theorem leadMoved_fixedPart (s) : fixedPart (leadMoved s) = fixedPart s := by
  simp only [leadMoved]
  repeat' split
  all_goals simp

@[simp] theorem genLearn_fixedPart (s) : fixedPart (genLearn s) = fixedPart s := by unfold genLearn; split <;> simp

@[simp] theorem noticeRelay_fixedPart (s n) : fixedPart (noticeRelay s n) = fixedPart s := by simp [noticeRelay]

@[simp] theorem planVoid_fixedPart (s) : fixedPart (planVoid s) = fixedPart s := by simp [planVoid]

@[simp] theorem noticeHalt_fixedPart (s) : fixedPart (noticeHalt s) = fixedPart s := by unfold noticeHalt; split <;> simp

@[simp] theorem roundDrop_fixedPart (s) : fixedPart (roundDrop s) = fixedPart s := by simp [roundDrop]

@[simp] theorem noticeFirst_fixedPart (s n) : fixedPart (noticeFirst s n) = fixedPart s := by simp [noticeFirst]

@[simp] theorem noticeEnd_fixedPart (s n) : fixedPart (noticeEnd s n) = fixedPart s := by
  simp only [noticeEnd]
  repeat' split
  all_goals simp

@[simp] theorem noticeTake_fixedPart (s n) : fixedPart (noticeTake s n) = fixedPart s := by simp [noticeTake]

@[simp] theorem noticeMake_fixedPart (s d cause) : fixedPart (noticeMake s d cause) = fixedPart s := by simp [noticeMake]

@[simp] theorem beatLost_fixedPart (s) : fixedPart (beatLost s) = fixedPart s := by
  unfold beatLost
  repeat' split
  all_goals simp

@[simp] theorem noticeAgain_fixedPart (s) : fixedPart (noticeAgain s) = fixedPart s := by simp [noticeAgain]

@[simp] theorem reportLost_fixedPart (s d) : fixedPart (reportLost s d) = fixedPart s := by simp [reportLost]

@[simp] theorem restoreEnds_fixedPart (s) : fixedPart (restoreEnds s) = fixedPart s := by unfold restoreEnds; split <;> simp

@[simp] theorem roundNext_fixedPart {f} (h : ∀ t p, fixedPart (f t p) = fixedPart t) (s at_) : fixedPart (roundNext s at_ f) = fixedPart s := by
  unfold roundNext
  split <;> simp [h]

@[simp] theorem roundCopy_fixedPart (s) : fixedPart (roundCopy s) = fixedPart s := by simp [roundCopy]

@[simp] theorem roundClose_fixedPart (s) : fixedPart (roundClose s) = fixedPart s := by simp [roundClose]

@[simp] theorem genCheck_fixedPart (s) : fixedPart (genCheck s) = fixedPart s := by unfold genCheck; split <;> simp

@[simp] theorem genTake_fixedPart (s gen a) : fixedPart (genTake s gen a) = fixedPart s := by unfold genTake; split <;> simp

@[simp] theorem answerSend_fixedPart (s gen a) : fixedPart (answerSend s gen a) = fixedPart s := by
  simp only [answerSend]
  repeat' split
  all_goals simp

@[simp] theorem roundEnd_fixedPart (s) : fixedPart (roundEnd s) = fixedPart s := by simp [roundEnd]

@[simp] theorem permitTake_fixedPart (s p) : fixedPart (permitTake s p) = fixedPart s := by simp [permitTake]

@[simp] theorem afterDrain_fixedPart (s) : fixedPart (afterDrain s) = fixedPart s := by
  unfold afterDrain
  repeat' split
  all_goals simp

@[simp] theorem haltDrained_fixedPart (s) : fixedPart (haltDrained s) = fixedPart s := by
  unfold haltDrained
  repeat' split
  all_goals simp

/-! ### What the functions of `TimeRun` keep -/

@[simp] theorem syncTo_fixedPart (s st) : fixedPart (syncTo s st) = fixedPart s := by simp [syncTo]

@[simp] theorem parentUpdate_fixedPart (s) : fixedPart (parentUpdate s) = fixedPart s := by simp [parentUpdate]

@[simp] theorem laterRecord_fixedPart (s source code payload) : fixedPart (laterRecord s source code payload) = fixedPart s := by simp [laterRecord]

@[simp] theorem timeEvent_fixedPart (s code) : fixedPart (timeEvent s code) = fixedPart s := by simp [timeEvent]

@[simp] theorem holdoverEnds_fixedPart (s) : fixedPart (holdoverEnds s) = fixedPart s := by simp [holdoverEnds]

@[simp] theorem readyCheck_fixedPart (s) : fixedPart (readyCheck s) = fixedPart s := by simp [readyCheck]

@[simp] theorem lockReached_fixedPart (s) : fixedPart (lockReached s) = fixedPart s := by simp [lockReached]

@[simp] theorem timeStep_fixedPart (s d) : fixedPart (timeStep s d) = fixedPart s := by simp [timeStep]

@[simp] theorem syncAsk_fixedPart (s) : fixedPart (syncAsk s) = fixedPart s := by simp [syncAsk]

@[simp] theorem syncAnswer_fixedPart (s via child t1 t2) : fixedPart (syncAnswer s via child t1 t2) = fixedPart s := by simp [syncAnswer]

@[simp] theorem syncTake_fixedPart (s link t1 t2 t3 t4) : fixedPart (syncTake s link t1 t2 t3 t4) = fixedPart s := by simp [syncTake]

@[simp] theorem rootSet_fixedPart (s) : fixedPart (rootSet s) = fixedPart s := by simp [rootSet]

@[simp] theorem rootTrim_fixedPart (s) : fixedPart (rootTrim s) = fixedPart s := by simp [rootTrim]

@[simp] theorem ppsStamp_fixedPart (s) : fixedPart (ppsStamp s) = fixedPart s := by simp [ppsStamp]

@[simp] theorem ppsEdge_fixedPart (s) : fixedPart (ppsEdge s) = fixedPart s := by simp [ppsEdge]

@[simp] theorem ppsLost_fixedPart (s) : fixedPart (ppsLost s) = fixedPart s := by simp [ppsLost]

@[simp] theorem timSnap_fixedPart (s) : fixedPart (timSnap s) = fixedPart s := by simp [timSnap]

/-! ### What the functions of `PktRun` keep -/

@[simp] theorem setRx_fixedPart (s p r) : fixedPart (setRx s p r) = fixedPart s := by simp [setRx]

@[simp] theorem rxLand_fixedPart (s p bytes g) : fixedPart (rxLand s p bytes g) = fixedPart s := by simp [rxLand]

@[simp] theorem rxErr_fixedPart (s p code) : fixedPart (rxErr s p code) = fixedPart s := by simp [rxErr]

@[simp] theorem rxAgain_fixedPart (s p) : fixedPart (rxAgain s p) = fixedPart s := by simp [rxAgain]

@[simp] theorem rxNack_fixedPart (s p) : fixedPart (rxNack s p) = fixedPart s := by simp [rxNack]

@[simp] theorem landRefuse_fixedPart (s link p write place) :
    fixedPart (landRefuse s link p write place) = fixedPart s := by unfold landRefuse; split <;> simp

@[simp] theorem takeWr_fixedPart (s link p) : fixedPart (takeWr s link p) = fixedPart s := by
  simp only [takeWr]
  repeat' split
  all_goals simp

@[simp] theorem sendRsp_fixedPart (s0 p) : fixedPart (sendRsp s0 p) = fixedPart s0 := by simp [sendRsp]

@[simp] theorem serveAsk_fixedPart (s r) : fixedPart (serveAsk s r) = fixedPart s := by unfold serveAsk; split <;> simp

@[simp] theorem serveReads_fixedPart (s) : fixedPart (serveReads s) = fixedPart s := by simp [serveReads]

@[simp] theorem serveSettle_fixedPart (s) : fixedPart (serveSettle s) = fixedPart s := by simp [serveSettle]

@[simp] theorem takeReq_fixedPart (s link p) : fixedPart (takeReq s link p) = fixedPart s := by unfold takeReq; split <;> simp

@[simp] theorem takeSig_fixedPart (s link p) : fixedPart (takeSig s link p) = fixedPart s := by simp [takeSig]

@[simp] theorem takeNumbered_fixedPart (s link p) : fixedPart (takeNumbered s link p) = fixedPart s := by simp [takeNumbered]

@[simp] theorem takeRsp_fixedPart (s p) : fixedPart (takeRsp s p) = fixedPart s := by
  unfold takeRsp
  repeat' split
  all_goals simp

@[simp] theorem takeAckc_fixedPart (s p) : fixedPart (takeAckc s p) = fixedPart s := by simp [takeAckc]

@[simp] theorem takeNack_fixedPart (s p) : fixedPart (takeNack s p) = fixedPart s := by simp [takeNack]

@[simp] theorem takeErr_fixedPart (s p) : fixedPart (takeErr s p) = fixedPart s := by
  simp only [takeErr]
  repeat' split
  all_goals simp

@[simp] theorem takeAnswer_fixedPart (s p) : fixedPart (takeAnswer s p) = fixedPart s := by unfold takeAnswer; split <;> simp

@[simp] theorem pktTake_fixedPart (s link p) : fixedPart (pktTake s link p) = fixedPart s := by
  unfold pktTake
  repeat' split
  all_goals simp

@[simp] theorem pktSettle_fixedPart (old s) : fixedPart (pktSettle old s) = fixedPart s := by simp [pktSettle]

@[simp] theorem pktArrive_fixedPart (s link p) : fixedPart (pktArrive s link p) = fixedPart s := by simp [pktArrive]

@[simp] theorem sigLinks_fixedPart (a s) : fixedPart (sigLinks a s) = fixedPart s := by
  induction a generalizing s with
  | zero => rfl
  | succ n ih =>
    unfold sigLinks
    repeat' split
    all_goals simp [ih]

@[simp] theorem resendDue_fixedPart (s dst ctx) : fixedPart (resendDue s dst ctx) = fixedPart s := by
  simp only [resendDue]
  repeat' split
  all_goals simp

@[simp] theorem nackDue_fixedPart (s dst ctx) : fixedPart (nackDue s dst ctx) = fixedPart s := by
  simp only [nackDue]
  repeat' split
  all_goals simp

/-! ### What the functions of `LinkRun` keep -/

@[simp] theorem takeRendezvous_fixedPart (s b) : fixedPart (takeRendezvous s b) = fixedPart s := by unfold takeRendezvous; split <;> simp

@[simp] theorem takeDetector_fixedPart (s b) : fixedPart (takeDetector s b) = fixedPart s := by unfold takeDetector; split <;> simp

@[simp] theorem takeSync_fixedPart (s m) : fixedPart (takeSync s m) = fixedPart s := by
  simp only [takeSync]
  repeat' split
  all_goals simp

@[simp] theorem takeControl_fixedPart (s b) : fixedPart (takeControl s b) = fixedPart s := by unfold takeControl; split <;> simp

@[simp] theorem tc0Deliver_fixedPart (s m) : fixedPart (tc0Deliver s m) = fixedPart s := by unfold tc0Deliver; split <;> simp

@[simp] theorem tc0Flush_fixedPart (src a s) : fixedPart (tc0Flush src a s) = fixedPart s := by
  induction a generalizing s with
  | zero => rfl
  | succ n ih =>
    unfold tc0Flush
    split <;> simp [ih]

@[simp] theorem tc0Take_fixedPart (s m) : fixedPart (tc0Take s m) = fixedPart s := by simp [tc0Take]

@[simp] theorem formEvent_fixedPart (s k) : fixedPart (formEvent s k) = fixedPart s := by simp [formEvent]

@[simp] theorem tc0Arrive_fixedPart (s k m hops phase) : fixedPart (tc0Arrive s k m hops phase) = fixedPart s := by simp [tc0Arrive]

@[simp] theorem tc0Gap_fixedPart (s src) : fixedPart (tc0Gap s src) = fixedPart s := by
  simp only [tc0Gap]
  repeat' split
  all_goals simp

@[simp] theorem tc0Release_fixedPart (s) : fixedPart (tc0Release s) = fixedPart s := by unfold tc0Release; split <;> simp

@[simp] theorem linkSend_fixedPart (s k) : fixedPart (linkSend s k) = fixedPart s := by
  simp only [linkSend]
  repeat' split
  all_goals simp

@[simp] theorem linkAck_fixedPart (s k n) : fixedPart (linkAck s k n) = fixedPart s := by simp [linkAck]

@[simp] theorem retrain_fixedPart (s k) : fixedPart (retrain s k) = fixedPart s := by simp [retrain]

@[simp] theorem linkNak_fixedPart (s k n) : fixedPart (linkNak s k n) = fixedPart s := by simp [linkNak]

@[simp] theorem linkCredit_fixedPart (s k raw) : fixedPart (linkCredit s k raw) = fixedPart s := by simp [linkCredit]

@[simp] theorem linkAckWord_fixedPart (s k raw) : fixedPart (linkAckWord s k raw) = fixedPart s := by simp [linkAckWord]

@[simp] theorem retAdd_fixedPart (s k lane n) : fixedPart (retAdd s k lane n) = fixedPart s := by simp [retAdd]

@[simp] theorem linkPayload_fixedPart (s k raw) : fixedPart (linkPayload s k raw) = fixedPart s := by simp [linkPayload]

@[simp] theorem uncorrTake_fixedPart (s k) : fixedPart (uncorrTake s k) = fixedPart s := by simp [uncorrTake]

@[simp] theorem fecCount_fixedPart (s k fec) : fixedPart (fecCount s k fec) = fixedPart s := by unfold fecCount; split <;> simp

@[simp] theorem nakDue_fixedPart (s k) : fixedPart (nakDue s k) = fixedPart s := by simp [nakDue]

@[simp] theorem gapTake_fixedPart (s k n) : fixedPart (gapTake s k n) = fixedPart s := by simp [gapTake]

@[simp] theorem failTake_fixedPart (s k raw) : fixedPart (failTake s k raw) = fixedPart s := by simp [failTake]

@[simp] theorem linkIdle_fixedPart (s k raw) : fixedPart (linkIdle s k raw) = fixedPart s := by simp [linkIdle]

@[simp] theorem linkData_fixedPart (s k fec raw) : fixedPart (linkData s k fec raw) = fixedPart s := by simp [linkData]

@[simp] theorem linkIdleFlit_fixedPart (s k fec raw) : fixedPart (linkIdleFlit s k fec raw) = fixedPart s := by simp [linkIdleFlit]

@[simp] theorem reinject_fixedPart (a s) : fixedPart (reinject a s) = fixedPart s := by
  induction a generalizing s with
  | nil => rfl
  | cons x l ih => simp [reinject, ih]

@[simp] theorem linkFail_fixedPart (s k cls code) : fixedPart (linkFail s k cls code) = fixedPart s := by simp [linkFail]

@[simp] theorem trainEnd_fixedPart (s k ok) : fixedPart (trainEnd s k ok) = fixedPart s := by simp [trainEnd]

@[simp] theorem helloTake_fixedPart (s k dev index fpl sfl mll feed) :
    fixedPart (helloTake s k dev index fpl sfl mll feed) = fixedPart s := by simp [helloTake]

@[simp] theorem laneSick_fixedPart (s k lane) : fixedPart (laneSick s k lane) = fixedPart s := by unfold laneSick; split <;> simp

@[simp] theorem retrainEnds_fixedPart (s k) : fixedPart (retrainEnds s k) = fixedPart s := by simp [retrainEnds]

@[simp] theorem retrainLate_fixedPart (s k) : fixedPart (retrainLate s k) = fixedPart s := by simp [retrainLate]

/-! ### What the functions of `WipeRun` keep -/

@[simp] theorem sanitEnds_fixedPart (s k ok) : fixedPart (sanitEnds s k ok) = fixedPart s := by unfold sanitEnds; split <;> simp

@[simp] theorem mllLoad_fixedPart (s sigOk) : fixedPart (mllLoad s sigOk) = fixedPart s := by simp [mllLoad]

@[simp] theorem wipeAfter_fixedPart (s why) : fixedPart (wipeAfter s why) = fixedPart s := by unfold wipeAfter; split <;> simp

@[simp] theorem wipeFailed_fixedPart (s) : fixedPart (wipeFailed s) = fixedPart s := by simp [wipeFailed]

@[simp] theorem wipeDone_fixedPart (s w us mllOk) : fixedPart (wipeDone s w us mllOk) = fixedPart s := by simp [wipeDone]

@[simp] theorem wipeEnds_fixedPart (s fails us mllOk) : fixedPart (wipeEnds s fails us mllOk) = fixedPart s := by unfold wipeEnds; split <;> simp

@[simp] theorem holdEnds_fixedPart (s) : fixedPart (holdEnds s) = fixedPart s := by simp [holdEnds]

/-! ### What the functions of `SecRun` keep -/

@[simp] theorem secNonce_fixedPart (s) : fixedPart (secNonce s) = fixedPart s := by simp [secNonce]

@[simp] theorem moveGo_fixedPart (s) : fixedPart (moveGo s) = fixedPart s := by simp [moveGo]

@[simp] theorem moveJob_fixedPart (s) : fixedPart (moveJob s) = fixedPart s := by
  simp only [moveJob]
  repeat' split
  all_goals simp

@[simp] theorem moveStart_fixedPart (s m) : fixedPart (moveStart s m) = fixedPart s := by unfold moveStart; split <;> simp

@[simp] theorem secRefuse_fixedPart (s typ r) : fixedPart (secRefuse s typ r) = fixedPart s := by simp [secRefuse]

@[simp] theorem secTry_fixedPart (s d sigOk) : fixedPart (secTry s d sigOk).1 = fixedPart s := by unfold secTry; split <;> simp

@[simp] theorem secAccept_fixedPart (s typ key) : fixedPart (secAccept s typ key) = fixedPart s := by unfold secAccept; split <;> simp

@[simp] theorem relockAsk_fixedPart (s) : fixedPart (relockAsk s) = fixedPart s := by simp [relockAsk]

@[simp] theorem provisionStart_fixedPart (s) : fixedPart (provisionStart s) = fixedPart s := by simp [provisionStart]

@[simp] theorem provisionCert_fixedPart (s) : fixedPart (provisionCert s) = fixedPart s := by simp [provisionCert]

/-! ### What the functions of `CfgRun` keep -/

@[simp] theorem cfgRead_fixedPart (s sigOk) : fixedPart (cfgRead s sigOk).1 = fixedPart s := by
  simp only [cfgRead]
  repeat' split
  all_goals simp

@[simp] theorem cfgFabric_fixedPart (s) : fixedPart (cfgFabric s) = fixedPart s := by simp [cfgFabric]

@[simp] theorem feedOne_fixedPart (s d tag strict pos) : fixedPart (feedOne s d tag strict pos) = fixedPart s := by
  simp only [feedOne]
  repeat' split
  all_goals simp

@[simp] theorem feedCheck_fixedPart (s) : fixedPart (feedCheck s) = fixedPart s := by
  simp only [feedCheck]
  repeat' split
  all_goals simp

/-! ### What the functions of `BootRun` keep -/

@[simp] theorem coldReset_fixedPart (s) : fixedPart (coldReset s) = fixedPart s := by simp [coldReset]

@[simp] theorem powerLost_fixedPart (s) : fixedPart (powerLost s) = fixedPart s := by simp [powerLost]

@[simp] theorem stageTo_fixedPart (s n) : fixedPart (stageTo s n) = fixedPart s := by simp [stageTo]

@[simp] theorem bootStop_fixedPart (s source code payload) : fixedPart (bootStop s source code payload) = fixedPart s := by simp [bootStop]

@[simp] theorem romRejects_fixedPart (s rs) : fixedPart (romRejects s rs) = fixedPart s := by simp [romRejects]

@[simp] theorem romRecovery_fixedPart (s rs) :
    fixedPart (romRecovery s rs) = fixedPart s := by
  simp only [romRecovery, fixedPart_mk, fixedPart_eta, setRegF_fixedPart, stageTo_fixedPart, laterRecord_fixedPart, romRejects_fixedPart]

@[simp] theorem bootImage_fixedPart (s i o) : fixedPart (bootImage s i o) = fixedPart s := by simp [bootImage]

@[simp] theorem romRecords_fixedPart (s) : fixedPart (romRecords s) = fixedPart s := by simp [romRecords]

@[simp] theorem bootLedger_fixedPart (s rs) : fixedPart (bootLedger s rs) = fixedPart s := by simp [bootLedger]

@[simp] theorem bootTest_fixedPart (s o) : fixedPart (bootTest s o) = fixedPart s := by
  unfold bootTest
  repeat' split
  all_goals simp

@[simp] theorem bootPort_fixedPart (o s k) : fixedPart (bootPort o s k) = fixedPart s := by unfold bootPort; split <;> simp

@[simp] theorem bootLinks_fixedPart (s o) : fixedPart (bootLinks s o) = fixedPart s := by simp [bootLinks]

@[simp] theorem bootWipe_fixedPart (s o) : fixedPart (bootWipe s o) = fixedPart s := by simp [bootWipe]

@[simp] theorem causeSet_fixedPart (s cause resets) : fixedPart (causeSet s cause resets) = fixedPart s := by simp [causeSet]

@[simp] theorem flushAll_fixedPart (s) : fixedPart (flushAll s) = fixedPart s := by simp [flushAll]

@[simp] theorem resetDown_fixedPart (s cause) : fixedPart (resetDown s cause) = fixedPart s := by simp [resetDown]

@[simp] theorem resetLow_fixedPart (s) : fixedPart (resetLow s) = fixedPart s := by
  simp only [resetLow]
  repeat' split
  all_goals simp

@[simp] theorem cxlLate_fixedPart (s k) : fixedPart (cxlLate s k) = fixedPart s := by simp [cxlLate]

@[simp] theorem wdogKick_fixedPart (s) : fixedPart (wdogKick s) = fixedPart s := by simp [wdogKick]

/-! ### What the functions of `LoadRun` keep -/

@[simp] theorem putParts_fixedPart (s addr ps) : fixedPart (putParts s addr ps) = fixedPart s := by simp [putParts]

@[simp] theorem takeImage_fixedPart (s addr h) : fixedPart (takeImage s addr h) = fixedPart s := by simp [takeImage]

@[simp] theorem loadImageFile_fixedPart (s addr h) : fixedPart (loadImageFile s addr h) = fixedPart s := by simp [loadImageFile]

@[simp] theorem restartWipe_fixedPart (s) : fixedPart (restartWipe s) = fixedPart s := by simp [restartWipe]

@[simp] theorem restartImageFile_fixedPart (s addr b h) : fixedPart (restartImageFile s addr b h) = fixedPart s := by simp [restartImageFile]

/-! ### What the functions of `HostRun` keep -/

@[simp] theorem setQ_fixedPart (s n q) : fixedPart (setQ s n q) = fixedPart s := by simp [setQ]

@[simp] theorem queueErr_fixedPart (s n reason) : fixedPart (queueErr s n reason) = fixedPart s := by simp [queueErr]

@[simp] theorem sqTail_fixedPart (s n tail readError) : fixedPart (sqTail s n tail readError) = fixedPart s := by simp [sqTail]

@[simp] theorem cqHead_fixedPart (s n head) : fixedPart (cqHead s n head) = fixedPart s := by simp [cqHead]

@[simp] theorem queueOff_fixedPart (s n) : fixedPart (queueOff s n) = fixedPart s := by simp [queueOff]

@[simp] theorem qcfg_fixedPart (s n b a en) : fixedPart (qcfg s n b a en) = fixedPart s := by simp [qcfg]

theorem hostTake_fixedPart {s n op cid t} (h : hostTake s n op cid = some t) : fixedPart t = fixedPart s := by
  simp only [hostTake] at h
  split at h
  · cases h
  · simp [← Option.some.inj h]

@[simp] theorem hostRun_fixedPart {f} (hf : ∀ t, fixedPart (f t) = fixedPart t) (s n op cid ps inState form full) :
    fixedPart (hostRun s n op cid ps inState form full f) = fixedPart s := by
  unfold hostRun
  split
  · rfl
  · next htake => simp [hf, hostTake_fixedPart htake]

@[simp] theorem hostRefuse_fixedPart (s n cid code payload) : fixedPart (hostRefuse s n cid code payload) = fixedPart s := by simp [hostRefuse]

@[simp] theorem loadCmd_fixedPart (s n cid addr len hf) : fixedPart (loadCmd s n cid addr len hf) = fixedPart s := by
  unfold loadCmd
  refine hostRun_fixedPart (fun t => ?_) ..
  dsimp only
  repeat' split
  all_goals simp

@[simp] theorem startCmd_fixedPart (s n cid) : fixedPart (startCmd s n cid) = fixedPart s := by simp [startCmd]

@[simp] theorem preemptCmd_fixedPart (s n cid) : fixedPart (preemptCmd s n cid) = fixedPart s := by simp [preemptCmd]

@[simp] theorem resumeCmd_fixedPart (s n cid) : fixedPart (resumeCmd s n cid) = fixedPart s := by simp [resumeCmd]

@[simp] theorem unloadCmd_fixedPart (s n cid) : fixedPart (unloadCmd s n cid) = fixedPart s := by simp [unloadCmd]

@[simp] theorem restartCmd_fixedPart (s n cid addr len b hf) : fixedPart (restartCmd s n cid addr len b hf) = fixedPart s := by
  unfold restartCmd
  refine hostRun_fixedPart (fun t => ?_) ..
  dsimp only
  split
  · simp
  · split <;> simp

@[simp] theorem snapshotCmd_fixedPart (s n cid t k) : fixedPart (snapshotCmd s n cid t k) = fixedPart s := by simp [snapshotCmd]

@[simp] theorem wipeOndieCmd_fixedPart (s n cid) : fixedPart (wipeOndieCmd s n cid) = fixedPart s := by simp [wipeOndieCmd]

@[simp] theorem ledgerReadCmd_fixedPart (s n cid seq epoch count buf hf) :
    fixedPart (ledgerReadCmd s n cid seq epoch count buf hf) = fixedPart s := by simp [ledgerReadCmd]

@[simp] theorem ledgerFreezeCmd_fixedPart (s n cid ms unfreeze) :
    fixedPart (ledgerFreezeCmd s n cid ms unfreeze) = fixedPart s := by simp [ledgerFreezeCmd]

@[simp] theorem hostAnswer_fixedPart (s n cid code r) : fixedPart (hostAnswer s n cid code r) = fixedPart s := by unfold hostAnswer; split <;> simp

@[simp] theorem ledgerClearCmd_fixedPart (s n cid addr sigOk hf) :
    fixedPart (ledgerClearCmd s n cid addr sigOk hf) = fixedPart s := by simp [ledgerClearCmd]

@[simp] theorem securityCmd_fixedPart (s n cid addr len sigOk hf) :
    fixedPart (securityCmd s n cid addr len sigOk hf) = fixedPart s := by simp [securityCmd]

@[simp] theorem attestCmd_fixedPart (s n cid nonce buf hf) : fixedPart (attestCmd s n cid nonce buf hf) = fixedPart s := by simp [attestCmd]

@[simp] theorem flashWriteCmd_fixedPart (s n cid region addr len hf) : fixedPart (flashWriteCmd s n cid region addr len hf) = fixedPart s := by
  unfold flashWriteCmd
  refine hostRun_fixedPart (fun t => ?_) ..
  split <;> simp

@[simp] theorem relockCmd_fixedPart (s n cid) : fixedPart (relockCmd s n cid) = fixedPart s := by simp [relockCmd]

@[simp] theorem hostWindowFails_fixedPart (s) : fixedPart (hostWindowFails s) = fixedPart s := by simp [hostWindowFails]

@[simp] theorem hostDown_fixedPart (s cause) : fixedPart (hostDown s cause) = fixedPart s := by simp [hostDown]

/-! ### What the functions of `PowerRun` keep -/

@[simp] theorem thermHigh_fixedPart (s tj) : fixedPart (thermHigh s tj) = fixedPart s := by simp [thermHigh]

@[simp] theorem paceNote_fixedPart (s old new p1ms) : fixedPart (paceNote s old new p1ms) = fixedPart s := by simp [paceNote]

@[simp] theorem powerTick_fixedPart (s p10 p1ms mw tj volts rate) :
    fixedPart (powerTick s p10 p1ms mw tj volts rate) = fixedPart s := by simp [powerTick]

@[simp] theorem energyAdd_fixedPart (s uj) : fixedPart (energyAdd s uj) = fixedPart s := by simp [energyAdd]

@[simp] theorem railGone_fixedPart (s) : fixedPart (railGone s) = fixedPart s := by simp [railGone]

@[simp] theorem overtemp_fixedPart (s degrees) : fixedPart (overtemp s degrees) = fixedPart s := by simp [overtemp]

@[simp] theorem tripLate_fixedPart (s) : fixedPart (tripLate s) = fixedPart s := by simp [tripLate]

@[simp] theorem railOff_fixedPart (s) : fixedPart (railOff s) = fixedPart s := by simp [railOff]

@[simp] theorem powerGone_fixedPart (s) : fixedPart (powerGone s) = fixedPart s := by simp [powerGone]

@[simp] theorem failWrite_fixedPart (s) : fixedPart (failWrite s) = fixedPart s := by simp [failWrite]

@[simp] theorem failFlush_fixedPart (s) : fixedPart (failFlush s) = fixedPart s := by simp [failFlush]

@[simp] theorem powerGate_fixedPart (s) : fixedPart (powerGate s) = fixedPart s := by simp [powerGate]

@[simp] theorem powerFail_fixedPart (s mv) : fixedPart (powerFail s mv) = fixedPart s := by simp [powerFail]

@[simp] theorem failEnd_fixedPart (s verifies) : fixedPart (failEnd s verifies) = fixedPart s := by simp [failEnd]

@[simp] theorem flushComplete_fixedPart (s verifies) : fixedPart (flushComplete s verifies) = fixedPart s := by simp [flushComplete]

/-! ### What the functions of `RegMap` keep -/

@[simp] theorem seqCtrl_fixedPart (s v) : fixedPart (seqCtrl s v) = fixedPart s := by unfold seqCtrl; split <;> simp

@[simp] theorem hostQWrite_fixedPart (s n off v) : fixedPart (hostQWrite s n off v) = fixedPart s := by simp [hostQWrite]

/-! ### What the functions of `DebugRun` keep -/

@[simp] theorem tapOn_fixedPart {s t} (h : fixedPart t = fixedPart s) : fixedPart (tapOn s t) = fixedPart s := by
  unfold tapOn
  split <;> simp [h]

@[simp] theorem tapIr_fixedPart (s ir) : fixedPart (tapIr s ir) = fixedPart s := by simp [tapIr]

@[simp] theorem dapResult_fixedPart (s status code data) : fixedPart (dapResult s status code data) = fixedPart s := by simp [dapResult]

@[simp] theorem dapRefuse_fixedPart (s a reason) : fixedPart (dapRefuse s a reason) = fixedPart s := by simp [dapRefuse]

@[simp] theorem dapSession_fixedPart (s) : fixedPart (dapSession s) = fixedPart s := by simp [dapSession]

@[simp] theorem dapTry_fixedPart {f} (h : ∀ t, fixedPart (f t) = fixedPart t) (s a write) : fixedPart (dapTry s a write f) = fixedPart s := by
  simp [dapTry, h]

@[simp] theorem dapNote_fixedPart (s a) : fixedPart (dapNote s a) = fixedPart s := by simp [dapNote]

@[simp] theorem dbgHaltAsk_fixedPart (s core) : fixedPart (dbgHaltAsk s core) = fixedPart s := by simp [dbgHaltAsk]

@[simp] theorem dbgResume_fixedPart (s core) : fixedPart (dbgResume s core) = fixedPart s := by simp [dbgResume]

@[simp] theorem dbgStepAsk_fixedPart (s core) : fixedPart (dbgStepAsk s core) = fixedPart s := by simp [dbgStepAsk]

@[simp] theorem dbgChipHalt_fixedPart (s) : fixedPart (dbgChipHalt s) = fixedPart s := by simp [dbgChipHalt]

@[simp] theorem dbgChipResume_fixedPart (s) : fixedPart (dbgChipResume s) = fixedPart s := by simp [dbgChipResume]

theorem haltWrite_fixedPart {s v t} (h : haltWrite s v = some t) : fixedPart t = fixedPart s := by
  unfold haltWrite at h
  split at h
  all_goals simp only [reduceCtorEq, Option.some.injEq] at h
  all_goals simp [← h]

@[simp] theorem mres_fixedPart (s status code) : fixedPart (mres s status code) = fixedPart s := by simp [mres]

@[simp] theorem mboxSec_fixedPart (s len sigOk) : fixedPart (mboxSec s len sigOk) = fixedPart s := by
  have htry := secTry_fixedPart s (mboxBytes s len) sigOk
  unfold mboxSec
  split
  · simp
  · split <;> simp_all

@[simp] theorem mboxClear_fixedPart (s len sigOk) : fixedPart (mboxClear s len sigOk) = fixedPart s := by
  have htry := clearTry_fixedPart s (mboxBytes s len) sigOk
  unfold mboxClear
  split
  · simp
  · split
    · simp
    · split <;> simp_all

@[simp] theorem mboxFlash_fixedPart (s region off len) : fixedPart (mboxFlash s region off len) = fixedPart s := by
  unfold mboxFlash
  repeat' split
  all_goals simp

@[simp] theorem mboxProv_fixedPart (s) : fixedPart (mboxProv s) = fixedPart s := by simp [mboxProv]

@[simp] theorem mboxCert_fixedPart (s len) : fixedPart (mboxCert s len) = fixedPart s := by simp [mboxCert]

@[simp] theorem mcmdWrite_fixedPart (s v) : fixedPart (mcmdWrite s v) = fixedPart s := by
  simp only [mcmdWrite]
  repeat' split
  all_goals simp

@[simp] theorem readMeets_fixedPart (s a) : fixedPart (readMeets s a) = fixedPart s := by unfold readMeets; split <;> simp

@[simp] theorem readAt_fixedPart (s0 a) : fixedPart (readAt s0 a) = fixedPart s0 := by
  simp only [readAt]
  repeat' split
  all_goals simp

@[simp] theorem coreStore_fixedPart (s id off v) : fixedPart (coreStore s id off v) = fixedPart s := by simp [coreStore]

@[simp] theorem dapReads_fixedPart (s a) : fixedPart (dapReads s a) = fixedPart s := by simp [dapReads]

@[simp] theorem dapActs_fixedPart {f} (h : ∀ t, fixedPart (f t) = fixedPart t) (s a) : fixedPart (dapActs s a f) = fixedPart s := by simp [dapActs, h]

/-! ### What the functions of `Tick` keep -/

@[simp] theorem timeAdvance_fixedPart (s) : fixedPart (timeAdvance s) = fixedPart s := by simp [timeAdvance]

@[simp] theorem timeCount_fixedPart (s ns) : fixedPart (timeCount s ns) = fixedPart s := by simp [timeCount]

@[simp] theorem tick_fixedPart (s) : fixedPart (tick s) = fixedPart s := by simp [tick]

/-! ### What burns fuses -/

/-- What is fixed stays and the fuses grow, from one fixed part to a later one. -/
def PartGrows (p q : Bool × SMap (List Nat) × Fuses) : Prop := q.1 = p.1 ∧ q.2.1 = p.2.1 ∧ fusesGrow p.2.2 q.2.2

theorem fusesGrow_refl (f : Fuses) : fusesGrow f f := ⟨rfl, rfl, id, id, BitVec.and_self⟩

/-- A revoked slot stays revoked: the mask of the first fuses lies in that of the second, and this in that of the third. -/
theorem fusesGrow_trans {f g h : Fuses} (hfg : fusesGrow f g) (hgh : fusesGrow g h) : fusesGrow f h := by
  obtain ⟨hs, hr, hp, ht, hv⟩ := hfg
  obtain ⟨hs', hr', hp', ht', hv'⟩ := hgh
  refine ⟨hs'.trans hs, hr'.trans hr, hp' ∘ hp, ht' ∘ ht, ?_⟩
  calc f.revoked &&& h.revoked = f.revoked &&& g.revoked &&& h.revoked := by rw [hv]
    _ = f.revoked := by rw [BitVec.and_assoc, hv', hv]

@[simp] theorem partGrows_refl (p) : PartGrows p p := ⟨rfl, rfl, fusesGrow_refl _⟩

theorem PartGrows.trans {p q r} (h : PartGrows p q) (h' : PartGrows q r) : PartGrows p r := by
  obtain ⟨hp, hm, hf⟩ := h
  obtain ⟨hp', hm', hf'⟩ := h'
  exact ⟨hp'.trans hp, hm'.trans hm, fusesGrow_trans hf hf'⟩

/-- Burning fuses: what is fixed stays. -/
theorem partGrows_burn {p} {s : State} (h : PartGrows p (fixedPart s)) {g : Fuses} (hg : fusesGrow s.sec.fuses g) :
    PartGrows p (s.part832, s.repair, g) :=
  h.trans ⟨rfl, rfl, hg⟩

/-! Transitions of the life cycle and start-up burn fuses (R508, R516, R521, R522). -/

theorem and_or_left_self (v w : BitVec 8) : v &&& (v ||| w) = v := by
  ext i hi
  simp +contextual

@[simp] theorem moveBurn_partGrows {p s} (h : PartGrows p (fixedPart s)) (m) : PartGrows p (fixedPart (moveBurn s m).1) := by
  cases m with
  | provision => exact partGrows_burn h ⟨rfl, rfl, fun _ => rfl, id, BitVec.and_self⟩
  | register key =>
    simp only [moveBurn, record_fixedPart, fixedPart_mk]
    exact partGrows_burn h ⟨rfl, rfl, id, id, BitVec.and_self⟩
  | unlock => exact h
  | deregister =>
    refine partGrows_burn h ⟨rfl, rfl, id, id, ?_⟩
    exact and_or_left_self _ _
  | retire => exact partGrows_burn h ⟨rfl, rfl, id, fun _ => rfl, BitVec.and_self⟩
  | relock => exact h

@[simp] theorem moveEnds_partGrows {p s} (h : PartGrows p (fixedPart s)) : PartGrows p (fixedPart (moveEnds s)) := by
  unfold moveEnds
  split
  · exact h
  · split
    · exact h
    · simp [moveBurn_partGrows h]

@[simp] theorem bootEnum_partGrows {p s} (h : PartGrows p (fixedPart s)) (o) : PartGrows p (fixedPart (bootEnum s o)) := by
  unfold bootEnum
  extract_lets s1 up q1 s2 s3 old q2 q3 s4
  have h3 : PartGrows p (fixedPart s3) := by simpa [s3, s2, s1] using h
  have h4 : PartGrows p (fixedPart s4) := by
    unfold s4
    split
    · simp only [record_fixedPart, fixedPart_mk]
      exact partGrows_burn h3 ⟨rfl, rfl, id, id, BitVec.and_self⟩
    · exact h3
  simpa using h4

@[simp] theorem bootRest_partGrows {p s} (h : PartGrows p (fixedPart s)) (o) : PartGrows p (fixedPart (bootRest s o)) := by
  have hc : PartGrows p (fixedPart (cfgRead (stageTo s 4) o.cfgSigOk).1) := by simpa using h
  unfold bootRest
  split
  · exact bootEnum_partGrows h o
  · dsimp only
    repeat' split
    all_goals simp [h]

@[simp] theorem bootOn_partGrows {p s} (h : PartGrows p (fixedPart s)) : PartGrows p (fixedPart (bootOn s)) := by
  unfold bootOn
  split
  · exact h
  · dsimp only
    repeat' split
    all_goals simp [h]

@[simp] theorem bootRun_partGrows {p s} (h : PartGrows p (fixedPart s)) (o) : PartGrows p (fixedPart (bootRun s o)) := by
  unfold bootRun
  extract_lets q s1
  have h1 : PartGrows p (fixedPart s1) := by simpa [s1, q] using h
  split <;> simp [h1]

/-! Resets and power-up keep the fixed part and start up again (R508, R544 to R550). -/

@[simp] theorem resetRun_partGrows {p s} (h : PartGrows p (fixedPart s)) (cause o) : PartGrows p (fixedPart (resetRun s cause o)) := by
  unfold resetRun
  split <;> simp [h]

@[simp] theorem freeReset_partGrows {p s} (h : PartGrows p (fixedPart s)) (cause) : PartGrows p (fixedPart (freeReset s cause)) := by
  simp [freeReset, h]

@[simp] theorem powerOn_partGrows {p s} (h : PartGrows p (fixedPart s)) (o) : PartGrows p (fixedPart (powerOn s o)) := by
  simp [powerOn, h]

@[simp] theorem resetHigh_partGrows {p s} (h : PartGrows p (fixedPart s)) (o) : PartGrows p (fixedPart (resetHigh s o)) := by
  simp only [resetHigh]
  repeat' split
  all_goals simp [h]

@[simp] theorem powerUp_partGrows {p s} (h : PartGrows p (fixedPart s)) (o) : PartGrows p (fixedPart (powerUp s o)) := by
  simp only [powerUp]
  repeat' split
  all_goals simp [h]

@[simp] theorem watchdogEnds_partGrows {p s} (h : PartGrows p (fixedPart s)) (o) : PartGrows p (fixedPart (watchdogEnds s o)) := by
  unfold watchdogEnds
  split <;> simp [h]

@[simp] theorem hostRun_partGrows {p s f} (h : PartGrows p (fixedPart s)) (hf : ∀ t, PartGrows p (fixedPart t) → PartGrows p (fixedPart (f t)))
    (n op cid ps inState form full) : PartGrows p (fixedPart (hostRun s n op cid ps inState form full f)) := by
  unfold hostRun
  split
  · exact h
  · next t htake =>
    have ht : PartGrows p (fixedPart t) := hostTake_fixedPart htake ▸ h
    repeat' split
    all_goals simp [h, ht, hf]

@[simp] theorem resetCmd_partGrows {p s} (h : PartGrows p (fixedPart s)) (n cid key o) : PartGrows p (fixedPart (resetCmd s n cid key o)) :=
  hostRun_partGrows h (fun _ ht => resetRun_partGrows ht 3 o) ..

/-! Register writes and the debug port can start a reset (R9, R552, R618). -/

theorem partGrows_ite {p s t} {c : Prop} [Decidable c] (hs : PartGrows p (fixedPart s)) (ht : PartGrows p (fixedPart t)) :
    PartGrows p (fixedPart (if c then s else t)) := by
  split
  · exact hs
  · exact ht

@[simp] theorem woWrite_partGrows {p s} (h : PartGrows p (fixedPart s)) (a v) : PartGrows p (fixedPart (woWrite s a v)) := by
  simp only [woWrite]
  iterate 5 refine partGrows_ite (by simp [h]) ?_
  refine partGrows_ite (partGrows_ite (by simp [h]) (by simp [h])) (partGrows_ite (by simp [h]) ?_)
  repeat' split
  all_goals simp [h]

@[simp] theorem plainWrite_partGrows {p s} (h : PartGrows p (fixedPart s)) (a v) : PartGrows p (fixedPart (plainWrite s a v)) := by
  simp only [plainWrite]
  repeat' split
  all_goals simp [h]

theorem chipWrite_partGrows {p s a v t} (hw : chipWrite s a v = some t) (h : PartGrows p (fixedPart s)) : PartGrows p (fixedPart t) := by
  unfold chipWrite at hw
  split at hw
  · rwa [haltWrite_fixedPart hw]
  · cases hw
    repeat' split
    all_goals simp [h]

theorem chipWrite_getD_partGrows {p s} (h : PartGrows p (fixedPart s)) (a v) : PartGrows p (fixedPart ((chipWrite s a v).getD s)) := by
  cases hw : chipWrite s a v with
  | none => exact h
  | some t => exact chipWrite_partGrows hw h

@[simp] theorem writeAt_partGrows {p s} (h : PartGrows p (fixedPart s)) (a v) : PartGrows p (fixedPart (writeAt s a v)) := by
  simp only [writeAt]
  split
  · simp [h]
  · split
    · simp [h]
    · split
      · simp [h]
      · split
        · next t hw => simpa using chipWrite_partGrows hw (by simpa using h)
        · simp [h]
  · repeat' split
    all_goals simp [h]
  · repeat' split
    all_goals simp [h]

@[simp] theorem dapTry_partGrows {p s f} (h : PartGrows p (fixedPart s)) (hf : ∀ t, PartGrows p (fixedPart t) → PartGrows p (fixedPart (f t)))
    (a write) : PartGrows p (fixedPart (dapTry s a write f)) := by
  simp only [dapTry]
  repeat' split
  all_goals simp [h, hf]

@[simp] theorem dapWrites_partGrows {p s} (h : PartGrows p (fixedPart s)) (a v) : PartGrows p (fixedPart (dapWrites s a v)) :=
  dapTry_partGrows h (fun _ ht => writeAt_partGrows ht a v) ..

@[simp] theorem regWrite_partGrows {p s} (h : PartGrows p (fixedPart s)) (who a v) : PartGrows p (fixedPart (regWrite s who a v)) := by
  unfold regWrite
  repeat' split
  all_goals simp [h, chipWrite_getD_partGrows]

/-! ### Commands and steps -/

/-- A command's result: the fixed part grows in the state it leaves. -/
def OutGrows (p : Bool × SMap (List Nat) × Fuses) (o : Out) : Prop := ∀ t, o = .next t → PartGrows p (fixedPart t)

theorem outGrows_next {p t} (h : PartGrows p (fixedPart t)) : OutGrows p (.next t) := fun _ e => Host.Outcome.next.inj e ▸ h

theorem outGrows_refused (p r) : OutGrows p (.refused r) := fun _ e => nomatch e

theorem outGrows_onCore {p s core t} (h : PartGrows p (fixedPart t)) : OutGrows p (onCore s core t) := by
  unfold onCore
  split
  · exact outGrows_next h
  · exact outGrows_refused p _

theorem outGrows_onLink {p link t} (h : PartGrows p (fixedPart t)) : OutGrows p (onLink link t) := by
  unfold onLink
  split
  · exact outGrows_next h
  · exact outGrows_refused p _

theorem exec_outGrows (i : Instr) (s : State) : OutGrows (fixedPart s) (exec i s) := by
  cases i with
  | bundleIssue | mld | mswap | mmul | mmulz | mdrain | mtopk | passStart | chainCommit | operationCommit | vop | vcvt | vred | vscale | vrq | vfn |
  vsrKey | vsrDraw | vadam | tcfg | tld | tst | tmov | tzero | txp | xloc | xstr | xcol | xwatchArm | xwatchRelease | xfence | xfenceComplete | sinc |
  swait | sdec | ssig | sbar | cloop | cbr | cadd | cset | cmark | chalt | haltTimeout | lcuCopyStart | lcuCopyComplete | tornReread | lcuRetryGo |
  lcuRetryAbort => exact outGrows_onCore (by simp)
  | trainingAttemptEnd | hello | laneUnhealthy | retrainLock | retrainTimeout | flitSend | dataFlit | idleFlit | nak | wr | rdReq | rdRsp | sig | ack
  | ackc | nack | err | syncReq | syncRsp | neighbourRetrain => exact outGrows_onLink (by simp)
  | bundleFetch | bundleMulticast | cvar | jobDone | trainingStepCommit | seqTablePoll | seqRun | seqHalt | haltDrainComplete | seqResume |
  barrierRelease | quietWindowElapsed | blockedReport | withdraw | jobDeadlockMessage | mcRequest | gddr7Scrub | cxlPortDown | sanitizeComplete |
  sanitizeTimeout | e2eResendTimeout | nackResend | tc0Release | tc0GapTimeout | syncExchangeTimer | holdoverExpiry | ppsEdge | ppsTimeout |
  ceOperationStart | ceOperationComplete | collectiveStep | collectiveRelease | bucketCommit | ceRetryGo | ceRetryAbort | snapRequest | heartbeatSend
  | heartbeat | heartbeatTimeout | failureNotice | report | reportResendTimeout | reportTimeout | plan | restoreComplete | permit |
  securingCopiesComplete | securingCloseComplete | genDone | feedTagCheck | ledgerFlushComplete | ledgerClearComplete | accountingWindowBoundary |
  ldgFreeze | unfreeze | freezeExpiry | ledgerQuery | ledgerAnswer | registration | unlock | deregistration | retire | secRelock |
  lcTransitionComplete | wipeComplete | holdTimeExpiry | powerUp | cxlTrainTimeout | resetN | watchdogExpiry | bootWdogKick | hostSqTail | hostCqHead
  | hostQcfg | load | start | preempt | resume | unload | restart | snapshot | wipeOndie | ledgerRead | ledgerFreeze | ledgerClear | security | attest
  | flashWrite | reset | relock | ready | go | abort | startWindowExpiry | preemptMsg | drained | quiesce | resumeMsg | restored | pcieLinkDown |
  pwrFailN | powerLoopTick | energyAdd | overtempSense | tripRailTimeout | railOutOfRange | timSnap | tapReset | extest | idcode | dap | dstat |
  bypass | dapRead | dapWrite | dapNop | dbgCoreHalt | dbgCoreResume | dbgCoreStep | dbgChalt | dbgCresume | mboxSecurity | mboxLedgerClear |
  mboxFlashWrite | mboxProvision | mboxCertWrite | registerWrite | securingOpenComplete | resetNRelease |
  signalRelease | samplePreload => exact outGrows_next (by simp)
  | dbgReset => exact outGrows_next (dapTry_partGrows (partGrows_refl _) (fun t ht => by split <;> simp [ht]) ..)
  | hostCtrlReset | hostPerstN | pcieLinkUp => exact outGrows_next (by split <;> simp)
  | recoveryRetry isLcu =>
    cases isLcu with
    | false => exact outGrows_next (by simp)
    | true => exact outGrows_onCore (by simp)

theorem step_partGrows {s t} (h : step s = .next t) : PartGrows (fixedPart s) (fixedPart t) := by
  unfold step at h
  split at h
  · cases h
    simp
  · next c cs _ => exact exec_outGrows c { s with pending := cs } t h

/-- Only the fuse decides that a module is RETIRED (R508). -/
theorem lcState_retired_iff (s : State) : lcState s = .retired ↔ s.sec.fuses.retired = true := by
  unfold lcState
  constructor
  · intro h
    by_contra hr
    simp only [hr] at h
    repeat' split at h
    all_goals simp_all
  · intro h
    simp [h]

/-- Settles O59: every function that a step is made of keeps the part, the repair map and the fuses, but for the end of a life-cycle transition and of
start-up, which burn fuses; and RETIRED is read from a fuse. -/
theorem fusesAndRepairStay : Obligations.FusesAndRepairStay := by
  intro s t h
  obtain ⟨hpart, hrepair, hfuses⟩ := step_partGrows h
  obtain ⟨-, -, -, hretired, -⟩ := id hfuses
  refine ⟨⟨hpart, hrepair⟩, hfuses, fun hs => ?_⟩
  rw [lcState_retired_iff] at hs ⊢
  exact hretired hs

end Sys2Proof.Machine
end


section
/-! PROOFS. O9: MDRAIN and MTOPK. Their completion reads accumulator rows, the buffer and a few registers, which the issue and the record of
TALLY_RANGE_READ leave alone (`SeesSame`); it then puts their tile rows, and the scales of mode 1, in place in one commit. -/

namespace Sys2Proof.Machine

/-! ### What a reader of accumulator rows sees -/

/-- `t` shows a reader of accumulator rows of a core what `s` shows it: rows, marks, buffer, and every register but LDG_LOST. -/
structure SeesSame (s t : State) (core : Nat) : Prop where
  acc : (getCore t core).acc = (getCore s core).acc
  flips : (getCore t core).flips = (getCore s core).flips
  marks : (getCore t core).accPoison = (getCore s core).accPoison
  buf : (getCore t core).buf = (getCore s core).buf
  bufMarks : (getCore t core).bufPoison = (getCore s core).bufPoison
  reg : ∀ a, a ≠ aLdgLost → reg t a = reg s a

section
variable {s t : State} {core : Nat}

theorem accRowsAt_congr {c d : Core} (hacc : c.acc = d.acc) (hflips : c.flips = d.flips) (j n : Nat) : accRowsAt c j n = accRowsAt d j n := by
  simp only [accRowsAt, accRow_congr hacc hflips]

theorem SeesSame.srcVals_eq (h : SeesSame s t core) (kind j : Nat) : srcVals (getCore t core) kind j = srcVals (getCore s core) kind j := by
  simp only [srcVals, accRowsAt_congr h.acc h.flips, accRow_congr h.acc h.flips]

theorem SeesSame.rankVals_eq (h : SeesSame s t core) (kind j : Nat) : rankVals (getCore t core) kind j = rankVals (getCore s core) kind j := by
  simp only [rankVals, accRowsAt_congr h.acc h.flips, h.srcVals_eq]

theorem SeesSame.bufRead_eq (h : SeesSame s t core) (a n : Nat) : bufRead (getCore t core) a n = bufRead (getCore s core) a n := by
  rw [bufRead, bufRead, h.buf]

theorem SeesSame.accBad_eq (h : SeesSame s t core) (j : Nat) : accBad (getCore t core) j = accBad (getCore s core) j := by
  rw [accBad, accBad, h.marks, physRow_congr h.flips]

/-- ARR_SWIN lies at another place in its 64 bytes than LDG_LOST in its own. -/
theorem aArrSwin_ne_aLdgLost (core : Nat) : aArrSwin core ≠ aLdgLost := by
  simp only [aArrSwin, aArr, aLdgLost, aLdg]
  omega

theorem SeesSame.swin_eq (h : SeesSame s t core) : swin t core = swin s core := by
  simp only [swin, regF, h.reg _ (aArrSwin_ne_aLdgLost core)]

/-- The Mint's words come from its seed and its mode (R206). -/
theorem SeesSame.wordsFor_eq (h : SeesSame s t core) (o : FOp) (rnd : BitVec 2) (r n : Nat) :
    wordsFor t core o rnd r n = wordsFor s core o rnd r n := by
  simp only [wordsFor, drawWord, keyWord, mintMode1, regF, h.reg aMintSeed (by decide), h.reg aMintCtrl (by decide)]

/-- The issue of an M slot shows the same to its own operation. -/
theorem seesSame_issuedBy {m : MOp} {h : Hdr} {o : FOp} (hr : RunsAlone s core { m := m, mh := h } h)
    (hL : Launched s core (issuedBy s core { m := m, mh := h }) o) : SeesSame s (issuedBy s core { m := m, mh := h }) core where
  acc := plain_acc hL.plain_eq
  flips := plain_flips hL.plain_eq
  marks := plain_accPoison hL.plain_eq
  buf := plain_buf hL.plain_eq
  bufMarks := plain_bufPoison hL.plain_eq
  reg a _ := by
    have hunits : UnitsOnly { m := m, mh := h } := ⟨rfl, rfl, by simp, by simp⟩
    have heff : effSlots (getCore s core).p { m := m, mh := h } = { m := m, mh := h } := by simp [effSlots, hr.pred]
    obtain ⟨-, -, -, hregs⟩ := issueAll_units_frame hunits s core (soloBundle (getCore s core) s.seq.ctx) (getCore s core).nextPos
      (getCore s core).nextIdx
    rw [issuedBy, heff, Machine.reg, hregs, Machine.reg]

/-- TALLY_RANGE_READ is a record, or none (R167). -/
theorem rangeEvent_same (s : State) (core first n kind : Nat) (topk : Bool) : RecSame s (rangeEvent s core first n kind topk) := by
  unfold rangeEvent
  split
  · split
    · exact record_same ..
    · exact .refl s
  · exact .refl s

theorem rangeEvent_core (s : State) (core first n kind : Nat) (topk : Bool) :
    getCore (rangeEvent s core first n kind topk) core = getCore s core ∧ (rangeEvent s core first n kind topk).sync = s.sync := by
  obtain ⟨_, _, _, _, _, he, _⟩ := rangeEvent_same s core first n kind topk
  rw [he]
  exact ⟨rfl, rfl⟩

theorem seesSame_rangeEvent (s : State) (core first n kind : Nat) (topk : Bool) : SeesSame s (rangeEvent s core first n kind topk) core := by
  have hcore := (rangeEvent_core s core first n kind topk).1
  obtain ⟨_, _, _, _, _, he, hregs⟩ := rangeEvent_same s core first n kind topk
  exact ⟨by rw [hcore], by rw [hcore], by rw [hcore], by rw [hcore], by rw [hcore], fun a ha => by rw [he]; exact hregs a ha⟩

theorem accFirstBad_none {c : Core} (h : ∀ j, accBad c j = false) (j n : Nat) : accFirstBad c j n = none := by
  simp [accFirstBad, h]

end

/-- Rows taken with their places. -/
theorem map_zipIdx_map_range {α β : Type} (f : Nat → α) (g : α × Nat → β) (n : Nat) :
    (((List.range n).map f).zipIdx).map g = (List.range n).map fun i => g (f i, i) :=
  List.ext_getElem (by simp) fun i _ _ => by simp

/-! ### MDRAIN -/

/-- What an MDRAIN names (R130): its rows, its tile register with the shape captured of it (R90), its mode, rounding and source kind. -/
structure Drain where
  first : Nat
  n : Nat
  tile : Nat
  shape : Shape
  mode : Nat
  rnd : BitVec 2
  kind : Nat

section
variable (d : Drain) (s : State) (core : Nat) (o : FOp)

/-- The entries of the table of mode 2 (R186). -/
def Drain.entries : List ReqEntry :=
  let tab := if d.mode = 2 then bufRead (getCore s core) o.addr1.toNat 1024 else []
  (List.range 64).map fun j => reqEntry (slice tab (16 * j) 16)

/-- The values of row `i` of the drained rows. -/
def Drain.vals (i : Nat) : List Num := srcVals (getCore s core) d.kind (d.first + i)

/-- The scale of row `i` for an FP8 target, within the declared window (R184). -/
def Drain.scale8 (i : Nat) : Option (Int × Bool) := rowScale8 d.shape.fmt (swin s core).1 (swin s core).2 (d.vals s core i)

/-- The values of row `i` with their Mint words (R132). -/
def Drain.drawn (i : Nat) : List (Num × Nat) := (d.vals s core i).zip (wordsFor s core o d.rnd i 64)

/-- Codes of a row of the tile as its bytes (R80). -/
def Drain.pack (codes : List Nat) : List Byte := leBytes (elemBytes d.shape.fmt 64) (packCodes (fmtBits d.shape.fmt) codes)

/-- Row `i` of the tile, in the format of the tile (R131). -/
def Drain.row (i : Nat) : List Byte :=
  let fmt := d.shape.fmt
  let xs := d.drawn s core o i
  if d.mode = 0 then packRow fmt xs d.rnd.toNat
  else if d.mode = 1 then
    d.pack (if fmt = 3 || fmt = 4 then scaleRow8 fmt (d.scale8 s core i) xs d.rnd.toNat else scaleRowI fmt xs d.rnd.toNat)
  else d.pack ((xs.zip (d.entries s core o)).map fun q => requant fmt q.2 q.1.1 d.rnd.toNat q.1.2)

/-- Row `i`'s entry of the scale vector of mode 1 (R183). -/
def Drain.scale (i : Nat) : List Byte :=
  if d.shape.fmt == 3 || d.shape.fmt == 4 then leBytes 1 (scaleByte8 (d.scale8 s core i)) else leBytes 4 (rowScaleI d.shape.fmt (d.vals s core i))

/-- A core with the tile rows in place, and in mode 1 the scale vector with them (R130). -/
def Drain.commit (c : Core) : Core :=
  let c1 := tileWrite c d.tile d.shape ((List.range d.n).map (d.row s core o))
  if d.mode = 1 then bufPieces c1 [(o.addr1.toNat, (List.range d.n).flatMap (d.scale s core), false)] else c1
end

section
variable {s t : State} {core : Nat} {o : FOp} {d : Drain}

/-- Mode 1 into an FP8 format (R179, R183). -/
theorem Drain.commit_scaled8 (hmode : d.mode = 1) (hfmt : d.shape.fmt = 3 ∨ d.shape.fmt = 4) (c : Core) :
    d.commit s core o c = bufPieces (tileWrite c d.tile d.shape ((List.range d.n).map fun i =>
        d.pack (scaleRow8 d.shape.fmt (d.scale8 s core i) (d.drawn s core o i) d.rnd.toNat)))
      [(o.addr1.toNat, (List.range d.n).flatMap fun i => leBytes 1 (scaleByte8 (d.scale8 s core i)), false)] := by
  have hrow : d.row s core o = fun i => d.pack (scaleRow8 d.shape.fmt (d.scale8 s core i) (d.drawn s core o i) d.rnd.toNat) := by
    funext i
    simp [Drain.row, hmode, hfmt]
  have hscale : d.scale s core = fun i => leBytes 1 (scaleByte8 (d.scale8 s core i)) := by
    funext i
    simp [Drain.scale, hfmt]
  rw [Drain.commit, hrow, hscale, if_pos hmode]

theorem SeesSame.drain_commit (h : SeesSame s t core) : d.commit t core o = d.commit s core o := by
  have hvals : d.vals t core = d.vals s core := funext fun i => h.srcVals_eq d.kind _
  have hscale8 : d.scale8 t core = d.scale8 s core := funext fun i => by simp only [Drain.scale8, hvals, h.swin_eq]
  have hdrawn : d.drawn t core o = d.drawn s core o := funext fun i => by simp only [Drain.drawn, hvals, h.wordsFor_eq]
  have hentries : d.entries t core o = d.entries s core o := by simp only [Drain.entries, h.bufRead_eq]
  have hrow : d.row t core o = d.row s core o := funext fun i => by simp only [Drain.row, hscale8, hdrawn, hentries]
  have hscale : d.scale t core = d.scale s core := funext fun i => by simp only [Drain.scale, hvals, hscale8]
  funext c
  rw [Drain.commit, hrow, hscale]
  rfl

theorem Drain.commit_st (c : Core) : (d.commit s core o c).st = c.st := by
  unfold Drain.commit
  split <;> rfl

theorem plain_drain {c e : Core} (h : plain c = plain e) : plain (d.commit s core o c) = plain (d.commit s core o e) := by
  have htile := plain_tileWrite h d.tile d.shape ((List.range d.n).map (d.row s core o))
  unfold Drain.commit
  split
  · exact plain_bufPieces htile _
  · exact htile

/-- Its commit leaves a core's run alone: in mode 1 it reads no buffer byte itself. -/
theorem Drain.commit_run {c : Core} (hreads : d.mode = 1 → opReads o = []) (hf : c.flight = [o]) : RunSame c (d.commit s core o c) := by
  unfold Drain.commit
  split
  · next hmode => exact bufPieces_run (c := tileWrite c d.tile d.shape ((List.range d.n).map (d.row s core o))) (hreads hmode) hf _
  · exact ⟨rfl, rfl, rfl⟩

/-- Nothing stands against an MDRAIN: its rows are clean, and so in mode 2 is its table, of entries that the format takes (R136, R189). -/
structure DrainSound (d : Drain) (s : State) (core : Nat) (o : FOp) : Prop where
  acc : ∀ j, accBad (getCore s core) j = false
  buf : d.mode = 2 → ∀ u, smGet false (getCore s core).bufPoison u = false
  entries : d.mode = 2 → ∀ e ∈ d.entries s core o, reqOk d.shape.fmt e = true

theorem SeesSame.drainSound (h : SeesSame s t core) (hs : DrainSound d s core o) : DrainSound d t core o where
  acc j := (h.accBad_eq j).trans (hs.acc j)
  buf hmode u := by rw [h.bufMarks]; exact hs.buf hmode u
  entries hmode := by simpa only [Drain.entries, h.bufRead_eq] using hs.entries hmode

/-- The state with a core put into it by an MDRAIN, its clamped scales and its draws counted (R181, R215). -/
def Drain.counted (d : Drain) (s : State) (core : Nat) (c : Core) (clamps : Nat) : State :=
  let s1 := bump (setCore s core c) (aArrQclamp core) clamps
  if d.rnd.toNat = 2 then bump s1 (aMintDraws core) (64 * d.n) else s1

theorem Drain.counted_core (d : Drain) {s : State} {core : Nat} {c : Core} (hc : c.st ≠ .idle) (clamps : Nat) :
    getCore (d.counted s core c clamps) core = c ∧ (d.counted s core c clamps).sync = s.sync := by
  unfold Drain.counted
  split <;> simp [getCore_setCore _ _ _ (ne_init_of_st _ hc)]

/-- An MDRAIN that nothing stands against puts its rows in place and ends. -/
theorem doMdrain_commits (hshape : capShape o d.tile = d.shape) (holds : o.olds = []) (hs : DrainSound d s core o) : ∃ clamps,
    doMdrain s core o d.first d.n d.tile d.mode d.rnd.toNat d.kind
      = finishOp (d.counted (rangeEvent (draw s).2 core d.first d.n d.kind false) core (d.commit s core o (getCore s core)) clamps) core o := by
  have htable : (if d.mode = 2 then bufFirstPoison (getCore s core) o.addr1.toNat 1024 else none) = none := by
    split
    · next hmode => exact bufFirstPoison_none (hs.buf hmode) _ _
    · rfl
  have hentries : ¬(decide (d.mode = 2) && !(d.entries s core o).all (reqOk d.shape.fmt)) = true := by
    simpa using hs.entries
  have hsees : SeesSame s (rangeEvent (draw s).2 core d.first d.n d.kind false) core :=
    { seesSame_rangeEvent (draw s).2 core d.first d.n d.kind false with }
  have hcore : getCore (rangeEvent (draw s).2 core d.first d.n d.kind false) core = getCore s core := (rangeEvent_core ..).1
  unfold Drain.entries at hentries
  simp only [doMdrain, accFirstBad_none hs.acc, htable, holds, raceOlds_nil, hshape]
  rw [if_neg hentries]
  simp only [map_zipIdx_map_range, List.flatMap_map, BitVec.ofNat_toNat, BitVec.setWidth_eq, hsees.swin_eq, hsees.wordsFor_eq, hcore]
  exact ⟨_, rfl⟩
end

section
variable {s : State} {core : Nat} {h : Hdr} {first rows1 : BitVec 11} {tile : BitVec 5} {tag : BitVec 4} {mode : BitVec 3} {rnd : BitVec 2}
  {areg : BitVec 4} {off : BitVec 16} {kind : BitVec 2}

/-- What the operands of an MDRAIN name at its issue. -/
def drainOf (c : Core) (first rows1 : BitVec 11) (tile : BitVec 5) (mode : BitVec 3) (rnd kind : BitVec 2) : Drain :=
  ⟨first.toNat, rows1.toNat + 1, tile.toNat, shapeOf c tile.toNat, mode.toNat, rnd, kind.toNat⟩

/-- An MDRAIN as its slot command puts it into flight. -/
def drainOp (s : State) (core : Nat) (h : Hdr) (first rows1 : BitVec 11) (tile : BitVec 5) (tag : BitVec 4) (mode : BitVec 3) (rnd : BitVec 2)
    (areg : BitVec 4) (off : BitVec 16) (kind : BitVec 2) : FOp :=
  opOf s core (.m (.mdrain first rows1 tile tag mode rnd areg off kind)) h (resolve (getCore s core) areg off) 0

/-- In mode 1 an MDRAIN writes the buffer and reads none of it (R183). -/
theorem opReads_drainOp (hmode : mode.toNat = 1) : opReads (drainOp s core h first rows1 tile tag mode rnd areg off kind) = [] := by
  obtain rfl : mode = 1 := BitVec.eq_of_toNat_eq hmode
  simp [opReads, opTouches, drainOp, opOf, launchOp]

/-- An MDRAIN that runs alone ends with its commit. -/
theorem mdrain_result (hr : RunsAlone s core { m := .mdrain first rows1 tile tag mode rnd areg off kind, mh := h } h)
    (hs : DrainSound (drainOf (getCore s core) first rows1 tile mode rnd kind) s core
      (drainOp s core h first rows1 tile tag mode rnd areg off kind)) :
    ∃ t, exec (.mdrain core h first rows1 tile tag mode rnd areg off kind) s = .next t ∧
      EndsAs s t core h ((drainOf (getCore s core) first rows1 tile mode rnd kind).commit s core
        (drainOp s core h first rows1 tile tag mode rnd areg off kind) (getCore s core)) := by
  let d := drainOf (getCore s core) first rows1 tile mode rnd kind
  let o := drainOp s core h first rows1 tile tag mode rnd areg off kind
  let s1 := issuedBy s core { m := .mdrain first rows1 tile tag mode rnd areg off kind, mh := h }
  have hL : Launched s core s1 o := launched_m hr rfl
  have hsees : SeesSame s s1 core := seesSame_issuedBy hr hL
  have hshape : capShape o d.tile = d.shape := capShape_opOf (by simp [bodyUses, mUses, d, drainOf])
  obtain ⟨clamps, hco⟩ := doMdrain_commits hshape rfl (hsees.drainSound hs)
  rw [hsees.drain_commit] at hco
  have hst : (d.commit s core o (getCore s1 core)).st ≠ .idle := by
    rw [Drain.commit_st, hL.st_eq]
    decide
  obtain ⟨hcore, hsync⟩ := d.counted_core (s := rangeEvent (draw s1).2 core d.first d.n d.kind false) (core := core) hst clamps
  have hsync1 := hsync.trans (rangeEvent_core ..).2
  rw [exec_of_slotsOf rfl]
  refine endsAs_of_completes hr hL rfl (canComplete_alone hL.flight_eq rfl) ?_ (by rw [DetFree, hsync1]; exact hL.det) hcore
    (Drain.commit_run opReads_drainOp hL.flight_eq) (plain_drain hL.plain_eq)
  change doMdrain (meet s1 core (opMeets o)) _ _ _ _ _ _ _ _ = _
  rw [meet_launched hr.issues hL]
  exact hco
end

/-! ### MTOPK -/

/-- What an MTOPK names (R134): its rows, its two tile registers with the shapes captured of them, its k, position base and source kind. -/
structure Ranking where
  first : Nat
  n : Nat
  values : Nat
  valueShape : Shape
  places : Nat
  placeShape : Shape
  k : Nat
  base : Nat
  kind : Nat

section
variable (d : Ranking) (s : State) (core : Nat)

/-- The k largest of row `i`, with their columns (R169). -/
def Ranking.top (i : Nat) : List (Num × Nat) := (ranked ((rankVals (getCore s core) d.kind (d.first + i)).zip (List.range 64))).take d.k

/-- Row `i` of the tile of values. -/
def Ranking.valueRow (i : Nat) : List Byte :=
  packRow d.valueShape.fmt ((d.top s core i).map fun x => ((srcVals (getCore s core) d.kind (d.first + i)).getD x.2 .nan, 0)) 0

/-- Row `i` of the tile of positions. -/
def Ranking.placeRow (i : Nat) : List Byte := leBytes (4 * d.k) (packCodes 32 ((d.top s core i).map fun x => (d.base + x.2) % 2 ^ 24))

/-- A core with both tiles in place. -/
def Ranking.commit (c : Core) : Core :=
  tileWrite (tileWrite c d.values d.valueShape ((List.range d.n).map (d.valueRow s core))) d.places d.placeShape
    ((List.range d.n).map (d.placeRow s core))
end

section
variable {s t : State} {core : Nat} {o : FOp} {d : Ranking}

theorem SeesSame.ranking_commit (h : SeesSame s t core) : d.commit t core = d.commit s core := by
  have htop : d.top t core = d.top s core := funext fun i => by simp only [Ranking.top, h.rankVals_eq]
  have hvalue : d.valueRow t core = d.valueRow s core := funext fun i => by simp only [Ranking.valueRow, htop, h.srcVals_eq]
  have hplace : d.placeRow t core = d.placeRow s core := funext fun i => by simp only [Ranking.placeRow, htop]
  funext c
  rw [Ranking.commit, hvalue, hplace]
  rfl

theorem plain_ranking {c e : Core} (h : plain c = plain e) : plain (d.commit s core c) = plain (d.commit s core e) :=
  plain_tileWrite (plain_tileWrite h _ _ _) _ _ _

theorem Ranking.commit_run (c : Core) : RunSame c (d.commit s core c) := ⟨rfl, rfl, rfl⟩

/-- An MTOPK of clean rows puts its two tiles in place and ends. -/
theorem doMtopk_commits (hvalues : capShape o d.values = d.valueShape) (hplaces : capShape o d.places = d.placeShape)
    (hacc : ∀ j, accBad (getCore s core) j = false) :
    doMtopk s core o d.first d.n d.values d.places d.k d.base d.kind
      = finishOp (setCore (rangeEvent s core d.first d.n d.kind true) core (d.commit s core (getCore s core))) core o := by
  simp only [doMtopk, accFirstBad_none hacc, hvalues, hplaces, map_zipIdx_map_range, List.map_map, (rangeEvent_core ..).1]
  rfl
end

section
variable {s : State} {core : Nat} {h : Hdr} {first rows1 : BitVec 11} {vt : BitVec 5} {vg : BitVec 4} {pt : BitVec 5} {pg k1 : BitVec 4}
  {base : BitVec 24} {kind : BitVec 2}

/-- What the operands of an MTOPK name at its issue. -/
def rankingOf (c : Core) (first rows1 : BitVec 11) (vt pt : BitVec 5) (k1 : BitVec 4) (base : BitVec 24) (kind : BitVec 2) : Ranking :=
  ⟨first.toNat, rows1.toNat + 1, vt.toNat, shapeOf c vt.toNat, pt.toNat, shapeOf c pt.toNat, k1.toNat + 1, base.toNat, kind.toNat⟩

/-- An MTOPK that runs alone ends with its commit. -/
theorem mtopk_result (hr : RunsAlone s core { m := .mtopk first rows1 vt vg pt pg k1 base kind, mh := h } h)
    (hacc : ∀ j, accBad (getCore s core) j = false) :
    ∃ t, exec (.mtopk core h first rows1 vt vg pt pg k1 base kind) s = .next t ∧
      EndsAs s t core h ((rankingOf (getCore s core) first rows1 vt pt k1 base kind).commit s core (getCore s core)) := by
  let d := rankingOf (getCore s core) first rows1 vt pt k1 base kind
  let o := opOf s core (.m (.mtopk first rows1 vt vg pt pg k1 base kind)) h 0 0
  let s1 := issuedBy s core { m := .mtopk first rows1 vt vg pt pg k1 base kind, mh := h }
  have hL : Launched s core s1 o := launched_m hr rfl
  have hsees : SeesSame s s1 core := seesSame_issuedBy hr hL
  have hvalues : capShape o d.values = d.valueShape := capShape_opOf (by simp [bodyUses, mUses, d, rankingOf])
  have hplaces : capShape o d.places = d.placeShape := capShape_opOf (by simp [bodyUses, mUses, d, rankingOf])
  have hco := doMtopk_commits hvalues hplaces fun j => (hsees.accBad_eq j).trans (hacc j)
  rw [hsees.ranking_commit] at hco
  have hrun := Ranking.commit_run (s := s) (core := core) (d := d) (getCore s1 core)
  obtain ⟨-, -, hst⟩ := id hrun
  have hput : getCore (setCore (rangeEvent s1 core d.first d.n d.kind true) core (d.commit s core (getCore s1 core))) core
      = d.commit s core (getCore s1 core) :=
    getCore_setCore _ _ _ (ne_init_of_st _ (by rw [hst, hL.st_eq]; decide))
  rw [exec_of_slotsOf rfl]
  refine endsAs_of_completes hr hL rfl (canComplete_alone hL.flight_eq rfl) ?_
    (by rw [DetFree, setCore_sync, (rangeEvent_core ..).2]; exact hL.det) hput hrun (plain_ranking hL.plain_eq)
  change doMtopk (meet s1 core (opMeets o)) _ _ _ _ _ _ _ _ _ = _
  rw [meet_launched hr.issues hL]
  exact hco
end

/-! ### The three modes of MDRAIN and MTOPK -/

/-- The table's entries are those that the statement tests (R187). -/
theorem forall_entries {d : Drain} {s : State} {core : Nat} {o : FOp} {p : ReqEntry → Prop} (hmode : d.mode = 2) :
    (∀ e ∈ d.entries s core o, p e) ↔ ∀ j, j < 64 → p (reqEntry (slice (bufRead (getCore s core) o.addr1.toNat 1024) (16 * j) 16)) := by
  simp [Drain.entries, hmode]

/-- Settles O9: each clause is the commit of `mdrain_result` or `mtopk_result`, written out for its mode. -/
theorem accumulatorReadResults : Obligations.AccumulatorReadResults := by
  refine ⟨fun s core h first rows1 tile tag rnd areg off kind hr hacc => ?_,
    fun s core h first rows1 tile tag rnd areg off kind hr hacc hfmt => ?_,
    fun s core h first rows1 tile tag rnd areg off kind hr hacc hbuf hreq => ?_,
    fun s core h first rows1 vt vg pt pg k1 base kind hr hacc => mtopk_result hr hacc⟩
  · exact mdrain_result hr ⟨hacc, by simp [drainOf], by simp [drainOf]⟩
  · obtain ⟨t, hexec, hends⟩ := mdrain_result hr ⟨hacc, by simp [drainOf], by simp [drainOf]⟩
    rw [Drain.commit_scaled8 rfl hfmt] at hends
    exact ⟨t, hexec, hends⟩
  · exact mdrain_result hr ⟨hacc, fun _ => hbuf, fun hmode => (forall_entries hmode).mpr hreq⟩

end Sys2Proof.Machine
end


section
/-! PROOFS. O7, O11: VSR KEY, which takes effect as it issues, and VADAM. What VADAM reads at its completion (its parameter block, its tiles, the Mint's
seed and mode) is what stood there at its issue. -/

namespace Sys2Proof.Machine

/-! ### VSR KEY -/

/-- The core with a Mint key read from the two a-registers that an immediate names; the step stays (R208). -/
def keyed (c : Core) (imm : BitVec 32) : Core :=
  { c with key :=
    ⟨c.key.step, (smGet 0 c.a (imm.toNat % 16)).extractLsb' 0 32, (smGet 0 c.a (imm.toNat % 16)).extractLsb' 32 32,
      (smGet 0 c.a (imm.toNat / 16 % 16)).extractLsb' 0 48⟩ }

theorem ofNat_toNat_div_eq_extractLsb' (x : Word64) (w lo : Nat) : BitVec.ofNat w (x.toNat / 2 ^ lo) = x.extractLsb' lo w :=
  BitVec.eq_of_toNat_eq (by simp [Nat.shiftRight_eq_div_pow])

theorem setKey_eq_keyed (c : Core) (imm : BitVec 32) : setKey c imm = keyed c imm := by
  have hlow : ∀ (x : Word64) (w : Nat), BitVec.ofNat w x.toNat = x.extractLsb' 0 w := fun x w => by
    simpa using ofNat_toNat_div_eq_extractLsb' x w 0
  have hreg : bitsOf imm.toNat 7 4 = imm.toNat / 16 % 16 := by simp [bitsOf, Nat.shiftRight_eq_div_pow]
  simp only [setKey, keyed, hlow, ofNat_toNat_div_eq_extractLsb', hreg]

theorem launchSlots_key {v : VArgs} (hfn : v.fn = 0) (h : Hdr) (c : Core) (idx : Nat) :
    launchSlots c { vop := .vsr, v := v, vh := h } idx = keyed (issuing c) v.imm := by
  change (if VOpc.vsr = .vsr ∧ v.fn = 0 then setKey (issuing c) v.imm else _) = _
  rw [if_pos ⟨rfl, hfn⟩, setKey_eq_keyed]

/-- The state with the key set at the issue and counted as a V operation (R209). -/
def keySet (s : State) (core : Nat) (imm : BitVec 32) : State :=
  bump (detBreak (modCore s core fun c => keyed (issuing c) imm)) (aVecOps core) 1

theorem keyed_issuing_st (c : Core) (imm : BitVec 32) : (keyed (issuing c) imm).st ≠ .idle := nofun

theorem getCore_keySet (s : State) (core : Nat) (imm : BitVec 32) : getCore (keySet s core imm) core = keyed (issuing (getCore s core)) imm := by
  rw [keySet, getCore_bump, getCore_detBreak, getCore_modCore _ _ (fun c => keyed (issuing c) imm) (ne_init_of_st _ (keyed_issuing_st _ imm))]

theorem detFree_keySet {s : State} (hd : DetFree s) (core : Nat) (imm : BitVec 32) : DetFree (keySet s core imm) := by
  simpa [DetFree, keySet] using detFree_detBreak (s := modCore s core fun c => keyed (issuing c) imm) hd

section
variable {s : State} {core : Nat} {h : Hdr} {v : VArgs}

/-- The issue of VSR KEY: the key is set, the done field counts, the core moves on (R209). -/
theorem issuedBy_key (hfn : v.fn = 0) (hr : RunsAlone s core { vop := .vsr, v := v, vh := h } h) :
    issuedBy s core { vop := .vsr, v := v, vh := h } = trimLog (modCore (doneAdvance (keySet s core v.imm) core h.done) core
      (advance s.seq.ctx (doneAdvance (keySet s core v.imm) core h.done).seq.nextPos (getCore s core).nextPos (getCore s core).nextIdx .nop)) := by
  let e : Slots := { vop := .vsr, v := v, vh := h }
  let s1 := detBreak (modCore s core fun c => launchSlots c e (getCore s core).nextIdx)
  have heff : effSlots (getCore s core).p e = e := by simp [effSlots, e, hr.pred]
  have hset : bump s1 (aVecOps core) 1 = keySet s core v.imm := by simp only [s1, e, launchSlots_key hfn, keySet]
  have hinstant : instantDone (keyCount s1 core e) core e = doneAdvance (bump s1 (aVecOps core) 1) core h.done := by
    simp [instantDone, keyCount, e, hfn]
  rw [← hset, ← hinstant, issuedBy, heff]
  rfl

theorem endsAs_key (hfn : v.fn = 0) (hr : RunsAlone s core { vop := .vsr, v := v, vh := h } h) :
    EndsAs s (issuedBy s core { vop := .vsr, v := v, vh := h }) core h (keyed (getCore s core) v.imm) := by
  have hdone := doneAdvance_core (keySet s core v.imm) core h.done (detFree_keySet (detFree_of_issues hr.issues) core v.imm)
    (by rw [getCore_keySet]; exact keyed_issuing_st _ v.imm) (by rw [getCore_keySet]; exact hr.done)
  rw [getCore_keySet] at hdone
  have hcore := congrArg (fun t => getCore t core) (issuedBy_key hfn hr)
  rw [getCore_trimLog, getCore_modCore _ _ _ (ne_init_of_st _ (by rw [advance_st, hdone]; exact keyed_issuing_st (getCore s core) v.imm)), hdone] at hcore
  constructor <;> rw [hcore]
  · rfl
  · rfl
  · exact hr.alone

end

/-- Settles O7: VSR KEY is complete as it issues, so nothing is left to settle. -/
theorem mintKeyResult : Obligations.MintKeyResult := by
  intro s core h v hr
  have hends := endsAs_key rfl hr
  exact ⟨_, (slotCommandIssues s _ core _ rfl hr.issues).trans (by rw [settleUnit_rest hends.rest]), hends⟩

/-! ### The words that VADAM draws -/

/-- The counters of a core's comb lie at other places in its window than the Mint's registers in theirs (R105, R215). -/
theorem comb_counters_ne_mint (core : Nat) : (aMintSeed ≠ aCmbReads core ∧ aMintSeed ≠ aCmbReuse core) ∧
    aMintCtrl ≠ aCmbReads core ∧ aMintCtrl ≠ aCmbReuse core := by
  simp only [aMintSeed, aMintCtrl, aMintChip, aCmbReads, aCmbReuse, aCore]
  omega

theorem reg_bump_ne (s : State) {a b : Nat} (n : Nat) (h : b ≠ a) : reg (bump s a n) b = reg s b := by
  unfold bump
  split
  · rfl
  · exact reg_setReg_ne s _ h

theorem reg_combReads_ne {s : State} {core a : Nat} (hreads : a ≠ aCmbReads core) (hreuse : a ≠ aCmbReuse core) (port : Nat)
    (rows : List (Nat × Nat)) : reg (combReads s core port rows) a = reg s a := by
  simp only [combReads]
  rw [reg_bump_ne _ _ hreuse, reg_bump_ne _ _ hreads]
  rfl

/-- The reads of a V operation count in the comb's counters only (R103). -/
theorem reg_vReads_ne {s : State} {core a : Nat} (hreads : a ≠ aCmbReads core) (hreuse : a ≠ aCmbReuse core) (o : FOp) (op : VOpc) (v : VArgs) :
    reg (vReads s core o op v) a = reg s a := by
  have step : ∀ {t : State} (b : Bool) (port : Nat) (rows : List (Nat × Nat)), reg t a = reg s a →
      reg (if b then combReads t core port rows else t) a = reg s a := by
    intro t b port rows ht
    cases b with
    | false => exact ht
    | true => exact (reg_combReads_ne hreads hreuse port rows).trans ht
  unfold vReads
  split
  · rfl
  · exact step _ 3 _ (step _ 2 _ (step _ 1 _ rfl))

/-- `t` draws the Mint's words as `s` does: the same seed, the same mode (R206). -/
def SameMint (s t : State) : Prop := reg t aMintSeed = reg s aMintSeed ∧ reg t aMintCtrl = reg s aMintCtrl

theorem sameMint_vReads (s : State) (core : Nat) (o : FOp) (op : VOpc) (v : VArgs) : SameMint s (vReads s core o op v) := by
  obtain ⟨⟨hseed, hseed'⟩, hctrl, hctrl'⟩ := comb_counters_ne_mint core
  exact ⟨reg_vReads_ne hseed hseed' o op v, reg_vReads_ne hctrl hctrl' o op v⟩

theorem SameMint.bf16Row_eq {s t : State} (h : SameMint s t) (core : Nat) (k : MKey) (xor r : Nat) (rnd : BitVec 2) (xs : List Num) :
    bf16Row t core k xor r rnd xs = bf16Row s core k xor r rnd xs := by
  obtain ⟨hseed, hctrl⟩ := h
  simp only [bf16Row, keyWord, mintMode1, regF, hseed, hctrl]

/-! ### What leaves a core's run alone -/

theorem RunSame.trans {c d e : Core} (h : RunSame c d) (k : RunSame d e) : RunSame c e :=
  ⟨k.1.trans h.1, k.2.1.trans h.2.1, k.2.2.trans h.2.2⟩

theorem RunSame.ne_init {c d : Core} (h : RunSame c d) (hc : c.st ≠ .idle) : d ≠ Core.init := by
  obtain ⟨-, -, hst⟩ := h
  exact ne_init_of_st _ (by rw [hst]; exact hc)

theorem CoreSame.runSame {s t : State} {i : Nat} (h : CoreSame s t i) : RunSame (getCore s i) (getCore t i) := by
  obtain ⟨-, hcount, hflight, hst, -⟩ := h
  exact ⟨hcount, hflight, hst⟩

theorem dropLatches_run (c : Core) (t : Nat) : RunSame c (dropLatches c t) := ⟨rfl, rfl, rfl⟩
theorem plain_dropLatches (c : Core) (t : Nat) : plain (dropLatches c t) = plain c := rfl
theorem tileWrite_run (c : Core) (t : Nat) (sh : Shape) (rows : List (List Byte)) : RunSame c (tileWrite c t sh rows) := ⟨rfl, rfl, rfl⟩

/-! ### The update of VADAM -/

/-- The weights and moments that VADAM computes from the gradients and the old ones, row by row (R211). -/
def adamRows (c : Core) (p : AdamBlock) (v : VArgs) (d g : Shape) : List (List (Num × Num × Num)) :=
  (List.range d.rows).map fun r => (List.range d.elems).map fun e => adamElem p
    ((vRow c v.a.toNat g r).getD e .nan) ((vRow c v.dst.toNat d r).getD e .nan)
    ((vRow c v.b.toNat d r).getD e .nan) ((vRow c v.c.toNat d r).getD e .nan)

/-- The latches that hold rows of the three registers dropped (R104). -/
def adamLatches (v : VArgs) (c : Core) : Core := dropLatches (dropLatches (dropLatches c v.dst.toNat) v.b.toNat) v.c.toNat

theorem adamLatches_run (v : VArgs) (c : Core) : RunSame c (adamLatches v c) :=
  ((dropLatches_run ..).trans (dropLatches_run ..)).trans (dropLatches_run ..)

theorem plain_adamLatches (v : VArgs) (c : Core) : plain (adamLatches v c) = plain c := by
  simp only [adamLatches, plain_dropLatches]

theorem vRow_congr {c d : Core} (h : c.comb = d.comb) (t : Nat) (sh : Shape) (r : Nat) : vRow c t sh r = vRow d t sh r := by
  rw [vRow, vRow, tileRow_congr h]

theorem adamRows_congr {c d : Core} (h : c.comb = d.comb) (p : AdamBlock) (v : VArgs) (sh g : Shape) :
    adamRows c p v sh g = adamRows d p v sh g := by
  simp only [adamRows, vRow_congr h]

/-- The bytes of the parameter block that a VADAM in flight names (R210). -/
def adamBytes (s : State) (core : Nat) (o : FOp) : List Byte := bufRead (getCore s core) o.addr1.toNat 64

/-- The results of a VADAM in flight (R211). -/
def adamResults (s : State) (core : Nat) (o : FOp) (v : VArgs) : List (List (Num × Num × Num)) :=
  adamRows (getCore s core) (adamBlock (adamBytes s core o)) v (capShape o v.dst.toNat) (capShape o v.a.toNat)

/-- One part of the results, rounded to BF16 with the words of its tensor ID and put into its register (R211). -/
def adamPut (s : State) (core : Nat) (o : FOp) (v : VArgs) (t : BitVec 5) (xor : Nat) (f : Num × Num × Num → Num) (c : Core) : Core :=
  tileWrite c t.toNat (capShape o v.dst.toNat) ((adamResults s core o v).zipIdx.map fun x => bf16Row s core o.key xor x.2 v.rnd (x.1.map f))

/-- A core with the weights, the first and the second moments in place (R211). -/
def adamCommit (s : State) (core : Nat) (o : FOp) (v : VArgs) (c : Core) : Core :=
  adamPut s core o v v.c 0xC0000000 (fun x => x.2.2)
    (adamPut s core o v v.b 0x80000000 (fun x => x.2.1) (adamPut s core o v v.dst 0 (fun x => x.1) c))

theorem adamCommit_run (s : State) (core : Nat) (o : FOp) (v : VArgs) (c : Core) : RunSame c (adamCommit s core o v c) :=
  ((tileWrite_run ..).trans (tileWrite_run ..)).trans (tileWrite_run ..)

theorem plain_adamCommit {c e : Core} (h : plain c = plain e) (s : State) (core : Nat) (o : FOp) (v : VArgs) :
    plain (adamCommit s core o v c) = plain (adamCommit s core o v e) :=
  plain_tileWrite (plain_tileWrite (plain_tileWrite h _ _ _) _ _ _) _ _ _

/-! ### Its completion -/

/-- A VADAM ends with a core that is `d` in all that a program has put into it. -/
def AdamEnds (s : State) (core : Nat) (o : FOp) (v : VArgs) (d : Core) : Prop :=
  ∃ s2, doVadam s core o v = finishOp s2 core o ∧ DetFree s2 ∧ RunSame (getCore s core) (getCore s2 core) ∧ plain (getCore s2 core) = plain d

section
variable {s : State} {core : Nat} {o : FOp} {v : VArgs}

/-- A VADAM whose parameter block is sound: its units are clean, its reserved bytes zero, and nothing was written over it since the issue (R210). -/
structure AdamSound (s : State) (core : Nat) (o : FOp) : Prop where
  running : (getCore s core).st ≠ .idle
  det : DetFree s
  clean : ∀ u, smGet false (getCore s core).bufPoison u = false
  fresh : o.olds = []
  zeros : (slice (adamBytes s core o) 36 28).all (fun b => b == 0) = true

theorem AdamSound.reads (h : AdamSound s core o) : CoreSame s (vReads (draw s).2 core o .vadam v) core :=
  vReads_core (s := (draw s).2) h.running o .vadam v

theorem AdamSound.not_any (h : AdamSound s core o) : ¬(slice (bufRead (getCore s core) o.addr1.toNat 64) 36 28).any (fun b => b != 0) = true := by
  simpa [adamBytes] using h.zeros

theorem AdamSound.doVadam_skip (h : AdamSound s core o) (hskip : (adamBlock (adamBytes s core o)).skip = true) :
    doVadam s core o v = finishOp (bump (modCore (vReads (draw s).2 core o .vadam v) core (adamLatches v)) (aVecOps core) 1) core o := by
  rw [adamBytes] at hskip
  simp only [doVadam, bufFirstPoison_none h.clean, h.fresh, raceOlds_nil]
  rw [if_neg h.not_any, if_pos hskip]
  rfl

theorem AdamSound.doVadam_update (h : AdamSound s core o) (hskip : (adamBlock (adamBytes s core o)).skip = false) :
    doVadam s core o v = finishOp (bump (bump (setCore (vReads (draw s).2 core o .vadam v) core
      (adamCommit s core o v (getCore (vReads (draw s).2 core o .vadam v) core))) (aMintDraws core) (vDraws o .vadam v)) (aVecOps core) 1) core o := by
  have hmint : SameMint s (vReads (draw s).2 core o .vadam v) := sameMint_vReads (draw s).2 core o .vadam v
  have hupdate : ¬(adamBlock (adamBytes s core o)).skip = true := by simp [hskip]
  rw [adamBytes] at hupdate
  simp only [doVadam, bufFirstPoison_none h.clean, h.fresh, raceOlds_nil, hmint.bf16Row_eq]
  rw [if_neg h.not_any, if_neg hupdate]
  rfl

theorem AdamSound.skips (h : AdamSound s core o) (hskip : (adamBlock (adamBytes s core o)).skip = true) : AdamEnds s core o v (getCore s core) := by
  let s1 := vReads (draw s).2 core o .vadam v
  let d := adamLatches v (getCore s1 core)
  have hrun : RunSame (getCore s core) d := h.reads.runSame.trans (adamLatches_run ..)
  obtain ⟨hplain, -, -, -, hdet⟩ := h.reads (v := v)
  have hcore : getCore (modCore s1 core (adamLatches v)) core = d := getCore_modCore _ _ _ (hrun.ne_init h.running)
  refine ⟨_, h.doVadam_skip hskip, ?_, ?_, ?_⟩
  · simpa [DetFree] using hdet h.det
  · rw [getCore_bump, hcore]
    exact hrun
  · rw [getCore_bump, hcore, plain_adamLatches]
    exact hplain

theorem AdamSound.updates (h : AdamSound s core o) (hskip : (adamBlock (adamBytes s core o)).skip = false) :
    AdamEnds s core o v (adamCommit s core o v (getCore s core)) := by
  let s1 := vReads (draw s).2 core o .vadam v
  let d := adamCommit s core o v (getCore s1 core)
  have hrun : RunSame (getCore s core) d := h.reads.runSame.trans (adamCommit_run ..)
  obtain ⟨hplain, -, -, -, hdet⟩ := h.reads (v := v)
  have hcore : getCore (setCore s1 core d) core = d := getCore_setCore _ _ _ (hrun.ne_init h.running)
  refine ⟨_, h.doVadam_update hskip, ?_, ?_, ?_⟩
  · simpa [DetFree] using hdet h.det
  · rw [getCore_bump, getCore_bump, hcore]
    exact hrun
  · rw [getCore_bump, getCore_bump, hcore]
    exact plain_adamCommit hplain ..

end

/-! ### VADAM alone -/

/-- A VADAM as its slot command puts it into flight. -/
def adamOp (s : State) (core : Nat) (h : Hdr) (v : VArgs) : FOp := opOf s core (.v .vadam v) h (smGet 0 (getCore s core).a (v.imm.toNat % 16)) 0

/-- The state right after its issue. -/
abbrev adamIssued (s : State) (core : Nat) (h : Hdr) (v : VArgs) : State := issuedBy s core { vop := .vadam, v := v, vh := h }

section
variable {s : State} {core : Nat} {h : Hdr} {v : VArgs} (hr : RunsAlone s core { vop := .vadam, v := v, vh := h } h)
include hr

theorem launched_adam : Launched s core (adamIssued s core h v) (adamOp s core h v) :=
  launched_of s core _ (.v .vadam v) h _ 0 hr.issues (by simp [effSlots, hr.pred]) rfl rfl rfl (by simp) (by simp) hr.alone rfl

/-- VADAM has one fn, 0; with another the slot does not issue (R41, R210). So its four registers are those of its uses. -/
theorem vUse_adam : vUse .vadam v.fn.toNat = some ⟨true, true, true, true, true⟩ := by
  have hbad := hr.issues.operands
  simp only [operandBad, Bool.or_eq_false_iff] at hbad
  obtain ⟨⟨⟨⟨⟨_, hv⟩, _⟩, _⟩, _⟩, _⟩ := hbad
  by_cases hfn : v.fn.toNat = 0
  · simp [vUse, hfn]
  · simp [vBad, vUse, hfn] at hv

/-- The shapes that the operation captured of its weights and its gradients are theirs at the issue (R90). -/
theorem capShape_adamOp : capShape (adamOp s core h v) v.dst.toNat = shapeOf (getCore s core) v.dst.toNat ∧
    capShape (adamOp s core h v) v.a.toNat = shapeOf (getCore s core) v.a.toNat := by
  constructor <;> exact capShape_opOf (by simp [bodyUses, vUses, vUse_adam hr])

/-- The issue of a V slot leaves the registers alone. -/
theorem sameMint_adamIssued : SameMint s (adamIssued s core h v) := by
  have hunits : UnitsOnly { vop := .vadam, v := v, vh := h } := ⟨rfl, rfl, by simp, by simp⟩
  have heff : effSlots (getCore s core).p { vop := .vadam, v := v, vh := h } = { vop := .vadam, v := v, vh := h } := by simp [effSlots, hr.pred]
  obtain ⟨-, -, -, hregs⟩ := issueAll_units_frame hunits s core (soloBundle (getCore s core) s.seq.ctx) (getCore s core).nextPos
    (getCore s core).nextIdx
  constructor <;> rw [adamIssued, issuedBy, heff, reg, hregs, reg]

theorem adamBytes_adamIssued : adamBytes (adamIssued s core h v) core (adamOp s core h v) = adamBytes s core (adamOp s core h v) := by
  rw [adamBytes, adamBytes, bufRead, bufRead, plain_buf (launched_adam hr).plain_eq]

/-- What it commits is fixed at its issue. -/
theorem adamCommit_adamIssued : adamCommit (adamIssued s core h v) core (adamOp s core h v) v = adamCommit s core (adamOp s core h v) v := by
  funext c
  simp only [adamCommit, adamPut, adamResults, adamBytes_adamIssued hr, adamRows_congr (plain_comb (launched_adam hr).plain_eq),
    (sameMint_adamIssued hr).bf16Row_eq]

theorem adamSound_adamIssued (hclean : ∀ u, smGet false (getCore s core).bufPoison u = false)
    (hzeros : (slice (adamBytes s core (adamOp s core h v)) 36 28).all (fun b => b == 0) = true) :
    AdamSound (adamIssued s core h v) core (adamOp s core h v) where
  running := by rw [(launched_adam hr).st_eq]; decide
  det := (launched_adam hr).det
  clean := by rw [plain_bufPoison (launched_adam hr).plain_eq]; exact hclean
  fresh := rfl
  zeros := by rw [adamBytes_adamIssued hr]; exact hzeros

/-- A VADAM alone ends with the core that its completion makes. -/
theorem vadam_result {d target : Core} (hends : AdamEnds (adamIssued s core h v) core (adamOp s core h v) v d) (hp : plain d = plain target) :
    ∃ t, exec (.vadam core h v) s = .next t ∧ EndsAs s t core h target := by
  obtain ⟨s2, hco, hdet, hrun, hcore⟩ := hends
  have hL := launched_adam hr
  rw [exec_of_slotsOf rfl]
  refine endsAs_of_completes hr hL rfl rfl ?_ hdet rfl hrun (hcore.trans hp)
  simp only [completeOp, meet_launched hr.issues hL]
  exact hco

end

/-- Settles O11: with skip set the completion drops latches only; else it commits what is fixed at the issue. -/
theorem optimiserResult : Obligations.OptimiserResult := by
  refine ⟨fun s core h v hr hclean hzeros hskip => ?_, fun s core h v hr hclean hzeros hskip => ?_⟩
  all_goals
    have hplain := (launched_adam hr).plain_eq
    have hsound := adamSound_adamIssued hr hclean hzeros
    have hbytes := adamBytes_adamIssued hr
  · exact vadam_result hr (hsound.skips (by rw [hbytes]; exact hskip)) hplain
  · obtain ⟨t, hexec, hends⟩ := vadam_result hr (hsound.updates (by rw [hbytes]; exact hskip)) (plain_adamCommit hplain ..)
    obtain ⟨hweights, hgrads⟩ := capShape_adamOp hr
    rw [adamCommit_adamIssued hr] at hends
    simp only [adamCommit, adamPut, adamResults, hweights, hgrads] at hends
    exact ⟨t, hexec, hends⟩

end Sys2Proof.Machine
end

section
/-! PROOFS. O14, O15: the S slot. A bundle whose one operation is that of the S slot moves its core (`movedS`) and then acts (`lateS`); nothing of it is in
flight, so its command ends there. -/

namespace Sys2Proof.Machine

/-! ### An S operation alone -/

/-- What an S operation does to the quiet time before the other slots act (R239, R240). -/
def breakS (y : SOp) (s : State) : State :=
  match y with
  | .swait _ n => if n = 0 then detBreak s else detStir s
  | _ => detBreak s

/-- The core as an S operation that issues alone leaves it before its late effect (R40). -/
def coreS (s : State) (core : Nat) (y : SOp) : Core :=
  advance s.seq.ctx s.seq.nextPos (getCore s core).nextPos (getCore s core).nextIdx .nop (takeS y (issuing (getCore s core)))

/-- The state in which the S operation of a bundle of its own acts. -/
def movedS (s : State) (core : Nat) (y : SOp) : State :=
  modCore (breakS y (modCore s core fun c => takeS y (issuing c))) core fun c =>
    advance s.seq.ctx s.seq.nextPos (getCore s core).nextPos (getCore s core).nextIdx .nop c

theorem takeS_st (y : SOp) (c : Core) : (takeS y c).st = c.st := by cases y <;> rfl
theorem takeS_flight (y : SOp) (c : Core) : (takeS y c).flight = c.flight := by cases y <;> rfl
theorem plain_takeS (y : SOp) (c : Core) : plain (takeS y c) = plain c := by cases y <;> rfl

@[simp] theorem coreS_st (s : State) (core : Nat) (y : SOp) : (coreS s core y).st = .issuing := by
  rw [coreS, advance_st, takeS_st, issuing_st]
@[simp] theorem coreS_flight (s : State) (core : Nat) (y : SOp) : (coreS s core y).flight = (getCore s core).flight := by
  rw [coreS, advance_flight, takeS_flight, issuing_flight]
@[simp] theorem plain_coreS (s : State) (core : Nat) (y : SOp) : plain (coreS s core y) = plain (getCore s core) := by
  rw [coreS, (advance_nop ..).1, plain_takeS, issuing_plain]
@[simp] theorem coreS_s (s : State) (core : Nat) (y : SOp) : (coreS s core y).s = (takeS y (getCore s core)).s := by cases y <;> rfl
@[simp] theorem coreS_token (s : State) (core : Nat) (y : SOp) : (coreS s core y).token = (takeS y (getCore s core)).token := by cases y <;> rfl
@[simp] theorem coreS_arrived (s : State) (core : Nat) (y : SOp) : (coreS s core y).arrived = (takeS y (getCore s core)).arrived := by cases y <;> rfl

/-- Breaking the quiet time of a module whose detector is not BLOCKED touches the detector only. -/
theorem breakS_eq {s : State} (h : DetFree s) (y : SOp) : ∃ d, (d = .watch ∨ d = .quiet) ∧ breakS y s = { s with sync := { s.sync with det := d } } := by
  have hbreak : ∃ d, (d = .watch ∨ d = .quiet) ∧ detBreak s = { s with sync := { s.sync with det := d } } := by
    unfold detBreak
    split
    · exact ⟨.watch, .inl rfl, rfl⟩
    · exact ⟨s.sync.det, h, rfl⟩
  have hstir : ∃ d, (d = .watch ∨ d = .quiet) ∧ detStir s = { s with sync := { s.sync with det := d } } := by
    rcases h with h | h
    · have hkeep : detStir s = s := by simp only [detStir, detLeave, h]
      exact ⟨s.sync.det, .inl h, hkeep⟩
    · exact ⟨.watch, .inl rfl, by simp only [detStir, detLeave, h]⟩
  cases y with
  | swait i n =>
    simp only [breakS]
    split
    · exact hbreak
    · exact hstir
  | _ => exact hbreak

/-- Moving the core of an S operation changes that core and the detector's times only. -/
theorem movedS_eq {s : State} (h : DetFree s) (core : Nat) (y : SOp) :
    ∃ d m, (d = .watch ∨ d = .quiet) ∧ movedS s core y = { s with cores := m, sync := { s.sync with det := d } } ∧
      smGet Core.init m core = coreS s core y := by
  obtain ⟨d, hd, he⟩ := breakS_eq (s := modCore s core fun c => takeS y (issuing c)) h y
  have hne : takeS y (issuing (getCore s core)) ≠ Core.init := ne_init_of_st _ (by rw [takeS_st, issuing_st]; decide)
  refine ⟨d, _, hd, by rw [movedS, he]; rfl, ?_⟩
  have hget : getCore (breakS y (modCore s core fun c => takeS y (issuing c))) core = takeS y (issuing (getCore s core)) := by
    rw [he]
    exact getCore_modCore s core (fun c => takeS y (issuing c)) hne
  have hcore : getCore (movedS s core y) core = coreS s core y := by
    rw [movedS, getCore_modCore, hget]
    · rfl
    · rw [hget]
      exact ne_init_of_st _ (by rw [advance_st, takeS_st, issuing_st]; decide)
  rw [movedS, he] at hcore
  exact hcore

theorem effSlots_s {c : Core} {y : SOp} {p : BitVec 4} (h : predTrue c.p p = true) : effSlots c.p { s := y, sp := p } = { s := y, sp := p } := by
  simp [effSlots, h]

/-- The issue of a bundle that holds an S operation alone (R40). -/
theorem issuedBy_s {s : State} {core : Nat} {y : SOp} {p : BitVec 4} (h : predTrue (getCore s core).p p = true) :
    issuedBy s core { s := y, sp := p } = trimLog (lateS (movedS s core y) core (getCore s core).nextIdx (getCore s core) y) := by
  rw [issuedBy, effSlots_s h]
  have hseq : (breakS y (modCore s core fun c => takeS y (issuing c))).seq = s.seq := by
    cases y with
    | swait i n => simp only [breakS]; split <;> simp
    | _ => simp [breakS]
  have hmoved : movedS s core y = modCore (breakS y (modCore s core fun c => takeS y (issuing c))) core fun c =>
      advance s.seq.ctx (breakS y (modCore s core fun c => takeS y (issuing c))).seq.nextPos (getCore s core).nextPos (getCore s core).nextIdx .nop c := by
    rw [hseq, movedS]
  rw [hmoved]
  cases y <;> rfl

/-- The command of an S operation that issues on a core with nothing in flight ends with its late effect, where that leaves nothing in flight. -/
theorem onCore_s {s : State} {core : Nat} {y : SOp} {p : BitVec 4} (hi : SlotIssues s core { s := y, sp := p })
    (hp : predTrue (getCore s core).p p = true)
    (hrest : (getCore (lateS (movedS s core y) core (getCore s core).nextIdx (getCore s core) y) core).flight = []) :
    onCore s core (soloSlot s core { s := y, sp := p })
      = .next (trimLog (lateS (movedS s core y) core (getCore s core).nextIdx (getCore s core) y)) := by
  rw [onCore_enabled _ _ _ hi.enabled, soloSlot_issues _ _ _ hi, issuedBy_s hp, settleUnit_rest (by rw [getCore_trimLog]; exact hrest)]

/-! ### A JOB_FATAL fault while the stream runs (R426, R427) -/

@[simp] theorem fatalMark_cores (s : State) (core idx : Nat) (code : Word16) : (fatalMark s core idx code).cores = s.cores := by simp [fatalMark]

theorem fatalMark_fatal (s : State) (core idx : Nat) (code : Word16) :
    (fatalMark s core idx code).job.fatal = s.job.fatal.orElse fun _ => some code := by simp [fatalMark]

/-- A core as the halt that a fault makes leaves it: a core that is to run its operations to completion keeps them (R67, R221). -/
def haltedBy (keep ctr i : Nat) (c : Core) : Core :=
  if i = keep then { c with arrived := none, wait := 0, latches := [] } else abandonCore ctr c

theorem abandonCore_st (ctr : Nat) (c : Core) : (abandonCore ctr c).st = c.st := by
  obtain ⟨acc, h⟩ := abandonCore_eq ctr c
  rw [h]
theorem abandonCore_s (ctr : Nat) (c : Core) : (abandonCore ctr c).s = c.s := by
  obtain ⟨acc, h⟩ := abandonCore_eq ctr c
  rw [h]

/-- Taking a fault while the stream runs starts a halt and marks the job. -/
theorem jobFatalKeep_running {s : State} (h : s.seq.st = .running) (keep core idx : Nat) (code src : Word16) (p : Nat) :
    (jobFatalKeep keep s core idx code src p).seq.st = .halting ∧
    (jobFatalKeep keep s core idx code src p).job.fatal = s.job.fatal.orElse (fun _ => some code) ∧
    (jobFatalKeep keep s core idx code src p).cores = smMap Core.init (haltedBy keep s.free)
      (if core = noCore then s else modCore s core fun c => { c with st := .faulted }).cores := by
  have hst : (record s kJobFatal src code p).seq.st = .running := by rw [record_seq, h]
  simp only [jobFatalKeep, hst]
  refine ⟨by split <;> simp [haltOrders], by split <;> split <;> simp [fatalMark_fatal, haltOrders], ?_⟩
  have hcores : ∀ u : State, (haltOrders keep u).cores = smMap Core.init (haltedBy keep u.free) u.cores := fun _ => rfl
  split <;> split <;> simp [hcores, modCore, getCore_record]

/-- The core that takes the fault stops; its counters stay, and nothing of it is in flight where nothing was (R221, R426). -/
theorem jobFatalKeep_core {s : State} (h : s.seq.st = .running) {core : Nat} (hc : core ≠ noCore) (keep idx : Nat) (code src : Word16) (p : Nat) :
    (getCore (jobFatalKeep keep s core idx code src p) core).st = .faulted ∧
    (getCore (jobFatalKeep keep s core idx code src p) core).s = (getCore s core).s ∧
    (keep ≠ core ∨ (getCore s core).flight = [] → (getCore (jobFatalKeep keep s core idx code src p) core).flight = []) := by
  obtain ⟨-, -, hcores⟩ := jobFatalKeep_running h keep core idx code src p
  rw [if_neg hc] at hcores
  have hfault : getCore (modCore s core fun c => { c with st := .faulted }) core = { getCore s core with st := .faulted } :=
    getCore_modCore s core (fun c => { c with st := .faulted }) (ne_init_of_st _ nofun)
  have hhalt : ∀ c : Core, (haltedBy keep s.free core c).st = c.st ∧ (haltedBy keep s.free core c).s = c.s ∧
      (keep ≠ core ∨ c.flight = [] → (haltedBy keep s.free core c).flight = []) := by
    intro c
    unfold haltedBy
    split
    · next hk => exact ⟨rfl, rfl, fun hf => hf.resolve_left fun hne => hne hk.symm⟩
    · exact ⟨abandonCore_st .., abandonCore_s .., fun _ => rfl⟩
  have hcore : getCore (jobFatalKeep keep s core idx code src p) core = haltedBy keep s.free core { getCore s core with st := .faulted } := by
    unfold getCore at hfault ⊢
    rw [hcores, smGet_smMap, hfault]
    · rw [hfault]
      exact ne_init_of_st _ nofun
    · rw [hfault]
      exact ne_init_of_st _ (by rw [(hhalt _).1]; nofun)
  rw [hcore]
  exact hhalt _

/-! ### The sync counters (R217 to R221) -/

theorem getCore_movedS {s : State} (h : DetFree s) (core : Nat) (y : SOp) : getCore (movedS s core y) core = coreS s core y := by
  obtain ⟨d, m, -, he, hcore⟩ := movedS_eq h core y
  rw [he]
  exact hcore

theorem detFree_movedS {s : State} (h : DetFree s) (core : Nat) (y : SOp) : DetFree (movedS s core y) := by
  obtain ⟨d, m, hd, he, -⟩ := movedS_eq h core y
  rw [he]
  exact hd

theorem movedS_seq {s : State} (h : DetFree s) (core : Nat) (y : SOp) : (movedS s core y).seq = s.seq := by
  obtain ⟨d, m, -, he, -⟩ := movedS_eq h core y
  rw [he]

theorem movedS_job {s : State} (h : DetFree s) (core : Nat) (y : SOp) : (movedS s core y).job = s.job := by
  obtain ⟨d, m, -, he, -⟩ := movedS_eq h core y
  rw [he]

/-- A counter that would pass 65,535 stays there, with SYNC_OVERFLOW (R219). -/
theorem addS_saturates {s : State} {core i n : Nat} (h : 65535 < (smGet 0 (getCore s core).s i).toNat + n) :
    addS s core i n = jobFatal (detStir (setCore s core { getCore s core with s := smSet 0 (getCore s core).s i 0xFFFF })) core
      (getCore s core).nextIdx cSyncOverflow (srcCore core) (i % 512 + core % 1024 * 2 ^ 16) := by
  have hle := (smGet 0 (getCore s core).s i).isLt
  have hn : n ≠ 0 := by omega
  have hr : sincr (smGet 0 (getCore s core).s i) n = (0xFFFF, true) := by
    unfold sincr
    rw [if_pos h]
  simp only [addS, hn, hr, if_true, if_false]

/-- A counter that would fall below 0 keeps its value, with SYNC_UNDERFLOW (R221). -/
theorem doSdec_underflows {s : State} {core idx i n : Nat} (h : (smGet 0 (getCore s core).s i).toNat < n) :
    doSdec s core idx i n = jobFatalKeep core s core idx cSyncUnderflow (srcCore core) (i % 64 + n % 2 ^ 16 * 2 ^ 16) := by
  simp only [doSdec, Nat.ne_of_gt (Nat.zero_lt_of_lt h), gt_iff_lt, h, if_true, if_false]

/-- SDEC takes n from a counter that holds it (R220). -/
theorem doSdec_core {s : State} {core idx i n : Nat} (hst : (getCore s core).st ≠ .idle) (h : n ≤ (smGet 0 (getCore s core).s i).toNat) :
    getCore (doSdec s core idx i n) core = { getCore s core with
      s := if n = 0 then (getCore s core).s else smSet 0 (getCore s core).s i (smGet 0 (getCore s core).s i - BitVec.ofNat 16 n) } := by
  unfold doSdec
  split
  · rfl
  · simp only [Nat.not_lt.2 h, if_false]
    rw [detStir_getCore]
    exact getCore_setCore _ _ _ (ne_init_of_st _ hst)


theorem toNat_eq_zero_iff {w : Nat} (x : BitVec w) : x.toNat = 0 ↔ x = 0 := by
  rw [← BitVec.toNat_inj]
  simp

theorem exec_sinc (s : State) (core : Nat) (p : BitVec 4) (ctr : BitVec 6) (n : BitVec 16) :
    exec (.sinc core p ctr n) s = onCore s core (soloSlot s core { s := .sinc ctr n, sp := p }) := exec_of_slotsOf rfl s
theorem exec_swait (s : State) (core : Nat) (p : BitVec 4) (ctr : BitVec 6) (n : BitVec 16) :
    exec (.swait core p ctr n) s = onCore s core (soloSlot s core { s := .swait ctr n, sp := p }) := exec_of_slotsOf rfl s
theorem exec_sdec (s : State) (core : Nat) (p : BitVec 4) (ctr : BitVec 6) (n : BitVec 16) :
    exec (.sdec core p ctr n) s = onCore s core (soloSlot s core { s := .sdec ctr n, sp := p }) := exec_of_slotsOf rfl s

/-- A core that runs does so while the stream runs. -/
theorem running_of_coreRuns {s : State} {c : Core} (h : coreRuns s c = true) : s.seq.st = .running := by
  simp only [coreRuns, Bool.and_eq_true, beq_iff_eq] at h
  exact h.1.1.1.1.1

/-- SINC adds (R220). -/
theorem sinc_adds {s : State} {core : Nat} {p : BitVec 4} {ctr : BitVec 6} {n : BitVec 16} (hi : SlotIssues s core { s := .sinc ctr n, sp := p })
    (hp : predTrue (getCore s core).p p = true) (hfl : (getCore s core).flight = [])
    (hfit : (smGet 0 (getCore s core).s ctr.toNat).toNat + n.toNat ≤ 65535) :
    ∃ t, exec (.sinc core p ctr n) s = .next t ∧ plain (getCore t core) = plain (getCore s core) ∧
      (getCore t core).s = if n = 0 then (getCore s core).s
        else smSet 0 (getCore s core).s ctr.toNat (smGet 0 (getCore s core).s ctr.toNat + n) := by
  have hdet := detFree_of_issues hi
  have hcore := getCore_movedS hdet core (.sinc ctr n)
  have hs : (coreS s core (.sinc ctr n)).s = (getCore s core).s := coreS_s ..
  have hadd := addS_core (movedS s core (.sinc ctr n)) core ctr.toNat n.toNat (detFree_movedS hdet ..) (by rw [hcore, coreS_st]; nofun)
    (by rw [hcore, hs]; omega)
  rw [hcore, hs, BitVec.ofNat_toNat, BitVec.setWidth_eq] at hadd
  refine ⟨_, by rw [exec_sinc, onCore_s hi hp]; rw [lateS, hadd]; simp [hfl], ?_, ?_⟩
  · rw [getCore_trimLog, lateS, hadd, plain_s, plain_coreS]
  · rw [getCore_trimLog, lateS, hadd]
    simp only [toNat_eq_zero_iff]

/-- The command of an S operation whose late effect is a JOB_FATAL fault of its core (R221, R426). -/
theorem onCore_s_faults {s u : State} {core keep idx payload : Nat} {y : SOp} {p : BitVec 4} {code src : Word16}
    (hi : SlotIssues s core { s := y, sp := p }) (hp : predTrue (getCore s core).p p = true)
    (hlate : lateS (movedS s core y) core (getCore s core).nextIdx (getCore s core) y = jobFatalKeep keep u core idx code src payload)
    (hseq : u.seq = s.seq) (hjob : u.job.fatal = none) (hrest : keep ≠ core ∨ (getCore u core).flight = []) :
    ∃ t, onCore s core (soloSlot s core { s := y, sp := p }) = .next t ∧ (getCore t core).s = (getCore u core).s ∧ t.seq.st = .halting ∧
      t.job.fatal = some code ∧ (getCore t core).st = .faulted := by
  have hrun : u.seq.st = .running := by rw [hseq, running_of_coreRuns hi.runs]
  obtain ⟨hst, hcount, hflight⟩ := jobFatalKeep_core hrun (ne_noCore (of_decide_eq_true hi.enabled)) keep idx code src payload
  obtain ⟨hhalt, hfatal, -⟩ := jobFatalKeep_running hrun keep core idx code src payload
  rw [onCore_s hi hp (by rw [hlate]; exact hflight hrest), hlate]
  exact ⟨_, rfl, hcount, hhalt, hfatal.trans (by rw [hjob]; rfl), hst⟩

/-- SINC above 65,535 (R219). -/
theorem sinc_overflows {s : State} {core : Nat} {p : BitVec 4} {ctr : BitVec 6} {n : BitVec 16} (hi : SlotIssues s core { s := .sinc ctr n, sp := p })
    (hp : predTrue (getCore s core).p p = true) (hover : 65535 < (smGet 0 (getCore s core).s ctr.toNat).toNat + n.toNat) (hjob : s.job.fatal = none) :
    ∃ t, exec (.sinc core p ctr n) s = .next t ∧ smGet 0 (getCore t core).s ctr.toNat = 65535 ∧ t.seq.st = .halting ∧
      t.job.fatal = some 0x4002 ∧ (getCore t core).st = .faulted := by
  have hdet := detFree_of_issues hi
  have hcore := getCore_movedS hdet core (.sinc ctr n)
  have hs : (coreS s core (.sinc ctr n)).s = (getCore s core).s := coreS_s ..
  have hlate : lateS (movedS s core (.sinc ctr n)) core (getCore s core).nextIdx (getCore s core) (.sinc ctr n) = _ :=
    addS_saturates (by rw [hcore, hs]; exact hover)
  obtain ⟨t, hexec, hcount, hrest⟩ := onCore_s_faults hi hp hlate (by rw [detStir_seq, setCore_seq, movedS_seq hdet])
    (by rw [detStir_job, setCore_job, movedS_job hdet, hjob]) (.inl (ne_noCore (of_decide_eq_true hi.enabled)).symm)
  refine ⟨t, by rw [exec_sinc, hexec], ?_, hrest⟩
  rw [hcount, detStir_getCore, getCore_setCore _ _ _ (ne_init_of_st _ (by rw [hcore, coreS_st]; nofun))]
  exact smGet_smSet_val _ _ _ _ (by decide)

theorem lateS_swait (s : State) (core idx : Nat) (c : Core) (i : BitVec 6) (n : BitVec 16) : lateS s core idx c (.swait i n) = s := rfl
theorem lateS_sbar (s : State) (core idx : Nat) (c : Core) (g : BitVec 9) (n : BitVec 16) : lateS s core idx c (.sbar g n) = s := rfl

/-- SWAIT takes n (R220). -/
theorem swait_takes {s : State} {core : Nat} {p : BitVec 4} {ctr : BitVec 6} {n : BitVec 16} (hi : SlotIssues s core { s := .swait ctr n, sp := p })
    (hp : predTrue (getCore s core).p p = true) (hfl : (getCore s core).flight = []) :
    ∃ t, exec (.swait core p ctr n) s = .next t ∧ plain (getCore t core) = plain (getCore s core) ∧
      (getCore t core).s = smSet 0 (getCore s core).s ctr.toNat (smGet 0 (getCore s core).s ctr.toNat - n) := by
  have hcore := getCore_movedS (detFree_of_issues hi) core (.swait ctr n)
  refine ⟨_, by rw [exec_swait, onCore_s hi hp]; rw [lateS_swait, hcore, coreS_flight, hfl], ?_, ?_⟩
  · rw [getCore_trimLog, lateS_swait, hcore, plain_coreS]
  · rw [getCore_trimLog, lateS_swait, hcore, coreS_s]
    rfl

/-- SDEC takes n from a counter that holds it (R220). -/
theorem sdec_takes {s : State} {core : Nat} {p : BitVec 4} {ctr : BitVec 6} {n : BitVec 16} (hi : SlotIssues s core { s := .sdec ctr n, sp := p })
    (hp : predTrue (getCore s core).p p = true) (hfl : (getCore s core).flight = [])
    (hle : n.toNat ≤ (smGet 0 (getCore s core).s ctr.toNat).toNat) :
    ∃ t, exec (.sdec core p ctr n) s = .next t ∧ plain (getCore t core) = plain (getCore s core) ∧
      (getCore t core).s = if n = 0 then (getCore s core).s
        else smSet 0 (getCore s core).s ctr.toNat (smGet 0 (getCore s core).s ctr.toNat - n) := by
  have hcore := getCore_movedS (detFree_of_issues hi) core (.sdec ctr n)
  have hs : (coreS s core (.sdec ctr n)).s = (getCore s core).s := coreS_s ..
  have htake := doSdec_core (s := movedS s core (.sdec ctr n)) (core := core) (idx := (getCore s core).nextIdx) (i := ctr.toNat) (n := n.toNat)
    (by rw [hcore, coreS_st]; nofun) (by rw [hcore, hs]; exact hle)
  rw [hcore, hs, BitVec.ofNat_toNat, BitVec.setWidth_eq] at htake
  refine ⟨_, by rw [exec_sdec, onCore_s hi hp]; rw [lateS, htake]; simp [hfl], ?_, ?_⟩
  · rw [getCore_trimLog, lateS, htake, plain_s, plain_coreS]
  · rw [getCore_trimLog, lateS, htake]
    simp only [toNat_eq_zero_iff]

/-- SDEC below 0 (R221). -/
theorem sdec_underflows {s : State} {core : Nat} {p : BitVec 4} {ctr : BitVec 6} {n : BitVec 16} (hi : SlotIssues s core { s := .sdec ctr n, sp := p })
    (hp : predTrue (getCore s core).p p = true) (hunder : (smGet 0 (getCore s core).s ctr.toNat).toNat < n.toNat) (hjob : s.job.fatal = none)
    (hfl : (getCore s core).flight = []) :
    ∃ t, exec (.sdec core p ctr n) s = .next t ∧ (getCore t core).s = (getCore s core).s ∧ t.seq.st = .halting ∧
      t.job.fatal = some 0x4001 ∧ (getCore t core).st = .faulted := by
  have hdet := detFree_of_issues hi
  have hcore := getCore_movedS hdet core (.sdec ctr n)
  have hs : (coreS s core (.sdec ctr n)).s = (getCore s core).s := coreS_s ..
  have hlate : lateS (movedS s core (.sdec ctr n)) core (getCore s core).nextIdx (getCore s core) (.sdec ctr n) = _ :=
    doSdec_underflows (by rw [hcore, hs]; exact hunder)
  obtain ⟨t, hexec, hcount, hrest⟩ := onCore_s_faults hi hp hlate (movedS_seq hdet ..) (by rw [movedS_job hdet, hjob])
    (.inr (by rw [hcore, coreS_flight, hfl]))
  exact ⟨t, by rw [exec_sdec, hexec], by rw [hcount, hcore, hs], hrest⟩

/-! ### An S operation that waits (R220, R225) -/

theorem meetBy_never {s : State} {reads : Nat → Upset → Bool} (h : ∀ c u, reads c u = false) : meetBy s reads = s := by
  simp only [meetBy, h, Bool.not_false, List.filter_true, List.filter_false, List.foldl_nil]

/-- A bundle that reads no descriptor meets no error of a buffer word. -/
theorem meet_no_reads (s : State) (core : Nat) : meet s core (bufAmong []) = s := by
  refine meetBy_never fun c u => ?_
  cases u <;> simp [bufAmong]

/-- The wait of an S operation at step 3; an SBAR arrives as it begins to wait (R224). -/
def waitS (s : State) (core : Nat) (y : SOp) : State :=
  match y with
  | .sbar g n => if (getCore s core).arrived.isNone then barArrive (waitAt s core 3 0) core (getCore s core).nextIdx g n else waitAt s core 3 0
  | _ => waitAt s core 3 0

/-- The command of an S operation that passes the checks of step 2 and is not satisfied at step 3 waits there. -/
theorem soloSlot_waits {s : State} {core : Nat} {y : SOp} {p : BitVec 4} (hr : coreRuns s (getCore s core) = true)
    (hop : operandBad { s := y, sp := p } = false) (hp : predTrue (getCore s core).p p = true)
    (h2 : step2 s core (getCore s core) (soloBundle (getCore s core) s.seq.ctx) (getCore s core).nextPos (getCore s core).nextIdx
      { s := y, sp := p } = none) (hreads : slotReads (getCore s core) { s := y, sp := p } = []) (h3 : step3Ok (getCore s core) y = false) :
    soloSlot s core { s := y, sp := p } = settleUnit core 64 (waitS s core y) := by
  have hu : uniformBad { s := y, sp := p } = false := rfl
  simp only [soloSlot, hr, hop, hu, Bool.not_true, Bool.false_eq_true, if_false, effSlots_s hp, hreads, meet_no_reads, h2, steps3to6, h3,
    Bool.not_false, if_true]
  rfl

/-- What a wait leaves of its core (R43). -/
theorem getCore_waitAt (s : State) (core step cause : Nat) :
    getCore (waitAt s core step cause) core = { getCore s core with st := .waiting, wait := step, cause := cause } :=
  getCore_modCore _ _ _ (ne_init_of_st _ nofun)

/-- SWAIT waits for n (R220). -/
theorem swait_waits {s : State} {core : Nat} {p : BitVec 4} {ctr : BitVec 6} {n : BitVec 16} (hok : coreOk s core = true)
    (hr : coreRuns s (getCore s core) = true) (hop : operandBad { s := .swait ctr n, sp := p } = false)
    (h2 : step2 s core (getCore s core) (soloBundle (getCore s core) s.seq.ctx) (getCore s core).nextPos (getCore s core).nextIdx
      { s := .swait ctr n, sp := p } = none) (hp : predTrue (getCore s core).p p = true) (hfl : (getCore s core).flight = [])
    (hlow : (smGet 0 (getCore s core).s ctr.toNat).toNat < n.toNat) :
    ∃ t, exec (.swait core p ctr n) s = .next t ∧ plain (getCore t core) = plain (getCore s core) ∧
      (getCore t core).s = (getCore s core).s ∧ (getCore t core).st = .waiting ∧ (getCore t core).wait = 3 := by
  have hcore := getCore_waitAt s core 3 0
  have h3 : step3Ok (getCore s core) (.swait ctr n) = false := decide_eq_false (Nat.not_le.2 hlow)
  refine ⟨waitAt s core 3 0, ?_, by rw [hcore]; rfl, by rw [hcore], by rw [hcore], by rw [hcore]⟩
  rw [exec_swait, onCore_enabled _ _ _ hok, soloSlot_waits hr hop hp h2 rfl h3,
    show waitS s core (.swait ctr n) = waitAt s core 3 0 from rfl, settleUnit_rest (by rw [hcore]; exact hfl)]

/-- Settles O14: each clause is the S operation alone on its core, which adds, takes, waits or faults. -/
theorem counterSlotResults : Obligations.CounterSlotResults :=
  ⟨fun _ _ _ _ _ hi hp hfl hfit => sinc_adds hi hp hfl hfit, fun _ _ _ _ _ hi hp hover hjob => sinc_overflows hi hp hover hjob,
    fun _ _ _ _ _ hi hp hfl => swait_takes hi hp hfl, fun _ _ _ _ _ hok hr hop h2 hp hfl hlow => swait_waits hok hr hop h2 hp hfl hlow,
    fun _ _ _ _ _ hi hp hfl hle => sdec_takes hi hp hfl hle, fun _ _ _ _ _ hi hp hunder hjob hfl => sdec_underflows hi hp hunder hjob hfl⟩


/-! ### Barriers (R223 to R225) -/

theorem exec_sbar (s : State) (core : Nat) (p : BitVec 4) (g : BitVec 9) (n : BitVec 16) :
    exec (.sbar core p g n) s = onCore s core (soloSlot s core { s := .sbar g n, sp := p }) := exec_of_slotsOf rfl s

/-- SBAR takes its token (R225). -/
theorem sbar_takes {s : State} {core : Nat} {p : BitVec 4} {g : BitVec 9} {n : BitVec 16} (hi : SlotIssues s core { s := .sbar g n, sp := p })
    (hp : predTrue (getCore s core).p p = true) (hfl : (getCore s core).flight = []) :
    ∃ t, exec (.sbar core p g n) s = .next t ∧ plain (getCore t core) = plain (getCore s core) ∧ (getCore t core).token = false ∧
      (getCore t core).arrived = none := by
  have hcore := getCore_movedS (detFree_of_issues hi) core (.sbar g n)
  refine ⟨_, by rw [exec_sbar, onCore_s hi hp]; rw [lateS_sbar, hcore, coreS_flight, hfl], ?_⟩
  rw [getCore_trimLog, lateS_sbar, hcore, plain_coreS, coreS_token, coreS_arrived]
  exact ⟨rfl, rfl, rfl⟩

/-- The cores that have arrived in the round of a barrier. -/
def arrivedAt (s : State) (g : BitVec 9) : List Nat :=
  match smGet none s.sync.rounds g.toNat with
  | some r => r.cores
  | none => []

/-- A core joins the round of a barrier (R224). -/
def joinRound (s : State) (core : Nat) (g : BitVec 9) (n : Word16) : State :=
  modCore { s with sync := { s.sync with rounds := smSet none s.sync.rounds g.toNat (some ⟨n, arrivedAt s g ++ [core]⟩) } } core
    fun c => { c with arrived := some (g, n) }

theorem getCore_joinRound {s : State} {core : Nat} (hst : (getCore s core).st ≠ .idle) (g : BitVec 9) (n : Word16) :
    getCore (joinRound s core g n) core = { getCore s core with arrived := some (g, n) } :=
  getCore_modCore _ core (fun c => { c with arrived := some (g, n) }) (ne_init_of_st _ hst)

/-- An arrival with the round's own n joins the round and counts (R223, R224). -/
theorem barArrive_joins {s : State} {core idx : Nat} {g : BitVec 9} {n : Word16}
    (hn : ∀ r, smGet none s.sync.rounds g.toNat = some r → r.n = n) : barArrive s core idx g n = addG (joinRound s core g n) g.toNat 1 := by
  unfold barArrive
  split
  · next r hr =>
    obtain rfl := hn r hr
    rw [if_neg (not_not_intro rfl), joinRound, show arrivedAt s g = r.cores by simp only [arrivedAt, hr]]
  · next hr => rw [joinRound, show arrivedAt s g = [] by simp only [arrivedAt, hr], List.nil_append]

/-- A counter that has gone up by something without saturating is not 0. -/
theorem count_ne_zero {x : Word16} {n : Nat} (hn : n ≠ 0) (h : x.toNat + n < 65536) : x + BitVec.ofNat 16 n ≠ 0 := fun e => by
  have hz : (x + BitVec.ofNat 16 n).toNat = 0 := by rw [e]; rfl
  simp only [BitVec.toNat_add, BitVec.toNat_ofNat] at hz
  omega

/-- A chip counter that does not saturate goes up (R219). -/
theorem addG_adds {s : State} {i n : Nat} (hn : n ≠ 0) (h : (smGet 0 s.sync.g i).toNat + n < 65536) :
    addG s i n = detStir { s with sync := { s.sync with g := smSet 0 s.sync.g i (smGet 0 s.sync.g i + BitVec.ofNat 16 n) } } := by
  have hr : sincr (smGet 0 s.sync.g i) n = (smGet 0 s.sync.g i + BitVec.ofNat 16 n, false) := by
    unfold sincr
    rw [if_neg (by omega), BitVec.ofNat_add, BitVec.ofNat_toNat, BitVec.setWidth_eq]
  simp only [addG, hn, hr, Bool.false_eq_true, if_false]

/-- SBAR arrives and waits (R223, R224). -/
theorem sbar_arrives {s : State} {core : Nat} {p : BitVec 4} {g : BitVec 9} {n : BitVec 16} (hok : coreOk s core = true)
    (hr : coreRuns s (getCore s core) = true) (hop : operandBad { s := .sbar g n, sp := p } = false)
    (h2 : step2 s core (getCore s core) (soloBundle (getCore s core) s.seq.ctx) (getCore s core).nextPos (getCore s core).nextIdx
      { s := .sbar g n, sp := p } = none) (hp : predTrue (getCore s core).p p = true) (hfl : (getCore s core).flight = [])
    (htoken : (getCore s core).token = false) (harr : (getCore s core).arrived = none) (hlow : (smGet 0 s.sync.g g.toNat).toNat < 65535)
    (hn : ∀ r, smGet none s.sync.rounds g.toNat = some r → r.n = n) :
    ∃ t, exec (.sbar core p g n) s = .next t ∧ (getCore t core).arrived = some (g, n) ∧ (getCore t core).st = .waiting ∧
      (getCore t core).wait = 3 ∧ smGet 0 t.sync.g g.toNat = smGet 0 s.sync.g g.toNat + 1 ∧
      smGet none t.sync.rounds g.toNat = some ⟨n, arrivedAt s g ++ [core]⟩ := by
  have hwait := getCore_waitAt s core 3 0
  have hS : waitS s core (.sbar g n) = addG (joinRound (waitAt s core 3 0) core g n) g.toNat 1 := by
    rw [waitS, if_pos (by rw [harr]; rfl)]
    exact barArrive_joins (s := waitAt s core 3 0) hn
  rw [addG_adds Nat.one_ne_zero (show (smGet 0 (joinRound (waitAt s core 3 0) core g n).sync.g g.toNat).toNat + 1 < 65536 from Nat.succ_lt_succ hlow)] at hS
  generalize hu : waitS s core (.sbar g n) = u at hS
  have hcore : getCore u core = { getCore (waitAt s core 3 0) core with arrived := some (g, n) } := by
    rw [hS, detStir_getCore]
    exact getCore_joinRound (by rw [hwait]; nofun) g n
  rw [hwait] at hcore
  have hsolo : soloSlot s core { s := .sbar g n, sp := p } = u := by
    rw [soloSlot_waits hr hop hp h2 rfl htoken, hu, settleUnit_rest (by rw [hcore]; exact hfl)]
  refine ⟨u, by rw [exec_sbar, onCore_enabled _ _ _ hok, hsolo], by rw [hcore], by rw [hcore], by rw [hcore], ?_, ?_⟩
  · rw [hS, detStir_sync_g]
    exact smGet_smSet_val _ _ _ _ (count_ne_zero Nat.one_ne_zero (Nat.succ_lt_succ hlow))
  · rw [hS, detStir_sync_rounds]
    exact smGet_smSet_val _ _ _ _ nofun

/-! ### Signals (R228 to R230) -/

/-- What the checks and the holding of a signal read: the signals held and waiting, the streams received, the job, the part, the engines, the device. -/
def signalView (s : State) : List Signal × List Signal × SMap RxPair × Job × Bool × SMap Engine × BitVec 14 :=
  (s.sync.held, s.sync.selfWait, s.fab.rx, s.job, s.part832, s.ce, devId s)

theorem devId_congr {s t : State} (h : reg t aFab = reg s aFab) : devId t = devId s := by rw [devId, devId, regF, regF, h]

/-- A debug halt of a core stands apart from signals. -/
theorem signalView_dbgHaltCore (s : State) (core a b c d : Nat) : signalView (dbgHaltCore s core a b c d) = signalView s := by
  unfold dbgHaltCore
  dsimp only
  split
  · rfl
  · rw [show ∀ u, detLeave u = detStir u from fun _ => rfl, signalView, devId_congr ((detStir_reg _ _ (by decide)).trans (record_reg _ _ _ _ _ _ (by decide)))]
    simp
    rfl

theorem signalView_wpGo (core off n agent : Nat) (w : Bool) (f : Nat) : ∀ (k : Nat) (s : State), signalView (wpGo core off n agent w f k s) = signalView s := by
  induction f with
  | zero => exact fun _ _ => rfl
  | succ f ih =>
    intro k s
    rw [wpGo, ih]
    split
    · exact signalView_dbgHaltCore ..
    · rfl

/-- A reading that watchpoints see stands apart from signals (R613). -/
theorem signalView_bufTouch (s : State) (core off n : Nat) (w : Bool) (agent : Nat) : signalView (bufTouch s core off n w agent) = signalView s := by
  unfold bufTouch
  split
  · rfl
  · exact signalView_wpGo ..

section
variable {s t : State} (h : signalView t = signalView s)
include h

theorem sigOf_congr (d : List Byte) : sigOf t d = sigOf s d := by
  simp only [signalView, Prod.mk.injEq] at h
  obtain ⟨-, -, -, -, -, -, hdev⟩ := h
  simp only [sigOf, hdev]

theorem sigDescBad_congr (d : List Byte) : sigDescBad t d = sigDescBad s d := by
  have hof := sigOf_congr h d
  simp only [signalView, Prod.mk.injEq] at h
  obtain ⟨-, -, -, hjob, -, -, hdev⟩ := h
  simp only [sigDescBad, hof, hjob, hdev]

theorem sigCount_congr : sigCount t = sigCount s := by
  simp only [signalView, Prod.mk.injEq] at h
  obtain ⟨hheld, -, hrx, -⟩ := h
  simp only [sigCount, heldAll, aheadSigs, hheld, hrx]

theorem sigTargetBad_congr (g : Signal) : sigTargetBad t g = sigTargetBad s g := by
  simp only [signalView, Prod.mk.injEq] at h
  obtain ⟨-, -, -, hjob, hpart, -, hdev⟩ := h
  have hcores : nCores t = nCores s := by rw [nCores, nCores, hpart]
  simp only [sigTargetBad, coreOk, hcores, hjob, hdev]

end

theorem signalView_movedS {s : State} (h : DetFree s) (core : Nat) (y : SOp) : signalView (movedS s core y) = signalView s := by
  obtain ⟨d, m, -, he, -⟩ := movedS_eq h core y
  rw [he]
  rfl

/-- SSIG with a descriptor that passes its checks puts the signal where its device field says (R228 to R230). -/
theorem doSsig_sends {s u : State} {core idx a : Nat} {d : List Byte} {dev : BitVec 14} {g : Signal} (hd : bufRead (getCore u core) a 32 = d)
    (hview : signalView u = signalView s) (halign : a % 32 = 0) (hclean : ∀ x, smGet false (getCore u core).bufPoison x = false)
    (hbad : sigDescBad s d = false) (hsig : sigOf s d = (dev, g)) :
    doSsig u core idx a = if dev = devId s then sigSelf (bufTouch u core a 32 false 3) g
      else cePush (bufTouch u core a 32 false 3) (newCeOp core g.ctx (.sig dev g) [] 63 idx 0) := by
  have htouch := (signalView_bufTouch u core a 32 false 3).trans hview
  have hdev : devId (bufTouch u core a 32 false 3) = devId s := congrArg (fun v => v.2.2.2.2.2.2) htouch
  simp only [doSsig, halign, hd, bufFirstPoison_none hclean, sigDescBad_congr htouch, hbad, sigOf_congr htouch, hsig, hdev, ne_eq, not_true,
    Bool.false_eq_true, if_false]

/-- A signal to the module itself is held where the table has room and nothing waits (R230, R234). -/
theorem sigSelf_holds {s u : State} {g : Signal} (hview : signalView u = signalView s) (hroom : sigCount s < 4096) (hwait : s.sync.selfWait = [])
    (hok : sigTargetBad s g = false) : sigSelf u g = { u with sync := { u.sync with held := s.sync.held ++ [g] } } := by
  have hheld : u.sync.held = s.sync.held := congrArg (fun v => v.1) hview
  have hself : u.sync.selfWait = [] := (congrArg (fun v => v.2.1) hview).trans hwait
  simp only [sigSelf, sigCount_congr hview, heldMax, ge_iff_le, Nat.not_le.2 hroom, hself, List.any_nil, Bool.false_eq_true, if_false, sigHold,
    sigTargetBad_congr hview, hok, hheld]

/-- An entry put at the end of its engine stands there (R230, R358). -/
theorem getCe_cePush (s : State) (o : CeOp) :
    (getCe (cePush s o) (engineOf o.ctx)).ops = (getCe s (engineOf o.ctx)).ops ++ [{ o with uid := s.ceUid }] := by
  have hne : ({ getCe s (engineOf o.ctx) with ops := (getCe s (engineOf o.ctx)).ops ++ [{ o with uid := s.ceUid }] } : Engine) ≠ Engine.init :=
    fun e => List.append_ne_nil_of_right_ne_nil _ (List.cons_ne_nil _ _) (congrArg Engine.ops e)
  exact congrArg Engine.ops (smGet_smSet_val _ _ _ _ hne)

theorem exec_ssig (s : State) (core : Nat) (p areg : BitVec 4) (off : BitVec 16) :
    exec (.ssig core p areg off) s = onCore s core (soloSlot s core { s := .ssig areg off, sp := p }) := exec_of_slotsOf rfl s

theorem flight_bufTouch {s : State} (h : DetFree s) (core a n : Nat) (w : Bool) (agent : Nat) :
    (getCore (bufTouch s core a n w agent) core).flight = (getCore s core).flight :=
  (touchAll_core core [(a, n, w, agent)] s h).2.2.1

section
variable {s : State} {core : Nat} {p areg : BitVec 4} {off : BitVec 16} {d : List Byte}

/-- What an SSIG finds in its core as it acts is what it found as it issued. -/
theorem lateS_ssig (hi : SlotIssues s core { s := .ssig areg off, sp := p })
    (hd : bufRead (getCore s core) (resolve (getCore s core) areg off).toNat 32 = d) (halign : (resolve (getCore s core) areg off).toNat % 32 = 0)
    (hclean : ∀ u, smGet false (getCore s core).bufPoison u = false) (hbad : sigDescBad s d = false) :
    ∃ u, (getCore u core).flight = (getCore s core).flight ∧ signalView u = signalView s ∧
      lateS (movedS s core (.ssig areg off)) core (getCore s core).nextIdx (getCore s core) (.ssig areg off)
        = if (sigOf s d).1 = devId s then sigSelf u (sigOf s d).2
          else cePush u (newCeOp core (sigOf s d).2.ctx (.sig (sigOf s d).1 (sigOf s d).2) [] 63 (getCore s core).nextIdx 0) := by
  have hdet := detFree_of_issues hi
  have hplain : plain (getCore (movedS s core (.ssig areg off)) core) = plain (getCore s core) := by rw [getCore_movedS hdet, plain_coreS]
  have hview := signalView_movedS hdet core (.ssig areg off)
  refine ⟨bufTouch (movedS s core (.ssig areg off)) core (resolve (getCore s core) areg off).toNat 32 false 3, ?_,
    (signalView_bufTouch ..).trans hview, ?_⟩
  · rw [flight_bufTouch (detFree_movedS hdet ..), getCore_movedS hdet, coreS_flight]
  · exact doSsig_sends (by rw [bufRead, plain_buf hplain]; exact hd) hview halign (by rw [plain_bufPoison hplain]; exact hclean) hbad rfl

/-- SSIG to the module itself (R230). -/
theorem ssig_self (hi : SlotIssues s core { s := .ssig areg off, sp := p }) (hp : predTrue (getCore s core).p p = true)
    (hfl : (getCore s core).flight = []) (hd : bufRead (getCore s core) (resolve (getCore s core) areg off).toNat 32 = d)
    (halign : (resolve (getCore s core) areg off).toNat % 32 = 0) (hclean : ∀ u, smGet false (getCore s core).bufPoison u = false)
    (hbad : sigDescBad s d = false) (hdev : (sigOf s d).1 = devId s) (hroom : sigCount s < 4096) (hwait : s.sync.selfWait = [])
    (hok : sigTargetBad s (sigOf s d).2 = false) :
    ∃ t, exec (.ssig core p areg off) s = .next t ∧ t.sync.held = s.sync.held ++ [(sigOf s d).2] := by
  obtain ⟨u, hrest, hview, hlate⟩ := lateS_ssig hi hd halign hclean hbad
  rw [if_pos hdev, sigSelf_holds hview hroom hwait hok] at hlate
  exact ⟨_, by rw [exec_ssig, onCore_s hi hp]; rw [hlate]; exact hrest.trans hfl, by rw [hlate]; rfl⟩

/-- SSIG to another module (R230). -/
theorem ssig_other (hi : SlotIssues s core { s := .ssig areg off, sp := p }) (hp : predTrue (getCore s core).p p = true)
    (hfl : (getCore s core).flight = []) (hd : bufRead (getCore s core) (resolve (getCore s core) areg off).toNat 32 = d)
    (halign : (resolve (getCore s core) areg off).toNat % 32 = 0) (hclean : ∀ u, smGet false (getCore s core).bufPoison u = false)
    (hbad : sigDescBad s d = false) (hdev : (sigOf s d).1 ≠ devId s) :
    ∃ t o, exec (.ssig core p areg off) s = .next t ∧
      (getCe t (engineOf (sigOf s d).2.ctx)).ops = (getCe s (engineOf (sigOf s d).2.ctx)).ops ++ [o] ∧
      o.kind = .sig (sigOf s d).1 (sigOf s d).2 ∧ o.core = core ∧ t.sync.held = s.sync.held := by
  obtain ⟨u, hrest, hview, hlate⟩ := lateS_ssig hi hd halign hclean hbad
  rw [if_neg hdev] at hlate
  have hheld : u.sync.held = s.sync.held := congrArg (fun v => v.1) hview
  have hce : getCe u = getCe s := by
    funext k
    rw [getCe, getCe, show u.ce = s.ce from congrArg (fun v => v.2.2.2.2.2.1) hview]
  refine ⟨_, { newCeOp core (sigOf s d).2.ctx (.sig (sigOf s d).1 (sigOf s d).2) [] 63 (getCore s core).nextIdx 0 with uid := u.ceUid },
    by rw [exec_ssig, onCore_s hi hp]; rw [hlate]; exact hrest.trans hfl, ?_, rfl, rfl, by rw [hlate]; exact hheld⟩
  rw [hlate, ← hce]
  exact getCe_cePush u _

end

/-- Settles O15: SBAR and SSIG are each the S operation alone on its core. -/
theorem barrierAndSignalResults : Obligations.BarrierAndSignalResults :=
  ⟨fun _ _ _ _ _ hi hp hfl => sbar_takes hi hp hfl,
    fun _ _ _ _ _ hok hr hop h2 hp hfl htoken harr hlow hn => sbar_arrives hok hr hop h2 hp hfl htoken harr hlow hn,
    fun _ _ _ _ _ hi hp hfl halign hclean hbad =>
      ⟨fun hdev hroom hwait hok => ssig_self hi hp hfl rfl halign hclean hbad hdev hroom hwait hok,
        fun hdev => ssig_other hi hp hfl rfl halign hclean hbad hdev⟩⟩

end Sys2Proof.Machine
end

section
/-! PROOFS. O26: a quiet module whose wait map meets a device fault. The device fault that the storing of the map brings about leaves BLOCKED, and no later write
of memory enters it again. -/

namespace Sys2Proof.Machine

/-! ### A detector in WATCH stays there while memory is written -/

theorem detWithdraw_watch (s : State) : (detWithdraw s).sync.det = .watch := by
  simp only [detWithdraw]
  split
  · rfl
  · split
    · rfl
    · simp

@[simp] theorem readyDrop_sync (s : State) : (readyDrop s).sync = s.sync := by
  unfold readyDrop
  split <;> simp

/-- A device fault leaves BLOCKED (R240, R430). -/
theorem deviceFatal_watch {s : State} (h : s.sync.det = .watch ∨ s.sync.det = .blocked) (src code : Word16) (p : Nat) :
    (deviceFatal s src code p).sync.det = .watch := by
  have hleave : ∀ u : State, u.sync.det = s.sync.det → (detLeave u).sync.det = .watch := by
    intro u hu
    unfold detLeave
    rcases h with h | h
    · simp [hu, h]
    · simp only [hu, h]
      exact detWithdraw_watch u
  simp only [deviceFatal, hostVector_sync, readyDrop_sync, noticeSend_sync]
  exact hleave _ (by simp)

section
variable {s : State} (h : s.sync.det = .watch)
include h

@[simp] theorem setLinePoison_watch (line : Nat) (bad : Bool) : (setLinePoison s line bad).sync.det = .watch := by
  unfold setLinePoison
  split
  · dsimp only
    split
    · exact deviceFatal_watch (.inl h) ..
    · exact h
  · exact h
  · exact h
  · exact h

@[simp] theorem strike_watch (core : Nat) (u : Upset) : (strike s core u).sync.det = .watch := by
  cases u with
  | hivePoisoned | bufPoisoned | accPoisoned => simp only [strike]; split <;> simp [sliceBad, contained, h]
  | _ => simp [strike, h]

@[simp] theorem meetBy_watch (reads : Nat → Upset → Bool) : (meetBy s reads).sync.det = .watch := by
  unfold meetBy
  generalize s.mem.upsets.filter (fun p => reads p.1 p.2) = us
  have hs : ({ s with mem := { s.mem with upsets := s.mem.upsets.filter (fun p => !reads p.1 p.2) } } : State).sync.det = .watch := h
  revert hs
  generalize ({ s with mem := { s.mem with upsets := s.mem.upsets.filter (fun p => !reads p.1 p.2) } } : State) = t
  induction us generalizing t with
  | nil => exact id
  | cons u us ih => exact fun ht => ih _ (strike_watch ht _ _)

@[simp] theorem mcPush_watch (r : MReq) : (mcPush s r).sync.det = .watch := by
  unfold mcPush
  dsimp only
  split
  · simp [h]
  · exact h

@[simp] theorem hiveBack_watch (line : Nat) : (hiveBack s line).sync.det = .watch := by
  have hm := meetBy_watch h fun _ => hiveAmong fun l => l == line
  refine mcPush_watch ?_ _
  rw [bump_sync]
  split
  · exact setLinePoison_watch hm ..
  · exact hm

@[simp] theorem hiveLeave_watch (v : HiveLine) : (hiveLeave s v).sync.det = .watch := by
  unfold hiveLeave
  dsimp only
  repeat' split
  · exact hiveBack_watch h _
  · exact setLinePoison_watch (by exact h) ..
  · exact h

@[simp] theorem hiveAlloc_watch (line : Nat) (dirty : Bool) (hint : Nat) : (hiveAlloc s line dirty hint).sync.det = .watch := by
  unfold hiveAlloc
  dsimp only
  repeat' split
  all_goals simp [h]

@[simp] theorem hiveAccess_watch (line : Nat) (write whole nopf : Bool) (hint : Nat) : (hiveAccess s line write whole nopf hint).sync.det = .watch := by
  unfold hiveAccess
  dsimp only
  repeat' split
  all_goals simp [h]

end

@[simp] theorem hiveRun_watch (write : Bool) (hint a n : Nat) (ls : List Nat) :
    ∀ {s : State}, s.sync.det = .watch → (hiveRun write hint a n ls s).sync.det = .watch := by
  induction ls with
  | nil => exact id
  | cons l ls ih => exact fun h => ih (hiveAccess_watch h ..)

@[simp] theorem poisonLines_watch (lo n : Nat) (bad : Bool) (ls : List Nat) :
    ∀ {s : State}, s.sync.det = .watch → (poisonLines lo n bad ls s).sync.det = .watch := by
  induction ls with
  | nil => exact id
  | cons l ls ih =>
    intro s h
    refine ih ?_
    repeat' split
    all_goals simp [h]

@[simp] theorem keepMem_sync (s : State) (a : Nat) (bs : List Byte) : (keepMem s a bs).sync = s.sync := by
  unfold keepMem
  dsimp only
  split <;> rfl

@[simp] theorem storeBytes_sync (s : State) (a : Nat) (bs : List Byte) : (storeBytes s a bs).sync = s.sync := by
  unfold storeBytes
  split <;> rfl

@[simp] theorem tearWatches_sync (s : State) (a n : Nat) : (tearWatches s a n).sync = s.sync := by
  unfold tearWatches
  split <;> rfl

@[simp] theorem memStore_watch {s : State} (h : s.sync.det = .watch) (a : Nat) (bs : List Byte) (bad : Bool) (hint : Nat) :
    (memStore s a bs bad hint).sync.det = .watch := by
  unfold memStore
  dsimp only
  repeat' split
  all_goals simp [h]

theorem devStores_watch (base : Nat) (ps : List (Nat × List Byte)) : ∀ {s : State}, s.sync.det = .watch → (devStores base ps s).sync.det = .watch := by
  induction ps with
  | nil => exact id
  | cons p ps ih => exact fun h => ih (memStore_watch h ..)

/-! ### A wait map that a full set does not take -/

/-- Clean bytes of lines below every poisoned one leave the poison of memory as it is. -/
theorem smSet_absent {α : Type} [DecidableEq α] {d : α} {m : SMap α} {k : Nat} (h : ∀ q ∈ m, k < q.1) : smSet d m k d = m := by
  cases m with
  | nil => simp [smSet]
  | cons q m =>
    obtain ⟨j, u⟩ := q
    have hk : k < j := h _ (List.mem_cons_self ..)
    simp [smSet, Nat.not_lt.2 hk.le, Nat.ne_of_gt hk]

/-- A state whose poisoned lines all lie above a line. -/
def PoisonAbove (s : State) (line : Nat) : Prop := (∀ q ∈ s.mem.poison, line < q.1) ∧ ∀ q ∈ s.mem.slicePoison, line < q.1

theorem setLinePoison_absent {s : State} {line : Nat} (hg : placeOf (line * 64) = .gddr) (h : PoisonAbove s line) : setLinePoison s line false = s := by
  obtain ⟨hp, hsl⟩ := h
  simp only [setLinePoison, hg, Bool.false_and, Bool.false_eq_true, if_false, smSet_absent hp, smSet_absent hsl]

theorem poisonLines_absent {s : State} {lo n : Nat} {ls : List Nat} (h : ∀ l ∈ ls, placeOf (l * 64) = .gddr ∧ PoisonAbove s l) :
    poisonLines lo n false ls s = s := by
  induction ls with
  | nil => rfl
  | cons l ls ih =>
    obtain ⟨hg, hl⟩ := h l (List.mem_cons_self ..)
    rw [poisonLines]
    simp only [Bool.false_eq_true, if_false, setLinePoison_absent hg hl, ite_self]
    exact ih fun x hx => h x (List.mem_cons_of_mem _ hx)

/-- A line that a full set gives up ends in MEM_POISON_FULL where it is bad in the slice only and its controller's list is full (R260, R305). -/
structure EvictFails (s : State) (key line : Nat) (v : HiveLine) : Prop where
  key_eq : hiveKey line = key
  absent : (smGet [] s.mem.hive key).find? (fun l => l.line == line) = none
  full : (smGet [] s.mem.hive key).length = 16
  victim : hiveVictim (smGet [] s.mem.hive key) = some v
  dirty : v.dirty = true
  bad : smGet false s.mem.slicePoison v.line = true
  place : placeOf (v.line * 64) = .gddr
  list : 1024 ≤ poisonCount s (mcOf (v.line * 64))
  sound : s.mem.upsets = []

/-- The write of a whole line then leaves BLOCKED. -/
theorem hiveAccess_leaves_blocked {s : State} {key line : Nat} {v : HiveLine} (h : EvictFails s key line v) (hd : s.sync.det = .blocked) (nopf : Bool) :
    (hiveAccess s line true true nopf 0).sync.det = .watch := by
  obtain ⟨hkey, habs, hfull, hv, hdirty, hbad, hplace, hlist, hsound⟩ := h
  generalize hb : bump s (aHiveMisses (key / 16384)) 1 = b
  have hmem : b.mem = s.mem := by rw [← hb, bump_mem]
  have hleave : (hiveLeave b v).sync.det = .watch := by
    have hfatal : setLinePoison b v.line true = deviceFatal b (srcMc (mcOf (v.line * 64))) cMemPoisonFull (v.line * 64) := by
      have hcount : poisonCount b (mcOf (v.line * 64)) = poisonCount s (mcOf (v.line * 64)) := by rw [poisonCount, poisonCount, hmem]
      simp [setLinePoison, hplace, hmem, hbad, hcount, hlist]
    simp only [hiveLeave, hdirty, if_true, hiveBack]
    rw [meetBy_nil _ _ (by rw [hmem, hsound]), hmem, if_pos hbad, hfatal]
    exact mcPush_watch (by rw [bump_sync]; exact deviceFatal_watch (.inr (by rw [← hb, bump_sync, hd])) ..) _
  simp only [hiveAccess, hkey, habs, hb, hiveAlloc, hmem, hfull, hv, Nat.lt_irrefl, if_false, show ¬(0 = 2) by decide, Bool.and_self, if_true]
  exact hleave

/-- What a write of GDDR7 changes before poison and the slices see it. -/
theorem storing_eq {s : State} {a : Nat} (hg : placeOf a = .gddr) (bs : List Byte) (n : Nat) :
    ∃ g w cs es, tearWatches (storeBytes (keepMem s a bs) a bs) a n = { s with mem := { s.mem with gddr := g, watch := w }, cores := cs, ce := es } := by
  have hkeep : ∃ cs es, keepMem s a bs = { s with cores := cs, ce := es } := by
    unfold keepMem
    dsimp only
    split
    · exact ⟨s.cores, s.ce, rfl⟩
    · exact ⟨_, _, rfl⟩
  obtain ⟨cs, es, hk⟩ := hkeep
  simp only [hk, storeBytes, hg, tearWatches]
  split
  · exact ⟨_, s.mem.watch, cs, es, rfl⟩
  · exact ⟨_, _, cs, es, rfl⟩

theorem placeOf_gddr {a : Nat} (h : a < gddrTop) : placeOf a = .gddr := if_pos h

/-- The lines of a run from address 0 on begin with line 0. -/
theorem linesOf_zero {n : Nat} (h : 0 < n) : ∃ ls, linesOf 0 n = 0 :: ls ∧ ∀ l ∈ 0 :: ls, l ≤ n := by
  refine ⟨((List.range ((0 + n - 1) / 64 - 0 / 64)).map Nat.succ).map fun i => 0 / 64 + i, ?_, ?_⟩
  · rw [linesOf, if_neg (Nat.ne_of_gt h), List.range_succ_eq_map]
    rfl
  · simp only [List.mem_cons, List.map_map, List.mem_map, List.mem_range, Function.comp]
    rintro l (rfl | ⟨i, hi, rfl⟩) <;> omega

/-- A write from address 0 on whose first line finds its set as `EvictFails` says leaves BLOCKED. -/
theorem memStore_leaves_blocked {s : State} {v : HiveLine} {bs : List Byte} (hd : s.sync.det = .blocked) (hlo : 64 ≤ bs.length)
    (hhi : bs.length < 2 ^ 18) (habove : ∀ l, l < 2 ^ 18 → PoisonAbove s l) (h : EvictFails s 0 0 v) :
    (memStore s 0 bs false 0).sync.det = .watch := by
  have hspan : spanDown s 0 bs.length = false := by
    have hlast : placeOf (0 + bs.length - 1) = .gddr := placeOf_gddr (by unfold gddrTop; omega)
    simp only [spanDown, addrDown, placeOf_gddr (show 0 < gddrTop by decide), hlast, Bool.or_false]
  have hne : bs.isEmpty = false := by
    cases bs with
    | nil => simp at hlo
    | cons => rfl
  obtain ⟨ls, hlines, hmax⟩ := linesOf_zero (n := bs.length) (by omega)
  obtain ⟨g, w, cs, es, hstore⟩ := storing_eq (s := s) (placeOf_gddr (show 0 < gddrTop by decide)) bs bs.length
  have hclean := poisonLines_absent (s := { s with mem := { s.mem with gddr := g, watch := w }, cores := cs, ce := es }) (lo := 0) (n := bs.length)
    (ls := linesOf 0 bs.length) (by
      intro l hl
      have hle := hmax l (hlines ▸ hl)
      exact ⟨placeOf_gddr (by unfold gddrTop; omega), habove l (by omega)⟩)
  simp only [memStore, hne, hspan, Bool.or_self, Bool.false_eq_true, if_false, hstore, hclean, placeOf_gddr (show 0 < gddrTop by decide)]
  rw [hlines, hiveRun]
  refine hiveRun_watch _ _ _ _ _ ?_
  have hwhole : (decide (0 ≤ 0 * 64) && decide (0 * 64 + 64 ≤ 0 + bs.length)) = true := by simp [hlo]
  rw [hwhole]
  obtain ⟨hkey, habs, hfull, hv, hdirty, hbad, hplace, hlist, hsound⟩ := h
  refine hiveAccess_leaves_blocked (key := 0) (v := v) ?_ ?_ _
  · exact ⟨hkey, habs, hfull, hv, hdirty, hbad, hplace, hlist, hsound⟩
  · exact hd

/-! ### The wait map of a quiet module (R244) -/

theorem waitEntry_length (s : State) (id : Nat) : (waitEntry s id).length = 16 := by simp [waitEntry, length_leBytes]

/-- The first part of the wait map holds its header and the entries of the cores. -/
theorem waitMap_head (s : State) : ∃ bs rest, waitMap s = (0, bs) :: rest ∧ bs.length = 64 + 16 * nCores s := by
  refine ⟨_, _, rfl, ?_⟩
  simp [length_leBytes, zeros, waitEntry_length, List.length_flatMap]
  omega

/-- What the lead does with the reports it holds moves no detector that is in WATCH (R242). -/
theorem leadCheck_watch {s : State} (h : s.sync.det = .watch) : (leadCheck s).sync.det = .watch := by
  unfold leadCheck
  dsimp only
  split
  · rw [takeDeadlock, if_neg (by rw [tc0SendAll_sync, h]; decide), tc0SendAll_sync]
    exact h
  · exact h

theorem sendBlocked_watch {s : State} (h : s.sync.det = .watch) : (sendBlocked s).sync.det = .watch := by
  unfold sendBlocked
  dsimp only
  split
  · exact h
  · split
    · exact leadCheck_watch h
    · rw [tc0Send_sync]
      exact h

/-- The entry to BLOCKED ends in WATCH where the wait map lies at address 0 and its first line finds its set as `EvictFails` says. -/
theorem enterBlocked_watch {s : State} {v : HiveLine} (hbase : (reg s aSynDlMap).toNat / 2 ^ 17 % 2 ^ 29 * 2 ^ 17 = 0)
    (habove : ∀ l, l < 2 ^ 18 → PoisonAbove s l) (h : EvictFails s 0 0 v) : (enterBlocked s).sync.det = .watch := by
  obtain ⟨bs, rest, hmap, hlen⟩ := waitMap_head { s with sync := { s.sync with det := .blocked, blockedAt := now s } }
  have hcores : nCores { s with sync := { s.sync with det := .blocked, blockedAt := now s } } ≤ 896 := by unfold nCores; split <;> omega
  unfold enterBlocked
  refine sendBlocked_watch ?_
  rw [record_sync]
  simp only [hmap, devStores, hbase]
  refine devStores_watch _ _ (memStore_leaves_blocked (v := v) ?_ (by omega) (by omega) ?_ ?_)
  · rfl
  · exact habove
  · obtain ⟨hkey, habs, hfull, hv, hdirty, hbad, hplace, hlist, hsound⟩ := h
    exact ⟨hkey, habs, hfull, hv, hdirty, hbad, hplace, hlist, hsound⟩

/-! ### A module whose wait map meets a full set -/

/-- 1,024 lines of controller 0 that are poisoned in GDDR7 itself: its list is full (R305). -/
def fullList0 : SMap Bool := (List.range 1024).map fun i => (1 + (i + 1) * 2 ^ 18, true)

/-- The set of line 0 is full of dirty lines; the oldest, 1040 · 2^18, is bad in the slice only (R259, R260). -/
def fullSet0 : List HiveLine := (List.range 16).map fun i => ⟨(1025 + i) * 2 ^ 18, true, false, false⟩

/-- A module whose sequencer polls the sequence table, so that every core is quiet, and whose window is over; device 5 leads its job. Its wait map lies at
address 0. -/
def quietMeetsFault : State :=
  { State.reset with
    seq := { Seq.init with st := .running, poll := true }
    job := { Job.init with st := .running, leads := [5] }
    tim := { State.reset.tim with acc := 60000000000 * 2 ^ 32 }
    sync := { State.reset.sync with det := .quiet }
    mem := { State.reset.mem with
      hive := [(0, fullSet0)]
      poison := fullList0 ++ [(1040 * 2 ^ 18, true)]
      slicePoison := [(1040 * 2 ^ 18, true)] } }

theorem quietMeetsFault_evictFails : EvictFails quietMeetsFault 0 0 ⟨1040 * 2 ^ 18, true, false, false⟩ := by
  constructor <;> decide +kernel

theorem quietMeetsFault_above (l : Nat) (hl : l < 2 ^ 18) : PoisonAbove quietMeetsFault l := by
  unfold PoisonAbove
  simp only [quietMeetsFault, fullList0, List.mem_append, List.mem_map, List.mem_singleton]
  constructor
  · rintro q (⟨i, -, rfl⟩ | rfl)
    · dsimp only
      omega
    · dsimp only
      omega
  · rintro q rfl
    dsimp only
    omega

theorem quietMeetsFault_quiet : allQuiet quietMeetsFault = true := by decide +kernel

/-- Refutes O26, by its clause on the quiet window: storing the wait map may end in MEM_POISON_FULL, and the device fault takes the module out of BLOCKED. -/
theorem not_syncResults : ¬ Obligations.SyncResults := by
  rintro ⟨-, -, hquiet, -⟩
  obtain ⟨t, m, hexec, hdet, -⟩ := hquiet quietMeetsFault 5 (by decide) quietMeetsFault_quiet rfl (by decide) (by decide) (by decide)
  have hrun : exec .quietWindowElapsed quietMeetsFault = .next (enterBlocked quietMeetsFault) :=
    congrArg Host.Outcome.next (if_pos ⟨by decide, quietMeetsFault_quiet, rfl, by decide⟩)
  rw [hrun] at hexec
  obtain rfl := Host.Outcome.next.inj hexec
  rw [enterBlocked_watch (by decide) quietMeetsFault_above quietMeetsFault_evictFails] at hdet
  cases hdet

end Sys2Proof.Machine
end

section
/-! PROOFS. O27: the answer to a read that meets a device fault on its way. -/

namespace Sys2Proof.Machine

/-- 1,024 lines of controller 1, each poisoned in GDDR7 itself: the controller's poison list is full (R305). -/
def fullList : SMap Bool := (List.range 1024).map fun i => (65 + i * 2 ^ 18, true)

/-- The set of line 64 in slice 1 is full of dirty lines; the oldest, 64 + 2^28, is bad in the slice only (R259, R260). -/
def fullSet : List HiveLine := (List.range 16).map fun i => ⟨64 + (1009 + i) * 2 ^ 18, true, false, false⟩

/-- A running module whose controller 1 still holds a write of line 64 in its window, with a full set and a full poison list behind it. Its window table,
at address 0, lets remote agents read the first granule. -/
def readMeetsFault : State :=
  { State.reset with
    seq := { Seq.init with st := .running }
    job := { Job.init with st := .running }
    fab := { Fab.init with links := [(0, { Link.init with st := .up })] }
    mem := { State.reset.mem with
      gddr := [(0, 9)]
      win := [(1, [⟨64, true, false, 0, 0⟩])]
      hive := [(hiveKey 64, fullSet)]
      poison := fullList ++ [(64 + 2 ^ 28, true)]
      slicePoison := [(64 + 2 ^ 28, true)] } }

/-- A read of two bytes of line 64 by device 5. -/
def readOfLine64 : Packet := ⟨2, 2, 0, 1, 0, false, false, 0, 5, 9, 0, 2, 0, 0x1000, 0, false, [], none, false⟩

/-- The read merges with the pending write, so its line counts as come; the line that leaves the set for it finds the poison list full. -/
theorem readMeetsFault_linesIn : linesIn (touchRead readMeetsFault 0x1000 2 0) readOfLine64 = true := by decide +kernel

/-- A module with a device fault injects no packet (R430). -/
theorem readMeetsFault_unanswered {t : State} (h : exec (.rdReq 0 readOfLine64) readMeetsFault = .next t) : t.fab.rsp = [] := by
  have hrun : (match exec (.rdReq 0 readOfLine64) readMeetsFault with | .next u => u.fab.rsp | _ => []) = [] := by decide +kernel
  rwa [h] at hrun

/-- Refutes O27, by its clause on reads: a line that merges with a pending write counts as come (R303), and bringing it into its slice may end in
MEM_POISON_FULL, after which no answer leaves. -/
theorem not_packetLands : ¬ Obligations.PacketLands := by
  intro h
  obtain ⟨-, hread, -⟩ := h readMeetsFault 0 readOfLine64 (by decide) (by decide +kernel) rfl rfl (by decide) rfl rfl rfl rfl (by decide) (by decide) (by decide)
    (by decide) (by decide)
  obtain ⟨t, q, hexec, hq, -⟩ := hread (by decide +kernel) rfl (by decide) (by decide) (.inl rfl) readMeetsFault_linesIn rfl
  rw [readMeetsFault_unanswered hexec] at hq
  exact absurd hq List.not_mem_nil

end Sys2Proof.Machine
end

section
/-! PROOFS. O60 (R76, R217, R296, R516, R537): what a command leaves as it was. Each function that the frame's commands are made of is shown to keep
the memories, flash, fuses, time base, power controller and pins, or all but time, power and pins, in the order of the model's files. -/

namespace Sys2Proof.Machine

/-- What slot commands keep of the module: what is fixed at manufacture, configuration, life cycle and fuses, flash, GDDR7, the CXL tier, time, power, pins. -/
@[ext] structure Kept where
  part832 : Bool
  repair : SMap (List Nat)
  cfg : List Byte
  tim : Tim
  sec : Sec
  nor : Memory
  pwr : Pwr
  pins : Pins
  gddr : Memory
  cxl : Memory

def kept (s : State) : Kept := ⟨s.part832, s.repair, s.cfg, s.tim, s.sec, s.nor, s.pwr, s.pins, s.mem.gddr, s.mem.cxl⟩

/-- The part of it that outlives a change of time, power, pins and life cycle. -/
def Kept.durable (k : Kept) : Bool × SMap (List Nat) × List Byte × Fuses × Memory × Memory × Memory :=
  (k.part832, k.repair, k.cfg, k.sec.fuses, k.nor, k.gddr, k.cxl)

@[simp] theorem kept_mk (a b c d e f g h i j k l m n o p q r t u v w) :
    kept (State.mk a b c d e f g h i j k l m n o p q r t u v w) = ⟨c, d, f, p, t, u, v, w, j.gddr, j.cxl⟩ :=
  Kept.ext rfl rfl rfl rfl rfl rfl rfl rfl rfl rfl

@[simp] theorem kept_eta (s : State) :
    Kept.mk s.part832 s.repair s.cfg s.tim s.sec s.nor s.pwr s.pins s.mem.gddr s.mem.cxl = kept s :=
  Kept.ext rfl rfl rfl rfl rfl rfl rfl rfl rfl rfl

@[simp] theorem kept_ite (c : Prop) [Decidable c] (s t : State) : kept (if c then s else t) = if c then kept s else kept t :=
  apply_ite _ _ _ _

@[simp] theorem kept_foldl {α : Type} (f : State → α → State) (h : ∀ s x, kept (f s x) = kept s) (l : List α) (s : State) :
    kept (l.foldl f s) = kept s := by
  induction l generalizing s with
  | nil => rfl
  | cons x l ih => exact (ih _).trans (h s x)

@[simp] theorem durable_mk (a b c d e f g h i j) : (Kept.mk a b c d e f g h i j).durable = (a, b, c, e.fuses, f, i, j) :=
  Prod.ext rfl (Prod.ext rfl (Prod.ext rfl (Prod.ext rfl (Prod.ext rfl (Prod.ext rfl rfl)))))

@[simp] theorem durable_eta (s : State) :
    (s.part832, s.repair, s.cfg, s.sec.fuses, s.nor, s.mem.gddr, s.mem.cxl) = (kept s).durable :=
  Prod.ext rfl (Prod.ext rfl (Prod.ext rfl (Prod.ext rfl (Prod.ext rfl (Prod.ext rfl rfl)))))

@[simp] theorem durable_ite (c : Prop) [Decidable c] (p q : Kept) : (if c then p else q).durable = if c then p.durable else q.durable :=
  apply_ite _ _ _ _

/-! ### What the functions of `Ops` keep -/

@[simp] theorem setCore_kept (s i c) : kept (setCore s i c) = kept s := by simp [setCore]

@[simp] theorem modCore_kept (s i f) : kept (modCore s i f) = kept s := by simp [modCore]

@[simp] theorem setReg_kept (s a v) : kept (setReg s a v) = kept s := by simp [setReg]

@[simp] theorem setRegF_kept (s a hi lo x) : kept (setRegF s a hi lo x) = kept s := by simp [setRegF]

@[simp] theorem bump_kept (s a n) : kept (bump s a n) = kept s := by simp [bump]

@[simp] theorem draw_kept (s) : kept (draw s).2 = kept s := by simp [draw]

@[simp] theorem hostTear_kept (s p n) : kept (hostTear s p n) = kept s := by simp [hostTear]

@[simp] theorem hostVector_kept (s v) : kept (hostVector s v) = kept s := by simp [hostVector]

@[simp] theorem hostWrite_kept (s a bs) : kept (hostWrite s a bs) = kept s := by simp [hostWrite]

@[simp] theorem hostPut_kept (s n cid more status r0 r1) : kept (hostPut s n cid more status r0 r1) = kept s := by simp [hostPut]

@[simp] theorem hostEvent_kept (s r) : kept (hostEvent s r).1 = kept s := by
  unfold hostEvent
  repeat' split
  all_goals simp

@[simp] theorem hostEvents_kept (rs s) : kept (hostEvents rs s).1 = kept s := by
  induction rs generalizing s with
  | nil => rfl
  | cons r rs ih => exact (ih _).trans (hostEvent_kept s r)

@[simp] theorem ldgPost_kept (s l rs) : kept (ldgPost s l rs) = kept s := by simp [ldgPost]

@[simp] theorem record_kept (s cls source code payload) : kept (record s cls source code payload) = kept s := by simp [record]

@[simp] theorem tc0SendOn_kept (via s kind dst tag body) : kept (tc0SendOn via s kind dst tag body) = kept s := by simp [tc0SendOn]

@[simp] theorem tc0Send_kept (s kind dst tag body) : kept (tc0Send s kind dst tag body) = kept s := by simp [tc0Send]

@[simp] theorem tc0SendAll_kept (kind body a s) : kept (tc0SendAll kind body a s) = kept s := by
  fun_induction tc0SendAll kind body a s <;> simp_all

@[simp] theorem noticeSend_kept (s gone cause code) : kept (noticeSend s gone cause code) = kept s := by simp [noticeSend]

@[simp] theorem detWithdraw_kept (s) : kept (detWithdraw s) = kept s := by
  simp only [detWithdraw]
  repeat' split
  all_goals simp

@[simp] theorem detLeave_kept (s) : kept (detLeave s) = kept s := by unfold detLeave; split <;> simp

@[simp] theorem detStir_kept (s) : kept (detStir s) = kept s := by simp [detStir]

@[simp] theorem detBreak_kept (s) : kept (detBreak s) = kept s := by simp [detBreak]

@[simp] theorem haltOrders_kept (keep s) : kept (haltOrders keep s) = kept s := by simp [haltOrders]

@[simp] theorem haltStart_kept (s) : kept (haltStart s) = kept s := by simp [haltStart]

@[simp] theorem seqFault_kept (s core idx code) : kept (seqFault s core idx code) = kept s := by simp [seqFault]

@[simp] theorem fatalMark_kept (s core idx code) : kept (fatalMark s core idx code) = kept s := by simp [fatalMark]

@[simp] theorem coreStops_kept (s core) : kept (coreStops s core) = kept s := by simp [coreStops]

@[simp] theorem jobFatalKeep_kept (keep s core idx code source payload) :
    kept (jobFatalKeep keep s core idx code source payload) = kept s := by
  simp only [jobFatalKeep]
  repeat' split
  all_goals simp

@[simp] theorem jobFatal_kept (s core idx code source payload) :
    kept (jobFatal s core idx code source payload) = kept s := by simp [jobFatal]

@[simp] theorem contained_kept (s source code payload) : kept (contained s source code payload) = kept s := by simp [contained]

@[simp] theorem readyDrop_kept (s) : kept (readyDrop s) = kept s := by simp [readyDrop]

@[simp] theorem deviceFatal_kept (s source code payload) : kept (deviceFatal s source code payload) = kept s := by simp [deviceFatal]

@[simp] theorem poisonConsumed_kept (s core idx source addr consumer) :
    kept (poisonConsumed s core idx source addr consumer) = kept s := by simp [poisonConsumed]

@[simp] theorem addS_kept (s core i n) : kept (addS s core i n) = kept s := by simp [addS]

@[simp] theorem addG_kept (s i n) : kept (addG s i n) = kept s := by simp [addG]

@[simp] theorem doneAdvance_kept (s core done) : kept (doneAdvance s core done) = kept s := by simp [doneAdvance]

@[simp] theorem ctrAdvance_kept (s core f) : kept (ctrAdvance s core f) = kept s := by simp [ctrAdvance]

/-! ### What the functions of `MemOps` keep -/

@[simp] theorem refuseAccess_kept (s source gaddr place agent write) :
    kept (refuseAccess s source gaddr place agent write) = kept s := by simp [refuseAccess]

@[simp] theorem setLinePoison_kept (s line bad) : kept (setLinePoison s line bad) = kept s := by unfold setLinePoison; split <;> simp

@[simp] theorem sliceBad_kept (s line) : kept (sliceBad s line) = kept s := by simp [sliceBad]

@[simp] theorem strike_kept (s core u) : kept (strike s core u) = kept s := by unfold strike; split <;> simp

@[simp] theorem upsetNew_kept (s core u) : kept (upsetNew s core u) = kept s := by simp [upsetNew]

@[simp] theorem meetBy_kept (s reads) : kept (meetBy s reads) = kept s := by simp [meetBy]

@[simp] theorem meet_kept (s core reads) : kept (meet s core reads) = kept s := by simp [meet]

@[simp] theorem meetSpans_kept (s rs) : kept (meetSpans s rs) = kept s := by simp [meetSpans]

@[simp] theorem mcPush_kept (s r) : kept (mcPush s r) = kept s := by simp [mcPush]

@[simp] theorem hiveBack_kept (s0 line) : kept (hiveBack s0 line) = kept s0 := by simp [hiveBack]

@[simp] theorem hiveLeave_kept (s0 v) : kept (hiveLeave s0 v) = kept s0 := by simp [hiveLeave]

@[simp] theorem hiveAlloc_kept (s line dirty hint) : kept (hiveAlloc s line dirty hint) = kept s := by
  simp only [hiveAlloc]
  repeat' split
  all_goals simp

@[simp] theorem hiveAccess_kept (s line write whole nopf hint) : kept (hiveAccess s line write whole nopf hint) = kept s := by
  simp only [hiveAccess]
  repeat' split
  all_goals simp

@[simp] theorem hiveRun_kept (write hint a n a1 s) : kept (hiveRun write hint a n a1 s) = kept s := by
  fun_induction hiveRun write hint a n a1 s <;> simp_all

@[simp] theorem tearWatches_kept (s a n) : kept (tearWatches s a n) = kept s := by simp [tearWatches]

@[simp] theorem touchLines_kept (s a n hint ls) : kept (touchLines s a n hint ls) = kept s := by unfold touchLines; split <;> simp

@[simp] theorem touchRead_kept (s a n hint) : kept (touchRead s a n hint) = kept s := by simp [touchRead]

@[simp] theorem touchPart_kept (late s a n hint) : kept (touchPart late s a n hint) = kept s := by simp [touchPart]

@[simp] theorem devTouch_kept (write a n s) : kept (devTouch write a n s) = kept s := by simp [devTouch]

@[simp] theorem armWatch_kept (s w lo hi) : kept (armWatch s w lo hi) = kept s := by simp [armWatch]

@[simp] theorem freeWatch_kept (s w) : kept (freeWatch s w) = kept s := by simp [freeWatch]

/-! ### What the functions of `CoreOps` keep -/

@[simp] theorem combReads_kept (s core port rows) : kept (combReads s core port rows) = kept s := by simp [combReads]

/-! ### What the functions of `DebugOps` keep -/

@[simp] theorem dbgHaltCore_kept (s core cause k agent off) :
    kept (dbgHaltCore s core cause k agent off) = kept s := by simp [dbgHaltCore]

@[simp] theorem wpGo_kept (core off n agent write a a1 s) : kept (wpGo core off n agent write a a1 s) = kept s := by
  fun_induction wpGo core off n agent write a a1 s <;> simp_all

@[simp] theorem bufTouch_kept (s core off n write agent) : kept (bufTouch s core off n write agent) = kept s := by simp [bufTouch]

@[simp] theorem touchAll_kept (core a s) : kept (touchAll core a s) = kept s := by
  fun_induction touchAll core a s <;> simp_all

/-! ### What the functions of `ArrayUnit` keep -/

@[simp] theorem bump64_kept (s a rem n) : kept (bump64 s a rem n).1 = kept s := by simp [bump64]

@[simp] theorem finishOp_kept (s core o) : kept (finishOp s core o) = kept s := by simp [finishOp]

@[simp] theorem arrayEvent_kept (s core shadow o first reads) :
    kept (arrayEvent s core shadow o first reads) = kept s := by unfold arrayEvent; split <;> simp

@[simp] theorem runPass_kept (s core o outcome) : kept (runPass s core o outcome) = kept s := by
  simp only [runPass]
  repeat' split
  all_goals simp

@[simp] theorem finishDone_kept (core a s) : kept (finishDone core a s) = kept s := by
  fun_induction finishDone core a s <;> simp_all

@[simp] theorem finishAll_kept (core ms s) : kept (finishAll core ms s) = kept s := by simp [finishAll]

@[simp] theorem commitChain_kept (s core k) : kept (commitChain s core k) = kept s := by
  simp only [commitChain]
  repeat' split
  all_goals simp

@[simp] theorem doMld_kept (s core o t turn) : kept (doMld s core o t turn) = kept s := by simp [doMld]

@[simp] theorem doMswap_kept (s core) : kept (doMswap s core) = kept s := by simp [doMswap]

@[simp] theorem rangeEvent_kept (s core first n kind topk) : kept (rangeEvent s core first n kind topk) = kept s := by
  unfold rangeEvent
  repeat' split
  all_goals simp

@[simp] theorem doMdrain_kept (s core o first n t mode rnd kind) : kept (doMdrain s core o first n t mode rnd kind) = kept s := by
  simp only [doMdrain]
  repeat' split
  all_goals simp

@[simp] theorem doMtopk_kept (s core o first n vt pt k base kind) : kept (doMtopk s core o first n vt pt k base kind) = kept s := by
  simp only [doMtopk]
  repeat' split
  all_goals simp

/-! ### What the functions of `VectorUnit` keep -/

@[simp] theorem vReads_kept (s core o op v) : kept (vReads s core o op v) = kept s := by unfold vReads; split <;> simp

@[simp] theorem doVadam_kept (s core o v) : kept (doVadam s core o v) = kept s := by
  simp only [doVadam]
  repeat' split
  all_goals simp

@[simp] theorem doV_kept (s core o op v) : kept (doV s core o op v) = kept s := by simp [doV]

@[simp] theorem doTld_kept (s core o t pitch) : kept (doTld s core o t pitch) = kept s := by
  simp only [doTld]
  repeat' split
  all_goals simp

@[simp] theorem doTst_kept (s core o t pitch) : kept (doTst s core o t pitch) = kept s := by simp [doTst]

@[simp] theorem doTmov_kept (s core o d src) : kept (doTmov s core o d src) = kept s := by simp [doTmov]

@[simp] theorem doTzero_kept (s core o t) : kept (doTzero s core o t) = kept s := by simp [doTzero]

@[simp] theorem doTxp_kept (s core o d src) : kept (doTxp s core o d src) = kept s := by simp [doTxp]

@[simp] theorem completeOp_kept (s0 core o) : kept (completeOp s0 core o) = kept s0 := by unfold completeOp; split <;> simp

/-! ### What the functions of `CeDesc` keep -/

@[simp] theorem ctr4Advance_kept (s f) : kept (ctr4Advance s f) = kept s := by simp [ctr4Advance]

@[simp] theorem setCe_kept (s k e) : kept (setCe s k e) = kept s := by simp [setCe]

/-! ### What the functions of `SyncOps` keep -/

@[simp] theorem sigHold_kept (s g) : kept (sigHold s g) = kept s := by simp [sigHold]

@[simp] theorem sigSelf_kept (s g) : kept (sigSelf s g) = kept s := by simp [sigSelf]

@[simp] theorem cePush_kept (s o) : kept (cePush s o) = kept s := by simp [cePush]

@[simp] theorem doSsig_kept (s core idx addr) : kept (doSsig s core idx addr) = kept s := by
  simp only [doSsig]
  repeat' split
  all_goals simp

@[simp] theorem barArrive_kept (s core idx g n) : kept (barArrive s core idx g n) = kept s := by unfold barArrive; split <;> simp

@[simp] theorem watchRelease_kept (s core h res done) : kept (watchRelease s core h res done) = kept s := by simp [watchRelease]

@[simp] theorem armsGo_kept (core as s) : kept (armsGo core as s) = kept s := by
  induction as generalizing s with
  | nil => rfl
  | cons a as ih =>
    unfold armsGo
    split <;> simp [ih]

@[simp] theorem armsAll_kept (a s) : kept (armsAll a s) = kept s := by
  fun_induction armsAll a s <;> simp_all

@[simp] theorem retryArms_kept (s) : kept (retryArms s) = kept s := by simp [retryArms]

@[simp] theorem doXwatch_kept (s core d done) : kept (doXwatch s core d done) = kept s := by simp [doXwatch]

/-! ### What the functions of `Issue` keep -/

@[simp] theorem coreFault_kept (s core idx code) : kept (coreFault s core idx code) = kept s := by simp [coreFault]

theorem xDescFault_kept {s core idx c x t} (h : xDescFault s core idx c x = some t) : kept t = kept s := by
  simp only [xDescFault] at h
  repeat' split at h
  all_goals simp only [reduceCtorEq, Option.some.injEq] at h
  all_goals simp [← h]

theorem step2_kept {s core c b p1 i1 e t} (h : step2 s core c b p1 i1 e = some t) : kept t = kept s := by
  simp only [step2] at h
  split at h
  · simp [← Option.some.inj h]
  · split at h
    · simp [← Option.some.inj h]
    · split at h
      · simp [← Option.some.inj h]
      · split at h
        · next hx => exact xDescFault_kept (hx.trans h)
        · split at h
          · simp [← Option.some.inj h]
          · cases h

@[simp] theorem issueX_kept (s core c0 x done idx) : kept (issueX s core c0 x done idx) = kept s := by
  unfold issueX
  repeat' split
  all_goals simp

@[simp] theorem trimLog_kept (s) : kept (trimLog s) = kept s := by simp [trimLog]

@[simp] theorem doSdec_kept (s core idx i n) : kept (doSdec s core idx i n) = kept s := by simp [doSdec]

@[simp] theorem lateS_kept (s core idx c0 y) : kept (lateS s core idx c0 y) = kept s := by unfold lateS; split <;> simp

@[simp] theorem instantDone_kept (s core e) : kept (instantDone s core e) = kept s := by
  unfold instantDone
  repeat' split
  all_goals simp

@[simp] theorem keyCount_kept (s core e) : kept (keyCount s core e) = kept s := by simp [keyCount]

@[simp] theorem xFinish_kept (core x s) : kept (xFinish core x s) = kept s := by unfold xFinish; split <;> simp

@[simp] theorem issueAll_kept (s core b p1 i1 e) : kept (issueAll s core b p1 i1 e) = kept s := by
  simp only [issueAll]
  repeat' split
  all_goals simp

@[simp] theorem waitAt_kept (s core step cause) : kept (waitAt s core step cause) = kept s := by simp [waitAt]

@[simp] theorem steps3to6_kept (s core b p1 i1 e drain) : kept (steps3to6 s core b p1 i1 e drain) = kept s := by
  simp only [steps3to6]
  repeat' split
  all_goals simp

@[simp] theorem tryBundle_kept (s core b) : kept (tryBundle s core b) = kept s := by
  simp only [tryBundle]
  split
  · simp
  · split
    · simp
    · split
      · rfl
      · split
        · next hstep => exact step2_kept hstep
        · simp

@[simp] theorem endStep_kept (core stepped pos0 s) : kept (endStep core stepped pos0 s) = kept s := by simp [endStep]

@[simp] theorem bundleIssueCore_kept (s0 core) : kept (bundleIssueCore s0 core) = kept s0 := by
  simp only [bundleIssueCore]
  repeat' split
  all_goals simp

@[simp] theorem settleUnit_kept (core a s) : kept (settleUnit core a s) = kept s := by
  fun_induction settleUnit core a s <;> simp_all

@[simp] theorem soloSlot_kept (s core sl) : kept (soloSlot s core sl) = kept s := by
  simp only [soloSlot]
  split
  · rfl
  · split
    · simp
    · split
      · simp
      · split
        · next hstep => simp [step2_kept hstep]
        · simp

/-! ### What the functions of `Sequencer` keep -/

@[simp] theorem seqStop_kept (s idx code payload) : kept (seqStop s idx code payload) = kept s := by simp [seqStop]

@[simp] theorem seqRefused_kept (s a idx place) : kept (seqRefused s a idx place) = kept s := by simp [seqRefused]

@[simp] theorem seqPoison_kept (s a idx) : kept (seqPoison s a idx) = kept s := by simp [seqPoison]

@[simp] theorem tabAsk_kept (s0 a n step) : kept (tabAsk s0 a n step) = kept s0 := by simp [tabAsk]

theorem seqRead_error_kept {s a n idx t} (h : seqRead s a n idx = .error t) : kept t = kept s := by
  unfold seqRead at h
  repeat' split at h
  all_goals cases h
  all_goals simp

@[simp] theorem seqGo_kept (s ctx n) : kept (seqGo s ctx n) = kept s := by simp [seqGo]

@[simp] theorem seqEnqueue_kept (s b) : kept (seqEnqueue s b) = kept s := by simp [seqEnqueue]

@[simp] theorem seqCvar_kept (s idx mode index) : kept (seqCvar s idx mode index) = kept s := by
  simp only [seqCvar]
  split
  · simp
  · split
    · split <;> simp
    · split
      · simp
      · split
        · next hread => exact seqRead_error_kept hread
        · simp

@[simp] theorem seqMark2_kept (s pos idx) : kept (seqMark2 s pos idx) = kept s := by unfold seqMark2; split <;> simp

@[simp] theorem seqAct_kept (s pos idx c) : kept (seqAct s pos idx c) = kept s := by unfold seqAct; split <;> simp

@[simp] theorem seqTake_kept (s a idx) : kept (seqTake s a idx) = kept s := by
  simp only [seqTake]
  repeat' split
  all_goals simp

@[simp] theorem doFetch_kept (s0) : kept (doFetch s0) = kept s0 := by
  simp only [doFetch]
  repeat' split
  all_goals simp

@[simp] theorem arriveGo_kept (b is s) : kept (arriveGo b is s) = kept s := by
  induction is generalizing s with
  | nil => rfl
  | cons i is ih =>
    rw [arriveGo, ih]
    split <;> simp

@[simp] theorem doMulticast_kept (s) : kept (doMulticast s) = kept s := by
  unfold doMulticast
  repeat' split
  all_goals simp

@[simp] theorem seqTableTake_kept (s t idx) : kept (seqTableTake s t idx) = kept s := by
  simp only [seqTableTake]
  repeat' split
  all_goals simp

@[simp] theorem pollEnds_kept (s) : kept (pollEnds s) = kept s := by simp [pollEnds]

@[simp] theorem doTablePoll_kept (s) : kept (doTablePoll s) = kept s := by
  simp only [doTablePoll]
  split
  · rfl
  · split
    · simp
    · split
      · next hread => simp [seqRead_error_kept hread]
      · split
        · simp
        · split
          · simp
          · split
            · next hread => simp [seqRead_error_kept hread]
            · simp

/-! ### What the functions of `SlotCmds` keep -/

@[simp] theorem passStart_kept (s core o) : kept (passStart s core o) = kept s := by
  simp only [passStart]
  repeat' split
  all_goals simp

@[simp] theorem chainCommit_kept (s core) : kept (chainCommit s core) = kept s := by
  simp only [chainCommit]
  repeat' split
  all_goals simp

@[simp] theorem operationCommit_kept (s core u) : kept (operationCommit s core u) = kept s := by unfold operationCommit; split <;> simp

@[simp] theorem seqSolo_kept (s c) : kept (seqSolo s c) = kept s := by
  unfold seqSolo
  repeat' split
  all_goals simp

/-! ### What the functions of `LcuRun` keep -/

@[simp] theorem setLcu_kept (s core l) : kept (setLcu s core l) = kept s := by simp [setLcu]

@[simp] theorem modCopy_kept (s core ord f) : kept (modCopy s core ord f) = kept s := by simp [modCopy]

@[simp] theorem lcuDone_kept (s core q) : kept (lcuDone s core q) = kept s := by simp [lcuDone]

@[simp] theorem countRows_kept (s core d rows bytes) : kept (countRows s core d rows bytes) = kept s := by simp [countRows]

@[simp] theorem poisonMem_kept (a s) : kept (poisonMem a s) = kept s := by
  induction a generalizing s with
  | nil => rfl
  | cons x l ih => simp [poisonMem, ih]

@[simp] theorem abortEnd_kept (s core q) : kept (abortEnd s core q) = kept s := by simp [abortEnd]

/-! ### What the functions of `SyncRun` keep -/

@[simp] theorem giveTokens_kept (a s) : kept (giveTokens a s) = kept s := by
  induction a generalizing s with
  | nil => rfl
  | cons x l ih => simp [giveTokens, ih]

@[simp] theorem barrierRelease_kept (s g) : kept (barrierRelease s g) = kept s := by unfold barrierRelease; split <;> simp

@[simp] theorem takeDeadlock_kept (s lead count) : kept (takeDeadlock s lead count) = kept s := by simp [takeDeadlock]

@[simp] theorem leadCheck_kept (s) : kept (leadCheck s) = kept s := by simp [leadCheck]

@[simp] theorem sendBlocked_kept (s) : kept (sendBlocked s) = kept s := by unfold sendBlocked; split <;> simp

@[simp] theorem takeReport_kept (s src sent recv) : kept (takeReport s src sent recv) = kept s := by simp [takeReport]

@[simp] theorem takeWithdraw_kept (s src) : kept (takeWithdraw s src) = kept s := by simp [takeWithdraw]

/-! ### What the functions of `FabOps` keep -/

@[simp] theorem setLink_kept (s k l) : kept (setLink s k l) = kept s := by simp [setLink]

@[simp] theorem modLink_kept (s k f) : kept (modLink s k f) = kept s := by simp [modLink]

@[simp] theorem linkPut_kept (s k input w) : kept (linkPut s k input w) = kept s := by simp [linkPut]

@[simp] theorem fabOut_kept (s input w) : kept (fabOut s input w) = kept s := by unfold fabOut; split <;> simp

@[simp] theorem fabSource_kept (s p) : kept (fabSource s p) = kept s := by simp [fabSource]

@[simp] theorem fabAgain_kept (s p) : kept (fabAgain s p) = kept s := by unfold fabAgain; split <;> simp

@[simp] theorem txPumpGo_kept (key a s) : kept (txPumpGo key a s) = kept s := by
  induction a generalizing s with
  | zero => rfl
  | succ n ih =>
    simp only [txPumpGo]
    repeat' split
    all_goals simp [ih]

@[simp] theorem sentNote_kept (s) : kept (sentNote s) = kept s := by simp [sentNote]

@[simp] theorem txPump_kept (s key) : kept (txPump s key) = kept s := by simp [txPump]

@[simp] theorem fabSend_kept (s p o) : kept (fabSend s p o) = kept s := by simp [fabSend]

@[simp] theorem fabWrites_kept (cls dst ctx counted o a a1 a2 a3 s) :
    kept (fabWrites cls dst ctx counted o a a1 a2 a3 s) = kept s := by
  fun_induction fabWrites cls dst ctx counted o a a1 a2 a3 s <;> simp_all

@[simp] theorem fabReads_kept (cls dst ctx counted o home f a n key s) :
    kept (fabReads cls dst ctx counted o home f a n key s) = kept s := by
  induction f generalizing a n key s with
  | zero => rfl
  | succ f ih =>
    unfold fabReads
    split <;> simp [ih]

@[simp] theorem txAgain_kept (o a s) : kept (txAgain o a s) = kept s := by
  induction a generalizing s with
  | nil => rfl
  | cons x l ih => simp [txAgain, ih]

/-! ### What the functions of `CeCopy` keep -/

@[simp] theorem ceRefuseGo_kept (src p a s) : kept (ceRefuseGo src p a s) = kept s := by
  induction a generalizing s with
  | nil => rfl
  | cons x l ih =>
    simp only [ceRefuseGo]
    repeat' split
    all_goals simp [ih]

@[simp] theorem ceTouchPart_kept (late s a n hint) :
    kept (ceTouchPart late s a n hint) = kept s := by unfold ceTouchPart; split <;> simp

@[simp] theorem modOp_kept (s k uid f) : kept (modOp s k uid f) = kept s := by simp [modOp]

@[simp] theorem readersOff_kept (s uid) : kept (readersOff s uid) = kept s := by simp [readersOff]

@[simp] theorem ceDrop_kept (s k uid) : kept (ceDrop s k uid) = kept s := by simp [ceDrop]

@[simp] theorem readPiece_kept (k uid ctx p q s) : kept (readPiece k uid ctx p q s) = kept s := by
  unfold readPiece
  repeat' split
  all_goals simp

@[simp] theorem readPieces_kept (k uid ctx p a s) : kept (readPieces k uid ctx p a s) = kept s := by
  induction a generalizing s with
  | nil => rfl
  | cons x l ih => simp [readPieces, ih]

@[simp] theorem sendCuts_kept (k uid ctx p dev a a1 s) : kept (sendCuts k uid ctx p dev a a1 s) = kept s := by
  fun_induction sendCuts k uid ctx p dev a a1 s <;> simp_all

@[simp] theorem sendPieces_kept (k uid ctx p m a s) : kept (sendPieces k uid ctx p m a s) = kept s := by
  induction a generalizing s with
  | nil => rfl
  | cons x l ih =>
    unfold sendPieces
    split <;> simp [ih]

@[simp] theorem planArm_kept (s k uid p) : kept (planArm s k uid p) = kept s := by unfold planArm; split <;> simp

@[simp] theorem readersOn_kept (s uid ps) : kept (readersOn s uid ps) = kept s := by simp [readersOn]

@[simp] theorem ceBegin_kept (s k o p todo fail) : kept (ceBegin s k o p todo fail) = kept s := by simp [ceBegin]

/-! ### What the functions of `CeCol` keep -/

@[simp] theorem cePoison_kept (s k a) : kept (cePoison s k a) = kept s := by simp [cePoison]

/-! ### What the functions of `CeRun` keep -/

@[simp] theorem opEnter_kept (s o) : kept (opEnter s o) = kept s := by simp [opEnter]

@[simp] theorem opLeave_kept (s o t) : kept (opLeave s o t) = kept t := by
  unfold opLeave
  split <;> simp

@[simp] theorem asOp_kept {f} (h : ∀ t, kept (f t) = kept t) (s o) : kept (asOp s o f) = kept s := by simp [asOp, h]

@[simp] theorem colFault_kept (s k o code) : kept (colFault s k o code) = kept s := by simp [colFault]

@[simp] theorem ceRun_kept (s k o p todo fail) : kept (ceRun s k o p todo fail) = kept s := by simp [ceRun]

@[simp] theorem snapAsk_kept (s t) : kept (snapAsk s t) = kept s := by simp [snapAsk]

@[simp] theorem snapG_kept (s) : kept (snapG s) = kept s := by simp [snapG]

@[simp] theorem snapEnd_kept (s code x) : kept (snapEnd s code x) = kept s := by simp [snapEnd]

@[simp] theorem snapIssue_kept (a s) : kept (snapIssue a s) = kept s := by
  induction a generalizing s with
  | zero => rfl
  | succ n ih => simp [snapIssue, ih]

@[simp] theorem snapBegin_kept (s) : kept (snapBegin s) = kept s := by simp [snapBegin]

theorem relCheck_kept {s k o t} (h : relCheck s k o = some t) : kept t = kept s := by
  unfold relCheck at h
  split at h
  · simp [← Option.some.inj h]
  · simp [← Option.some.inj h]
  · obtain ⟨a, -, rfl⟩ := Option.map_eq_some_iff.mp h
    simp

@[simp] theorem colRelease_kept (s k) : kept (colRelease s k) = kept s := by
  unfold colRelease
  split
  · rfl
  · split
    · rfl
    · split
      · next hcheck => simp [relCheck_kept hcheck]
      · simp

@[simp] theorem ceGo_kept (s k o fail) : kept (ceGo s k o fail) = kept s := by simp [ceGo]

@[simp] theorem ceRetryGo_kept (s k ctx fail) : kept (ceRetryGo s k ctx fail) = kept s := by unfold ceRetryGo; split <;> simp

/-! ### What the functions of `LedgerRun` keep -/

@[simp] theorem ldgDo_kept (s f) : kept (ldgDo s f) = kept s := by simp [ldgDo]

@[simp] theorem clearEnd_kept (s) : kept (clearEnd s) = kept s := by simp [clearEnd]

@[simp] theorem ldgNonce_kept (s) : kept (ldgNonce s) = kept s := by simp [ldgNonce]

@[simp] theorem clearTry_kept (s d sigOk) : kept (clearTry s d sigOk).1 = kept s := by unfold clearTry; split <;> simp

@[simp] theorem freezeTry_kept (s ms) : kept (freezeTry s ms).1 = kept s := by
  simp only [freezeTry]
  repeat' split
  all_goals simp

@[simp] theorem thaw_kept (s cause) : kept (thaw s cause) = kept s := by simp [thaw]

@[simp] theorem useWrite_kept (s win at_ energy active steps preempts) :
    kept (useWrite s win at_ energy active steps preempts) = kept s := by simp [useWrite]

@[simp] theorem windowGroup_kept (s) : kept (windowGroup s) = kept s := by unfold windowGroup; split <;> simp

@[simp] theorem windowEnd_kept (s) : kept (windowEnd s) = kept s := by unfold windowEnd; split <;> simp

@[simp] theorem queryAnswers_kept (s src count seq ep) : kept (queryAnswers s src count seq ep) = kept s := by simp [queryAnswers]

@[simp] theorem ledgerAsk_kept (s src count seq ep) : kept (ledgerAsk s src count seq ep) = kept s := by simp [ledgerAsk]

@[simp] theorem ldgLock_kept (s) : kept (ldgLock s) = kept s := by simp [ldgLock]

/-! ### What the functions of `MemRun` keep -/

@[simp] theorem eccTake_kept (s line e) : kept (eccTake s line e) = kept s := by unfold eccTake; split <;> simp

@[simp] theorem mcEnter_kept (k a s) : kept (mcEnter k a s) = kept s := by
  induction a generalizing s with
  | zero => rfl
  | succ n ih =>
    simp only [mcEnter]
    repeat' split
    all_goals simp [ih]

@[simp] theorem l1Come_kept (s line) : kept (l1Come s line) = kept s := by simp [l1Come]

@[simp] theorem mcServe_kept (s k e) : kept (mcServe s k e) = kept s := by
  simp only [mcServe]
  repeat' split
  all_goals simp

@[simp] theorem mcScrub_kept (s k line e) : kept (mcScrub s k line e) = kept s := by simp [mcScrub]

@[simp] theorem downCopies_kept (s core) : kept (downCopies s core) = kept s := by simp [downCopies]

@[simp] theorem downOps_kept (s k) : kept (downOps s k) = kept s := by simp [downOps]

@[simp] theorem portDown_kept (s k) : kept (portDown s k) = kept s := by simp [portDown]

/-! ### What the functions of `QuiesceOps` keep -/

@[simp] theorem loadCe_kept (s k ctr) : kept (loadCe s k ctr) = kept s := by simp [loadCe]

@[simp] theorem loadSync_kept (s) : kept (loadSync s) = kept s := by simp [loadSync]

@[simp] theorem loadSeq_kept (s) : kept (loadSeq s) = kept s := by simp [loadSeq]

@[simp] theorem loadImage_kept (s0) : kept (loadImage s0) = kept s0 := by
  unfold loadImage
  extract_lets s h hw s1 q1 q2 q3 s2
  split
  next ctr s3 hdraw =>
    have hs3 : kept s3 = kept s2 := by rw [← draw_kept s2, hdraw]
    have hs2 : kept s2 = kept s0 := by
      simp only [s2, loadSeq_kept, kept_mk, kept_eta, s1, setReg_kept]
      exact kept_foldl _ (fun _ _ => devTouch_kept _ _ _ _) _ _
    simp only [loadSync_kept, kept_mk, kept_eta]
    rw [kept_foldl _ (fun _ _ => loadCe_kept _ _ _), kept_foldl _ (fun _ _ => setCore_kept _ _ _), hs3, hs2]

/-! ### What the functions of `WipeOps` keep -/

@[simp] theorem wipeShow_kept (s w) : kept (wipeShow s w) = kept s := by simp [wipeShow]

/-! ### What the functions of `JobOps` keep -/

@[simp] theorem jobTo_kept (s j) : kept (jobTo s j) = kept s := by simp [jobTo]

@[simp] theorem hostPost_kept (s q cid more status r0 r1) : kept (hostPost s q cid more status r0 r1) = kept s := by simp [hostPost]

@[simp] theorem hostDrain_kept (a s) : kept (hostDrain a s) = kept s := by
  induction a generalizing s with
  | nil => rfl
  | cons x l ih => simp [hostDrain, ih]

@[simp] theorem hostRetry_kept (s) : kept (hostRetry s) = kept s := by simp [hostRetry]

@[simp] theorem hostDone_kept (s q cid status r0 r1) : kept (hostDone s q cid status r0 r1) = kept s := by simp [hostDone]

@[simp] theorem hostDoneAll_kept (s op status r0 r1) : kept (hostDoneAll s op status r0 r1) = kept s := by simp [hostDoneAll]

@[simp] theorem wardTime_kept (s) : kept (wardTime s) = kept s := by simp [wardTime]

@[simp] theorem wardStart_kept (s) : kept (wardStart s) = kept s := by simp [wardStart]

@[simp] theorem roundPut_kept (s d a bs) : kept (roundPut s d a bs) = kept s := by simp [roundPut]

@[simp] theorem pushCopies_kept (s mgmt ds) : kept (pushCopies s mgmt ds) = kept s := by simp [pushCopies]

@[simp] theorem genSend_kept (s lead gen a) : kept (genSend s lead gen a) = kept s := by simp [genSend]

@[simp] theorem imbalance_kept (s) : kept (imbalance s) = kept s := by simp [imbalance]

@[simp] theorem stepLoss_kept (s step) : kept (stepLoss s step) = kept s := by
  simp only [stepLoss]
  repeat' split
  all_goals simp

@[simp] theorem roundOpen_kept (s p) : kept (roundOpen s p) = kept s := by simp [roundOpen]

@[simp] theorem secureAt_kept (s) : kept (secureAt s) = kept s := by unfold secureAt; split <;> simp

@[simp] theorem snapAt_kept (s) : kept (snapAt s) = kept s := by simp [snapAt]

@[simp] theorem stepCommit_kept (s) : kept (stepCommit s) = kept s := by simp [stepCommit]

@[simp] theorem relayOwn_kept (s kind body) : kept (relayOwn s kind body) = kept s := by simp [relayOwn]

/-! ### What the functions of `JobRun` keep -/

@[simp] theorem writeHeader_kept (s h) : kept (writeHeader s h) = kept s := by simp [writeHeader]

@[simp] theorem streamInit_kept (s) : kept (streamInit s) = kept s := by simp [streamInit]

@[simp] theorem seqStart_kept (s) : kept (seqStart s) = kept s := by simp [seqStart]

@[simp] theorem haltAsk_kept (s) : kept (haltAsk s) = kept s := by simp [haltAsk]

@[simp] theorem haltLate_kept (s core) : kept (haltLate s core) = kept s := by simp [haltLate]

@[simp] theorem seqResumes_kept (s) : kept (seqResumes s) = kept s := by simp [seqResumes]

@[simp] theorem toLead_kept {here} (h : ∀ t, kept (here t) = kept t) (s kind body) :
    kept (toLead s kind body here) = kept s := by
  unfold toLead
  split <;> simp [h]

@[simp] theorem relayFrom_kept (s origin kind body) : kept (relayFrom s origin kind body) = kept s := by simp [relayFrom]

@[simp] theorem goHere_kept (s) : kept (goHere s) = kept s := by unfold goHere; split <;> simp

@[simp] theorem abortHere_kept (s) : kept (abortHere s) = kept s := by simp [abortHere]

@[simp] theorem permitHere_kept {answer} (h : ∀ t a, kept (answer t a) = kept t) (s p) :
    kept (permitHere s p answer) = kept s := by
  simp [permitHere, h]

@[simp] theorem permitSend_kept (s p) : kept (permitSend s p) = kept s := by simp [permitSend]

@[simp] theorem leadGo_kept (s) : kept (leadGo s) = kept s := by simp [leadGo]

@[simp] theorem readyTake_kept (s src) : kept (readyTake s src) = kept s := by simp [readyTake]

@[simp] theorem windowEnds_kept (s) : kept (windowEnds s) = kept s := by simp [windowEnds]

@[simp] theorem rewriteJob_kept (s) : kept (rewriteJob s) = kept s := by simp [rewriteJob]

@[simp] theorem restoredTake_kept (s src) : kept (restoredTake s src) = kept s := by simp [restoredTake]

@[simp] theorem restoreHere_kept (s) : kept (restoreHere s) = kept s := by
  unfold restoreHere
  split
  · rfl
  · rw [toLead_kept (fun t => restoredTake_kept t _)]
    simp

/-! ### What the functions of `FailRun` keep -/

@[simp] theorem beatSend_kept (s) : kept (beatSend s) = kept s := by
  unfold beatSend
  repeat' split
  all_goals simp

@[simp] theorem beatTake_kept (s src) : kept (beatTake s src) = kept s := by simp [beatTake]

@[simp] theorem planHere_kept (s p) : kept (planHere s p) = kept s := by
  simp only [planHere]
  repeat' split
  all_goals simp

@[simp] theorem planTake_kept (s src body p) : kept (planTake s src body p) = kept s := by simp [planTake]

@[simp] theorem planCheck_kept (s) : kept (planCheck s) = kept s := by
  unfold planCheck
  repeat' split
  all_goals simp

@[simp] theorem reportTake_kept (s src view counter) : kept (reportTake s src view counter) = kept s := by simp [reportTake]

@[simp] theorem genLearn_kept (s) : kept (genLearn s) = kept s := by unfold genLearn; split <;> simp

@[simp] theorem noticeAgain_kept (s) : kept (noticeAgain s) = kept s := by simp [noticeAgain]

@[simp] theorem restoreEnds_kept (s) : kept (restoreEnds s) = kept s := by unfold restoreEnds; split <;> simp

@[simp] theorem roundNext_kept {f} (h : ∀ t p, kept (f t p) = kept t) (s at_) : kept (roundNext s at_ f) = kept s := by
  unfold roundNext
  split <;> simp [h]

@[simp] theorem roundCopy_kept (s) : kept (roundCopy s) = kept s := by simp [roundCopy]

@[simp] theorem roundClose_kept (s) : kept (roundClose s) = kept s := by simp [roundClose]

@[simp] theorem genCheck_kept (s) : kept (genCheck s) = kept s := by unfold genCheck; split <;> simp

@[simp] theorem genTake_kept (s gen a) : kept (genTake s gen a) = kept s := by unfold genTake; split <;> simp

@[simp] theorem answerSend_kept (s gen a) : kept (answerSend s gen a) = kept s := by
  simp only [answerSend]
  repeat' split
  all_goals simp

@[simp] theorem roundEnd_kept (s) : kept (roundEnd s) = kept s := by simp [roundEnd]

@[simp] theorem permitTake_kept (s p) : kept (permitTake s p) = kept s := by simp [permitTake]

/-! ### What the functions of `TimeRun` keep -/

@[simp] theorem syncTo_kept (s st) : kept (syncTo s st) = kept s := by simp [syncTo]

@[simp] theorem parentUpdate_durable (s) : (kept (parentUpdate s)).durable = (kept s).durable := by simp [parentUpdate]

@[simp] theorem laterRecord_durable (s source code payload) : (kept (laterRecord s source code payload)).durable = (kept s).durable := by simp [laterRecord]

@[simp] theorem timeEvent_durable (s code) : (kept (timeEvent s code)).durable = (kept s).durable := by simp [timeEvent]

@[simp] theorem holdoverEnds_durable (s) : (kept (holdoverEnds s)).durable = (kept s).durable := by simp [holdoverEnds]

@[simp] theorem readyCheck_kept (s) : kept (readyCheck s) = kept s := by simp [readyCheck]

@[simp] theorem lockReached_kept (s) : kept (lockReached s) = kept s := by simp [lockReached]

@[simp] theorem timeStep_durable (s d) : (kept (timeStep s d)).durable = (kept s).durable := by simp [timeStep]

@[simp] theorem syncAsk_kept (s) : kept (syncAsk s) = kept s := by simp [syncAsk]

@[simp] theorem syncAnswer_kept (s via child t1 t2) : kept (syncAnswer s via child t1 t2) = kept s := by simp [syncAnswer]

@[simp] theorem syncTake_durable (s link t1 t2 t3 t4) : (kept (syncTake s link t1 t2 t3 t4)).durable = (kept s).durable := by simp [syncTake]

@[simp] theorem rootSet_durable (s) : (kept (rootSet s)).durable = (kept s).durable := by simp [rootSet]

@[simp] theorem rootTrim_kept (s) : kept (rootTrim s) = kept s := by simp [rootTrim]

@[simp] theorem ppsStamp_kept (s) : kept (ppsStamp s) = kept s := by simp [ppsStamp]

@[simp] theorem ppsEdge_durable (s) : (kept (ppsEdge s)).durable = (kept s).durable := by simp [ppsEdge]

@[simp] theorem ppsLost_durable (s) : (kept (ppsLost s)).durable = (kept s).durable := by simp [ppsLost]

@[simp] theorem timSnap_kept (s) : kept (timSnap s) = kept s := by simp [timSnap]

/-! ### What the functions of `PktRun` keep -/

@[simp] theorem sendRsp_kept (s0 p) : kept (sendRsp s0 p) = kept s0 := by simp [sendRsp]

@[simp] theorem serveAsk_kept (s r) : kept (serveAsk s r) = kept s := by unfold serveAsk; split <;> simp

@[simp] theorem serveReads_kept (s) : kept (serveReads s) = kept s := by simp [serveReads]

@[simp] theorem nackDue_kept (s dst ctx) : kept (nackDue s dst ctx) = kept s := by
  simp only [nackDue]
  repeat' split
  all_goals simp

/-! ### What the functions of `LinkRun` keep -/

@[simp] theorem linkSend_kept (s k) : kept (linkSend s k) = kept s := by
  simp only [linkSend]
  repeat' split
  all_goals simp

@[simp] theorem linkAck_kept (s k n) : kept (linkAck s k n) = kept s := by simp [linkAck]

@[simp] theorem retrain_durable (s k) : (kept (retrain s k)).durable = (kept s).durable := by simp [retrain]

@[simp] theorem linkNak_durable (s k n) : (kept (linkNak s k n)).durable = (kept s).durable := by simp [linkNak]

@[simp] theorem linkCredit_kept (s k raw) : kept (linkCredit s k raw) = kept s := by simp [linkCredit]

@[simp] theorem linkAckWord_durable (s k raw) : (kept (linkAckWord s k raw)).durable = (kept s).durable := by simp [linkAckWord]

@[simp] theorem uncorrTake_durable (s k) : (kept (uncorrTake s k)).durable = (kept s).durable := by simp [uncorrTake]

@[simp] theorem fecCount_durable (s k fec) : (kept (fecCount s k fec)).durable = (kept s).durable := by unfold fecCount; split <;> simp

@[simp] theorem nakDue_kept (s k) : kept (nakDue s k) = kept s := by simp [nakDue]

@[simp] theorem linkIdle_durable (s k raw) : (kept (linkIdle s k raw)).durable = (kept s).durable := by simp [linkIdle]

@[simp] theorem linkIdleFlit_durable (s k fec raw) : (kept (linkIdleFlit s k fec raw)).durable = (kept s).durable := by simp [linkIdleFlit]

@[simp] theorem reinject_kept (a s) : kept (reinject a s) = kept s := by
  induction a generalizing s with
  | nil => rfl
  | cons x l ih => simp [reinject, ih]

@[simp] theorem linkFail_durable (s k cls code) : (kept (linkFail s k cls code)).durable = (kept s).durable := by simp [linkFail]

@[simp] theorem trainEnd_durable (s k ok) : (kept (trainEnd s k ok)).durable = (kept s).durable := by simp [trainEnd]

@[simp] theorem helloTake_durable (s k dev index fpl sfl mll feed) :
    (kept (helloTake s k dev index fpl sfl mll feed)).durable = (kept s).durable := by simp [helloTake]

@[simp] theorem laneSick_durable (s k lane) : (kept (laneSick s k lane)).durable = (kept s).durable := by unfold laneSick; split <;> simp

@[simp] theorem retrainEnds_durable (s k) : (kept (retrainEnds s k)).durable = (kept s).durable := by simp [retrainEnds]

@[simp] theorem retrainLate_durable (s k) : (kept (retrainLate s k)).durable = (kept s).durable := by simp [retrainLate]

/-! ### What the functions of `WipeRun` keep -/

@[simp] theorem sanitEnds_durable (s k ok) : (kept (sanitEnds s k ok)).durable = (kept s).durable := by unfold sanitEnds; split <;> simp

/-! ### What the functions of `CfgRun` keep -/

@[simp] theorem feedOne_kept (s d tag strict pos) : kept (feedOne s d tag strict pos) = kept s := by
  simp only [feedOne]
  repeat' split
  all_goals simp

@[simp] theorem feedCheck_durable (s) : (kept (feedCheck s)).durable = (kept s).durable := by
  simp only [feedCheck]
  repeat' split
  all_goals simp

/-! ### What the functions of `BootRun` keep -/

@[simp] theorem cxlLate_durable (s k) : (kept (cxlLate s k)).durable = (kept s).durable := by simp [cxlLate]

@[simp] theorem wdogKick_durable (s) : (kept (wdogKick s)).durable = (kept s).durable := by simp [wdogKick]

/-! ### What the functions of `HostRun` keep -/

@[simp] theorem setQ_kept (s n q) : kept (setQ s n q) = kept s := by simp [setQ]

@[simp] theorem queueErr_kept (s n reason) : kept (queueErr s n reason) = kept s := by simp [queueErr]

@[simp] theorem sqTail_kept (s n tail readError) : kept (sqTail s n tail readError) = kept s := by simp [sqTail]

@[simp] theorem cqHead_kept (s n head) : kept (cqHead s n head) = kept s := by simp [cqHead]

@[simp] theorem queueOff_kept (s n) : kept (queueOff s n) = kept s := by simp [queueOff]

@[simp] theorem qcfg_kept (s n b a en) : kept (qcfg s n b a en) = kept s := by simp [qcfg]

theorem hostTake_kept {s n op cid t} (h : hostTake s n op cid = some t) : kept t = kept s := by
  simp only [hostTake] at h
  split at h
  · cases h
  · simp [← Option.some.inj h]

@[simp] theorem hostRun_kept {f} (hf : ∀ t, kept (f t) = kept t) (s n op cid ps inState form full) :
    kept (hostRun s n op cid ps inState form full f) = kept s := by
  unfold hostRun
  split
  · rfl
  · next htake => simp [hf, hostTake_kept htake]

@[simp] theorem startCmd_kept (s n cid) : kept (startCmd s n cid) = kept s := by simp [startCmd]

@[simp] theorem resumeCmd_kept (s n cid) : kept (resumeCmd s n cid) = kept s := by simp [resumeCmd]

@[simp] theorem snapshotCmd_kept (s n cid t k) : kept (snapshotCmd s n cid t k) = kept s := by simp [snapshotCmd]

@[simp] theorem ledgerReadCmd_kept (s n cid seq epoch count buf hf) :
    kept (ledgerReadCmd s n cid seq epoch count buf hf) = kept s := by simp [ledgerReadCmd]

@[simp] theorem ledgerFreezeCmd_kept (s n cid ms unfreeze) :
    kept (ledgerFreezeCmd s n cid ms unfreeze) = kept s := by simp [ledgerFreezeCmd]

@[simp] theorem hostAnswer_kept (s n cid code r) : kept (hostAnswer s n cid code r) = kept s := by unfold hostAnswer; split <;> simp

@[simp] theorem ledgerClearCmd_kept (s n cid addr sigOk hf) :
    kept (ledgerClearCmd s n cid addr sigOk hf) = kept s := by simp [ledgerClearCmd]

@[simp] theorem attestCmd_kept (s n cid nonce buf hf) : kept (attestCmd s n cid nonce buf hf) = kept s := by simp [attestCmd]

@[simp] theorem hostWindowFails_kept (s) : kept (hostWindowFails s) = kept s := by simp [hostWindowFails]

@[simp] theorem hostDown_kept (s cause) : kept (hostDown s cause) = kept s := by simp [hostDown]

/-! ### What the functions of `PowerRun` keep -/

@[simp] theorem thermHigh_durable (s tj) : (kept (thermHigh s tj)).durable = (kept s).durable := by simp [thermHigh]

@[simp] theorem paceNote_durable (s old new p1ms) : (kept (paceNote s old new p1ms)).durable = (kept s).durable := by simp [paceNote]

@[simp] theorem powerTick_durable (s p10 p1ms mw tj volts rate) :
    (kept (powerTick s p10 p1ms mw tj volts rate)).durable = (kept s).durable := by simp [powerTick]

@[simp] theorem energyAdd_kept (s uj) : kept (energyAdd s uj) = kept s := by simp [energyAdd]

@[simp] theorem overtemp_durable (s degrees) : (kept (overtemp s degrees)).durable = (kept s).durable := by simp [overtemp]

@[simp] theorem railOff_kept (s) : kept (railOff s) = kept s := by simp [railOff]

/-! ### What the functions of `DebugRun` keep -/

@[simp] theorem tapOn_kept {s t} (h : kept t = kept s) : kept (tapOn s t) = kept s := by
  unfold tapOn
  split <;> simp [h]

@[simp] theorem tapIr_kept (s ir) : kept (tapIr s ir) = kept s := by simp [tapIr]

@[simp] theorem dapResult_kept (s status code data) : kept (dapResult s status code data) = kept s := by simp [dapResult]

@[simp] theorem dapRefuse_kept (s a reason) : kept (dapRefuse s a reason) = kept s := by simp [dapRefuse]

@[simp] theorem dapSession_kept (s) : kept (dapSession s) = kept s := by simp [dapSession]

@[simp] theorem dapTry_kept {f} (h : ∀ t, kept (f t) = kept t) (s a write) : kept (dapTry s a write f) = kept s := by
  simp [dapTry, h]

@[simp] theorem dbgHaltAsk_kept (s core) : kept (dbgHaltAsk s core) = kept s := by simp [dbgHaltAsk]

@[simp] theorem dbgResume_kept (s core) : kept (dbgResume s core) = kept s := by simp [dbgResume]

@[simp] theorem dbgStepAsk_kept (s core) : kept (dbgStepAsk s core) = kept s := by simp [dbgStepAsk]

@[simp] theorem dbgChipHalt_kept (s) : kept (dbgChipHalt s) = kept s := by simp [dbgChipHalt]

@[simp] theorem dbgChipResume_kept (s) : kept (dbgChipResume s) = kept s := by simp [dbgChipResume]

@[simp] theorem mres_kept (s status code) : kept (mres s status code) = kept s := by simp [mres]

@[simp] theorem mboxClear_kept (s len sigOk) : kept (mboxClear s len sigOk) = kept s := by
  have htry := clearTry_kept s (mboxBytes s len) sigOk
  unfold mboxClear
  split
  · simp
  · split
    · simp
    · split <;> simp_all

@[simp] theorem readMeets_kept (s a) : kept (readMeets s a) = kept s := by unfold readMeets; split <;> simp

@[simp] theorem readAt_kept (s0 a) : kept (readAt s0 a) = kept s0 := by
  simp only [readAt]
  repeat' split
  all_goals simp

@[simp] theorem dapReads_kept (s a) : kept (dapReads s a) = kept s := by simp [dapReads]

@[simp] theorem dapActs_kept {f} (h : ∀ t, kept (f t) = kept t) (s a) : kept (dapActs s a f) = kept s := by simp [dapActs, h]

/-! ### Commands -/

/-- A command's result keeps the memories, flash, configuration and fuses of the state it starts from. -/
def OutKeeps (s : State) (o : Out) : Prop := ∀ t, o = .next t → (kept t).durable = (kept s).durable

theorem outKeeps_next {s t} (h : (kept t).durable = (kept s).durable) : OutKeeps s (.next t) := fun _ e => Host.Outcome.next.inj e ▸ h

theorem outKeeps_refused (s r) : OutKeeps s (.refused r) := fun _ e => nomatch e

theorem outKeeps_onCore {s core t} (h : (kept t).durable = (kept s).durable) : OutKeeps s (onCore s core t) := by
  unfold onCore
  split
  · exact outKeeps_next h
  · exact outKeeps_refused s _

theorem outKeeps_onLink {s link t} (h : (kept t).durable = (kept s).durable) : OutKeeps s (onLink link t) := by
  unfold onLink
  split
  · exact outKeeps_next h
  · exact outKeeps_refused s _

theorem exec_outKeeps {i : Instr} (hi : leavesMemory i = true) (s : State) : OutKeeps s (exec i s) := by
  cases i with
  | bundleIssue | mld | mswap | mmul | mmulz | mdrain | mtopk | passStart | chainCommit | operationCommit | vop | vcvt | vred | vscale | vrq | vfn |
  vsrKey | vsrDraw | vadam | tcfg | tld | tst | tmov | tzero | txp | xloc | xstr | xcol | xwatchArm | xwatchRelease | xfence | sinc |
  swait | sdec | ssig | sbar | cloop | cbr | cadd | cset | cmark | chalt | haltTimeout => exact outKeeps_onCore (by simp)
  | trainingAttemptEnd | hello | laneUnhealthy | retrainLock | retrainTimeout | flitSend | idleFlit | nak | syncReq | syncRsp
  | neighbourRetrain => exact outKeeps_onLink (by simp)
  | bundleFetch | bundleMulticast | cvar | trainingStepCommit | seqTablePoll | seqRun | seqHalt | seqResume | barrierRelease | blockedReport
  | withdraw | jobDeadlockMessage | mcRequest | gddr7Scrub | cxlPortDown | sanitizeComplete | sanitizeTimeout | nackResend | syncExchangeTimer
  | holdoverExpiry | ppsEdge | ppsTimeout | collectiveRelease | ceRetryGo | snapRequest | heartbeatSend | heartbeat | report | reportResendTimeout
  | plan | restoreComplete | permit | securingCopiesComplete | securingCloseComplete | genDone | ledgerClearComplete | accountingWindowBoundary
  | ldgFreeze | unfreeze | freezeExpiry | ledgerQuery | ledgerAnswer | bootWdogKick | hostSqTail | hostCqHead | hostQcfg | start | resume | snapshot
  | ledgerRead | ledgerFreeze | ledgerClear | attest | ready | go | abort | startWindowExpiry | resumeMsg | restored | pcieLinkDown | powerLoopTick
  | energyAdd | overtempSense | railOutOfRange | timSnap | tapReset | extest | idcode | samplePreload | dap | dstat | bypass | dapRead | dapNop
  | dbgCoreHalt | dbgCoreResume | dbgCoreStep | dbgChalt | dbgCresume | mboxLedgerClear | securingOpenComplete => exact outKeeps_next (by simp)
  | hostPerstN | pcieLinkUp => exact outKeeps_next (by split <;> simp)
  | _ => exact absurd hi Bool.false_ne_true

/-! ### The commands that keep the memories on a condition -/

/-- The abort of a copy that does not go through the L1 poisons lines of the controllers and rows of the core, and stores no byte (R296). -/
theorem lcuAbort_kept {s core} (h : ∀ q, failedCopy (getCore s core) = some q → dL1 q.desc = false) : kept (lcuAbort s core) = kept s := by
  unfold lcuAbort
  split
  · rfl
  · next q hq =>
    simp only [h q hq]
    repeat' split
    all_goals simp_all

/-- A job whose hold time is not 0 keeps the memories when it is done: their wipe waits for the hold time (R526). -/
theorem jobEnds_kept {s} (h : s.job.hold ≠ 0) : kept (jobEnds s) = kept s := by
  simp only [jobEnds]
  split
  · rfl
  · simp [holdZero, h]

/-- Nothing goes on where start-up waits for nothing. -/
theorem bootOn_of_none {s} (h : s.sec.boot = none) : bootOn s = s := by
  simp only [bootOn, h]

theorem cxlLate_boot (s k) : (cxlLate s k).sec.boot = s.sec.boot := by
  unfold cxlLate
  split <;> simp

/-- The check of the feeds records events and marks itself as done. -/
theorem feedCheck_kept (s) : kept (feedCheck s) = kept s ∨ kept (feedCheck s) = kept { s with sec := { s.sec with feedDone := true } } := by
  simp only [feedCheck]
  split
  · exact .inl rfl
  · refine .inr ?_
    split <;> simp

theorem feedCheck_boot (s) : (feedCheck s).sec.boot = s.sec.boot := by
  rcases feedCheck_kept s with h | h <;> exact congrArg (·.sec.boot) h

/-- The commands that the frame's first part speaks of: those that `leavesMemory` names, and four others on a condition. -/
def MemoryLeft (s : State) (i : Instr) : Prop :=
  leavesMemory i = true ∨ (i = .jobDone ∧ s.job.hold ≠ 0) ∨ ((i = .feedTagCheck ∨ ∃ port, i = .cxlTrainTimeout port) ∧ s.sec.boot = none) ∨
    ∃ core, i = .lcuRetryAbort core ∧ ∀ q, failedCopy (getCore s core) = some q → dL1 q.desc = false

theorem memoryLeft_outKeeps {s i} (h : MemoryLeft s i) : OutKeeps s (exec i s) := by
  rcases h with h | ⟨rfl, h⟩ | ⟨rfl | ⟨port, rfl⟩, h⟩ | ⟨core, rfl, h⟩
  · exact exec_outKeeps h s
  · exact outKeeps_next (by rw [jobEnds_kept h])
  · exact outKeeps_next (by rw [bootOn_of_none ((feedCheck_boot s).trans h), feedCheck_durable])
  · exact outKeeps_next (by rw [bootOn_of_none ((cxlLate_boot s _).trans h), cxlLate_durable])
  · exact outKeeps_onCore (by rw [lcuAbort_kept h])

/-! ### Slot commands -/

/-- A slot command keeps time base, power controller, pins and life cycle too. -/
theorem slotCommand_kept {s t : State} {i : Instr} {core : Nat} {sl : Slots} (hi : slotsOf i = some (core, sl)) (h : exec i s = .next t) :
    kept t = kept s := by
  rw [exec_of_slotsOf hi, onCore] at h
  split at h
  · rw [← Host.Outcome.next.inj h, soloSlot_kept]
  · cases h

/-! ### What a core's operations leave alone while the job runs -/

/-- The engines, and the memory system but for the host's bytes and the watches on them. -/
def engMem (s : State) : SMap Engine × MemSt := (s.ce, { s.mem with host := [], watch := [] })

/-- What one core's operations leave alone: whether the stream runs, the engines with the memory system, the other cores, the job, the g counters. -/
@[ext] structure Aside where
  running : Prop
  engMem : SMap Engine × MemSt
  others : Nat → Core
  job : Job
  g : SMap Word16

def aside (core : Nat) (s : State) : Aside :=
  ⟨s.seq.st = .running, engMem s, fun j => if j = core then Core.init else getCore s j, s.job, s.sync.g⟩

/-- The engines and the memory system stay in any case, the rest while the stream runs; a stream that runs ran before. -/
def Aside.Stays (a b : Aside) : Prop := b.engMem = a.engMem ∧ (b.running → b = a)

@[simp] theorem Aside.stays_refl (a : Aside) : a.Stays a := ⟨rfl, fun _ => rfl⟩

theorem Aside.Stays.trans {a b c : Aside} (h : a.Stays b) (h' : b.Stays c) : a.Stays c := by
  obtain ⟨hm, hr⟩ := h
  obtain ⟨hm', hr'⟩ := h'
  refine ⟨hm'.trans hm, fun hc => ?_⟩
  have hb := hr' hc
  rw [hb] at hc ⊢
  exact hr hc

@[simp] theorem aside_ite (core) (c : Prop) [Decidable c] (s t : State) :
    aside core (if c then s else t) = if c then aside core s else aside core t := apply_ite _ _ _ _

/-! Records and messages move the host's bytes only. -/

theorem engMem_eq_of_recSame {s t : State} (h : RecSame s t) : engMem t = engMem s := by
  obtain ⟨_, _, _, _, _, rfl, -⟩ := h
  rfl

theorem aside_eq_of_recSame {s t : State} (h : RecSame s t) (core) : aside core t = aside core s := by
  obtain ⟨_, _, _, _, _, rfl, -⟩ := h
  rfl

theorem engMem_eq_of_msgSame {s t : State} (h : MsgSame s t) : engMem t = engMem s := by
  obtain ⟨_, _, _, _, _, _, _, rfl, -⟩ := h
  rfl

theorem aside_eq_of_msgSame {s t : State} (h : MsgSame s t) (core) : aside core t = aside core s := by
  obtain ⟨_, _, _, _, _, _, _, rfl, -⟩ := h
  rfl

@[simp] theorem record_aside (core s cls src code p) : aside core (record s cls src code p) = aside core s := aside_eq_of_recSame (record_same ..) core

@[simp] theorem rangeEvent_aside (core s first n kind topk) : aside core (rangeEvent s core first n kind topk) = aside core s :=
  aside_eq_of_recSame (rangeEvent_same ..) core

@[simp] theorem detLeave_aside (core s) : aside core (detLeave s) = aside core s := by
  obtain ⟨d, r, h⟩ := detLeave_same s
  exact aside_eq_of_msgSame h core

@[simp] theorem detStir_aside (core s) : aside core (detStir s) = aside core s := detLeave_aside ..

@[simp] theorem detBreak_aside (core s) : aside core (detBreak s) = aside core s := by
  unfold detBreak
  split <;> rfl

/-! The core itself, registers and free values are none of it. -/

@[simp] theorem setCore_aside (core s c) : aside core (setCore s core c) = aside core s := by
  have hothers : (fun j => if j = core then Core.init else getCore (setCore s core c) j) = fun j => if j = core then Core.init else getCore s j := by
    funext j
    split
    · rfl
    · next hj => exact getCore_setCore_ne s core j c hj
  exact Aside.ext rfl rfl hothers rfl rfl

@[simp] theorem modCore_aside (core s f) : aside core (modCore s core f) = aside core s := setCore_aside ..

@[simp] theorem setReg_aside (core s a v) : aside core (setReg s a v) = aside core s := rfl

@[simp] theorem bump_aside (core s a n) : aside core (bump s a n) = aside core s := by unfold bump; split <;> simp

@[simp] theorem bump64_aside (core s a rem n) : aside core (bump64 s a rem n).1 = aside core s := bump_aside ..

@[simp] theorem draw_aside (core s) : aside core (draw s).2 = aside core s := rfl

@[simp] theorem trimLog_aside (core s) : aside core (trimLog s) = aside core s := rfl

@[simp] theorem dbgHaltCore_aside (core s cause k agent off) : aside core (dbgHaltCore s core cause k agent off) = aside core s := by
  simp only [dbgHaltCore]
  split <;> simp

@[simp] theorem wpGo_aside (core off n agent write f k s) : aside core (wpGo core off n agent write f k s) = aside core s := by
  fun_induction wpGo core off n agent write f k s <;> simp_all

@[simp] theorem bufTouch_aside (core s off n write agent) : aside core (bufTouch s core off n write agent) = aside core s := by
  unfold bufTouch
  split <;> simp

@[simp] theorem touchAll_aside (core l s) : aside core (touchAll core l s) = aside core s := by
  fun_induction touchAll core l s <;> simp_all

@[simp] theorem combReads_aside (core s port rows) : aside core (combReads s core port rows) = aside core s := by simp [combReads]

@[simp] theorem vReads_aside (core s o op v) : aside core (vReads s core o op v) = aside core s := by
  unfold vReads
  split
  · rfl
  · simp

@[simp] theorem doMld_aside (core s o t turn) : aside core (doMld s core o t turn) = aside core s := by simp [doMld]

@[simp] theorem doMswap_aside (core s) : aside core (doMswap s core) = aside core s := modCore_aside ..

@[simp] theorem keyCount_aside (core s e) : aside core (keyCount s core e) = aside core s := by
  unfold keyCount
  split <;> simp

/-! A fault stops the stream, and leaves the engines and the memory system. -/

@[simp] theorem record_engMem (s cls src code p) : engMem (record s cls src code p) = engMem s := engMem_eq_of_recSame (record_same ..)

@[simp] theorem detLeave_engMem (s) : engMem (detLeave s) = engMem s := by
  obtain ⟨d, r, h⟩ := detLeave_same s
  exact (engMem_eq_of_msgSame h).trans rfl

@[simp] theorem modCore_engMem (s core f) : engMem (modCore s core f) = engMem s := rfl

@[simp] theorem seqFault_engMem (s core idx code) : engMem (seqFault s core idx code) = engMem s := by
  unfold seqFault
  split <;> rfl

@[simp] theorem noticeSend_engMem (s gone cause code) : engMem (noticeSend s gone cause code) = engMem s := by
  obtain ⟨r, h⟩ := noticeSend_same s gone cause code
  exact (engMem_eq_of_msgSame h).trans rfl

@[simp] theorem fatalMark_engMem (s core idx code) : engMem (fatalMark s core idx code) = engMem s :=
  (noticeSend_engMem ..).trans (seqFault_engMem ..)

@[simp] theorem coreStops_engMem (s core) : engMem (coreStops s core) = engMem s := by
  unfold coreStops
  split <;> rfl

@[simp] theorem jobFatalKeep_engMem (keep s core idx code src p) : engMem (jobFatalKeep keep s core idx code src p) = engMem s := by
  simp only [jobFatalKeep]
  split
  case h_1 =>
    have hstop : engMem (if core = noCore then record s kJobFatal src code p
        else modCore (record s kJobFatal src code p) core fun c => { c with st := .faulted }) = engMem s := by
      split <;> simp
    rw [fatalMark_engMem]
    split
    · exact hstop
    · rw [detLeave_engMem]
      exact hstop
  case h_4 | h_5 => split <;> simp
  all_goals simp

theorem jobFatalKeep_stops (keep s core idx code src p) : (jobFatalKeep keep s core idx code src p).seq.st ≠ .running := by
  by_cases h : s.seq.st = .running
  · simp [(jobFatalKeep_running h keep core idx code src p).1]
  · simp only [jobFatalKeep]
    split
    case h_1 hr => exact absurd (record_seq s kJobFatal src code p ▸ hr) h
    case h_4 | h_5 => split <;> simp [h]
    all_goals simp [h]

/-! An operation that faults stops the stream; the rest of it is the core's own. -/

section
variable {a : Aside} {core : Nat} {s : State}

theorem stays_ite {t : State} {c : Prop} [Decidable c] (h : a.Stays (aside core s)) (h' : a.Stays (aside core t)) :
    a.Stays (aside core (if c then s else t)) := by
  split
  · exact h
  · exact h'

theorem jobFatal_stays (h : a.Stays (aside core s)) (k idx code src p) : a.Stays (aside core (jobFatal s k idx code src p)) :=
  h.trans ⟨jobFatalKeep_engMem .., fun hr => (jobFatalKeep_stops _ _ _ _ _ _ _ hr).elim⟩

theorem poisonConsumed_stays (h : a.Stays (aside core s)) (k idx src addr consumer) : a.Stays (aside core (poisonConsumed s k idx src addr consumer)) :=
  jobFatal_stays h ..

theorem addS_stays (h : a.Stays (aside core s)) (i n) : a.Stays (aside core (addS s core i n)) := by
  simp only [addS]
  split
  · exact h
  · split
    · exact jobFatal_stays (by simpa using h) ..
    · simpa using h

theorem doneAdvance_stays (h : a.Stays (aside core s)) (done) : a.Stays (aside core (doneAdvance s core done)) := by
  unfold doneAdvance
  split
  · exact addS_stays h ..
  · exact h

theorem finishOp_stays (h : a.Stays (aside core s)) (o) : a.Stays (aside core (finishOp s core o)) :=
  doneAdvance_stays (by simpa using h) _

theorem doMdrain_stays (h : a.Stays (aside core s)) (o first n t mode rnd kind) :
    a.Stays (aside core (doMdrain s core o first n t mode rnd kind)) := by
  simp only [doMdrain]
  split
  · exact poisonConsumed_stays h ..
  · split
    · exact poisonConsumed_stays h ..
    · exact stays_ite (jobFatal_stays (by simpa using h) ..) (finishOp_stays (by simpa using h) o)

theorem doMtopk_stays (h : a.Stays (aside core s)) (o first n vt pt k base kind) :
    a.Stays (aside core (doMtopk s core o first n vt pt k base kind)) := by
  simp only [doMtopk]
  split
  · exact poisonConsumed_stays h ..
  · exact finishOp_stays (by simpa using h) o

theorem doVadam_stays (h : a.Stays (aside core s)) (o v) : a.Stays (aside core (doVadam s core o v)) := by
  simp only [doVadam]
  split
  · exact poisonConsumed_stays h ..
  · exact stays_ite (jobFatal_stays (by simpa using h) ..) (finishOp_stays (by simpa using h) o)

theorem doV_stays (h : a.Stays (aside core s)) (o op v) : a.Stays (aside core (doV s core o op v)) := by
  unfold doV
  split
  · exact doVadam_stays h o v
  · exact stays_ite (jobFatal_stays (by simpa using h) ..) (finishOp_stays (by simpa using h) o)

theorem doTld_stays (h : a.Stays (aside core s)) (o t pitch) : a.Stays (aside core (doTld s core o t pitch)) := by
  simp only [doTld]
  split
  · exact poisonConsumed_stays h ..
  · exact finishOp_stays (by simpa using h) o

/-- An operation other than an MMUL that completes (R40): its unit's work on the core, then its done field. -/
theorem completeOp_stays (h : a.Stays (aside core s)) (hu : s.mem.upsets = []) (o) : a.Stays (aside core (completeOp s core o)) := by
  unfold completeOp
  rw [meet_nil _ _ _ hu]
  split
  · exact h
  · exact finishOp_stays (by simpa using h) o
  · exact finishOp_stays (by simpa using h) o
  · exact h
  · exact doMdrain_stays h ..
  · exact doMtopk_stays h ..
  · exact doV_stays h ..
  · exact h
  · exact h
  · exact doTld_stays h ..
  · exact finishOp_stays (by simpa using h) o
  · exact finishOp_stays (by simpa using h) o
  · exact finishOp_stays (by simpa using h) o
  · exact finishOp_stays (by simpa using h) o

theorem finishDone_stays (h : a.Stays (aside core s)) (os) : a.Stays (aside core (finishDone core os s)) := by
  induction os generalizing s with
  | nil => exact h
  | cons o os ih => exact ih (doneAdvance_stays h _)

theorem commitChain_stays (h : a.Stays (aside core s)) (k) : a.Stays (aside core (commitChain s core k)) := by
  simp only [commitChain]
  split
  · exact h
  · split
    · exact finishDone_stays (by simpa using h) _
    · exact h

/-- The event of a clean pass meets no bad word. -/
theorem arrayEvent_clean {s : State} (hu : s.mem.upsets = []) {o : FOp} (ho : o.outcome = .clean) (core shadow first reads) :
    arrayEvent s core shadow o first reads = s := by
  simp only [arrayEvent, ho, meet_nil _ _ _ hu]

/-- A pass over sound words: its rows, beats and touches, or a fault of poison. -/
theorem runPass_stays (h : a.Stays (aside core s)) (hu : s.mem.upsets = []) (o) : a.Stays (aside core (runPass s core o .clean)) := by
  unfold runPass
  extract_lets c sh st ra sa chainFirst o1
  split
  · split
    · exact h
    · extract_lets nr ns prior s0 s1 c1
      have hs0 : s0.mem.upsets = [] := by
        unfold s0
        split <;> exact hu
      have hs1 : a.Stays (aside core s1) := by
        unfold s1
        rw [arrayEvent_clean hs0 rfl]
        exact stays_ite (by simpa using h) h
      refine stays_ite (poisonConsumed_stays h ..) ?_
      generalize Option.orElse _ _ = bad
      cases bad with
      | some u => exact poisonConsumed_stays hs1 ..
      | none =>
        generalize List.findSome? _ _ = worse
        cases worse with
        | some j => exact poisonConsumed_stays hs1 ..
        | none => simpa using hs1
  · exact h

theorem settleUnit_stays (h : a.Stays (aside core s)) (ha : a.engMem.2.upsets = []) (f) : a.Stays (aside core (settleUnit core f s)) := by
  induction f generalizing s with
  | zero => exact h
  | succ f ih =>
    have hu : s.mem.upsets = [] := (congrArg (·.2.upsets) h.1).trans ha
    simp only [settleUnit]
    split
    · exact ih (completeOp_stays h hu _)
    · split
      · split
        · exact ih (runPass_stays h hu _)
        · split
          · split
            · exact ih (commitChain_stays h _)
            · exact h
          · exact h
      · split
        · exact ih (commitChain_stays h _)
        · exact h

theorem instantDone_stays (h : a.Stays (aside core s)) (e) : a.Stays (aside core (instantDone s core e)) := by
  unfold instantDone
  extract_lets s1
  have hkey : a.Stays (aside core s1) := stays_ite (doneAdvance_stays h _) h
  split
  · exact doneAdvance_stays hkey _
  · exact hkey

/-- The issue of a bundle without X and S operations (R40) is the core's own but for done fields that count at once. -/
theorem issueAll_stays (h : a.Stays (aside core s)) (b p1 i1) {e : Slots} (hx : e.x = .nop) (hs : e.s = .nop) :
    a.Stays (aside core (issueAll s core b p1 i1 e)) := by
  simp only [issueAll, hx, hs, issueX, xFinish, lateS, trimLog_aside, modCore_aside]
  exact instantDone_stays (by simpa using h) e

end

/-! ### The frame -/

theorem memoryLeft_frame {s t : State} {i : Instr} (hi : MemoryLeft s i) (h : exec i s = .next t) :
    (∀ a, memRead t.mem.gddr a = memRead s.mem.gddr a) ∧ t.mem.cxl = s.mem.cxl ∧ t.nor = s.nor ∧ t.cfg = s.cfg ∧ t.sec.fuses = s.sec.fuses ∧
      madeAs s t := by
  have hkeep := memoryLeft_outKeeps hi t h
  simp only [kept, Kept.durable, Prod.mk.injEq] at hkeep
  obtain ⟨hpart, hrepair, hcfg, hfuses, hnor, hgddr, hcxl⟩ := hkeep
  exact ⟨fun a => by rw [hgddr], hcxl, hnor, hcfg, hfuses, hpart, hrepair⟩

theorem slotCommand_frame {s t : State} {i : Instr} {core : Nat} {sl : Slots} (hi : slotsOf i = some (core, sl)) (h : exec i s = .next t) :
    t.pins = s.pins ∧ t.pwr = s.pwr ∧ t.tim = s.tim ∧ t.sec = s.sec := by
  have hkept := slotCommand_kept hi h
  exact ⟨congrArg (·.pins) hkept, congrArg (·.pwr) hkept, congrArg (·.tim) hkept, congrArg (·.sec) hkept⟩

/-- A slot command without X and S operations issues and runs to its end aside from everything else. -/
theorem slotCommand_stays {s t : State} {i : Instr} {core : Nat} {sl : Slots} (hi : slotsOf i = some (core, sl)) (hx : sl.x = .nop)
    (hs : sl.s = .nop) (hissue : SlotIssues s core sl) (h : exec i s = .next t) : (aside core s).Stays (aside core t) := by
  rw [exec_of_slotsOf hi, onCore_enabled _ _ _ hissue.enabled, soloSlot_issues _ _ _ hissue] at h
  rw [← Host.Outcome.next.inj h]
  have hissued : (aside core s).Stays (aside core (issuedBy s core sl)) :=
    issueAll_stays (Aside.stays_refl _) _ _ _ (by simp [effSlots, hx]) (by simp [effSlots, hs])
  exact settleUnit_stays hissued hissue.sound 64

/-- What stays, read field by field. -/
theorem frame_of_stays {core : Nat} {s t : State} (h : (aside core s).Stays (aside core t)) (hrun : t.seq.st = .running) :
    (∀ j, j ≠ core → getCore t j = getCore s j) ∧ t.ce = s.ce ∧ t.job = s.job ∧ t.sync.g = s.sync.g ∧
      t.mem = { s.mem with host := t.mem.host, watch := t.mem.watch } := by
  obtain ⟨hem, hall⟩ := h
  have heq := hall hrun
  have hce : t.ce = s.ce := congrArg Prod.fst hem
  have hmem : { t.mem with host := [], watch := [] } = { s.mem with host := [], watch := [] } := congrArg Prod.snd hem
  refine ⟨fun j hj => ?_, hce, congrArg (·.job) heq, congrArg (·.g) heq, ?_⟩
  · have hj' := congrFun (congrArg (·.others) heq) j
    simpa [aside, hj] using hj'
  · exact congrArg (fun m : MemSt => { m with host := t.mem.host, watch := t.mem.watch }) hmem

/-- Settles O60: no function that one of these commands is made of writes the memories, flash, the configuration or the fuses; the functions of slot
commands keep time, power and pins as well; and the operations of a core move that core, the host's records and the detector, or stop the stream. -/
theorem commandFrames : Obligations.CommandFrames :=
  ⟨fun _ _ _ hi h => memoryLeft_frame hi h, fun _ _ _ _ _ hi h => slotCommand_frame hi h,
    fun _ _ _ _ _ hi hx hs hissue h hrun => frame_of_stays (slotCommand_stays hi hx hs hissue h) hrun⟩

end Sys2Proof.Machine
end

section
/-! PROOFS. O33: a copy that completes while another copy of its core reads the memory it writes. Its rows overwrite bytes of the other's source, which
the other copy keeps with its place in the queue (R279), so the rest of the queue does not stay as it was. -/

namespace Sys2Proof.Machine

/-- The older copy, active with its reads made: one row of 16 FP32 from the buffer at 0x400 to GDDR7 at 0x800. -/
def writingCopy : Copy := { Tests.cpy (Tests.dcp.set 0 0x01) with active := true }

/-- The younger copy, active too (R271): the row of GDDR7 at 0x800 to the buffer at 0x800. -/
def readingCopy : Copy := { Tests.cpy ((Tests.dcp.set 0 0x10).set 9 8) with ord := 1, active := true }

/-- A running core with both copies. The byte at 0x800 is 7, and the buffer holds zeros. -/
def copyMeetsCopy : State :=
  { Tests.rc { Tests.cs with st := .issuing, lcu := [writingCopy, readingCopy] } with
    mem := { Tests.run.mem with gddr := [(0, 0x1F), (0x800, 7)] } }

/-- The older copy reads no memory, so none of its reads waits for its fragments to be ready. -/
theorem copyMeetsCopy_lateRead : lateRead copyMeetsCopy 3 writingCopy = copyMeetsCopy := by
  have hnone : lateLines copyMeetsCopy writingCopy.desc writingCopy.todo = [] := by decide +kernel
  simp [lateRead, hnone]

/-- As the older copy completes, the younger one keeps the byte that its source has lost (R279). -/
theorem copyMeetsCopy_queue {t : State} (h : exec (.lcuCopyComplete 3) copyMeetsCopy = .next t) :
    (getCore t 3).lcu = [{ readingCopy with was := [(0x800, 7)] }] := by
  have hrun : (match exec (.lcuCopyComplete 3) copyMeetsCopy with | .next u => (getCore u 3).lcu | _ => [])
      = [{ readingCopy with was := [(0x800, 7)] }] := by decide +kernel
  rwa [h] at hrun

/-- Refutes O33, by its clause on completion into memory: the clause leaves the other copies of the queue as they were, and in `copyMeetsCopy` the write
changes what one of them keeps of its source. -/
theorem not_localCopyResults : ¬ Obligations.LocalCopyResults := by
  rintro ⟨-, hcomplete, -⟩
  obtain ⟨hplain, -⟩ := hcomplete copyMeetsCopy 3 writingCopy writingCopy [readingCopy] [readingCopy] (by decide +kernel) rfl rfl (by decide +kernel) rfl
    (by decide +kernel) (by rw [copyMeetsCopy_lateRead]; decide +kernel) (by rw [copyMeetsCopy_lateRead]; decide +kernel)
    (by rw [copyMeetsCopy_lateRead]; decide +kernel) rfl (by rw [copyMeetsCopy_lateRead]; decide +kernel)
    (by rw [copyMeetsCopy_lateRead]; decide +kernel)
  obtain ⟨t, hexec, hqueue, -⟩ := hplain (.inl (by decide +kernel))
  rw [copyMeetsCopy_queue hexec] at hqueue
  exact absurd hqueue (by decide +kernel)

end Sys2Proof.Machine
end

section
/-! PROOFS. O58, O55 (R287, R537; log entry 3): every step keeps the byte memories in their canonical form. Each function of the model is shown to give a
canonical state from a canonical one, in the order of the model's files; then the step. -/

namespace Sys2Proof.Machine

/-! ### Rules that carry a property through operations -/

/-- `C a` holds, although `p` does not. -/
def Beyond {α : Type} (C : α → Prop) (p : Prop) (a : α) : Prop := ¬ p ∧ C a

/-- `p` gives `C a`, said as a rewriting rule for `C a`: a rule of the form `p → C a` would have simp prove `p` first, and simp nests such proofs two deep
only, where the functions of the model apply many operations one inside the other. `Beyond` is what the rule leaves over, and is never looked into. -/
abbrev Gives {α : Type} (C : α → Prop) (p : Prop) (a : α) : Prop := C a ↔ p ∨ Beyond C p a

theorem gives {α : Type} {C : α → Prop} {p : Prop} {a : α} (h : p → C a) : Gives C p a := by
  unfold Gives Beyond
  tauto

@[simp] theorem imp_or_left_iff {p q : Prop} : (p → p ∨ q) ↔ True := ⟨fun _ => trivial, fun _ => Or.inl⟩

/-! ### Canonical memories, cores and modules -/

/-- A byte memory in its canonical form. -/
def MemCanon (m : Memory) : Prop := m.wf = true

/-- A row mapping in its canonical form. -/
def FlipsCanon (m : SMap Bool) : Prop := smWf false m = true

/-- A core whose stores and row mapping are in their canonical form. -/
def CoreCanon (c : Core) : Prop := coreWf c = true

/-- Cores that are all in their canonical form. -/
def CoresCanon (m : SMap Core) : Prop := ∀ p ∈ m, CoreCanon p.2

/-- A module whose byte memories are in their canonical form. -/
def Canon (s : State) : Prop := memoryWf s = true

theorem canon_iff (s : State) :
    Canon s ↔ MemCanon s.mem.gddr ∧ MemCanon s.mem.cxl ∧ MemCanon s.mem.host ∧ MemCanon s.nor ∧ MemCanon s.dbg.mbox ∧ CoresCanon s.cores := by
  simp [Canon, memoryWf, MemCanon, CoresCanon, CoreCanon, and_assoc]

theorem coreCanon_iff (c : Core) : CoreCanon c ↔ MemCanon c.comb ∧ MemCanon c.buf ∧ MemCanon c.acc ∧ FlipsCanon c.flips := by
  simp [CoreCanon, coreWf, MemCanon, FlipsCanon, and_assoc]

/-- From a canonical module `s` the module `t` is canonical. -/
abbrev Keeps (s t : State) : Prop := Gives Canon (Canon s) t

/-- From a canonical core `c` the core `d` is canonical. -/
abbrev CoreKeeps (c d : Core) : Prop := Gives CoreCanon (CoreCanon c) d

theorem keeps_refl (s : State) : Keeps s s := gives id

theorem coreKeeps_refl (c : Core) : CoreKeeps c c := gives id

/-! ### Byte memories -/

@[simp] theorem memCanon_nil : MemCanon [] := rfl

@[simp] theorem memWrite_canon (m a b) : Gives MemCanon (MemCanon m) (memWrite m a b) := gives (Memory.wf_write m a b)

@[simp] theorem memWrites_canon (m a bs) : Gives MemCanon (MemCanon m) (memWrites m a bs) := gives (Memory.wf_writes m a bs)

@[simp] theorem smClear_canon (m : Memory) (a n) : Gives MemCanon (MemCanon m) (smClear m a n) := gives (Memory.wf_clear m a n)

@[simp] theorem filter_memCanon (m : Memory) (q) : Gives MemCanon (MemCanon m) (m.filter q) := gives (Memory.wf_filter m q)

@[simp] theorem foldl_memCanon {β : Type} (f : Memory → β → Memory) (l : List β) (m : Memory) :
    Gives MemCanon (MemCanon m ∧ ∀ n x, MemCanon n → MemCanon (f n x)) (l.foldl f m) :=
  gives fun ⟨hm, hf⟩ => List.foldlRecOn l f hm fun _ h x _ => hf _ x h

/-- A run of a canonical memory, moved to begin at 0. -/
@[simp] theorem smSub_canon (m : Memory) (a n) : Gives MemCanon (MemCanon m) (smSub m a n) := gives fun h => by
  unfold MemCanon Memory.wf at h ⊢
  obtain ⟨hkeys, hvals⟩ := (smWf_iff _ _).mp h
  refine (smWf_iff _ _).mpr ⟨List.pairwise_map.mpr ((hkeys.filter _).imp_of_mem fun hp _ hlt => ?_), ?_⟩
  · have := (List.mem_filter.mp hp).2
    simp only [Bool.and_eq_true, decide_eq_true_eq] at this
    omega
  · simp only [smSub, List.mem_map, List.mem_filter]
    rintro p ⟨q, ⟨hq, -⟩, rfl⟩
    exact hvals q hq

/-- A run of a canonical memory replaced by the cells of another one. -/
@[simp] theorem smBlit_canon (m : Memory) (a n) (x : Memory) : Gives MemCanon (MemCanon m ∧ MemCanon x) (smBlit m a n x) := gives fun ⟨hm, hx⟩ => by
  unfold MemCanon Memory.wf at hm hx ⊢
  obtain ⟨hmk, hmv⟩ := (smWf_iff _ _).mp hm
  obtain ⟨hxk, hxv⟩ := (smWf_iff _ _).mp hx
  refine (smWf_iff _ _).mpr ⟨?_, ?_⟩
  · refine List.pairwise_append.mpr ⟨List.pairwise_append.mpr ⟨hmk.filter _, ?_, ?_⟩, hmk.filter _, ?_⟩
    · exact List.pairwise_map.mpr ((hxk.filter _).imp fun hlt => by omega)
    · simp only [smBelow, List.mem_filter, List.mem_map, decide_eq_true_eq]
      rintro p ⟨-, hp⟩ q ⟨y, -, rfl⟩
      simp only
      omega
    · simp only [smBelow, smFrom, List.mem_append, List.mem_filter, List.mem_map, decide_eq_true_eq]
      rintro p (⟨-, hp⟩ | ⟨y, ⟨-, hy⟩, rfl⟩) q ⟨-, hq⟩
      · omega
      · simp only
        omega
  · simp only [smBlit, smBelow, smFrom, List.mem_append, List.mem_filter, List.mem_map]
    rintro p ((⟨hp, -⟩ | ⟨y, ⟨hy, -⟩, rfl⟩) | ⟨hp, -⟩)
    · exact hmv p hp
    · exact hxv y hy
    · exact hmv p hp

@[simp] theorem memCanon_ite (c : Prop) [Decidable c] (m n : Memory) : MemCanon (if c then m else n) ↔ if c then MemCanon m else MemCanon n := by
  split <;> rfl

@[simp] theorem flipsCanon_nil : FlipsCanon [] := rfl

@[simp] theorem smSet_flipsCanon (m k v) : Gives FlipsCanon (FlipsCanon m) (smSet false m k v) := gives (smWf_smSet false m k v)

/-! ### Cores -/

@[simp] theorem coreCanon_mk (a b c d e f g h i j k l m n comb buf bp acc flips ap o p q r t u v w x y z
    aa ab ac ad ae af ag ah ai aj ak al am an ao aq ar) :
    CoreCanon (Core.mk a b c d e f g h i j k l m n comb buf bp acc flips ap o p q r t u v w x y z
      aa ab ac ad ae af ag ah ai aj ak al am an ao aq ar) ↔ MemCanon comb ∧ MemCanon buf ∧ MemCanon acc ∧ FlipsCanon flips := coreCanon_iff _

@[simp] theorem comb_canon (c : Core) : Gives MemCanon (CoreCanon c) c.comb := gives fun h => have ⟨hcomb, _⟩ := (coreCanon_iff c).mp h; hcomb

@[simp] theorem buf_canon (c : Core) : Gives MemCanon (CoreCanon c) c.buf := gives fun h => have ⟨_, hbuf, _⟩ := (coreCanon_iff c).mp h; hbuf

@[simp] theorem acc_canon (c : Core) : Gives MemCanon (CoreCanon c) c.acc := gives fun h => have ⟨_, _, hacc, _⟩ := (coreCanon_iff c).mp h; hacc

@[simp] theorem flips_canon (c : Core) : Gives FlipsCanon (CoreCanon c) c.flips :=
  gives fun h => have ⟨_, _, _, hflips⟩ := (coreCanon_iff c).mp h; hflips

@[simp] theorem coreCanon_init : CoreCanon Core.init := by simp [Core.init]

@[simp] theorem coreCanon_ite (p : Prop) [Decidable p] (c d : Core) : CoreCanon (if p then c else d) ↔ if p then CoreCanon c else CoreCanon d := by
  split <;> rfl

@[simp] theorem foldl_coreCanon {β : Type} (f : Core → β → Core) (l : List β) (c : Core) :
    Gives CoreCanon (CoreCanon c ∧ ∀ d x, CoreCanon d → CoreCanon (f d x)) (l.foldl f c) :=
  gives fun ⟨hc, hf⟩ => List.foldlRecOn l f hc fun _ h x _ => hf _ x h

@[simp] theorem coresCanon_nil : CoresCanon [] := by simp [CoresCanon]

theorem smGet_coreCanon {m : SMap Core} (h : CoresCanon m) (i : Nat) : CoreCanon (smGet Core.init m i) := by
  induction m with
  | nil => exact coreCanon_init
  | cons p m ih =>
    rw [smGet_cons]
    split
    · exact h p (List.mem_cons_self ..)
    · exact ih fun q hq => h q (List.mem_cons_of_mem _ hq)

theorem smSet_mem {α : Type} [DecidableEq α] {d : α} {m : SMap α} {k : Nat} {v : α} {p : Nat × α} (h : p ∈ smSet d m k v) : p = (k, v) ∨ p ∈ m := by
  induction m with
  | nil =>
    unfold smSet at h
    split at h <;> simp_all
  | cons q m ih =>
    obtain ⟨j, u⟩ := q
    unfold smSet at h
    repeat' split at h
    all_goals simp only [List.mem_cons] at h ⊢
    all_goals tauto

@[simp] theorem smSet_coresCanon (m i c) : Gives CoresCanon (CoresCanon m ∧ CoreCanon c) (smSet Core.init m i c) := gives fun ⟨hm, hc⟩ p hp => by
  rcases smSet_mem hp with rfl | hp
  · exact hc
  · exact hm p hp

@[simp] theorem map_coresCanon (f : Nat × Core → Nat × Core) (m : SMap Core) :
    Gives CoresCanon (CoresCanon m ∧ ∀ i c, CoreCanon c → CoreCanon (f (i, c)).2) (m.map f) := gives fun ⟨hm, hf⟩ p hp => by
  obtain ⟨q, hq, rfl⟩ := List.mem_map.mp hp
  exact hf _ _ (hm q hq)

@[simp] theorem smMap_coresCanon (f : Nat → Core → Core) (m : SMap Core) :
    Gives CoresCanon (CoresCanon m ∧ ∀ i c, CoreCanon c → CoreCanon (f i c)) (smMap Core.init f m) := gives fun ⟨hm, hf⟩ p hp => by
  obtain ⟨q, hq, rfl⟩ := List.mem_map.mp (List.mem_filter.mp hp).1
  exact hf _ _ (hm q hq)

/-! ### Modules -/

@[simp] theorem canon_mk (a b c d e f g h i j k l m n o p q r t u v w) :
    Canon (State.mk a b c d e f g h i j k l m n o p q r t u v w) ↔
      MemCanon j.gddr ∧ MemCanon j.cxl ∧ MemCanon j.host ∧ MemCanon u ∧ MemCanon r.mbox ∧ CoresCanon h := canon_iff _

@[simp] theorem gddr_canon (s : State) : Gives MemCanon (Canon s) s.mem.gddr := gives fun h => have ⟨hgddr, _⟩ := (canon_iff s).mp h; hgddr

@[simp] theorem cxl_canon (s : State) : Gives MemCanon (Canon s) s.mem.cxl := gives fun h => have ⟨_, hcxl, _⟩ := (canon_iff s).mp h; hcxl

@[simp] theorem host_canon (s : State) : Gives MemCanon (Canon s) s.mem.host := gives fun h => have ⟨_, _, hhost, _⟩ := (canon_iff s).mp h; hhost

@[simp] theorem nor_canon (s : State) : Gives MemCanon (Canon s) s.nor := gives fun h => have ⟨_, _, _, hnor, _⟩ := (canon_iff s).mp h; hnor

@[simp] theorem mbox_canon (s : State) : Gives MemCanon (Canon s) s.dbg.mbox :=
  gives fun h => have ⟨_, _, _, _, hmbox, _⟩ := (canon_iff s).mp h; hmbox

@[simp] theorem cores_canon (s : State) : Gives CoresCanon (Canon s) s.cores :=
  gives fun h => have ⟨_, _, _, _, _, hcores⟩ := (canon_iff s).mp h; hcores

@[simp] theorem getCore_canon (s i) : Gives CoreCanon (Canon s) (getCore s i) := gives fun h => smGet_coreCanon (by simp [h]) i

@[simp] theorem canon_reset : Canon State.reset := by simp [State.reset, MemSt.init, Dbg.init]

@[simp] theorem canon_ite (p : Prop) [Decidable p] (s t : State) : Canon (if p then s else t) ↔ if p then Canon s else Canon t := by
  split <;> rfl

@[simp] theorem foldl_canon {β : Type} (f : State → β → State) (l : List β) (s : State) :
    Gives Canon (Canon s ∧ ∀ t x, Canon t → Canon (f t x)) (l.foldl f s) :=
  gives fun ⟨hs, hf⟩ => List.foldlRecOn l f hs fun _ h x _ => hf _ x h

/-! ### What the functions of `Ops` keep -/

@[simp] theorem setCore_canon (s i c) : Gives Canon (Canon s ∧ CoreCanon c) (setCore s i c) :=
  gives fun ⟨h, hc⟩ => by simp [setCore, h, hc]

@[simp] theorem modCore_canon (s i f) : Gives Canon (Canon s ∧ CoreCanon (f (getCore s i))) (modCore s i f) :=
  gives fun ⟨h, hc⟩ => by simp [modCore, h, hc]

@[simp] theorem setReg_canon (s a v) : Keeps s (setReg s a v) := gives fun h => by simp [setReg, h]

@[simp] theorem setRegF_canon (s a hi lo x) : Keeps s (setRegF s a hi lo x) := gives fun h => by simp [setRegF, h]

@[simp] theorem bump_canon (s a n) : Keeps s (bump s a n) := gives fun h => by simp [bump, h]

@[simp] theorem draw_canon (s) : Keeps s (draw s).2 := gives fun h => by simp [draw, h]

@[simp] theorem hostTear_canon (s p n) : Keeps s (hostTear s p n) := gives fun h => by simp [hostTear, h]

@[simp] theorem hostVector_canon (s v) : Keeps s (hostVector s v) := gives fun h => by simp [hostVector, h]

@[simp] theorem hostWrite_canon (s a bs) : Keeps s (hostWrite s a bs) := gives fun h => by simp [hostWrite, h]

@[simp] theorem hostPut_canon (s n cid more status r0 r1) : Keeps s (hostPut s n cid more status r0 r1) := gives fun h => by simp [hostPut, h]

@[simp] theorem hostEvent_canon (s r) : Keeps s (hostEvent s r).1 := gives fun h => by
  unfold hostEvent
  repeat' split
  all_goals simp [h]

@[simp] theorem hostEvents_canon (rs s) : Keeps s (hostEvents rs s).1 := by
  induction rs generalizing s with
  | nil => exact keeps_refl s
  | cons r rs ih => exact gives fun h => by simp [hostEvents, ih, h]

@[simp] theorem ldgPost_canon (s l rs) : Keeps s (ldgPost s l rs) := gives fun h => by simp [ldgPost, h]

@[simp] theorem record_canon (s cls source code payload) : Keeps s (record s cls source code payload) := gives fun h => by simp [record, h]

@[simp] theorem tc0SendOn_canon (via s kind dst tag body) : Keeps s (tc0SendOn via s kind dst tag body) := gives fun h => by simp [tc0SendOn, h]

@[simp] theorem tc0Send_canon (s kind dst tag body) : Keeps s (tc0Send s kind dst tag body) := gives fun h => by simp [tc0Send, h]

@[simp] theorem tc0SendAll_canon (kind body a s) : Keeps s (tc0SendAll kind body a s) := by
  fun_induction tc0SendAll kind body a s <;> exact gives fun h => by simp_all

@[simp] theorem noticeSend_canon (s gone cause code) : Keeps s (noticeSend s gone cause code) := gives fun h => by simp [noticeSend, h]

@[simp] theorem detWithdraw_canon (s) : Keeps s (detWithdraw s) := gives fun h => by
  simp only [detWithdraw]
  repeat' split
  all_goals simp [h]

@[simp] theorem detLeave_canon (s) : Keeps s (detLeave s) := gives fun h => by unfold detLeave; split <;> simp [h]

@[simp] theorem detStir_canon (s) : Keeps s (detStir s) := gives fun h => by simp [detStir, h]

@[simp] theorem detBreak_canon (s) : Keeps s (detBreak s) := gives fun h => by simp [detBreak, h]

@[simp] theorem scrambleRows_canon (ctr rs c) : CoreKeeps c (scrambleRows ctr rs c) := by
  induction rs generalizing c with
  | nil => exact coreKeeps_refl c
  | cons r rs ih => exact gives fun h => by simp [scrambleRows, ih, h]

@[simp] theorem abandonCore_canon (ctr c) : CoreKeeps c (abandonCore ctr c) := gives fun h => by simp [abandonCore, h]

@[simp] theorem haltOrders_canon (keep s) : Keeps s (haltOrders keep s) := gives fun h => by simp +contextual [haltOrders, h]

@[simp] theorem haltStart_canon (s) : Keeps s (haltStart s) := gives fun h => by simp [haltStart, h]

@[simp] theorem seqFault_canon (s core idx code) : Keeps s (seqFault s core idx code) := gives fun h => by simp [seqFault, h]

@[simp] theorem fatalMark_canon (s core idx code) : Keeps s (fatalMark s core idx code) := gives fun h => by simp [fatalMark, h]

@[simp] theorem coreStops_canon (s core) : Keeps s (coreStops s core) := gives fun h => by simp [coreStops, h]

@[simp] theorem jobFatalKeep_canon (keep s core idx code source payload) :
    Keeps s (jobFatalKeep keep s core idx code source payload) := gives fun h => by
  simp only [jobFatalKeep]
  repeat' split
  all_goals simp [h]

@[simp] theorem jobFatal_canon (s core idx code source payload) : Keeps s (jobFatal s core idx code source payload) :=
  gives fun h => by simp [jobFatal, h]

@[simp] theorem contained_canon (s source code payload) : Keeps s (contained s source code payload) := gives fun h => by simp [contained, h]

@[simp] theorem readyDrop_canon (s) : Keeps s (readyDrop s) := gives fun h => by simp [readyDrop, h]

@[simp] theorem deviceFatal_canon (s source code payload) : Keeps s (deviceFatal s source code payload) :=
  gives fun h => by simp +contextual [deviceFatal, h]

@[simp] theorem poisonConsumed_canon (s core idx source addr consumer) : Keeps s (poisonConsumed s core idx source addr consumer) :=
  gives fun h => by simp [poisonConsumed, h]

@[simp] theorem addS_canon (s core i n) : Keeps s (addS s core i n) := gives fun h => by simp [addS, h]

@[simp] theorem addG_canon (s i n) : Keeps s (addG s i n) := gives fun h => by simp [addG, h]

@[simp] theorem doneAdvance_canon (s core done) : Keeps s (doneAdvance s core done) := gives fun h => by simp [doneAdvance, h]

@[simp] theorem ctrAdvance_canon (s core f) : Keeps s (ctrAdvance s core f) := gives fun h => by simp [ctrAdvance, h]

/-! ### What the functions of `MemOps` keep -/

@[simp] theorem refuseAccess_canon (s source gaddr place agent write) : Keeps s (refuseAccess s source gaddr place agent write) :=
  gives fun h => by simp [refuseAccess, h]

@[simp] theorem setLinePoison_canon (s line bad) : Keeps s (setLinePoison s line bad) := gives fun h => by unfold setLinePoison; split <;> simp [h]

@[simp] theorem sliceBad_canon (s line) : Keeps s (sliceBad s line) := gives fun h => by simp [sliceBad, h]

@[simp] theorem strike_canon (s core u) : Keeps s (strike s core u) := gives fun h => by unfold strike; split <;> simp [h]

@[simp] theorem upsetNew_canon (s core u) : Keeps s (upsetNew s core u) := gives fun h => by simp [upsetNew, h]

@[simp] theorem meetBy_canon (s reads) : Keeps s (meetBy s reads) := gives fun h => by simp [meetBy, h]

@[simp] theorem meet_canon (s core reads) : Keeps s (meet s core reads) := gives fun h => by simp [meet, h]

@[simp] theorem meetSpans_canon (s rs) : Keeps s (meetSpans s rs) := gives fun h => by simp [meetSpans, h]

@[simp] theorem mcPush_canon (s r) : Keeps s (mcPush s r) := gives fun h => by simp [mcPush, h]

@[simp] theorem hiveBack_canon (s0 line) : Keeps s0 (hiveBack s0 line) := gives fun h => by simp [hiveBack, h]

@[simp] theorem hiveLeave_canon (s0 v) : Keeps s0 (hiveLeave s0 v) := gives fun h => by simp [hiveLeave, h]

@[simp] theorem hiveAlloc_canon (s line dirty hint) : Keeps s (hiveAlloc s line dirty hint) := gives fun h => by
  simp only [hiveAlloc]
  repeat' split
  all_goals simp [h]

@[simp] theorem hiveAccess_canon (s line write whole nopf hint) : Keeps s (hiveAccess s line write whole nopf hint) := gives fun h => by
  simp only [hiveAccess]
  repeat' split
  all_goals simp [h]

@[simp] theorem hiveRun_canon (write hint a n a1 s) : Keeps s (hiveRun write hint a n a1 s) := by
  fun_induction hiveRun write hint a n a1 s <;> exact gives fun h => by simp_all

@[simp] theorem poisonLines_canon (lo n bad a s) : Keeps s (poisonLines lo n bad a s) := by
  fun_induction poisonLines lo n bad a s <;> exact gives fun h => by simp_all

@[simp] theorem tearWatches_canon (s a n) : Keeps s (tearWatches s a n) := gives fun h => by simp [tearWatches, h]

@[simp] theorem storeBytes_canon (s a bs) : Keeps s (storeBytes s a bs) := gives fun h => by unfold storeBytes; split <;> simp [h]

@[simp] theorem touchLines_canon (s a n hint ls) : Keeps s (touchLines s a n hint ls) := gives fun h => by unfold touchLines; split <;> simp [h]

@[simp] theorem touchRead_canon (s a n hint) : Keeps s (touchRead s a n hint) := gives fun h => by simp [touchRead, h]

@[simp] theorem touchPart_canon (late s a n hint) : Keeps s (touchPart late s a n hint) := gives fun h => by simp [touchPart, h]

@[simp] theorem keepMem_canon (s a bs) : Keeps s (keepMem s a bs) := gives fun h => by simp +contextual [keepMem, h]

@[simp] theorem memStore_canon (s a bs bad hint) : Keeps s (memStore s a bs bad hint) := gives fun h => by
  unfold memStore
  repeat' split
  all_goals simp [h]

@[simp] theorem devStore_canon (s a bs) : Keeps s (devStore s a bs) := gives fun h => by simp [devStore, h]

@[simp] theorem devTouch_canon (write a n s) : Keeps s (devTouch write a n s) := gives fun h => by simp +contextual [devTouch, h]

@[simp] theorem armWatch_canon (s w lo hi) : Keeps s (armWatch s w lo hi) := gives fun h => by simp [armWatch, h]

@[simp] theorem freeWatch_canon (s w) : Keeps s (freeWatch s w) := gives fun h => by simp [freeWatch, h]

/-! ### What the functions of `CoreOps` keep -/

@[simp] theorem dropLatches_canon (c t) : CoreKeeps c (dropLatches c t) := gives fun h => by simp [dropLatches, h]

@[simp] theorem tileWrite_canon (c t sh rows) : CoreKeeps c (tileWrite c t sh rows) := gives fun h => by simp [tileWrite, h]

@[simp] theorem latchReads_canon (port l c hits) : CoreKeeps c (latchReads port l c hits).1 := by
  induction l generalizing c hits with
  | nil => exact coreKeeps_refl c
  | cons x l ih => exact gives fun h => by unfold latchReads; split <;> simp [ih, h]

@[simp] theorem accPut_canon (c j bs bad) : CoreKeeps c (accPut c j bs bad) := gives fun h => by simp [accPut, h]

@[simp] theorem combReads_canon (s core port rows) : Keeps s (combReads s core port rows) := gives fun h => by simp [combReads, h]

/-! ### What the functions of `DebugOps` keep -/

@[simp] theorem dbgHaltCore_canon (s core cause k agent off) : Keeps s (dbgHaltCore s core cause k agent off) :=
  gives fun h => by simp [dbgHaltCore, h]

@[simp] theorem wpGo_canon (core off n agent write a a1 s) : Keeps s (wpGo core off n agent write a a1 s) := by
  fun_induction wpGo core off n agent write a a1 s <;> exact gives fun h => by simp_all

@[simp] theorem bufTouch_canon (s core off n write agent) : Keeps s (bufTouch s core off n write agent) := gives fun h => by simp [bufTouch, h]

@[simp] theorem touchAll_canon (core a s) : Keeps s (touchAll core a s) := by
  fun_induction touchAll core a s <;> exact gives fun h => by simp_all

@[simp] theorem bufWrite_canon (c a bs bad) : CoreKeeps c (bufWrite c a bs bad) := gives fun h => by simp [bufWrite, h]

@[simp] theorem bufCover_canon (before c ps) : CoreKeeps c (bufCover before c ps) := gives fun h => by simp [bufCover, h]

@[simp] theorem bufPieces_canon (c ps) : CoreKeeps c (bufPieces c ps) := gives fun h => by simp [bufPieces, h]

/-! ### What the functions of `ArrayUnit` keep -/

@[simp] theorem setOp_canon (c o) : CoreKeeps c (setOp c o) := gives fun h => by simp [setOp, h]

@[simp] theorem dropOp_canon (c o) : CoreKeeps c (dropOp c o) := gives fun h => by simp [dropOp, h]

@[simp] theorem freshRows_canon (first n c) : CoreKeeps c (freshRows first n c) := gives fun h => by simp [freshRows, h]

@[simp] theorem flipRows_canon (bad l c) : CoreKeeps c (flipRows bad l c) := by
  induction l generalizing c with
  | nil => exact coreKeeps_refl c
  | cons x l ih => exact gives fun h => by simp [flipRows, ih, h]

@[simp] theorem bump64_canon (s a rem n) : Keeps s (bump64 s a rem n).1 := gives fun h => by simp [bump64, h]

@[simp] theorem finishOp_canon (s core o) : Keeps s (finishOp s core o) := gives fun h => by simp [finishOp, h]

@[simp] theorem arrayEvent_canon (s core shadow o first reads) : Keeps s (arrayEvent s core shadow o first reads) :=
  gives fun h => by unfold arrayEvent; split <;> simp [h]

@[simp] theorem runPass_canon (s core o outcome) : Keeps s (runPass s core o outcome) := gives fun h => by
  simp only [runPass]
  repeat' split
  all_goals simp [h]

@[simp] theorem finishDone_canon (core a s) : Keeps s (finishDone core a s) := by
  fun_induction finishDone core a s <;> exact gives fun h => by simp_all

@[simp] theorem finishAll_canon (core ms s) : Keeps s (finishAll core ms s) := gives fun h => by simp [finishAll, h]

@[simp] theorem commitChain_canon (s core k) : Keeps s (commitChain s core k) := gives fun h => by
  simp only [commitChain]
  repeat' split
  all_goals simp [h]

@[simp] theorem doMld_canon (s core o t turn) : Keeps s (doMld s core o t turn) := gives fun h => by simp [doMld, h]

@[simp] theorem doMswap_canon (s core) : Keeps s (doMswap s core) := gives fun h => by simp [doMswap, h]

@[simp] theorem rangeEvent_canon (s core first n kind topk) : Keeps s (rangeEvent s core first n kind topk) := gives fun h => by
  unfold rangeEvent
  repeat' split
  all_goals simp [h]

@[simp] theorem doMdrain_canon (s core o first n t mode rnd kind) : Keeps s (doMdrain s core o first n t mode rnd kind) := gives fun h => by
  simp only [doMdrain]
  repeat' split
  all_goals simp [h]

@[simp] theorem doMtopk_canon (s core o first n vt pt k base kind) : Keeps s (doMtopk s core o first n vt pt k base kind) := gives fun h => by
  simp only [doMtopk]
  repeat' split
  all_goals simp [h]

/-! ### What the functions of `VectorUnit` keep -/

@[simp] theorem vReads_canon (s core o op v) : Keeps s (vReads s core o op v) := gives fun h => by unfold vReads; split <;> simp [h]

@[simp] theorem doVadam_canon (s core o v) : Keeps s (doVadam s core o v) := gives fun h => by
  simp only [doVadam]
  repeat' split
  all_goals simp +contextual [h]

@[simp] theorem doV_canon (s core o op v) : Keeps s (doV s core o op v) := gives fun h => by simp [doV, h]

@[simp] theorem doTld_canon (s core o t pitch) : Keeps s (doTld s core o t pitch) := gives fun h => by
  simp only [doTld]
  repeat' split
  all_goals simp [h]

@[simp] theorem doTst_canon (s core o t pitch) : Keeps s (doTst s core o t pitch) := gives fun h => by simp [doTst, h]

@[simp] theorem doTmov_canon (s core o d src) : Keeps s (doTmov s core o d src) := gives fun h => by simp [doTmov, h]

@[simp] theorem doTzero_canon (s core o t) : Keeps s (doTzero s core o t) := gives fun h => by simp +contextual [doTzero, h]

@[simp] theorem doTxp_canon (s core o d src) : Keeps s (doTxp s core o d src) := gives fun h => by simp [doTxp, h]

@[simp] theorem completeOp_canon (s0 core o) : Keeps s0 (completeOp s0 core o) := gives fun h => by unfold completeOp; split <;> simp [h]

/-! ### What the functions of `LcuOps` keep -/

@[simp] theorem l1Back_canon (s0 core l0) : Keeps s0 (l1Back s0 core l0) := gives fun h => by simp [l1Back, h]

@[simp] theorem l1BackAll_canon (core a s) : Keeps s (l1BackAll core a s) := by
  fun_induction l1BackAll core a s <;> exact gives fun h => by simp_all

@[simp] theorem l1Keep_canon (s core keep) : Keeps s (l1Keep s core keep) := gives fun h => by simp [l1Keep, h]

@[simp] theorem l1Fill_canon (s core l) : Keeps s (l1Fill s core l) := gives fun h => by
  simp only [l1Fill]
  repeat' split
  all_goals simp [h]

@[simp] theorem l1Reads_canon (core hint a s) : Keeps s (l1Reads core hint a s).1 := by
  induction a generalizing s with
  | nil => exact keeps_refl _
  | cons x l ih => exact gives fun h => by unfold l1Reads; split <;> simp [ih, h]

@[simp] theorem l1Write_canon (s core ln off hint bs bad) : Keeps s (l1Write s core ln off hint bs bad) :=
  gives fun h => by unfold l1Write; split <;> simp [h]

@[simp] theorem l1Piece_canon (core hint a a1 a2 a3 s) : Keeps s (l1Piece core hint a a1 a2 a3 s) := by
  induction a generalizing s with
  | nil => exact keeps_refl _
  | cons x l ih => exact gives fun h => by simp [l1Piece, ih, h]

@[simp] theorem memCovered_canon (a s) : Keeps s (memCovered a s) := by
  induction a generalizing s with
  | nil => exact keeps_refl _
  | cons x l ih => exact gives fun h => by simp [memCovered, ih, h]

@[simp] theorem memCover_canon (hint before ps s) : Keeps s (memCover hint before ps s) := gives fun h => by simp [memCover, h]

@[simp] theorem memPieces_canon (hint ps s) : Keeps s (memPieces hint ps s) := gives fun h => by simp [memPieces, h]

@[simp] theorem l1Pieces_canon (core hint before ps s) : Keeps s (l1Pieces core hint before ps s) := gives fun h => by simp [l1Pieces, h]

@[simp] theorem lcuMemPieces_canon (core hint l1 before ps s) : Keeps s (lcuMemPieces core hint l1 before ps s) :=
  gives fun h => by simp [lcuMemPieces, h]

@[simp] theorem lcuBufPieces_canon (core before ps s) : Keeps s (lcuBufPieces core before ps s) := gives fun h => by simp [lcuBufPieces, h]

/-! ### What the functions of `CeDesc` keep -/

@[simp] theorem ctr4Advance_canon (s f) : Keeps s (ctr4Advance s f) := gives fun h => by simp [ctr4Advance, h]

@[simp] theorem setCe_canon (s k e) : Keeps s (setCe s k e) := gives fun h => by simp [setCe, h]

/-! ### What the functions of `SyncOps` keep -/

@[simp] theorem pairFree_canon (s src ctx) : Keeps s (pairFree s src ctx) := gives fun h => by simp [pairFree, h]

@[simp] theorem pairHold_canon (s src ctx n) : Keeps s (pairHold s src ctx n) := gives fun h => by simp [pairHold, h]

@[simp] theorem sigHold_canon (s g) : Keeps s (sigHold s g) := gives fun h => by simp [sigHold, h]

@[simp] theorem sigSelf_canon (s g) : Keeps s (sigSelf s g) := gives fun h => by simp [sigSelf, h]

@[simp] theorem sigPull_canon (s) : Keeps s (sigPull s) := gives fun h => by unfold sigPull; split <;> simp [h]

@[simp] theorem cePush_canon (s o) : Keeps s (cePush s o) := gives fun h => by simp [cePush, h]

@[simp] theorem doSsig_canon (s core idx addr) : Keeps s (doSsig s core idx addr) := gives fun h => by
  simp only [doSsig]
  repeat' split
  all_goals simp [h]

@[simp] theorem barArrive_canon (s core idx g n) : Keeps s (barArrive s core idx g n) := gives fun h => by unfold barArrive; split <;> simp [h]

@[simp] theorem watchRelease_canon (s core h res done) : Keeps s (watchRelease s core h res done) := gives fun h => by simp [watchRelease, h]

@[simp] theorem armsGo_canon (core as s) : Keeps s (armsGo core as s) := by
  induction as generalizing s with
  | nil => exact keeps_refl s
  | cons a as ih => exact gives fun h => by unfold armsGo; split <;> simp [ih, h]

@[simp] theorem armsAll_canon (a s) : Keeps s (armsAll a s) := by
  fun_induction armsAll a s <;> exact gives fun h => by simp_all

@[simp] theorem retryArms_canon (s) : Keeps s (retryArms s) := gives fun h => by simp [retryArms, h]

@[simp] theorem doXwatch_canon (s core d done) : Keeps s (doXwatch s core d done) := gives fun h => by simp [doXwatch, h]

/-! ### What the functions of `Issue` keep -/

@[simp] theorem coreFault_canon (s core idx code) : Keeps s (coreFault s core idx code) := gives fun h => by simp [coreFault, h]

theorem xDescFault_canon {s core idx c x t} (ht : xDescFault s core idx c x = some t) (h : Canon s) : Canon t := by
  simp only [xDescFault] at ht
  repeat' split at ht
  all_goals simp only [reduceCtorEq, Option.some.injEq] at ht
  all_goals simp [← ht, h]

theorem step2_canon {s core c b p1 i1 e t} (ht : step2 s core c b p1 i1 e = some t) (h : Canon s) : Canon t := by
  simp only [step2] at ht
  split at ht
  · simp [← Option.some.inj ht, h]
  · split at ht
    · simp [← Option.some.inj ht, h]
    · split at ht
      · simp [← Option.some.inj ht, h]
      · split at ht
        · next hx => exact xDescFault_canon (hx.trans ht) h
        · split at ht
          · simp [← Option.some.inj ht, h]
          · cases ht

@[simp] theorem launch_canon (c b h idx a1 a2) : CoreKeeps c (launch c b h idx a1 a2) := gives fun hc => by simp [launch, hc]

@[simp] theorem issueM_canon (c m h idx) : CoreKeeps c (issueM c m h idx) := gives fun hc => by unfold issueM; split <;> simp [hc]

@[simp] theorem setKey_canon (c imm) : CoreKeeps c (setKey c imm) := gives fun h => by simp [setKey, h]

@[simp] theorem issueV_canon (c op v h idx) : CoreKeeps c (issueV c op v h idx) := gives fun hc => by unfold issueV; split <;> simp [hc]

@[simp] theorem setShape_canon (c t sh) : CoreKeeps c (setShape c t sh) := gives fun h => by simp [setShape, h]

@[simp] theorem issueT_canon (c t h idx) : CoreKeeps c (issueT c t h idx) := gives fun hc => by unfold issueT; split <;> simp [hc]

@[simp] theorem closeChains_canon (c d) : CoreKeeps c (closeChains c d) := gives fun h => by unfold closeChains; split <;> simp [h]

@[simp] theorem effC_canon (s core x c) : CoreKeeps c (effC s core x c) := gives fun h => by unfold effC; split <;> simp [h]

@[simp] theorem takeS_canon (y c) : CoreKeeps c (takeS y c) := gives fun h => by unfold takeS; split <;> simp [h]

@[simp] theorem advance_canon (ctx next p1 i1 x c) : CoreKeeps c (advance ctx next p1 i1 x c) := gives fun h => by
  simp only [advance]
  split <;> split <;> simp [h]

@[simp] theorem issueX_canon (s core c0 x done idx) : Keeps s (issueX s core c0 x done idx) := gives fun h => by
  unfold issueX
  repeat' split
  all_goals simp [h]

@[simp] theorem trimLog_canon (s) : Keeps s (trimLog s) := gives fun h => by simp [trimLog, h]

@[simp] theorem doSdec_canon (s core idx i n) : Keeps s (doSdec s core idx i n) := gives fun h => by simp [doSdec, h]

@[simp] theorem lateS_canon (s core idx c0 y) : Keeps s (lateS s core idx c0 y) := gives fun h => by unfold lateS; split <;> simp [h]

@[simp] theorem instantDone_canon (s core e) : Keeps s (instantDone s core e) := gives fun h => by
  unfold instantDone
  repeat' split
  all_goals simp [h]

@[simp] theorem keyCount_canon (s core e) : Keeps s (keyCount s core e) := gives fun h => by simp [keyCount, h]

@[simp] theorem xFinish_canon (core x s) : Keeps s (xFinish core x s) := gives fun h => by unfold xFinish; split <;> simp [h]

@[simp] theorem issueAll_canon (s core b p1 i1 e) : Keeps s (issueAll s core b p1 i1 e) := gives fun h => by
  simp only [issueAll]
  repeat' split
  all_goals simp +contextual [h]

@[simp] theorem waitAt_canon (s core step cause) : Keeps s (waitAt s core step cause) := gives fun h => by simp [waitAt, h]

@[simp] theorem steps3to6_canon (s core b p1 i1 e drain) : Keeps s (steps3to6 s core b p1 i1 e drain) := gives fun h => by
  simp only [steps3to6]
  repeat' split
  all_goals simp [h]

@[simp] theorem tryBundle_canon (s core b) : Keeps s (tryBundle s core b) := gives fun h => by
  simp only [tryBundle]
  split
  · simp [h]
  · split
    · simp [h]
    · split
      · exact h
      · split
        · next hstep => exact step2_canon hstep h
        · simp [h]

@[simp] theorem endStep_canon (core stepped pos0 s) : Keeps s (endStep core stepped pos0 s) := gives fun h => by simp [endStep, h]

@[simp] theorem bundleIssueCore_canon (s0 core) : Keeps s0 (bundleIssueCore s0 core) := gives fun h => by
  simp only [bundleIssueCore]
  repeat' split
  all_goals simp [h]

@[simp] theorem settleUnit_canon (core a s) : Keeps s (settleUnit core a s) := by
  fun_induction settleUnit core a s <;> exact gives fun h => by simp_all

@[simp] theorem soloSlot_canon (s core sl) : Keeps s (soloSlot s core sl) := gives fun h => by
  simp only [soloSlot]
  split
  · exact h
  · split
    · simp [h]
    · split
      · simp [h]
      · split
        · next hstep => exact step2_canon hstep (by simp [h])
        · simp [h]

/-! ### What the functions of `Sequencer` keep -/

@[simp] theorem seqStop_canon (s idx code payload) : Keeps s (seqStop s idx code payload) := gives fun h => by simp [seqStop, h]

@[simp] theorem seqRefused_canon (s a idx place) : Keeps s (seqRefused s a idx place) := gives fun h => by simp [seqRefused, h]

@[simp] theorem seqPoison_canon (s a idx) : Keeps s (seqPoison s a idx) := gives fun h => by simp [seqPoison, h]

@[simp] theorem tabAsk_canon (s0 a n step) : Keeps s0 (tabAsk s0 a n step) := gives fun h => by simp [tabAsk, h]

theorem seqRead_error_canon {s a n idx t} (ht : seqRead s a n idx = .error t) (h : Canon s) : Canon t := by
  unfold seqRead at ht
  repeat' split at ht
  all_goals cases ht
  all_goals simp [h]

@[simp] theorem seqGo_canon (s ctx n) : Keeps s (seqGo s ctx n) := gives fun h => by simp [seqGo, h]

@[simp] theorem seqEnqueue_canon (s b) : Keeps s (seqEnqueue s b) := gives fun h => by simp [seqEnqueue, h]

@[simp] theorem seqCvar_canon (s idx mode index) : Keeps s (seqCvar s idx mode index) := gives fun h => by
  simp only [seqCvar]
  split
  · simp [h]
  · split
    · split <;> simp [h]
    · split
      · simp [h]
      · split
        · next hread => exact seqRead_error_canon hread h
        · simp [h]

@[simp] theorem seqMark2_canon (s pos idx) : Keeps s (seqMark2 s pos idx) := gives fun h => by unfold seqMark2; split <;> simp [h]

@[simp] theorem seqAct_canon (s pos idx c) : Keeps s (seqAct s pos idx c) := gives fun h => by unfold seqAct; split <;> simp [h]

@[simp] theorem seqTake_canon (s a idx) : Keeps s (seqTake s a idx) := gives fun h => by
  simp only [seqTake]
  repeat' split
  all_goals simp [h]

@[simp] theorem doFetch_canon (s0) : Keeps s0 (doFetch s0) := gives fun h => by
  simp only [doFetch]
  repeat' split
  all_goals simp [h]

@[simp] theorem arriveGo_canon (b is s) : Keeps s (arriveGo b is s) := by
  induction is generalizing s with
  | nil => exact keeps_refl s
  | cons i is ih => exact gives fun h => by simp only [arriveGo]; split <;> simp [ih, h]

@[simp] theorem doMulticast_canon (s) : Keeps s (doMulticast s) := gives fun h => by
  unfold doMulticast
  repeat' split
  all_goals simp [h]

@[simp] theorem seqTableTake_canon (s t idx) : Keeps s (seqTableTake s t idx) := gives fun h => by
  simp only [seqTableTake]
  repeat' split
  all_goals simp [h]

@[simp] theorem pollEnds_canon (s) : Keeps s (pollEnds s) := gives fun h => by simp [pollEnds, h]

@[simp] theorem doTablePoll_canon (s) : Keeps s (doTablePoll s) := gives fun h => by
  simp only [doTablePoll]
  split
  · exact h
  · split
    · simp [h]
    · split
      · next hread => simp [seqRead_error_canon hread, h]
      · split
        · simp [h]
        · split
          · simp [h]
          · split
            · next hread => simp [seqRead_error_canon hread, h]
            · simp [h]

/-! ### What the functions of `SlotCmds` keep -/

@[simp] theorem passStart_canon (s core o) : Keeps s (passStart s core o) := gives fun h => by
  simp only [passStart]
  repeat' split
  all_goals simp [h]

@[simp] theorem chainCommit_canon (s core) : Keeps s (chainCommit s core) := gives fun h => by
  simp only [chainCommit]
  repeat' split
  all_goals simp [h]

@[simp] theorem operationCommit_canon (s core u) : Keeps s (operationCommit s core u) := gives fun h => by unfold operationCommit; split <;> simp [h]

@[simp] theorem fenceEnd_canon (s core) : Keeps s (fenceEnd s core) := gives fun h => by
  simp only [fenceEnd]
  repeat' split
  all_goals simp [h]

@[simp] theorem seqSolo_canon (s c) : Keeps s (seqSolo s c) := gives fun h => by
  unfold seqSolo
  repeat' split
  all_goals simp [h]

/-! ### What the functions of `LcuRun` keep -/

@[simp] theorem refuseFrags_canon (core d a s) : Keeps s (refuseFrags core d a s) := by
  induction a generalizing s with
  | nil => exact keeps_refl _
  | cons x l ih => exact gives fun h => by unfold refuseFrags; split <;> simp [ih, h]

@[simp] theorem putAcc_canon (d l c) : CoreKeeps c (putAcc d l c) := by
  induction l generalizing c with
  | nil => exact coreKeeps_refl c
  | cons x l ih => exact gives fun h => by simp [putAcc, ih, h]

@[simp] theorem putTile_canon (c d rows) : CoreKeeps c (putTile c d rows) := gives fun h => by simp [putTile, h]

@[simp] theorem poisonBuf_canon (runs c) : CoreKeeps c (poisonBuf runs c) := gives fun h => by simp [poisonBuf, h]

@[simp] theorem putDst_canon (s core d before ps) : Keeps s (putDst s core d before ps) := gives fun h => by simp [putDst, h]

@[simp] theorem covered_canon (s core ord ps) : Keeps s (covered s core ord ps) := gives fun h => by simp [covered, h]

@[simp] theorem setLcu_canon (s core l) : Keeps s (setLcu s core l) := gives fun h => by simp [setLcu, h]

@[simp] theorem modCopy_canon (s core ord f) : Keeps s (modCopy s core ord f) := gives fun h => by simp [modCopy, h]

@[simp] theorem copyTouch_canon (s core d todo) : Keeps s (copyTouch s core d todo).1 := gives fun h => by
  unfold copyTouch
  repeat' split
  all_goals simp [h]

@[simp] theorem copyLate_canon (s core d todo) : Keeps s (copyLate s core d todo) := gives fun h => by simp [copyLate, h]

@[simp] theorem lateRead_canon (s core q) : Keeps s (lateRead s core q) := gives fun h => by simp [lateRead, h]

@[simp] theorem beginRun_canon (s core q fail) : Keeps s (beginRun s core q fail) := gives fun h => by simp [beginRun, h]

@[simp] theorem armCopy_canon (s core q) : Keeps s (armCopy s core q) := gives fun h => by simp [armCopy, h]

@[simp] theorem lcuStart_canon (s core fail u) : Keeps s (lcuStart s core fail u) := gives fun h => by
  unfold lcuStart
  repeat' split
  all_goals simp [h]

@[simp] theorem lcuDone_canon (s core q) : Keeps s (lcuDone s core q) := gives fun h => by simp [lcuDone, h]

@[simp] theorem lcuFail_canon (s core q mask code) : Keeps s (lcuFail s core q mask code) := gives fun h => by simp [lcuFail, h]

@[simp] theorem countRows_canon (s core d rows bytes) : Keeps s (countRows s core d rows bytes) := gives fun h => by simp [countRows, h]

@[simp] theorem endRun_canon (s core q settled ok lost code) : Keeps s (endRun s core q settled ok lost code) := gives fun h => by
  simp only [endRun]
  repeat' split
  all_goals simp [h]

@[simp] theorem movePart_canon (s core q ok rest) : Keeps s (movePart s core q ok rest) := gives fun h => by simp [movePart, h]

@[simp] theorem tornFail_canon (s core q) : Keeps s (tornFail s core q) := gives fun h => by simp [tornFail, h]

@[simp] theorem lcuEnd_canon (s core q) : Keeps s (lcuEnd s core q) := gives fun h => by simp [lcuEnd, h]

@[simp] theorem lcuTry_canon (s core) : Keeps s (lcuTry s core) := gives fun h => by unfold lcuTry; split <;> simp [h]

@[simp] theorem lcuComplete_canon (s core) : Keeps s (lcuComplete s core) := gives fun h => by unfold lcuComplete; split <;> simp [h]

@[simp] theorem tornReread_canon (s core fail) : Keeps s (tornReread s core fail) := gives fun h => by
  simp only [tornReread]
  repeat' split
  all_goals simp [h]

@[simp] theorem lcuGo_canon (s core fail) : Keeps s (lcuGo s core fail) := gives fun h => by unfold lcuGo; split <;> simp [h]

@[simp] theorem poisonMem_canon (a s) : Keeps s (poisonMem a s) := by
  induction a generalizing s with
  | nil => exact keeps_refl _
  | cons x l ih => exact gives fun h => by simp [poisonMem, ih, h]

@[simp] theorem poisonL1_canon (core hint a s) : Keeps s (poisonL1 core hint a s) := by
  induction a generalizing s with
  | nil => exact keeps_refl _
  | cons x l ih => exact gives fun h => by simp [poisonL1, ih, h]

@[simp] theorem abortEnd_canon (s core q) : Keeps s (abortEnd s core q) := gives fun h => by simp [abortEnd, h]

@[simp] theorem lcuAbort_canon (s core) : Keeps s (lcuAbort s core) := gives fun h => by
  simp only [lcuAbort]
  repeat' split
  all_goals simp [h]

/-! ### What the functions of `SyncRun` keep -/

@[simp] theorem giveTokens_canon (a s) : Keeps s (giveTokens a s) := by
  induction a generalizing s with
  | nil => exact keeps_refl _
  | cons x l ih => exact gives fun h => by simp [giveTokens, ih, h]

@[simp] theorem barrierRelease_canon (s g) : Keeps s (barrierRelease s g) := gives fun h => by unfold barrierRelease; split <;> simp [h]

@[simp] theorem signalRelease_canon (s src ctx) : Keeps s (signalRelease s src ctx) := gives fun h => by unfold signalRelease; split <;> simp [h]

@[simp] theorem devStores_canon (base a s) : Keeps s (devStores base a s) := by
  induction a generalizing s with
  | nil => exact keeps_refl _
  | cons x l ih => exact gives fun h => by simp [devStores, ih, h]

@[simp] theorem takeDeadlock_canon (s lead count) : Keeps s (takeDeadlock s lead count) := gives fun h => by simp [takeDeadlock, h]

@[simp] theorem leadCheck_canon (s) : Keeps s (leadCheck s) := gives fun h => by simp [leadCheck, h]

@[simp] theorem sendBlocked_canon (s) : Keeps s (sendBlocked s) := gives fun h => by unfold sendBlocked; split <;> simp [h]

@[simp] theorem enterBlocked_canon (s) : Keeps s (enterBlocked s) := gives fun h => by simp [enterBlocked, h]

@[simp] theorem detTick_canon (s) : Keeps s (detTick s) := gives fun h => by simp [detTick, h]

@[simp] theorem quietElapsed_canon (s) : Keeps s (quietElapsed s) := gives fun h => by simp [quietElapsed, h]

@[simp] theorem takeReport_canon (s src sent recv) : Keeps s (takeReport s src sent recv) := gives fun h => by simp [takeReport, h]

@[simp] theorem takeWithdraw_canon (s src) : Keeps s (takeWithdraw s src) := gives fun h => by simp [takeWithdraw, h]

/-! ### What the functions of `FabOps` keep -/

@[simp] theorem setLink_canon (s k l) : Keeps s (setLink s k l) := gives fun h => by simp [setLink, h]

@[simp] theorem modLink_canon (s k f) : Keeps s (modLink s k f) := gives fun h => by simp [modLink, h]

@[simp] theorem linkPut_canon (s k input w) : Keeps s (linkPut s k input w) := gives fun h => by simp [linkPut, h]

@[simp] theorem fabOut_canon (s input w) : Keeps s (fabOut s input w) := gives fun h => by unfold fabOut; split <;> simp [h]

@[simp] theorem fabSource_canon (s p) : Keeps s (fabSource s p) := gives fun h => by simp [fabSource, h]

@[simp] theorem fabAgain_canon (s p) : Keeps s (fabAgain s p) := gives fun h => by unfold fabAgain; split <;> simp [h]

@[simp] theorem txPumpGo_canon (key a s) : Keeps s (txPumpGo key a s) := by
  induction a generalizing s with
  | zero => exact keeps_refl _
  | succ n ih =>
    refine gives fun h => ?_
    simp only [txPumpGo]
    repeat' split
    all_goals simp [ih, h]

@[simp] theorem sentNote_canon (s) : Keeps s (sentNote s) := gives fun h => by simp [sentNote, h]

@[simp] theorem txPump_canon (s key) : Keeps s (txPump s key) := gives fun h => by simp [txPump, h]

@[simp] theorem fabSend_canon (s p o) : Keeps s (fabSend s p o) := gives fun h => by simp [fabSend, h]

@[simp] theorem fabAnswer_canon (s typ p spec) : Keeps s (fabAnswer s typ p spec) := gives fun h => by simp [fabAnswer, h]

@[simp] theorem fabAck_canon (s p n) : Keeps s (fabAck s p n) := gives fun h => by
  simp only [fabAck]
  repeat' split
  all_goals simp [h]

@[simp] theorem fabWrites_canon (cls dst ctx counted o a a1 a2 a3 s) : Keeps s (fabWrites cls dst ctx counted o a a1 a2 a3 s) := by
  fun_induction fabWrites cls dst ctx counted o a a1 a2 a3 s <;> exact gives fun h => by simp_all

@[simp] theorem fabReads_canon (cls dst ctx counted o home f a n key s) : Keeps s (fabReads cls dst ctx counted o home f a n key s) := by
  induction f generalizing a n key s with
  | zero => exact keeps_refl s
  | succ f ih => exact gives fun h => by unfold fabReads; split <;> simp [ih, h]

@[simp] theorem txAgain_canon (o a s) : Keeps s (txAgain o a s) := by
  induction a generalizing s with
  | nil => exact keeps_refl _
  | cons x l ih => exact gives fun h => by simp [txAgain, ih, h]

@[simp] theorem ownerFail_canon (s o) : Keeps s (ownerFail s o) := gives fun h => by unfold ownerFail; split <;> simp [h]

@[simp] theorem ackTake_canon (s dst ctx n) : Keeps s (ackTake s dst ctx n) := gives fun h => by simp [ackTake, h]

@[simp] theorem txDrop_canon (s key q err) : Keeps s (txDrop s key q err) := gives fun h => by simp [txDrop, h]

@[simp] theorem e2eLost_canon (s p) : Keeps s (e2eLost s p) := gives fun h => by simp [e2eLost, h]

@[simp] theorem txLose_canon (s key q) : Keeps s (txLose s key q) := gives fun h => by simp [txLose, h]

@[simp] theorem txLoseAll_canon (key a s) : Keeps s (txLoseAll key a s) := by
  induction a generalizing s with
  | nil => exact keeps_refl _
  | cons x l ih => exact gives fun h => by simp [txLoseAll, ih, h]

@[simp] theorem txCancel_canon (a s) : Keeps s (txCancel a s) := by
  induction a generalizing s with
  | nil => exact keeps_refl _
  | cons x l ih => exact gives fun h => by simp [txCancel, ih, h]

@[simp] theorem loseDstGo_canon (dev a s) : Keeps s (loseDstGo dev a s) := by
  induction a generalizing s with
  | nil => exact keeps_refl _
  | cons x l ih => exact gives fun h => by simp [loseDstGo, ih, h]

@[simp] theorem loseDst_canon (s dev) : Keeps s (loseDst s dev) := gives fun h => by simp [loseDst, h]

/-! ### What the functions of `CeCopy` keep -/

@[simp] theorem ceRefuseGo_canon (src p a s) : Keeps s (ceRefuseGo src p a s) := by
  induction a generalizing s with
  | nil => exact keeps_refl s
  | cons x l ih =>
    refine gives fun h => ?_
    simp only [ceRefuseGo]
    repeat' split
    all_goals simp [ih, h]

@[simp] theorem ceTouch_canon (s a n hint) : Keeps s (ceTouch s a n hint) := gives fun h => by unfold ceTouch; split <;> simp [h]

@[simp] theorem ceTouchPart_canon (late s a n hint) : Keeps s (ceTouchPart late s a n hint) :=
  gives fun h => by unfold ceTouchPart; split <;> simp [h]

@[simp] theorem ceBufPut_canon (before ps id s) : Keeps s (ceBufPut before ps id s) := gives fun h => by simp [ceBufPut, h]

@[simp] theorem ceCover_canon (before s hint ps) : Keeps s (ceCover before s hint ps) := gives fun h => by simp [ceCover, h]

@[simp] theorem cePut_canon (s hint ps) : Keeps s (cePut s hint ps) := gives fun h => by simp [cePut, h]

@[simp] theorem modOp_canon (s k uid f) : Keeps s (modOp s k uid f) := gives fun h => by simp [modOp, h]

@[simp] theorem readersOff_canon (s uid) : Keeps s (readersOff s uid) := gives fun h => by simp +contextual [readersOff, apply_ite Prod.snd, h]

@[simp] theorem ceDrop_canon (s k uid) : Keeps s (ceDrop s k uid) := gives fun h => by simp [ceDrop, h]

@[simp] theorem readPiece_canon (k uid ctx p q s) : Keeps s (readPiece k uid ctx p q s) := gives fun h => by
  unfold readPiece
  repeat' split
  all_goals simp [h]

@[simp] theorem readPieces_canon (k uid ctx p a s) : Keeps s (readPieces k uid ctx p a s) := by
  induction a generalizing s with
  | nil => exact keeps_refl _
  | cons x l ih => exact gives fun h => by simp [readPieces, ih, h]

@[simp] theorem sendCuts_canon (k uid ctx p dev a a1 s) : Keeps s (sendCuts k uid ctx p dev a a1 s) := by
  fun_induction sendCuts k uid ctx p dev a a1 s <;> exact gives fun h => by simp_all

@[simp] theorem sendPieces_canon (k uid ctx p m a s) : Keeps s (sendPieces k uid ctx p m a s) := by
  induction a generalizing s with
  | nil => exact keeps_refl _
  | cons x l ih => exact gives fun h => by unfold sendPieces; split <;> simp [ih, h]

@[simp] theorem planArm_canon (s k uid p) : Keeps s (planArm s k uid p) := gives fun h => by unfold planArm; split <;> simp [h]

@[simp] theorem readersOn_canon (s uid ps) : Keeps s (readersOn s uid ps) := gives fun h => by simp +contextual [readersOn, h]

@[simp] theorem ceBegin_canon (s k o p todo fail) : Keeps s (ceBegin s k o p todo fail) := gives fun h => by simp [ceBegin, h]

@[simp] theorem lateReads_canon (s p m) : Keeps s (lateReads s p m) := gives fun h => by simp [lateReads, h]

@[simp] theorem ceLate_canon (s k o p) : Keeps s (ceLate s k o p) := gives fun h => by simp [ceLate, h]

@[simp] theorem ceFlagsIn_canon (s k o p) : Keeps s (ceFlagsIn s k o p) := gives fun h => by simp [ceFlagsIn, h]

@[simp] theorem landOwn_canon (s k o p lost) : Keeps s (landOwn s k o p lost) := gives fun h => by simp [landOwn, h]

@[simp] theorem ceFail_canon (s k o mask code) : Keeps s (ceFail s k o mask code) := gives fun h => by simp [ceFail, h]

@[simp] theorem ceMove_canon (s k o p settled lost code) : Keeps s (ceMove s k o p settled lost code).1 := gives fun h => by
  simp only [ceMove]
  repeat' split
  all_goals simp [h]

@[simp] theorem ceSettle_canon (s0 k o0 p) : Keeps s0 (ceSettle s0 k o0 p).1 := gives fun h => by
  simp only [ceSettle]
  repeat' split
  all_goals simp [h]

@[simp] theorem ceFinish_canon (s k o p) : Keeps s (ceFinish s k o p).1 := gives fun h => by
  simp only [ceFinish]
  repeat' split
  all_goals simp [h]

@[simp] theorem sendPoison_canon (k uid ctx p a s) : Keeps s (sendPoison k uid ctx p a s) := by
  induction a generalizing s with
  | nil => exact keeps_refl _
  | cons x l ih => exact gives fun h => by simp [sendPoison, ih, h]

@[simp] theorem ceAbortWrites_canon (s k o p unsent) : Keeps s (ceAbortWrites s k o p unsent) := gives fun h => by
  unfold ceAbortWrites
  extract_lets m f cuts here s1 fab s2 far
  have hs1 : Canon s1 := List.foldlRecOn _ _ h fun t ht r _ => by split <;> simp [ht]
  have hs2 : Canon s2 := by simp [s2, hs1]
  simp [hs2]

/-! ### What the functions of `CeCol` keep -/

@[simp] theorem colWord_canon (c i a v s) : Keeps s (colWord c i a v s) := gives fun h => by simp [colWord, h]

@[simp] theorem sendArrive_canon (c step who s) : Keeps s (sendArrive c step who s) := gives fun h => by simp [sendArrive, h]

@[simp] theorem sendDone_canon (c s) : Keeps s (sendDone c s) := gives fun h => by simp [sendDone, h]

@[simp] theorem ceTouchAll_canon (hint rs s) : Keeps s (ceTouchAll hint rs s) := gives fun h => by simp +contextual [ceTouchAll, h]

@[simp] theorem colPack_canon (c s) : Keeps s (colPack c s) := gives fun h => by
  simp only [colPack]
  repeat' split
  all_goals simp [h]

theorem bucketStart_canon {s c t} (ht : bucketStart s c = some t) (h : Canon s) : Canon t := by
  simp only [bucketStart] at ht
  split at ht
  · cases ht
  · split at ht
    · rwa [← Option.some.inj ht]
    · simp [← Option.some.inj ht, h]

@[simp] theorem colAsk_canon (c a s) : Keeps s (colAsk c a s) := by
  induction a generalizing s with
  | nil => exact keeps_refl _
  | cons x l ih => exact gives fun h => by simp [colAsk, ih, h]

@[simp] theorem cePoison_canon (s k a) : Keeps s (cePoison s k a) := gives fun h => by simp [cePoison, h]

@[simp] theorem nextStep_canon (c step s) : Keeps s (nextStep c step s) := gives fun h => by simp [nextStep, h]

@[simp] theorem endSteps_canon (c s) : Keeps s (endSteps c s) := gives fun h => by simp [endSteps, h]

@[simp] theorem ownReduced_canon (c xs s) : Keeps s (ownReduced c xs s) := gives fun h => by simp [ownReduced, h]

@[simp] theorem copyOut_canon (c o rs s) : Keeps s (copyOut c o rs s) := gives fun h => by simp +contextual [copyOut, h]

@[simp] theorem stepOut_canon (s c o si) : Keeps s (stepOut s c o si) := gives fun h => by
  simp only [stepOut]
  repeat' split
  all_goals simp +contextual [h]

@[simp] theorem colFirst_canon (c s) : Keeps s (colFirst c s) := gives fun h => by
  simp only [colFirst]
  repeat' split
  all_goals simp [h]

/-! ### What the functions of `CeRun` keep -/

@[simp] theorem opEnter_canon (s o) : Keeps s (opEnter s o) := gives fun h => by simp [opEnter, h]

@[simp] theorem opLeave_canon (s o t) : Keeps t (opLeave s o t) := gives fun h => by unfold opLeave; split <;> simp [h]

@[simp] theorem asOp_canon (s o f) : Gives Canon (Canon s ∧ ∀ t, Canon t → Canon (f t)) (asOp s o f) := gives fun ⟨h, hf⟩ => by simp [asOp, h, hf]

@[simp] theorem sendSigs_canon (k a s) : Keeps s (sendSigs k a s) := by
  induction a generalizing s with
  | zero => exact keeps_refl _
  | succ n ih =>
    refine gives fun h => ?_
    unfold sendSigs
    repeat' split
    all_goals simp [ih, h]

@[simp] theorem colFault_canon (s k o code) : Keeps s (colFault s k o code) := gives fun h => by simp [colFault, h]

@[simp] theorem colFail_canon (s k o) : Keeps s (colFail s k o) := gives fun h => by simp [colFail, h]

theorem colCheck_canon {s k o first t} (ht : colCheck s k o first = some t) (h : Canon s) : Canon t := by
  simp only [colCheck] at ht
  repeat' split at ht
  all_goals simp only [reduceCtorEq, Option.some.injEq] at ht
  all_goals simp [← ht, h]

@[simp] theorem colFetch_canon (s k o stage rs) : Keeps s (colFetch s k o stage rs) := gives fun h => by simp [colFetch, h]

@[simp] theorem colStart_canon (s k o) : Keeps s (colStart s k o) := gives fun h => by
  simp only [colStart]
  split
  · simp [h]
  · split
    · simp [h]
    · split
      · next hcheck => exact colCheck_canon hcheck (by simp [h])
      · split
        · simp [h]
        · next t hstart =>
          have ht : Canon t := by
            split at hstart
            · exact bucketStart_canon hstart (by simp [h])
            · simp [← Option.some.inj hstart, h]
          split <;> simp [ht]

@[simp] theorem ceRun_canon (s k o p todo fail) : Keeps s (ceRun s k o p todo fail) := gives fun h => by simp [ceRun, h]

@[simp] theorem ceStart_canon (s k fail) : Keeps s (ceStart s k fail) := gives fun h => by
  simp only [ceStart]
  repeat' split
  all_goals simp [h]

@[simp] theorem snapAsk_canon (s t) : Keeps s (snapAsk s t) := gives fun h => by simp [snapAsk, h]

@[simp] theorem snapG_canon (s) : Keeps s (snapG s) := gives fun h => by simp [snapG, h]

@[simp] theorem snapEnd_canon (s code x) : Keeps s (snapEnd s code x) := gives fun h => by simp [snapEnd, h]

@[simp] theorem snapIssue_canon (a s) : Keeps s (snapIssue a s) := by
  induction a generalizing s with
  | zero => exact keeps_refl s
  | succ n ih => exact gives fun h => by simp [snapIssue, ih, h]

@[simp] theorem snapBegin_canon (s) : Keeps s (snapBegin s) := gives fun h => by simp [snapBegin, h]

@[simp] theorem snapDone_canon (s o) : Keeps s (snapDone s o) := gives fun h => by
  simp only [snapDone]
  repeat' split
  all_goals simp [h]

@[simp] theorem ceDone_canon (s k o) : Keeps s (ceDone s k o) := gives fun h => by
  unfold ceDone
  repeat' split
  all_goals simp [h]

@[simp] theorem ceComplete_canon (s k o) : Keeps s (ceComplete s k o) := gives fun h => by unfold ceComplete; split <;> simp [h]

@[simp] theorem ceMoved_canon (s k o) : Keeps s (ceMoved s k o) := gives fun h => by
  simp only [ceMoved]
  repeat' split
  all_goals simp [h]

@[simp] theorem ceAbort_canon (s k o unwritable) : Keeps s (ceAbort s k o unwritable) := gives fun h => by simp [ceAbort, h]

@[simp] theorem snapFail_canon (s k uid) : Keeps s (snapFail s k uid) := gives fun h => by unfold snapFail; split <;> simp [h]

@[simp] theorem ceEndGo_canon (s k) : Keeps s (ceEndGo s k) := gives fun h => by
  simp only [ceEndGo]
  repeat' split
  all_goals simp [h]

@[simp] theorem ceEnd_canon (s k) : Keeps s (ceEnd s k) := gives fun h => by simp [ceEnd, h]

theorem relCheck_canon {s k o t} (ht : relCheck s k o = some t) (h : Canon s) : Canon t := by
  unfold relCheck at ht
  split at ht
  · simp [← Option.some.inj ht, h]
  · simp [← Option.some.inj ht, h]
  · obtain ⟨a, -, rfl⟩ := Option.map_eq_some_iff.mp ht
    simp [h]

@[simp] theorem colRelease_canon (s k) : Keeps s (colRelease s k) := gives fun h => by
  unfold colRelease
  split
  · exact h
  · split
    · exact h
    · split
      · next hcheck => simp [relCheck_canon hcheck h, h]
      · simp [h]

@[simp] theorem scramble_canon (s a n) : Keeps s (scramble s a n) := gives fun h => by
  simp only [scramble]
  repeat' split
  all_goals simp [h]

@[simp] theorem colLost_canon (s k o) : Keeps s (colLost s k o) := gives fun h => by simp [colLost, h]

@[simp] theorem colSweepGo_canon (k a s) : Keeps s (colSweepGo k a s) := by
  induction a generalizing s with
  | nil => exact keeps_refl _
  | cons x l ih => exact gives fun h => by simp [colSweepGo, ih, h]

@[simp] theorem markLost_canon (started s dev) : Keeps s (markLost started s dev) := gives fun h => by simp [markLost, h]

@[simp] theorem colSweep_canon (s) : Keeps s (colSweep s) := gives fun h => by simp [colSweep, h]

@[simp] theorem colGone_canon (s dev) : Keeps s (colGone s dev) := gives fun h => by simp [colGone, h]

@[simp] theorem colAskStep_canon (s k o ranges) : Keeps s (colAskStep s k o ranges) := gives fun h => by
  simp only [colAskStep]
  repeat' split
  all_goals simp [h]

@[simp] theorem colStep_canon (s k ranges) : Keeps s (colStep s k ranges) := gives fun h => by
  simp only [colStep]
  split
  · simp [h]
  · split
    · next hcheck => exact colCheck_canon hcheck (by simp [h])
    · simp [h]

theorem bktCheck_canon {s k o t} (ht : bktCheck s k o = some t) (h : Canon s) : Canon t := by
  unfold bktCheck at ht
  rcases hcol : colCheck s k o none with _ | u
  · rw [hcol] at ht
    obtain ⟨a, -, rfl⟩ := Option.map_eq_some_iff.mp ht
    simp [h]
  · rw [hcol] at ht
    exact Option.some.inj ht ▸ colCheck_canon hcol h

@[simp] theorem bktCommit_canon (s k) : Keeps s (bktCommit s k) := gives fun h => by
  simp only [bktCommit]
  split
  · exact h
  · split
    · exact h
    · split
      · simp [h]
      · split
        · next hcheck => simp [bktCheck_canon hcheck (by simp [h]), h]
        · simp [h]

@[simp] theorem ceGo_canon (s k o fail) : Keeps s (ceGo s k o fail) := gives fun h => by simp [ceGo, h]

@[simp] theorem ceRetryGo_canon (s k ctx fail) : Keeps s (ceRetryGo s k ctx fail) := gives fun h => by unfold ceRetryGo; split <;> simp [h]

@[simp] theorem ceRetryAbort_canon (s k ctx unwritable) : Keeps s (ceRetryAbort s k ctx unwritable) :=
  gives fun h => by unfold ceRetryAbort; split <;> simp [h]

@[simp] theorem exhausted_canon (s payload) : Keeps s (exhausted s payload) := gives fun h => by simp [exhausted, h]

@[simp] theorem ceDefault_canon (s ctx cannot) : Keeps s (ceDefault s ctx cannot) := gives fun h => by
  simp only [ceDefault]
  repeat' split
  all_goals simp [h]

@[simp] theorem lcuDefault_canon (s core cannot) : Keeps s (lcuDefault s core cannot) := gives fun h => by unfold lcuDefault; split <;> simp [h]

/-! ### What the functions of `LedgerRun` keep -/

@[simp] theorem ldgDo_canon (s f) : Keeps s (ldgDo s f) := gives fun h => by simp [ldgDo, h]

@[simp] theorem flushDone_canon (s) : Keeps s (flushDone s) := gives fun h => by simp [flushDone, h]

@[simp] theorem flushNext_canon (s) : Keeps s (flushNext s) := gives fun h => by simp [flushNext, h]

@[simp] theorem clearApply_canon (s seq ep cmd iak) : Keeps s (clearApply s seq ep cmd iak) := gives fun h => by simp [clearApply, h]

@[simp] theorem lostNote_canon (s) : Keeps s (lostNote s) := gives fun h => by simp [lostNote, h]

@[simp] theorem flushEnd_canon (s verifies) : Keeps s (flushEnd s verifies) := gives fun h => by
  simp only [flushEnd]
  repeat' split
  all_goals simp [h]

@[simp] theorem clearEnd_canon (s) : Keeps s (clearEnd s) := gives fun h => by simp [clearEnd, h]

@[simp] theorem ldgNonce_canon (s) : Keeps s (ldgNonce s) := gives fun h => by simp [ldgNonce, h]

@[simp] theorem clearTry_canon (s d sigOk) : Keeps s (clearTry s d sigOk).1 := gives fun h => by unfold clearTry; split <;> simp [h]

@[simp] theorem freezeTry_canon (s ms) : Keeps s (freezeTry s ms).1 := gives fun h => by
  simp only [freezeTry]
  repeat' split
  all_goals simp [h]

@[simp] theorem ldgSpill_canon (s) : Keeps s (ldgSpill s) := gives fun h => by simp [ldgSpill, h]

@[simp] theorem thaw_canon (s cause) : Keeps s (thaw s cause) := gives fun h => by simp [thaw, h]

@[simp] theorem useWrite_canon (s win at_ energy active steps preempts) : Keeps s (useWrite s win at_ energy active steps preempts) :=
  gives fun h => by simp [useWrite, h]

@[simp] theorem windowGroup_canon (s) : Keeps s (windowGroup s) := gives fun h => by unfold windowGroup; split <;> simp [h]

@[simp] theorem windowEnd_canon (s) : Keeps s (windowEnd s) := gives fun h => by unfold windowEnd; split <;> simp [h]

@[simp] theorem segmentEnd_canon (s next) : Keeps s (segmentEnd s next) := gives fun h => by simp [segmentEnd, h]

@[simp] theorem queryAnswers_canon (s src count seq ep) : Keeps s (queryAnswers s src count seq ep) := gives fun h => by simp [queryAnswers, h]

@[simp] theorem ledgerAsk_canon (s src count seq ep) : Keeps s (ledgerAsk s src count seq ep) := gives fun h => by simp [ledgerAsk, h]

@[simp] theorem ldgUp_canon (s) : Keeps s (ldgUp s) := gives fun h => by simp [ldgUp, h]

@[simp] theorem ldgLock_canon (s) : Keeps s (ldgLock s) := gives fun h => by simp [ldgLock, h]

/-! ### What the functions of `MemRun` keep -/

@[simp] theorem eccTake_canon (s line e) : Keeps s (eccTake s line e) := gives fun h => by unfold eccTake; split <;> simp [h]

@[simp] theorem mcEnter_canon (k a s) : Keeps s (mcEnter k a s) := by
  induction a generalizing s with
  | zero => exact keeps_refl _
  | succ n ih =>
    refine gives fun h => ?_
    simp only [mcEnter]
    repeat' split
    all_goals simp [ih, h]

@[simp] theorem l1Come_canon (s line) : Keeps s (l1Come s line) := gives fun h => by simp +contextual [l1Come, apply_ite Prod.snd, h]

@[simp] theorem mcServe_canon (s k e) : Keeps s (mcServe s k e) := gives fun h => by
  simp only [mcServe]
  repeat' split
  all_goals simp [h]

@[simp] theorem mcScrub_canon (s k line e) : Keeps s (mcScrub s k line e) := gives fun h => by simp [mcScrub, h]

@[simp] theorem downCopies_canon (s core) : Keeps s (downCopies s core) := gives fun h => by simp [downCopies, h]

@[simp] theorem downOps_canon (s k) : Keeps s (downOps s k) := gives fun h => by simp [downOps, h]

@[simp] theorem portDown_canon (s k) : Keeps s (portDown s k) := gives fun h => by simp [portDown, h]

/-! ### What the functions of `QuiesceOps` keep -/

@[simp] theorem rawPut_canon (s a bs) : Keeps s (rawPut s a bs) := gives fun h => by simp [rawPut, h]

@[simp] theorem rawBlit_canon (s a n m bad) : Gives Canon (Canon s ∧ MemCanon m) (rawBlit s a n m bad) :=
  gives fun ⟨h, hm⟩ => by simp [rawBlit, h, hm]

@[simp] theorem saveCtx_canon (s0) : Keeps s0 (saveCtx s0) := gives fun h => by simp [saveCtx, h]

@[simp] theorem accLogical_canon (c : Core) : Gives MemCanon (CoreCanon c) (accLogical c) := gives fun h => by simp +contextual [accLogical, h]

@[simp] theorem saveCore_canon (base c s) : Gives Canon (Canon s ∧ CoreCanon c) (saveCore base c s) :=
  gives fun ⟨h, hc⟩ => by simp [saveCore, h, hc]

@[simp] theorem saveSync_canon (base s) : Keeps s (saveSync base s) := gives fun h => by simp [saveSync, h]

@[simp] theorem saveLcu_canon (base c s) : Keeps s (saveLcu base c s) := gives fun h => by simp [saveLcu, h]

@[simp] theorem saveCe_canon (base e s) : Keeps s (saveCe base e s) := gives fun h => by simp [saveCe, h]

@[simp] theorem hiveClean_canon (s) : Keeps s (hiveClean s) := gives fun h => by simp [hiveClean, h]

@[simp] theorem saveImage_canon (s0) : Keeps s0 (saveImage s0) := gives fun h => by simp [saveImage, h]

@[simp] theorem loadCore_canon (s id old) : Gives CoreCanon (Canon s) (loadCore s id old) := gives fun h => by simp [loadCore, h]

@[simp] theorem loadReplay_canon (s id c) : CoreKeeps c (loadReplay s id c) := gives fun h => by simp [loadReplay, h]

@[simp] theorem loadLcu_canon (s id ctr old c) : CoreKeeps c (loadLcu s id ctr old c) := gives fun h => by simp [loadLcu, h]

@[simp] theorem loadCe_canon (s k ctr) : Keeps s (loadCe s k ctr) := gives fun h => by simp [loadCe, h]

@[simp] theorem loadSync_canon (s) : Keeps s (loadSync s) := gives fun h => by simp [loadSync, h]

@[simp] theorem loadSeq_canon (s) : Keeps s (loadSeq s) := gives fun h => by simp [loadSeq, h]

@[simp] theorem loadImage_canon (s0) : Keeps s0 (loadImage s0) := gives fun h0 => by
  unfold loadImage
  extract_lets s h hw s1 q1 q2 q3 s2
  have hs : Canon s := List.foldlRecOn _ _ h0 fun t ht r _ => by simp [ht]
  have hs1 : Canon s1 := by simp [s1, hs]
  have hs2 : Canon s2 := by simp [s2, hs1]
  split
  next ctr s3 hdraw =>
    have hs3 : Canon s3 := by
      rw [show s3 = (draw s2).2 by rw [hdraw]]
      simp [hs2]
    extract_lets s4 s5
    have hs4 : Canon s4 := by simp +contextual [s4, hs3]
    have hs5 : Canon s5 := by simp +contextual [s5, hs4]
    simp [hs5]

/-! ### What the functions of `WipeOps` keep -/

@[simp] theorem dbgWipe_mbox (d : Dbg) : (dbgWipe d).mbox = [] := rfl

@[simp] theorem wipeDie_canon (s) : Keeps s (wipeDie s) := gives fun h => by simp [wipeDie, h]

@[simp] theorem wipeMem_canon (s scope) : Keeps s (wipeMem s scope) := gives fun h => by simp [wipeMem, h]

@[simp] theorem mllDrop_canon (s) : Keeps s (mllDrop s) := gives fun h => by simp [mllDrop, h]

@[simp] theorem wipeClear_canon (s scope) : Keeps s (wipeClear s scope) := gives fun h => by simp [wipeClear, h]

@[simp] theorem wipeShow_canon (s w) : Keeps s (wipeShow s w) := gives fun h => by simp [wipeShow, h]

@[simp] theorem wipeStart_canon (s scope why) : Keeps s (wipeStart s scope why) := gives fun h => by simp [wipeStart, h]

/-! ### What the functions of `JobOps` keep -/

@[simp] theorem jobTo_canon (s j) : Keeps s (jobTo s j) := gives fun h => by simp [jobTo, h]

@[simp] theorem jobEnd_canon (s) : Keeps s (jobEnd s) := gives fun h => by simp [jobEnd, h]

@[simp] theorem holdZero_canon (s) : Keeps s (holdZero s) := gives fun h => by simp [holdZero, h]

@[simp] theorem hostPost_canon (s q cid more status r0 r1) : Keeps s (hostPost s q cid more status r0 r1) := gives fun h => by simp [hostPost, h]

@[simp] theorem hostDrain_canon (a s) : Keeps s (hostDrain a s) := by
  induction a generalizing s with
  | nil => exact keeps_refl _
  | cons x l ih => exact gives fun h => by simp [hostDrain, ih, h]

@[simp] theorem hostRetry_canon (s) : Keeps s (hostRetry s) := gives fun h => by simp [hostRetry, h]

@[simp] theorem hostDone_canon (s q cid status r0 r1) : Keeps s (hostDone s q cid status r0 r1) := gives fun h => by simp [hostDone, h]

@[simp] theorem hostDoneAll_canon (s op status r0 r1) : Keeps s (hostDoneAll s op status r0 r1) := gives fun h => by simp [hostDoneAll, h]

@[simp] theorem wardTime_canon (s) : Keeps s (wardTime s) := gives fun h => by simp [wardTime, h]

@[simp] theorem wardStart_canon (s) : Keeps s (wardStart s) := gives fun h => by simp [wardStart, h]

@[simp] theorem roundPut_canon (s d a bs) : Keeps s (roundPut s d a bs) := gives fun h => by simp [roundPut, h]

@[simp] theorem pushCopies_canon (s mgmt ds) : Keeps s (pushCopies s mgmt ds) := gives fun h => by simp [pushCopies, h]

@[simp] theorem genSend_canon (s lead gen a) : Keeps s (genSend s lead gen a) := gives fun h => by simp [genSend, h]

@[simp] theorem imbalance_canon (s) : Keeps s (imbalance s) := gives fun h => by simp [imbalance, h]

@[simp] theorem stepLoss_canon (s step) : Keeps s (stepLoss s step) := gives fun h => by
  simp only [stepLoss]
  repeat' split
  all_goals simp [h]

@[simp] theorem roundOpen_canon (s p) : Keeps s (roundOpen s p) := gives fun h => by simp [roundOpen, h]

@[simp] theorem secureAt_canon (s) : Keeps s (secureAt s) := gives fun h => by unfold secureAt; split <;> simp [h]

@[simp] theorem snapAt_canon (s) : Keeps s (snapAt s) := gives fun h => by simp [snapAt, h]

@[simp] theorem stepCommit_canon (s) : Keeps s (stepCommit s) := gives fun h => by simp [stepCommit, h]

@[simp] theorem jobEnds_canon (s) : Keeps s (jobEnds s) := gives fun h => by simp +contextual [jobEnds, h]

@[simp] theorem haltCopy_canon (core s q) : Keeps s (haltCopy core s q) := gives fun h => by simp [haltCopy, h]

@[simp] theorem haltLcu_canon (s core) : Keeps s (haltLcu s core) := gives fun h => by
  unfold haltLcu
  extract_lets s1 c s2 s3 s4 s5 s6
  have h3 : Canon s3 := by simp +contextual [s3, s2, s1, h]
  have h4 : Canon s4 := List.foldlRecOn _ _ h3 fun t ht a _ => by split <;> simp [ht]
  simp +contextual [s6, s5, h4]

@[simp] theorem haltCe_canon (s k) : Keeps s (haltCe s k) := gives fun h => by simp [haltCe, h]

@[simp] theorem keepPlace_canon (s c) : CoreKeeps c (keepPlace s c) := gives fun h => by simp [keepPlace, h]

@[simp] theorem haltDone_canon (s) : Keeps s (haltDone s) := gives fun h => by unfold haltDone; split <;> simp +contextual [h]

@[simp] theorem faultEnd_canon (s) : Keeps s (faultEnd s) := gives fun h => by simp +contextual [faultEnd, h]

@[simp] theorem relayOwn_canon (s kind body) : Keeps s (relayOwn s kind body) := gives fun h => by simp [relayOwn, h]

/-! ### What the functions of `JobRun` keep -/

@[simp] theorem writeHeader_canon (s h) : Keeps s (writeHeader s h) := gives fun h => by simp +contextual [writeHeader, h]

@[simp] theorem coreStart_canon (s c) : CoreKeeps c (coreStart s c) := gives fun h => by simp [coreStart, h]

@[simp] theorem streamInit_canon (s) : Keeps s (streamInit s) := gives fun h => by simp [streamInit, CoresCanon, h]

@[simp] theorem seqStart_canon (s) : Keeps s (seqStart s) := gives fun h => by simp [seqStart, h]

@[simp] theorem haltAsk_canon (s) : Keeps s (haltAsk s) := gives fun h => by simp [haltAsk, h]

@[simp] theorem haltLate_canon (s core) : Keeps s (haltLate s core) := gives fun h => by simp [haltLate, h]

@[simp] theorem relaunch_canon (c o) : CoreKeeps c (relaunch c o) := gives fun h => by simp [relaunch, h]

@[simp] theorem coreResume_canon (c) : CoreKeeps c (coreResume c) := gives fun h => by simp [coreResume, h]

@[simp] theorem seqResumes_canon (s) : Keeps s (seqResumes s) := gives fun h => by simp [seqResumes, h]

@[simp] theorem toLead_canon (s kind body here) : Gives Canon (Canon s ∧ Canon (here s)) (toLead s kind body here) := gives fun ⟨h, hhere⟩ => by
  unfold toLead
  split <;> simp [h, hhere]

@[simp] theorem relayFrom_canon (s origin kind body) : Keeps s (relayFrom s origin kind body) := gives fun h => by simp [relayFrom, h]

@[simp] theorem goHere_canon (s) : Keeps s (goHere s) := gives fun h => by unfold goHere; split <;> simp [h]

@[simp] theorem abortHere_canon (s) : Keeps s (abortHere s) := gives fun h => by simp [abortHere, h]

@[simp] theorem permitHere_canon (s p answer) : Gives Canon (Canon s ∧ ∀ t a, Canon t → Canon (answer t a)) (permitHere s p answer) :=
  gives fun ⟨h, ha⟩ => by simp [permitHere, h, ha]

@[simp] theorem permitSend_canon (s p) : Keeps s (permitSend s p) := gives fun h => by simp +contextual [permitSend, h]

@[simp] theorem leadGo_canon (s) : Keeps s (leadGo s) := gives fun h => by simp [leadGo, h]

@[simp] theorem readyTake_canon (s src) : Keeps s (readyTake s src) := gives fun h => by simp [readyTake, h]

@[simp] theorem windowEnds_canon (s) : Keeps s (windowEnds s) := gives fun h => by simp [windowEnds, h]

@[simp] theorem quiesceHere_canon (s) : Keeps s (quiesceHere s) := gives fun h => by simp [quiesceHere, h]

@[simp] theorem drainCheck_canon (s) : Keeps s (drainCheck s) := gives fun h => by simp [drainCheck, h]

@[simp] theorem drainedSend_canon (s) : Keeps s (drainedSend s) := gives fun h => by simp [drainedSend, h]

@[simp] theorem drainNote_canon (s) : Keeps s (drainNote s) := gives fun h => by simp [drainNote, h]

@[simp] theorem drainedTake_canon (s src sent recv) : Keeps s (drainedTake s src sent recv) := gives fun h => by simp [drainedTake, h]

@[simp] theorem preemptHere_canon (s) : Keeps s (preemptHere s) := gives fun h => by unfold preemptHere; split <;> simp [h]

@[simp] theorem rewriteJob_canon (s) : Keeps s (rewriteJob s) := gives fun h => by simp [rewriteJob, h]

@[simp] theorem restoredTake_canon (s src) : Keeps s (restoredTake s src) := gives fun h => by simp [restoredTake, h]

@[simp] theorem restoreHere_canon (s) : Keeps s (restoreHere s) := gives fun h => by simp [restoreHere, h]

/-! ### What the functions of `FailRun` keep -/

@[simp] theorem beatSend_canon (s) : Keeps s (beatSend s) := gives fun h => by
  unfold beatSend
  repeat' split
  all_goals simp [h]

@[simp] theorem beatTake_canon (s src) : Keeps s (beatTake s src) := gives fun h => by simp [beatTake, h]

@[simp] theorem planHere_canon (s p) : Keeps s (planHere s p) := gives fun h => by
  simp only [planHere]
  repeat' split
  all_goals simp [h]

@[simp] theorem planTake_canon (s src body p) : Keeps s (planTake s src body p) := gives fun h => by simp [planTake, h]

@[simp] theorem planCheck_canon (s) : Keeps s (planCheck s) := gives fun h => by
  unfold planCheck
  repeat' split
  all_goals simp [h]

@[simp] theorem reportTake_canon (s src view counter) : Keeps s (reportTake s src view counter) := gives fun h => by simp [reportTake, h]

@[simp] theorem reportSend_canon (s) : Keeps s (reportSend s) := gives fun h => by simp [reportSend, h]

@[simp] theorem leadMoved_canon (s) : Keeps s (leadMoved s) := gives fun h => by
  simp only [leadMoved]
  repeat' split
  all_goals simp [h]

@[simp] theorem genLearn_canon (s) : Keeps s (genLearn s) := gives fun h => by unfold genLearn; split <;> simp [h]

@[simp] theorem noticeRelay_canon (s n) : Keeps s (noticeRelay s n) := gives fun h => by simp [noticeRelay, h]

@[simp] theorem planVoid_canon (s) : Keeps s (planVoid s) := gives fun h => by simp [planVoid, h]

@[simp] theorem noticeHalt_canon (s) : Keeps s (noticeHalt s) := gives fun h => by unfold noticeHalt; split <;> simp [h]

@[simp] theorem roundDrop_canon (s) : Keeps s (roundDrop s) := gives fun h => by simp [roundDrop, h]

@[simp] theorem noticeFirst_canon (s n) : Keeps s (noticeFirst s n) := gives fun h => by simp [noticeFirst, h]

@[simp] theorem noticeEnd_canon (s n) : Keeps s (noticeEnd s n) := gives fun h => by
  simp only [noticeEnd]
  repeat' split
  all_goals simp [h]

@[simp] theorem noticeTake_canon (s n) : Keeps s (noticeTake s n) := gives fun h => by simp [noticeTake, h]

@[simp] theorem noticeMake_canon (s d cause) : Keeps s (noticeMake s d cause) := gives fun h => by simp [noticeMake, h]

@[simp] theorem beatLost_canon (s) : Keeps s (beatLost s) := gives fun h => by
  unfold beatLost
  repeat' split
  all_goals simp [h]

@[simp] theorem noticeAgain_canon (s) : Keeps s (noticeAgain s) := gives fun h => by simp [noticeAgain, h]

@[simp] theorem reportLost_canon (s d) : Keeps s (reportLost s d) := gives fun h => by simp [reportLost, h]

@[simp] theorem restoreEnds_canon (s) : Keeps s (restoreEnds s) := gives fun h => by unfold restoreEnds; split <;> simp [h]

@[simp] theorem roundNext_canon (s at_ f) : Gives Canon (Canon s ∧ ∀ p, Canon (f s p)) (roundNext s at_ f) := gives fun ⟨h, hf⟩ => by
  unfold roundNext
  split <;> simp [h, hf]

@[simp] theorem roundCopy_canon (s) : Keeps s (roundCopy s) := gives fun h => by simp +contextual [roundCopy, h]

@[simp] theorem roundClose_canon (s) : Keeps s (roundClose s) := gives fun h => by simp +contextual [roundClose, h]

@[simp] theorem genCheck_canon (s) : Keeps s (genCheck s) := gives fun h => by unfold genCheck; split <;> simp [h]

@[simp] theorem genTake_canon (s gen a) : Keeps s (genTake s gen a) := gives fun h => by unfold genTake; split <;> simp [h]

@[simp] theorem answerSend_canon (s gen a) : Keeps s (answerSend s gen a) := gives fun h => by
  simp only [answerSend]
  repeat' split
  all_goals simp [h]

@[simp] theorem roundEnd_canon (s) : Keeps s (roundEnd s) := gives fun h => by simp +contextual [roundEnd, h]

@[simp] theorem permitTake_canon (s p) : Keeps s (permitTake s p) := gives fun h => by simp [permitTake, h]

@[simp] theorem afterDrain_canon (s) : Keeps s (afterDrain s) := gives fun h => by
  unfold afterDrain
  repeat' split
  all_goals simp [h]

@[simp] theorem haltDrained_canon (s) : Keeps s (haltDrained s) := gives fun h => by
  unfold haltDrained
  repeat' split
  all_goals simp [h]

/-! ### What the functions of `TimeRun` keep -/

@[simp] theorem syncTo_canon (s st) : Keeps s (syncTo s st) := gives fun h => by simp [syncTo, h]

@[simp] theorem parentUpdate_canon (s) : Keeps s (parentUpdate s) := gives fun h => by simp [parentUpdate, h]

@[simp] theorem laterRecord_canon (s source code payload) : Keeps s (laterRecord s source code payload) := gives fun h => by simp [laterRecord, h]

@[simp] theorem timeEvent_canon (s code) : Keeps s (timeEvent s code) := gives fun h => by simp [timeEvent, h]

@[simp] theorem holdoverEnds_canon (s) : Keeps s (holdoverEnds s) := gives fun h => by simp [holdoverEnds, h]

@[simp] theorem readyCheck_canon (s) : Keeps s (readyCheck s) := gives fun h => by simp [readyCheck, h]

@[simp] theorem lockReached_canon (s) : Keeps s (lockReached s) := gives fun h => by simp [lockReached, h]

@[simp] theorem timeStep_canon (s d) : Keeps s (timeStep s d) := gives fun h => by simp [timeStep, h]

@[simp] theorem syncAsk_canon (s) : Keeps s (syncAsk s) := gives fun h => by simp [syncAsk, h]

@[simp] theorem syncAnswer_canon (s via child t1 t2) : Keeps s (syncAnswer s via child t1 t2) := gives fun h => by simp [syncAnswer, h]

@[simp] theorem syncTake_canon (s link t1 t2 t3 t4) : Keeps s (syncTake s link t1 t2 t3 t4) := gives fun h => by simp [syncTake, h]

@[simp] theorem rootSet_canon (s) : Keeps s (rootSet s) := gives fun h => by simp [rootSet, h]

@[simp] theorem rootTrim_canon (s) : Keeps s (rootTrim s) := gives fun h => by simp [rootTrim, h]

@[simp] theorem ppsStamp_canon (s) : Keeps s (ppsStamp s) := gives fun h => by simp [ppsStamp, h]

@[simp] theorem ppsEdge_canon (s) : Keeps s (ppsEdge s) := gives fun h => by simp [ppsEdge, h]

@[simp] theorem ppsLost_canon (s) : Keeps s (ppsLost s) := gives fun h => by simp [ppsLost, h]

@[simp] theorem timSnap_canon (s) : Keeps s (timSnap s) := gives fun h => by simp [timSnap, h]

/-! ### What the functions of `PktRun` keep -/

@[simp] theorem setRx_canon (s p r) : Keeps s (setRx s p r) := gives fun h => by simp [setRx, h]

@[simp] theorem rxLand_canon (s p bytes g) : Keeps s (rxLand s p bytes g) := gives fun h => by simp [rxLand, h]

@[simp] theorem rxErr_canon (s p code) : Keeps s (rxErr s p code) := gives fun h => by simp [rxErr, h]

@[simp] theorem rxAgain_canon (s p) : Keeps s (rxAgain s p) := gives fun h => by simp [rxAgain, h]

@[simp] theorem rxNack_canon (s p) : Keeps s (rxNack s p) := gives fun h => by simp [rxNack, h]

@[simp] theorem landRefuse_canon (s link p write place) : Keeps s (landRefuse s link p write place) :=
  gives fun h => by unfold landRefuse; split <;> simp [h]

@[simp] theorem takeWr_canon (s link p) : Keeps s (takeWr s link p) := gives fun h => by
  simp only [takeWr]
  repeat' split
  all_goals simp [h]

@[simp] theorem sendRsp_canon (s0 p) : Keeps s0 (sendRsp s0 p) := gives fun h => by simp [sendRsp, h]

@[simp] theorem serveAsk_canon (s r) : Keeps s (serveAsk s r) := gives fun h => by unfold serveAsk; split <;> simp [h]

@[simp] theorem serveReads_canon (s) : Keeps s (serveReads s) := gives fun h => by simp [serveReads, h]

@[simp] theorem serveSettle_canon (s) : Keeps s (serveSettle s) := gives fun h => by simp [serveSettle, h]

@[simp] theorem takeReq_canon (s link p) : Keeps s (takeReq s link p) := gives fun h => by unfold takeReq; split <;> simp [h]

@[simp] theorem takeSig_canon (s link p) : Keeps s (takeSig s link p) := gives fun h => by simp [takeSig, h]

@[simp] theorem takeNumbered_canon (s link p) : Keeps s (takeNumbered s link p) := gives fun h => by simp [takeNumbered, h]

@[simp] theorem takeRsp_canon (s p) : Keeps s (takeRsp s p) := gives fun h => by
  unfold takeRsp
  repeat' split
  all_goals simp [h]

@[simp] theorem takeAckc_canon (s p) : Keeps s (takeAckc s p) := gives fun h => by simp [takeAckc, h]

@[simp] theorem takeNack_canon (s p) : Keeps s (takeNack s p) := gives fun h => by simp [takeNack, h]

@[simp] theorem takeErr_canon (s p) : Keeps s (takeErr s p) := gives fun h => by
  simp only [takeErr]
  repeat' split
  all_goals simp [h]

@[simp] theorem takeAnswer_canon (s p) : Keeps s (takeAnswer s p) := gives fun h => by unfold takeAnswer; split <;> simp [h]

@[simp] theorem pktTake_canon (s link p) : Keeps s (pktTake s link p) := gives fun h => by
  unfold pktTake
  repeat' split
  all_goals simp [h]

@[simp] theorem pktSettle_canon (old s) : Keeps s (pktSettle old s) := gives fun h => by simp [pktSettle, h]

@[simp] theorem pktArrive_canon (s link p) : Keeps s (pktArrive s link p) := gives fun h => by simp [pktArrive, h]

@[simp] theorem sigLinks_canon (a s) : Keeps s (sigLinks a s) := by
  induction a generalizing s with
  | zero => exact keeps_refl _
  | succ n ih =>
    refine gives fun h => ?_
    unfold sigLinks
    repeat' split
    all_goals simp [ih, h]

@[simp] theorem resendDue_canon (s dst ctx) : Keeps s (resendDue s dst ctx) := gives fun h => by
  simp only [resendDue]
  repeat' split
  all_goals simp [h]

@[simp] theorem nackDue_canon (s dst ctx) : Keeps s (nackDue s dst ctx) := gives fun h => by
  simp only [nackDue]
  repeat' split
  all_goals simp [h]

/-! ### What the functions of `LinkRun` keep -/

@[simp] theorem takeRendezvous_canon (s b) : Keeps s (takeRendezvous s b) := gives fun h => by unfold takeRendezvous; split <;> simp [h]

@[simp] theorem takeDetector_canon (s b) : Keeps s (takeDetector s b) := gives fun h => by unfold takeDetector; split <;> simp [h]

@[simp] theorem takeSync_canon (s m) : Keeps s (takeSync s m) := gives fun h => by
  simp only [takeSync]
  repeat' split
  all_goals simp [h]

@[simp] theorem takeControl_canon (s b) : Keeps s (takeControl s b) := gives fun h => by unfold takeControl; split <;> simp [h]

@[simp] theorem tc0Deliver_canon (s m) : Keeps s (tc0Deliver s m) := gives fun h => by unfold tc0Deliver; split <;> simp [h]

@[simp] theorem tc0Flush_canon (src a s) : Keeps s (tc0Flush src a s) := by
  induction a generalizing s with
  | zero => exact keeps_refl s
  | succ n ih => exact gives fun h => by unfold tc0Flush; split <;> simp [ih, h]

@[simp] theorem tc0Take_canon (s m) : Keeps s (tc0Take s m) := gives fun h => by simp [tc0Take, h]

@[simp] theorem formEvent_canon (s k) : Keeps s (formEvent s k) := gives fun h => by simp [formEvent, h]

@[simp] theorem tc0Arrive_canon (s k m hops phase) : Keeps s (tc0Arrive s k m hops phase) := gives fun h => by simp [tc0Arrive, h]

@[simp] theorem tc0Gap_canon (s src) : Keeps s (tc0Gap s src) := gives fun h => by
  simp only [tc0Gap]
  repeat' split
  all_goals simp [h]

@[simp] theorem tc0Release_canon (s) : Keeps s (tc0Release s) := gives fun h => by unfold tc0Release; split <;> simp [h]

@[simp] theorem linkSend_canon (s k) : Keeps s (linkSend s k) := gives fun h => by
  simp only [linkSend]
  repeat' split
  all_goals simp [h]

@[simp] theorem linkAck_canon (s k n) : Keeps s (linkAck s k n) := gives fun h => by simp [linkAck, h]

@[simp] theorem retrain_canon (s k) : Keeps s (retrain s k) := gives fun h => by simp [retrain, h]

@[simp] theorem linkNak_canon (s k n) : Keeps s (linkNak s k n) := gives fun h => by simp [linkNak, h]

@[simp] theorem linkCredit_canon (s k raw) : Keeps s (linkCredit s k raw) := gives fun h => by simp [linkCredit, h]

@[simp] theorem linkAckWord_canon (s k raw) : Keeps s (linkAckWord s k raw) := gives fun h => by simp [linkAckWord, h]

@[simp] theorem retAdd_canon (s k lane n) : Keeps s (retAdd s k lane n) := gives fun h => by simp [retAdd, h]

@[simp] theorem linkPayload_canon (s k raw) : Keeps s (linkPayload s k raw) := gives fun h => by simp [linkPayload, h]

@[simp] theorem uncorrTake_canon (s k) : Keeps s (uncorrTake s k) := gives fun h => by simp [uncorrTake, h]

@[simp] theorem fecCount_canon (s k fec) : Keeps s (fecCount s k fec) := gives fun h => by unfold fecCount; split <;> simp [h]

@[simp] theorem nakDue_canon (s k) : Keeps s (nakDue s k) := gives fun h => by simp [nakDue, h]

@[simp] theorem gapTake_canon (s k n) : Keeps s (gapTake s k n) := gives fun h => by simp [gapTake, h]

@[simp] theorem failTake_canon (s k raw) : Keeps s (failTake s k raw) := gives fun h => by simp [failTake, h]

@[simp] theorem linkIdle_canon (s k raw) : Keeps s (linkIdle s k raw) := gives fun h => by simp [linkIdle, h]

@[simp] theorem linkData_canon (s k fec raw) : Keeps s (linkData s k fec raw) := gives fun h => by simp [linkData, h]

@[simp] theorem linkIdleFlit_canon (s k fec raw) : Keeps s (linkIdleFlit s k fec raw) := gives fun h => by simp [linkIdleFlit, h]

@[simp] theorem reinject_canon (a s) : Keeps s (reinject a s) := by
  induction a generalizing s with
  | nil => exact keeps_refl _
  | cons x l ih => exact gives fun h => by simp [reinject, ih, h]

@[simp] theorem linkFail_canon (s k cls code) : Keeps s (linkFail s k cls code) := gives fun h => by simp [linkFail, h]

@[simp] theorem trainEnd_canon (s k ok) : Keeps s (trainEnd s k ok) := gives fun h => by simp [trainEnd, h]

@[simp] theorem helloTake_canon (s k dev index fpl sfl mll feed) : Keeps s (helloTake s k dev index fpl sfl mll feed) :=
  gives fun h => by simp [helloTake, h]

@[simp] theorem laneSick_canon (s k lane) : Keeps s (laneSick s k lane) := gives fun h => by unfold laneSick; split <;> simp [h]

@[simp] theorem retrainEnds_canon (s k) : Keeps s (retrainEnds s k) := gives fun h => by simp [retrainEnds, h]

@[simp] theorem retrainLate_canon (s k) : Keeps s (retrainLate s k) := gives fun h => by simp [retrainLate, h]

/-! ### What the functions of `WipeRun` keep -/

@[simp] theorem sanitEnds_canon (s k ok) : Keeps s (sanitEnds s k ok) := gives fun h => by unfold sanitEnds; split <;> simp [h]

@[simp] theorem mllLoad_canon (s sigOk) : Keeps s (mllLoad s sigOk) := gives fun h => by simp [mllLoad, h]

@[simp] theorem wipeAfter_canon (s why) : Keeps s (wipeAfter s why) := gives fun h => by unfold wipeAfter; split <;> simp [h]

@[simp] theorem wipeFailed_canon (s) : Keeps s (wipeFailed s) := gives fun h => by simp [wipeFailed, h]

@[simp] theorem wipeDone_canon (s w us mllOk) : Keeps s (wipeDone s w us mllOk) := gives fun h => by simp [wipeDone, h]

@[simp] theorem wipeEnds_canon (s fails us mllOk) : Keeps s (wipeEnds s fails us mllOk) := gives fun h => by unfold wipeEnds; split <;> simp [h]

@[simp] theorem holdEnds_canon (s) : Keeps s (holdEnds s) := gives fun h => by simp [holdEnds, h]

/-! ### What the functions of `SecRun` keep -/

@[simp] theorem secNonce_canon (s) : Keeps s (secNonce s) := gives fun h => by simp [secNonce, h]

@[simp] theorem moveGo_canon (s) : Keeps s (moveGo s) := gives fun h => by simp [moveGo, h]

@[simp] theorem moveJob_canon (s) : Keeps s (moveJob s) := gives fun h => by
  simp only [moveJob]
  repeat' split
  all_goals simp [h]

@[simp] theorem moveStart_canon (s m) : Keeps s (moveStart s m) := gives fun h => by unfold moveStart; split <;> simp [h]

@[simp] theorem secRefuse_canon (s typ r) : Keeps s (secRefuse s typ r) := gives fun h => by simp [secRefuse, h]

@[simp] theorem secTry_canon (s d sigOk) : Keeps s (secTry s d sigOk).1 := gives fun h => by unfold secTry; split <;> simp [h]

@[simp] theorem secAccept_canon (s typ key) : Keeps s (secAccept s typ key) := gives fun h => by unfold secAccept; split <;> simp [h]

@[simp] theorem relockAsk_canon (s) : Keeps s (relockAsk s) := gives fun h => by simp [relockAsk, h]

@[simp] theorem provisionStart_canon (s) : Keeps s (provisionStart s) := gives fun h => by simp [provisionStart, h]

@[simp] theorem provisionCert_canon (s) : Keeps s (provisionCert s) := gives fun h => by simp [provisionCert, h]

/-! ### What the functions of `CfgRun` keep -/

@[simp] theorem cfgRead_canon (s sigOk) : Keeps s (cfgRead s sigOk).1 := gives fun h => by
  simp only [cfgRead]
  repeat' split
  all_goals simp [h]

@[simp] theorem cfgFabric_canon (s) : Keeps s (cfgFabric s) := gives fun h => by simp +contextual [cfgFabric, h]

@[simp] theorem feedOne_canon (s d tag strict pos) : Keeps s (feedOne s d tag strict pos) := gives fun h => by
  simp only [feedOne]
  repeat' split
  all_goals simp [h]

@[simp] theorem feedCheck_canon (s) : Keeps s (feedCheck s) := gives fun h => by
  simp only [feedCheck]
  repeat' split
  all_goals simp [h]

/-! ### What the functions of `BootRun` keep -/

@[simp] theorem coldReset_canon (s) : Keeps s (coldReset s) := gives fun h => by simp [coldReset, Dbg.init, h]

@[simp] theorem powerLost_canon (s) : Keeps s (powerLost s) := gives fun h => by simp [powerLost, h]

@[simp] theorem stageTo_canon (s n) : Keeps s (stageTo s n) := gives fun h => by simp [stageTo, h]

@[simp] theorem bootStop_canon (s source code payload) : Keeps s (bootStop s source code payload) := gives fun h => by simp [bootStop, h]

@[simp] theorem romRejects_canon (s rs) : Keeps s (romRejects s rs) := gives fun h => by simp [romRejects, h]

@[simp] theorem romRecovery_canon (s rs) : Keeps s (romRecovery s rs) := gives fun h => by
  unfold romRecovery
  extract_lets s0 s1
  have hs1 : Canon s1 := by simp [s1, s0, h]
  simp [hs1]

@[simp] theorem bootImage_canon (s i o) : Keeps s (bootImage s i o) := gives fun h => by simp [bootImage, h]

@[simp] theorem romRecords_canon (s) : Keeps s (romRecords s) := gives fun h => by simp [romRecords, h]

@[simp] theorem bootLedger_canon (s rs) : Keeps s (bootLedger s rs) := gives fun h => by simp [bootLedger, h]

@[simp] theorem bootTest_canon (s o) : Keeps s (bootTest s o) := gives fun h => by
  unfold bootTest
  repeat' split
  all_goals simp [h]

@[simp] theorem bootPort_canon (o s k) : Keeps s (bootPort o s k) := gives fun h => by unfold bootPort; split <;> simp [h]

@[simp] theorem bootLinks_canon (s o) : Keeps s (bootLinks s o) := gives fun h => by simp [bootLinks, h]

@[simp] theorem bootWipe_canon (s o) : Keeps s (bootWipe s o) := gives fun h => by simp [bootWipe, h]

@[simp] theorem causeSet_canon (s cause resets) : Keeps s (causeSet s cause resets) := gives fun h => by simp [causeSet, h]

@[simp] theorem flushAll_canon (s) : Keeps s (flushAll s) := gives fun h => by simp [flushAll, h]

@[simp] theorem resetDown_canon (s cause) : Keeps s (resetDown s cause) := gives fun h => by simp [resetDown, h]

@[simp] theorem resetLow_canon (s) : Keeps s (resetLow s) := gives fun h => by
  simp only [resetLow]
  repeat' split
  all_goals simp [h]

@[simp] theorem cxlLate_canon (s k) : Keeps s (cxlLate s k) := gives fun h => by simp [cxlLate, h]

@[simp] theorem wdogKick_canon (s) : Keeps s (wdogKick s) := gives fun h => by simp [wdogKick, h]

/-! ### What the functions of `LoadRun` keep -/

@[simp] theorem putParts_canon (s addr ps) : Keeps s (putParts s addr ps) := gives fun h => by simp +contextual [putParts, h]

@[simp] theorem takeImage_canon (s addr h) : Keeps s (takeImage s addr h) := gives fun h => by simp [takeImage, h]

@[simp] theorem loadImageFile_canon (s addr h) : Keeps s (loadImageFile s addr h) := gives fun h => by simp [loadImageFile, h]

@[simp] theorem restartWipe_canon (s) : Keeps s (restartWipe s) := gives fun h => by simp [restartWipe, h]

@[simp] theorem restartImageFile_canon (s addr b h) : Keeps s (restartImageFile s addr b h) := gives fun h => by simp [restartImageFile, h]

/-! ### What the functions of `HostRun` keep -/

@[simp] theorem setQ_canon (s n q) : Keeps s (setQ s n q) := gives fun h => by simp [setQ, h]

@[simp] theorem queueErr_canon (s n reason) : Keeps s (queueErr s n reason) := gives fun h => by simp [queueErr, h]

@[simp] theorem sqTail_canon (s n tail readError) : Keeps s (sqTail s n tail readError) := gives fun h => by simp [sqTail, h]

@[simp] theorem cqHead_canon (s n head) : Keeps s (cqHead s n head) := gives fun h => by simp [cqHead, h]

@[simp] theorem queueOff_canon (s n) : Keeps s (queueOff s n) := gives fun h => by simp [queueOff, h]

@[simp] theorem qcfg_canon (s n b a en) : Keeps s (qcfg s n b a en) := gives fun h => by simp [qcfg, h]

theorem hostTake_canon {s n op cid t} (ht : hostTake s n op cid = some t) (h : Canon s) : Canon t := by
  simp only [hostTake] at ht
  split at ht
  · cases ht
  · simp [← Option.some.inj ht, h]

/-- A host command keeps the form where its own effect does. -/
@[simp] theorem hostRun_canon (s n op cid ps inState form full f) :
    Gives Canon (Canon s ∧ ∀ t, Canon t → Canon (f t)) (hostRun s n op cid ps inState form full f) := gives fun ⟨h, hf⟩ => by
  unfold hostRun
  split
  · exact h
  · next htake => simp [hf, hostTake_canon htake h, h]

@[simp] theorem hostRefuse_canon (s n cid code payload) : Keeps s (hostRefuse s n cid code payload) := gives fun h => by simp [hostRefuse, h]

@[simp] theorem loadCmd_canon (s n cid addr len hf) : Keeps s (loadCmd s n cid addr len hf) := gives fun h => by
  refine (hostRun_canon ..).mpr (.inl ⟨h, fun t ht => ?_⟩)
  dsimp only
  repeat' split
  all_goals simp [ht]

@[simp] theorem startCmd_canon (s n cid) : Keeps s (startCmd s n cid) := gives fun h => by simp +contextual [startCmd, h]

@[simp] theorem preemptCmd_canon (s n cid) : Keeps s (preemptCmd s n cid) := gives fun h => by simp +contextual [preemptCmd, h]

@[simp] theorem resumeCmd_canon (s n cid) : Keeps s (resumeCmd s n cid) := gives fun h => by simp +contextual [resumeCmd, h]

@[simp] theorem unloadCmd_canon (s n cid) : Keeps s (unloadCmd s n cid) := gives fun h => by simp +contextual [unloadCmd, h]

@[simp] theorem restartCmd_canon (s n cid addr len b hf) : Keeps s (restartCmd s n cid addr len b hf) := gives fun h => by
  refine (hostRun_canon ..).mpr (.inl ⟨h, fun t ht => ?_⟩)
  dsimp only
  repeat' split
  all_goals simp [ht]

@[simp] theorem snapshotCmd_canon (s n cid t k) : Keeps s (snapshotCmd s n cid t k) := gives fun h => by simp +contextual [snapshotCmd, h]

@[simp] theorem wipeOndieCmd_canon (s n cid) : Keeps s (wipeOndieCmd s n cid) := gives fun h => by simp +contextual [wipeOndieCmd, h]

@[simp] theorem ledgerReadCmd_canon (s n cid seq epoch count buf hf) : Keeps s (ledgerReadCmd s n cid seq epoch count buf hf) :=
  gives fun h => by simp +contextual [ledgerReadCmd, h]

@[simp] theorem ledgerFreezeCmd_canon (s n cid ms unfreeze) : Keeps s (ledgerFreezeCmd s n cid ms unfreeze) :=
  gives fun h => by simp +contextual [ledgerFreezeCmd, h]

@[simp] theorem hostAnswer_canon (s n cid code r) : Keeps s (hostAnswer s n cid code r) := gives fun h => by unfold hostAnswer; split <;> simp [h]

@[simp] theorem ledgerClearCmd_canon (s n cid addr sigOk hf) : Keeps s (ledgerClearCmd s n cid addr sigOk hf) :=
  gives fun h => by simp +contextual [ledgerClearCmd, h]

@[simp] theorem securityCmd_canon (s n cid addr len sigOk hf) : Keeps s (securityCmd s n cid addr len sigOk hf) :=
  gives fun h => by simp +contextual [securityCmd, h]

@[simp] theorem attestCmd_canon (s n cid nonce buf hf) : Keeps s (attestCmd s n cid nonce buf hf) := gives fun h => by simp +contextual [attestCmd, h]

@[simp] theorem flashWriteCmd_canon (s n cid region addr len hf) : Keeps s (flashWriteCmd s n cid region addr len hf) := gives fun h => by
  refine (hostRun_canon ..).mpr (.inl ⟨h, fun t ht => ?_⟩)
  split <;> simp [ht]

@[simp] theorem relockCmd_canon (s n cid) : Keeps s (relockCmd s n cid) := gives fun h => by simp +contextual [relockCmd, h]

@[simp] theorem hostWindowFails_canon (s) : Keeps s (hostWindowFails s) := gives fun h => by simp [hostWindowFails, h]

@[simp] theorem hostDown_canon (s cause) : Keeps s (hostDown s cause) := gives fun h => by simp +contextual [hostDown, h]

/-! ### What the functions of `PowerRun` keep -/

@[simp] theorem thermHigh_canon (s tj) : Keeps s (thermHigh s tj) := gives fun h => by simp +contextual [thermHigh, h]

@[simp] theorem paceNote_canon (s old new p1ms) : Keeps s (paceNote s old new p1ms) := gives fun h => by simp [paceNote, h]

@[simp] theorem powerTick_canon (s p10 p1ms mw tj volts rate) : Keeps s (powerTick s p10 p1ms mw tj volts rate) :=
  gives fun h => by simp [powerTick, h]

@[simp] theorem energyAdd_canon (s uj) : Keeps s (energyAdd s uj) := gives fun h => by simp [energyAdd, h]

@[simp] theorem railGone_canon (s) : Keeps s (railGone s) := gives fun h => by simp [railGone, h]

@[simp] theorem overtemp_canon (s degrees) : Keeps s (overtemp s degrees) := gives fun h => by simp [overtemp, h]

@[simp] theorem tripLate_canon (s) : Keeps s (tripLate s) := gives fun h => by simp [tripLate, h]

@[simp] theorem railOff_canon (s) : Keeps s (railOff s) := gives fun h => by simp [railOff, h]

@[simp] theorem powerGone_canon (s) : Keeps s (powerGone s) := gives fun h => by simp [powerGone, h]

@[simp] theorem failWrite_canon (s) : Keeps s (failWrite s) := gives fun h => by simp [failWrite, h]

@[simp] theorem failFlush_canon (s) : Keeps s (failFlush s) := gives fun h => by simp [failFlush, h]

@[simp] theorem powerGate_canon (s) : Keeps s (powerGate s) := gives fun h => by simp [powerGate, Dbg.init, h]

@[simp] theorem powerFail_canon (s mv) : Keeps s (powerFail s mv) := gives fun h => by simp [powerFail, h]

@[simp] theorem failEnd_canon (s verifies) : Keeps s (failEnd s verifies) := gives fun h => by simp [failEnd, h]

@[simp] theorem flushComplete_canon (s verifies) : Keeps s (flushComplete s verifies) := gives fun h => by simp [flushComplete, h]

/-! ### What the functions of `RegMap` keep -/

@[simp] theorem seqCtrl_canon (s v) : Keeps s (seqCtrl s v) := gives fun h => by unfold seqCtrl; split <;> simp [h]

@[simp] theorem hostQWrite_canon (s n off v) : Keeps s (hostQWrite s n off v) := gives fun h => by simp [hostQWrite, h]

/-! ### What the functions of `DebugRun` keep -/

@[simp] theorem tapOn_canon (s t) : Gives Canon (Canon s ∧ Canon t) (tapOn s t) := gives fun ⟨h, ht⟩ => by simp [tapOn, h, ht]

@[simp] theorem tapIr_canon (s ir) : Keeps s (tapIr s ir) := gives fun h => by simp [tapIr, h]

@[simp] theorem dapResult_canon (s status code data) : Keeps s (dapResult s status code data) := gives fun h => by simp [dapResult, h]

@[simp] theorem dapRefuse_canon (s a reason) : Keeps s (dapRefuse s a reason) := gives fun h => by simp [dapRefuse, h]

@[simp] theorem dapSession_canon (s) : Keeps s (dapSession s) := gives fun h => by simp [dapSession, h]

/-- A transaction of the debug port keeps the form where its own effect does. -/
@[simp] theorem dapTry_canon (s a write f) : Gives Canon (Canon s ∧ ∀ t, Canon t → Canon (f t)) (dapTry s a write f) :=
  gives fun ⟨h, hf⟩ => by simp [dapTry, h, hf]

@[simp] theorem dapNote_canon (s a) : Keeps s (dapNote s a) := gives fun h => by simp [dapNote, h]

@[simp] theorem dbgHaltAsk_canon (s core) : Keeps s (dbgHaltAsk s core) := gives fun h => by simp [dbgHaltAsk, h]

@[simp] theorem dbgFree_canon (c) : CoreKeeps c (dbgFree c) := gives fun h => by simp [dbgFree, h]

@[simp] theorem dbgResume_canon (s core) : Keeps s (dbgResume s core) := gives fun h => by simp [dbgResume, h]

@[simp] theorem dbgStepAsk_canon (s core) : Keeps s (dbgStepAsk s core) := gives fun h => by simp [dbgStepAsk, h]

@[simp] theorem dbgChipHalt_canon (s) : Keeps s (dbgChipHalt s) := gives fun h => by simp [dbgChipHalt, CoresCanon, h]

@[simp] theorem dbgChipResume_canon (s) : Keeps s (dbgChipResume s) := gives fun h => by simp +contextual [dbgChipResume, h]

theorem haltWrite_canon {s v t} (ht : haltWrite s v = some t) (h : Canon s) : Canon t := by
  unfold haltWrite at ht
  split at ht
  all_goals simp only [reduceCtorEq, Option.some.injEq] at ht
  all_goals simp [← ht, h]

@[simp] theorem mres_canon (s status code) : Keeps s (mres s status code) := gives fun h => by simp [mres, h]

@[simp] theorem mboxSec_canon (s len sigOk) : Keeps s (mboxSec s len sigOk) := gives fun h => by
  have htry : Canon (secTry s (mboxBytes s len) sigOk).1 := by simp [h]
  unfold mboxSec
  split
  · simp [h]
  · split <;> simp_all

@[simp] theorem mboxClear_canon (s len sigOk) : Keeps s (mboxClear s len sigOk) := gives fun h => by
  have htry : Canon (clearTry s (mboxBytes s len) sigOk).1 := by simp [h]
  unfold mboxClear
  split
  · simp [h]
  · split
    · simp [h]
    · split <;> simp_all

@[simp] theorem mboxFlash_canon (s region off len) : Keeps s (mboxFlash s region off len) := gives fun h => by
  unfold mboxFlash
  repeat' split
  all_goals simp [h]

@[simp] theorem mboxProv_canon (s) : Keeps s (mboxProv s) := gives fun h => by simp [mboxProv, h]

@[simp] theorem mboxCert_canon (s len) : Keeps s (mboxCert s len) := gives fun h => by simp [mboxCert, h]

@[simp] theorem mcmdWrite_canon (s v) : Keeps s (mcmdWrite s v) := gives fun h => by
  simp only [mcmdWrite]
  repeat' split
  all_goals simp [h]

@[simp] theorem readMeets_canon (s a) : Keeps s (readMeets s a) := gives fun h => by unfold readMeets; split <;> simp [h]

@[simp] theorem readAt_canon (s0 a) : Keeps s0 (readAt s0 a) := gives fun h => by
  simp only [readAt]
  repeat' split
  all_goals simp [h]

@[simp] theorem coreStore_canon (s id off v) : Keeps s (coreStore s id off v) := gives fun h => by simp [coreStore, h]

@[simp] theorem dapReads_canon (s a) : Keeps s (dapReads s a) := gives fun h => by simp +contextual [dapReads, h]

@[simp] theorem dapActs_canon (s a f) : Gives Canon (Canon s ∧ ∀ t, Canon t → Canon (f t)) (dapActs s a f) :=
  gives fun ⟨h, hf⟩ => by simp +contextual [dapActs, h, hf]

/-! ### What the functions of `Tick` keep -/

@[simp] theorem timeAdvance_canon (s) : Keeps s (timeAdvance s) := gives fun h => by simp [timeAdvance, h]

@[simp] theorem timeCount_canon (s ns) : Keeps s (timeCount s ns) := gives fun h => by simp [timeCount, h]

@[simp] theorem tick_canon (s) : Keeps s (tick s) := gives fun h => by simp [tick, h]

/-! ### The life cycle, start-up and resets -/

@[simp] theorem moveBurn_canon (s m) : Keeps s (moveBurn s m).1 := gives fun h => by
  cases m <;> simp [moveBurn, h]

@[simp] theorem moveEnds_canon (s) : Keeps s (moveEnds s) := gives fun h => by
  unfold moveEnds
  split
  · exact h
  · split <;> simp [h]

@[simp] theorem bootEnum_canon (s o) : Keeps s (bootEnum s o) := gives fun h => by simp [bootEnum, h]

@[simp] theorem bootRest_canon (s o) : Keeps s (bootRest s o) := gives fun h => by simp [bootRest, h]

@[simp] theorem bootOn_canon (s) : Keeps s (bootOn s) := gives fun h => by unfold bootOn; split <;> simp [h]

@[simp] theorem bootRun_canon (s o) : Keeps s (bootRun s o) := gives fun h => by
  unfold bootRun
  dsimp only
  split <;> simp [h]

@[simp] theorem resetRun_canon (s cause o) : Keeps s (resetRun s cause o) := gives fun h => by simp [resetRun, h]

@[simp] theorem freeReset_canon (s cause) : Keeps s (freeReset s cause) := gives fun h => by simp [freeReset, h]

@[simp] theorem powerOn_canon (s o) : Keeps s (powerOn s o) := gives fun h => by simp [powerOn, h]

@[simp] theorem resetHigh_canon (s o) : Keeps s (resetHigh s o) := gives fun h => by simp [resetHigh, h]

@[simp] theorem powerUp_canon (s o) : Keeps s (powerUp s o) := gives fun h => by simp [powerUp, h]

@[simp] theorem watchdogEnds_canon (s o) : Keeps s (watchdogEnds s o) := gives fun h => by simp [watchdogEnds, h]

@[simp] theorem resetCmd_canon (s n cid key o) : Keeps s (resetCmd s n cid key o) := gives fun h => by simp [resetCmd, h]

/-! ### Register writes and the debug port -/

@[simp] theorem woWrite_canon (s a v) : Keeps s (woWrite s a v) := gives fun h => by
  simp only [woWrite]
  repeat' split
  all_goals simp [h]

@[simp] theorem plainWrite_canon (s a v) : Keeps s (plainWrite s a v) := gives fun h => by simp [plainWrite, h]

theorem chipWrite_canon {s a v t} (ht : chipWrite s a v = some t) (h : Canon s) : Canon t := by
  unfold chipWrite at ht
  split at ht
  · exact haltWrite_canon ht h
  · simp [← Option.some.inj ht, h]

@[simp] theorem chipWrite_getD_canon (s a v) : Keeps s ((chipWrite s a v).getD s) := gives fun h => by
  cases hw : chipWrite s a v with
  | none => exact h
  | some t => exact chipWrite_canon hw h

@[simp] theorem writeAt_canon (s a v) : Keeps s (writeAt s a v) := gives fun h => by
  simp only [writeAt]
  split
  · simp [h]
  · split
    · simp [h]
    · split
      · simp [h]
      · split
        · next hw => simp [chipWrite_canon hw (by simp [h])]
        · simp [h]
  · simp [h]
  · split <;> simp [h]

@[simp] theorem dapWrites_canon (s a v) : Keeps s (dapWrites s a v) := gives fun h => by simp [dapWrites, h]

@[simp] theorem regWrite_canon (s who a v) : Keeps s (regWrite s who a v) := gives fun h => by
  unfold regWrite
  repeat' split
  all_goals simp [h]

/-! ### Commands and steps -/

/-- A command's result: the state it leaves is canonical. -/
def OutCanon (o : Out) : Prop := ∀ t, o = .next t → Canon t

theorem outCanon_next {t} (h : Canon t) : OutCanon (.next t) := fun _ e => Host.Outcome.next.inj e ▸ h

theorem outCanon_refused (r) : OutCanon (.refused r) := fun _ e => nomatch e

theorem outCanon_onCore {s core t} (h : Canon t) : OutCanon (onCore s core t) := by
  unfold onCore
  split
  · exact outCanon_next h
  · exact outCanon_refused _

theorem outCanon_onLink {link t} (h : Canon t) : OutCanon (onLink link t) := by
  unfold onLink
  split
  · exact outCanon_next h
  · exact outCanon_refused _

theorem exec_outCanon (i : Instr) {s : State} (h : Canon s) : OutCanon (exec i s) := by
  cases i with
  | bundleIssue | mld | mswap | mmul | mmulz | mdrain | mtopk | passStart | chainCommit | operationCommit | vop | vcvt | vred | vscale | vrq | vfn |
  vsrKey | vsrDraw | vadam | tcfg | tld | tst | tmov | tzero | txp | xloc | xstr | xcol | xwatchArm | xwatchRelease | xfence | xfenceComplete | sinc |
  swait | sdec | ssig | sbar | cloop | cbr | cadd | cset | cmark | chalt | haltTimeout | lcuCopyStart | lcuCopyComplete | tornReread | lcuRetryGo |
  lcuRetryAbort => exact outCanon_onCore (by simp [h])
  | trainingAttemptEnd | hello | laneUnhealthy | retrainLock | retrainTimeout | flitSend | dataFlit | idleFlit | nak | wr | rdReq | rdRsp | sig | ack
  | ackc | nack | err | syncReq | syncRsp | neighbourRetrain => exact outCanon_onLink (by simp [h])
  | recoveryRetry isLcu =>
    cases isLcu with
    | false => exact outCanon_next (by simp [h])
    | true => exact outCanon_onCore (by simp [h])
  | dbgReset => exact outCanon_next (by simp +contextual [h])
  | _ => exact outCanon_next (by simp [h])

theorem step_canon {s t} (h : Canon s) (hstep : step s = .next t) : Canon t := by
  unfold step at hstep
  split at hstep
  · cases hstep
    simp [h]
  · next c cs _ => exact exec_outCanon c (s := { s with pending := cs }) (by simp [h]) t hstep

/-- Settles O58: every function that a step is made of gives canonical memories from canonical ones, as it changes them by the operations of the sparse
maps alone. -/
theorem memoryStaysCanonical : Obligations.MemoryStaysCanonical := fun _ _ h hstep => step_canon h hstep

/-- Settles O55: no memory lists a byte at power-up, and no core is listed. -/
theorem memoryCanonicalAtReset : Obligations.MemoryCanonicalAtReset := canon_reset

end Sys2Proof.Machine
end

section
/-! PROOFS. A controller's request whose window stands under a doubled entry of the map of windows (O36). -/

namespace Sys2Proof.Machine

/-- One read of line 0 that nothing has passed. -/
def firstRead : MReq := ⟨0, false, true, 0, 0⟩

/-- Controller 0 has a window of one request, and the map of windows holds a second entry for it, longer than a window and full of requests that
merge. No step makes such a map, but the statement admits every state. -/
def doubledWindow : State :=
  { State.reset with mem := { State.reset.mem with win := [(0, [firstRead]), (0, List.replicate 256 firstRead)] } }

/-- The one request of the first entry is the one served. -/
theorem doubledWindow_pick :
    (smGet [] doubledWindow.mem.win (0 : BitVec 4).toNat)[mcPick doubledWindow ((smGet [] doubledWindow.mem.win (0 : BitVec 4).toNat).take 256)]?
      = some firstRead := by
  decide +kernel

/-- Taking the served request out of the map drops its entry and leaves the second one, with all of its requests. -/
theorem doubledWindow_passed :
    (smGet [] (smSet [] doubledWindow.mem.win 0
        (mcPass (smGet [] doubledWindow.mem.win 0) (mcPick doubledWindow ((smGet [] doubledWindow.mem.win 0).take 256)))) 0).length = 256 := by
  decide +kernel

/-- The controller then sees the second entry as requests that wait to enter, and merges its last one. -/
theorem doubledWindow_entered : (smGet [] (serveReads (mcServe doubledWindow 0 .clean)).mem.win 0).length = 255 := by
  decide +kernel

/-- Refutes O36: the clause on a controller's request asks that the window lose the served request only, and does not ask that the map of windows be
in canonical form. In `doubledWindow` the window is empty after the request, so that its entry goes, the second entry for the same controller shows,
and one of its requests merges in the same step. -/
theorem not_memoryEvents : ¬ Obligations.MemoryEvents := by
  unfold Obligations.MemoryEvents
  rintro ⟨served, -, -⟩
  obtain ⟨t, hstep, hwin, -, -⟩ := served doubledWindow 0 .clean firstRead doubledWindow_pick (by decide +kernel)
  have ht : t = serveReads (mcServe doubledWindow 0 .clean) := (Host.Outcome.next.inj hstep).symm
  have hone : (smGet [] doubledWindow.mem.win (0 : BitVec 4).toNat).length ≤ 256 := by decide +kernel
  have same : 255 = 256 := by
    rw [← doubledWindow_entered, ← ht, hwin hone]
    exact doubledWindow_passed
  exact absurd same (by decide)

end Sys2Proof.Machine
end

section
/-! PROOFS. Sanitize, the end of a wipe and the hold time (O40). The rules say what each operation leaves of the security state, of the job and of
SEC_WIPE, in the order of the model: the Ledger's groups, the reload of the tables, what follows a wipe, and its failure. -/

namespace Sys2Proof.Machine

/-! ### A wipe that ends with its parts done -/

/-- A group of usage records changes nothing but the Ledger and what reports it. -/
theorem useWrite_same (s : State) (win : Bool) (at_ : Nat) (energy : Word64) (active steps preempts : Nat) :
    RecSame s (useWrite s win at_ energy active steps preempts) := ldgPost_same s _ _

theorem windowGroup_same (s : State) : RecSame s (windowGroup s) := by
  unfold windowGroup
  split
  · exact .refl s
  · exact (RecSame.ldgHost s _ s.host).trans (useWrite_same ..)

theorem windowGroups_same (l : List SegSnap) (s : State) : RecSame s (l.foldl (fun s _ => windowGroup s) s) := by
  induction l generalizing s with
  | nil => exact .refl s
  | cons x l ih => exact (windowGroup_same s).trans (ih _)

theorem segmentEnd_same (s : State) (next : Word64) : RecSame s (segmentEnd s next) :=
  ((windowGroups_same _ s).trans (useWrite_same ..)).trans (.ldgHost _ _ _)

@[simp] theorem segmentEnd_sec (s : State) (next : Word64) : (segmentEnd s next).sec = s.sec := by
  obtain ⟨_, _, _, _, _, h, -⟩ := segmentEnd_same s next
  rw [h]

@[simp] theorem segmentEnd_job (s : State) (next : Word64) : (segmentEnd s next).job = s.job := by
  obtain ⟨_, _, _, _, _, h, -⟩ := segmentEnd_same s next
  rw [h]

@[simp] theorem mllLoad_sec (s : State) (ok : Bool) : (mllLoad s ok).sec = s.sec := by
  unfold mllLoad
  split <;> simp [mllDrop]

@[simp] theorem mllLoad_job (s : State) (ok : Bool) : (mllLoad s ok).job = s.job := by
  unfold mllLoad
  split <;> simp [mllDrop]

theorem readyCheck_eq (s : State) : readyCheck s = hostVector (setRegF s aBoot 8 8 1) 5 ∨ readyCheck s = s := ite_eq_or_eq ..

/-- What follows a wipe leaves the security state. -/
theorem wipeAfter_sec (s : State) (why : WipeWhy) : (wipeAfter s why).sec = s.sec := by
  cases why with
  | start => rcases readyCheck_eq s with h | h <;> simp [wipeAfter, h]
  | jobEnd => simp [wipeAfter]
  | ondie q cid => simp [wipeAfter]
  | move => rfl

/-- What follows a wipe leaves the device fault, if any. -/
theorem wipeAfter_device (s : State) (why : WipeWhy) : (wipeAfter s why).job.device = s.job.device := by
  cases why with
  | start => rcases readyCheck_eq s with h | h <;> simp [wipeAfter, h]
  | jobEnd => simp [wipeAfter]
  | ondie q cid => simp [wipeAfter]
  | move => rfl

theorem wipeAfters_sec (l : List WipeWhy) (s : State) : (l.foldl wipeAfter s).sec = s.sec := by
  induction l generalizing s with
  | nil => rfl
  | cons why l ih => exact (ih _).trans (wipeAfter_sec s why)

theorem wipeAfters_device (l : List WipeWhy) (s : State) : (l.foldl wipeAfter s).job.device = s.job.device := by
  induction l generalizing s with
  | nil => rfl
  | cons why l ih => exact (ih _).trans (wipeAfter_device s why)

/-- A wipe that ends is no longer under way. -/
theorem wipeDone_wipe (s : State) (w : Wipe) (us : BitVec 32) (ok : Bool) : (wipeDone s w us ok).sec.wipe = none := by
  simp only [wipeDone, wipeAfters_sec]
  split <;> simp

/-- A wipe that ends leaves the device fault, if any. -/
theorem wipeDone_device (s : State) (w : Wipe) (us : BitVec 32) (ok : Bool) : (wipeDone s w us ok).job.device = s.job.device := by
  simp only [wipeDone, wipeAfters_device]
  split <;> simp

/-- The wipe at a job's boundary, with no other trigger, ends the job (R561). -/
theorem wipeDone_empty {s : State} {w : Wipe} (hwhy : w.why = [.jobEnd]) (us : BitVec 32) (ok : Bool) : (wipeDone s w us ok).job.st = .empty := by
  simp [wipeDone, hwhy, wipeAfter]

/-! ### A wipe that fails -/

/-- A field that takes a value other than 0 along with its register reads it back. -/
theorem reg_setRegF {s : State} {a hi lo x : Nat} (h : BitVec.ofNat 64 (putBits (reg s a).toNat hi lo x) ≠ 0) :
    reg (setRegF s a hi lo x) a = BitVec.ofNat 64 (putBits (reg s a).toNat hi lo x) := smGet_smSet_val _ _ _ _ h

/-- The failure bit of SEC_WIPE, in a value. -/
theorem bitsOf_four (v : Word64) : bitsOf v.toNat 4 4 = v.toNat / 16 % 2 := by
  simp [bitsOf, Nat.shiftRight_eq_div_pow]

/-- A field write whose new value has the failure bit reads as a register with that bit. -/
theorem regF_four {s : State} {a hi lo x : Nat} (h : putBits (reg s a).toNat hi lo x % 2 ^ 64 / 16 % 2 = 1) :
    regF (setRegF s a hi lo x) a 4 4 = 1 := by
  have hval : (BitVec.ofNat 64 (putBits (reg s a).toNat hi lo x)).toNat / 16 % 2 = 1 := by rwa [BitVec.toNat_ofNat]
  have hne : BitVec.ofNat 64 (putBits (reg s a).toNat hi lo x) ≠ 0 := by
    intro h0
    simp [h0] at hval
  rw [regF, reg_setRegF hne, bitsOf_four, hval]

/-- SEC_WIPE as a failed wipe leaves it: the failure bit set, no wipe under way and no port waiting. -/
def wipeFailShown (s : State) : State := setRegF (setRegF (setRegF s aSecWipe 4 4 1) aSecWipe 1 0 0) aSecWipe 8 5 0

/-- The failure bit stays as the other fields of SEC_WIPE fall to 0. -/
theorem wipeFailShown_bit (s : State) : regF (wipeFailShown s) aSecWipe 4 4 = 1 := by
  have hset : regF (setRegF s aSecWipe 4 4 1) aSecWipe 4 4 = 1 := regF_four (by simp only [putBits]; omega)
  have hstate : regF (setRegF (setRegF s aSecWipe 4 4 1) aSecWipe 1 0 0) aSecWipe 4 4 = 1 := by
    rw [regF, bitsOf_four] at hset
    exact regF_four (by simp only [putBits]; omega)
  rw [regF, bitsOf_four] at hstate
  exact regF_four (by simp only [putBits]; omega)

theorem hostVector_reg (s : State) (v a : Nat) : reg (hostVector s v) a = reg s a := congrArg (smGet 0 · a) (hostVector_regs s v)

theorem readyDrop_reg {s : State} {a : Nat} (h : a ≠ aBoot) : reg (readyDrop s) a = reg s a := by
  unfold readyDrop
  split
  · simp [reg, setRegF, setReg, smGet_smSet_ne _ _ _ _ _ h]
  · rfl

@[simp] theorem readyDrop_sec (s : State) : (readyDrop s).sec = s.sec := by
  unfold readyDrop
  split <;> simp

/-- A device fault changes no register but BOOT_STATUS and LDG_LOST. -/
theorem deviceFatal_reg {s : State} {a : Nat} (hboot : a ≠ aBoot) (hlost : a ≠ aLdgLost) (src code : Word16) (p : Nat) :
    reg (deviceFatal s src code p) a = reg s a := by
  have hrec : reg (record s kDeviceFatal src code p) a = reg s a := record_reg _ _ _ _ _ _ hlost
  simp only [deviceFatal, draw]
  rw [hostVector_reg, readyDrop_reg hboot, noticeSend_reg _ _ _ _ _ hlost, detLeave_reg _ _ hlost]
  exact hrec

@[simp] theorem deviceFatal_sec (s : State) (src code : Word16) (p : Nat) : (deviceFatal s src code p).sec = s.sec := by
  simp [deviceFatal, draw]

/-- After a device fault the module has one, the first one taken (R430). -/
theorem deviceFatal_device (s : State) (src code : Word16) (p : Nat) : (deviceFatal s src code p).job.device = some (s.job.device.getD code) := by
  simp only [deviceFatal, draw, hostVector_job, readyDrop_job]
  obtain ⟨r, hr⟩ := noticeSend_job _ _ _ _
  rw [hr]
  simp

theorem wipeFailed_eq (s : State) : ∃ mv,
    wipeFailed s = deviceFatal { wipeFailShown s with sec := { s.sec with wipe := none, move := mv } } srcSec cWipeFail (openPay cWipeFail srcSec) :=
  ⟨_, rfl⟩

/-- A wipe that fails ends, and is DEVICE_FATAL with its bit in SEC_WIPE (R527). -/
theorem wipeFailed_ends (s : State) :
    (wipeFailed s).sec.wipe = none ∧ (wipeFailed s).job.device ≠ none ∧ regF (wipeFailed s) aSecWipe 4 4 = 1 := by
  obtain ⟨mv, hmv⟩ := wipeFailed_eq s
  refine ⟨by rw [hmv, deviceFatal_sec], by rw [hmv, deviceFatal_device]; nofun, ?_⟩
  rw [hmv, regF, deviceFatal_reg (by decide) (by decide)]
  exact wipeFailShown_bit s

/-! ### The end of the hold time -/

theorem foldl_setRegF_eq (f : Nat → Nat) (hi lo x : Nat) (l : List Nat) (s : State) :
    ∃ r, l.foldl (fun s k => setRegF s (f k) hi lo x) s = { s with regs := r } := by
  induction l generalizing s with
  | nil => exact ⟨s.regs, rfl⟩
  | cons k l ih => exact ih (setRegF s (f k) hi lo x)

/-- A wipe that begins is the clearing of its scope, but for registers and the security state. -/
theorem wipeStart_eq (s : State) (scope : Nat) (why : WipeWhy) : ∃ r c, wipeStart s scope why = { wipeClear s scope with regs := r, sec := c } := by
  obtain ⟨r, hr⟩ := foldl_setRegF_eq aCxl 27 27 0 (wipePorts s scope) (wipeClear s scope)
  simp only [wipeStart, hr]
  exact ⟨_, _, rfl⟩

/-- A wipe of the job-boundary scope clears the cores, the sequencer, the poison list and the job (R525). -/
theorem wipeStart_clears (s : State) (why : WipeWhy) :
    (wipeStart s 2 why).cores = [] ∧ (wipeStart s 2 why).seq = Seq.init ∧ (wipeStart s 2 why).mem.poison = []
      ∧ (wipeStart s 2 why).job.members = [] := by
  obtain ⟨r, c, h⟩ := wipeStart_eq s 2 why
  rw [h]
  simp [wipeClear, wipeDie, wipeMem, mllDrop, draw, Job.init]

/-- A wipe that begins covers at least its own scope and remembers its trigger. -/
theorem wipeStart_wipe (s : State) (scope : Nat) (why : WipeWhy) :
    ∃ w, (wipeStart s scope why).sec.wipe = some w ∧ scope ≤ w.scope ∧ why ∈ w.why := by
  refine ⟨_, rfl, ?_, ?_⟩
  · split
    · exact Nat.le_max_right ..
    · exact Nat.le_refl _
  · split <;> simp

/-! ### Sanitize -/

theorem sanitEnds_covered {s : State} {w : Wipe} {k : Nat} (hw : s.sec.wipe = some w) (hk : w.sanit.getLsbD k = true) (ok : Bool) :
    (sanitEnds s k ok).sec.wipe = some (
      if ok then { w with sanit := w.sanit &&& ~~~(portBits [k]), ports := w.ports &&& ~~~(portBits [k]), used := w.used ||| portBits [k] }
      else { w with sanit := w.sanit &&& ~~~(portBits [k]) }) := by
  simp only [sanitEnds, hw, hk]
  rfl

/-! ### The statement -/

/-- WIPE_COMPLETE on a wipe that has begun and whose ports are not waiting for Sanitize (R526, R527). -/
theorem wipeEnds_begun {s : State} {w : Wipe} (hw : s.sec.wipe = some w) (hsanit : w.sanit = 0) (hbegun : wipeBegun s w = true) (fails : Bool)
    (us : BitVec 32) (ok : Bool) :
    wipeEnds s fails us ok = if (fails || wipeStuck s w) = true then wipeFailed s else wipeDone s w us ok := by
  simp [wipeEnds, hw, hsanit, hbegun]

/-- Settles O40, by the result of each command: Sanitize's end, a wipe's end or its failure, and the wipe that the hold time starts. -/
theorem wipeResults : Obligations.WipeResults := by
  refine ⟨fun s port w hw hport => ⟨?_, ?_⟩, fun s w us ok hw hsanit hbegun => ⟨fun hstuck => ?_, ?_⟩, fun s hst => ?_⟩
  · exact ⟨_, _, rfl, sanitEnds_covered hw hport true, rfl, rfl, rfl⟩
  · rintro i (rfl | rfl) <;> exact ⟨_, _, rfl, sanitEnds_covered hw hport false, rfl, rfl, rfl⟩
  · have hdone : wipeEnds s false us ok = wipeDone s w us ok := by rw [wipeEnds_begun hw hsanit hbegun, hstuck]; rfl
    exact ⟨_, congrArg Host.Outcome.next hdone, wipeDone_wipe .., wipeDone_device .., fun hwhy => wipeDone_empty hwhy us ok⟩
  · have hfailed : wipeEnds s true us ok = wipeFailed s := wipeEnds_begun hw hsanit hbegun ..
    exact ⟨_, congrArg Host.Outcome.next hfailed, wipeFailed_ends s⟩
  · have hend : holdEnds s = wipeStart (jobTo s .wiping) 2 .jobEnd := if_pos hst
    obtain ⟨hcores, hseq, hpoison, hmembers⟩ := wipeStart_clears (jobTo s .wiping) .jobEnd
    obtain ⟨w, hw, hscope, hwhy⟩ := wipeStart_wipe (jobTo s .wiping) 2 .jobEnd
    exact ⟨_, w, congrArg Host.Outcome.next hend, (wipeStart_jobSt ..).trans (by rw [jobTo_job]), hw, hscope, hwhy, hcores, hseq, hpoison, hmembers⟩

end Sys2Proof.Machine
end

section
/-! PROOFS. O30: a link through its states. The rules for a link that is replaced and for the choice of a new parent come first; then what a link that
fails gives back to path choice, which never takes that link. -/

namespace Sys2Proof.Machine

/-! ### A link replaced -/

/-- A link that is not as at power-up reads as it was set. -/
theorem getLink_setLink {s : State} {k : Nat} {l : Link} (h : l.st ≠ .down) : getLink (setLink s k l) k = l :=
  smGet_smSet_val Link.init s.fab.links k l (fun e => h (congrArg Link.st e))

theorem getLink_setLink_ne (s : State) {k j : Nat} (l : Link) (h : j ≠ k) : getLink (setLink s k l) j = getLink s j :=
  smGet_smSet_ne Link.init s.fab.links k j l h

theorem getLink_modLink {s : State} {k : Nat} {f : Link → Link} (h : (f (getLink s k)).st ≠ .down) :
    getLink (modLink s k f) k = f (getLink s k) := getLink_setLink h

theorem getLink_modLink_ne (s : State) {k j : Nat} (f : Link → Link) (h : j ≠ k) : getLink (modLink s k f) j = getLink s j :=
  getLink_setLink_ne s _ h

/-- Updates that leave the links leave each of them. -/
theorem getLink_congr {s t : State} (h : t.fab.links = s.fab.links) (k : Nat) : getLink t k = getLink s k := congrArg (smGet Link.init · k) h

@[simp] theorem getLink_setReg (s : State) (a : Nat) (v : Word64) (k : Nat) : getLink (setReg s a v) k = getLink s k := rfl
@[simp] theorem getLink_setRegF (s : State) (a hi lo x k : Nat) : getLink (setRegF s a hi lo x) k = getLink s k := rfl
@[simp] theorem getLink_bump (s : State) (a n k : Nat) : getLink (bump s a n) k = getLink s k := getLink_congr (by simp) k
@[simp] theorem getLink_record (s : State) (cls : Nat) (src code : Word16) (p k : Nat) : getLink (record s cls src code p) k = getLink s k :=
  getLink_congr (by simp) k

theorem linkUp_iff {s : State} {k : Nat} : linkUp s k = true ↔ k < 36 ∧ (getLink s k).st = .up := by
  rw [linkUp, Bool.and_eq_true, decide_eq_true_eq, beq_iff_eq]
  rfl

/-- A command of a link that the part has. -/
theorem onLink_of_lt {k : Nat} (h : k < 36) (t : State) : onLink k t = .next t := if_pos h

/-- The choice of a parent moves registers, the time base's marks and the Ledger: no link (R345). -/
@[simp] theorem parentUpdate_fab (s : State) : (parentUpdate s).fab = s.fab := by
  unfold parentUpdate
  split
  · rfl
  · simp only [syncTo]
    split <;> split <;> simp

@[simp] theorem getLink_parentUpdate (s : State) (k : Nat) : getLink (parentUpdate s) k = getLink s k := getLink_congr (by simp) k

/-! ### What a failed link gives back -/

/-- Path choice names links that are up only (R331). -/
theorem linkUp_of_rtPath {s : State} {e i k h : Nat} (hp : rtPath s e i = some (k, h)) : linkUp s k = true := by
  simp only [rtPath] at hp
  split at hp
  · next hup =>
    cases hp
    exact (Bool.and_eq_true_iff.mp hup).2
  · cases hp

theorem linkUp_of_mem_rtPaths {s : State} {d : BitVec 14} {p : Nat × Nat × Nat} (h : p ∈ rtPaths s d) : linkUp s p.2.1 = true := by
  obtain ⟨i, -, hi⟩ := List.mem_filterMap.mp h
  obtain ⟨q, hq, rfl⟩ := Option.map_eq_some_iff.mp hi
  exact linkUp_of_rtPath hq

theorem mem_of_leastBy {f : Nat × Nat × Nat → Nat} {l : List (Nat × Nat × Nat)} {x : Nat × Nat × Nat} (h : leastBy f l = some x) : x ∈ l := by
  induction l with
  | nil => cases h
  | cons y ys ih =>
    unfold leastBy at h
    split at h
    · next z hz =>
      split at h <;> cases h
      · exact List.mem_cons_of_mem _ (ih hz)
      · exact List.mem_cons_self ..
    · cases h
      exact List.mem_cons_self ..

theorem linkUp_of_pickPath {s : State} {w : Wire} {i k h : Nat} (hp : pickPath s w = some (i, k, h)) : linkUp s k = true := by
  suffices hmem : (i, k, h) ∈ rtPaths s (wireDst w) from linkUp_of_mem_rtPaths hmem
  unfold pickPath at hp
  simp only at hp
  split at hp
  · exact List.mem_of_mem_head? hp
  · split at hp
    · cases hp
    · next p hleast =>
      split at hp
      · exact mem_of_leastBy hp
      · cases hp
        exact mem_of_leastBy hleast

/-- An item put into a queue of one link leaves every other link. -/
theorem getLink_linkPut_ne (s : State) {k j : Nat} (input : Nat) (w : Wire) (h : j ≠ k) : getLink (linkPut s k input w) j = getLink s j := by
  unfold linkPut
  split
  · rfl
  · split
    · simp
    · exact getLink_modLink_ne s _ h

/-- An item sent on its way leaves a link that is not up. -/
theorem getLink_fabOut_down {s : State} {k : Nat} (h : linkUp s k = false) (input : Nat) (w : Wire) : getLink (fabOut s input w) k = getLink s k := by
  unfold fabOut
  split
  · rfl
  · next i j hops hp =>
    refine getLink_linkPut_ne s input w fun e => ?_
    rw [e, linkUp_of_pickPath hp] at h
    cases h

/-- What a link gives back goes to other links. -/
theorem getLink_reinject {k : Nat} (ws : List Wire) {s : State} (h : linkUp s k = false) : getLink (reinject ws s) k = getLink s k := by
  induction ws generalizing s with
  | nil => rfl
  | cons w ws ih =>
    have hsame := getLink_fabOut_down h localIn w
    rw [reinject, ih (by rw [linkUp, hsame]; exact h), hsame]

/-- A link that fails carries nothing and keeps its attempts, its unhealthy lanes and the signals that wait at it (R333). -/
theorem getLink_linkFail (s : State) (k cls : Nat) (code : Word16) :
    getLink (linkFail s k cls code) k
      = { Link.init with st := .failed, attempts := (getLink s k).attempts, sick := (getLink s k).sick, held := (getLink s k).held } := by
  have hfailed : getLink (modLink s k (fun l => { Link.init with st := .failed, attempts := l.attempts, sick := l.sick, held := l.held })) k
      = { Link.init with st := .failed, attempts := (getLink s k).attempts, sick := (getLink s k).sick, held := (getLink s k).held } :=
    getLink_modLink nofun
  rw [linkFail, getLink_parentUpdate, getLink_reinject _ (by simp [linkUp, hfailed]), getLink_record, hfailed]

/-! ### Retraining -/

theorem getLink_retrain {s : State} {k : Nat} (h : linkUp s k = true) :
    getLink (retrain s k) k = { getLink s k with st := .retrain, replay := [] } := by
  rw [retrain, if_pos h, getLink_parentUpdate]
  exact getLink_modLink nofun

/-- A link whose lanes are marked unhealthy is up as it was. -/
theorem linkUp_modLink {s : State} {k : Nat} (h : linkUp s k = true) {f : Link → Link} (hf : (f (getLink s k)).st = .up) :
    linkUp (modLink s k f) k = true := by
  obtain ⟨hk, -⟩ := linkUp_iff.mp h
  exact linkUp_iff.mpr ⟨hk, by rw [getLink_modLink (by rw [hf]; nofun), hf]⟩

/-- A link that is marked and then retrains. -/
theorem getLink_retrain_modLink {s : State} {k : Nat} (h : linkUp s k = true) {f : Link → Link} (hf : (f (getLink s k)).st = .up) :
    getLink (retrain (modLink s k f) k) k = { f (getLink s k) with st := .retrain, replay := [] } := by
  rw [getLink_retrain (linkUp_modLink h hf), getLink_modLink (by rw [hf]; nofun)]

/-! ### The statement -/

/-- The end of a training attempt (R315). -/
theorem trainEnd_training {s : State} {k : Nat} (h : (getLink s k).st = .training) :
    ((getLink s k).hello = false → getLink (trainEnd s k true) k = { getLink s k with hello := true, wire := helloFlit s k }) ∧
    ((getLink s k).attempts < 3 →
      getLink (trainEnd s k false) k = { getLink s k with attempts := (getLink s k).attempts + 1, hello := false }) ∧
    (3 ≤ (getLink s k).attempts → (getLink (trainEnd s k false) k).st = .failed) := by
  have hup : (getLink s k).st ≠ .down := by rw [h]; nofun
  refine ⟨fun hhello => ?_, fun hfew => ?_, fun hmany => ?_⟩
  · simp only [trainEnd]
    rw [if_neg (by simp [h, hhello]), if_pos trivial]
    exact getLink_setLink hup
  · simp only [trainEnd]
    rw [if_neg (by simp [h]), if_neg nofun, if_pos hfew]
    exact getLink_setLink hup
  · simp only [trainEnd]
    rw [if_neg (by simp [h]), if_neg nofun, if_neg (by omega), getLink_linkFail]

/-- HELLO of the neighbour that the link table names brings the link up; any other one fails it (R322, R323, R349). -/
theorem helloTake_training {s : State} {k : Nat} (h : (getLink s k).st = .training) (hhello : (getLink s k).hello = true)
    (dev : BitVec 14) (index fpl sfl : BitVec 8) (mll feed : Word16) :
    (fieldAt (linkEntry s k) 2 2 = dev.toNat ∧ fieldAt (linkEntry s k) 4 1 = index.toNat ∧ fpl ≠ 0 →
      getLink (helloTake s k dev index fpl sfl mll feed) k
        = { getLink s k with st := .up, hello := false, lanes := (lanePick (getLink s k).sick).1, pair := (lanePick (getLink s k).sick).2
                             fpl := min fpl.toNat (regF s (aFab + 8) 7 0), ndev := dev.toNat, nlink := index.toNat, nsfl := sfl.toNat
                             nmll := mll.toNat, nfeed := feed.toNat }) ∧
    (¬(fieldAt (linkEntry s k) 2 2 = dev.toNat ∧ fieldAt (linkEntry s k) 4 1 = index.toNat ∧ fpl ≠ 0) →
      (getLink (helloTake s k dev index fpl sfl mll feed) k).st = .failed) := by
  have hwaits : ¬((getLink s k).st ≠ .training ∨ (getLink s k).hello = false) := by simp [h, hhello]
  refine ⟨fun hmatch => ?_, fun hother => ?_⟩
  · simp only [helloTake]
    rw [if_neg hwaits, if_pos hmatch, getLink_parentUpdate]
    exact getLink_setLink nofun
  · simp only [helloTake]
    rw [if_neg hwaits, if_neg hother, getLink_linkFail]

/-- RETRAIN_LOCK with a healthy lane left brings the link up and replays what is unacknowledged (R324). -/
theorem getLink_retrainEnds {s : State} {k : Nat} (h : (getLink s k).st = .retrain) (hlanes : (lanePick (getLink s k).sick).1 ≠ 0) :
    getLink (retrainEnds s k) k
      = { getLink s k with st := .up, lanes := (lanePick (getLink s k).sick).1, pair := (lanePick (getLink s k).sick).2
                           replay := (getLink s k).retry, naks := 0 } := by
  simp only [retrainEnds]
  rw [if_neg (by simp [h, hlanes]), getLink_parentUpdate]
  split
  · rw [getLink_record]
    exact getLink_setLink nofun
  · exact getLink_setLink nofun

/-- Settles O30: each command makes of its link what the lemma about it says, and the link table and the attempts decide between the outcomes. -/
theorem linkStates : Obligations.LinkStates := by
  unfold Obligations.LinkStates
  refine ⟨fun s k hk hst => ?_, fun s k dev index fpl sfl mll feed hk hst hhello => ?_, fun s k lane hup => ?_, fun s k i hup hi => ?_,
    fun s k hk hst hlanes => ?_, fun s k hk hst => ?_⟩
  · obtain ⟨hlock, hagain, hlast⟩ := trainEnd_training hst
    refine ⟨fun hh => ⟨_, onLink_of_lt hk _, ?_⟩, fun hfew => ⟨_, onLink_of_lt hk _, ?_⟩, fun hmany => ⟨_, onLink_of_lt hk _, hlast hmany⟩⟩
    · rw [hlock hh]
      exact ⟨rfl, hst, rfl⟩
    · rw [hagain hfew]
      exact ⟨hst, rfl⟩
  · obtain ⟨hmatch, hother⟩ := helloTake_training hst hhello dev index fpl sfl mll feed
    refine ⟨fun hdev hindex hfpl => ⟨_, onLink_of_lt hk _, ?_⟩, fun h => ⟨_, onLink_of_lt hk _, hother h⟩⟩
    rw [hmatch ⟨hdev, hindex, hfpl⟩]
    exact ⟨rfl, rfl, rfl, rfl, rfl, rfl⟩
  · obtain ⟨hk, hst⟩ := linkUp_iff.mp hup
    refine ⟨_, onLink_of_lt hk _, ?_⟩
    rw [laneSick, getLink_retrain_modLink hup hst]
    exact ⟨rfl, rfl, rfl⟩
  · obtain ⟨hk, hst⟩ := linkUp_iff.mp hup
    rcases hi with rfl | rfl
    · refine ⟨_, onLink_of_lt hk _, ?_⟩
      rw [laneSick, getLink_retrain_modLink hup hst]
      exact ⟨rfl, rfl, rfl⟩
    · refine ⟨_, onLink_of_lt hk _, ?_⟩
      rw [getLink_retrain hup]
      exact ⟨rfl, rfl, rfl⟩
  · refine ⟨_, onLink_of_lt hk _, ?_⟩
    rw [getLink_retrainEnds hst hlanes]
    exact ⟨rfl, rfl, rfl, rfl⟩
  · refine ⟨_, onLink_of_lt hk _, ?_⟩
    rw [retrainLate, if_pos hst, getLink_linkFail]
    exact ⟨rfl, rfl⟩

end Sys2Proof.Machine
end

section
/-! PROOFS. O31: flits sent, received, acknowledged and replayed. Each rule says what a function makes of its own link; what the link's flits carry to the
rest of the module is not looked at. -/

namespace Sys2Proof.Machine

/-! ### Sending -/

theorem st_ne_down {s : State} {k : Nat} (h : linkUp s k = true) : (getLink s k).st ≠ .down := by
  rw [(linkUp_iff.mp h).2]
  nofun

/-- A flit to replay goes first (R321). -/
theorem getLink_linkSend_replay {s : State} {k : Nat} {f : TxFlit} {fs : List TxFlit} (h : linkUp s k = true) (hreplay : (getLink s k).replay = f :: fs) :
    getLink (linkSend s k) k
      = { getLink s k with replay := fs, nakDue := false, wire := reAck (getLink s k) f.raw, hist := histAdd (getLink s k) 9 } := by
  simp only [linkSend, h, hreplay, Bool.not_true, Bool.false_eq_true, if_false, getLink_bump]
  exact getLink_setLink (by exact st_ne_down h)

/-- A link that has an idle flit to send: acknowledgement and credits only (R319). -/
def idled (l : Link) : Link :=
  { l with nakDue := false, ret := (takeRets l).2, wire := flitOf 1 0 0 (ackWord l) (takeRets l).1 0x3FF 0 [], hist := histAdd l 9 }

/-- The data flit that a lane of a class and phase sends next (R318, R320). -/
def dataFlitOf (s : State) (l : Link) (cls ph : Nat) : TxFlit :=
  let fill := fillLane s l (cls * 3 + ph)
  ⟨l.txSeq, flitOf 0 cls l.txSeq.toNat (ackWord l) (takeRets l).1 (fill.2.2.1.getD 0x3FF) ph fill.1, fill.2.1⟩

/-- A link that has sent a data flit of the class, with the deficits that the choice of the class left (R334, R335). -/
def dataSent (s : State) (l : Link) (cls ph : Nat) (d : SMap Int) : Link :=
  let lane := cls * 3 + ph
  let fill := fillLane s l lane
  { l with
    q := smSet [] l.q lane fill.2.2.2, used := smSet 0 l.used lane (smGet 0 l.used lane + ceilDiv fill.1.length 64)
    retry := l.retry ++ [dataFlitOf s l cls ph], txSeq := l.txSeq + 1, nakDue := false, ret := (takeRets l).2, wire := (dataFlitOf s l cls ph).raw
    hist := histAdd l cls, deficit := d, phase := smSet 0 l.phase cls ph
    rr := smSet localIn l.rr lane (rrLast (smGet localIn l.rr lane) fill.2.1.length (laneOrder l lane)) }

/-- With nothing to replay a link sends a data flit, when its retry buffer has room and a class may go, else an idle flit (R319, R334). -/
theorem linkSend_eq {s : State} {k : Nat} (h : linkUp s k = true) (hreplay : (getLink s k).replay = []) :
    linkSend s k =
      if (getLink s k).retry.length ≥ 256 then setLink s k (idled (getLink s k))
      else match pickClass s (getLink s k) with
        | none => setLink s k (idled (getLink s k))
        | some (cls, d) =>
          match pickPhase s (getLink s k) cls with
          | none => setLink s k (idled (getLink s k))
          | some ph => bump (setLink s k (dataSent s (getLink s k) cls ph d)) (aLinkTxf k) 1 := by
  unfold linkSend
  simp only
  rw [if_neg (by simp [h])]
  split
  · next hcons => exact absurd (hreplay.symm.trans hcons) nofun
  · rfl

theorem getLink_linkSend_idle {s : State} {k : Nat} (h : linkUp s k = true) (hreplay : (getLink s k).replay = [])
    (hidle : 256 ≤ (getLink s k).retry.length ∨ pickClass s (getLink s k) = none) : getLink (linkSend s k) k = idled (getLink s k) := by
  have hset : linkSend s k = setLink s k (idled (getLink s k)) := by
    rw [linkSend_eq h hreplay]
    rcases hidle with hfull | hnone
    · exact if_pos hfull
    · rw [hnone]
      exact ite_self _
  rw [hset]
  exact getLink_setLink (by exact st_ne_down h)

theorem getLink_linkSend_data {s : State} {k cls ph : Nat} {d : SMap Int} (h : linkUp s k = true) (hreplay : (getLink s k).replay = [])
    (hroom : (getLink s k).retry.length < 256) (hcls : pickClass s (getLink s k) = some (cls, d)) (hph : pickPhase s (getLink s k) cls = some ph) :
    getLink (linkSend s k) k = dataSent s (getLink s k) cls ph d := by
  rw [linkSend_eq h hreplay, if_neg (Nat.not_le.mpr hroom), hcls]
  simp only [hph, getLink_bump]
  exact getLink_setLink (by exact st_ne_down h)

/-! ### Acknowledgements -/

/-- What an acknowledgement up to `n` makes of a link (R321). -/
def acked (l : Link) (n : BitVec 12) : Link :=
  let r := l.retry.filter (fun f => !serialLe12 f.seq n)
  { l with retry := r, replay := l.replay.filter (fun f => !serialLe12 f.seq n), naks := if r.length = l.retry.length then l.naks else 0 }

theorem getLink_linkAck {s : State} {k : Nat} (h : linkUp s k = true) (n : BitVec 12) : getLink (linkAck s k n) k = acked (getLink s k) n :=
  getLink_setLink (by exact st_ne_down h)

theorem linkUp_setLink {s : State} {k : Nat} {l : Link} (hk : k < 36) (hl : l.st = .up) : linkUp (setLink s k l) k = true :=
  linkUp_iff.mpr ⟨hk, by rw [getLink_setLink (by rw [hl]; nofun), hl]⟩

/-- What a NAK after `n` makes of a link: it replays what is left, and retrains at the eighth in a row (R321). -/
def naked (l : Link) (n : BitVec 12) : Link :=
  let a := acked l n
  if a.retry = [] then a
  else if 8 ≤ a.naks + 1 then { a with st := .retrain, replay := [], naks := a.naks + 1 }
  else { a with replay := a.retry, naks := a.naks + 1 }

theorem getLink_linkNak {s : State} {k : Nat} (h : linkUp s k = true) (n : BitVec 12) : getLink (linkNak s k n) k = naked (getLink s k) n := by
  obtain ⟨hk, hst⟩ := linkUp_iff.mp h
  have hack := getLink_linkAck h n
  have hagain (l : Link) (hl : l.st = .up) :
      getLink (retrain (setLink (linkAck s k n) k l) k) k = { l with st := .retrain, replay := [] } := by
    rw [getLink_retrain (linkUp_setLink hk hl), getLink_setLink (by rw [hl]; nofun)]
  simp only [linkNak, h, hack, Bool.not_true, Bool.false_eq_true, if_false, naked, List.isEmpty_iff]
  split
  · exact hack
  · split
    · exact hagain _ hst
    · exact getLink_setLink (by exact st_ne_down h)

/-- The acknowledgement word of a flit moves what its link has to send again, and may retrain it. -/
theorem getLink_linkAckWord {s : State} {k : Nat} (h : linkUp s k = true) (raw : List Byte) : ∃ st retry replay naks,
    getLink (linkAckWord s k raw) k = { getLink s k with st := st, retry := retry, replay := replay, naks := naks } := by
  simp only [linkAckWord]
  split
  · rw [getLink_linkNak h, naked]
    split
    · exact ⟨_, _, _, _, rfl⟩
    · split <;> exact ⟨_, _, _, _, rfl⟩
  · split
    · rw [getLink_linkAck h]
      exact ⟨_, _, _, _, rfl⟩
    · exact ⟨_, _, _, _, rfl⟩

/-! ### Receiving -/

/-- A flit that passes its CRC came through the FEC, which counts it and no more. -/
theorem getLink_fecCount_ok {fec : FecOutcome} {raw : List Byte} (h : flitOk fec raw = true) (s : State) (k : Nat) :
    getLink (fecCount s k fec) k = getLink s k := by
  cases fec with
  | clean => rfl
  | corrected => exact getLink_bump ..
  | uncorrectable => cases h

/-- An uncorrectable codeword is timed, and may mark every lane and retrain the link (R324). -/
theorem getLink_fecCount {s : State} {k : Nat} (h : linkUp s k = true) (fec : FecOutcome) : ∃ st sick replay uncorr,
    getLink (fecCount s k fec) k = { getLink s k with st := st, sick := sick, replay := replay, uncorr := uncorr } ∧ st ≠ .down := by
  have hst := (linkUp_iff.mp h).2
  have hdown := st_ne_down h
  cases fec with
  | clean => exact ⟨_, _, _, _, rfl, hdown⟩
  | corrected => exact ⟨_, _, _, _, getLink_bump .., hdown⟩
  | uncorrectable =>
    have hup : linkUp (bump s (aLinkUncorr k) 1) k = true := by rwa [linkUp, getLink_bump]
    simp only [fecCount, uncorrTake]
    split
    · rw [getLink_retrain_modLink hup (by rw [getLink_bump]; exact hst), getLink_bump]
      exact ⟨_, _, _, _, rfl, nofun⟩
    · rw [getLink_modLink (by rw [getLink_bump]; exact hdown), getLink_bump]
      exact ⟨_, _, _, _, rfl, hdown⟩

theorem getLink_linkCredit {s : State} {k : Nat} (h : linkUp s k = true) (raw : List Byte) : ∃ used,
    getLink (linkCredit s k raw) k = { getLink s k with used := used } :=
  ⟨_, getLink_modLink (by exact st_ne_down h)⟩

theorem linkUp_linkCredit {s : State} {k : Nat} (h : linkUp s k = true) (raw : List Byte) : linkUp (linkCredit s k raw) k = true :=
  linkUp_modLink h (linkUp_iff.mp h).2

/-- A payload that completes no packet is kept for the next flit of its lane (R320). -/
theorem getLink_linkPayload {s : State} {k lane fill : Nat} {raw rest : List Byte} (h : linkUp s k = true)
    (hcls : bitsOf (fieldAt raw 0 2) 13 12 ≠ 0) (hlane : bitsOf (fieldAt raw 0 2) 13 12 * 3 + fieldAt raw 14 1 % 4 = lane)
    (hparse : parsePkts 22 (smGet [] (getLink s k).part lane ++ slice raw 16 flitPay) = ([], rest, fill)) : ∃ ret,
    getLink (linkPayload s k raw) k = { getLink s k with part := smSet [] (getLink s k).part lane rest, ret := ret } := by
  have hpart : getLink (modLink s k (fun l => { l with part := smSet [] l.part lane rest })) k
      = { getLink s k with part := smSet [] (getLink s k).part lane rest } := getLink_modLink (by exact st_ne_down h)
  simp only [linkPayload, if_neg hcls, hlane, hparse, List.foldl_nil, retAdd]
  rw [getLink_modLink (by rw [hpart]; exact st_ne_down h), hpart]
  exact ⟨_, rfl⟩

/-- A link that has accepted the flit with number `n` (R321). -/
def accepted (l : Link) (n : BitVec 12) : Link :=
  { l with rxAny := true, rxSeq := n, rxWait := false, nakDue := false, rxTop := if l.rxTop = some n then none else l.rxTop }

/-- The flit that the receiver waits for moves its number and, without a whole packet, leaves its bytes with their lane. -/
theorem linkData_accepts {s : State} {k lane fill : Nat} {fec : FecOutcome} {raw rest : List Byte} {n : BitVec 12} (h : linkUp s k = true)
    (hok : flitOk fec raw = true) (hkind : bitsOf (fieldAt raw 0 2) 15 14 = 0) (hcls : bitsOf (fieldAt raw 0 2) 13 12 ≠ 0)
    (hlane : bitsOf (fieldAt raw 0 2) 13 12 * 3 + fieldAt raw 14 1 % 4 = lane) (hn : BitVec.ofNat 12 (fieldAt raw 0 2 % 4096) = n)
    (hnext : n = rxWant (getLink s k)) (hparse : parsePkts 22 (smGet [] (getLink s k).part lane ++ slice raw 16 flitPay) = ([], rest, fill)) :
    ∃ l : Link, getLink (linkData s k fec raw) k = l ∧ l.rxAny = true ∧ l.rxSeq = n ∧ l.rxWait = false ∧
      l.part = smSet [] (getLink s k).part lane rest := by
  obtain ⟨hk, hst⟩ := linkUp_iff.mp h
  simp only [linkData, h, hok, hkind, getLink_fecCount_ok hok s k, hn, if_pos hnext, Bool.not_true, Bool.false_eq_true, if_false, ne_eq,
    not_true_eq_false]
  generalize hcounted : bump _ (aLinkRxf k) 1 = t
  have ht : getLink t k = accepted (getLink s k) n := by
    have hset : getLink (setLink (fecCount s k fec) k (accepted (getLink s k) n)) k = accepted (getLink s k) n :=
      getLink_setLink (by exact st_ne_down h)
    rw [← hcounted, getLink_bump]
    split
    · exact (getLink_record ..).trans hset
    · exact hset
  have htup : linkUp t k = true := linkUp_iff.mpr ⟨hk, by rw [ht]; exact hst⟩
  have hcup := linkUp_linkCredit htup raw
  obtain ⟨used, hcredit⟩ := getLink_linkCredit htup raw
  have hpart : (getLink (linkCredit t k raw) k).part = (getLink s k).part := by rw [hcredit, ht]; rfl
  obtain ⟨ret, hpay⟩ := getLink_linkPayload hcup hcls hlane (by rw [hpart]; exact hparse)
  have hpup : linkUp (linkPayload (linkCredit t k raw) k raw) k = true :=
    linkUp_iff.mpr ⟨hk, by rw [hpay]; exact (linkUp_iff.mp hcup).2⟩
  obtain ⟨st, retry, replay, naks, hack⟩ := getLink_linkAckWord hpup raw
  refine ⟨_, hack, ?_⟩
  rw [hpay, hcredit, ht]
  exact ⟨rfl, rfl, rfl, rfl⟩

/-- A flit ahead of a gap asks for the missing one, once (R321). -/
theorem linkData_gap {s : State} {k : Nat} {fec : FecOutcome} {raw : List Byte} (h : linkUp s k = true) (hok : flitOk fec raw = true)
    (hkind : bitsOf (fieldAt raw 0 2) 15 14 = 0) {n : BitVec 12} (hn : BitVec.ofNat 12 (fieldAt raw 0 2 % 4096) = n)
    (hahead : n ≠ rxWant (getLink s k)) (hnear : (n - rxWant (getLink s k)).toNat < 2048) (hwait : (getLink s k).rxWait = false) :
    ∃ top, getLink (linkData s k fec raw) k = { getLink s k with rxWait := true, nakDue := true, rxTop := top } := by
  have hfec := getLink_fecCount_ok hok s k
  simp only [linkData, h, hok, hkind, hfec, hn, if_neg hahead, if_neg (Nat.not_le.mpr hnear), Bool.not_true, Bool.false_eq_true, if_false, ne_eq,
    not_true_eq_false, gapTake]
  rw [getLink_modLink (by rw [hfec]; exact st_ne_down h), hfec, hwait, Bool.not_false, Bool.or_true]
  exact ⟨_, rfl⟩

/-- A duplicate is discarded; its acknowledgement word is used (R321). -/
theorem linkData_duplicate {s : State} {k : Nat} {fec : FecOutcome} {raw : List Byte} (h : linkUp s k = true) (hok : flitOk fec raw = true)
    (hkind : bitsOf (fieldAt raw 0 2) 15 14 = 0) {n : BitVec 12} (hn : BitVec.ofNat 12 (fieldAt raw 0 2 % 4096) = n)
    (hfar : 2048 ≤ (n - rxWant (getLink s k)).toNat) : ∃ st retry replay naks,
    getLink (linkData s k fec raw) k = { getLink s k with st := st, retry := retry, replay := replay, naks := naks } := by
  have hfec := getLink_fecCount_ok hok s k
  have hup : linkUp (fecCount s k fec) k = true := by rwa [linkUp, hfec]
  have hne : n ≠ rxWant (getLink s k) := by
    rintro rfl
    simp at hfar
  simp only [linkData, h, hok, hkind, hfec, hn, if_neg hne, if_pos hfar, Bool.not_true, Bool.false_eq_true, if_false, ne_eq, not_true_eq_false]
  rw [← hfec]
  exact getLink_linkAckWord hup raw

/-- A flit that fails its check asks for a NAK, whichever kind it was sent as (R321). -/
theorem getLink_flit_fails {s : State} {k : Nat} {fec : FecOutcome} {raw : List Byte} (h : linkUp s k = true) (hbad : flitOk fec raw = false) :
    (∃ st sick replay uncorr top, getLink (linkData s k fec raw) k
      = { getLink s k with st := st, sick := sick, replay := replay, uncorr := uncorr, rxTop := top, rxWait := true, nakDue := true }) ∧
    (∃ st sick replay uncorr, getLink (linkIdleFlit s k fec raw) k
      = { getLink s k with st := st, sick := sick, replay := replay, uncorr := uncorr, rxWait := true, nakDue := true }) := by
  obtain ⟨st, sick, replay, uncorr, hfec, hst⟩ := getLink_fecCount h fec
  have hnak : getLink (nakDue (fecCount s k fec) k) k
      = { getLink s k with st := st, sick := sick, replay := replay, uncorr := uncorr, rxWait := true, nakDue := true } := by
    rw [nakDue, getLink_modLink (by rw [hfec]; exact hst), hfec]
  constructor
  · simp only [linkData, h, hbad, Bool.not_true, Bool.not_false, Bool.false_eq_true, if_false, if_true, failTake]
    rw [getLink_modLink (by rw [hnak]; exact hst), hnak]
    exact ⟨_, _, _, _, _, rfl⟩
  · simp only [linkIdleFlit, h, hbad, Bool.not_true, Bool.false_eq_true, if_false]
    exact ⟨_, _, _, _, hnak⟩

/-- The acknowledgement of an idle flit is taken with its credits (R319). -/
theorem getLink_linkIdleFlit {s : State} {k : Nat} {fec : FecOutcome} {raw : List Byte} (h : linkUp s k = true) (hok : flitOk fec raw = true)
    (hvalid : bitOf (fieldAt raw 2 2) 12 = true) (hnak : bitOf (fieldAt raw 2 2) 13 = false) : ∃ used,
    getLink (linkIdleFlit s k fec raw) k = acked { getLink s k with used := used } (BitVec.ofNat 12 (fieldAt raw 2 2 % 4096)) := by
  have hfec := getLink_fecCount_ok hok s k
  have hup : linkUp (fecCount s k fec) k = true := by rwa [linkUp, hfec]
  obtain ⟨used, hcredit⟩ := getLink_linkCredit hup raw
  simp only [linkIdleFlit, h, hok, linkIdle, linkAckWord, hvalid, hnak, Bool.not_true, Bool.false_eq_true, if_false, if_true]
  rw [getLink_linkAck (linkUp_linkCredit hup raw), hcredit, hfec]
  exact ⟨_, rfl⟩

/-! ### The statement -/

/-- A NAK leaves what is not acknowledged; replaying it or retraining is decided by how often in a row it came (R321). -/
theorem naked_cases {l : Link} (hst : l.st = .up) (n : BitVec 12) :
    let r := l.retry.filter (fun f => !serialLe12 f.seq n)
    (naked l n).retry = r ∧ (r = [] → (naked l n).st = .up) ∧
    (r ≠ [] → l.naks + 1 < 8 ∨ r.length < l.retry.length → (naked l n).replay = r ∧ (naked l n).st = .up) ∧
    (r ≠ [] → 8 ≤ l.naks + 1 → r.length = l.retry.length → (naked l n).st = .retrain) := by
  intro r
  have hnaks : (acked l n).naks = if r.length = l.retry.length then l.naks else 0 := rfl
  refine ⟨?_, fun hr => ?_, fun hr hfew => ?_, fun hr hmany hsame => ?_⟩
  · simp only [naked]
    split
    · rfl
    · split <;> rfl
  · have hfree : naked l n = acked l n := if_pos hr
    rw [hfree]
    exact hst
  · have hfew8 : ¬ 8 ≤ (acked l n).naks + 1 := by
      rw [hnaks]
      split <;> omega
    have hagain : naked l n = { acked l n with replay := r, naks := (acked l n).naks + 1 } := (if_neg hr).trans (if_neg hfew8)
    rw [hagain]
    exact ⟨rfl, hst⟩
  · have hmany8 : 8 ≤ (acked l n).naks + 1 := by rwa [hnaks, if_pos hsame]
    have hretrain : naked l n = { acked l n with st := .retrain, replay := [], naks := (acked l n).naks + 1 } := (if_neg hr).trans (if_pos hmany8)
    rw [hretrain]

/-- Settles O31: each clause is the rule for its command on a link that is up. -/
theorem flitResults : Obligations.FlitResults := by
  unfold Obligations.FlitResults
  refine ⟨fun s k f fs hup hreplay => ?_, fun s k cls ph d hup hreplay hroom hcls hph => ?_, fun s k hup hreplay hidle => ?_,
    fun s k fec raw hup hok hkind hcls => ⟨fun hnext hnone => ?_, fun hahead hnear hwait => ?_, fun hfar => ?_⟩,
    fun s k fec raw i hup hbad hi => ?_, fun s k fec raw hup hok hvalid hnak => ?_, fun s k n hup => ?_⟩
  all_goals have hk := (linkUp_iff.mp hup).1
  · refine ⟨_, onLink_of_lt hk _, ?_⟩
    rw [getLink_linkSend_replay hup hreplay]
    exact ⟨rfl, rfl, rfl⟩
  · refine ⟨_, dataFlitOf s (getLink s k) cls ph, onLink_of_lt hk _, ?_⟩
    rw [getLink_linkSend_data hup hreplay hroom hcls hph]
    exact ⟨rfl, rfl, rfl, rfl, rfl⟩
  · refine ⟨_, onLink_of_lt hk _, ?_⟩
    rw [getLink_linkSend_idle hup hreplay hidle]
    exact ⟨rfl, rfl, rfl⟩
  · obtain ⟨l, hl, hany, hseq, hwait, hpart⟩ := linkData_accepts hup hok hkind hcls rfl rfl hnext (Prod.ext hnone rfl)
    refine ⟨_, onLink_of_lt hk _, ?_⟩
    rw [hl]
    exact ⟨hany, hseq, hwait, hpart⟩
  · obtain ⟨top, hl⟩ := linkData_gap hup hok hkind rfl hahead hnear hwait
    refine ⟨_, onLink_of_lt hk _, ?_⟩
    rw [hl]
    exact ⟨rfl, rfl, rfl, rfl⟩
  · obtain ⟨st, retry, replay, naks, hl⟩ := linkData_duplicate hup hok hkind rfl hfar
    refine ⟨_, onLink_of_lt hk _, ?_⟩
    rw [hl]
    exact ⟨rfl, rfl, rfl, rfl⟩
  · obtain ⟨⟨st, sick, replay, uncorr, top, hdata⟩, st', sick', replay', uncorr', hidle⟩ := getLink_flit_fails hup hbad
    rcases hi with rfl | rfl
    · refine ⟨_, onLink_of_lt hk _, ?_⟩
      rw [hdata]
      exact ⟨rfl, rfl, rfl, rfl, rfl, rfl⟩
    · refine ⟨_, onLink_of_lt hk _, ?_⟩
      rw [hidle]
      exact ⟨rfl, rfl, rfl, rfl, rfl, rfl⟩
  · obtain ⟨used, hl⟩ := getLink_linkIdleFlit hup hok hvalid hnak
    refine ⟨_, onLink_of_lt hk _, ?_⟩
    rw [hl]
    exact ⟨(linkUp_iff.mp hup).2, rfl, rfl⟩
  · refine ⟨_, onLink_of_lt hk _, ?_⟩
    rw [getLink_linkNak hup]
    exact naked_cases (linkUp_iff.mp hup).2 n

end Sys2Proof.Machine
end

section
/-! PROOFS. O32: time. Fields of FAB_SYNC_STATUS and TIM_TRIM come first; then what recording, the Ledger's first lock and the end of start-up leave of
them and of the time base; then the exchanges, the PPS edges and the snapshot. -/

namespace Sys2Proof.Machine

/-! ### Fields of a register -/

theorem regF_congr {s t : State} {a : Nat} (h : reg t a = reg s a) (hi lo : Nat) : regF t a hi lo = regF s a hi lo := by rw [regF, h, regF]

/-- A register whose fields are set reads the new fields, unless they leave it 0 behind a second entry. -/
theorem reg_setRegF_same {s : State} {a hi lo x : Nat} (h : regsWf s = true ∨ BitVec.ofNat 64 (putBits (reg s a).toNat hi lo x) ≠ 0) :
    reg (setRegF s a hi lo x) a = BitVec.ofNat 64 (putBits (reg s a).toNat hi lo x) := by
  rcases h with hwf | hne
  · exact reg_setReg_same hwf a _
  · exact reg_setRegF hne

theorem reg_setRegF_ne (s : State) {a b : Nat} (hi lo x : Nat) (h : b ≠ a) : reg (setRegF s a hi lo x) b = reg s b := reg_setReg_ne s _ h

theorem regF_setRegF_ne (s : State) {a b : Nat} (hi lo x i j : Nat) (h : b ≠ a) : regF (setRegF s a hi lo x) b i j = regF s b i j :=
  regF_congr (reg_setRegF_ne s hi lo x h) i j

/-- The lowest field of a word, after it was put. -/
theorem bitsOf_putBits_low (v x : Nat) {hi : Nat} (h : hi < 64) :
    bitsOf (BitVec.ofNat 64 (putBits v hi 0 x)).toNat hi 0 = x % 2 ^ (hi + 1) := by
  have hdvd : 2 ^ (hi + 1) ∣ 2 ^ 64 := pow_dvd_pow 2 h
  simp only [bitsOf, putBits, BitVec.toNat_ofNat, Nat.shiftRight_zero, Nat.sub_zero, pow_zero, Nat.mod_one, Nat.zero_add, Nat.mul_one]
  rw [Nat.mod_mod_of_dvd _ hdvd, Nat.add_mul_mod_self_right, Nat.mod_mod]

/-- A value put in the lowest field of a register reads back; where it is 0 the registers are in their canonical form. -/
theorem regF_setRegF_low {s : State} {a hi x : Nat} (hhi : hi < 64) (hx : x < 2 ^ (hi + 1)) (h : regsWf s = true ∨ x ≠ 0) :
    regF (setRegF s a hi 0 x) a hi 0 = x := by
  have hread := (bitsOf_putBits_low (reg s a).toNat x hhi).trans (Nat.mod_eq_of_lt hx)
  rw [regF, reg_setRegF_same (h.imp_right fun hne h0 => hne ?_), hread]
  rw [h0] at hread
  simpa [bitsOf] using hread.symm

/-- Setting the upper half of a register leaves its two lowest bits. -/
theorem regF_setRegF_high {s : State} (hwf : regsWf s = true) (a x : Nat) : regF (setRegF s a 63 32 x) a 1 0 = regF s a 1 0 := by
  rw [regF, reg_setRegF_same (.inl hwf), regF]
  simp only [bitsOf, putBits, BitVec.toNat_ofNat, Nat.shiftRight_zero]
  omega

theorem regsWf_setReg {s : State} (h : regsWf s = true) (a : Nat) (v : Word64) : regsWf (setReg s a v) = true := smWf_smSet 0 s.regs a v h

theorem regsWf_setRegF {s : State} (h : regsWf s = true) (a hi lo x : Nat) : regsWf (setRegF s a hi lo x) = true := smWf_smSet 0 s.regs a _ h

/-! ### The state of synchronisation -/

/-- A register other than FAB_SYNC_STATUS moves no state of synchronisation. -/
theorem syncSt_setReg (s : State) {a : Nat} (v : Word64) (h : aFabSync ≠ a) : syncSt (setReg s a v) = syncSt s :=
  regF_congr (reg_setReg_ne s v h) 1 0

theorem syncSt_syncTo (s : State) {st : Nat} (hlt : st < 4) (hne : st ≠ 0) : syncSt (syncTo s st) = st :=
  regF_setRegF_low (by decide) hlt (.inr hne)

theorem syncTo_tim (s : State) (st : Nat) : (syncTo s st).tim = s.tim := rfl

/-- What only records leaves the state of synchronisation, and the time base. -/
theorem RecSame.syncSt {s t : State} (h : RecSame s t) : syncSt t = syncSt s := by
  have hsync : reg t aFabSync = reg s aFabSync := by
    obtain ⟨l, p, m, w, r, rfl, hr⟩ := h
    exact hr aFabSync (by decide)
  exact regF_congr hsync 1 0

theorem RecSame.tim {s t : State} (h : RecSame s t) : t.tim = s.tim := by
  obtain ⟨l, p, m, w, r, rfl, -⟩ := h
  rfl

/-- The first lock of the time base changes the Ledger and what reports it (R492). -/
theorem ldgLock_same (s : State) : RecSame s (ldgLock s) := by
  unfold ldgLock
  split
  · exact .refl s
  · split
    · exact .ldgHost s _ s.host
    · exact (RecSame.ldgHost s _ s.host).trans (ldgPost_same ..)

theorem syncSt_readyCheck (s : State) : syncSt (readyCheck s) = syncSt s := by
  rcases readyCheck_eq s with h | h <;> rw [h]
  exact (regF_congr (congrArg (smGet 0 · aFabSync) (hostVector_regs _ _)) 1 0).trans (regF_setRegF_ne s 8 8 1 1 0 (by decide))

theorem readyCheck_tim (s : State) : (readyCheck s).tim = s.tim := by
  rcases readyCheck_eq s with h | h <;> simp [h]

/-- LOCKED is reached. -/
theorem syncSt_lockReached (s : State) : syncSt (lockReached s) = 2 := by
  rw [lockReached, syncSt_readyCheck, (ldgLock_same _).syncSt, syncSt_syncTo s (by decide) (by decide)]

theorem lockReached_tim (s : State) : (lockReached s).tim = s.tim := by
  rw [lockReached, readyCheck_tim, (ldgLock_same _).tim, syncTo_tim]

/-- The step at first lock moves the count and is remembered (R347, R584). -/
theorem timeStep_tim (s : State) (d : Int) :
    (timeStep s d).tim = { s.tim with acc := wrapInt 96 ((s.tim.acc : Int) + d * 2 ^ 32), stepped := true } := record_tim ..

theorem syncSt_timeStep (s : State) (d : Int) : syncSt (timeStep s d) = syncSt s := (record_same ..).syncSt

/-! ### Exchanges (R346, R347) -/

/-- A message of at most 64 bytes for a link goes into the source queue (R342). -/
theorem tc0SendOn_mem (via : Nat) (s : State) (k : Nat) (d : BitVec 14) (tag : Word32) {b : List Byte} (h : b.length ≤ 64) :
    (⟨BitVec.ofNat 4 k, d, devId s, smGet 0 s.fab.tc0Seq d.toNat, tag, b, false, 0, via⟩ : Tc0) ∈ (tc0SendOn via s k d tag b).fab.tc0q := by
  unfold tc0SendOn
  rw [if_neg (by omega)]
  exact mem_tc0Place _ _

theorem length_syncBody (rsp : Bool) (t1 t2 t3 : Nat) : (syncBody rsp t1 t2 t3).length = 32 := rfl

/-- The registers that an exchange leaves, LINK_DELAY and FAB_SYNC_STATUS.theta, before the state is looked at. -/
def exchanged (s : State) (link : Nat) (t1 t2 t3 t4 : Word64) : State :=
  setRegF (setRegF s (aLink link + 0x30) 31 0 (wrapInt 32 (syncDelay t1 t2 t3 t4))) aFabSync 63 32 (wrapInt 32 (syncTheta t1 t2 t3 t4))

theorem aFabSync_ne_linkDelay (link : Nat) : aFabSync ≠ aLink link + 0x30 := by
  simp only [aFabSync, aFab, aLink]
  omega

theorem regsWf_exchanged {s : State} (h : regsWf s = true) (link : Nat) (t1 t2 t3 t4 : Word64) : regsWf (exchanged s link t1 t2 t3 t4) = true :=
  regsWf_setRegF (regsWf_setRegF h ..) ..

theorem syncSt_exchanged {s : State} (h : regsWf s = true) (link : Nat) (t1 t2 t3 t4 : Word64) :
    syncSt (exchanged s link t1 t2 t3 t4) = syncSt s := by
  have hhigh := regF_setRegF_high (regsWf_setRegF h (aLink link + 0x30) 31 0 (wrapInt 32 (syncDelay t1 t2 t3 t4))) aFabSync
    (wrapInt 32 (syncTheta t1 t2 t3 t4))
  exact hhigh.trans (regF_setRegF_ne s _ _ _ _ _ (aFabSync_ne_linkDelay link))

/-- A state with another time base. -/
def State.withTim (s : State) (tm : Tim) : State := { s with tim := tm }

theorem syncSt_withTim (s : State) (tm : Tim) : syncSt (s.withTim tm) = syncSt s := rfl

theorem regsWf_withTim {s : State} (h : regsWf s = true) (tm : Tim) : regsWf (s.withTim tm) = true := h

/-- The trim that an exchange after the first sets, with the offset and the run of good exchanges noted. -/
def trimmed (s : State) (link : Nat) (t1 t2 t3 t4 : Word64) : State :=
  let s2 := exchanged s link t1 t2 t3 t4
  let th := syncTheta t1 t2 t3 t4
  setRegF (s2.withTim { s2.tim with good := goodAfter s th, theta := th }) aTimTrim 15 0 (wrapInt 16 (trimFor th))

theorem syncSt_trimmed {s : State} (h : regsWf s = true) (link : Nat) (t1 t2 t3 t4 : Word64) : syncSt (trimmed s link t1 t2 t3 t4) = syncSt s :=
  ((syncSt_setReg _ _ (by decide)).trans (syncSt_withTim _ _)).trans (syncSt_exchanged h link t1 t2 t3 t4)

theorem wrapInt_lt (w : Nat) (v : Int) : wrapInt w v < 2 ^ w := by
  have hpos : (0 : Int) < 2 ^ w := by positivity
  have hlt := Int.emod_lt_of_pos v hpos
  have hnn := Int.emod_nonneg v (ne_of_gt hpos)
  unfold wrapInt
  zify
  rwa [Int.toNat_of_nonneg hnn]

theorem trim_trimmed {s : State} (h : regsWf s = true) (link : Nat) (t1 t2 t3 t4 : Word64) :
    regF (trimmed s link t1 t2 t3 t4) aTimTrim 15 0 = wrapInt 16 (trimFor (syncTheta t1 t2 t3 t4)) :=
  regF_setRegF_low (by decide) (wrapInt_lt 16 _) (.inl (regsWf_withTim (regsWf_exchanged h link t1 t2 t3 t4) _))

/-- What the parent's answer does in each state of synchronisation (R347). -/
theorem syncTake_eq {s : State} {link : Nat} (t1 t2 t3 t4 : Word64) (hroot : isRoot s = false) (hparent : link = parentLink s) (hup : linkUp s link = true)
    (hwf : regsWf s = true) :
    (syncSt s = 0 → ∃ u, syncTake s link t1 t2 t3 t4 = timeStep (syncTo u 1) (syncTheta t1 t2 t3 t4) ∧ u.tim = { s.tim with good := 0, theta := 0 }) ∧
    (syncSt s ≠ 0 → syncTake s link t1 t2 t3 t4
      = if syncSt s = 1 ∧ goodAfter s (syncTheta t1 t2 t3 t4) ≥ 8 then lockReached (trimmed s link t1 t2 t3 t4) else trimmed s link t1 t2 t3 t4) := by
  have hst := syncSt_exchanged hwf link t1 t2 t3 t4
  have htrim := syncSt_trimmed hwf link t1 t2 t3 t4
  have htake : ¬(isRoot s || link != parentLink s || !linkUp s link) = true := by simp [hroot, ← hparent, hup]
  unfold syncTake
  rw [if_neg htake]
  refine ⟨fun hfree => ⟨_, if_pos (hst.trans hfree), rfl⟩, fun hbusy => (if_neg (by rw [← hst] at hbusy; exact hbusy)).trans ?_⟩
  rw [← htrim]
  rfl

/-! ### PPS (R543, R544) -/

theorem syncSt_ppsStamp (s : State) : syncSt (ppsStamp s) = syncSt s := syncSt_setReg s _ (by decide)
theorem ppsStamp_tim (s : State) : (ppsStamp s).tim = s.tim := rfl
theorem rootTrim_tim (s : State) : (rootTrim s).tim = s.tim := rfl

/-- The edge at a root that follows PPS leaves it LOCKED. -/
theorem ppsEdge_follows {s : State} (hroot : isRoot s = true) (hedges : s.tim.edges ≠ 0) (hfollows : s.tim.follows = true) :
    syncSt (ppsEdge s) = 2 ∧ (ppsEdge s).tim = { s.tim with edges := s.tim.edges + 1 } := by
  simp only [ppsEdge, hroot, hfollows, if_neg hedges, Bool.not_true, Bool.false_eq_true, if_false]
  rw [syncSt_ppsStamp, ppsStamp_tim]
  split
  · next hlocked => exact ⟨hlocked, rootTrim_tim _⟩
  · exact ⟨syncSt_lockReached _, (lockReached_tim _).trans (rootTrim_tim _)⟩

/-- The first edge at a root in FREE sets its count (R543). -/
theorem ppsEdge_first {s : State} (hroot : isRoot s = true) (hedges : s.tim.edges = 0) (hfree : syncSt s = 0) :
    ∃ u, ppsEdge s = ppsStamp (syncTo u 1) ∧ ∃ acc, u.tim = { s.tim with edges := 1, follows := true, acc := acc, stepped := true } := by
  simp only [ppsEdge, hroot, hedges, hfree, Bool.not_true, Bool.false_eq_true, if_false, if_true]
  exact ⟨_, rfl, _, timeStep_tim ..⟩

/-- An edge at a root that runs free is counted and stamped. -/
theorem ppsEdge_free {s : State} (hroot : isRoot s = true) (h : (s.tim.edges = 0 ∧ syncSt s ≠ 0) ∨ (s.tim.edges ≠ 0 ∧ s.tim.follows = false)) :
    ppsEdge s = ppsStamp { s with tim := { s.tim with edges := s.tim.edges + 1 } } := by
  rcases h with ⟨hedges, hset⟩ | ⟨hedges, hfollows⟩
  · simp only [ppsEdge, hroot, hedges, if_neg hset, Bool.not_true, Bool.false_eq_true, if_false, if_true]
  · simp only [ppsEdge, hroot, hfollows, if_neg hedges, Bool.not_true, Bool.not_false, Bool.false_eq_true, if_false, if_true]

/-- Without an edge a root that followed PPS goes on in HOLDOVER; one that never locked sets its count and is LOCKED (R544). -/
theorem ppsLost_root {s : State} (hroot : isRoot s = true) (hstarted : s.tim.started = true) :
    (s.tim.follows = true → syncSt (ppsLost s) = 3 ∧ (ppsLost s).tim = s.tim) ∧
    (s.tim.follows = false → syncSt s = 0 → syncSt (ppsLost s) = 2 ∧ (ppsLost s).tim.stepped = true) := by
  refine ⟨fun hfollows => ?_, fun hfollows hfree => ?_⟩
  · simp only [ppsLost, hroot, hstarted, hfollows, Bool.not_true, Bool.or_self, Bool.false_eq_true, if_false, if_true]
    split
    · next hheld => exact ⟨hheld, rfl⟩
    · exact ⟨((record_same ..).syncSt).trans (syncSt_syncTo s (by decide) (by decide)), record_tim ..⟩
  · simp only [ppsLost, hroot, hstarted, hfollows, hfree, Bool.not_true, Bool.or_self, Bool.false_eq_true, if_false, if_true]
    refine ⟨syncSt_lockReached _, ?_⟩
    rw [lockReached_tim, record_tim, rootSet, timeStep_tim]

/-! ### Holdover -/

theorem timeEvent_syncSt (s : State) (code : Word16) : syncSt (timeEvent s code) = syncSt s := by
  unfold timeEvent
  split
  · exact (record_same ..).syncSt
  · rfl

theorem timeEvent_tim (s : State) (code : Word16) : (timeEvent s code).tim = s.tim := by
  unfold timeEvent
  split
  · exact record_tim ..
  · rfl

/-! ### The statement -/

/-- Settles O32: the exchange by the state of synchronisation that it finds, the PPS edge by what the root knows, the rest by one write each. -/
theorem timeResults : Obligations.TimeResults := by
  unfold Obligations.TimeResults
  refine ⟨fun s hroot hstarted hup => ?_, fun s link child t1 t2 hk hlocked => ?_, fun s link child t1 t2 hk hunlocked => ?_,
    fun s link t1 t2 t3 t4 hroot hparent hup hst hwf => ?_, fun s link t1 t2 t3 t4 hroot hparent hup hst hwf => ?_,
    fun s link t1 t2 t3 t4 hroot hparent hup hst hwf => ?_, fun s hroot hhold hst => ?_, fun s hroot hwf => ?_, fun s hroot hedges hst => ?_,
    fun s hroot hfree => ?_, fun s hroot hedges hfollows => ?_, fun s hroot hstarted => ?_, fun s hwf => ?_⟩
  · have hask : syncAsk s = tc0SendOn (parentLink s) s 5 (BitVec.ofNat 14 (getLink s (parentLink s)).ndev) 0 (syncBody false (now s) 0 0) :=
      if_neg (by simp [hroot, hstarted, hup])
    exact ⟨_, _, congrArg Host.Outcome.next hask, tc0SendOn_mem _ _ _ _ _ (by rw [length_syncBody]; decide), rfl, rfl, rfl, rfl, rfl⟩
  · have hanswer : syncAnswer s link child t1 t2 = tc0SendOn link s 5 child 0 (syncBody true t1.toNat t2.toNat (now s)) := if_pos hlocked
    exact ⟨_, _, (onLink_of_lt hk _).trans (congrArg Host.Outcome.next hanswer), tc0SendOn_mem _ _ _ _ _ (by rw [length_syncBody]; decide), rfl, rfl,
      rfl, rfl⟩
  · exact (onLink_of_lt hk _).trans (congrArg Host.Outcome.next (if_neg hunlocked))
  · obtain ⟨u, htake, htim⟩ := (syncTake_eq t1 t2 t3 t4 hroot hparent hup hwf).1 hst
    refine ⟨_, onLink_of_lt (linkUp_iff.mp hup).1 _, ?_⟩
    rw [htake, syncSt_timeStep, syncSt_syncTo u (by decide) (by decide), timeStep_tim, syncTo_tim, htim]
    exact ⟨rfl, rfl, rfl⟩
  · have htake := (syncTake_eq t1 t2 t3 t4 hroot hparent hup hwf).2 (by rw [hst]; decide)
    refine ⟨_, onLink_of_lt (linkUp_iff.mp hup).1 _, ?_⟩
    rw [htake]
    simp only [hst, true_and]
    split
    · rw [lockReached_tim, syncSt_lockReached]
      exact ⟨rfl, rfl, rfl, rfl⟩
    · exact ⟨rfl, rfl, rfl, (syncSt_trimmed hwf ..).trans hst⟩
  · have htake := (syncTake_eq t1 t2 t3 t4 hroot hparent hup hwf).2 (by rw [hst]; decide)
    refine ⟨_, onLink_of_lt (linkUp_iff.mp hup).1 _, ?_⟩
    rw [htake, if_neg (by rw [hst]; simp)]
    exact ⟨(syncSt_trimmed hwf ..).trans hst, rfl, trim_trimmed hwf ..⟩
  · have hends : holdoverEnds s = timeEvent (syncTo s 3) cTimeUnlocked := if_neg (by simp [hroot, hhold, hst])
    refine ⟨_, congrArg Host.Outcome.next hends, ?_, timeEvent_tim ..⟩
    rw [timeEvent_syncSt, syncSt_syncTo s (by decide) (by decide)]
  · have hedge : ppsEdge s = ppsStamp s := if_pos (by simp [hroot])
    exact ⟨_, congrArg Host.Outcome.next hedge, reg_setReg_same hwf _ _, rfl⟩
  · obtain ⟨u, hedge, acc, htim⟩ := ppsEdge_first hroot hedges hst
    refine ⟨_, congrArg Host.Outcome.next hedge, ?_⟩
    rw [syncSt_ppsStamp, syncSt_syncTo u (by decide) (by decide), ppsStamp_tim, syncTo_tim, htim]
    exact ⟨rfl, rfl, rfl, rfl⟩
  · exact ⟨_, congrArg Host.Outcome.next (ppsEdge_free hroot hfree), syncSt_ppsStamp _, ppsStamp_tim _⟩
  · obtain ⟨hst, htim⟩ := ppsEdge_follows hroot hedges hfollows
    exact ⟨_, rfl, hst, by rw [htim]⟩
  · obtain ⟨hheld, hset⟩ := ppsLost_root hroot hstarted
    exact ⟨fun hfollows => ⟨_, rfl, hheld hfollows⟩, fun hfollows hfree => ⟨_, rfl, hset hfollows hfree⟩⟩
  · refine ⟨_, rfl, ?_, reg_setReg_same (regsWf_setReg hwf _ _) _ _⟩
    exact (reg_setReg_ne _ _ (by decide)).trans (reg_setReg_same hwf _ _)

end Sys2Proof.Machine
end

section
/-! PROOFS. O28 and O29: what stands between a packet's own effect and the end of its command. The pairs at the source, the reads that wait and the
engines are kept by everything that only records, announces, stirs the detector or puts items into queues; the pairs and the count of what was lost
are kept as well by the end of a collective that lost a member. Each function is shown to keep them, in the order of the model's files. -/

namespace Sys2Proof.Machine

/-- The two sides of the packets of this module: pairs at the source, reads that wait and reads that are served, those who watch memory, what was
lost, the engines whose operations they belong to, and whether a drain is under way. -/
@[ext] structure Streams where
  tx : SMap TxPair
  lost : Word64
  st : JobSt
  order4 : Bool
  reads : List ReadWait
  serve : List ServeRd
  who : List Watcher
  lostDst : List (BitVec 14)
  ce : SMap Engine

def streams (s : State) : Streams :=
  ⟨s.fab.tx, smGet 0 s.regs aFabLost, s.job.st, s.job.order4, s.fab.reads, s.fab.serve, s.mem.watch.map (·.who), s.fab.lostDst, s.ce⟩

/-- The part of them that a failed collective leaves. -/
def Streams.pairs (v : Streams) : SMap TxPair × Word64 × JobSt × Bool := (v.tx, v.lost, v.st, v.order4)

@[simp] theorem streams_mk (a b c d e f g h i j k l m n o p q r t u v w) :
    streams (State.mk a b c d e f g h i j k l m n o p q r t u v w)
      = ⟨o.tx, smGet 0 e aFabLost, n.st, n.order4, o.reads, o.serve, j.watch.map (·.who), o.lostDst, k⟩ :=
  Streams.ext rfl rfl rfl rfl rfl rfl rfl rfl rfl

@[simp] theorem streams_eta (s : State) :
    Streams.mk s.fab.tx (smGet 0#64 s.regs aFabLost) s.job.st s.job.order4 s.fab.reads s.fab.serve (s.mem.watch.map (·.who)) s.fab.lostDst s.ce
      = streams s :=
  Streams.ext rfl rfl rfl rfl rfl rfl rfl rfl rfl

@[simp] theorem streams_ite (c : Prop) [Decidable c] (s t : State) : streams (if c then s else t) = if c then streams s else streams t :=
  apply_ite _ _ _ _

@[simp] theorem streams_foldl {α : Type} (f : State → α → State) (h : ∀ s x, streams (f s x) = streams s) (l : List α) (s : State) :
    streams (l.foldl f s) = streams s := by
  induction l generalizing s with
  | nil => rfl
  | cons x l ih => exact (ih _).trans (h s x)

/-- A torn envelope has the watcher that it had. -/
@[simp] theorem who_comp_torn (c : Watch → Prop) [DecidablePred c] :
    ((fun w : Watch => w.who) ∘ fun w => if c w then ⟨w.who, w.lo, w.hi, true⟩ else w) = fun w => w.who := by
  funext w
  simp only [Function.comp]
  split <;> rfl

/-! ### What the functions of `Ops` keep -/

@[simp] theorem setCore_streams (s i c) : streams (setCore s i c) = streams s := by simp [setCore]

@[simp] theorem modCore_streams (s i f) : streams (modCore s i f) = streams s := by simp [modCore]

/-- A register other than FAB_E2E_LOST. -/
theorem setReg_streams (s : State) {a : Nat} (v : Word64) (h : aFabLost ≠ a) : streams (setReg s a v) = streams s := by
  simp [setReg, smGet_smSet_ne _ _ _ _ _ h]

theorem setRegF_streams (s : State) {a : Nat} (hi lo x : Nat) (h : aFabLost ≠ a) : streams (setRegF s a hi lo x) = streams s :=
  setReg_streams s _ h

theorem bump_streams (s : State) {a : Nat} (n : Nat) (h : aFabLost ≠ a) : streams (bump s a n) = streams s := by
  simp [bump, setReg_streams s _ h]

@[simp] theorem bump_ldgLost_streams (s n) : streams (bump s aLdgLost n) = streams s := bump_streams s n (by decide)

@[simp] theorem draw_streams (s) : streams (draw s).2 = streams s := by simp [draw]

@[simp] theorem hostTear_streams (s p n) : streams (hostTear s p n) = streams s := by simp [hostTear]

@[simp] theorem hostVector_streams (s v) : streams (hostVector s v) = streams s := by simp [hostVector]

@[simp] theorem hostWrite_streams (s a bs) : streams (hostWrite s a bs) = streams s :=
  (by simp [hostWrite] : streams (hostWrite s a bs) = streams (hostTear s a bs.length)).trans (hostTear_streams ..)

@[simp] theorem hostPut_streams (s n cid more status r0 r1) : streams (hostPut s n cid more status r0 r1) = streams s := by simp [hostPut]

@[simp] theorem hostEvent_streams (s r) : streams (hostEvent s r).1 = streams s := by
  unfold hostEvent
  repeat' split
  all_goals simp

@[simp] theorem hostEvents_streams (rs s) : streams (hostEvents rs s).1 = streams s := by
  induction rs generalizing s with
  | nil => rfl
  | cons r rs ih => exact (ih _).trans (hostEvent_streams s r)

@[simp] theorem ldgPost_streams (s l rs) : streams (ldgPost s l rs) = streams s := by simp [ldgPost]

@[simp] theorem record_streams (s cls source code payload) : streams (record s cls source code payload) = streams s := by simp [record]

@[simp] theorem tc0SendOn_streams (via s kind dst tag body) : streams (tc0SendOn via s kind dst tag body) = streams s := by simp [tc0SendOn]

@[simp] theorem tc0Send_streams (s kind dst tag body) : streams (tc0Send s kind dst tag body) = streams s := by simp [tc0Send]

@[simp] theorem tc0SendAll_streams (kind body a s) : streams (tc0SendAll kind body a s) = streams s := by
  fun_induction tc0SendAll kind body a s <;> simp_all

@[simp] theorem noticeSend_streams (s gone cause code) : streams (noticeSend s gone cause code) = streams s := by simp [noticeSend]

@[simp] theorem detWithdraw_streams (s) : streams (detWithdraw s) = streams s := by
  have hkeep := record_streams s kEvent srcSeq cBlockWithdrawn (now s - s.sync.blockedAt)
  simp only [detWithdraw]
  generalize record s kEvent srcSeq cBlockWithdrawn (now s - s.sync.blockedAt) = u at hkeep ⊢
  repeat' split
  all_goals simp [hkeep]

@[simp] theorem detLeave_streams (s) : streams (detLeave s) = streams s := by unfold detLeave; split <;> simp

@[simp] theorem detStir_streams (s) : streams (detStir s) = streams s := by simp [detStir]

@[simp] theorem haltOrders_streams (keep s) : streams (haltOrders keep s) = streams s := by simp [haltOrders]

@[simp] theorem seqFault_streams (s core idx code) : streams (seqFault s core idx code) = streams s := by
  have hne : aFabLost ≠ aSeqFault := by decide
  unfold seqFault
  split
  · exact setRegF_streams s _ _ _ hne
  · exact setReg_streams s _ hne

@[simp] theorem fatalMark_streams (s core idx code) : streams (fatalMark s core idx code) = streams s := by
  have hkeep := seqFault_streams s core idx code
  simp only [fatalMark, noticeSend_streams]
  generalize seqFault s core idx code = u at hkeep ⊢
  simp [hkeep]

@[simp] theorem coreStops_streams (s core) : streams (coreStops s core) = streams s := by simp [coreStops]

@[simp] theorem jobFatalKeep_streams (keep s core idx code source payload) :
    streams (jobFatalKeep keep s core idx code source payload) = streams s := by
  simp only [jobFatalKeep]
  repeat' split
  all_goals simp

@[simp] theorem jobFatal_streams (s core idx code source payload) : streams (jobFatal s core idx code source payload) = streams s := by simp [jobFatal]

@[simp] theorem contained_streams (s source code payload) : streams (contained s source code payload) = streams s := by simp [contained]

@[simp] theorem readyDrop_streams (s) : streams (readyDrop s) = streams s := by
  have hne : aFabLost ≠ aBoot := by decide
  simp [readyDrop, setRegF_streams _ _ _ _ hne]

@[simp] theorem deviceFatal_streams (s source code payload) : streams (deviceFatal s source code payload) = streams s := by
  have hkeep := record_streams s kDeviceFatal source code payload
  simp only [deviceFatal, hostVector_streams, readyDrop_streams, noticeSend_streams, detLeave_streams]
  generalize record s kDeviceFatal source code payload = u at hkeep ⊢
  simp [draw, hkeep]

/-! ### What the detector's reports and the links keep -/

@[simp] theorem takeDeadlock_streams (s lead count) : streams (takeDeadlock s lead count) = streams s := by simp [takeDeadlock]

@[simp] theorem leadCheck_streams (s) : streams (leadCheck s) = streams s := by
  simp only [leadCheck]
  split
  · rw [takeDeadlock_streams]
    exact tc0SendAll_streams ..
  · rfl

@[simp] theorem sendBlocked_streams (s) : streams (sendBlocked s) = streams s := by
  simp only [sendBlocked]
  repeat' split
  all_goals simp

@[simp] theorem sentNote_streams (s) : streams (sentNote s) = streams s := by simp [sentNote]

@[simp] theorem modLink_streams (s k f) : streams (modLink s k f) = streams s := by simp [modLink, setLink]

@[simp] theorem linkPut_streams (s k input w) : streams (linkPut s k input w) = streams s := by simp [linkPut]

@[simp] theorem fabOut_streams (s input w) : streams (fabOut s input w) = streams s := by unfold fabOut; split <;> simp

@[simp] theorem fabSource_streams (s p) : streams (fabSource s p) = streams s := by simp [fabSource]

@[simp] theorem fabAgain_streams (s p) : streams (fabAgain s p) = streams s := by unfold fabAgain; split <;> simp

@[simp] theorem fabAck_streams (s p n) : streams (fabAck s p n) = streams s := by
  simp only [fabAck]
  split <;> simp

end Sys2Proof.Machine
end

section
/-! PROOFS. O28: answers at the source. The end of a command of packets finds nothing to do while no read is served, no collective has lost a member and no
drain is under way; each answer then leaves what its own meaning writes, and pumping a pair keeps the packets that it lost. -/

namespace Sys2Proof.Machine

/-! ### Nothing left to settle -/

/-- No collective of an engine has lost a member. -/
def noneLostOf (e : Engine) : Bool := e.ops.all (fun o => !o.memberLost)

/-- Whose envelope an answer may free. -/
def whoServed : Watcher → Bool
  | .remote _ _ => true
  | _ => false

/-- Nothing for the end of a command of packets: no read served or watched for, no packet or member lost, no drain under way. -/
structure Streams.Settled (v : Streams) : Prop where
  serve : v.serve = []
  who : v.who.all (fun w => !whoServed w) = true
  lostDst : v.lostDst = []
  ce : v.ce.all (fun p => noneLostOf p.2) = true
  drain : ¬(v.st = .preempting ∧ v.order4 = true)

theorem settled_of {s : State} (hserved : noServed s = true) (hlost : noneLost s = true) (hdrain : ¬(s.job.st = .preempting ∧ s.job.order4 = true)) :
    (streams s).Settled := by
  simp only [noServed, noneLost, Bool.and_eq_true, List.isEmpty_iff] at hserved hlost
  obtain ⟨hserve, hwatch⟩ := hserved
  obtain ⟨hce, hdst⟩ := hlost
  refine ⟨hserve, ?_, hdst, hce, hdrain⟩
  rw [streams, List.all_map]
  rw [List.all_eq_true] at hwatch ⊢
  intro w hw
  have hkind := hwatch w hw
  simp only [Function.comp]
  cases hwho : w.who <;> simp_all [whoServed]

/-- With no read served, and no envelope held for one, there is nothing to answer or to free. -/
theorem serveSettle_of_unserved {s : State} (hserve : s.fab.serve = []) (hwho : (streams s).who.all (fun w => !whoServed w) = true) :
    serveSettle s = s := by
  have hwatch : s.mem.watch.any (serveOver s) = false := by
    rw [List.any_eq_false]
    intro w hw
    have hkind := List.all_eq_true.mp hwho w.who (List.mem_map_of_mem hw)
    cases hw : w.who <;> simp_all [whoServed, serveOver]
  simp [serveSettle, hwatch, hserve]

theorem colSweepGo_of_noneLost {k : Nat} {l : List CeOp} (h : ∀ o ∈ l, o.memberLost = false) (s : State) : colSweepGo k l s = s := by
  induction l with
  | nil => rfl
  | cons o l ih =>
    rw [colSweepGo, h o List.mem_cons_self]
    simpa using ih fun o' ho' => h o' (List.mem_cons_of_mem _ ho')

theorem noneLost_ops {s : State} (h : (streams s).Settled) {k : Nat} {o : CeOp} (ho : o ∈ (getCe s k).ops) : o.memberLost = false := by
  have hall : noneLostOf (getCe s k) = true := smGet_of_all (P := noneLostOf) rfl h.ce
  simpa using List.all_eq_true.mp hall o ho

theorem foldl_fixed {α : Type} {f : State → α → State} {s : State} (h : ∀ x, f s x = s) (l : List α) : l.foldl f s = s := by
  induction l with
  | nil => rfl
  | cons x l ih => rw [List.foldl_cons, h x, ih]

theorem colSweep_of_settled {s : State} (h : (streams s).Settled) : colSweep s = s := by
  have hlost : s.fab.lostDst = [] := h.lostDst
  have hsame : { s with fab := { s.fab with lostDst := [] } } = s := by rw [← hlost]
  unfold colSweep
  rw [hlost, hsame, List.foldl_nil]
  exact foldl_fixed (fun k => colSweepGo_of_noneLost (fun o ho => noneLost_ops h ho) s) _

theorem pktSettle_of_settled (old : State) {s : State} (h : (streams s).Settled) : pktSettle old s = s := by
  have hdrain : drainNote s = s := if_neg h.drain
  simp only [pktSettle, serveSettle_of_unserved h.serve h.who, colSweep_of_settled h, hdrain, ite_self]

/-- What waits to settle does not depend on the pairs, or on the reads that wait. -/
theorem Streams.Settled.withTx {v : Streams} (h : v.Settled) (tx : SMap TxPair) : { v with tx := tx }.Settled := ⟨h.serve, h.who, h.lostDst, h.ce, h.drain⟩

theorem Streams.Settled.withReads {v : Streams} (h : v.Settled) (l : List ReadWait) : { v with reads := l }.Settled :=
  ⟨h.serve, h.who, h.lostDst, h.ce, h.drain⟩

/-! ### An operation changed -/

theorem settled_modOp {s : State} (h : (streams s).Settled) (k uid : Nat) {f : CeOp → CeOp} (hf : ∀ o, (f o).memberLost = o.memberLost) :
    (streams (modOp s k uid f)).Settled := by
  have hall : noneLostOf (getCe s k) = true := smGet_of_all (P := noneLostOf) rfl h.ce
  refine ⟨h.serve, h.who, h.lostDst, smSet_all (P := noneLostOf) ?_ h.ce, h.drain⟩
  rw [noneLostOf, List.all_map, List.all_eq_true]
  intro o ho
  have hkept := List.all_eq_true.mp hall o ho
  simp only [Function.comp]
  split
  · rwa [hf]
  · exact hkept

theorem mem_modOp {s : State} {k uid : Nat} {o : CeOp} (f : CeOp → CeOp) (ho : o ∈ (getCe s k).ops) (huid : o.uid = uid) :
    f o ∈ (getCe (modOp s k uid f) k).ops := by
  have hmem : f o ∈ (getCe s k).ops.map (fun o => if o.uid = uid then f o else o) := List.mem_map.mpr ⟨o, ho, if_pos huid⟩
  rw [getCe, modOp, setCe, smGet_smSet_val _ _ _ _ fun e => List.ne_nil_of_mem hmem (congrArg Engine.ops e)]
  exact hmem

/-! ### A pair is pumped -/

/-- Handing over a pair's packets changes nothing but the pairs, and keeps what this pair lost. -/
theorem txPumpGo_streams {key n : Nat} {s : State} (h : (smGet TxPair.init s.fab.tx key).lost ≠ []) :
    ∃ tx, streams (txPumpGo key n s) = { streams s with tx := tx } ∧
      (smGet TxPair.init tx key).lost = (smGet TxPair.init s.fab.tx key).lost := by
  induction n generalizing s with
  | zero => exact ⟨s.fab.tx, rfl, rfl⟩
  | succ n ih =>
    have hnext : ∀ {u : State} {t1 : TxPair}, streams u = { streams s with tx := smSet TxPair.init s.fab.tx key t1 } →
        t1.lost = (smGet TxPair.init s.fab.tx key).lost → ∃ tx, streams (txPumpGo key n u) = { streams s with tx := tx } ∧
          (smGet TxPair.init tx key).lost = (smGet TxPair.init s.fab.tx key).lost := by
      intro u t1 hu hlost
      have htx : u.fab.tx = smSet TxPair.init s.fab.tx key t1 := congrArg Streams.tx hu
      have hpair : smGet TxPair.init u.fab.tx key = t1 := by
        rw [htx]
        exact smGet_smSet_val _ _ _ _ fun e => h (hlost.symm.trans (congrArg TxPair.lost e))
      obtain ⟨tx, hstreams, hkept⟩ := ih (s := u) (by rwa [hpair, hlost])
      exact ⟨tx, by rw [hstreams, hu], by rw [hkept, hpair, hlost]⟩
    simp only [txPumpGo]
    split
    · exact ⟨s.fab.tx, rfl, rfl⟩
    · split
      · exact ⟨s.fab.tx, rfl, rfl⟩
      · exact hnext ((fabSource_streams _ _).trans rfl) rfl

theorem txPump_streams {key : Nat} {s : State} (h : (smGet TxPair.init s.fab.tx key).lost ≠ []) :
    ∃ tx, streams (txPump s key) = { streams s with tx := tx } ∧ (smGet TxPair.init tx key).lost = (smGet TxPair.init s.fab.tx key).lost := by
  unfold txPump
  split
  · rw [sentNote_streams]
    exact txPumpGo_streams h
  · exact ⟨s.fab.tx, rfl, rfl⟩

/-- A pair in which nothing waits has nothing to pump. -/
theorem txPump_streams_of_idle {s : State} {key : Nat} (h : (smGet TxPair.init s.fab.tx key).wait = []) : streams (txPump s key) = streams s := by
  simp [txPump, h, txPumpGo]

end Sys2Proof.Machine
end

section
/-! PROOFS. O28: the statement. A packet of the job that is well formed reaches its own meaning; what that leaves is written out for each answer. -/

namespace Sys2Proof.Machine

/-! ### A packet of the job is taken -/

theorem pktRefusal_of_job {s : State} {p : Packet} (hdevice : s.job.device = none) (hfatal : s.job.fatal = none) (hleft : s.job.left = false)
    (hgone : s.job.gone.contains p.src = false) (htakes : jobTakes s = true) (htag : p.tag = s.job.tag) : pktRefusal s p = none := by
  simp only [pktRefusal, hdevice, hfatal, hleft, hgone, htakes, htag]
  simp

theorem pktFormBad_answer {s : State} {link : Nat} {p : Packet} (hkz : p.kz = false)
    (htyp : p.typ = 3 ∨ p.typ = 5 ∨ p.typ = 6 ∨ p.typ = 7 ∨ p.typ = 9 ∧ 2 ≤ (getLink s link).fpl) : pktFormBad s link p = false := by
  rcases htyp with h | h | h | h | ⟨h, hfpl⟩
  · simp [pktFormBad, sigBad, hkz, h]
  · simp [pktFormBad, sigBad, hkz, h]
  · simp [pktFormBad, sigBad, hkz, h]
  · simp [pktFormBad, sigBad, hkz, h]
  · simp [pktFormBad, sigBad, hkz, h, Nat.not_lt.mpr hfpl]

/-- A packet for this module that leaves nothing to settle. -/
theorem arrive_here {s : State} {link : Nat} {p : Packet} (hup : linkUp s link = true) (hdst : p.dst = devId s)
    (hset : (streams (pktTake s link p)).Settled) : onLink link (pktArrive s link p) = .next (pktTake s link p) := by
  rw [onLink_of_lt (linkUp_iff.mp hup).1, pktArrive, hup, if_pos hdst, pktSettle_of_settled s hset]
  rfl

theorem pktTake_answer {s : State} {link : Nat} {p : Packet} (hform : pktFormBad s link p = false) (href : pktRefusal s p = none)
    (htyp : p.typ = 5 ∨ p.typ = 6 ∨ p.typ = 7 ∨ p.typ = 9) : pktTake s link p = takeAnswer s p := by
  have hok : answerOk s p = true := by simp [answerOk, href]
  rw [pktTake, hform, if_neg (by simp), if_pos htyp, if_pos hok]

theorem pktTake_rsp {s : State} {link : Nat} {p : Packet} (hform : pktFormBad s link p = false) (href : pktRefusal s p = none) (htyp : p.typ = 3) :
    pktTake s link p = takeRsp s p := by
  rw [pktTake, hform, href]
  simp [htyp]

/-! ### RD_RSP (R339) -/

/-- What an answer does to the operation that asked. -/
def rspData (p : Packet) (r : ReadWait) (o : CeOp) : CeOp :=
  { opData o r.key (slice p.payload 0 r.n) (payFlags p r.n) with torn := o.torn || p.torn }

/-- The read is answered: it waits no longer, and its operation has its bytes. -/
def rspPut (s : State) (p : Packet) (r : ReadWait) : State :=
  let s1 := { s with fab := { s.fab with reads := s.fab.reads.erase r } }
  match r.owner with
  | .ce k uid _ => modOp s1 k uid (rspData p r)
  | .col k uid => modOp s1 k uid (rspData p r)
  | _ => s1

theorem takeRsp_streams {s : State} {p : Packet} {r : ReadWait}
    (hfind : s.fab.reads.find? (fun r => r.dst == p.src && r.ctx == p.ctx && r.seq == p.seq) = some r) :
    streams (takeRsp s p) = streams (rspPut s p r) := by
  simp only [takeRsp, hfind]
  rw [fabAck_streams, detStir_streams]
  rfl

theorem rspPut_settled {s : State} (h : (streams s).Settled) (p : Packet) (r : ReadWait) : (streams (rspPut s p r)).Settled := by
  have hreads : (streams { s with fab := { s.fab with reads := s.fab.reads.erase r } }).Settled := h.withReads _
  unfold rspPut
  split
  · exact settled_modOp hreads _ _ fun _ => rfl
  · exact settled_modOp hreads _ _ fun _ => rfl
  · exact hreads

theorem rspPut_reads (s : State) (p : Packet) (r : ReadWait) : (rspPut s p r).fab.reads = s.fab.reads.erase r := by
  unfold rspPut
  split <;> rfl

theorem rspPut_tx (s : State) (p : Packet) (r : ReadWait) : (rspPut s p r).fab.tx = s.fab.tx := by
  unfold rspPut
  split <;> rfl

/-! ### ACK and ACKC (R336) -/

/-- An acknowledgement of a pair in which nothing waits frees what it covers. -/
theorem ackTake_streams {s : State} (hwf : smWf TxPair.init s.fab.tx = true) (dst ctx : BitVec 14) (n : Word16)
    (hwait : (smGet TxPair.init s.fab.tx (txKey ctx dst)).wait = []) :
    streams (ackTake s dst ctx n) = { streams s with
      tx := smSet TxPair.init s.fab.tx (txKey ctx dst) { smGet TxPair.init s.fab.tx (txKey ctx dst) with
        air := (smGet TxPair.init s.fab.tx (txKey ctx dst)).air.filter (fun q => !serialLe q.pkt.seq n) } } := by
  rw [ackTake, txPump_streams_of_idle]
  · rfl
  · rw [smGet_smSet_same _ _ _ _ hwf]
    exact hwait

/-- A slice holds the bytes of the list, and zeros past its end. -/
theorem getElem?_slice (l : List Byte) (a n i : Nat) : (slice l a n)[i]? = if i < n then some (l.getD (a + i) 0) else none := by
  simp only [slice, zeros, List.getElem?_append, List.length_take, List.length_drop, List.getElem?_take, List.getElem?_drop,
    List.getElem?_replicate, List.getD_eq_getElem?_getD]
  by_cases hi : i < n
  · by_cases hl : a + i < l.length
    · simp [hi, hl, show i < l.length - a by omega]
    · simp [hi, show ¬i < l.length - a by omega, show l.length ≤ a + i by omega, show i - (min n (l.length - a)) < n - min n (l.length - a) by omega]
  · simp [hi, show ¬i - (min n (l.length - a)) < n - min n (l.length - a) by omega]

theorem slice_slice (l : List Byte) {m a n : Nat} (h : a + n ≤ m) : slice (slice l 0 m) a n = slice l a n := by
  refine List.ext_getElem? fun i => ?_
  rw [getElem?_slice, getElem?_slice]
  split
  · rw [List.getD_eq_getElem?_getD, getElem?_slice, if_pos (by omega), Nat.zero_add, Option.getD_some]
  · rfl

theorem fieldAt_slice (l : List Byte) {m a n : Nat} (h : a + n ≤ m) : fieldAt (slice l 0 m) a n = fieldAt l a n := congrArg leNat (slice_slice l h)

theorem chunks_one {l : List Byte} (h : l.length = 4) : chunks 4 l = [l] := by
  rw [chunks, h]
  exact congrArg (· :: []) (List.take_of_length_le (Nat.le_of_eq h))

/-- An ACKC with one entry is the acknowledgement of that stream. -/
theorem takeAckc_one {s : State} {p : Packet} (hlen : p.len = 4) :
    takeAckc s p = ackTake s p.src (BitVec.ofNat 14 (fieldAt p.payload 0 2)) (BitVec.ofNat 16 (fieldAt p.payload 2 2)) := by
  have hbytes : p.len.toNat / 4 * 4 = 4 := by rw [hlen]; rfl
  rw [takeAckc, hbytes, chunks_one (Tests.slice_length _ _ _), List.foldl_cons, List.foldl_nil, fieldAt_slice _ (by decide), fieldAt_slice _ (by decide)]

/-! ### ERR (R336, R337) -/

/-- A packet that leaves the flight is kept for a go (R437). -/
theorem txDrop_lost (s : State) (key : Nat) (q : TxPkt) (err : Bool) :
    (smGet TxPair.init (txDrop s key q err).fab.tx key).lost
      = (smGet TxPair.init s.fab.tx key).lost ++ [{ q with tries := 0, nacked := err }] := by
  rw [txDrop, smGet_smSet_val]
  exact fun e => List.append_ne_nil_of_right_ne_nil _ (List.cons_ne_nil _ _) (congrArg TxPair.lost e)

/-- A fragment of a copy has failed. -/
def failFrag (frag : Nat) (o : CeOp) : CeOp := { o with fails := o.fails ||| BitVec.ofNat 64 (2 ^ (frag % 64)) }

/-- The fragment of a copy whose packet was refused fails; the packet is kept for a go. -/
theorem takeErr_streams {s : State} {p : Packet} {q : TxPkt} {k uid frag : Nat}
    (hfind : (smGet TxPair.init s.fab.tx (txKey p.ctx p.src)).air.find? (fun q => q.pkt.seq == BitVec.ofNat 16 p.spec.toNat) = some q)
    (howner : q.owner = .ce k uid frag) :
    ∃ tx, streams (takeErr s p) = { streams (modOp s k uid (failFrag frag)) with tx := tx } ∧
      { q with tries := 0, nacked := true } ∈ (smGet TxPair.init tx (txKey p.ctx p.src)).lost := by
  have hdrop := txDrop_lost s (txKey p.ctx p.src) q true
  obtain ⟨tx, hst, hlost⟩ := txPump_streams (key := txKey p.ctx p.src) (s := ownerFail (txDrop s (txKey p.ctx p.src) q true) (.ce k uid frag))
    (by rw [ownerFail, setCe, hdrop]; simp)
  refine ⟨tx, ?_, ?_⟩
  · simp only [takeErr, hfind, howner]
    exact hst
  · rw [hlost]
    simp [ownerFail, setCe, hdrop]

/-! ### The commands -/

theorem exec_rdRsp {s : State} {link : Nat} {p : Packet} (hup : linkUp s link = true) (hdst : p.dst = devId s) (hkz : p.kz = false)
    (href : pktRefusal s { p with typ := 3 } = none) (hset : (streams (takeRsp s { p with typ := 3 })).Settled) :
    exec (.rdRsp link p) s = .next (takeRsp s { p with typ := 3 }) := by
  have htake : pktTake s link { p with typ := 3 } = takeRsp s { p with typ := 3 } := pktTake_rsp (pktFormBad_answer hkz (.inl rfl)) href rfl
  have harrive := arrive_here (p := { p with typ := 3 }) hup hdst (by rwa [htake])
  rw [htake] at harrive
  exact harrive

/-- An answer that arrives is obeyed. -/
theorem answer_arrives {s : State} {link : Nat} {p : Packet} (hup : linkUp s link = true) (hdst : p.dst = devId s) (hkz : p.kz = false)
    (href : pktRefusal s p = none) (htyp : p.typ = 5 ∨ p.typ = 6 ∨ p.typ = 7 ∨ p.typ = 9 ∧ 2 ≤ (getLink s link).fpl)
    (hset : (streams (takeAnswer s p)).Settled) : onLink link (pktArrive s link p) = .next (takeAnswer s p) := by
  have htake := pktTake_answer (pktFormBad_answer (s := s) (link := link) hkz (.inr htyp)) href (by tauto)
  exact (arrive_here hup hdst (by rwa [htake])).trans (congrArg Host.Outcome.next htake)

/-! ### The statement -/

/-- Settles O28: each answer leaves what its own meaning writes, and nothing else is to be settled. -/
theorem packetAnswers : Obligations.PacketAnswers := by
  unfold Obligations.PacketAnswers
  intro s link p hup hdst hkz hdevice hnone hdrain hwf htag hgone htakes hfatal hleft hserved
  have hset := settled_of hserved hnone hdrain
  have href (typ : BitVec 4) : pktRefusal s { p with typ := typ } = none := pktRefusal_of_job hdevice hfatal hleft hgone htakes htag
  have hanswer (typ : BitVec 4) := answer_arrives (s := s) (link := link) (p := { p with typ := typ }) hup hdst hkz (href typ)
  refine ⟨fun r hfind => ?_, fun hwait => ?_, fun hfpl hlen hwait => ?_, ?_, fun q k uid frag o hfind howner ho huid => ?_⟩
  case refine_1 =>
    have hst := takeRsp_streams (p := { p with typ := 3 }) hfind
    have hput := rspPut_settled hset { p with typ := 3 } r
    refine ⟨_, exec_rdRsp hup hdst hkz (href 3) (by rwa [hst]), (congrArg Streams.reads hst).trans (rspPut_reads ..),
      (congrArg Streams.tx hst).trans (rspPut_tx ..), fun k uid frag o howner ho huid => ?_⟩
    have hce : (takeRsp s { p with typ := 3 }).ce = (rspPut s { p with typ := 3 } r).ce := congrArg Streams.ce hst
    rw [getCe, hce, rspPut, howner]
    exact mem_modOp (rspData { p with typ := 3 } r) ho huid
  case refine_2 =>
    have hst := ackTake_streams hwf p.src p.ctx (BitVec.ofNat 16 p.spec.toNat) hwait
    have hend : (streams (ackTake s p.src p.ctx (BitVec.ofNat 16 p.spec.toNat))).Settled := by
      rw [hst]
      exact hset.withTx _
    exact ⟨_, hanswer 5 (.inl rfl) hend, congrArg Streams.tx hst⟩
  case refine_3 =>
    have hst := (congrArg streams (takeAckc_one (s := s) (p := { p with typ := 9 }) hlen)).trans (ackTake_streams hwf p.src _ _ hwait)
    have hend : (streams (takeAckc s { p with typ := 9 })).Settled := by
      rw [hst]
      exact hset.withTx _
    exact ⟨_, hanswer 9 (.inr (.inr (.inr ⟨rfl, hfpl⟩))) hend, congrArg Streams.tx hst⟩
  case refine_4 => exact ⟨_, hanswer 6 (.inr (.inl rfl)) (hset.withTx _), rfl⟩
  case refine_5 =>
    obtain ⟨tx, hst, hlost⟩ := takeErr_streams (p := { p with typ := 7 }) hfind howner
    have hend : (streams (takeErr s { p with typ := 7 })).Settled := by
      rw [hst]
      exact (settled_modOp (f := failFrag frag) hset k uid fun _ => rfl).withTx tx
    have htx : (takeErr s { p with typ := 7 }).fab.tx = tx := congrArg Streams.tx hst
    have hce : (takeErr s { p with typ := 7 }).ce = (modOp s k uid (failFrag frag)).ce := congrArg Streams.ce hst
    refine ⟨takeErr s { p with typ := 7 }, hanswer 7 (.inr (.inr (.inl rfl))) hend, ?_, ?_⟩
    · rw [htx]
      exact hlost
    · rw [getCe, hce]
      exact mem_modOp (failFrag frag) ho huid

end Sys2Proof.Machine
end

section
/-! PROOFS. O29: what the end of a collective leaves. A collective that lost a member fills its areas with unspecified bytes and leaves its engine (R392); the
pairs, the count of lost packets and the job's state stay. Up to the engines themselves its functions keep all the streams. -/

namespace Sys2Proof.Machine

/-! ### Memory words that go bad, and the slices -/

theorem aFabLost_ne_aHive (k : Nat) {j : Nat} (h : j < 0x20) : aFabLost ≠ aHive k + j := by
  simp only [aFabLost, aFab, aHive]
  omega

theorem aFabLost_ne_aMcMerge (k : Nat) : aFabLost ≠ aMcMerge k := by
  simp only [aFabLost, aFab, aMcMerge, aMc]
  omega

theorem aFabLost_ne_aCxlWr (k : Nat) : aFabLost ≠ aCxlWr k := by
  simp only [aFabLost, aFab, aCxlWr, aCxl]
  omega

@[simp] theorem bump_hiveHits_streams (s k n) : streams (bump s (aHiveHits k) n) = streams s := bump_streams s n (aFabLost_ne_aHive k (by decide : 0 < 0x20))

@[simp] theorem bump_hiveMisses_streams (s k n) : streams (bump s (aHiveMisses k) n) = streams s := bump_streams s n (aFabLost_ne_aHive k (by decide))

@[simp] theorem bump_hiveWback_streams (s k n) : streams (bump s (aHiveWback k) n) = streams s := bump_streams s n (aFabLost_ne_aHive k (by decide))

@[simp] theorem bump_hiveEcc_streams (s k n) : streams (bump s (aHive k + 0x18) n) = streams s := bump_streams s n (aFabLost_ne_aHive k (by decide))

@[simp] theorem bump_mcMerge_streams (s k n) : streams (bump s (aMcMerge k) n) = streams s := bump_streams s n (aFabLost_ne_aMcMerge k)

@[simp] theorem bump_cxlWr_streams (s k n) : streams (bump s (aCxlWr k) n) = streams s := bump_streams s n (aFabLost_ne_aCxlWr k)

@[simp] theorem setLinePoison_streams (s line bad) : streams (setLinePoison s line bad) = streams s := by
  unfold setLinePoison
  split <;> simp

@[simp] theorem sliceBad_streams (s line) : streams (sliceBad s line) = streams s := by simp [sliceBad]

/-- An error of a line of the Hive or of the host window. That of an accumulator counts in its core's own register (R135). -/
theorem strike_streams (s : State) (core : Nat) {has : Nat → Bool} {u : Upset} (h : hiveAmong has u = true) : streams (strike s core u) = streams s := by
  cases u with
  | hiveCorrected line => simp [strike]
  | hivePoisoned line => simp [strike]
  | hostPoisoned line => simp [strike]
  | _ => cases h

@[simp] theorem meetHive_streams (s : State) (has : Nat → Bool) : streams (meetBy s (fun _ => hiveAmong has)) = streams s := by
  have hstrikes : ∀ (l : List (Nat × Upset)) (t : State), (∀ p ∈ l, hiveAmong has p.2 = true) →
      streams (l.foldl (fun t p => strike t p.1 p.2) t) = streams t := by
    intro l
    induction l with
    | nil => exact fun _ _ => rfl
    | cons p l ih =>
      intro t h
      exact (ih _ fun q hq => h q (List.mem_cons_of_mem _ hq)).trans (strike_streams t p.1 (h p List.mem_cons_self))
  exact hstrikes _ _ fun p hp => (List.mem_filter.mp hp).2

@[simp] theorem mcPush_streams (s r) : streams (mcPush s r) = streams s := by simp [mcPush]

@[simp] theorem hiveBack_streams (s0 line) : streams (hiveBack s0 line) = streams s0 := by simp [hiveBack]

@[simp] theorem hiveLeave_streams (s0 v) : streams (hiveLeave s0 v) = streams s0 := by simp [hiveLeave]

@[simp] theorem hiveAlloc_streams (s line dirty hint) : streams (hiveAlloc s line dirty hint) = streams s := by
  simp only [hiveAlloc]
  split
  · simp
  · split
    · simp
    · next v _ =>
      have hkeep := hiveLeave_streams s v
      generalize hiveLeave s v = u at hkeep ⊢
      simp [hkeep]

@[simp] theorem hiveAccess_streams (s line write whole nopf hint) : streams (hiveAccess s line write whole nopf hint) = streams s := by
  simp only [hiveAccess]
  split
  · have hkeep := bump_hiveHits_streams s (hiveKey line / 16384) 1
    generalize bump s (aHiveHits (hiveKey line / 16384)) 1 = u at hkeep ⊢
    simp [hkeep]
  · simp

@[simp] theorem hiveRun_streams (write hint a n a1 s) : streams (hiveRun write hint a n a1 s) = streams s := by
  fun_induction hiveRun write hint a n a1 s <;> simp_all

/-! ### Writes -/

@[simp] theorem poisonLines_streams (lo n bad a s) : streams (poisonLines lo n bad a s) = streams s := by
  fun_induction poisonLines lo n bad a s <;> simp_all

@[simp] theorem tearWatches_streams (s a n) : streams (tearWatches s a n) = streams s := by simp [tearWatches]

@[simp] theorem storeBytes_streams (s a bs) : streams (storeBytes s a bs) = streams s := by unfold storeBytes; split <;> simp

@[simp] theorem memCovered_streams (ls s) : streams (memCovered ls s) = streams s := by
  fun_induction memCovered ls s <;> simp_all

@[simp] theorem dbgHaltCore_streams (s core cause k agent off) : streams (dbgHaltCore s core cause k agent off) = streams s := by simp [dbgHaltCore]

@[simp] theorem wpGo_streams (core off n agent write a a1 s) : streams (wpGo core off n agent write a a1 s) = streams s := by
  fun_induction wpGo core off n agent write a a1 s <;> simp_all

@[simp] theorem bufTouch_streams (s core off n write agent) : streams (bufTouch s core off n write agent) = streams s := by simp [bufTouch]

@[simp] theorem touchAll_streams (core a s) : streams (touchAll core a s) = streams s := by
  fun_induction touchAll core a s <;> simp_all

@[simp] theorem ceBufPut_streams (before ps id s) : streams (ceBufPut before ps id s) = streams s := by simp [ceBufPut]

/-! ### What changes engines -/

@[simp] theorem pairs_mk (a b c d e f g h i) : (Streams.mk a b c d e f g h i).pairs = (a, b, c, d) := rfl

@[simp] theorem pairs_eta (s : State) : (s.fab.tx, smGet 0#64 s.regs aFabLost, s.job.st, s.job.order4) = (streams s).pairs := rfl

@[simp] theorem pairs_ite (c : Prop) [Decidable c] (v w : Streams) : (if c then v else w).pairs = if c then v.pairs else w.pairs := apply_ite _ _ _ _

@[simp] theorem pairs_foldl {α : Type} (f : State → α → State) (h : ∀ s x, (streams (f s x)).pairs = (streams s).pairs) (l : List α) (s : State) :
    (streams (l.foldl f s)).pairs = (streams s).pairs := by
  induction l generalizing s with
  | nil => rfl
  | cons x l ih => exact (ih _).trans (h s x)

@[simp] theorem keepMem_pairs (s a bs) : (streams (keepMem s a bs)).pairs = (streams s).pairs := by simp [keepMem]

@[simp] theorem memStore_pairs (s a bs bad hint) : (streams (memStore s a bs bad hint)).pairs = (streams s).pairs := by
  simp only [memStore]
  repeat' split
  all_goals simp

@[simp] theorem memCover_pairs (hint before ps s) : (streams (memCover hint before ps s)).pairs = (streams s).pairs := by simp [memCover]

@[simp] theorem cePut_pairs (s hint ps) : (streams (cePut s hint ps)).pairs = (streams s).pairs := by simp [cePut, ceCover]

@[simp] theorem setCe_pairs (s k e) : (streams (setCe s k e)).pairs = (streams s).pairs := rfl

@[simp] theorem ceDrop_pairs (s k uid) : (streams (ceDrop s k uid)).pairs = (streams s).pairs := rfl

@[simp] theorem freeWatch_pairs (s w) : (streams (freeWatch s w)).pairs = (streams s).pairs := rfl

@[simp] theorem scramble_pairs (s a n) : (streams (scramble s a n)).pairs = (streams s).pairs := by
  unfold scramble
  split
  · rfl
  · split
    · rfl
    · exact (cePut_pairs ..).trans (congrArg Streams.pairs (draw_streams s))

@[simp] theorem colLost_pairs (s k o) : (streams (colLost s k o)).pairs = (streams s).pairs := by
  simp only [colLost, contained_streams, freeWatch_pairs, ceDrop_pairs]
  exact pairs_foldl _ (fun _ _ => scramble_pairs ..) _ s

@[simp] theorem colSweepGo_pairs (k l s) : (streams (colSweepGo k l s)).pairs = (streams s).pairs := by
  fun_induction colSweepGo k l s <;> simp_all

@[simp] theorem markLost_pairs (started s dev) : (streams (markLost started s dev)).pairs = (streams s).pairs := by
  unfold markLost
  exact pairs_foldl _ (fun _ _ => setCe_pairs ..) _ s

/-- The collectives that lost a member leave their engines; the pairs stay. -/
theorem colSweep_pairs (s : State) : (streams (colSweep s)).pairs = (streams s).pairs := by simp [colSweep]

end Sys2Proof.Machine
end

section
/-! PROOFS. O29: the timers of the source, and the queues of TC0 messages. -/

namespace Sys2Proof.Machine

/-! ### A counter advanced by one -/

theorem ctrAdd_one_ne_zero (w : Word64) : ctrAdd w 1 ≠ 0 := by
  intro h
  have hnat : (ctrAdd w 1).toNat = 0 := by rw [h]; rfl
  simp only [ctrAdd, BitVec.toNat_ofNat, b2n] at hnat
  by_cases hovf : w.toNat % 2 ^ 48 + 1 ≥ 2 ^ 48
  · simp only [hovf, decide_true, Bool.or_true, if_true] at hnat
    omega
  · cases hbit : bitOf w.toNat 63
    · simp only [hbit, hovf, decide_false, Bool.or_false, Bool.false_eq_true, if_false] at hnat
      omega
    · simp only [hbit, Bool.true_or, if_true] at hnat
      omega

theorem reg_bump_one (s : State) (a : Nat) : reg (bump s a 1) a = ctrAdd (reg s a) 1 := by
  rw [bump, if_neg (by decide)]
  exact smGet_smSet_val 0 s.regs a _ (ctrAdd_one_ne_zero _)

/-! ### What an item put into a queue leaves -/

/-- An item is recorded as lost at its hop limit, or one link changes. -/
def PutSame (s t : State) : Prop := RecSame s t ∨ ∃ k f, t = modLink s k f

theorem linkPut_same (s : State) (k input : Nat) (w : Wire) : PutSame s (linkPut s k input w) := by
  unfold linkPut
  split
  · exact .inl (.refl s)
  · split
    · exact .inl (record_same ..)
    · exact .inr ⟨_, _, rfl⟩

theorem fabOut_same (s : State) (input : Nat) (w : Wire) : PutSame s (fabOut s input w) := by
  unfold fabOut
  split
  · exact .inl (.refl s)
  · exact linkPut_same ..

theorem fabAgain_same (s : State) (p : Packet) : PutSame s (fabAgain s p) := by
  unfold fabAgain
  split
  · exact linkPut_same ..
  · exact fabOut_same ..

theorem PutSame.sync {s t : State} (h : PutSame s t) : t.sync = s.sync := by
  rcases h with ⟨l, p, m, w, r, rfl, -⟩ | ⟨k, f, rfl⟩
  · rfl
  · rfl

theorem PutSame.reg {s t : State} (h : PutSame s t) {a : Nat} (ha : a ≠ aLdgLost) : reg t a = reg s a := by
  rcases h with ⟨l, p, m, w, r, rfl, hregs⟩ | ⟨k, f, rfl⟩
  · exact hregs a ha
  · rfl

/-! ### The end-to-end timer (R336) -/

/-- The due packet goes again: it counts one more re-send, and the path it takes now. -/
def sentAgain (s : State) (q x : TxPkt) : TxPkt := if x = q then { x with tries := x.tries + 1, pkt := withPath s x.pkt } else x

/-- The pair whose due packet goes again. -/
def resentPair (s : State) (key : Nat) (q : TxPkt) : State :=
  let pair := smGet TxPair.init s.fab.tx key
  { s with fab := { s.fab with tx := smSet TxPair.init s.fab.tx key { pair with air := pair.air.map (sentAgain s q) } } }

section
variable {s : State} {dst ctx : BitVec 14} {q : TxPkt} (hinject : mayInject s = true)
  (hdue : dueOf ((smGet TxPair.init s.fab.tx (txKey ctx dst)).air ++ s.fab.rsp.filter (fun q => q.pkt.dst == dst && q.pkt.ctx == ctx)) = some q)
  (htyp : q.pkt.typ ≠ 3)
include hinject hdue htyp

theorem resendDue_again (htries : q.tries < 3) :
    resendDue s dst ctx = fabSource (bump (resentPair s (txKey ctx dst) q) aFabResend 1) q.pkt := by
  have hrsp : (q.pkt.typ == 3) = false := beq_false_of_ne htyp
  simp only [resendDue, hinject, hdue, hrsp, if_neg (Nat.not_le.mpr htries), Bool.not_true, Bool.false_eq_true, if_false]
  rfl

theorem resendDue_lost (htries : 3 ≤ q.tries) : resendDue s dst ctx = txPump (txLose s (txKey ctx dst) q) (txKey ctx dst) := by
  have hrsp : (q.pkt.typ == 3) = false := beq_false_of_ne htyp
  simp only [resendDue, hinject, hdue, hrsp, if_pos htries, Bool.not_true, Bool.false_eq_true, if_false]

end

theorem ownerFail_streams (s : State) (o : Owner) : ∃ ce, streams (ownerFail s o) = { streams s with ce := ce } := by
  unfold ownerFail
  split
  · exact ⟨_, rfl⟩
  · exact ⟨_, rfl⟩
  · exact ⟨s.ce, rfl⟩

theorem e2eLost_streams (s : State) (p : Packet) : streams (e2eLost s p) = { streams s with lost := ctrAdd (reg s aFabLost) 1 } := by
  rw [e2eLost, contained_streams, bump, if_neg (by decide)]
  exact Streams.ext rfl (smGet_smSet_val 0 s.regs aFabLost _ (ctrAdd_one_ne_zero _)) rfl rfl rfl rfl rfl rfl rfl

/-- A lost packet out of the flight of its pair: the sent tally takes one back, and its device is remembered where it was one of the job (R241, R392). -/
def flightLeft (s : State) (key : Nat) (q : TxPkt) : State :=
  let s1 := txDrop s key q false
  { s1 with sync := { s1.sync with sent := s1.sync.sent - BitVec.ofNat 64 (b2n (jobPkt s q.pkt)) }
            fab := { s1.fab with lostDst := if jobPkt s q.pkt then s1.fab.lostDst ++ [q.pkt.dst] else s1.fab.lostDst } }

/-- A packet that is lost leaves the flight of its pair, is counted, and fails what it belongs to. -/
theorem txLose_streams (s : State) (key : Nat) (q : TxPkt) :
    ∃ lostDst ce, streams (txLose s key q)
      = { streams (txDrop s key q false) with lost := ctrAdd (reg s aFabLost) 1, lostDst := lostDst, ce := ce } := by
  obtain ⟨ce, hce⟩ := ownerFail_streams (e2eLost (flightLeft s key q) q.pkt) q.owner
  rw [e2eLost_streams] at hce
  exact ⟨(flightLeft s key q).fab.lostDst, ce, (sentNote_streams _).trans hce⟩

theorem st_of_pairs {s t : State} (h : (streams t).pairs = (streams s).pairs) : t.job.st = s.job.st := congrArg (fun v => v.2.2.1) h

theorem order4_of_pairs {s t : State} (h : (streams t).pairs = (streams s).pairs) : t.job.order4 = s.job.order4 := congrArg (fun v => v.2.2.2) h

/-- What is left to settle leaves the pairs, where no read is served and no drain is under way. -/
theorem pktSettle_pairs (old : State) {u : State} (hserve : u.fab.serve = []) (hwho : (streams u).who.all (fun w => !whoServed w) = true)
    (hdrain : ¬(u.job.st = .preempting ∧ u.job.order4 = true)) : (streams (pktSettle old u)).pairs = (streams u).pairs := by
  have hsweep := colSweep_pairs u
  have hnote : drainNote (colSweep u) = colSweep u := if_neg (by rwa [st_of_pairs hsweep, order4_of_pairs hsweep])
  simp only [pktSettle, serveSettle_of_unserved hserve hwho, hnote, ite_self, hsweep]

end Sys2Proof.Machine
end

section
/-! PROOFS. O29: the statement. -/

namespace Sys2Proof.Machine

/-! ### The end-to-end timer -/

section
variable {s : State} {dst ctx : BitVec 14} {q : TxPkt} (hinject : mayInject s = true) (hset : (streams s).Settled)
  (hdue : dueOf ((smGet TxPair.init s.fab.tx (txKey ctx dst)).air ++ s.fab.rsp.filter (fun q => q.pkt.dst == dst && q.pkt.ctx == ctx)) = some q)
  (htyp : q.pkt.typ ≠ 3)
include hinject hset hdue htyp

/-- A due packet in flight goes again and is counted. -/
theorem e2eResend_again (hair : q ∈ (smGet TxPair.init s.fab.tx (txKey ctx dst)).air) (htries : q.tries < 3) :
    { q with tries := q.tries + 1, pkt := withPath s q.pkt }
        ∈ (smGet TxPair.init (pktSettle s (resendDue s dst ctx)).fab.tx (txKey ctx dst)).air ∧
      reg (pktSettle s (resendDue s dst ctx)) aFabResend = ctrAdd (reg s aFabResend) 1 := by
  have hagain := resendDue_again hinject hdue htyp htries
  have hst : streams (resendDue s dst ctx) = streams (resentPair s (txKey ctx dst) q) := by
    rw [hagain, fabSource_streams, bump_streams _ _ (by decide)]
  have hmem : { q with tries := q.tries + 1, pkt := withPath s q.pkt }
      ∈ (smGet TxPair.init s.fab.tx (txKey ctx dst)).air.map (sentAgain s q) := List.mem_map.mpr ⟨q, hair, if_pos rfl⟩
  have htx : (resendDue s dst ctx).fab.tx = (resentPair s (txKey ctx dst) q).fab.tx := congrArg Streams.tx hst
  rw [pktSettle_of_settled s (by rw [hst]; exact hset.withTx _)]
  constructor
  · rw [htx, resentPair, smGet_smSet_val _ _ _ _ fun e => List.ne_nil_of_mem hmem (congrArg TxPair.air e)]
    exact hmem
  · rw [hagain, fabSource, (fabOut_same ..).reg (by decide), reg_bump_one]
    rfl

omit hset in
/-- After the third re-send the packet is lost: kept for a go, and counted. -/
theorem resendDue_streams (htries : 3 ≤ q.tries) :
    ∃ tx lostDst ce, streams (resendDue s dst ctx) = { streams s with tx := tx, lost := ctrAdd (reg s aFabLost) 1, lostDst := lostDst, ce := ce } ∧
      { q with tries := 0, nacked := false } ∈ (smGet TxPair.init tx (txKey ctx dst)).lost := by
  obtain ⟨lostDst, ce, hlose⟩ := txLose_streams s (txKey ctx dst) q
  have hlosttx : (txLose s (txKey ctx dst) q).fab.tx = (txDrop s (txKey ctx dst) q false).fab.tx := congrArg Streams.tx hlose
  have hdrop := txDrop_lost s (txKey ctx dst) q false
  obtain ⟨tx, hpump, hkept⟩ := txPump_streams (key := txKey ctx dst) (s := txLose s (txKey ctx dst) q) (by rw [hlosttx, hdrop]; simp)
  refine ⟨tx, lostDst, ce, ?_, ?_⟩
  · rw [resendDue_lost hinject hdue htyp htries, hpump, hlose]
    rfl
  · rw [hkept, hlosttx, hdrop]
    exact List.mem_append_right _ List.mem_cons_self

end

/-- A loss leaves to settle only the collectives of the device that it names, and they leave the pairs. -/
theorem pktSettle_lost {s u : State} {tx : SMap TxPair} {lost : Word64} {lostDst : List (BitVec 14)} {ce : SMap Engine} (hset : (streams s).Settled)
    (hu : streams u = { streams s with tx := tx, lost := lost, lostDst := lostDst, ce := ce }) :
    (pktSettle s u).fab.tx = tx ∧ reg (pktSettle s u) aFabLost = lost := by
  have hserve : u.fab.serve = s.fab.serve := congrArg Streams.serve hu
  have hwho : (streams u).who = (streams s).who := by rw [hu]
  have hst : u.job.st = s.job.st := congrArg Streams.st hu
  have horder : u.job.order4 = s.job.order4 := congrArg Streams.order4 hu
  have hpairs := pktSettle_pairs s (hserve.trans hset.serve) (by rw [hwho]; exact hset.who) (by rw [hst, horder]; exact hset.drain)
  rw [hu] at hpairs
  generalize pktSettle s u = w at hpairs ⊢
  exact ⟨congrArg Prod.fst hpairs, congrArg (fun v => v.2.1) hpairs⟩

/-! ### The timer of a NACKed packet (R337) -/

/-- The pair whose refused packet goes again. -/
def nackSent (s : State) (key : Nat) (q : TxPkt) : State :=
  let pair := smGet TxPair.init s.fab.tx key
  { s with fab := { s.fab with
    tx := smSet TxPair.init s.fab.tx key { pair with air := pair.air.map (fun x => if x.pkt.seq = q.pkt.seq then { x with nacked := false } else x) } } }

theorem mem_nackSent {s : State} {key : Nat} {q : TxPkt} (hair : q ∈ (smGet TxPair.init s.fab.tx key).air) :
    { q with nacked := false } ∈ (smGet TxPair.init (nackSent s key q).fab.tx key).air := by
  have hmem : { q with nacked := false } ∈ (smGet TxPair.init s.fab.tx key).air.map
      (fun x => if x.pkt.seq = q.pkt.seq then { x with nacked := false } else x) := List.mem_map.mpr ⟨q, hair, if_pos rfl⟩
  rw [nackSent, smGet_smSet_val _ _ _ _ fun e => List.ne_nil_of_mem hmem (congrArg TxPair.air e)]
  exact hmem

theorem nackDue_eq {s : State} {dst ctx : BitVec 14} {q : TxPkt} (hinject : mayInject s = true)
    (hfind : (smGet TxPair.init s.fab.tx (txKey ctx dst)).air.find? (fun q => q.nacked) = some q) :
    nackDue s dst ctx = fabAgain (nackSent s (txKey ctx dst) q) q.pkt := by
  simp only [nackDue, hinject, hfind, Bool.not_true, Bool.false_eq_true, if_false]
  rfl

theorem nackDue_again {s : State} {dst ctx : BitVec 14} {q : TxPkt} (hinject : mayInject s = true)
    (hfind : (smGet TxPair.init s.fab.tx (txKey ctx dst)).air.find? (fun q => q.nacked) = some q) :
    { q with nacked := false } ∈ (smGet TxPair.init (nackDue s dst ctx).fab.tx (txKey ctx dst)).air ∧ (nackDue s dst ctx).sync = s.sync := by
  rw [nackDue_eq hinject hfind]
  have htx : (fabAgain (nackSent s (txKey ctx dst) q) q.pkt).fab.tx = (nackSent s (txKey ctx dst) q).fab.tx :=
    congrArg Streams.tx (fabAgain_streams ..)
  rw [htx]
  exact ⟨mem_nackSent (List.mem_of_find?_eq_some hfind), (fabAgain_same ..).sync⟩

/-! ### The source queue (R342) -/

theorem linkPut_tc0 (s : State) (k input : Nat) (m : Tc0) :
    linkPut s k input (.tc0 m 0 0) = modLink s k (fun l => { l with
      q := smSet [] l.q (wireLane (wireLeave s k (.tc0 m 0 0)))
        (smGet [] l.q (wireLane (wireLeave s k (.tc0 m 0 0))) ++ [⟨.tc0 m 0 0, wireBytes (wireLeave s k (.tc0 m 0 0)), 0, input⟩]) }) := by
  simp [linkPut, wireStays, wireHops]

/-- The source queue with its first message released. -/
def tc0Rest (s : State) (ms : List Tc0) : State := { s with fab := { s.fab with tc0q := ms } }

theorem tc0Release_out {s : State} {m : Tc0} {ms : List Tc0} {i k h : Nat} (hq : s.fab.tc0q = m :: ms) (hdst : m.dst ≠ devId s) (hkind : m.kind ≠ 5)
    (hpath : pickPath s (.tc0 m 0 0) = some (i, k, h)) : tc0Release s = linkPut (tc0Rest s ms) k localIn (.tc0 m 0 0) := by
  have hrest : pickPath (tc0Rest s ms) (.tc0 m 0 0) = some (i, k, h) := hpath
  unfold tc0Release
  rw [hq]
  simp only [if_neg hdst, if_neg hkind]
  change fabOut (tc0Rest s ms) localIn (.tc0 m 0 0) = _
  rw [fabOut, hrest]

/-! ### The gap timer (R344) -/

theorem beatTake_fab (s : State) (src : BitVec 14) : (beatTake s src).fab = s.fab := by
  unfold beatTake
  split <;> rfl

theorem beatTake_reg (s : State) (src : BitVec 14) (a : Nat) : reg (beatTake s src) a = reg s a := by
  unfold beatTake
  split <;> rfl

/-- The missing messages of a source are skipped and recorded (R344). -/
def gapSkipped (s : State) (m : Tc0) : State :=
  record (bump { s with fab := { s.fab with tc0Rx := smSet 0 s.fab.tc0Rx m.src.toNat m.seq } } aFabGaps 1) kEvent srcMgmt cTc0Gap (openPay cTc0Gap srcMgmt)

theorem gapSkipped_fab (s : State) (m : Tc0) : (gapSkipped s m).fab = { s.fab with tc0Rx := smSet 0 s.fab.tc0Rx m.src.toNat m.seq } := by
  simp [gapSkipped]

theorem gapSkipped_reg (s : State) (m : Tc0) : reg (gapSkipped s m) aFabGaps = ctrAdd (reg s aFabGaps) 1 := by
  have hrecord : PutSame (bump { s with fab := { s.fab with tc0Rx := smSet 0 s.fab.tc0Rx m.src.toNat m.seq } } aFabGaps 1) (gapSkipped s m) :=
    .inl (record_same ..)
  rw [hrecord.reg (by decide), reg_bump_one]
  rfl

theorem tc0Next_gapSkipped {s : State} (hwf : smWf 0 s.fab.tc0Rx = true) (m : Tc0) : tc0Next (gapSkipped s m) m.src = m.seq := by
  rw [tc0Next, gapSkipped_fab]
  exact smGet_smSet_same 0 _ _ _ hwf

/-- The message `m` is the only one held; it is held no longer and the next one of its source follows it. -/
def tc0Taken (s : State) (m : Tc0) : State :=
  { s with fab := { s.fab with tc0Held := [], tc0Rx := smSet 0 s.fab.tc0Rx m.src.toNat (m.seq + 1) } }

theorem tc0Flush_one {s : State} {m : Tc0} (hheld : s.fab.tc0Held = [m]) (hnext : tc0Next s m.src = m.seq) :
    tc0Flush m.src 1 s = tc0Deliver (tc0Taken s m) m := by
  simp [tc0Flush, hheld, hnext, tc0Taken]

/-- A message held alone is delivered when what is missing before it is skipped. -/
theorem tc0Gap_one {s : State} {m : Tc0} (hheld : s.fab.tc0Held = [m]) (hwf : smWf 0 s.fab.tc0Rx = true) :
    tc0Gap s m.src = tc0Deliver (tc0Taken (gapSkipped s m) m) m := by
  have hkept : (gapSkipped s m).fab.tc0Held = [m] := by rw [gapSkipped_fab, hheld]
  have hgap : tc0Gap s m.src = tc0Flush m.src (gapSkipped s m).fab.tc0Held.length (gapSkipped s m) := by
    have hseqs : (s.fab.tc0Held.filter (fun x => x.src == m.src)).map (fun x => x.seq) = [m.seq] := by simp [hheld]
    simp only [tc0Gap, hseqs, List.foldl_nil]
    rfl
  rw [hgap, hkept]
  exact tc0Flush_one hkept (tc0Next_gapSkipped hwf m)

theorem tc0Deliver_beat (s : State) {m : Tc0} (hkind : m.kind = 4) : tc0Deliver s m = beatTake s (bodyDev m.body 0) := by
  rw [tc0Deliver, hkind]
  rfl

/-- A heartbeat alone behind a gap is delivered, and none is held any longer. -/
theorem tc0Gap_beat {s : State} {m : Tc0} (hheld : s.fab.tc0Held = [m]) (hkind : m.kind = 4) (hwf : smWf 0 s.fab.tc0Rx = true) :
    (tc0Gap s m.src).fab.tc0Held = [] ∧
      (tc0Gap s m.src).fab.tc0Rx = smSet 0 (smSet 0 s.fab.tc0Rx m.src.toNat m.seq) m.src.toNat (m.seq + 1) ∧
      reg (tc0Gap s m.src) aFabGaps = ctrAdd (reg s aFabGaps) 1 := by
  rw [tc0Gap_one hheld hwf, tc0Deliver_beat _ hkind, beatTake_fab, beatTake_reg, tc0Taken, gapSkipped_fab]
  exact ⟨rfl, rfl, gapSkipped_reg s m⟩

/-! ### The statement -/

/-- Settles O29: the end-to-end timer by the count of re-sends, the other three by what each puts into its queue. -/
theorem sourceTimers : Obligations.SourceTimers := by
  unfold Obligations.SourceTimers
  refine ⟨fun s dst ctx q hinject hnone hserved hdrain hdue hair htyp => ?_, fun s dst ctx q hinject hfind => ?_,
    fun s m ms i k h hq hdst hkind hpath => ?_, fun s m hheld hkind hwf => ?_⟩
  · have hset := settled_of hserved hnone hdrain
    refine ⟨_, rfl, fun htries => e2eResend_again hinject hset hdue htyp hair htries, fun htries => ?_⟩
    obtain ⟨tx, lostDst, ce, hst, hmem⟩ := resendDue_streams hinject hdue htyp htries
    obtain ⟨htx, hlost⟩ := pktSettle_lost hset hst
    rw [htx]
    exact ⟨hmem, hlost⟩
  · exact ⟨_, rfl, nackDue_again hinject hfind⟩
  · have hup := linkUp_of_pickPath hpath
    refine ⟨_, congrArg Host.Outcome.next (tc0Release_out hq hdst hkind hpath), ?_, ?_⟩
    · rw [linkPut_tc0]
      rfl
    · rw [linkPut_tc0, getLink_modLink]
      · exact smGet_smSet_val _ _ _ _ (List.append_ne_nil_of_right_ne_nil _ (List.cons_ne_nil _ _))
      · exact st_ne_down hup
  · exact ⟨_, rfl, tc0Gap_beat hheld hkind hwf⟩

end Sys2Proof.Machine
end

section
/-! PROOFS. O34: a copy of an engine that completes while another operation of the engine reads the memory it writes. Its pieces overwrite bytes of the
other's source, which the other operation keeps with its place in the engine (R279), so the engine's other operations do not stay as they were. -/

namespace Sys2Proof.Machine

/-- The copy that completes, on stream context 2: its one fragment moves a row of 16 FP32 from GDDR7 at 0x10000 to 0x20000. -/
def writingOp : CeOp := { Tests.cop with todo := 1 }

/-- A copy of the same engine on stream context 18, started too (R359): the row of GDDR7 at 0x20000 to 0x30000. -/
def readingOp : CeOp := { Tests.cop with ctx := 18, desc := (Tests.dstr.set 10 2).set 18 3, todo := 1, uid := 2 }

/-- Engine 2 of a running module with both copies. The byte at 0x20000 is 7, and the first copy's source holds zeros. -/
def opMeetsOp : State :=
  { Tests.ceOf writingOp with
    ce := [(2, ⟨[writingOp, readingOp], 0⟩)]
    mem := { Tests.run.mem with gddr := [(0, 0x1F), (0x20000, 7)] } }

/-- As the first copy completes, the second one keeps the byte that its source has lost (R279). -/
theorem opMeetsOp_ops {t : State} (h : exec (.ceOperationComplete 2) opMeetsOp = .next t) :
    (getCe t 2).ops = [{ readingOp with was := [(0x20000, 7)] }] := by
  have hrun : (match exec (.ceOperationComplete 2) opMeetsOp with | .next u => (getCe u 2).ops | _ => [])
      = [{ readingOp with was := [(0x20000, 7)] }] := by decide +kernel
  rwa [h] at hrun

/-- The statement leaves the second copy as it was. -/
theorem opMeetsOp_others : (getCe opMeetsOp 2).ops.filter (fun x => x.uid != writingOp.uid) = [readingOp] := by decide +kernel

/-- Refutes O34, by its clause on completion: the clause leaves the other operations of the engine as they were, and in `opMeetsOp` the write changes
what one of them keeps of its source. -/
theorem not_engineResults : ¬ Obligations.EngineResults := by
  rintro ⟨-, hcomplete, -⟩
  obtain ⟨t, hexec, hops, -⟩ := hcomplete opMeetsOp 2 writingOp rfl rfl (by decide +kernel) (by decide +kernel) (by decide +kernel) rfl rfl
    (by decide +kernel) (by decide +kernel) rfl rfl (by decide +kernel) (by decide +kernel) (by decide +kernel) (by decide +kernel)
    writingOp (by decide +kernel) (by decide +kernel)
  have hlost : [{ readingOp with was := [(0x20000, 7)] }] = [readingOp] :=
    (opMeetsOp_ops hexec).symm.trans (hops.trans opMeetsOp_others)
  exact absurd hlost (by decide +kernel)

end Sys2Proof.Machine
end

section
/-! PROOFS. O35: a snapshot request whose target's header meets a device fault. -/

namespace Sys2Proof.Machine

/-- A running module with snapshots enabled, a valid header of target 0 at address 0 and a boundary ahead. The poison list of controller 0 is full (R305), and
the header's line waits as an error of the host window to be met: the operand by which LCU_COPY_START and PASS_START bring such an error may name any line. -/
def snapMeetsFault : State :=
  { setReg Tests.snp 0x3F0000B00040 5 with
    mem := { Tests.snp.mem with poison := fullList0, upsets := [(0, .hostPoisoned 0)] } }

/-- Reading the header meets the error; the device fault stops the sequencer (R430). -/
theorem snapMeetsFault_stops {u : State} (h : exec (.snapRequest 0) snapMeetsFault = .next u) : u.seq.stop = true := by
  have hrun : (match exec (.snapRequest 0) snapMeetsFault with | .next v => v.seq.stop | _ => false) = true := by decide +kernel
  rwa [h] at hrun

/-- Refutes O35, by its clause on a request that is taken: the request reads its target's header, which may end in MEM_POISON_FULL, and the device fault
changes the sequencer, which the clause leaves as it was. -/
theorem not_collectiveResults : ¬ Obligations.CollectiveResults := by
  rintro ⟨-, -, -, hsnap⟩
  obtain ⟨-, -, -, htaken⟩ := hsnap snapMeetsFault 0
  obtain ⟨u, hexec, -, -, hseq, -⟩ := htaken (by decide +kernel) (by decide +kernel) (by decide +kernel) (by decide +kernel)
  have hstop : snapMeetsFault.seq.stop = true := by rw [← hseq]; exact snapMeetsFault_stops hexec
  exact absurd hstop (by decide +kernel)

end Sys2Proof.Machine
end

section
/-! PROOFS. O24, O25: what a fault leaves of the job. The operations that a notice, a round or a plan is made of may take a fault on their way: of a counter,
of the fabric, of a memory word. Such a fault changes of the job only its codes, the departure and the notices sent; members, departures, reports,
securing round and the rest stay. Each operation is shown to keep that rest, in the order of the model's files. -/

namespace Sys2Proof.Machine

/-- A job but for what a fault changes of it: the codes (R429, R430), the departure of this member and the notices noted as sent (R443). -/
def jobUnfaulted (j : Job) : Job := { j with fatal := none, device := none, left := false, relayed := [] }

/-- The job of a module but for what a fault changes of it. -/
def unfaulted (s : State) : Job := jobUnfaulted s.job

@[simp] theorem jobUnfaulted_fault (j : Job) (fatal device : Option Word16) (left : Bool) (relayed : List (BitVec 14 × BitVec 14)) :
    jobUnfaulted { j with fatal := fatal, device := device, left := left, relayed := relayed } = jobUnfaulted j := rfl

@[simp] theorem unfaulted_mk (a b c d e f g h i j k l m n o p q r t u v w) :
    unfaulted (State.mk a b c d e f g h i j k l m n o p q r t u v w) = jobUnfaulted n := rfl

@[simp] theorem unfaulted_eta (s : State) : jobUnfaulted s.job = unfaulted s := rfl

@[simp] theorem unfaulted_ite (c : Prop) [Decidable c] (s t : State) : unfaulted (if c then s else t) = if c then unfaulted s else unfaulted t :=
  apply_ite _ _ _ _

@[simp] theorem unfaulted_foldl {α : Type} (f : State → α → State) (h : ∀ s x, unfaulted (f s x) = unfaulted s) (l : List α) (s : State) :
    unfaulted (l.foldl f s) = unfaulted s := by
  induction l generalizing s with
  | nil => rfl
  | cons x l ih => exact (ih _).trans (h s x)

theorem unfaulted_of_job {s t : State} (h : t.job = s.job) : unfaulted t = unfaulted s := congrArg jobUnfaulted h

theorem gone_of_unfaulted {s t : State} (h : unfaulted t = unfaulted s) : t.job.gone = s.job.gone :=
  (congrArg Job.gone h : (unfaulted t).gone = (unfaulted s).gone)

theorem round_of_unfaulted {s t : State} (h : unfaulted t = unfaulted s) : t.job.round = s.job.round :=
  (congrArg Job.round h : (unfaulted t).round = (unfaulted s).round)

/-! ### What leaves the job as it is -/

@[simp] theorem bump_unfaulted (s a n) : unfaulted (bump s a n) = unfaulted s := unfaulted_of_job (bump_job ..)

@[simp] theorem draw_unfaulted (s) : unfaulted (draw s).2 = unfaulted s := by simp [draw]

@[simp] theorem setCore_unfaulted (s i c) : unfaulted (setCore s i c) = unfaulted s := by simp [setCore]

@[simp] theorem modCore_unfaulted (s i f) : unfaulted (modCore s i f) = unfaulted s := by simp [modCore]

@[simp] theorem setCe_unfaulted (s k e) : unfaulted (setCe s k e) = unfaulted s := by simp [setCe]

@[simp] theorem hostVector_unfaulted (s v) : unfaulted (hostVector s v) = unfaulted s := unfaulted_of_job (hostVector_job ..)

@[simp] theorem readyDrop_unfaulted (s) : unfaulted (readyDrop s) = unfaulted s := unfaulted_of_job (readyDrop_job s)

@[simp] theorem record_unfaulted (s cls source code payload) : unfaulted (record s cls source code payload) = unfaulted s :=
  unfaulted_of_job (record_job ..)

@[simp] theorem contained_unfaulted (s source code payload) : unfaulted (contained s source code payload) = unfaulted s := record_unfaulted ..

@[simp] theorem tc0Send_unfaulted (s k d tag b) : unfaulted (tc0Send s k d tag b) = unfaulted s := unfaulted_of_job (tc0Send_job ..)

@[simp] theorem tc0SendAll_unfaulted (k b ds s) : unfaulted (tc0SendAll k b ds s) = unfaulted s := unfaulted_of_job (tc0SendAll_job ..)

@[simp] theorem detLeave_unfaulted (s) : unfaulted (detLeave s) = unfaulted s := unfaulted_of_job (detLeave_job s)

@[simp] theorem detStir_unfaulted (s) : unfaulted (detStir s) = unfaulted s := unfaulted_of_job (detStir_job s)

@[simp] theorem haltOrders_unfaulted (keep s) : unfaulted (haltOrders keep s) = unfaulted s := by simp [haltOrders]

@[simp] theorem coreStops_unfaulted (s core) : unfaulted (coreStops s core) = unfaulted s := by simp [coreStops]

@[simp] theorem freeWatch_unfaulted (s w) : unfaulted (freeWatch s w) = unfaulted s := by simp [freeWatch]

/-! ### Faults -/

@[simp] theorem noticeSend_unfaulted (s gone cause code) : unfaulted (noticeSend s gone cause code) = unfaulted s := by
  obtain ⟨r, hr⟩ := noticeSend_job s gone cause code
  rw [unfaulted, hr]
  rfl

@[simp] theorem fatalMark_unfaulted (s core idx code) : unfaulted (fatalMark s core idx code) = unfaulted s := by simp [fatalMark]

/-- A JOB_FATAL fault, by the state of the sequencer that it finds (R426, R427). -/
@[simp] theorem jobFatalKeep_unfaulted (keep s core idx code source payload) :
    unfaulted (jobFatalKeep keep s core idx code source payload) = unfaulted s := by
  unfold jobFatalKeep
  simp only
  split
  case h_1 => split <;> split <;> simp
  all_goals simp

@[simp] theorem jobFatal_unfaulted (s core idx code source payload) : unfaulted (jobFatal s core idx code source payload) = unfaulted s :=
  jobFatalKeep_unfaulted ..

@[simp] theorem deviceFatal_unfaulted (s source code payload) : unfaulted (deviceFatal s source code payload) = unfaulted s := by
  simp [deviceFatal]

@[simp] theorem addG_unfaulted (s i n) : unfaulted (addG s i n) = unfaulted s := by simp [addG]

/-! ### The detector's reports and the fabric -/

@[simp] theorem takeDeadlock_unfaulted (s lead n) : unfaulted (takeDeadlock s lead n) = unfaulted s := by simp [takeDeadlock]

@[simp] theorem leadCheck_unfaulted (s) : unfaulted (leadCheck s) = unfaulted s := by simp [leadCheck]

@[simp] theorem sendBlocked_unfaulted (s) : unfaulted (sendBlocked s) = unfaulted s := by
  unfold sendBlocked
  simp only
  split <;> simp

@[simp] theorem sentNote_unfaulted (s) : unfaulted (sentNote s) = unfaulted s := by simp [sentNote]

theorem PutSame.unfaulted {s t : State} (h : PutSame s t) : unfaulted t = unfaulted s := by
  rcases h with ⟨l, p, m, w, r, rfl, -⟩ | ⟨k, f, rfl⟩
  · rfl
  · rfl

@[simp] theorem fabSource_unfaulted (s p) : unfaulted (fabSource s p) = unfaulted s := (fabOut_same ..).unfaulted

@[simp] theorem txPumpGo_unfaulted (key) : ∀ (f s), unfaulted (txPumpGo key f s) = unfaulted s
  | 0, _ => rfl
  | f + 1, s => by
    unfold txPumpGo
    simp only
    split
    · rfl
    · simp [txPumpGo_unfaulted key f]

@[simp] theorem txPump_unfaulted (s key) : unfaulted (txPump s key) = unfaulted s := by simp [txPump]

@[simp] theorem fabSend_unfaulted (s p o) : unfaulted (fabSend s p o) = unfaulted s := by simp [fabSend]

@[simp] theorem fabWrites_unfaulted (cls dst ctx counted o) : ∀ (f a bs bad s), unfaulted (fabWrites cls dst ctx counted o f a bs bad s) = unfaulted s
  | 0, _, _, _, _ => rfl
  | f + 1, a, bs, bad, s => by simp [fabWrites, fabWrites_unfaulted cls dst ctx counted o f]

@[simp] theorem roundPut_unfaulted (s d a bs) : unfaulted (roundPut s d a bs) = unfaulted s := fabWrites_unfaulted ..

/-! ### The loss of a device (R336) -/

@[simp] theorem ownerFail_unfaulted (s o) : unfaulted (ownerFail s o) = unfaulted s := by
  unfold ownerFail
  split <;> rfl

@[simp] theorem e2eLost_unfaulted (s p) : unfaulted (e2eLost s p) = unfaulted s := by simp [e2eLost]

@[simp] theorem txLose_unfaulted (s key q) : unfaulted (txLose s key q) = unfaulted s := by simp [txLose, txDrop]

@[simp] theorem txLoseAll_unfaulted (key) : ∀ (qs s), unfaulted (txLoseAll key qs s) = unfaulted s
  | [], _ => rfl
  | q :: qs, s => (txLoseAll_unfaulted key qs _).trans (txLose_unfaulted s key q)

@[simp] theorem txCancel_unfaulted : ∀ (qs s), unfaulted (txCancel qs s) = unfaulted s
  | [], _ => rfl
  | q :: qs, s => (txCancel_unfaulted qs _).trans (ownerFail_unfaulted s q.owner)

@[simp] theorem loseDstGo_unfaulted (dev) : ∀ (l s), unfaulted (loseDstGo dev l s) = unfaulted s
  | [], _ => rfl
  | (key, t) :: l, s => by simp [loseDstGo, loseDstGo_unfaulted dev l]

@[simp] theorem loseDst_unfaulted (s dev) : unfaulted (loseDst s dev) = unfaulted s := by simp [loseDst]

/-! ### Memory words and the slices -/

@[simp] theorem setLinePoison_unfaulted (s line bad) : unfaulted (setLinePoison s line bad) = unfaulted s := by
  unfold setLinePoison
  split <;> simp

@[simp] theorem strike_unfaulted (s core u) : unfaulted (strike s core u) = unfaulted s := by
  cases u <;> simp [strike, sliceBad]

@[simp] theorem meetBy_unfaulted (s reads) : unfaulted (meetBy s reads) = unfaulted s := by simp [meetBy]

@[simp] theorem mcPush_unfaulted (s r) : unfaulted (mcPush s r) = unfaulted s := by simp [mcPush]

@[simp] theorem hiveBack_unfaulted (s line) : unfaulted (hiveBack s line) = unfaulted s := by simp [hiveBack]

@[simp] theorem hiveLeave_unfaulted (s v) : unfaulted (hiveLeave s v) = unfaulted s := by simp [hiveLeave]

@[simp] theorem hiveAlloc_unfaulted (s line dirty hint) : unfaulted (hiveAlloc s line dirty hint) = unfaulted s := by
  unfold hiveAlloc
  simp only
  split
  · simp
  · split <;> simp

@[simp] theorem hiveAccess_unfaulted (s line write whole nopf hint) : unfaulted (hiveAccess s line write whole nopf hint) = unfaulted s := by
  unfold hiveAccess
  simp only
  split <;> simp

@[simp] theorem hiveRun_unfaulted (write hint a n) : ∀ (ls s), unfaulted (hiveRun write hint a n ls s) = unfaulted s
  | [], _ => rfl
  | _ :: ls, _ => (hiveRun_unfaulted write hint a n ls _).trans (hiveAccess_unfaulted ..)

/-! ### Writes -/

@[simp] theorem poisonLines_unfaulted (lo n bad) : ∀ (ls s), unfaulted (poisonLines lo n bad ls s) = unfaulted s
  | [], _ => rfl
  | _ :: ls, _ => by simp [poisonLines, poisonLines_unfaulted lo n bad ls]

@[simp] theorem memCovered_unfaulted : ∀ (ls s), unfaulted (memCovered ls s) = unfaulted s
  | [], _ => rfl
  | l :: ls, s => (memCovered_unfaulted ls _).trans (setLinePoison_unfaulted s l false)

@[simp] theorem tearWatches_unfaulted (s a n) : unfaulted (tearWatches s a n) = unfaulted s := by simp [tearWatches]

@[simp] theorem storeBytes_unfaulted (s a bs) : unfaulted (storeBytes s a bs) = unfaulted s := by
  unfold storeBytes
  split <;> simp

@[simp] theorem keepMem_unfaulted (s a bs) : unfaulted (keepMem s a bs) = unfaulted s := by simp [keepMem]

@[simp] theorem memStore_unfaulted (s a bs bad hint) : unfaulted (memStore s a bs bad hint) = unfaulted s := by
  unfold memStore
  split
  · rfl
  · simp only
    split <;> simp

@[simp] theorem memCover_unfaulted (hint before ps s) : unfaulted (memCover hint before ps s) = unfaulted s := by simp [memCover]

@[simp] theorem dbgHaltCore_unfaulted (s core cause k agent off) : unfaulted (dbgHaltCore s core cause k agent off) = unfaulted s := by
  simp [dbgHaltCore]

@[simp] theorem wpGo_unfaulted (core off n agent write) : ∀ (f k s), unfaulted (wpGo core off n agent write f k s) = unfaulted s
  | 0, _, _ => rfl
  | f + 1, k, s => by simp [wpGo, wpGo_unfaulted core off n agent write f]

@[simp] theorem bufTouch_unfaulted (s core off n write agent) : unfaulted (bufTouch s core off n write agent) = unfaulted s := by simp [bufTouch]

@[simp] theorem touchAll_unfaulted (core) : ∀ (l s), unfaulted (touchAll core l s) = unfaulted s
  | [], _ => rfl
  | (off, n, w, ag) :: l, s => (touchAll_unfaulted core l _).trans (bufTouch_unfaulted s core off n w ag)

@[simp] theorem cePut_unfaulted (s hint ps) : unfaulted (cePut s hint ps) = unfaulted s := by simp [cePut, ceCover, ceBufPut]

/-! ### Collectives that lost a member (R392) -/

@[simp] theorem scramble_unfaulted (s a n) : unfaulted (scramble s a n) = unfaulted s := by
  unfold scramble
  split
  · rfl
  · split <;> simp

@[simp] theorem cePush_unfaulted (s o) : unfaulted (cePush s o) = unfaulted s := by simp [cePush]

@[simp] theorem pushCopies_unfaulted (s mgmt ds) : unfaulted (pushCopies s mgmt ds) = unfaulted s := by simp [pushCopies]

@[simp] theorem ceDrop_unfaulted (s k uid) : unfaulted (ceDrop s k uid) = unfaulted s := rfl

@[simp] theorem colLost_unfaulted (s k o) : unfaulted (colLost s k o) = unfaulted s := by simp [colLost]

@[simp] theorem colSweepGo_unfaulted (k) : ∀ (l s), unfaulted (colSweepGo k l s) = unfaulted s
  | [], _ => rfl
  | o :: l, s => by simp [colSweepGo, colSweepGo_unfaulted k l]

@[simp] theorem markLost_unfaulted (started s dev) : unfaulted (markLost started s dev) = unfaulted s := by
  simp [markLost]

@[simp] theorem colGone_unfaulted (s dev) : unfaulted (colGone s dev) = unfaulted s := by simp [colGone, colSweep]

/-! ### Messages, notices and halts -/

@[simp] theorem hostDoneAll_unfaulted (s op st r0 r1) : unfaulted (hostDoneAll s op st r0 r1) = unfaulted s := unfaulted_of_job (hostDoneAll_job ..)

@[simp] theorem relayOwn_unfaulted (s kind body) : unfaulted (relayOwn s kind body) = unfaulted s := tc0SendAll_unfaulted ..

@[simp] theorem relayFrom_unfaulted (s origin kind body) : unfaulted (relayFrom s origin kind body) = unfaulted s := by simp [relayFrom]

@[simp] theorem noticeRelay_unfaulted (s n) : unfaulted (noticeRelay s n) = unfaulted s := by simp [noticeRelay]

@[simp] theorem haltAsk_unfaulted (s) : unfaulted (haltAsk s) = unfaulted s := by simp [haltAsk, haltStart]

@[simp] theorem seqStart_unfaulted (s) : unfaulted (seqStart s) = unfaulted s := by
  unfold seqStart
  split
  · rfl
  · simp only
    split
    · exact jobFatal_unfaulted ..
    · rfl

/-- The end of a halt counts this member as departed where it faulted (R429). -/
@[simp] theorem haltDone_unfaulted (s) : unfaulted (haltDone s) = unfaulted s := by
  obtain ⟨-, hjob⟩ := haltDone_frame s
  rw [unfaulted, hjob]
  rfl

/-! ### The quiesce image (R568) -/

@[simp] theorem rawPut_unfaulted (s a bs) : unfaulted (rawPut s a bs) = unfaulted s := by simp [rawPut]

@[simp] theorem rawBlit_unfaulted (s a n m bad) : unfaulted (rawBlit s a n m bad) = unfaulted s := by simp [rawBlit]

@[simp] theorem devTouch_write_unfaulted (a n s) : unfaulted (devTouch true a n s) = unfaulted s := by simp [devTouch]

@[simp] theorem saveSync_unfaulted (base s) : unfaulted (saveSync base s) = unfaulted s := by simp [saveSync]

@[simp] theorem saveLcu_unfaulted (base c s) : unfaulted (saveLcu base c s) = unfaulted s := rawPut_unfaulted ..

@[simp] theorem saveCe_unfaulted (base e s) : unfaulted (saveCe base e s) = unfaulted s := by simp [saveCe]

@[simp] theorem saveCore_unfaulted (base c s) : unfaulted (saveCore base c s) = unfaulted s := by simp [saveCore]

@[simp] theorem hiveClean_unfaulted (s) : unfaulted (hiveClean s) = unfaulted s := by simp [hiveClean]

theorem jobUnfaulted_image (j : Job) (saved wiped : Bool) :
    jobUnfaulted { j with saved := saved, wiped := wiped } = { jobUnfaulted j with saved := saved, wiped := wiped } := rfl

/-- The image is noted in the job as written. -/
theorem saveImage_unfaulted (s) : unfaulted (saveImage s) = { unfaulted s with saved := true, wiped := false } := by
  simp [saveImage, jobUnfaulted_image]

end Sys2Proof.Machine
end

section
/-! PROOFS. O24: plans, reports and notices. A plan changes the plan and the view that a member knows; what else a notice sets going leaves the departures
as they are, so that after it they are those before and the member that it names. -/

namespace Sys2Proof.Machine

/-! ### Plans and reports -/

/-- A plan is recorded with its view, or nothing changes (R461). -/
theorem planHere_unfaulted (s : State) (p : PlanMsg) :
    unfaulted (planHere s p) = unfaulted s ∨ unfaulted (planHere s p) = { unfaulted s with plan := some p, view := p.view } := by
  unfold planHere
  split
  · exact .inl rfl
  · right
    simp only
    split
    · exact record_unfaulted ..
    · split
      · exact (pushCopies_unfaulted ..).trans (record_unfaulted ..)
      · exact record_unfaulted ..

/-- The lead's look at the reports changes the plan and the view, if anything (R462). -/
theorem planCheck_unfaulted (s : State) : ∃ plan view, unfaulted (planCheck s) = { unfaulted s with plan := plan, view := view } := by
  unfold planCheck
  split
  · split
    · exact ⟨s.job.plan, s.job.view, jobFatal_unfaulted ..⟩
    · simp only
      rw [← relayOwn_unfaulted s 6]
      rcases planHere_unfaulted (relayOwn s 6 _) _ with h | h
      · exact ⟨_, _, h⟩
      · exact ⟨_, _, h⟩
  · exact ⟨s.job.plan, s.job.view, rfl⟩

/-! ### The departures, read in what a fault leaves -/

theorem gone_eq (s : State) : s.job.gone = (unfaulted s).gone := rfl

@[simp] theorem jobUnfaulted_gone (j : Job) : (jobUnfaulted j).gone = j.gone := rfl

@[simp] theorem jobTo_gone (s st) : (unfaulted (jobTo s st)).gone = (unfaulted s).gone := by
  rw [unfaulted, jobTo_job]
  rfl

@[simp] theorem planCheck_gone (s) : (unfaulted (planCheck s)).gone = (unfaulted s).gone := by
  obtain ⟨plan, view, h⟩ := planCheck_unfaulted s
  rw [h]

@[simp] theorem reportTake_gone (s src view counter) : (unfaulted (reportTake s src view counter)).gone = (unfaulted s).gone := by
  unfold reportTake
  split <;> simp [gone_eq]

@[simp] theorem toLead_gone {here : State → State} (hhere : ∀ t, (unfaulted (here t)).gone = (unfaulted t).gone) (s kind body) :
    (unfaulted (toLead s kind body here)).gone = (unfaulted s).gone := by
  unfold toLead
  split
  · rfl
  · split <;> simp [hhere]

@[simp] theorem reportSend_gone (s) : (unfaulted (reportSend s)).gone = (unfaulted s).gone := by simp [reportSend]

/-! ### The start of the job, and the end of a drain (R458, R563, R565) -/

@[simp] theorem seqResumes_gone (s) : (unfaulted (seqResumes s)).gone = (unfaulted s).gone := by
  unfold seqResumes
  split <;> rfl

@[simp] theorem wardTime_gone (s) : (unfaulted (wardTime s)).gone = (unfaulted s).gone := by
  unfold wardTime
  split <;> rfl

@[simp] theorem goHere_gone (s) : (unfaulted (goHere s)).gone = (unfaulted s).gone := by
  unfold goHere
  split
  · simp
  · split <;> simp [gone_eq]
  · rfl

@[simp] theorem permitSend_gone (s p) : (unfaulted (permitSend s p)).gone = (unfaulted s).gone := by
  simp only [permitSend, permitHere]
  split <;> simp [gone_eq]

@[simp] theorem leadGo_gone (s) : (unfaulted (leadGo s)).gone = (unfaulted s).gone := by
  simp only [leadGo]
  split <;> simp [gone_eq]

@[simp] theorem quiesceHere_gone (s) : (unfaulted (quiesceHere s)).gone = (unfaulted s).gone := by
  unfold quiesceHere
  split <;> simp [saveImage_unfaulted]

@[simp] theorem drainCheck_gone (s) : (unfaulted (drainCheck s)).gone = (unfaulted s).gone := by
  simp only [drainCheck]
  split <;> simp [gone_eq]

/-! ### The first notice that names a member (R450) -/

@[simp] theorem genDrop_gone (j) : (genDrop j).gone = j.gone := by
  unfold genDrop
  split
  · split <;> rfl
  · rfl

@[simp] theorem genLearn_gone (s) : (unfaulted (genLearn s)).gone = (unfaulted s).gone := by
  unfold genLearn
  split <;> rfl

@[simp] theorem planVoid_gone (s) : (unfaulted (planVoid s)).gone = (unfaulted s).gone := rfl

@[simp] theorem roundDrop_gone (s) : (unfaulted (roundDrop s)).gone = (unfaulted s).gone := by simp [roundDrop, gone_eq]

/-- A lead that has left gives way to the next one, which is sent what it needs (R453). -/
@[simp] theorem leadMoved_gone (s) : (unfaulted (leadMoved s)).gone = (unfaulted s).gone := by
  simp only [leadMoved]
  repeat' split
  all_goals simp [genSend, gone_eq]

/-- What the job does at the time, by its state (R450, orders 4 and 5). -/
@[simp] theorem noticeHalt_gone (s) : (unfaulted (noticeHalt s)).gone = (unfaulted s).gone := by
  unfold noticeHalt
  split
  case h_1 =>
    split
    · simp
    · split <;> simp
  case h_2 =>
    simp only
    split <;> simp
  case h_3 => simp [gone_eq]
  case h_4 => split <;> simp
  case h_5 => simp
  case h_6 => split <;> simp
  case h_7 => rfl

theorem noticeFirst_gone (s : State) (n : Notice) : (noticeFirst s n).job.gone = s.job.gone ++ [n.gone] := by
  simp [noticeFirst, gone_eq]

end Sys2Proof.Machine
end

section
/-! PROOFS. O24: the statement. -/

namespace Sys2Proof.Machine

/-! ### Heartbeats (R445) -/

theorem beatSend_watched {s : State} {d : BitVec 14} (hlive : jobLive s = true) (hleft : hasLeft s = false) (hdev : s.job.device = none)
    (hwatch : watcherOf s = some d) :
    beatSend s = tc0Send s 4 d s.job.tag (leBytes 2 (devId s).toNat ++ zeros 6 ++ leBytes 8 (now s)) := by
  simp [beatSend, hlive, hleft, hdev, hwatch]

theorem beatTake_ward {s : State} {src : BitVec 14} (hlive : jobLive s = true) (hward : wardOf s = some src) :
    beatTake s src = { s with job := { s.job with ward := some src, wardAt := now s } } := if_pos ⟨hlive, hward⟩

/-! ### Notices -/

/-- A notice about another member, of a cause that is not job-wide, leaves that member counted as departed (R443, R450). -/
theorem mem_gone_noticeTake {s : State} {n : Notice} (hmember : s.job.members.contains n.gone = true) (hcause : n.cause ≠ 6) (hother : n.gone ≠ devId s) :
    n.gone ∈ (noticeTake s n).job.gone := by
  unfold noticeTake
  rw [hmember, if_neg (by simp), if_neg hcause, if_neg hother]
  split
  case isTrue hgone =>
    rw [gone_of_unfaulted (noticeRelay_unfaulted s n)]
    exact List.contains_iff_mem.mp hgone
  case isFalse =>
    rw [noticeFirst_gone]
    exact List.mem_append_right _ List.mem_cons_self

theorem mem_gone_noticeMake {s : State} {d : BitVec 14} {cause : Nat} (hmember : s.job.members.contains d = true) (hcause : cause ≠ 6)
    (hother : d ≠ devId s) : d ∈ (noticeMake s d cause).job.gone :=
  mem_gone_noticeTake (n := ⟨d, devId s, cause, 0, nowW s, s.seq.step⟩) hmember hcause hother

theorem allHalted_of_cores {s t : State} (hcores : t.cores = s.cores) (hpart : t.part832 = s.part832) : allHalted t = allHalted s := by
  unfold allHalted nCores
  rw [hcores, hpart]

/-- A notice passed on is noted as relayed, and messages go (R448). -/
theorem noticeRelay_frame (s : State) (n : Notice) :
    ∃ r, (noticeRelay s n).job = { s.job with relayed := r } ∧ (noticeRelay s n).seq = s.seq ∧ allHalted (noticeRelay s n) = allHalted s := by
  unfold noticeRelay relayFrom
  split
  · exact ⟨s.job.relayed, rfl, rfl, rfl⟩
  · split
    · exact ⟨_, tc0SendAll_job .., tc0SendAll_seq .., allHalted_of_cores (tc0SendAll_cores ..) (tc0SendAll_part832 ..)⟩
    · exact ⟨_, rfl, rfl, rfl⟩

theorem haltAsk_running {s : State} (hseq : s.seq.st = .running) (hopen : allHalted s = false) (hdev : s.job.device = none) :
    haltAsk s = haltStart s := if_pos ⟨hseq, hopen, by rw [hdev]; rfl⟩

/-- The state of a notice of a job-wide fault once it is recorded and passed on, with the code that ends the job (R444). -/
def endNoted (s : State) (n : Notice) : State :=
  let s1 := noticeRelay (record s kEvent srcMgmt cJobEnd (openPay cJobEnd srcMgmt)) n
  { s1 with job := { s1.job with fatal := some (s1.job.fatal.getD n.code) } }

theorem endNoted_frame (s : State) (n : Notice) :
    ∃ r, (endNoted s n).job = { s.job with relayed := r, fatal := some (s.job.fatal.getD n.code) } ∧ (endNoted s n).seq = s.seq
      ∧ allHalted (endNoted s n) = allHalted s := by
  obtain ⟨r, hjob, hseq, hopen⟩ := noticeRelay_frame (record s kEvent srcMgmt cJobEnd (openPay cJobEnd srcMgmt)) n
  refine ⟨r, ?_, hseq.trans (record_seq ..), hopen.trans (allHalted_of_cores (record_cores ..) (record_part832 ..))⟩
  simp only [endNoted, hjob, record_job]

theorem noticeEnd_running {s : State} {n : Notice} (hst : (endNoted s n).job.st = .running) : noticeEnd s n = haltAsk (endNoted s n) := by
  simp only [endNoted] at hst
  simp only [noticeEnd, endNoted, hst]

/-- A notice of a job-wide fault halts a running job, whose end reports the notice's code (R444). -/
theorem noticeEnd_halts {s : State} (n : Notice) (hst : s.job.st = .running) (hseq : s.seq.st = .running) (hopen : allHalted s = false)
    (hdev : s.job.device = none) (hsound : s.job.fatal = none) :
    (noticeEnd s n).job.fatal = some n.code ∧ (noticeEnd s n).seq.st = .halting := by
  obtain ⟨r, hjob, hsame, hhalted⟩ := endNoted_frame s n
  have hgo : noticeEnd s n = haltStart (endNoted s n) := by
    rw [noticeEnd_running (by rw [hjob, hst]), haltAsk_running (by rw [hsame, hseq]) (by rw [hhalted, hopen]) (by rw [hjob, hdev])]
  obtain ⟨hstop, -, hkeep, -⟩ := haltStart_frame (endNoted s n)
  rw [hgo, hstop, hkeep, hjob, hsound]
  exact ⟨rfl, rfl⟩

/-! ### Reports and their timers (R451, R452) -/

theorem planCheck_views (s : State) : (planCheck s).job.views = s.job.views := by
  obtain ⟨plan, view, h⟩ := planCheck_unfaulted s
  have hviews := congrArg Job.views h
  exact hviews

/-- A REPORT of the present view from a member that has not left is kept. -/
theorem mem_views_reportTake {s : State} {src : BitVec 14} (counter : Word64) (hmember : s.job.members.contains src = true)
    (hpresent : s.job.gone.contains src = false) : (src, counter) ∈ (reportTake s src s.job.view counter).job.views := by
  unfold reportTake
  rw [hmember, hpresent, if_neg (by simp)]
  simp only
  rw [planCheck_views]
  exact List.mem_append_right _ List.mem_cons_self

/-- The members that a repeated notice goes to: alive, without a REPORT in this view, and not sent it again before (R452). -/
def againTo (s : State) : List (BitVec 14) := (liveMembers s).filter (fun d => d != devId s && !(reported s).contains d && !s.job.resent.contains d)

theorem job_foldl {α : Type} (f : State → α → State) (h : ∀ s x, (f s x).job = s.job) (l : List α) (s : State) : (l.foldl f s).job = s.job :=
  List.foldlRecOn l f (motive := fun t => t.job = s.job) rfl fun t ht x _ => (h t x).trans ht

theorem noticeAgain_job {s : State} (hlead : isLead s = true) (hst : s.job.st = .recovering) (htime : s.job.viewAt + 10000000 ≤ now s)
    (hnotices : s.job.notices ≠ []) : (noticeAgain s).job = { s.job with resent := s.job.resent ++ againTo s } := by
  unfold noticeAgain
  rw [if_neg (by simp [hlead, hst, hnotices, htime])]
  exact job_foldl _ (fun t d => job_foldl _ (fun u n => tc0Send_job ..) _ t) _ _

/-- Settles O24: a notice adds its member to the departures and nothing later takes it out; a job-wide one halts; heartbeats and reports are what they send
and keep. -/
theorem memberFailureResults : Obligations.MemberFailureResults := by
  unfold Obligations.MemberFailureResults
  refine ⟨fun s d hlive hleft hdev hwatch => ?_, fun s src time hlive hward => ?_,
    fun s d hlive hleft hsilent hward hother hmember => ?_, fun s src left orig cause code time step hmember hcause hother hpresent => ?_,
    fun s src left orig code time step hmember hfresh hst hseq hopen hdev hsound => ?_, fun s src counter hlead hmember hpresent => ?_,
    fun s d hlead hst htime hnotices hlive hother hsilent hfresh => ?_, fun s d hlead hst htime hnotices hlive hother hsilent => ?_⟩
  · exact ⟨_, _, congrArg Host.Outcome.next (beatSend_watched hlive hleft hdev hwatch), tc0Send_mem _ _ _ _ _ (by simp [length_leBytes, zeros]),
      rfl, rfl, rfl, rfl, rfl⟩
  · exact ⟨_, congrArg Host.Outcome.next (beatTake_ward hlive hward), rfl, rfl, rfl, rfl⟩
  · have hgo : beatLost s = noticeMake s d 3 := by simp [beatLost, hlive, hleft, hward, Nat.not_lt.mpr hsilent]
    exact ⟨_, congrArg Host.Outcome.next hgo, mem_gone_noticeMake hmember (by decide) hother⟩
  · exact ⟨_, rfl, mem_gone_noticeTake hmember (fun h => hcause (BitVec.eq_of_toNat_eq h)) hother⟩
  · have hgo : noticeTake s ⟨left, orig, 6, code, time, step⟩ = noticeEnd s ⟨left, orig, 6, code, time, step⟩ := by
      simp only [noticeTake, hmember, hfresh]
      rfl
    exact ⟨_, congrArg Host.Outcome.next hgo, noticeEnd_halts _ hst hseq hopen hdev hsound⟩
  · refine ⟨_, congrArg Host.Outcome.next (if_pos hlead), mem_views_reportTake counter hmember hpresent⟩
  · refine ⟨_, rfl, ?_⟩
    rw [noticeAgain_job hlead hst htime hnotices]
    refine List.mem_append_right _ (List.mem_filter.mpr ⟨List.contains_iff_mem.mp hlive, ?_⟩)
    simp [-List.contains_eq_mem, hother, hsilent, hfresh]
  · have hgo : reportLost s d = noticeMake s d 4 := by
      refine if_pos ?_
      simp [-List.contains_eq_mem, hlead, hst, hlive, hsilent, hother, hnotices, htime]
    have hmember : s.job.members.contains d = true := by
      simpa [liveMembers] using List.mem_of_mem_filter (List.contains_iff_mem.mp hlive)
    exact ⟨_, congrArg Host.Outcome.next hgo, mem_gone_noticeMake hmember (by decide) hother⟩

end Sys2Proof.Machine
end

section
/-! PROOFS. O25: the statement. A securing round changes the job by its state and by faults met on the way; the rest follows from what each command is. -/

namespace Sys2Proof.Machine

/-! ### PLAN and PERMIT at a member (R458, R461) -/

/-- A message passed on leaves the job, the engines and the sequencer (R448). -/
theorem relayFrom_frame (s : State) (origin : BitVec 14) (kind : Nat) (body : List Byte) :
    (relayFrom s origin kind body).job = s.job ∧ (relayFrom s origin kind body).ce = s.ce ∧ (relayFrom s origin kind body).seq = s.seq := by
  unfold relayFrom
  split
  · exact ⟨tc0SendAll_job .., tc0SendAll_ce .., tc0SendAll_seq ..⟩
  · exact ⟨rfl, rfl, rfl⟩

/-- A plan of path RESUME in RECOVERING is recorded; nothing is copied (R461). -/
theorem planHere_resume {s : State} {p : PlanMsg} (hpath : p.path = 1) (hst : s.job.st = .recovering) (hview : s.job.view.toNat ≤ p.view.toNat) :
    (planHere s p).job = { s.job with plan := some p, view := p.view } ∧ (planHere s p).ce = s.ce := by
  unfold planHere
  rw [if_neg (by simp [hst, hview])]
  simp only [hpath, true_or, if_true]
  exact ⟨record_job .., record_ce ..⟩

theorem planTake_resume {s : State} {src : BitVec 14} {body : List Byte} {p : PlanMsg} (hpath : p.path = 1) (hst : s.job.st = .recovering)
    (hview : s.job.view.toNat ≤ p.view.toNat) :
    (planTake s src body p).job = { s.job with plan := some p, view := p.view } ∧ (planTake s src body p).ce = s.ce := by
  obtain ⟨hjob, hengines, -⟩ := relayFrom_frame s src 6 body
  obtain ⟨hplan, hce⟩ := planHere_resume (s := relayFrom s src 6 body) hpath (by rw [hjob, hst]) (by rw [hjob]; exact hview)
  rw [planTake, if_neg (Nat.not_lt.mpr hview)]
  exact ⟨hplan.trans (by rw [hjob]), hce.trans hengines⟩

theorem restoreEnds_recovered {s : State} {p : PlanMsg} (hst : s.job.st = .recovering) (hplan : s.job.plan = some p)
    (hdone : copiesLeft s 3 = false) : (restoreEnds s).job.st = .recovered := by
  simp [restoreEnds, hst, hplan, hdone]

theorem jobLive_of_job {s t : State} (h : t.job = s.job) : jobLive t = jobLive s := by
  unfold jobLive
  rw [h]

theorem genLearn_frame (s : State) : (genLearn s).job.permits = s.job.permits ∧ (genLearn s).job.round = s.job.round := by
  unfold genLearn
  split
  · exact ⟨rfl, rfl⟩
  · exact ⟨rfl, rfl⟩

/-- A PERMIT whose boundary lies ahead is kept (R458). -/
theorem permitTake_ahead {s : State} {p : Permit} (hlive : jobLive s = true) (hahead : s.seq.step.toNat < p.b.toNat) :
    (permitTake s p).job.permits = p :: s.job.permits ∧ (permitTake s p).job.round = .idle := by
  have hgo : permitTake s p = genLearn { s with job := { s.job with permits := p :: s.job.permits, unanswered := none, round := .idle } } := by
    simp only [permitTake, permitHere, if_pos hlive, if_neg (Nat.not_le.mpr hahead)]
  rw [hgo]
  exact genLearn_frame _

/-! ### Securing rounds (R458, R460) -/

/-- A round whose words are acknowledged takes its next order. -/
theorem roundNext_goes {s : State} {at_ : RoundSt} {p : Permit} {ps : List Permit} (hpermits : s.job.permits = p :: ps) (hround : s.job.round = at_)
    (hquiet : ownerBusy s isRound = false) (hsafe : roundLost s = false) (f : State → Permit → State) : roundNext s at_ f = f s p := by
  simp [roundNext, hpermits, hround, hquiet, hsafe]

/-- The module with its round at another order. -/
def roundAt (s : State) (r : RoundSt) : State := { s with job := { s.job with round := r } }

/-- What differs from a module by faults at most has its round where that has it. -/
theorem round_of_roundAt {s t : State} {r : RoundSt} (h : unfaulted t = unfaulted (roundAt s r)) : t.job.round = r := round_of_unfaulted h

/-- An answer goes to a lead elsewhere and is kept (R453). -/
theorem answerSend_elsewhere {s : State} {gen : Word32} {a : GenAns} {d : BitVec 14} (hlead : jobLead s.job = some d) (hother : d ≠ devId s) :
    answerSend s gen a = genSend { s with job := { s.job with unanswered := some a } } d gen a := by
  have hsame : jobLead { s.job with unanswered := some a } = some d := hlead
  simp only [answerSend, hsame]
  exact if_neg hother

/-- The module after its round, with the answer that it keeps until the next PERMIT. -/
def answered (s : State) (a : GenAns) : State := { s with job := { s.job with round := .idle, unanswered := some a } }

section
variable {s : State} {p : Permit} {ps : List Permit} (hpermits : s.job.permits = p :: ps) (hquiet : ownerBusy s isRound = false)
  (hsafe : roundLost s = false)
include hpermits hquiet hsafe

/-- Order 2: the headers go and the copies enter their engine. -/
theorem roundCopy_copying (hround : s.job.round = .opening)
    (hroom : ceBusy (getCe s (engineOf (fsCtx s))) + ((roundSlots s p).flatMap (fun x => regionCopies s x.1 x.2 true)).length ≤ 64) :
    (roundCopy s).job.round = .copying := by
  rw [roundCopy, roundNext_goes hpermits hround hquiet hsafe]
  simp only [if_neg (Nat.not_lt.mpr hroom)]
  apply round_of_roundAt (s := s)
  rw [pushCopies_unfaulted]
  exact unfaulted_foldl _ (fun _ _ => roundPut_unfaulted ..) _ _

/-- Orders 3 and 4: g[gsec] advances, which may be a fault, and the close words go. -/
theorem roundClose_closing (hround : s.job.round = .copying) (hcopied : copiesLeft s 2 = false) : (roundClose s).job.round = .closing := by
  rw [roundClose, roundNext_goes hpermits hround hquiet hsafe]
  simp only [hcopied, Bool.false_eq_true, if_false]
  apply round_of_roundAt (s := s)
  rw [unfaulted_foldl _ (fun _ _ => roundPut_unfaulted ..)]
  exact addG_unfaulted ..

/-- Order 5: the round ends, and its answer goes to a lead elsewhere. -/
theorem roundEnd_answers {d : BitVec 14} (hround : s.job.round = .closing) (hlead : jobLead s.job = some d) (hother : d ≠ devId s) :
    roundEnd s = genSend (answered s (genAnswer s p false)) d p.gen (genAnswer s p false) := by
  rw [roundEnd, roundNext_goes hpermits hround hquiet hsafe]
  exact answerSend_elsewhere (s := roundAt s .idle) hlead hother

end

theorem ctlBody_length (typ b1 who w4 d8 w16 w20 : Nat) : (ctlBody typ b1 who w4 d8 w16 w20).length = 32 := by
  simp [ctlBody, length_leBytes, zeros]

theorem genSend_job (s : State) (d : BitVec 14) (gen : Word32) (a : GenAns) : (genSend s d gen a).job = s.job := tc0Send_job ..

theorem genSend_mem (s : State) (d : BitVec 14) (gen : Word32) (a : GenAns) :
    ∃ m, m ∈ (genSend s d gen a).fab.tc0q ∧ m.kind = 6 ∧ m.dst = d :=
  ⟨_, tc0Send_mem _ _ _ _ _ (by rw [ctlBody_length]; decide), rfl, rfl⟩

/-! ### The lead's answers (R460) -/

/-- A generation is not settled while a live member's answer is missing. -/
theorem genCheck_waits {s : State} {g : Gen} {d : BitVec 14} (hgen : s.job.gen = some g) (hlive : (liveMembers s).contains d = true)
    (hmissing : g.answers.any (fun a => a.src == d) = false) : genCheck s = s := by
  have hwaits : allIn s (g.answers.map (fun a => a.src)) = false := by
    refine List.all_eq_false.mpr ⟨d, List.contains_iff_mem.mp hlive, ?_⟩
    simpa using hmissing
  simp [genCheck, hgen, hwaits]

/-- The generation with one member's answer put in, an earlier one of it out. -/
def withAnswer (g : Gen) (a : GenAns) : Gen := { g with answers := g.answers.filter (fun x => x.src != a.src) ++ [a] }

theorem withAnswer_missing {g : Gen} {a : GenAns} {d : BitVec 14} (hother : d ≠ a.src) (hmissing : g.answers.any (fun x => x.src == d) = false) :
    (withAnswer g a).answers.any (fun x => x.src == d) = false := by
  rw [List.any_eq_false] at hmissing ⊢
  intro x hx
  rcases List.mem_append.mp hx with hx | hx
  · exact hmissing x (List.mem_of_mem_filter hx)
  · rw [List.mem_singleton.mp hx]
    simpa using hother.symm

/-- A GEN_DONE is kept while another is missing. -/
theorem genTake_keeps {s : State} {g : Gen} {a : GenAns} {d : BitVec 14} (hgen : s.job.gen = some g) (hmember : s.job.members.contains a.src = true)
    (hlive : (liveMembers s).contains d = true) (hother : d ≠ a.src) (hmissing : g.answers.any (fun x => x.src == d) = false) :
    genTake s g.gen a = { s with job := { s.job with gen := some (withAnswer g a) } } := by
  simp only [genTake, hgen]
  rw [if_pos ⟨trivial, hmember⟩]
  exact genCheck_waits (g := withAnswer g a) rfl hlive (withAnswer_missing hother hmissing)

/-- Settles O25: a plan and a permit are kept as they come, a round goes on from order to order whatever faults it meets, and the lead waits for the answers
that are missing. -/
theorem recoveryAndSecuringResults : Obligations.RecoveryAndSecuringResults := by
  unfold Obligations.RecoveryAndSecuringResults
  refine ⟨fun s src view b gen hst hview => ?_, fun s p hst hplan hdone => ?_, fun s src far gen b gp gf hlive hahead => ?_,
    fun s p ps hpermits hround hquiet hsafe hroom => ?_, fun s p ps hpermits hround hquiet hsafe hcopied => ?_,
    fun s p ps d hpermits hround hquiet hsafe hlead hother => ?_, fun s src d far late gen b p f g hlead hgen hsame hmember hlive hother hmissing => ?_⟩
  · obtain ⟨hjob, hce⟩ := planTake_resume (s := s) (src := src) (body := ctlBody 2 1 src.toNat view.toNat b.toNat gen.toNat 0)
      (p := ⟨1, view, b, gen⟩) rfl hst hview
    exact ⟨_, rfl, congrArg Job.plan hjob, congrArg Job.view hjob, hce⟩
  · exact ⟨_, rfl, restoreEnds_recovered hst hplan hdone⟩
  · obtain ⟨hjob, -, hseq⟩ := relayFrom_frame s src 6 (ctlBody 4 (b2n far) src.toNat gen.toNat b.toNat gp.toNat gf.toNat)
    obtain ⟨hpermits, hround⟩ := permitTake_ahead (p := ⟨gen, b, far, gp, gf⟩) ((jobLive_of_job hjob).trans hlive) (by rw [hseq]; exact hahead)
    exact ⟨_, rfl, by rw [hpermits, hjob], hround⟩
  · exact ⟨_, rfl, roundCopy_copying hpermits hquiet hsafe hround hroom⟩
  · exact ⟨_, rfl, roundClose_closing hpermits hquiet hsafe hround hcopied⟩
  · obtain ⟨m, hmem, hkind, hdst⟩ := genSend_mem (answered s (genAnswer s p false)) d p.gen (genAnswer s p false)
    have hjob := genSend_job (answered s (genAnswer s p false)) d p.gen (genAnswer s p false)
    exact ⟨_, m, congrArg Host.Outcome.next (roundEnd_answers hpermits hquiet hsafe hround hlead hother), congrArg Job.round hjob,
      congrArg Job.unanswered hjob, hmem, hkind, hdst⟩
  · subst hsame
    have hkeeps := genTake_keeps (a := ⟨src, far, late, b, p, f⟩) hgen hmember hlive hother hmissing
    exact ⟨_, congrArg Host.Outcome.next ((if_pos hlead).trans hkeeps), rfl⟩

end Sys2Proof.Machine
end

section
/-! PROOFS. O53, O46, O47: a step, and the instructions of the TAP. -/

namespace Sys2Proof.Machine

/-- The detector's look at the module at a tick changes the detector only (R240). -/
theorem detTick_eq (s : State) : ∃ y, detTick s = { s with sync := y } := by
  unfold detTick
  split
  · exact ⟨_, rfl⟩
  · split
    · exact ⟨_, rfl⟩
    · exact ⟨s.sync, rfl⟩

/-- One period advances the time base, its counters and the detector (R582, R584). -/
theorem tick_eq {s : State} (h : s.pwr.rails ≠ .off) : ∃ r l y, tick s = { timeAdvance s with regs := r, ldg := l, sync := y } := by
  obtain ⟨y, hy⟩ := detTick_eq (timeCount (timeAdvance s) (now (timeAdvance s) - now s))
  exact ⟨_, _, y, (if_neg h).trans hy⟩

/-- Settles O53: the three cases of `step` and `tick`. -/
theorem stepTakesFrontCommand : Obligations.StepTakesFrontCommand := by
  refine ⟨fun s c cs hp => by rw [step, hp], fun s hp hoff => ?_, fun s hp hon => ?_⟩
  · rw [step, hp, tick, if_pos hoff]
  · obtain ⟨r, l, y, ht⟩ := tick_eq hon
    have hstep : step s = .next (tick s) := by rw [step, hp]
    exact ⟨_, hstep.trans (congrArg Host.Outcome.next ht), rfl, hp, rfl, rfl, rfl, rfl, rfl, rfl, rfl⟩

/-! ### The TAP -/

/-- The port is open in every life-cycle state but DEPLOYED and RETIRED (R606). -/
theorem dbgOpen_iff (s : State) : dbgOpen s = true ↔ lcState s ≠ .deployed ∧ lcState s ≠ .retired := by
  unfold dbgOpen
  cases lcState s <;> simp

/-- With the rails up the port acts (R636). -/
theorem tapOn_up {s : State} (h : s.pwr.rails = .up) (t : State) : tapOn s t = t := if_pos h

/-- Settles O46: IDCODE by the part, EXTEST by the life-cycle state and the job. -/
theorem idcodeAndExtest : Obligations.IdcodeAndExtest := by
  intro s hup
  have hopen := dbgOpen_iff s
  refine ⟨⟨_, congrArg Host.Outcome.next (tapOn_up hup _), rfl, ?_, rfl, rfl, rfl, rfl⟩, fun cells => ⟨fun hd hr hj => ?_, fun h => ?_⟩⟩
  · change BitVec.ofNat 64 (idWord s) = _
    unfold idWord
    split <;> rfl
  · have hfree : extestFree s = true := by rw [extestFree, hopen.2 ⟨hd, hr⟩, hj]; rfl
    exact congrArg Host.Outcome.next ((tapOn_up hup _).trans (if_pos hfree))
  · have hfree : ¬ extestFree s = true := by
      rw [extestFree, Bool.and_eq_true, hopen]
      rintro ⟨⟨hd, hr⟩, hj⟩
      rcases h with h | h | h
      · exact hd h
      · exact hr h
      · rw [h] at hj; exact absurd hj (by decide)
    exact congrArg Host.Outcome.next ((tapOn_up hup _).trans (if_neg hfree))

/-- The first two cells that SAMPLE captures are RESET_N and PWR_FAIL_N (R640). -/
theorem sampleCells_pins (s : State) (ctr : Nat) :
    sampleCells s ctr % 2 = b2n s.pins.resetN ∧ sampleCells s ctr / 2 % 2 = b2n s.pins.pwrFailN := by
  have hr : b2n s.pins.resetN ≤ 1 := by cases s.pins.resetN <;> decide
  have hp : b2n s.pins.pwrFailN ≤ 1 := by cases s.pins.pwrFailN <;> decide
  simp only [sampleCells]
  omega

/-- A bit of a captured word, by the value's parity there. -/
theorem getLsbD_of_parity {n i : Nat} {b : Bool} (hi : i < 64) (h : n / 2 ^ i % 2 = b2n b) : (BitVec.ofNat 64 n).getLsbD i = b := by
  rw [BitVec.getLsbD_ofNat, Nat.testBit_eq_decide_div_mod_eq, h]
  cases b <;> simp [b2n, hi]

/-- Settles O47: with the rails up each instruction is selected as its rule says. -/
theorem tapSelections : Obligations.TapSelections := by
  intro s hup
  have on (t : State) : Host.Outcome.next (tapOn s t) = (.next t : Out) := congrArg Host.Outcome.next (tapOn_up hup t)
  obtain ⟨hreset, hfail⟩ := sampleCells_pins { s with free := s.free + 1 } s.free
  refine ⟨on _, on _, on _, on _, rfl, fun cells => ⟨_, on _, rfl, rfl, rfl, rfl, ?_, ?_⟩⟩
  · exact getLsbD_of_parity (by decide) ((congrArg (· % 2) (Nat.div_one _)).trans hreset)
  · exact getLsbD_of_parity (by decide) hfail

end Sys2Proof.Machine
end

section
/-! PROOFS. The fields of a chip register (R94): a field that was put reads back, and the fields beside it stay. -/

namespace Sys2Proof.Machine

theorem testBit_bitsOf (v hi lo i : Nat) : (bitsOf v hi lo).testBit i = (decide (i < hi + 1 - lo) && v.testBit (lo + i)) := by
  rw [bitsOf, Nat.testBit_mod_two_pow, Nat.testBit_shiftRight]

/-- The bits of a number one of whose fields was put. -/
theorem testBit_putBits {v hi lo x : Nat} (h : lo ≤ hi) (i : Nat) :
    (putBits v hi lo x).testBit i = if lo ≤ i ∧ i ≤ hi then x.testBit (i - lo) else v.testBit i := by
  have hlow : v % 2 ^ lo < 2 ^ lo := Nat.mod_lt _ (Nat.two_pow_pos lo)
  have hpow : 2 ^ (hi + 1) = 2 ^ lo * 2 ^ (hi + 1 - lo) := by rw [← Nat.pow_add]; congr 1; omega
  have hmid : 2 ^ lo * (x % 2 ^ (hi + 1 - lo)) + v % 2 ^ lo < 2 ^ (hi + 1) := by
    have hx : x % 2 ^ (hi + 1 - lo) + 1 ≤ 2 ^ (hi + 1 - lo) := Nat.mod_lt _ (Nat.two_pow_pos _)
    calc 2 ^ lo * (x % 2 ^ (hi + 1 - lo)) + v % 2 ^ lo < 2 ^ lo * (x % 2 ^ (hi + 1 - lo) + 1) := by rw [Nat.mul_add]; omega
      _ ≤ 2 ^ (hi + 1) := hpow ▸ Nat.mul_le_mul_left _ hx
  have hput : putBits v hi lo x = 2 ^ (hi + 1) * (v / 2 ^ (hi + 1)) + (2 ^ lo * (x % 2 ^ (hi + 1 - lo)) + v % 2 ^ lo) := by
    simp only [putBits, Nat.mul_comm]; omega
  rw [hput, Nat.testBit_two_pow_mul_add _ hmid, Nat.testBit_two_pow_mul_add _ hlow, Nat.testBit_mod_two_pow, Nat.testBit_mod_two_pow,
    Nat.testBit_div_two_pow]
  by_cases h1 : i < lo
  · simp [h1, show i < hi + 1 by omega, Nat.not_le.2 h1]
  · by_cases h2 : i < hi + 1
    · simp [h1, h2, show i - lo < hi + 1 - lo by omega, show lo ≤ i by omega, show i ≤ hi by omega]
    · simp [h2, show ¬ i ≤ hi by omega, Nat.sub_add_cancel (Nat.not_lt.1 h2)]

/-- A field that was put in a word reads back. -/
theorem bitsOf_putBits (v x : Nat) {hi lo : Nat} (hle : lo ≤ hi) (h : hi < 64) :
    bitsOf (BitVec.ofNat 64 (putBits v hi lo x)).toNat hi lo = x % 2 ^ (hi + 1 - lo) := by
  refine Nat.eq_of_testBit_eq fun i => ?_
  rw [testBit_bitsOf, BitVec.toNat_ofNat, Nat.testBit_mod_two_pow, testBit_putBits hle, Nat.testBit_mod_two_pow]
  by_cases hi' : i < hi + 1 - lo
  · simp [hi', show lo + i < 64 by omega, show lo + i ≤ hi by omega]
  · simp [hi']

/-- A field beside the one that was put keeps its value. -/
theorem bitsOf_putBits_ne (v : Word64) (x : Nat) {hi lo i j : Nat} (hle : lo ≤ hi) (h : i < lo ∨ hi < j) :
    bitsOf (BitVec.ofNat 64 (putBits v.toNat hi lo x)).toNat i j = bitsOf v.toNat i j := by
  refine Nat.eq_of_testBit_eq fun k => ?_
  rw [testBit_bitsOf, testBit_bitsOf, BitVec.toNat_ofNat, Nat.testBit_mod_two_pow, testBit_putBits hle]
  by_cases hk : k < i + 1 - j
  · rw [if_neg (by omega)]
    by_cases h64 : j + k < 64
    · simp [h64]
    · simp [h64, BitVec.testBit_toNat, BitVec.getLsbD_of_ge v (j + k) (by omega)]
  · simp [hk]

/-- A field set to a value other than 0 reads it, whatever form the registers are in. -/
theorem regF_setRegF_ne_zero (s : State) (a : Nat) {hi lo x : Nat} (hle : lo ≤ hi) (h : hi < 64) (hx : x % 2 ^ (hi + 1 - lo) ≠ 0) :
    regF (setRegF s a hi lo x) a hi lo = x % 2 ^ (hi + 1 - lo) := by
  have hput := bitsOf_putBits (reg s a).toNat x hle h
  have hne : BitVec.ofNat 64 (putBits (reg s a).toNat hi lo x) ≠ 0 := by
    intro h0
    rw [h0] at hput
    exact hx (by simpa [bitsOf] using hput.symm)
  rw [regF, reg_setRegF hne, hput]

/-- A field set in registers of canonical form reads the value. -/
theorem regF_setRegF_wf {s : State} (hwf : regsWf s = true) (a x : Nat) {hi lo : Nat} (hle : lo ≤ hi) (h : hi < 64) :
    regF (setRegF s a hi lo x) a hi lo = x % 2 ^ (hi + 1 - lo) := by
  rw [regF, reg_setRegF_same (.inl hwf), bitsOf_putBits _ _ hle h]

/-- A field set in registers of canonical form leaves the fields beside it. -/
theorem regF_setRegF_beside {s : State} (hwf : regsWf s = true) (a x : Nat) {hi lo i j : Nat} (hle : lo ≤ hi) (h : i < lo ∨ hi < j) :
    regF (setRegF s a hi lo x) a i j = regF s a i j := by
  rw [regF, reg_setRegF_same (.inl hwf), bitsOf_putBits_ne _ _ hle h, regF]

end Sys2Proof.Machine
end

section
/-! PROOFS. O37, the rules: what the Ledger unit's functions leave of its state. Writing a record touches the ring, the chain, the counts and the flush;
holding an event touches the queue besides. What neither touches (`unheld`) stays under every event that is not of a fatal class. -/

namespace Sys2Proof.Machine

/-! ### What writing a record leaves -/

/-- The Ledger unit without what writing a record or beginning a flush can change. -/
def unwritten (l : Ledger) : Ledger :=
  { l with recs := [], isOpen := false, chain := [], nextSeq := 0, epoch := 0, sinceSeal := 0, lost := 0, lostSum := 0, flushing := false,
           flushAgain := false, flushTo := 0, flushC0 := [], flushC1 := [] }

@[simp] theorem unwritten_idem (l : Ledger) : unwritten (unwritten l) = unwritten l := rfl

@[simp] theorem unwritten_close (l : Ledger) : unwritten (ldgClose l) = unwritten l := by
  unfold ldgClose
  split
  · split <;> rfl
  · rfl

@[simp] theorem unwritten_append (l : Ledger) (stamp : Word64) (source code rep flags : Word16) (p : Word64) :
    unwritten (ldgAppend l stamp source code rep flags p).1 = unwritten l := rfl

@[simp] theorem unwritten_seal (l : Ledger) (now : Word64) : unwritten (ldgSeal l now).1 = unwritten l := by
  unfold ldgSeal
  exact (unwritten_close _).trans (unwritten_close l)

@[simp] theorem unwritten_flush (l : Ledger) (now : Word64) : unwritten (ldgFlush l now).1 = unwritten l := by
  unfold ldgFlush
  split
  · rfl
  · exact unwritten_seal l now

/-- A seal before a record where one is due (R488). -/
theorem unwritten_sealIf (c : Prop) [Decidable c] (l : Ledger) (stamp : Word64) :
    unwritten (if c then ldgSeal l stamp else (l, [])).1 = unwritten l := by
  split
  · exact unwritten_seal l stamp
  · rfl

@[simp] theorem unwritten_put (l : Ledger) (stamp : Word64) (source code rep flags : Word16) (p : Word64) :
    unwritten (ldgPut l stamp source code rep flags p).1 = unwritten l := by
  unfold ldgPut
  exact (unwritten_close _).trans (unwritten_sealIf _ l stamp)

@[simp] theorem unwritten_lose (l : Ledger) (n : Nat) : unwritten (ldgLose l n) = unwritten l := rfl

@[simp] theorem unwritten_lostRec (l : Ledger) (stamp : Word64) : unwritten (ldgLostRec l stamp).1 = unwritten l := by
  unfold ldgLostRec
  split
  · exact unwritten_put l stamp 0x7000 cLdgLost 0 0 (BitVec.ofNat 64 l.lost)
  · rfl

@[simp] theorem unwritten_trigger (n : Nat) (fatal : Bool) (l : Ledger) (stamp : Word64) : unwritten (ldgTrigger n fatal l stamp).1 = unwritten l := by
  unfold ldgTrigger
  split
  · exact unwritten_flush l stamp
  · rfl

@[simp] theorem unwritten_write (l : Ledger) (e : LEvent) (held : Bool) : unwritten (ldgWrite l e held).1 = unwritten l := by
  unfold ldgWrite
  split
  · rfl
  · split
    · rfl
    · exact (unwritten_trigger ..).trans ((unwritten_put ..).trans (unwritten_lostRec ..))

@[simp] theorem unwritten_own (l : Ledger) (stamp : Word64) (code : Word16) (p : Word64) : unwritten (ldgOwn l stamp code p).1 = unwritten l :=
  unwritten_write ..

@[simp] theorem unwritten_writeHeld (es : List LEvent) (l : Ledger) : unwritten (ldgWriteHeld es l).1 = unwritten l := by
  induction es generalizing l with
  | nil => rfl
  | cons e es ih => exact (ih _).trans (unwritten_write ..)

@[simp] theorem unwritten_row (es : List LEvent) (l : Ledger) : unwritten (ldgRow es l).1 = unwritten l := by
  induction es generalizing l with
  | nil => rfl
  | cons e es ih => exact (ih _).trans (unwritten_close l)

/-! ### What holding an event leaves -/

/-- The Ledger unit without what accepting an event of no fatal class can change. -/
def unheld (l : Ledger) : Ledger := { unwritten l with held := [], heldLost := 0, timeBack := false }

theorem unheld_of_unwritten {l m : Ledger} (h : unwritten m = unwritten l) : unheld m = unheld l :=
  congrArg (fun l : Ledger => { l with held := [], heldLost := 0, timeBack := false }) h

@[simp] theorem unheld_hold (l : Ledger) (e : LEvent) : unheld (ldgHold l e) = unheld l := by
  unfold ldgHold
  split
  · split
    · rfl
    · split <;> rfl
  · rfl

theorem unheld_holds (es : List LEvent) (l : Ledger) : unheld (es.foldl ldgHold l) = unheld l := by
  induction es generalizing l with
  | nil => rfl
  | cons e es ih => exact (ih _).trans (unheld_hold l e)

@[simp] theorem unheld_back (low : Bool) (l : Ledger) (stamp : Word64) : unheld (ldgBack low l stamp).1 = unheld l := by
  unfold ldgBack
  split
  · rfl
  · dsimp only
    split
    · exact unheld_hold ..
    · exact (unheld_of_unwritten (unwritten_own { l with timeBack := true } ..)).trans rfl

/-- An event of a class that ends no freeze is written or held. -/
theorem unheld_accept {l : Ledger} {e : LEvent} (h : clsFatal e.cls = false) : unheld (ldgAccept l e).1 = unheld l := by
  unfold ldgAccept
  split
  · rfl
  · have hclass : ¬ (l.st = .frozen ∧ clsFatal (ldgFloor l { e with prelock := l.prelock }).cls = true) := by
      have : (ldgFloor l { e with prelock := l.prelock }).cls = e.cls := by unfold ldgFloor; split <;> rfl
      rw [this, h]
      simp
    simp only [if_neg hclass]
    refine (unheld_back ..).trans ?_
    split
    · exact unheld_hold ..
    · exact unheld_of_unwritten (unwritten_write ..)

theorem unheld_group (l : Ledger) (es : List LEvent) : unheld (ldgGroup l es).1 = unheld l := by
  unfold ldgGroup
  split
  · rfl
  · dsimp only
    split
    · exact (unheld_back ..).trans (unheld_holds ..)
    · split
      · rfl
      · refine (unheld_of_unwritten (unwritten_trigger ..)).trans ((unheld_back ..).trans (unheld_of_unwritten ?_))
        exact (unwritten_row ..).trans ((unwritten_sealIf ..).trans (unwritten_lostRec ..))

/-! ### The Ledger of a module -/

theorem hostEvent_hostSame (s : State) (r : Rec) : HostSame s (hostEvent s r).1 := by
  unfold hostEvent
  split
  · split
    · exact (hostPut_hostSame s _ _ _ _ _ _).trans ⟨_, _, _, rfl⟩
    · exact ⟨_, s.mem.host, s.mem.watch, rfl⟩
  · exact .refl s

theorem hostEvents_hostSame (rs : List Rec) (s : State) : HostSame s (hostEvents rs s).1 := by
  induction rs generalizing s with
  | nil => exact .refl s
  | cons r rs ih => exact (hostEvent_hostSame s r).trans (ih _)

@[simp] theorem hostEvents_ldg (rs : List Rec) (s : State) : (hostEvents rs s).1.ldg = s.ldg := by
  obtain ⟨_, _, _, h⟩ := hostEvents_hostSame rs s
  rw [h]

/-- The Ledger that is replaced, but for the note of lost event entries (log entry 16). -/
theorem unheld_ldgPost (s : State) (l : Ledger) (rs : List Rec) : unheld (ldgPost s l rs).ldg = unheld l := by
  have hposted : (hostEvents rs (bump { s with ldg := l } aLdgLost (l.lostSum - s.ldg.lostSum))).1.ldg = l := by simp
  simp only [ldgPost]
  split
  · simp only [hostEvents_ldg, bump_ldg]
    exact unheld_accept rfl
  · rw [hposted]

theorem unheld_record {cls : Nat} (h : clsFatal cls = false) (s : State) (source code : Word16) (p : Nat) :
    unheld (record s cls source code p).ldg = unheld s.ldg := (unheld_ldgPost ..).trans (unheld_accept h)

/-- What a function of the Ledger makes of the unit, but for LDG_TIME_BACK and the note of lost event entries. -/
theorem unheld_ldgDo (s : State) (f : Ledger → Word64 → Ledger × List Rec) :
    ∃ stamp, unheld (ldgDo s f).ldg = unheld (f s.ldg stamp).1 := ⟨_, (unheld_ldgPost ..).trans (unheld_back ..)⟩

end Sys2Proof.Machine
end

section
/-! PROOFS. O37: the Ledger's flushes, clears, freezes, windows and queries. -/

namespace Sys2Proof.Machine

/-! ### A flush that ends -/

/-- The Ledger after a flush of at most as many records as the near-full mark allows (R482, R490). -/
theorem flushDone_ldg {s : State} (h : s.ldg.flushTo ≤ 1718528) :
    (flushDone s).ldg.st = s.ldg.st ∧ (flushDone s).ldg.lost = s.ldg.lost ∧ (flushDone s).ldg.flushAgain = s.ldg.flushAgain ∧
      (flushDone s).ldg.flushing = false ∧ (flushDone s).ldg.nFlushed = s.ldg.flushTo ∧ (flushDone s).ldg.recs = s.ldg.recs ∧
      (flushDone s).ldg.flushCount = s.ldg.flushCount + 1 ∧
      (flushDone s).ldg.seals = smSet [] s.ldg.seals (if s.ldg.flushCount = 0 then 0 else (s.ldg.slot + 1) % 2048) (sealBlock s) := by
  have hgone : s.ldg.flushTo - ldgArea = 0 := by simp only [ldgArea]; omega
  have hnear : decide (s.ldg.flushTo > ldgNear) = false := by simp only [ldgNear]; simpa using h
  simp only [flushDone, hgone, hnear, List.drop_zero, Nat.sub_zero, Bool.false_and, Bool.false_eq_true, if_false, Bool.or_false]
  trivial

/-- A flush that verifies while the unit records, none waiting behind it and nothing lost, is the whole of the command (R482). -/
theorem flushEnd_verified {s : State} (hrun : s.ldg.flushing = true) (hst : s.ldg.st = .recording) (hagain : s.ldg.flushAgain = false)
    (hto : s.ldg.flushTo ≤ 1718528) (hlost : s.ldg.lost = 0) : flushEnd s true = flushDone s := by
  obtain ⟨hst', hlost', hagain', -⟩ := flushDone_ldg hto
  have hnote : lostNote (flushDone s) = flushDone s := if_neg (by rw [hlost', hlost]; decide)
  have hnext : flushNext (flushDone s) = flushDone s := if_neg (by simp [hagain', hagain])
  have hgo : ¬ (!s.ldg.flushing || decide (s.ldg.st = .frozen)) = true := by simp [hrun, hst]
  unfold flushEnd
  rw [if_neg hgo, if_neg (by decide)]
  dsimp only
  rw [hnote]
  split
  · next hclear _ => rw [hst', hst] at hclear; cases hclear
  · exact hnext

theorem ldgDo_same (s : State) (f : Ledger → Word64 → Ledger × List Rec) : RecSame s (ldgDo s f) := ldgPost_same ..

theorem flushNext_same (s : State) : RecSame s (flushNext s) := by
  unfold flushNext
  split
  · exact ldgDo_same ..
  · exact .refl s

theorem flushAfter_same (s : State) : RecSame s (if s.ldg.st = .clearing then ldgDo s clearFlush else flushNext s) := by
  split
  · exact ldgDo_same ..
  · exact flushNext_same s

/-- What follows a failed read-back leaves the registers as the failure left them. -/
theorem flushEnd_failed {s : State} (hrun : s.ldg.flushing = true) (hst : s.ldg.st ≠ .frozen) :
    RecSame (setRegF { s with ldg := { s.ldg with flushing := false } } aLdg 6 6 1) (flushEnd s false) := by
  have hgo : ¬ (!s.ldg.flushing || decide (s.ldg.st = .frozen)) = true := by simp [hrun, hst]
  unfold flushEnd
  rw [if_neg hgo, if_pos (by decide)]
  exact (record_same _ kEvent srcLedger cLdgMramErr (openPay cLdgMramErr srcLedger)).trans (flushAfter_same _)

theorem RecSame.regF {s t : State} (h : RecSame s t) {a : Nat} (ha : a ≠ aLdgLost) (hi lo : Nat) : regF t a hi lo = regF s a hi lo := by
  obtain ⟨_, _, _, _, r, rfl, hr⟩ := h
  exact congrArg (fun v : Word64 => bitsOf v.toNat hi lo) (hr a ha)

/-- Outside a power failure and a trip the command is the end of the flush alone. -/
theorem flushComplete_plain {s : State} (hrails : s.pwr.rails ≠ .failing) (htrip : s.pwr.trip = false) (v : Bool) :
    flushComplete s v = flushEnd s v := by
  simp [flushComplete, hrails, htrip]

/-- A flush waits while the unit is frozen (R498). -/
theorem flushComplete_frozen {s : State} (hrails : s.pwr.rails ≠ .failing) (hst : s.ldg.st = .frozen) (v : Bool) : flushComplete s v = s := by
  have hend : flushEnd s v = s := if_pos (by simp [hst])
  simp only [flushComplete, if_neg hrails, hend]
  exact if_neg fun ⟨_, _, h, h'⟩ => by simp [h] at h'

/-! ### A unit that records -/

/-- What a recording unit whose time base has locked is given to hold: nothing more. -/
theorem ldgHolds_of_unheld {l m : Ledger} (h : unheld m = unheld l) : ldgHolds m = ldgHolds l := by
  have hst := congrArg Ledger.st h
  have hpre := congrArg Ledger.prelock h
  simp only [unheld, unwritten] at hst hpre
  simp only [ldgHolds, hst, hpre]

theorem held_of_unwritten {l m : Ledger} (h : unwritten m = unwritten l) : m.held = l.held := by simpa [unwritten] using congrArg Ledger.held h

theorem back_held {l : Ledger} (h : ldgHolds l = false) (low : Bool) (stamp : Word64) : (ldgBack low l stamp).1.held = l.held := by
  unfold ldgBack
  split
  · rfl
  · dsimp only
    rw [if_neg (by rw [h]; decide), held_of_unwritten (unwritten_own ..)]

theorem accept_held {l : Ledger} {e : LEvent} (h : ldgHolds l = false) (hc : clsFatal e.cls = false) : (ldgAccept l e).1.held = l.held := by
  have hclass : ¬ (l.st = .frozen ∧ clsFatal (ldgFloor l { e with prelock := l.prelock }).cls = true) := by
    have : (ldgFloor l { e with prelock := l.prelock }).cls = e.cls := by unfold ldgFloor; split <;> rfl
    rw [this, hc]
    simp
  unfold ldgAccept
  split
  · rfl
  · simp only [if_neg hclass, h, Bool.false_eq_true, if_false]
    have hw := unwritten_write l (ldgFloor l { e with prelock := l.prelock }) false
    have hh := (ldgHolds_of_unheld (unheld_of_unwritten hw)).trans h
    exact (back_held hh _ _).trans (held_of_unwritten hw)

/-- A recording unit's queue of held events stays under what posting its records adds. -/
theorem ldgPost_held {s : State} {l : Ledger} (h : ldgHolds l = false) (rs : List Rec) : (ldgPost s l rs).ldg.held = l.held := by
  simp only [ldgPost]
  split
  · simp only [hostEvents_ldg, bump_ldg]
    exact accept_held h rfl
  · simp

/-- A function that leaves the unit recording leaves its queue as it put it. -/
theorem ldgDo_held {s : State} {f : Ledger → Word64 → Ledger × List Rec} (h : ∀ stamp, ldgHolds (f s.ldg stamp).1 = false) :
    ∃ stamp, (ldgDo s f).ldg.held = (f s.ldg stamp).1.held := by
  have hback (low : Bool) (stamp : Word64) : ldgHolds (ldgBack low (f s.ldg stamp).1 stamp).1 = false :=
    (ldgHolds_of_unheld (unheld_back ..)).trans (h stamp)
  exact ⟨_, (ldgPost_held (hback ..) _).trans (back_held (h _) ..)⟩

/-! ### A clear that ends -/

/-- What the end of a clear makes of the unit (R495), as `clearEnd` lets it run. -/
def clearWrites (l : Ledger) (now : Word64) : Ledger × List Rec :=
  let p : Word64 := BitVec.ofNat 64 l.heldLost
  let l0 := { l with st := .recording, flushAgain := false, heldLost := 0 }
  if l.prelock then (if l.heldLost > 0 then ldgHold l0 (ownEvent now cLdgLost p true) else l0, [])
  else
    let (l1, r1) := ldgWriteHeld l.held { l0 with held := [] }
    let (l2, r2) := if l.heldLost > 0 then ldgOwn l1 now cLdgLost p else (l1, [])
    let (l3, r3) := if l.flushAgain then ldgFlush l2 now else (l2, [])
    (l3, r1 ++ r2 ++ r3)

theorem clearEnd_eq {s : State} (hst : s.ldg.st = .clearing) (hfl : s.ldg.flushing = false) (hcl : s.ldg.clearing = none) :
    clearEnd s = ldgDo s clearWrites := if_neg (by simp [hst, hfl, hcl])

theorem unwritten_ownIf (c : Prop) [Decidable c] (l : Ledger) (stamp : Word64) (code : Word16) (p : Word64) :
    unwritten (if c then ldgOwn l stamp code p else (l, [])).1 = unwritten l := by
  split
  · exact unwritten_own ..
  · rfl

theorem unwritten_flushIf (c : Prop) [Decidable c] (l : Ledger) (now : Word64) :
    unwritten (if c then ldgFlush l now else (l, [])).1 = unwritten l := by
  split
  · exact unwritten_flush ..
  · rfl

/-- After the first lock the held records are written, and the unit records with an empty queue. -/
theorem unwritten_clearWrites {l : Ledger} (h : l.prelock = false) (now : Word64) :
    unwritten (clearWrites l now).1 = unwritten { l with st := .recording, flushAgain := false, heldLost := 0, held := [] } := by
  unfold clearWrites
  rw [if_neg (by simp [h])]
  exact (unwritten_flushIf ..).trans ((unwritten_ownIf ..).trans (unwritten_writeHeld ..))

/-- A clear that ends leaves the unit recording. -/
theorem unheld_clearWrites (l : Ledger) (now : Word64) : unheld (clearWrites l now).1 = unheld { l with st := .recording } := by
  by_cases h : l.prelock = true
  · unfold clearWrites
    rw [if_pos h]
    dsimp only
    split
    · exact (unheld_hold ..).trans rfl
    · rfl
  · exact (unheld_of_unwritten (unwritten_clearWrites (Bool.eq_false_iff.2 h) now)).trans rfl

/-! ### The end of a freeze -/

/-- The end of a freeze leaves the unit recording, with the time of the unfreeze (R497, R498). -/
theorem unheld_unfreeze (l : Ledger) (stamp : Word64) (at_ cause : Nat) :
    unheld (ldgUnfreeze l stamp at_ cause).1 = unheld { l with st := .recording, lastUnfreeze := some at_ } := by
  unfold ldgUnfreeze
  dsimp only
  refine (unheld_of_unwritten (unwritten_flushIf ..)).trans ?_
  split
  · exact (unheld_hold ..).trans rfl
  · exact (unheld_of_unwritten ((unwritten_own ..).trans (unwritten_writeHeld ..))).trans rfl

/-- Equal but for what is held, the units agree on the state and the time of the last unfreeze. -/
theorem st_of_unheld {l m : Ledger} (h : unheld l = unheld m) : l.st = m.st ∧ l.lastUnfreeze = m.lastUnfreeze :=
  ⟨by simpa [unheld, unwritten] using congrArg Ledger.st h, by simpa [unheld, unwritten] using congrArg Ledger.lastUnfreeze h⟩

theorem thaw_frozen {s : State} (hst : s.ldg.st = .frozen) (cause : Nat) :
    (thaw s cause).ldg.st = .recording ∧ (thaw s cause).ldg.lastUnfreeze = some (now s) := by
  obtain ⟨stamp, hdo⟩ := unheld_ldgDo s (fun l stamp => ldgUnfreeze l stamp (now s) cause)
  rw [thaw, if_pos hst]
  exact st_of_unheld (hdo.trans (unheld_unfreeze ..))

/-! ### The windows of the accounting -/

/-- A usage group changes the segment's energy reading and, besides, no more than held events do. -/
theorem unheld_useWrite (s : State) (win : Bool) (at_ : Nat) (energy : Word64) (active steps preempts : Nat) :
    unheld (useWrite s win at_ energy active steps preempts).ldg = unheld { s.ldg with segEnergy := energy } :=
  (unheld_ldgPost ..).trans (congrArg (fun l : Ledger => { l with segEnergy := energy }) (unheld_group s.ldg _))

/-- The account of the running segment and the windows that wait for their group. -/
theorem account_of_unheld {l m : Ledger} (h : unheld l = unheld m) :
    l.snaps = m.snaps ∧ l.segJob = m.segJob ∧ l.segEnergy = m.segEnergy ∧ l.segActive = m.segActive ∧ l.segSteps = m.segSteps ∧
      l.segPreempts = m.segPreempts :=
  ⟨by simpa [unheld, unwritten] using congrArg Ledger.snaps h, by simpa [unheld, unwritten] using congrArg Ledger.segJob h,
    by simpa [unheld, unwritten] using congrArg Ledger.segEnergy h, by simpa [unheld, unwritten] using congrArg Ledger.segActive h,
    by simpa [unheld, unwritten] using congrArg Ledger.segSteps h, by simpa [unheld, unwritten] using congrArg Ledger.segPreempts h⟩

/-- The oldest window that passed is written and taken from the list. -/
theorem windowGroup_cons {s : State} {x : SegSnap} {xs : List SegSnap} (h : s.ldg.snaps = x :: xs) :
    windowGroup s = useWrite { s with ldg := { s.ldg with snaps := xs } } true x.at_ (x.energy.getD (reg s aPwrEnergy)) x.active x.steps
      x.preempts := by
  unfold windowGroup
  rw [h]

theorem windowEnd_cons {s : State} {x : SegSnap} {xs : List SegSnap} (h : s.ldg.snaps = x :: xs) :
    windowEnd s = if s.ldg.up && decide (x.at_ < now s) then windowGroup s else s := by
  unfold windowEnd
  rw [h]

/-! ### A freeze that begins -/

theorem ldgClose_closed (l : Ledger) : (ldgClose l).isOpen = false := by
  unfold ldgClose
  split
  · split <;> rfl
  · exact Bool.eq_false_iff.2 ‹_›

/-- The Ledger as a freeze of `ms` milliseconds leaves it (R496, R497). -/
def frozenLedger (s : State) (ms : Nat) : Ledger :=
  { ldgClose s.ldg with st := .frozen, freezeEnd := now s + (if ms = 0 then 100 else ms) * 1000000 }

/-- A recording unit that was never frozen takes a freeze of at most 100 ms. -/
theorem freezeTry_taken {s : State} {ms : Nat} (hst : s.ldg.st = .recording) (hlast : s.ldg.lastUnfreeze = none) (hms : ms ≤ 100) :
    freezeTry s ms = ({ s with ldg := frozenLedger s ms }, false) := by
  unfold freezeTry
  simp [hst, hlast, Nat.not_lt.2 hms, frozenLedger]

/-! ### Answers to a query -/

/-- A message that is sent leaves the Ledger and the messages that wait (R342). -/
theorem tc0Send_keeps (s : State) (k : Nat) (d : BitVec 14) (tag : Word32) {b : List Byte} (h : b.length ≤ 64) :
    (tc0Send s k d tag b).ldg = s.ldg ∧ ∀ m, m ∈ s.fab.tc0q → m ∈ (tc0Send s k d tag b).fab.tc0q := by
  unfold tc0Send tc0SendOn
  rw [if_neg (by omega)]
  exact ⟨rfl, fun m => mem_tc0Place_of_mem _ m _⟩

/-- One message of kind 6 for each record of an answer (R494). -/
theorem answers_mem (src : BitVec 14) (body : List Byte → List Byte) (hbody : ∀ r, (body r).length ≤ 64) (rs : List Rec) :
    ∀ s : State, (rs.foldl (fun s r => tc0Send s 6 src 0 (body (recBytes r))) s).ldg = s.ldg ∧
      (∀ m, m ∈ s.fab.tc0q → m ∈ (rs.foldl (fun s r => tc0Send s 6 src 0 (body (recBytes r))) s).fab.tc0q) ∧
      ∀ r, r ∈ rs → ∃ m, m ∈ (rs.foldl (fun s r => tc0Send s 6 src 0 (body (recBytes r))) s).fab.tc0q ∧ m.kind = 6 ∧ m.dst = src ∧
        m.body = body (recBytes r) := by
  induction rs with
  | nil => exact fun s => ⟨rfl, fun _ h => h, nofun⟩
  | cons r rs ih =>
    intro s
    obtain ⟨hldg, hmem⟩ := tc0Send_keeps s 6 src 0 (hbody (recBytes r))
    obtain ⟨hldg', hmem', hall⟩ := ih (tc0Send s 6 src 0 (body (recBytes r)))
    refine ⟨hldg'.trans hldg, fun m h => hmem' m (hmem m h), fun x hx => ?_⟩
    rcases List.mem_cons.1 hx with rfl | hx
    · exact ⟨_, hmem' _ (tc0Send_mem s 6 src 0 _ (hbody _)), rfl, rfl, rfl⟩
    · exact hall x hx

/-- The 48 bytes of an answer: the kind, the status, the device and one record (R494). -/
def ledgerBody (s : State) (st : Nat) (r : List Byte) : List Byte :=
  leBytes 1 6 ++ leBytes 1 st ++ leBytes 2 (devId s).toNat ++ zeros 12 ++ slice r 0 32

theorem length_ledgerBody (s : State) (st : Nat) (r : List Byte) : (ledgerBody s st r).length ≤ 64 := by
  simp [ledgerBody, length_leBytes, Tests.slice_length, zeros]

theorem ledgerAsk_up {s : State} {src : BitVec 14} {count seq ep : Nat} (h1 : 1 ≤ count) (h8 : count ≤ 8) (hup : s.ldg.up = true) :
    ledgerAsk s src count seq ep =
      if (ldgRead s.ldg ep seq count).1.isEmpty then tc0Send s 6 src 0 (ledgerBody s 2 [])
      else (ldgRead s.ldg ep seq count).1.foldl
        (fun t r => tc0Send t 6 src 0 (ledgerBody s (b2n (ldgRead s.ldg ep seq count).2) (recBytes r))) s := if_pos ⟨h1, h8, hup⟩

/-- Settles O37. A flush that verifies is `flushDone` alone; what a clear, an unfreeze and a window write into the ring is left out by `unheld`, so
the unit's state stays visible through it; an answer of records is one message for each. -/
theorem ledgerResults : Obligations.LedgerResults := by
  refine ⟨fun s hrails htrip hrun hst hagain hto hlost => ?_, fun s hrails htrip hrun hst => ?_, fun s v hrails hst => ?_,
    fun s hst hfl hcl => ?_, fun s x xs hup hsnaps => ⟨fun hpast => ?_, fun hnow => ?_⟩, fun s hsnaps => ?_, fun s ms hst hlast hms => ?_,
    fun s i hst hi => ?_, fun s src count seq epoch h1 h8 hup => ?_, fun s src status record => rfl⟩
  · obtain ⟨-, -, -, hfl, hn, hrecs, hcount, hseals⟩ := flushDone_ldg hto
    exact ⟨_, congrArg Host.Outcome.next ((flushComplete_plain hrails htrip true).trans (flushEnd_verified hrun hst hagain hto hlost)),
      hfl, hn, hrecs, hcount, hseals⟩
  · refine ⟨_, congrArg Host.Outcome.next (flushComplete_plain hrails htrip false), ?_⟩
    rw [(flushEnd_failed hrun hst).regF (by decide)]
    exact regF_setRegF_ne_zero _ aLdg (by decide) (by decide) (by decide)
  · exact congrArg Host.Outcome.next (flushComplete_frozen hrails hst v)
  · obtain ⟨stamp, hdo⟩ := unheld_ldgDo s clearWrites
    refine ⟨_, congrArg Host.Outcome.next (clearEnd_eq hst hfl hcl), (st_of_unheld (hdo.trans (unheld_clearWrites ..))).1, fun hlock => ?_⟩
    have hholds (now : Word64) : ldgHolds (clearWrites s.ldg now).1 = false :=
      (ldgHolds_of_unheld (unheld_of_unwritten (unwritten_clearWrites hlock now))).trans (by simp [ldgHolds, hlock])
    obtain ⟨now, hheld⟩ := ldgDo_held (s := s) hholds
    exact hheld.trans (held_of_unwritten (unwritten_clearWrites hlock now))
  · refine ⟨_, congrArg Host.Outcome.next ((windowEnd_cons hsnaps).trans (if_pos (by simp [hup, hpast]))), ?_⟩
    rw [windowGroup_cons hsnaps]
    exact account_of_unheld (unheld_useWrite ..)
  · exact congrArg Host.Outcome.next ((windowEnd_cons hsnaps).trans (if_neg (by simp [Nat.not_lt.2 hnow])))
  · refine congrArg Host.Outcome.next ?_
    unfold windowEnd
    rw [hsnaps]
  · refine ⟨_, congrArg (fun p : State × Bool => Host.Outcome.next p.1) (freezeTry_taken hst hlast hms), rfl, ldgClose_closed s.ldg, ?_⟩
    have hzero : ms.toNat = 0 ↔ ms = 0 := BitVec.toNat_eq (x := ms) (y := 0) |>.symm
    simp only [frozenLedger, hzero]
  · rcases hi with rfl | ⟨rfl, hend⟩
    · exact ⟨_, rfl, thaw_frozen hst 1⟩
    · exact ⟨_, congrArg Host.Outcome.next (if_pos hend), thaw_frozen hst 2⟩
  · intro a body
    have hgo := ledgerAsk_up (src := src) (seq := seq.toNat) (ep := epoch.toNat) h1 h8 hup
    by_cases hnone : a.1 = []
    · rw [if_pos (List.isEmpty_iff.2 hnone)] at hgo
      have hlen := length_ledgerBody s 2 []
      refine ⟨_, congrArg Host.Outcome.next hgo, (tc0Send_keeps s 6 src 0 hlen).1, fun r hr => absurd (hnone ▸ hr) (List.not_mem_nil),
        fun _ => ⟨_, tc0Send_mem s 6 src 0 _ hlen, rfl, rfl, rfl⟩⟩
    · rw [if_neg (fun h => hnone (List.isEmpty_iff.1 h))] at hgo
      obtain ⟨hldg, -, hall⟩ := answers_mem src (ledgerBody s (b2n a.2)) (length_ledgerBody s _) a.1 s
      exact ⟨_, congrArg Host.Outcome.next hgo, hldg, hall, fun h => absurd h hnone⟩

end Sys2Proof.Machine
end

section
/-! PROOFS. O39 and O22: the end of a life-cycle transition, and the start of a job among its members. -/

namespace Sys2Proof.Machine

/-! ### The end of a transition (R509, R516) -/

/-- The fuses after a transition. -/
def movedFuses (s : State) (m : LcMove) : Fuses :=
  let f := s.sec.fuses
  match m with
  | .provision => { f with provisioned := true }
  | .register key => { f with iak := smSet [] f.iak ((slotFree s).getD 0) ((shake64 (slice key 0 1793)).take 32) }
  | .unlock => f
  | .deregister => { f with revoked := f.revoked ||| BitVec.ofNat 8 (2 ^ (iakSlot s).getD 0) }
  | .retire => { f with retired := true }
  | .relock => f

theorem moveBurn_fuses (s : State) (m : LcMove) : (moveBurn s m).1.sec.fuses = movedFuses s m := by
  cases m with
  | register key => exact congrArg Sec.fuses (record_sec ..)
  | _ => rfl

theorem moveBurn_unlock (s : State) : (moveBurn s .unlock).1.sec.unlocked = true := rfl

/-- The transitions that close the device again clear the flag of the unlock. -/
theorem moveBurn_locks (s : State) {m : LcMove} (h : m = .deregister ∨ m = .retire ∨ m = .relock) : (moveBurn s m).1.sec.unlocked = false := by
  rcases h with rfl | rfl | rfl <;> rfl

/-- The state that the end of a transition records: no transition under way, debug sessions and mailbox wiped (R516). -/
def movedOn (s : State) (m : LcMove) : State :=
  let s1 := (moveBurn s m).1
  { s1 with sec := { s1.sec with move := none }, dbg := dbgWipe s1.dbg }

theorem moveEnds_sec {s : State} {m : LcMove} (hmove : s.sec.move = some m) (hwipe : s.sec.wipe = none) (hprov : s.sec.provisioning = false)
    (hjob : s.job.st = .empty) : (moveEnds s).sec = (movedOn s m).sec ∧ (moveEnds s).dbg = (movedOn s m).dbg := by
  unfold moveEnds
  rw [hmove]
  dsimp only
  rw [if_neg (by simp [hwipe, hprov, hjob])]
  exact ⟨record_sec .., record_dbg ..⟩

/-- Settles O39, by the transitions one by one: `moveBurn` says what each burns, and the record of the change leaves it. -/
theorem transitionResults : Obligations.TransitionResults := by
  intro s m hmove hwipe hprov hjob
  obtain ⟨hsec, hdbg⟩ := moveEnds_sec hmove hwipe hprov hjob
  refine ⟨_, rfl, ?_, ?_, ?_, fun hm => ?_, fun hm => ?_⟩
  · exact congrArg Sec.move hsec
  · exact congrArg Dbg.mbox hdbg
  · exact (congrArg Sec.fuses hsec).trans (moveBurn_fuses s m)
  · exact (congrArg Sec.unlocked hsec).trans (hm ▸ moveBurn_unlock s)
  · exact (congrArg Sec.unlocked hsec).trans (moveBurn_locks s hm)

/-! ### GO and ABORT at a member (R563) -/

theorem wardTime_job (s : State) : ∃ w n, (wardTime s).job = { s.job with ward := w, wardAt := n } := by
  unfold wardTime
  split
  · exact ⟨s.job.ward, s.job.wardAt, rfl⟩
  · exact ⟨_, _, rfl⟩

theorem wardTime_seq (s : State) : (wardTime s).seq = s.seq := by
  unfold wardTime
  split <;> rfl

/-- GO puts a module in STARTING into RUNNING; its start window is as it was. -/
theorem goHere_starting {s : State} (hst : s.job.st = .starting) :
    (goHere s).job.st = .running ∧ (goHere s).job.window = s.job.window ∧ (goHere s).seq = (seqStart s).seq := by
  have hgo : goHere s = wardTime (hostDoneAll (jobTo (seqStart s) .running) 2 0 0 0) := by
    unfold goHere
    rw [hst]
  obtain ⟨w, n, hjob⟩ := wardTime_job (hostDoneAll (jobTo (seqStart s) .running) 2 0 0 0)
  rw [hostDoneAll_job, jobTo_job] at hjob
  have hwindow : (seqStart s).job.window = s.job.window := by
    simpa [unfaulted, jobUnfaulted] using congrArg Job.window (seqStart_unfaulted s)
  rw [hgo, hjob, wardTime_seq]
  exact ⟨rfl, hwindow, by simp⟩

/-- ABORT puts a module in STARTING back to LOADED; it never started its sequencer. -/
theorem abortHere_starting {s : State} (hst : s.job.st = .starting) :
    (abortHere s).job = { s.job with st := .loaded } ∧ (abortHere s).seq = s.seq := by
  unfold abortHere
  rw [if_pos hst]
  simp

/-- A message passed on leaves the length of the job's image. -/
theorem relayFrom_reg (s : State) (origin : BitVec 14) (kind : Nat) (body : List Byte) {a : Nat} (h : a ≠ aLdgLost) :
    reg (relayFrom s origin kind body) a = reg s a := by
  unfold relayFrom
  split
  · exact tc0SendAll_reg _ _ _ _ a h
  · rfl

/-! ### READY and GO at the lead (R564) -/

/-- A READY that the lead takes opens the start window; the last of the live members' lets the lead send GO. -/
theorem readyTake_member {s : State} {src : BitVec 14} (hst : s.job.st = .loaded ∨ s.job.st = .starting) (hmem : s.job.members.contains src = true) :
    readyTake s src =
      let s1 := { s with job := { s.job with ready := if s.job.ready.contains src then s.job.ready else s.job.ready ++ [src], window := true } }
      if allIn s1 s1.job.ready then leadGo s1 else s1 := by
  have hno : ¬ ((s.job.st ≠ .loaded ∧ s.job.st ≠ .starting) ∨ s.job.members.contains src = false) := by
    rw [hmem]
    rcases hst with h | h <;> simp [h]
  unfold readyTake
  rw [if_neg hno]

/-- The READYs held with one more among them. -/
theorem contains_ready {l : List (BitVec 14)} {src d : BitVec 14} :
    (if l.contains src then l else l ++ [src]).contains d = true ↔ d = src ∨ l.contains d = true := by
  split
  · next h =>
    refine ⟨.inr, fun hd => hd.elim (fun e => e ▸ h) id⟩
  · simp [or_comm]

theorem permitHere_st (s : State) (p : Permit) (f : State → GenAns → State)
    (hf : ∀ t a, (f t a).job.st = t.job.st ∧ (f t a).job.window = t.job.window) :
    (permitHere s p f).job.st = s.job.st ∧ (permitHere s p f).job.window = s.job.window := by
  unfold permitHere
  dsimp only
  split
  · exact hf _ _
  · exact ⟨rfl, rfl⟩

theorem permitSend_st (s : State) (p : Permit) : (permitSend s p).job.st = s.job.st ∧ (permitSend s p).job.window = s.job.window := by
  obtain ⟨hst, hwindow⟩ := permitHere_st (relayOwn { s with job := { s.job with gen := some ⟨p.gen, p.b, []⟩, genFar := p.far } } 6 (permitBody s p)) p
    (fun s a => { s with job := { s.job with gen := s.job.gen.map (fun g => { g with answers := g.answers ++ [a] }) } }) (fun _ _ => ⟨rfl, rfl⟩)
  rw [relayOwn, tc0SendAll_job] at hst hwindow
  exact ⟨hst, hwindow⟩

/-- The lead that sends GO in STARTING runs, and its start window is closed. -/
theorem leadGo_starting {s : State} (hst : s.job.st = .starting) : (leadGo s).job.st = .running ∧ (leadGo s).job.window = false := by
  have hrelay : (relayOwn { s with job := { s.job with ready := [], window := false, restored := [] } } 2
      (ctlMsg { s with job := { s.job with ready := [], window := false, restored := [] } } 2 0 0)).job =
      { s.job with ready := [], window := false, restored := [] } := by rw [relayOwn, tc0SendAll_job]
  obtain ⟨hrun, hwindow, -⟩ := goHere_starting ((congrArg Job.st hrelay).trans hst)
  rw [hrelay] at hwindow
  unfold leadGo
  dsimp only
  split
  · obtain ⟨hst', hwindow'⟩ := permitSend_st _ _
    exact ⟨hst'.trans hrun, hwindow'.trans hwindow⟩
  · exact ⟨hrun, hwindow⟩

/-- The end of the start window at the lead: ABORT goes out, and the lead takes it too. -/
theorem windowEnds_starting {s : State} (hwindow : s.job.window = true) (hlead : isLead s = true) (hst : s.job.st = .starting) :
    (windowEnds s).job = { s.job with st := .loaded, ready := [], window := false } := by
  have hno : ¬ (!s.job.window || !isLead s) = true := by simp [hwindow, hlead]
  unfold windowEnds
  rw [if_neg hno]
  dsimp only
  rw [(abortHere_starting (by simp [relayOwn, hst])).1]
  simp [relayOwn]

/-- Settles O22. Messages and records leave the job, so each case is what READY, GO, ABORT and the window's end make of it. -/
theorem startRendezvous : Obligations.StartRendezvous := by
  refine ⟨fun s src d hlead hst hmem hlive hother hmissing => ?_, fun s src hlead hst hmem hall => ?_, fun s src time hst hseq hdev himg => ?_,
    fun s src time hst => ?_, fun s hwindow hlead hst => ?_⟩
  · have hwait : ¬ (liveMembers s).all (fun d => (if s.job.ready.contains src then s.job.ready else s.job.ready ++ [src]).contains d) = true := by
      intro h
      rcases contains_ready.1 (List.all_eq_true.1 h d (List.contains_iff_mem.1 hlive)) with h | h
      · exact hother h
      · exact Bool.noConfusion (h.symm.trans hmissing)
    have hgo : exec (.ready src) s = .next _ := congrArg Host.Outcome.next ((if_pos hlead).trans ((readyTake_member hst hmem).trans (if_neg hwait)))
    exact ⟨_, hgo, List.contains_iff_mem.1 (contains_ready.2 (.inl rfl)), rfl, rfl⟩
  · have hgo : (liveMembers s).all (fun d => (if s.job.ready.contains src then s.job.ready else s.job.ready ++ [src]).contains d) = true :=
      List.all_eq_true.2 fun d hd => contains_ready.2 (hall d (List.contains_iff_mem.2 hd))
    have hrun : exec (.ready src) s = .next _ := congrArg Host.Outcome.next ((if_pos hlead).trans ((readyTake_member (.inr hst) hmem).trans (if_pos hgo)))
    exact ⟨_, hrun, leadGo_starting hst⟩
  · obtain ⟨hjob, -, hseq'⟩ := relayFrom_frame s src 2 (msgOf src 2 0 0 time.toNat)
    obtain ⟨hrun, -, hstart⟩ := goHere_starting ((congrArg Job.st hjob).trans hst)
    have hruns := seqStart_runs ((congrArg Seq.st hseq').trans hseq) ((congrArg Job.device hjob).trans hdev)
      (fun h => himg ((regF_congr (relayFrom_reg s src 2 (msgOf src 2 0 0 time.toNat) (show aSeqImgLen ≠ aLdgLost by decide)) 31 0).symm.trans h))
    rw [hruns] at hstart
    exact ⟨_, rfl, hrun, by rw [hstart], by rw [hstart]; rfl⟩
  · obtain ⟨hjob, -, hseq⟩ := relayFrom_frame s src 2 (msgOf src 8 0 0 time.toNat)
    obtain ⟨hloaded, hkept⟩ := abortHere_starting ((congrArg Job.st hjob).trans hst)
    exact ⟨_, rfl, by rw [hloaded], hkept.trans hseq⟩
  · have hend := windowEnds_starting hwindow hlead hst
    exact ⟨_, rfl, by rw [hend], by rw [hend], by rw [hend]⟩

end Sys2Proof.Machine
end


section
/-! PROOFS. O49: a resume of the chip frees the cores that the debug port holds, and no other. -/

namespace Sys2Proof.Machine

/-- An open port under power, with a core that is not halted but has its step flag set: the statement asks for no relation of the two flags. -/
def strayStep : State :=
  { State.reset with
    pwr := { State.reset.pwr with rails := .up }
    dbg := { State.reset.dbg with session := true }
    cores := [(0, { Core.init with dbgStep := true })] }

/-- A resume of the chip leaves a core that is not halted as it is. -/
theorem strayStep_resumed : exec .dbgCresume strayStep = .next { strayStep with dbg := { strayStep.dbg with chip := false, dap := 0 } } := rfl

/-- Refutes O49: a resume of the chip leaves a core that is not halted, so a step flag set on such a core stays (`strayStep`). -/
theorem not_debugHaltResults : ¬ Obligations.DebugHaltResults := by
  rintro ⟨-, hchip⟩
  obtain ⟨-, t, ht, -, -, hfree⟩ := hchip strayStep rfl rfl rfl
  cases strayStep_resumed.symm.trans ht
  exact absurd (hfree 0).2 (by decide)

end Sys2Proof.Machine
end

section
/-! PROOFS. O48: what a transaction of the debug port answers, and what a refused one leaves. -/

namespace Sys2Proof.Machine

/-! ### Transactions of a session (R602, R603) -/

theorem dapSession_session {s : State} (h : s.dbg.session = true) : dapSession s = s := if_pos h

/-- A transaction that the port permits does what it is for. -/
theorem dapTry_permits {s : State} {a : Nat} {write : Bool} (hup : s.pwr.rails = .up) (hs : s.dbg.session = true)
    (hok : dbgOpen s = true ∨ lockedOk a write = true) (ha : a % 8 = 0) (f : State → State) : dapTry s a write f = f s := by
  have hopen : ¬ (!dbgOpen s && !lockedOk a write) = true := by rcases hok with h | h <;> simp [h]
  unfold dapTry
  rw [if_neg (by simp [hup]), dapSession_session hs]
  dsimp only
  rw [if_neg hopen, if_neg (by simp [ha])]

/-- A transaction that a locked port refuses is answered with reason 1 (R606). -/
theorem dapTry_refuses {s : State} {a : Nat} {write : Bool} (hup : s.pwr.rails = .up) (hs : s.dbg.session = true)
    (hopen : dbgOpen s = false) (hlock : lockedOk a write = false) (f : State → State) : dapTry s a write f = dapRefuse s a 1 := by
  unfold dapTry
  rw [if_neg (by simp [hup]), dapSession_session hs]
  dsimp only
  rw [if_pos (by simp [hopen, hlock])]

/-- A refused transaction leaves the cores, GDDR7, the life cycle, the flash and the job. -/
theorem dapRefuse_leaves (s : State) (a reason : Nat) :
    (dapRefuse s a reason).dbg.dap = BitVec.ofNat 112 (0xE004 * 2 ^ 94 + 2 * 2 ^ 110) ∧ (dapRefuse s a reason).cores = s.cores ∧
      (dapRefuse s a reason).mem.gddr = s.mem.gddr ∧ (dapRefuse s a reason).sec = s.sec ∧ (dapRefuse s a reason).nor = s.nor ∧
      (dapRefuse s a reason).job = s.job := by
  simp [dapRefuse, dapResult, cDbgRefused]

/-! ### Reads (R605) -/

/-- A read of a register of the chip. -/
theorem readAt_register {s : State} {a v : Nat} (hchip : placeOf a = .chip) (hview : regView s a = some v) :
    readAt s a = { s with dbg := { s.dbg with dap := BitVec.ofNat 112 (v % 2 ^ 64) } } := by
  have hmeets : readMeets s a = s := by
    unfold readMeets
    rw [hchip]
  unfold readAt
  simp only [hmeets, hchip, hview]
  simp [dapResult]

/-- GDDR7 is there, and a module without a job and without a wipe refuses no transaction on it. -/
theorem dapMemBad_gddr {s : State} {a : Nat} (hplace : placeOf a = .gddr) (hjob : jobLoaded s = false) (hwipe : s.sec.wipe = none) (write : Bool) :
    dapMemBad s a write = none := by
  have hexists : memExists s a = true := by
    unfold memExists
    rw [hplace]
  unfold dapMemBad wipeCovers
  simp [hwipe, hjob, hexists]

theorem touchRead_gddr (s : State) (a n hint : Nat) : (touchRead s a n hint).mem.gddr = s.mem.gddr :=
  congrArg Kept.gddr (touchLines_kept ..)

/-- A read of GDDR7 that meets no error. -/
theorem readAt_gddr {s : State} {a : Nat} (hplace : placeOf a = .gddr) (hjob : jobLoaded s = false) (hwipe : s.sec.wipe = none)
    (hups : s.mem.upsets = []) :
    readAt s a = if memPoisoned s a 8 then dapResult (touchRead s a 8 0) 3 cPoisonConsumed 0
      else dapResult (touchRead s a 8 0) 0 0 (leNat (memReads s.mem.gddr a 8)) := by
  have hmeets : readMeets s a = s := by
    unfold readMeets
    rw [hplace]
    exact meetSpans_nil s _ hups
  have hbytes : memBytes s a 8 = memReads s.mem.gddr a 8 := by
    unfold memBytes
    rw [hplace]
  unfold readAt
  simp only [hmeets, hplace, dapMemBad_gddr hplace hjob hwipe, placeDown, hbytes, Bool.false_eq_true, if_false]

theorem leNat_lt (bs : List Byte) : leNat bs < 256 ^ bs.length := by
  induction bs with
  | nil => decide
  | cons b bs ih =>
    have := b.isLt
    simp only [leNat, List.length_cons, Nat.pow_succ]
    omega

/-! ### Writes (R605) -/

theorem poisonLines_gddr (lo n : Nat) (bad : Bool) (ls : List Nat) : ∀ s, (poisonLines lo n bad ls s).mem.gddr = s.mem.gddr := by
  have hset (s : State) (l : Nat) (b : Bool) : (setLinePoison s l b).mem.gddr = s.mem.gddr := congrArg Kept.gddr (setLinePoison_kept s l b)
  induction ls with
  | nil => exact fun _ => rfl
  | cons l ls ih =>
    intro s
    refine (ih _).trans ?_
    split
    · exact hset ..
    · split
      · exact hset ..
      · rfl

/-- A write of GDDR7 puts its bytes there, whatever else it tears, poisons or brings into the slices. -/
theorem memStore_gddr {s : State} {a : Nat} {bs : List Byte} (hplace : placeOf a = .gddr) (hlast : placeOf (a + bs.length - 1) = .gddr)
    (hne : bs.isEmpty = false) (bad : Bool) (hint : Nat) : (memStore s a bs bad hint).mem.gddr = memWrites s.mem.gddr a bs := by
  have hspan : spanDown s a bs.length = false := by simp [spanDown, addrDown, hplace, hlast]
  have hkeep (s : State) : (keepMem s a bs).mem = s.mem := by
    unfold keepMem
    dsimp only
    split <;> rfl
  have htear (s : State) : (tearWatches s a bs.length).mem.gddr = s.mem.gddr := congrArg Kept.gddr (tearWatches_kept ..)
  have hrun (s : State) : (hiveRun true hint a bs.length (linesOf a bs.length) s).mem.gddr = s.mem.gddr := congrArg Kept.gddr (hiveRun_kept ..)
  unfold memStore
  rw [if_neg (by simp [hne, hspan])]
  simp only [hplace]
  rw [hrun, poisonLines_gddr, htear, storeBytes, hplace]
  simp only [hkeep]

/-- A write of GDDR7 through the port that no job, no wipe stands against. -/
theorem writeAt_gddr {s : State} {a : Nat} (hplace : placeOf a = .gddr) (hjob : jobLoaded s = false) (hwipe : s.sec.wipe = none) (v : Nat) :
    writeAt s a v = dapResult (memStore s a (leBytes 8 v) false 0) 0 0 0 := by
  have hnote : dapNote s a = s := by
    unfold dapNote
    rw [hjob]
    rfl
  unfold writeAt
  simp only [hplace, dapMemBad_gddr hplace hjob hwipe, placeDown, hnote, Bool.false_eq_true, if_false]

/-! ### What a locked port refuses -/

/-- The reads that a locked port permits (R606). -/
theorem lockedOk_read_iff (a : Nat) :
    lockedOk a false = true ↔ (aLdg ≤ a ∧ a < aLdg + 0x10000) ∨ (aSec ≤ a ∧ a < aSec + 0x10000) ∨ a = aBoot ∨ a = aDbg := by
  simp [lockedOk, or_assoc]

theorem lockedOk_read {a : Nat} (hldg : ¬ (0x3F0000C00000 ≤ a ∧ a < 0x3F0000C00000 + 0x10000)) (hsec : ¬ (0x3F0000D00000 ≤ a ∧ a < 0x3F0000D00000 + 0x10000))
    (hboot : a ≠ 0x3F0000E00000) (hdbg : a ≠ 0x3F0001200000) : lockedOk a false = false := by
  rw [Bool.eq_false_iff, Ne, lockedOk_read_iff]
  rintro (h | h | h | h)
  · exact hldg h
  · exact hsec h
  · exact hboot h
  · exact hdbg h

/-- The writes that a locked port permits (R606). -/
theorem lockedOk_write_iff (a : Nat) :
    lockedOk a true = true ↔ a = aLdgRdSeq ∨ a = aDbgMcmd ∨ a = aDbgReset ∨ aMbox ≤ a ∧ a < aMbox + 0x1000 := by
  simp [lockedOk, or_assoc]

theorem lockedOk_write {a : Nat} (hseq : a ≠ 0x3F0000C00050) (hcmd : a ≠ 0x3F0001200100) (hreset : a ≠ 0x3F0001200110)
    (hbox : ¬ (0x3F0001220000 ≤ a ∧ a < 0x3F0001220000 + 0x1000)) : lockedOk a true = false := by
  rw [Bool.eq_false_iff, Ne, lockedOk_write_iff]
  rintro (h | h | h | h)
  · exact hseq h
  · exact hcmd h
  · exact hreset h
  · exact hbox h

/-- Settles O48. A session's transaction is `readAt` or `writeAt` where the port permits it, and a refusal that leaves the module where it does not. -/
theorem debugTransactionResults : Obligations.DebugTransactionResults := by
  intro s addr data hup hs
  refine ⟨fun hopen ha => ⟨fun v hchip hview => ?_, fun hlow hjob hwipe hups => ?_⟩, fun hopen => ⟨?_, ?_⟩⟩
  · exact congrArg Host.Outcome.next ((dapTry_permits hup hs (.inl hopen) ha _).trans (readAt_register hchip hview))
  · have hplace : placeOf addr.toNat = .gddr := placeOf_gddr hlow
    refine ⟨⟨_, congrArg Host.Outcome.next ((dapTry_permits hup hs (.inl hopen) ha _).trans (readAt_gddr hplace hjob hwipe hups)), ?_⟩,
      ⟨_, congrArg Host.Outcome.next ((dapTry_permits hup hs (.inl hopen) ha _).trans (writeAt_gddr hplace hjob hwipe data.toNat)), rfl, ?_⟩⟩
    · have hlt : leNat (memReads s.mem.gddr addr.toNat 8) < 2 ^ 64 :=
        lt_of_lt_of_eq (leNat_lt _) (by rw [length_memReads]; norm_num)
      split
      · simp [dapResult, cPoisonConsumed, touchRead_gddr]
      · simp only [dapResult, Nat.mod_eq_of_lt hlt]
        simp [touchRead_gddr]
    · have hlast : placeOf (addr.toNat + (leBytes 8 data.toNat).length - 1) = .gddr :=
        placeOf_gddr (by rw [length_leBytes]; unfold gddrTop; omega)
      have hgddr : (memStore s addr.toNat (leBytes 8 data.toNat) false 0).mem.gddr = _ := memStore_gddr hplace hlast rfl false 0
      refine ⟨fun hwf => ?_, fun b hb => ?_⟩
      · exact (congrArg (memReads · addr.toNat 8) hgddr).trans (memReads_memWrites_same hwf addr.toNat (leBytes 8 data.toNat))
      · exact (congrArg (memRead · b) hgddr).trans (memRead_writes_out _ _ _ b (by rwa [length_leBytes]))
  · intro hldg hsec hboot hdbg
    exact ⟨_, congrArg Host.Outcome.next (dapTry_refuses hup hs hopen (lockedOk_read hldg hsec hboot hdbg) _), dapRefuse_leaves ..⟩
  · intro hseq hcmd hreset hbox
    exact ⟨_, congrArg Host.Outcome.next (dapTry_refuses hup hs hopen (lockedOk_write hseq hcmd hreset hbox) _), dapRefuse_leaves ..⟩

end Sys2Proof.Machine
end

section
/-! PROOFS. O45: power fails, the power loop, the energy counter, and the faults of temperature and rail. -/

namespace Sys2Proof.Machine

/-! ### Power fails (R483) -/

@[simp] theorem ldgSpill_kept (s : State) : kept (ldgSpill s) = kept s := by
  unfold ldgSpill
  split
  · rfl
  · exact ldgDo_kept ..

@[simp] theorem failFlush_kept (s : State) : kept (failFlush s) = kept s := ldgDo_kept ..

/-- A power failure under a running Ledger gates the module; the Ledger's flush goes on. -/
theorem powerFail_gates {s : State} (hrails : s.pwr.rails = .up ∨ s.pwr.rails = .tripped) (hup : s.ldg.up = true) (mv : Nat) :
    (powerFail s mv).pwr.rails = .failing ∧ (powerFail s mv).pins.pwrFailN = false ∧ (powerFail s mv).ldg.pfail = true ∧
      (powerFail s mv).cores = [] ∧ (powerFail s mv).job = Job.init ∧ (powerFail s mv).mem.hive = [] := by
  have hlive : ¬ (s.pwr.rails = .off ∨ s.pwr.rails = .failing) := by rcases hrails with h | h <;> simp [h]
  have hwrite (s : State) : kept (failWrite s) = kept s := (ldgSpill_kept _).trans (thaw_kept ..)
  have hpins (s : State) : (failFlush s).pins = s.pins := congrArg Kept.pins (failFlush_kept s)
  have hpins' (s : State) : (failWrite s).pins = s.pins := congrArg Kept.pins (hwrite s)
  unfold powerFail
  rw [if_neg hlive, if_neg (by simp [hup])]
  refine ⟨rfl, ?_, rfl, rfl, rfl, rfl⟩
  dsimp only [powerGate]
  rw [hpins]
  dsimp only
  rw [hpins', record_pins]

/-- A power failure before the Ledger runs ends the module at once. -/
theorem powerFail_gone {s : State} (hrails : s.pwr.rails = .up ∨ s.pwr.rails = .tripped) (hup : s.ldg.up = false) (mv : Nat) :
    powerFail s mv = powerGone { s with pins := { s.pins with pwrFailN := false } } := by
  have hlive : ¬ (s.pwr.rails = .off ∨ s.pwr.rails = .failing) := by rcases hrails with h | h <;> simp [h]
  unfold powerFail
  rw [if_neg hlive, if_pos (by simp [hup])]

/-! ### The power loop (R585 to R589) -/

/-- The rail stays within its ceiling and the pace within its field. -/
theorem powerStep_bounds (cap p10 p1ms : Nat) (hi : Int) (cold waited : Bool) (rail : Nat) {pace : Nat} (h : pace ≤ 15) :
    (powerStep cap p10 p1ms hi cold waited rail pace).1 ≤ 850 ∧ (powerStep cap p10 p1ms hi cold waited rail pace).2 ≤ 15 := by
  have hpace : (if decide (p10 * 10 > cap * 11) then 15 else pace) ≤ 15 := by split <;> omega
  have hceiling : railCeiling cold ≤ 850 := by unfold railCeiling; split <;> decide
  unfold powerStep
  dsimp only
  refine ⟨(Nat.min_le_left ..).trans hceiling, ?_⟩
  generalize (if decide (p10 * 10 > cap * 11) then 15 else pace) = p at hpace ⊢
  split
  · split
    · exact hpace
    · split
      · exact Nat.min_le_left ..
      · exact hpace
  · split
    · split
      · split
        · exact (Nat.sub_le ..).trans hpace
        · exact hpace
      · exact hpace
    · exact hpace

/-- PWR_STATUS shows the pace and the rail. -/
theorem pwrStatus_fields {low pace temp rail : Nat} (hlow : low ≤ 15) (hpace : pace ≤ 15) (htemp : temp < 256) (hrail : rail ≤ 850) :
    bitsOf (BitVec.ofNat 64 (low + pace * 2 ^ 20 + temp * 2 ^ 24 + rail * 2 ^ 32)).toNat 47 32 = rail ∧
      bitsOf (BitVec.ofNat 64 (low + pace * 2 ^ 20 + temp * 2 ^ 24 + rail * 2 ^ 32)).toNat 23 20 = pace := by
  simp only [bitsOf, BitVec.toNat_ofNat, Nat.shiftRight_eq_div_pow]
  omega

theorem paceNote_reg (s : State) (old new p1ms : Nat) {a : Nat} (h : a ≠ aLdgLost) : reg (paceNote s old new p1ms) a = reg s a := by
  unfold paceNote
  dsimp only
  split
  · rfl
  · split
    · exact record_reg _ _ _ _ _ a h
    · split
      · exact record_reg _ _ _ _ _ a h
      · rfl

theorem thermHigh_reg (s : State) (tj : List Int) {a : Nat} (h : a ≠ aLdgLost) : reg (thermHigh s tj) a = reg s a := by
  have hfold (is : List Nat) (hot : BitVec 4) : ∀ t, reg (is.foldl (fun t i =>
      if (tjHot tj).getLsbD i && !hot.getLsbD i then record t kEvent srcPower cThermHigh (i + wrapInt 8 (tjOf tj i / 16) * 2 ^ 8) else t) t) a = reg t a := by
    induction is with
    | nil => exact fun _ => rfl
    | cons i is ih =>
      intro t
      refine (ih _).trans ?_
      dsimp only
      split
      · exact record_reg _ _ _ _ _ a h
      · rfl
  exact hfold (List.range 4) s.pwr.hot s

/-- The status word that a tick of the loop writes, from the rail and the pace of its step. -/
def pwrWord (s : State) (p1ms : Nat) (tj : List Int) (w : Nat × Nat) : Nat :=
  b2n (decide (w.1 = 600)) + b2n (decide (p1ms > regF s (aPwr + 0x08) 15 0)) * 2 + b2n (decide (tjMax tj > 1648)) * 4
    + b2n ((List.range 4).any (fun i => decide (tjOf tj i < 720))) * 8 + w.2 * 2 ^ 20 + wrapInt 8 (tjMax tj / 16) * 2 ^ 24 + w.1 * 2 ^ 32

/-- The step of the loop that a tick takes. -/
def tickStep (s : State) (p10 p1ms : Nat) (tj : List Int) : Nat × Nat :=
  powerStep (regF s aPwrCap 15 0) p10 p1ms (tjMax tj) ((List.range 4).any (fun i => decide (tjOf tj i < 720)))
    (decide (s.pwr.paceAt + 100000 ≤ now s)) (regF s aPwr 47 32) (regF s aPwr 23 20)

/-- The power registers that a tick writes. -/
def ticked (s : State) (p10 p1ms mw : Nat) (tj : List Int) (volts rate : Nat) : State :=
  setReg (setReg (setReg (setReg s aPwr (BitVec.ofNat 64 (pwrWord s p1ms tj (tickStep s p10 p1ms tj))))
    aPwrInput (BitVec.ofNat 64 (mw % 2 ^ 32 + volts % 2 ^ 16 * 2 ^ 32))) aPwrRate (BitVec.ofNat 64 rate))
    aPwrTemp (BitVec.ofNat 64 ((List.range 4).foldl (fun n i => n + wrapInt 16 (tjOf tj i) * 2 ^ (16 * i)) 0))

theorem powerTick_up {s : State} (hup : s.pwr.rails = .up) (p10 p1ms mw : Nat) (tj : List Int) (volts rate : Nat) :
    powerTick s p10 p1ms mw tj volts rate =
      thermHigh (paceNote (ticked s p10 p1ms mw tj volts rate) (regF s aPwr 23 20) (tickStep s p10 p1ms tj).2 p1ms) tj :=
  if_neg (by simp [hup])

theorem bitsOf_lt (v hi lo : Nat) : bitsOf v hi lo < 2 ^ (hi + 1 - lo) := Nat.mod_lt _ (Nat.two_pow_pos _)

/-- The fields of the status word. -/
theorem pwrWord_fields (s : State) (p10 p1ms : Nat) (tj : List Int) :
    bitsOf (BitVec.ofNat 64 (pwrWord s p1ms tj (tickStep s p10 p1ms tj))).toNat 47 32 = (tickStep s p10 p1ms tj).1 ∧
      bitsOf (BitVec.ofNat 64 (pwrWord s p1ms tj (tickStep s p10 p1ms tj))).toNat 23 20 = (tickStep s p10 p1ms tj).2 := by
  have hbit (b : Bool) : b2n b ≤ 1 := by cases b <;> decide
  have hpace : regF s aPwr 23 20 ≤ 15 := Nat.lt_succ_iff.1 (bitsOf_lt _ 23 20)
  obtain ⟨hrail, hstep⟩ := powerStep_bounds (regF s aPwrCap 15 0) p10 p1ms (tjMax tj) ((List.range 4).any (fun i => decide (tjOf tj i < 720)))
    (decide (s.pwr.paceAt + 100000 ≤ now s)) (regF s aPwr 47 32) hpace
  refine pwrStatus_fields ?_ hstep (wrapInt_lt 8 _) hrail
  have h1 := hbit (decide ((tickStep s p10 p1ms tj).1 = 600))
  have h2 := hbit (decide (p1ms > regF s (aPwr + 0x08) 15 0))
  have h3 := hbit (decide (tjMax tj > 1648))
  have h4 := hbit ((List.range 4).any (fun i => decide (tjOf tj i < 720)))
  omega

/-- The registers after a tick. -/
theorem powerTick_reg {s : State} (hup : s.pwr.rails = .up) (hwf : regsWf s = true) (p10 p1ms mw : Nat) (tj : List Int) (volts rate : Nat) :
    reg (powerTick s p10 p1ms mw tj volts rate) aPwr = BitVec.ofNat 64 (pwrWord s p1ms tj (tickStep s p10 p1ms tj)) ∧
      reg (powerTick s p10 p1ms mw tj volts rate) aPwrInput = BitVec.ofNat 64 (mw % 2 ^ 32 + volts % 2 ^ 16 * 2 ^ 32) := by
  rw [powerTick_up hup]
  constructor
  · rw [thermHigh_reg _ _ (by decide), paceNote_reg _ _ _ _ (by decide), ticked, reg_setReg_ne _ _ (by decide), reg_setReg_ne _ _ (by decide),
      reg_setReg_ne _ _ (by decide), reg_setReg_same hwf]
  · rw [thermHigh_reg _ _ (by decide), paceNote_reg _ _ _ _ (by decide), ticked, reg_setReg_ne _ _ (by decide), reg_setReg_ne _ _ (by decide),
      reg_setReg_same (regsWf_setReg hwf _ _)]

/-! ### Device faults of temperature and rail (R592, R593) -/

/-- After a device fault the module has left its job. -/
theorem deviceFatal_left (s : State) (src code : Word16) (p : Nat) : (deviceFatal s src code p).job.left = true := by
  simp only [deviceFatal, draw, hostVector_job, readyDrop_job]
  obtain ⟨r, hr⟩ := noticeSend_job _ _ _ _
  rw [hr]
  simp

/-- Settles O45. A tick's registers are its own writes, since what it records touches LDG_LOST alone; the rest is what the failure, the trip and the
rail fault set. -/
theorem powerResults : Obligations.PowerResults := by
  refine ⟨fun s mv hrails => ⟨fun hup => ⟨_, rfl, powerFail_gates hrails hup mv.toNat⟩, fun hup => ?_⟩,
    fun s p10 p1ms mw tj volts rate hup hwf => ?_, fun s uj hrails hwf => ?_, fun s field degrees hup htrip hhot => ?_, fun s htrip hup => ?_,
    fun s hup => ?_⟩
  · exact ⟨_, congrArg Host.Outcome.next (powerFail_gone hrails hup mv.toNat), rfl, rfl, rfl, rfl⟩
  · obtain ⟨hstatus, hinput⟩ := powerTick_reg hup hwf p10 p1ms mw tj volts rate
    obtain ⟨hrail, hpace⟩ := pwrWord_fields s p10 p1ms tj
    refine ⟨_, rfl, (congrArg (fun v : Word64 => bitsOf v.toNat 47 32) hstatus).trans hrail,
      (congrArg (fun v : Word64 => bitsOf v.toNat 23 20) hstatus).trans hpace, ?_, hinput⟩
    rw [powerTick_up hup]
    rfl
  · exact ⟨_, congrArg Host.Outcome.next (if_pos hrails), reg_setReg_same hwf _ _, rfl, rfl⟩
  · have hgo : ¬ (s.pwr.rails ≠ .up ∨ s.pwr.trip = true ∨ degrees ≤ 115) := by simp [hup, htrip, hhot]
    exact ⟨_, congrArg Host.Outcome.next (if_neg hgo), rfl, deviceFatal_device .., deviceFatal_left ..⟩
  · exact ⟨_, congrArg Host.Outcome.next (if_pos ⟨htrip, hup⟩), rfl, rfl, rfl, rfl⟩
  · exact ⟨_, congrArg Host.Outcome.next (if_pos hup), deviceFatal_device .., deviceFatal_left .., congrArg Kept.pwr (deviceFatal_kept ..)⟩

end Sys2Proof.Machine
end

section
/-! PROOFS. O38, O44 and O51, the rules: a life-cycle command that is accepted on a module without a job begins its full wipe at once. -/

namespace Sys2Proof.Machine

/-! ### A wipe that begins (R524 to R526) -/

theorem wipeClear_frame (s : State) (scope : Nat) : (wipeClear s scope).sec = s.sec ∧ (wipeClear s scope).nor = s.nor := by
  unfold wipeClear
  split <;> exact ⟨rfl, rfl⟩

/-- A wipe changes of the security state its own entry only. -/
theorem wipeStart_sec (s : State) (scope : Nat) (why : WipeWhy) : ∃ w, (wipeStart s scope why).sec = { s.sec with wipe := some w } := by
  obtain ⟨r, hr⟩ := foldl_setRegF_eq aCxl 27 27 0 (wipePorts s scope) (wipeClear s scope)
  simp only [wipeStart, hr, (wipeClear_frame s scope).1]
  exact ⟨_, rfl⟩

theorem wipeStart_nor (s : State) (scope : Nat) (why : WipeWhy) : (wipeStart s scope why).nor = s.nor := by
  obtain ⟨r, c, h⟩ := wipeStart_eq s scope why
  rw [h]
  exact (wipeClear_frame s scope).2

/-- A wipe where none is under way has its own scope and its own trigger. -/
theorem wipeStart_first {s : State} (h : s.sec.wipe = none) (scope : Nat) (why : WipeWhy) :
    ∃ w, (wipeStart s scope why).sec = { s.sec with wipe := some w } ∧ w.scope = scope ∧ w.why = [why] := by
  obtain ⟨r, hr⟩ := foldl_setRegF_eq aCxl 27 27 0 (wipePorts s scope) (wipeClear s scope)
  simp only [wipeStart, hr, h, (wipeClear_frame s scope).1]
  exact ⟨_, rfl, rfl, rfl⟩

/-- A full wipe leaves no core state and no poison. -/
theorem wipeStart_full (s : State) (why : WipeWhy) : (wipeStart s 3 why).cores = [] ∧ (wipeStart s 3 why).mem.poison = [] := by
  obtain ⟨r, c, h⟩ := wipeStart_eq s 3 why
  rw [h]
  simp [wipeClear, wipeDie, wipeMem, mllDrop, draw]

theorem regsWf_wipeDie {s : State} (h : regsWf s = true) : regsWf (wipeDie s) = true :=
  smWf_smSet 0 _ _ _ (smWf_smSet 0 _ _ _ (smWf_filter 0 _ _ h))

theorem regsWf_wipeClear {s : State} (h : regsWf s = true) (scope : Nat) : regsWf (wipeClear s scope) = true := by
  unfold wipeClear
  split
  · exact regsWf_wipeDie h
  · exact regsWf_setRegF (regsWf_wipeDie (s := wipeMem s scope) h) aVecMll 16 16 0

theorem regsWf_foldl_setRegF {f : Nat → Nat} (hi lo x : Nat) (l : List Nat) :
    ∀ {s : State}, regsWf s = true → regsWf (l.foldl (fun s k => setRegF s (f k) hi lo x) s) = true := by
  induction l with
  | nil => exact id
  | cons k l ih => exact fun h => ih (regsWf_setRegF h (f k) hi lo x)

theorem regsWf_wipeStart {s : State} (h : regsWf s = true) (scope : Nat) (why : WipeWhy) : regsWf (wipeStart s scope why) = true :=
  regsWf_setRegF (s := setRegF (setRegF _ aSecWipe 1 0 1) aSecWipe 3 2 _)
    (regsWf_setRegF (s := setRegF _ aSecWipe 1 0 1)
      (regsWf_setRegF (s := { (wipePorts s scope).foldl (fun s k => setRegF s (aCxl k) 27 27 0) (wipeClear s scope) with sec := _ })
        (regsWf_foldl_setRegF (f := aCxl) 27 27 0 (wipePorts s scope) (regsWf_wipeClear h scope)) aSecWipe 1 0 1) aSecWipe 3 2 _) aSecWipe 8 5 _

/-! ### A transition that begins (R508 to R510) -/

/-- The flash after a command: a registration puts its key there (R516). -/
def moveFlash (s : State) (m : LcMove) : Memory := match m with | .register k => memWrites s.nor 0x40000 (slice k 0 1793) | _ => s.nor

/-- The module as an accepted command leaves it before its wipe. -/
def moveTaken (s : State) (m : LcMove) : State := { s with nor := moveFlash s m, sec := { s.sec with move := some m } }

theorem moveJob_unloaded {s : State} (h : jobLoaded s = false) : moveJob s = s := if_pos (by simp [h])

theorem moveStart_unloaded {s : State} (h : jobLoaded s = false) (m : LcMove) : moveStart s m = moveGo (moveTaken s m) := by
  have hjob : jobLoaded (moveTaken s m) = false := h
  have hgo := congrArg moveGo (moveJob_unloaded hjob)
  cases m <;> exact hgo

/-- With no job and no wipe the transition's wipe begins. -/
theorem moveGo_wipes {s : State} {m : LcMove} (hmove : s.sec.move = some m) (hprov : s.sec.provisioning = false) (hseq : s.seq.st = .idle)
    (hjob : jobLoaded s = false) (hwipe : s.sec.wipe = none) : moveGo s = wipeStart s 3 .move := by
  unfold moveGo
  rw [if_neg (by simp [hmove, hprov, hseq, hwipe]), if_neg (by simp [hjob])]

/-- With no job a transition that goes on changes of the security state at most the wipe. -/
theorem moveGo_sec {s : State} (hjob : jobLoaded s = false) : ∃ w, (moveGo s).sec = { s.sec with wipe := w } := by
  have hcases : moveGo s = s ∨ moveGo s = wipeStart (if jobLoaded s then jobEnd s else s) 3 .move := ite_eq_or_eq _ _ _
  rw [if_neg (by simp [hjob])] at hcases
  rcases hcases with h | h
  · exact ⟨s.sec.wipe, congrArg State.sec h⟩
  · obtain ⟨w, hw⟩ := wipeStart_sec s 3 .move
    exact ⟨some w, (congrArg State.sec h).trans hw⟩

/-- An accepted command on a module without a job, a sequencer that runs and a wipe. -/
theorem moveStart_wipes {s : State} (m : LcMove) (hprov : s.sec.provisioning = false) (hseq : s.seq.st = .idle) (hjob : jobLoaded s = false)
    (hwipe : s.sec.wipe = none) : moveStart s m = wipeStart (moveTaken s m) 3 .move :=
  (moveStart_unloaded hjob m).trans (moveGo_wipes rfl hprov hseq hjob hwipe)

/-- What such a command leaves. -/
theorem moveStart_leaves {s : State} (m : LcMove) (hprov : s.sec.provisioning = false) (hseq : s.seq.st = .idle) (hjob : jobLoaded s = false)
    (hwipe : s.sec.wipe = none) :
    (∃ w, (moveStart s m).sec = { s.sec with move := some m, wipe := some w } ∧ w.scope = 3 ∧ w.why = [.move]) ∧ (moveStart s m).cores = [] ∧
      (moveStart s m).mem.poison = [] ∧ (moveStart s m).nor = moveFlash s m := by
  rw [moveStart_wipes m hprov hseq hjob hwipe]
  obtain ⟨hcores, hpoison⟩ := wipeStart_full (moveTaken s m) .move
  exact ⟨wipeStart_first (s := moveTaken s m) hwipe 3 .move, hcores, hpoison, wipeStart_nor (moveTaken s m) 3 .move⟩

/-- A new nonce for the next command. -/
theorem secNonce_frame (s : State) :
    (∃ n n', (secNonce s).sec = { s.sec with nonce0 := n, nonce1 := n' }) ∧ (secNonce s).cores = s.cores ∧ (secNonce s).mem = s.mem ∧
      (secNonce s).nor = s.nor ∧ (secNonce s).regs = s.regs := ⟨⟨_, _, rfl⟩, rfl, rfl, rfl, rfl⟩

end Sys2Proof.Machine
end

section
/-! PROOFS. O51: the mailbox. Its answer stands in DBG_MRES, whose write of 0 reads back in registers of canonical form. -/

namespace Sys2Proof.Machine

/-! ### Registers stay in canonical form as the Ledger records -/

theorem regsWf_bump {s : State} (h : regsWf s = true) (a n : Nat) : regsWf (bump s a n) = true := by
  unfold bump
  split
  · exact h
  · exact regsWf_setReg h a _

theorem HostSame.regsWf {s t : State} (h : HostSame s t) (hs : regsWf s = true) : regsWf t = true := by
  obtain ⟨_, _, _, rfl⟩ := h
  exact hs

theorem regsWf_ldgPost {s : State} (h : regsWf s = true) (l : Ledger) (rs : List Rec) : regsWf (ldgPost s l rs) = true := by
  have hput : regsWf (bump { s with ldg := l } aLdgLost (l.lostSum - s.ldg.lostSum)) = true := regsWf_bump (s := { s with ldg := l }) h _ _
  have hposted := (hostEvents_hostSame rs _).regsWf hput
  simp only [ldgPost]
  split
  · refine (hostEvents_hostSame _ _).regsWf (regsWf_bump ?_ _ _)
    exact hposted
  · exact hposted

theorem regsWf_ldgDo {s : State} (h : regsWf s = true) (f : Ledger → Word64 → Ledger × List Rec) : regsWf (ldgDo s f) = true :=
  regsWf_ldgPost h _ _

/-! ### A clear command (R500 to R502) -/

/-- The Ledger of a module that takes a clear: the unit closes its record and remembers the command. -/
def clearTaken (s : State) (d : List Byte) : State :=
  { ldgNonce s with ldg := { ldgClose (ldgNonce s).ldg with
      st := .clearing, clearing := some (BitVec.ofNat 32 (fieldAt d 4 4), BitVec.ofNat 16 (fieldAt d 8 2), slice d 0 64) } }

theorem clearTry_takes {s : State} {d : List Byte} {sigOk : Bool} (h : clearWhy s d sigOk = none) :
    clearTry s d sigOk = (if (clearTaken s d).ldg.flushing then { clearTaken s d with ldg := { (clearTaken s d).ldg with flushAgain := true } }
      else ldgDo (clearTaken s d) clearFlush, none) := by
  unfold clearTry
  rw [h]
  rfl

/-- A clear that is taken leaves the unit clearing. -/
theorem clearTry_clears {s : State} {d : List Byte} {sigOk : Bool} (h : clearWhy s d sigOk = none) :
    (clearTry s d sigOk).2 = none ∧ (clearTry s d sigOk).1.ldg.st = .clearing ∧ (regsWf s = true → regsWf (clearTry s d sigOk).1 = true) := by
  rw [clearTry_takes h]
  refine ⟨rfl, ?_, fun hwf => ?_⟩
  · dsimp only
    split
    · rfl
    · obtain ⟨stamp, hdo⟩ := unheld_ldgDo (clearTaken s d) clearFlush
      exact (st_of_unheld hdo).1
  · dsimp only
    split
    · exact hwf
    · exact regsWf_ldgDo (s := clearTaken s d) hwf _

/-- A clear that is refused is recorded, and takes a new nonce. -/
theorem clearTry_refuses {s : State} {d : List Byte} {sigOk : Bool} {r : Nat} (h : clearWhy s d sigOk = some r) :
    clearTry s d sigOk = (ldgNonce (record s kRefusal srcLedger cLdgClearRefused r), some r) := by
  unfold clearTry
  rw [h]

/-! ### The answer of the mailbox (R616, R617) -/

theorem reg_mres {s : State} {status : Nat} {code : Word16} (h : regsWf s = true ∨ BitVec.ofNat 64 (status * 2 ^ 8 + code.toNat * 2 ^ 48) ≠ 0) :
    reg (mres s status code) aDbgMres = BitVec.ofNat 64 (status * 2 ^ 8 + code.toNat * 2 ^ 48) := by
  rcases h with hwf | hne
  · exact reg_setReg_same hwf _ _
  · exact smGet_smSet_val _ _ _ _ hne

/-- The answer of the port set. -/
def State.withDap (s : State) (dap : BitVec 112) : State := { s with dbg := { s.dbg with dap := dap } }

@[simp] theorem withDap_reg (s : State) (dap : BitVec 112) (a : Nat) : reg (s.withDap dap) a = reg s a := rfl
@[simp] theorem withDap_sec (s : State) (dap : BitVec 112) : (s.withDap dap).sec = s.sec := rfl
@[simp] theorem withDap_nor (s : State) (dap : BitVec 112) : (s.withDap dap).nor = s.nor := rfl
@[simp] theorem withDap_cores (s : State) (dap : BitVec 112) : (s.withDap dap).cores = s.cores := rfl
@[simp] theorem withDap_ldg (s : State) (dap : BitVec 112) : (s.withDap dap).ldg = s.ldg := rfl
@[simp] theorem withDap_mem (s : State) (dap : BitVec 112) : (s.withDap dap).mem = s.mem := rfl

@[simp] theorem mres_sec (s : State) (status : Nat) (code : Word16) : (mres s status code).sec = s.sec := rfl
@[simp] theorem mres_nor (s : State) (status : Nat) (code : Word16) : (mres s status code).nor = s.nor := rfl

/-- A mailbox command of a session runs, on a locked port too (R606); besides, the port's answer is set. -/
theorem mbox_runs {s : State} (hup : s.pwr.rails = .up) (hs : s.dbg.session = true) (f : State → State) :
    ∃ dap, dapActs s aDbgMcmd f = (f s).withDap dap :=
  ⟨_, dapTry_permits hup hs (.inr ((lockedOk_write_iff _).2 (.inr (.inl rfl)))) (by decide) _⟩

/-- The three answers that the mailbox gives. -/
theorem reg_mres_ok {s : State} (h : regsWf s = true) : reg (mres s 0 0) aDbgMres = 0 := reg_mres (.inl h)
theorem reg_mres_forbidden (s : State) : reg (mres s 1 0) aDbgMres = 0x100 := reg_mres (.inr (by decide))
theorem reg_mres_refused (s : State) {code : Word16} (h : code = 0xA005 ∨ code = 0x9006) :
    reg (mres s 3 code) aDbgMres = BitVec.ofNat 64 (3 * 2 ^ 8 + code.toNat * 2 ^ 48) :=
  reg_mres (.inr (by rcases h with rfl | rfl <;> decide))

/-! ### The commands -/

/-- A security command that is accepted, in the mailbox or a host queue. -/
theorem secTry_accepts {s : State} {d : List Byte} {sigOk : Bool} {m : LcMove} (h : cmdJudge s d sigOk = .ok m) :
    secTry s d sigOk = (secNonce (moveStart s m), none) := by
  unfold secTry
  rw [h]

/-- A security command that is refused. -/
theorem secTry_refuses {s : State} {d : List Byte} {sigOk : Bool} {r : Nat} (h : cmdJudge s d sigOk = .error r) :
    secTry s d sigOk = (secNonce (secRefuse s (fieldAt d 0 2) r), some r) := by
  unfold secTry
  rw [h]

theorem mboxSec_accepts {s : State} {len : Nat} {sigOk : Bool} {m : LcMove} (hlen : len = 1378 ∨ len = 3171)
    (h : cmdJudge s (mboxBytes s len) sigOk = .ok m) : mboxSec s len sigOk = mres (secNonce (moveStart s m)) 0 0 := by
  unfold mboxSec
  rw [if_neg (by omega), secTry_accepts h]

theorem mboxSec_refuses {s : State} {len : Nat} {sigOk : Bool} {r : Nat} (hlen : len = 1378 ∨ len = 3171)
    (h : cmdJudge s (mboxBytes s len) sigOk = .error r) :
    mboxSec s len sigOk = mres (secNonce (secRefuse s (fieldAt (mboxBytes s len) 0 2) r)) 3 cSecCmdRefused := by
  unfold mboxSec
  rw [if_neg (by omega), secTry_refuses h]

theorem regsWf_moveStart {s : State} (h : regsWf s = true) (m : LcMove) (hprov : s.sec.provisioning = false) (hseq : s.seq.st = .idle)
    (hjob : jobLoaded s = false) (hwipe : s.sec.wipe = none) : regsWf (moveStart s m) = true := by
  rw [moveStart_wipes m hprov hseq hjob hwipe]
  exact regsWf_wipeStart (s := moveTaken s m) h 3 .move

/-- A security command of the mailbox that is accepted. -/
theorem mboxSec_moves {s : State} {len : Nat} {sigOk : Bool} {m : LcMove} (hwf : regsWf s = true) (hlen : len = 1378 ∨ len = 3171)
    (h : cmdJudge s (mboxBytes s len) sigOk = .ok m) (hprov : s.sec.provisioning = false) (hseq : s.seq.st = .idle)
    (hjob : jobLoaded s = false) (hwipe : s.sec.wipe = none) :
    reg (mboxSec s len sigOk) aDbgMres = 0 ∧ (mboxSec s len sigOk).sec.move = some m ∧ (mboxSec s len sigOk).sec.fuses = s.sec.fuses ∧
      ∃ w, (mboxSec s len sigOk).sec.wipe = some w ∧ w.scope = 3 := by
  obtain ⟨⟨w, hsec, hscope, -⟩, -⟩ := moveStart_leaves m hprov hseq hjob hwipe
  obtain ⟨⟨n, n', hnonce⟩, -⟩ := secNonce_frame (moveStart s m)
  have hdone : (mboxSec s len sigOk).sec = (secNonce (moveStart s m)).sec := by rw [mboxSec_accepts hlen h]; rfl
  rw [hdone, hnonce, hsec, mboxSec_accepts hlen h]
  exact ⟨reg_mres_ok (s := secNonce (moveStart s m)) (regsWf_moveStart hwf m hprov hseq hjob hwipe), rfl, rfl, w, rfl, hscope⟩

/-- A security command of the mailbox that is refused. -/
theorem mboxSec_stays {s : State} {len : Nat} {sigOk : Bool} {r : Nat} (hlen : len = 1378 ∨ len = 3171)
    (h : cmdJudge s (mboxBytes s len) sigOk = .error r) :
    reg (mboxSec s len sigOk) aDbgMres = BitVec.ofNat 64 (3 * 2 ^ 8 + 0xA005 * 2 ^ 48) ∧ (mboxSec s len sigOk).sec.move = s.sec.move ∧
      (mboxSec s len sigOk).sec.fuses = s.sec.fuses ∧ (mboxSec s len sigOk).nor = s.nor ∧ (mboxSec s len sigOk).cores = s.cores := by
  rw [mboxSec_refuses hlen h]
  refine ⟨reg_mres_refused _ (.inl rfl), ?_, ?_, ?_, ?_⟩ <;> simp [mres, setReg, secNonce, secRefuse, draw]

theorem mboxClear_accepts {s : State} {len : Nat} {sigOk : Bool} (hup : s.ldg.up = true) (hlen : len = 1410)
    (h : clearWhy s (memReads s.dbg.mbox 0 1410) sigOk = none) :
    mboxClear s len sigOk = mres (clearTry s (memReads s.dbg.mbox 0 1410) sigOk).1 0 0 := by
  subst hlen
  unfold mboxClear mboxBytes
  rw [if_neg (by simp [hup]), if_neg (by decide), clearTry_takes h]

theorem mboxClear_refuses {s : State} {len : Nat} {sigOk : Bool} {r : Nat} (hup : s.ldg.up = true) (hlen : len = 1410)
    (h : clearWhy s (memReads s.dbg.mbox 0 1410) sigOk = some r) :
    mboxClear s len sigOk = mres (ldgNonce (record s kRefusal srcLedger cLdgClearRefused r)) 3 cLdgClearRefused := by
  subst hlen
  unfold mboxClear mboxBytes
  rw [if_neg (by simp [hup]), if_neg (by decide), clearTry_refuses h]

/-- PROVISION in BLANK makes the key and waits for its certificate (R518). -/
theorem mboxProv_blank {s : State} (hst : lcState s = .blank) (hmove : s.sec.move = none) : mboxProv s = mres (provisionStart s) 0 0 :=
  if_pos ⟨hst, .inl (by simp [hmove])⟩

theorem mboxProv_other {s : State} (hst : lcState s ≠ .blank) : mboxProv s = mres s 1 0 := if_neg fun h => hst h.1

/-- The module as CERT_WRITE leaves it before the transition's wipe. -/
def certified (s : State) : State :=
  { s with nor := memWrites s.nor 0x20000 (memReads s.dbg.mbox 0 3115), sec := { s.sec with provisioning := false } }

/-- CERT_WRITE ends the provisioning, and its transition's wipe begins. -/
theorem mboxCert_wipes {s : State} (hst : lcState s = .blank) (hprov : s.sec.provisioning = true) (hmove : s.sec.move = some .provision)
    (hseq : s.seq.st = .idle) (hjob : jobLoaded s = false) (hwipe : s.sec.wipe = none) :
    mboxCert s 3115 = mres (wipeStart (certified s) 3 .move) 0 0 := by
  unfold mboxCert
  rw [if_neg (by simp [hst, hprov]), if_neg (by decide)]
  exact congrArg (mres · 0 0) (moveGo_wipes (s := certified s) hmove rfl hseq hjob hwipe)

/-- The flash regions are written from the mailbox on an open port. -/
theorem mboxFlash_writes {s : State} {region off len b k : Nat} (hregion : norRegion region = some (b, k)) (hrec : s.sec.recovery = false)
    (hlen : 0 < len) (hmax : len ≤ 4096) (hfit : off * 4096 + len ≤ k) (hopen : dbgOpen s = true) :
    mboxFlash s region off len = mres { s with nor := memWrites s.nor (b + off * 4096) (mboxBytes s len) } 0 0 := by
  unfold mboxFlash
  simp only [hrec, hopen, hregion]
  simp only [Bool.false_eq_true, if_false, Bool.not_true]
  exact if_neg (by omega)

theorem mboxFlash_locked {s : State} {region off len : Nat} (hrec : s.sec.recovery = false) (hopen : dbgOpen s = false) :
    mboxFlash s region off len = mres s 1 0 := by
  unfold mboxFlash
  simp [hrec, hopen]

/-- Settles O51. Each command's own lemma says what it leaves; DBG_MRES reads the answer's value, or 0 in registers of canonical form. -/
theorem mailboxResults : Obligations.MailboxResults := by
  intro s hup hs hwf
  refine ⟨fun len sigOk hlen => ⟨fun m hok hjob hseq hdev hwipe hprov => ?_, fun r herr => ?_⟩,
    fun len sigOk hlen hldg => ⟨fun hwhy => ?_, fun r hwhy => ?_⟩,
    fun region off len b k hregion hrec hlen hmax hfit => ⟨fun hopen => ?_, fun hopen => ?_⟩, fun hst hmove => ?_, fun hst => ?_,
    fun len hlen hst hprov hmove hdev hseq hjob hwipe => ?_⟩
  · obtain ⟨dap, hgo⟩ := mbox_runs hup hs (fun t => mboxSec t len.toNat sigOk)
    obtain ⟨hmres, hmove, hfuses, w, hw, hscope⟩ := mboxSec_moves hwf hlen hok hprov hseq hjob hwipe
    refine ⟨_, w, congrArg Host.Outcome.next hgo, ?_⟩
    rw [withDap_reg, withDap_sec]
    exact ⟨hmres, hmove, hw, hscope, hfuses⟩
  · obtain ⟨dap, hgo⟩ := mbox_runs hup hs (fun t => mboxSec t len.toNat sigOk)
    refine ⟨_, congrArg Host.Outcome.next hgo, ?_⟩
    rw [withDap_reg, withDap_sec, withDap_nor, withDap_cores]
    exact mboxSec_stays hlen herr
  · obtain ⟨dap, hgo⟩ := mbox_runs hup hs (fun t => mboxClear t len.toNat sigOk)
    obtain ⟨-, hst, hregs⟩ := clearTry_clears hwhy
    have hmres := reg_mres_ok (hregs hwf)
    refine ⟨_, congrArg Host.Outcome.next hgo, ?_⟩
    rw [withDap_reg, withDap_ldg, mboxClear_accepts hldg hlen hwhy]
    exact ⟨hmres, hst⟩
  · obtain ⟨dap, hgo⟩ := mbox_runs hup hs (fun t => mboxClear t len.toNat sigOk)
    refine ⟨_, congrArg Host.Outcome.next hgo, ?_⟩
    rw [withDap_reg, withDap_cores, mboxClear_refuses hldg hlen hwhy]
    exact ⟨reg_mres_refused _ (.inr rfl), record_cores ..⟩
  · obtain ⟨dap, hgo⟩ := mbox_runs hup hs (fun t => mboxFlash t region.toNat off.toNat len.toNat)
    refine ⟨_, congrArg Host.Outcome.next hgo, ?_⟩
    rw [withDap_reg, withDap_nor, withDap_mem, withDap_sec, mboxFlash_writes hregion hrec hlen hmax hfit hopen]
    exact ⟨reg_mres_ok (s := { s with nor := _ }) hwf, rfl, rfl, rfl⟩
  · obtain ⟨dap, hgo⟩ := mbox_runs hup hs (fun t => mboxFlash t region.toNat off.toNat len.toNat)
    refine ⟨_, congrArg Host.Outcome.next hgo, ?_⟩
    rw [withDap_reg, withDap_nor, mboxFlash_locked hrec hopen]
    exact ⟨reg_mres_forbidden s, rfl⟩
  · obtain ⟨dap, hgo⟩ := mbox_runs hup hs mboxProv
    refine ⟨_, congrArg Host.Outcome.next hgo, ?_⟩
    rw [withDap_reg, withDap_sec, withDap_cores, mboxProv_blank hst hmove]
    exact ⟨reg_mres_ok (s := provisionStart s) hwf, rfl, rfl, rfl, rfl⟩
  · obtain ⟨dap, hgo⟩ := mbox_runs hup hs mboxProv
    refine ⟨_, congrArg Host.Outcome.next hgo, ?_⟩
    rw [withDap_reg, withDap_sec, withDap_nor, mboxProv_other hst]
    exact ⟨reg_mres_forbidden s, rfl, rfl⟩
  · obtain ⟨dap, hgo⟩ := mbox_runs hup hs (fun t => mboxCert t len.toNat)
    obtain ⟨w, hsec, hscope, -⟩ := wipeStart_first (s := certified s) hwipe 3 .move
    have hprov' : (wipeStart (certified s) 3 .move).sec.provisioning = false := by rw [hsec]; rfl
    have hw : (wipeStart (certified s) 3 .move).sec.wipe = some w := by rw [hsec]
    refine ⟨_, w, congrArg Host.Outcome.next hgo, ?_⟩
    rw [withDap_reg, withDap_sec, withDap_nor, (congrArg (mboxCert s) hlen).trans (mboxCert_wipes hst hprov hmove hseq hjob hwipe), mres_sec, mres_nor]
    exact ⟨reg_mres_ok (regsWf_wipeStart (s := certified s) hwf 3 .move), hprov', hw, hscope, wipeStart_nor (certified s) 3 .move⟩

end Sys2Proof.Machine
end

section
/-! PROOFS. O41: the start-up time that is 0 µs, over registers that are not in canonical form. -/

namespace Sys2Proof.Machine

/-- A start-up without link, port or table, that takes 0 µs. -/
def startOfNoTime : BootOutcome := ⟨true, true, true, true, true, true, none, none, [], [], [], false, false, 0, 0, 0, 0⟩

/-- A module at order 8, whose BOOT_TIME stands twice in the map of registers. No step makes such a map, but the statement admits every state. -/
def doubledTime : State :=
  { State.reset with
    regs := [(0x3F0000E00010, 1), (0x3F0000E00010, 1)]
    cfg := [0]
    sec := { State.reset.sec with boot := some startOfNoTime } }

/-- Its configuration enables no link. -/
theorem doubledTime_links : (List.range 36).all (fun k => !(cfgLink doubledTime.cfg k).1) = true := by decide +kernel

/-- A write of 0 takes the first entry away, and the second one shows. -/
theorem doubledTime_shows : reg (bootOn (feedCheck doubledTime)) 0x3F0000E00010 = 1 := by decide +kernel

/-- Refutes O41: the clause on FEED_TAG_CHECK reads BOOT_TIME back, and does not ask that the registers be in canonical form (`doubledTime`). -/
theorem not_startUpResults : ¬ Obligations.StartUpResults := by
  rintro ⟨-, -, -, -, -, hfeed, -⟩
  have hlinks (k : Nat) (hk : k < 36) (h : (cfgLink doubledTime.cfg k).1 = true) :
      (getLink doubledTime k).st = .up ∨ (getLink doubledTime k).st = .failed := by
    have hoff := List.all_eq_true.1 doubledTime_links k (List.mem_range.2 hk)
    simp [h] at hoff
  obtain ⟨t, hstep, -, -, -, htime⟩ := hfeed doubledTime startOfNoTime rfl rfl rfl rfl rfl hlinks
  have ht : t = bootOn (feedCheck doubledTime) := (Host.Outcome.next.inj hstep).symm
  have hzero : (1 : Word64) = 0 := by
    rw [← doubledTime_shows, ← ht, htime]
    rfl
  exact absurd hzero (by decide)

end Sys2Proof.Machine
end

section
/-! PROOFS. O42: the registers of the host queues and the PCIe link. Records and completions go through the queues but leave the link's rate and width,
and a queue that is in error stays so. -/

namespace Sys2Proof.Machine

/-! ### What completions and records leave of the host port -/

/-- The link is as it was, and no queue has lost its error. -/
def PortKept (s t : State) : Prop :=
  t.host.rate = s.host.rate ∧ t.host.width = s.host.width ∧ ∀ n, (getQ s n).err = true → (getQ t n).err = true

theorem PortKept.refl (s : State) : PortKept s s := ⟨rfl, rfl, fun _ => id⟩

theorem PortKept.trans {s t u : State} (h1 : PortKept s t) (h2 : PortKept t u) : PortKept s u := by
  obtain ⟨hrate, hwidth, herr⟩ := h1
  obtain ⟨hrate', hwidth', herr'⟩ := h2
  exact ⟨hrate'.trans hrate, hwidth'.trans hwidth, fun n h => herr' n (herr n h)⟩

theorem portKept_hostVector (s : State) (v : Nat) : PortKept s (hostVector s v) := by
  unfold hostVector
  split
  · exact .refl s
  · exact ⟨rfl, rfl, fun _ => id⟩

/-- A queue written with its error as it was. -/
theorem portKept_setQ (s : State) (n : Nat) {q : HostQ} (h : (getQ s n).err = true → q.err = true) : PortKept s (setQ s n q) := by
  refine ⟨rfl, rfl, fun m hm => ?_⟩
  by_cases hmn : m = n
  · subst hmn
    have hget : getQ (setQ s m q) m = smGet HostQ.init (smSet HostQ.init s.host.q m q) m := rfl
    have hq : q ≠ HostQ.init := fun e => by simpa [HostQ.init] using (congrArg HostQ.err e).symm.trans (h hm)
    rw [hget, smGet_smSet_val _ _ _ _ hq]
    exact h hm
  · have hget : getQ (setQ s n q) m = getQ s m := smGet_smSet_ne _ _ _ _ _ hmn
    rwa [hget]

theorem portKept_hostPut (s : State) (n cid : Nat) (more : Bool) (st r0 r1 : Nat) : PortKept s (hostPut s n cid more st r0 r1) :=
  (portKept_setQ s n (q := { getQ s n with
      cqTail := ((getQ s n).cqTail + 1) % hostCqSize s n
      phase0 := if ((getQ s n).cqTail + 1) % hostCqSize s n = 0 then !(getQ s n).phase0 else (getQ s n).phase0 }) id).trans
    (PortKept.trans ⟨rfl, rfl, fun _ => id⟩ (portKept_hostVector _ n))

theorem portKept_hostPost (s : State) (n cid : Nat) (more : Bool) (st r0 r1 : Nat) : PortKept s (hostPost s n cid more st r0 r1) := by
  unfold hostPost
  split
  · exact .refl s
  · split
    · exact portKept_hostPut ..
    · exact ⟨rfl, rfl, fun _ => id⟩

theorem portKept_hostEvent (s : State) (r : Rec) : PortKept s (hostEvent s r).1 := by
  unfold hostEvent
  split
  · split
    · exact portKept_hostPut ..
    · exact ⟨rfl, rfl, fun _ => id⟩
  · exact .refl s

theorem portKept_hostEvents (rs : List Rec) : ∀ s, PortKept s (hostEvents rs s).1 := by
  induction rs with
  | nil => exact fun s => .refl s
  | cons r rs ih => exact fun s => (portKept_hostEvent s r).trans (ih _)

theorem portKept_bump (s : State) (a n : Nat) : PortKept s (bump s a n) := by
  unfold bump
  split
  · exact .refl s
  · exact ⟨rfl, rfl, fun _ => id⟩

theorem portKept_ldgPost (s : State) (l : Ledger) (rs : List Rec) : PortKept s (ldgPost s l rs) := by
  have hposted : PortKept s (hostEvents rs (bump { s with ldg := l } aLdgLost (l.lostSum - s.ldg.lostSum))).1 :=
    (PortKept.trans ⟨rfl, rfl, fun _ => id⟩ (portKept_bump { s with ldg := l } _ _)).trans (portKept_hostEvents rs _)
  simp only [ldgPost]
  split
  · refine hposted.trans (PortKept.trans (PortKept.trans ?_ (portKept_bump _ _ _)) (portKept_hostEvents _ _))
    exact ⟨rfl, rfl, fun _ => id⟩
  · exact hposted

theorem portKept_record (s : State) (cls : Nat) (source code : Word16) (p : Nat) : PortKept s (record s cls source code p) := portKept_ldgPost ..

/-! ### The queue registers (R558) -/

theorem hostQueue_addresses (n m : Nat) :
    aHostQcfg n ≠ aHostSqTail m ∧ aHostQcfg n ≠ aHostCqHead m ∧ aHostSqTail n ≠ aHostCqHead m ∧ aHostSqTail n ≠ aLdgLost ∧ aHostQcfg n ≠ aLdgLost ∧
      (n ≠ m → aHostQcfg n ≠ aHostQcfg m) := by
  simp only [aHostQcfg, aHostSqTail, aHostCqHead, aHost, aLdgLost, aLdg]
  omega

theorem hostEn_congr {s t : State} {n : Nat} (h : reg t (aHostQcfg n) = reg s (aHostQcfg n)) : hostEn t n = hostEn s n := by
  unfold hostEn
  rw [regF_congr h]

theorem queueErr_reg (s : State) (n reason : Nat) {a : Nat} (h : a ≠ aLdgLost) : reg (queueErr s n reason) a = reg s a :=
  record_reg _ _ _ _ _ a h

theorem queueErr_err (s : State) (n reason : Nat) : (getQ (queueErr s n reason) n).err = true := by
  obtain ⟨-, -, herr⟩ := portKept_record (setQ s n { getQ s n with err := true }) kEvent srcHost cHostQErr (n + reason * 2 ^ 8)
  refine herr n ?_
  rw [getQ, setQ, smGet_smSet_val _ _ _ _ (fun e => by simpa [HostQ.init] using congrArg HostQ.err e)]

/-- A write of a tail reads back; a tail beyond the queue, or an error of its read, leaves the queue in error. -/
theorem sqTail_writes {s : State} (hwf : regsWf s = true) (n tail : Nat) (readError : Bool) :
    reg (sqTail s n tail readError) (aHostSqTail n) = BitVec.ofNat 64 tail ∧
      (hostEn s n = true → hostSqSize s n ≤ tail ∨ readError = true → (getQ (sqTail s n tail readError) n).err = true) := by
  obtain ⟨htail, -, -, hlost, -⟩ := hostQueue_addresses n n
  have hcfg : reg (setReg s (aHostSqTail n) (BitVec.ofNat 64 tail)) (aHostQcfg n) = reg s (aHostQcfg n) := reg_setReg_ne s _ htail
  have hsize : hostSqSize (setReg s (aHostSqTail n) (BitVec.ofNat 64 tail)) n = hostSqSize s n := congrArg (2 ^ ·) (regF_congr hcfg 4 1)
  have hset : reg (setReg s (aHostSqTail n) (BitVec.ofNat 64 tail)) (aHostSqTail n) = BitVec.ofNat 64 tail := reg_setReg_same hwf _ _
  unfold sqTail
  dsimp only
  rw [hostEn_congr hcfg, hsize]
  split
  · next h => exact ⟨hset, fun hen _ => by simpa [hen] using h⟩
  · split
    · exact ⟨(queueErr_reg _ n 1 hlost).trans hset, fun _ _ => queueErr_err ..⟩
    · split
      · exact ⟨(queueErr_reg _ n 2 hlost).trans hset, fun _ _ => queueErr_err ..⟩
      · next h1 h2 => exact ⟨hset, fun _ h => absurd h (by simp [h2, Nat.not_le.1 h1])⟩

theorem cqHead_writes {s : State} (hwf : regsWf s = true) (n head : Nat) :
    reg (cqHead s n head) (aHostCqHead n) = BitVec.ofNat 64 head ∧ (cqHead s n head).job = s.job := by
  obtain ⟨h, m, w, e⟩ := hostRetry_same (setReg s (aHostCqHead n) (BitVec.ofNat 64 head))
  rw [cqHead, e]
  exact ⟨reg_setReg_same hwf _ _, rfl⟩

/-- A queue that is enabled takes its sizes. -/
theorem qcfg_enables {s : State} (hwf : regsWf s = true) {n b a : Nat} (hoff : hostEn s n = false) (ha : a < 16) (hb : b < 16) :
    hostEn (qcfg s n b a true) n = true ∧ regF (qcfg s n b a true) (aHostQcfg n) 4 1 = a ∧ regF (qcfg s n b a true) (aHostQcfg n) 8 5 = b := by
  have hgo : qcfg s n b a true = setRegF (setRegF (setRegF s (aHostQcfg n) 8 5 b) (aHostQcfg n) 4 1 a) (aHostQcfg n) 0 0 1 := by
    simp [qcfg, hoff, b2n]
  have hwf1 := regsWf_setRegF hwf (aHostQcfg n) 8 5 b
  have hwf2 := regsWf_setRegF hwf1 (aHostQcfg n) 4 1 a
  rw [hgo]
  refine ⟨?_, ?_, ?_⟩
  · rw [hostEn, regF_setRegF_wf hwf2 _ _ (by decide) (by decide)]
    decide
  · rw [regF_setRegF_beside hwf2 _ _ (by decide) (by decide), regF_setRegF_wf hwf1 _ _ (by decide) (by decide)]
    exact Nat.mod_eq_of_lt ha
  · rw [regF_setRegF_beside hwf2 _ _ (by decide) (by decide), regF_setRegF_beside hwf1 _ _ (by decide) (by decide),
      regF_setRegF_wf hwf _ _ (by decide) (by decide)]
    exact Nat.mod_eq_of_lt hb

/-- A queue that is switched off has tail and head 0 and nothing waiting. -/
theorem queueOff_regs {s : State} (hwf : regsWf s = true) (n : Nat) :
    reg (queueOff s n) (aHostSqTail n) = 0 ∧ reg (queueOff s n) (aHostCqHead n) = 0 ∧ (∀ m, hostEn (queueOff s n) m = hostEn s m) ∧
      regsWf (queueOff s n) = true ∧ (queueOff s n).host.q = smSet HostQ.init s.host.q n HostQ.init := by
  obtain ⟨-, -, hth, -⟩ := hostQueue_addresses n n
  have hwf1 := regsWf_setReg hwf (aHostSqTail n) 0
  refine ⟨?_, reg_setReg_same hwf1 _ _, fun m => hostEn_congr ?_, regsWf_setReg hwf1 _ _, rfl⟩
  · exact (reg_setReg_ne _ _ hth).trans (reg_setReg_same hwf _ _)
  · obtain ⟨ht, hh, -⟩ := hostQueue_addresses m n
    exact (reg_setReg_ne _ _ hh).trans (reg_setReg_ne _ _ ht)

/-- The enable bit written with 0. -/
theorem hostEn_cleared {s : State} (hwf : regsWf s = true) (n : Nat) : hostEn (setRegF s (aHostQcfg n) 0 0 0) n = false := by
  rw [hostEn, regF_setRegF_wf hwf _ _ (by decide) (by decide)]
  decide

theorem qcfg_disables {s : State} (hwf : regsWf s = true) (n b a : Nat) :
    hostEn (qcfg s n b a false) n = false ∧ reg (qcfg s n b a false) (aHostSqTail n) = 0 ∧ reg (qcfg s n b a false) (aHostCqHead n) = 0 ∧
      (qcfg s n b a false).host.q = smSet HostQ.init s.host.q n HostQ.init := by
  have hsized (t : State) (ht : t = s ∨ t = setRegF (setRegF s (aHostQcfg n) 8 5 b) (aHostQcfg n) 4 1 a) : regsWf t = true ∧ t.host = s.host := by
    rcases ht with rfl | rfl
    · exact ⟨hwf, rfl⟩
    · exact ⟨regsWf_setRegF (regsWf_setRegF hwf _ _ _ _) _ _ _ _, rfl⟩
  obtain ⟨hwf1, hhost⟩ := hsized (if hostEn s n then s else setRegF (setRegF s (aHostQcfg n) 8 5 b) (aHostQcfg n) 4 1 a) (ite_eq_or_eq _ _ _)
  have hgo : qcfg s n b a false =
      queueOff (setRegF (if hostEn s n then s else setRegF (setRegF s (aHostQcfg n) 8 5 b) (aHostQcfg n) 4 1 a) (aHostQcfg n) 0 0 0) n := rfl
  rw [hgo]
  generalize (if hostEn s n then s else setRegF (setRegF s (aHostQcfg n) 8 5 b) (aHostQcfg n) 4 1 a) = t at hwf1 hhost ⊢
  obtain ⟨htail, hhead, hen, -, hq⟩ := queueOff_regs (regsWf_setRegF hwf1 (aHostQcfg n) 0 0 0) n
  exact ⟨(hen n).trans (hostEn_cleared hwf1 n), htail, hhead, hq.trans (by rw [← hhost]; rfl)⟩

/-! ### The link (R574, R576) -/

/-- One queue as the loss of the link leaves it. -/
def queueCut (t : State) (n : Nat) : State := queueOff (setRegF t (aHostQcfg n) 0 0 0) n

theorem queueCut_off {t : State} (hwf : regsWf t = true) (n m : Nat) (h : hostEn t m = false ∨ m = n) : hostEn (queueCut t n) m = false := by
  obtain ⟨-, -, hen, -⟩ := queueOff_regs (regsWf_setRegF hwf (aHostQcfg n) 0 0 0) n
  rw [queueCut, hen]
  by_cases hmn : m = n
  · exact hmn ▸ hostEn_cleared hwf n
  · obtain ⟨-, -, -, -, -, hne⟩ := hostQueue_addresses m n
    exact (hostEn_congr (reg_setRegF_ne t 0 0 0 (hne hmn))).trans (h.resolve_right hmn)

/-- Queues cut one after another are off, and so are those that were. -/
theorem queueCuts_off (l : List Nat) : ∀ {t : State}, regsWf t = true → ∀ m, hostEn t m = false ∨ m ∈ l → hostEn (l.foldl queueCut t) m = false := by
  induction l with
  | nil => exact fun _ m h => h.resolve_right (List.not_mem_nil)
  | cons n l ih =>
    intro t hwf m h
    obtain ⟨-, -, -, hwf', -⟩ := queueOff_regs (regsWf_setRegF hwf (aHostQcfg n) 0 0 0) n
    refine ih hwf' m ?_
    rcases h with h | h
    · exact .inl (queueCut_off hwf n m (.inl h))
    · rcases List.mem_cons.1 h with h | h
      · exact .inl (queueCut_off hwf n m (.inr h))
      · exact .inr h

theorem queueCuts_link (l : List Nat) : ∀ t, (l.foldl queueCut t).host.rate = t.host.rate ∧ (l.foldl queueCut t).host.width = t.host.width := by
  induction l with
  | nil => exact fun _ => ⟨rfl, rfl⟩
  | cons n l ih => exact fun t => ih _

/-- What fails with the host window are copies and operations: registers and host port stay. -/
theorem hostWindowFails_frame (s : State) : (hostWindowFails s).regs = s.regs ∧ (hostWindowFails s).host = s.host := by
  have hcopies (l : List Nat) : ∀ s, (l.foldl downCopies s).regs = s.regs ∧ (l.foldl downCopies s).host = s.host := by
    induction l with
    | nil => exact fun _ => ⟨rfl, rfl⟩
    | cons c l ih => exact fun s => ih _
  have hops (l : List Nat) : ∀ s, (l.foldl downOps s).regs = s.regs ∧ (l.foldl downOps s).host = s.host := by
    induction l with
    | nil => exact fun _ => ⟨rfl, rfl⟩
    | cons c l ih => exact fun s => ih _
  obtain ⟨hregs, hhost⟩ := hcopies (s.cores.map (fun p => p.1)) s
  obtain ⟨hregs', hhost'⟩ := hops (List.range nEngines) ((s.cores.map (fun p => p.1)).foldl downCopies s)
  exact ⟨hregs'.trans hregs, hhost'.trans hhost⟩

theorem hostDown_eq (s : State) (cause : Nat) :
    hostDown s cause = hostWindowFails (record ((List.range 4).foldl queueCut { s with host := { s.host with rate := 0, width := 0 } })
      kEvent srcHost cHostLinkDown cause) := rfl

/-- A link that goes down takes the four queues with it. -/
theorem hostDown_cuts {s : State} (hwf : regsWf s = true) (cause : Nat) :
    (hostDown s cause).host.width = 0 ∧ (hostDown s cause).host.rate = 0 ∧ ∀ n, n < 4 → hostEn (hostDown s cause) n = false := by
  obtain ⟨hrate, hwidth⟩ := queueCuts_link (List.range 4) { s with host := { s.host with rate := 0, width := 0 } }
  have hoff := queueCuts_off (List.range 4) (t := { s with host := { s.host with rate := 0, width := 0 } }) hwf
  rw [hostDown_eq]
  generalize (List.range 4).foldl queueCut { s with host := { s.host with rate := 0, width := 0 } } = t at hrate hwidth hoff ⊢
  obtain ⟨hrate', hwidth', -⟩ := portKept_record t kEvent srcHost cHostLinkDown cause
  obtain ⟨hregs, hhost⟩ := hostWindowFails_frame (record t kEvent srcHost cHostLinkDown cause)
  rw [hhost]
  refine ⟨hwidth'.trans hwidth, hrate'.trans hrate, fun n hn => ?_⟩
  obtain ⟨-, -, -, -, hlost, -⟩ := hostQueue_addresses n n
  have hreg : reg (hostWindowFails (record t kEvent srcHost cHostLinkDown cause)) (aHostQcfg n) = reg t (aHostQcfg n) :=
    (congrArg (smGet 0 · _) hregs).trans (record_reg _ _ _ _ _ _ hlost)
  exact (hostEn_congr hreg).trans (hoff n (.inr (List.mem_range.2 hn)))

theorem kept_pins (s : State) : (kept s).pins = s.pins := rfl

theorem hostDown_pins (s : State) (cause : Nat) : (hostDown s cause).pins = s.pins := by
  rw [← kept_pins, hostDown_kept, kept_pins]

/-- Settles O42. The registers are read back through the rules of fields; the link's loss is its four queues cut, one record and the failures of
what used the window. -/
theorem hostQueueResults : Obligations.HostQueueResults := by
  refine ⟨fun s q tail readError hwf => ⟨_, rfl, sqTail_writes hwf q.toNat tail.toNat readError⟩,
    fun s q head hwf => ⟨_, rfl, cqHead_writes hwf q.toNat head.toNat⟩,
    fun s q b a hwf => ⟨fun hoff => ⟨_, rfl, qcfg_enables hwf hoff a.isLt b.isLt⟩, ⟨_, rfl, qcfg_disables hwf q.toNat b.toNat a.toNat⟩⟩,
    fun s hwf hwidth => ⟨_, congrArg Host.Outcome.next (if_neg hwidth), hostDown_cuts hwf 0⟩, fun s hwf hup => ?_,
    fun s rate width hup hheld hrec hboot hrate hwidth => ?_⟩
  · obtain ⟨hwidth, -, hoff⟩ := hostDown_cuts (s := { s with pins := { s.pins with hostPerstN := false } }) hwf 1
    have hpins : (hostDown { s with pins := { s.pins with hostPerstN := false } } 1).pins.hostPerstN = false := by
      rw [hostDown_pins]
    exact ⟨_, congrArg Host.Outcome.next (if_pos hup), hpins, hwidth, hoff⟩
  · exact ⟨_, congrArg Host.Outcome.next (if_pos ⟨hup, hheld, hrec, hboot, hrate, hwidth⟩), rfl, rfl, rfl, rfl⟩

end Sys2Proof.Machine
end

section
/-! PROOFS. O43 and O44, the rules: a command that its queue gives, with a well-formed entry, runs on the state that took it; that state differs in the
host port only. -/

namespace Sys2Proof.Machine

/-! ### A command that its queue gives (R555) -/

/-- The state that takes a command has its entry taken from the queue and the command under way. -/
theorem hostTake_host {s t : State} {n op cid : Nat} (h : hostTake s n op cid = some t) : ∃ p, t = { s with host := p } := by
  unfold hostTake at h
  dsimp only at h
  split at h
  · cases h
  · cases h
    exact ⟨_, rfl⟩

/-- A command of a well-formed entry, in a state that accepts it. -/
theorem hostRun_takes {s t : State} {n op cid : Nat} {ps : List (Nat × Nat × Nat)} {inState form : Bool} (htake : hostTake s n op cid = some t)
    (hgood : sqBad (sqEntry s n) op cid = false) (hspells : sqSpells (sqEntry s n) op cid ps = true) (hst : inState = true) (hform : form = true)
    (f : State → State) : hostRun s n op cid ps inState form false f = f t := by
  unfold hostRun
  rw [htake]
  simp [hspells, hgood, hst, hform]

theorem stIn_of {s : State} {l : List JobSt} (h : s.job.st ∈ l) : stIn s l = true := List.contains_iff_mem.2 h

end Sys2Proof.Machine
end

section
/-! PROOFS. O43: the job commands of the host queues. -/

namespace Sys2Proof.Machine

/-! ### LOAD and RESTART (R561, R570): the parts of an image go to memory and registers; the sequencer and the job are the header's -/

theorem rawPut_cores (s : State) (a : Nat) (bs : List Byte) : (rawPut s a bs).cores = s.cores := by
  unfold rawPut
  simp only
  split <;> rfl

theorem rawBlit_frame (s : State) (a n : Nat) (m : Memory) (bad : SMap Bool) :
    (rawBlit s a n m bad).seq = s.seq ∧ (rawBlit s a n m bad).job = s.job ∧ (rawBlit s a n m bad).cores = s.cores := by
  unfold rawBlit
  split <;> exact ⟨rfl, rfl, rfl⟩

theorem bumps_cores {f g x y : Nat → Nat} (l : List Nat) : ∀ s, (l.foldl (fun t k => bump (bump t (f k) (x k)) (g k) (y k)) s).cores = s.cores := by
  induction l with
  | nil => exact fun _ => rfl
  | cons k l ih => exact fun s => (ih _).trans ((bump_cores ..).trans (bump_cores ..))

theorem devTouch_write_cores (a n : Nat) (s : State) : (devTouch true a n s).cores = s.cores := by
  have htear : (tearWatches s a n).cores = s.cores := by unfold tearWatches; split <;> rfl
  unfold devTouch
  split
  · rfl
  · simpa using (bumps_cores (List.range 16) _).trans htear

theorem putParts_cores (addr : Nat) (ps : List Part) (s : State) : (putParts s addr ps).cores = s.cores := by
  have hfold (m : Memory) : ∀ t, (ps.foldl (fun t p => rawPut (devTouch true p.2.2.1 p.2.1 t) p.2.2.1 (memReads m (addr + p.1) p.2.1)) t).cores = t.cores := by
    induction ps with
    | nil => exact fun _ => rfl
    | cons p ps ih => exact fun t => (ih _).trans ((rawPut_cores ..).trans (devTouch_write_cores ..))
  exact hfold s.mem.host s

theorem writeHeader_cores (s : State) (h : List Byte) : (writeHeader s h).cores = s.cores := by
  have hfold (x y : Nat) (l : List Nat) : ∀ t : State, (l.foldl (fun t i => setRegF (setRegF t (aArrSwin i) 7 0 x) (aArrSwin i) 15 8 y) t).cores = t.cores := by
    induction l with
    | nil => exact fun _ => rfl
    | cons i l ih => exact fun t => ih _
  simp only [writeHeader, setReg_cores, setRegF_cores, hfold]

/-- Placing a run of bytes over one that was cleared. -/
theorem placed_frame (t : State) (a n b : Nat) (bs : List Byte) (m : Memory) (bad : SMap Bool) :
    (rawPut (rawBlit (devTouch true a n t) a n m bad) b bs).seq = t.seq ∧ (rawPut (rawBlit (devTouch true a n t) a n m bad) b bs).job = t.job ∧
      (rawPut (rawBlit (devTouch true a n t) a n m bad) b bs).cores = t.cores := by
  obtain ⟨hseq, hjob⟩ := devTouch_write a n t
  obtain ⟨hseq', hjob', hcores'⟩ := rawBlit_frame (devTouch true a n t) a n m bad
  obtain ⟨hseq'', hjob''⟩ := rawPut_frame (rawBlit (devTouch true a n t) a n m bad) b bs
  exact ⟨hseq''.trans (hseq'.trans hseq), hjob''.trans (hjob'.trans hjob), (rawPut_cores ..).trans (hcores'.trans (devTouch_write_cores a n t))⟩

/-- The sequencer and the job replaced. -/
def State.withRun (t : State) (q : Seq) (j : Job) : State := { t with seq := q, job := j }

theorem withRun_frame (t : State) (q : Seq) (j : Job) : (t.withRun q j).seq = q ∧ (t.withRun q j).job = j ∧ (t.withRun q j).cores = t.cores :=
  ⟨rfl, rfl, rfl⟩

/-- The module with an image's parts and header before the area of the image list is written. -/
def imageTaken (s : State) (addr : Nat) (h : List Byte) : State :=
  (writeHeader (putParts s addr (imgParts h)) h).withRun { Seq.init with step := BitVec.ofNat 64 (fieldAt h 32 8) } (jobOf s addr h)

theorem takeImage_eq (s : State) (addr : Nat) (h : List Byte) :
    takeImage s addr h = rawPut (rawBlit (devTouch true ((jobOf s addr h).quiesce + 0x500000) 0xB00000 (imageTaken s addr h))
      ((jobOf s addr h).quiesce + 0x500000) 0xB00000 [] []) ((jobOf s addr h).quiesce + 0x500000) (jobOf s addr h).image := rfl

/-- An image taken into the module (R561). -/
theorem takeImage_frame (s : State) (addr : Nat) (h : List Byte) :
    (takeImage s addr h).seq = { Seq.init with step := BitVec.ofNat 64 (fieldAt h 32 8) } ∧ (takeImage s addr h).job = jobOf s addr h ∧
      (takeImage s addr h).cores = s.cores := by
  obtain ⟨hseq, hjob, hcores⟩ := withRun_frame (writeHeader (putParts s addr (imgParts h)) h) { Seq.init with step := BitVec.ofNat 64 (fieldAt h 32 8) }
    (jobOf s addr h)
  obtain ⟨hseq', hjob', hcores'⟩ := placed_frame (imageTaken s addr h) ((jobOf s addr h).quiesce + 0x500000) 0xB00000
    ((jobOf s addr h).quiesce + 0x500000) (jobOf s addr h).image [] []
  rw [takeImage_eq, hseq', hjob', hcores']
  rw [writeHeader_cores, putParts_cores] at hcores
  exact ⟨hseq, hjob, hcores⟩

theorem jobOf_members (s : State) (addr : Nat) (h : List Byte) : (jobOf s addr h).members = imageMembers h := rfl

theorem loadImageFile_eq (s : State) (addr : Nat) (h : List Byte) :
    loadImageFile s addr h = jobTo (takeImage (segmentEnd s (BitVec.ofNat 64 (fieldAt h 8 8))) addr h) .loaded := rfl

theorem loadImageFile_loads (s : State) (addr : Nat) (h : List Byte) :
    (loadImageFile s addr h).job.st = .loaded ∧ (loadImageFile s addr h).job.members = imageMembers h ∧
      (loadImageFile s addr h).seq = { Seq.init with step := BitVec.ofNat 64 (fieldAt h 32 8) } := by
  obtain ⟨hseq, hjob, -⟩ := takeImage_frame (segmentEnd s (BitVec.ofNat 64 (fieldAt h 8 8))) addr h
  rw [loadImageFile_eq, jobTo_job, jobTo_seq, hjob, hseq]
  exact ⟨rfl, jobOf_members (segmentEnd s (BitVec.ofNat 64 (fieldAt h 8 8))) addr h, rfl⟩

/-- A restart takes the image on wiped cores, with the step to start from. -/
theorem restartImageFile_eq (s : State) (addr b : Nat) (h : List Byte) : ∃ j, restartImageFile s addr b h =
    jobTo ((takeImage (restartWipe s) addr h).withRun { (takeImage (restartWipe s) addr h).seq with step := BitVec.ofNat 64 b } j) .loaded :=
  ⟨_, rfl⟩

theorem restartWipe_cores (s : State) : (restartWipe s).cores = [] := by
  simp [restartWipe, wipeDone, wipeClear, wipeDie, draw]

theorem restartImageFile_loads (s : State) (addr b : Nat) (h : List Byte) :
    (restartImageFile s addr b h).job.st = .loaded ∧ (restartImageFile s addr b h).seq.step = BitVec.ofNat 64 b ∧
      (restartImageFile s addr b h).cores = [] := by
  obtain ⟨j, hgo⟩ := restartImageFile_eq s addr b h
  obtain ⟨hseq, hjob, hcores⟩ := withRun_frame (takeImage (restartWipe s) addr h)
    { (takeImage (restartWipe s) addr h).seq with step := BitVec.ofNat 64 b } j
  obtain ⟨-, -, himage⟩ := takeImage_frame (restartWipe s) addr h
  rw [hgo, jobTo_job, jobTo_seq, jobTo_cores, hseq, hcores, himage, restartWipe_cores]
  exact ⟨rfl, rfl, rfl⟩

/-! ### START and PREEMPT -/

/-- A message to a lead that is another module. -/
theorem toLead_elsewhere {s : State} {d : BitVec 14} (hlead : jobLead s.job = some d) (hother : d ≠ devId s) (kind : Nat) (body : List Byte)
    (here : State → State) : toLead s kind body here = tc0Send s kind d s.job.tag body := by
  unfold toLead
  rw [hlead]
  exact if_neg hother

theorem length_ctlMsg (s : State) (typ a b : Nat) : (ctlMsg s typ a b).length ≤ 64 := by
  simp [ctlMsg, length_leBytes, zeros]

/-- START of a member that is not the lead: READY goes to the lead (R563). -/
theorem startHere_sends {s : State} {d : BitVec 14} (hlead : jobLead s.job = some d) (hother : d ≠ devId s) (here : State → State) :
    (toLead (wardStart (jobTo s .starting)) 2 (ctlMsg s 1 0 0) here).job.st = .starting ∧
      ∃ m, m ∈ (toLead (wardStart (jobTo s .starting)) 2 (ctlMsg s 1 0 0) here).fab.tc0q ∧ m.kind = 2 ∧ m.dst = d ∧ fieldAt m.body 0 1 = 1 := by
  have hlead' : jobLead (wardStart (jobTo s .starting)).job = some d := by
    simp only [wardStart, jobTo_job]
    exact hlead
  have hid : devId (wardStart (jobTo s .starting)) = devId s := devId_congr (jobTo_reg s .starting aFab (by decide))
  rw [toLead_elsewhere hlead' (by rwa [hid])]
  refine ⟨by simp [wardStart], _, tc0Send_mem _ _ _ _ _ (length_ctlMsg ..), rfl, rfl, rfl⟩

theorem unheld_detLeave (s : State) : unheld (detLeave s).ldg = unheld s.ldg := by
  have hsend (s : State) (k : Nat) (d : BitVec 14) (tag : Word32) (b : List Byte) : unheld (tc0Send s k d tag b).ldg = unheld s.ldg := by
    unfold tc0Send tc0SendOn
    split
    · exact unheld_record rfl ..
    · rfl
  unfold detLeave
  split
  · rfl
  · unfold detWithdraw
    dsimp only
    split
    · exact unheld_record rfl ..
    · split
      · exact unheld_record rfl ..
      · exact (hsend ..).trans (unheld_record rfl ..)
  · rfl

theorem unheld_tc0SendAll (k : Nat) (b : List Byte) (ds : List (BitVec 14)) : ∀ s, unheld (tc0SendAll k b ds s).ldg = unheld s.ldg := by
  induction ds with
  | nil => exact fun _ => rfl
  | cons d ds ih =>
    intro s
    refine (ih _).trans ?_
    unfold tc0Send tc0SendOn
    split
    · exact unheld_record rfl ..
    · rfl

/-- The count of preemptions of a unit that only recorded since. -/
theorem segPreempts_of_unheld {l m : Ledger} (h : unheld l = unheld m) : l.segPreempts = m.segPreempts := (account_of_unheld h).2.2.2.2.2

/-- PREEMPT of a module that runs halts it (R565). -/
theorem preemptHere_running {s : State} (hst : s.job.st = .running) (hseq : s.seq.st = .running) (hopen : allHalted s = false)
    (hdev : s.job.device = none) : (preemptHere s).job.st = .preempting ∧ (preemptHere s).seq.st = .halting ∧
      unheld (preemptHere s).ldg = unheld s.ldg := by
  have hgo : preemptHere s = haltStart (jobTo { s with job := { s.job with order4 := false, drained := [] } } .preempting) := by
    have hopen' : allHalted (jobTo { s with job := { s.job with order4 := false, drained := [] } } .preempting) = false := by
      unfold allHalted nCores
      rw [jobTo_cores, jobTo_part832]
      exact hopen
    have hask := haltAsk_running (s := jobTo { s with job := { s.job with order4 := false, drained := [] } } .preempting) (by simpa using hseq)
      hopen' (by simpa using hdev)
    rw [← hask]
    unfold preemptHere
    rw [hst]
    exact if_neg (by simp [hopen])
  obtain ⟨hseq', -, hjob, -⟩ := haltStart_frame (jobTo { s with job := { s.job with order4 := false, drained := [] } } .preempting)
  rw [hgo, hseq', hjob]
  refine ⟨by simp, rfl, ?_⟩
  unfold haltStart
  refine (unheld_detLeave _).trans ?_
  unfold jobTo
  rw [if_neg (by simp [hst])]
  exact (unheld_record rfl ..).trans rfl

end Sys2Proof.Machine
end

section
/-! PROOFS. O43: a snapshot asked for, a job restored, and the commands of the queues. What the management core reads of GDDR7 may meet errors; they
are counted, recorded and may fault the module, and no other register changes. -/

namespace Sys2Proof.Machine

/-! ### Registers and the errors that a read meets -/

/-- A register that no error of a word and no count of the slices touches. -/
def Untouched (a : Nat) : Prop :=
  a ≠ aBoot ∧ a ≠ aLdgLost ∧ (∀ k, k < 16 → a ≠ aHiveHits k ∧ a ≠ aHiveMisses k ∧ a ≠ aHive k + 0x18) ∧ ∀ id, a ≠ aArrEcc id

theorem mcOf_lt (a : Nat) : mcOf a < 16 := by
  have hfield (hi lo : Nat) (h : hi + 1 - lo = 4) : bitsOf a hi lo < 2 ^ 4 := h ▸ bitsOf_lt a hi lo
  exact Nat.xor_lt_two_pow (Nat.xor_lt_two_pow (Nat.xor_lt_two_pow (hfield 11 8 rfl) (hfield 15 12 rfl)) (hfield 19 16 rfl)) (hfield 23 20 rfl)

theorem bump_reg_ne (s : State) {a b : Nat} (n : Nat) (h : b ≠ a) : reg (bump s a n) b = reg s b := by
  unfold bump
  split
  · rfl
  · exact reg_setReg_ne s _ h

theorem setLinePoison_reg {a : Nat} (h : Untouched a) (s : State) (line : Nat) (bad : Bool) : reg (setLinePoison s line bad) a = reg s a := by
  obtain ⟨hboot, hlost, -⟩ := h
  unfold setLinePoison
  split
  · dsimp only
    split
    · exact deviceFatal_reg hboot hlost ..
    · rfl
  · rfl
  · rfl
  · rfl

theorem strike_reg {a : Nat} (h : Untouched a) (s : State) (core : Nat) (u : Upset) : reg (strike s core u) a = reg s a := by
  obtain ⟨-, hlost, hhive, harr⟩ := id h
  have hrec (t : State) (cls : Nat) (src code : Word16) (p : Nat) : reg (record t cls src code p) a = reg t a := record_reg _ _ _ _ _ a hlost
  cases u with
  | none => rfl
  | bufCorrected off => exact hrec ..
  | bufPoisoned off => simp only [strike]; split <;> [rfl; exact hrec ..]
  | hiveCorrected line =>
    obtain ⟨-, -, hecc⟩ := hhive (mcOf (line.toNat * 64)) (mcOf_lt _)
    exact (hrec ..).trans (bump_reg_ne _ _ hecc)
  | hivePoisoned line => simp only [strike]; split <;> [rfl; exact hrec ..]
  | accCorrected row => exact (bump_reg_ne _ _ (harr core)).trans (hrec ..)
  | accPoisoned row => simp only [strike]; split <;> [rfl; exact hrec ..]
  | l1Poisoned line => rfl
  | hostPoisoned line => exact setLinePoison_reg h s _ _

theorem meetSpans_reg {a : Nat} (h : Untouched a) (s : State) (rs : List (Nat × Nat)) : reg (meetSpans s rs) a = reg s a := by
  have hfold (l : List (Nat × Upset)) : ∀ t, reg (l.foldl (fun t p => strike t p.1 p.2) t) a = reg t a := by
    induction l with
    | nil => exact fun _ => rfl
    | cons p l ih => exact fun t => (ih _).trans (strike_reg h t p.1 p.2)
  exact hfold _ _

/-- A read of the management core leaves every untouched register. -/
theorem devTouch_reg {a : Nat} (h : Untouched a) (b n : Nat) (s : State) : reg (devTouch false b n s) a = reg s a := by
  have hfold (x y : Nat → Nat) (l : List Nat) (hl : ∀ k ∈ l, k < 16) :
      ∀ t, reg (l.foldl (fun t k => bump (bump t (aHiveHits k) (x k)) (aHiveMisses k) (y k)) t) a = reg t a := by
    induction l with
    | nil => exact fun _ => rfl
    | cons k l ih =>
      intro t
      obtain ⟨hhit, hmiss, -⟩ := h.2.2.1 k (hl k List.mem_cons_self)
      exact (ih (fun j hj => hl j (List.mem_cons_of_mem _ hj)) _).trans ((bump_reg_ne _ _ hmiss).trans (bump_reg_ne _ _ hhit))
  unfold devTouch
  split
  · rfl
  · simp only [Bool.false_eq_true, if_false]
    exact (hfold _ _ _ (fun k hk => List.mem_range.1 hk) _).trans (meetSpans_reg h ..)

theorem devTouch_unfaulted (b n : Nat) (s : State) : unfaulted (devTouch false b n s) = unfaulted s := by
  have hfold (f g x y : Nat → Nat) (l : List Nat) : ∀ t, unfaulted (l.foldl (fun t k => bump (bump t (f k) (x k)) (g k) (y k)) t) = unfaulted t := by
    induction l with
    | nil => exact fun _ => rfl
    | cons k l ih => exact fun t => (ih _).trans (by simp)
  unfold devTouch
  split
  · rfl
  · simp only [Bool.false_eq_true, if_false]
    exact (hfold ..).trans (meetBy_unfaulted ..)

theorem untouched_aligned {a : Nat} (h : 0x3F0000601000 ≤ a) (h40 : a % 0x40 ≠ 0x28) (hboot : a ≠ aBoot) (hlost : a ≠ aLdgLost) : Untouched a := by
  refine ⟨hboot, hlost, fun k hk => ?_, fun id => ?_⟩
  · simp only [aHiveHits, aHiveMisses, aHive]
    omega
  · simp only [aArrEcc, aArr]
    omega

/-! ### SNAPSHOT (R571) -/

/-- What memory holds does not depend on a register that is not the base of the windows. -/
theorem memBytes_setReg (s : State) {b : Nat} (v : Word64) (h : b ≠ aMemWtBase) (a n : Nat) : memBytes (setReg s b v) a n = memBytes s a n := by
  have hbase : regF (setReg s b v) aMemWtBase 45 16 = regF s aMemWtBase 45 16 := regF_congr (reg_setReg_ne s v h.symm) 45 16
  have hxlat (x : Nat) : hostXlat (setReg s b v) x = hostXlat s x := by
    unfold hostXlat wtEntry
    rw [hbase]
    rfl
  unfold memBytes
  simp only [hxlat]
  rfl

/-- The job replaced. -/
def State.withJob (t : State) (j : Job) : State := { t with job := j }

theorem reg_withJob (t : State) (j : Job) (a : Nat) : reg (t.withJob j) a = reg t a := rfl

/-- The state in which a snapshot is asked for. -/
def snapAsked (s : State) (t : Nat) : State :=
  setReg ((devTouch false (snapArea s t) 128 s).withJob { (devTouch false (snapArea s t) 128 s).job with snapK := reg s aTrnSnapStep })
    aTrnSnapStatus (BitVec.ofNat 64 (1 + t * 2 ^ 5))

theorem snapAsk_takes {s : State} {t : Nat} (hidle : snapSt s = 0) (hstep : s.seq.step.toNat < (reg s aTrnSnapStep).toNat) (hen : snapEn s = true)
    (hvalid : snapValid s t = true) : snapAsk s t = snapAsked s t := by
  unfold snapAsk
  rw [if_neg (by simp [hidle]), if_neg (by omega)]
  simp only [hen, hvalid, Bool.not_true, Bool.or_self, Bool.false_eq_true, if_false, if_true]
  rfl

/-- The status that a snapshot asked for shows: under way for its table, without a refusal. -/
theorem snapAsked_status (s : State) {t : Nat} (ht : t < 8) :
    regF (snapAsked s t) aTrnSnapStatus 1 0 = 1 ∧ regF (snapAsked s t) aTrnSnapStatus 7 5 = t ∧ regF (snapAsked s t) aTrnSnapStatus 9 8 = 0 := by
  have hval : reg (snapAsked s t) aTrnSnapStatus = BitVec.ofNat 64 (1 + t * 2 ^ 5) := by
    refine smGet_smSet_val _ _ _ _ fun h => ?_
    have hzero := congrArg BitVec.toNat h
    rw [BitVec.toNat_ofNat, Nat.mod_eq_of_lt (by omega)] at hzero
    simp at hzero
  simp only [regF, hval, bitsOf, BitVec.toNat_ofNat, Nat.shiftRight_eq_div_pow]
  omega

theorem snapAsked_step (s : State) (t : Nat) : reg (snapAsked s t) aTrnSnapStep = reg s aTrnSnapStep := by
  have hfree : Untouched aTrnSnapStep := untouched_aligned (by decide) (by decide) (by decide) (by decide)
  rw [snapAsked, reg_setReg_ne _ _ (by decide), reg_withJob, devTouch_reg hfree]

theorem memBytes_withHost (s : State) (p : HostPort) (a n : Nat) : memBytes { s with host := p } a n = memBytes s a n := rfl

theorem snapValid_withHost (s : State) (p : HostPort) (t : Nat) : snapValid { s with host := p } t = snapValid s t := by
  unfold snapValid
  rw [show snapArea { s with host := p } t = snapArea s t from rfl, memBytes_withHost]

/-- SNAPSHOT of a later step, where snapshots are enabled and the table is valid. -/
theorem snapshot_asks {s : State} {t : Nat} {k : Word64} (ht : t < 8) (hidle : snapSt s = 0) (hstep : s.seq.step.toNat < k.toNat)
    (hen : snapEn s = true) (hvalid : snapValid s t = true) :
    let u := snapAsk (setReg s aTrnSnapStep k) t
    regF u aTrnSnapStatus 9 8 = 0 ∧ reg u aTrnSnapStep = k ∧ snapSt u = 1 ∧ snapT u = t := by
  intro u
  have hk : k ≠ 0 := fun h => by simp [h] at hstep
  have hstep' : reg (setReg s aTrnSnapStep k) aTrnSnapStep = k := smGet_smSet_val _ _ _ _ hk
  have hreg {a : Nat} (h : a ≠ aTrnSnapStep) : reg (setReg s aTrnSnapStep k) a = reg s a := reg_setReg_ne s k h
  have hvalid' : snapValid (setReg s aTrnSnapStep k) t = true := by
    have harea : snapArea (setReg s aTrnSnapStep k) t = snapArea s t := by unfold snapArea; rw [regF_congr (hreg (by decide))]
    unfold snapValid
    rw [harea, memBytes_setReg s k (by decide)]
    exact hvalid
  have hgo : u = snapAsked (setReg s aTrnSnapStep k) t :=
    snapAsk_takes ((regF_congr (hreg (by decide)) 1 0).trans hidle) (by rw [hstep']; exact hstep)
      (by unfold snapEn; rw [regF_congr (hreg (by decide))]; exact hen) hvalid'
  obtain ⟨h1, h2, h3⟩ := snapAsked_status (setReg s aTrnSnapStep k) ht
  rw [hgo]
  exact ⟨h3, (snapAsked_step ..).trans hstep', h1, h2⟩

/-! ### RESUME (R566) -/

/-- `t` has the registers and the job of `s`. -/
def RegsJobSame (s t : State) : Prop := t.regs = s.regs ∧ t.job = s.job

theorem RegsJobSame.trans {s t u : State} (h1 : RegsJobSame s t) (h2 : RegsJobSame t u) : RegsJobSame s u := ⟨h2.1.trans h1.1, h2.2.trans h1.2⟩

theorem regsJobSame_loadSeq (s : State) : RegsJobSame s (loadSeq s) := ⟨rfl, rfl⟩

theorem regsJobSame_loadSync (s : State) : RegsJobSame s (loadSync s) := by
  simp [RegsJobSame, loadSync]

theorem regsJobSame_loadCes (f : Nat → Nat) (l : List Nat) : ∀ s, RegsJobSame s (l.foldl (fun t k => loadCe t k (f k)) s) := by
  induction l with
  | nil => exact fun _ => ⟨rfl, rfl⟩
  | cons k l ih => exact fun s => RegsJobSame.trans ⟨rfl, rfl⟩ (ih _)

theorem regsJobSame_setCores (f : Nat → Core) (l : List Nat) : ∀ s, RegsJobSame s (l.foldl (fun t i => setCore t i (f i)) s) := by
  induction l with
  | nil => exact fun _ => ⟨rfl, rfl⟩
  | cons k l ih => exact fun s => RegsJobSame.trans ⟨rfl, rfl⟩ (ih _)

/-- The areas of the image read. -/
def imageRead (s : State) : State :=
  ((ctxBase s, 0x400 + nCores s * 0x400) :: imageAreas s).foldl (fun t r => devTouch false r.1 r.2 t) s

theorem imageRead_frame (s : State) : unfaulted (imageRead s) = unfaulted s ∧ reg (imageRead s) aFab = reg s aFab := by
  have hfab : Untouched aFab := untouched_aligned (by decide) (by decide) (by decide) (by decide)
  have htouch (l : List (Nat × Nat)) : ∀ t, unfaulted (l.foldl (fun t r => devTouch false r.1 r.2 t) t) = unfaulted t ∧
      reg (l.foldl (fun t r => devTouch false r.1 r.2 t) t) aFab = reg t aFab := by
    induction l with
    | nil => exact fun _ => ⟨rfl, rfl⟩
    | cons r l ih =>
      intro t
      obtain ⟨hjob, hreg⟩ := ih (devTouch false r.1 r.2 t)
      exact ⟨hjob.trans (devTouch_unfaulted ..), hreg.trans (devTouch_reg hfab ..)⟩
  exact htouch _ s

/-- The registers of the sequencer and the snapshot restored. -/
def imageRegs (s : State) : State :=
  let h := rawGet s s.job.quiesce 88
  let hw (a : Nat) : Word64 := BitVec.ofNat 64 (fieldAt h a 8)
  let s1 := setReg (setReg (setReg (setReg (setReg s aTrnMb (hw 24)) aTrnSeqStatus (hw 32)) aTrnTokens (hw 40)) aTrnSnapStatus (hw 48)) aTrnSnapStep (hw 56)
  { s1 with seq := { s1.seq with step := hw 16 }, job := { s1.job with snapK := hw 56 }, sync := { s1.sync with sent := hw 72, recv := hw 80 } }

theorem imageRegs_frame (s : State) : (∃ k, (imageRegs s).job = { s.job with snapK := k }) ∧ reg (imageRegs s) aFab = reg s aFab := by
  refine ⟨⟨_, rfl⟩, ?_⟩
  unfold imageRegs
  exact (reg_setReg_ne _ _ (by decide)).trans ((reg_setReg_ne _ _ (by decide)).trans ((reg_setReg_ne _ _ (by decide)).trans
    ((reg_setReg_ne _ _ (by decide)).trans (reg_setReg_ne _ _ (by decide)))))

/-- Another count of values drawn. -/
theorem regsJobSame_free (s : State) (n : Nat) : RegsJobSame s { s with free := n } := ⟨rfl, rfl⟩

/-- Cores, engines and synchronisation restored, after the sequencer. -/
def imageRestored (s2 : State) : State :=
  let ctr := s2.free
  let s3 := { s2 with free := s2.free + 1 }
  let s4 := (List.range (nCores s3)).foldl (fun t i =>
    let old := getCore s3 i
    setCore t i (loadLcu s3 i (ctr + 8 * i) old (loadReplay s3 i (loadCore s3 i old)))) s3
  let s5 := (List.range nEngines).foldl (fun t k => loadCe t k (ctr + 8192 + 64 * k)) s4
  loadSync { s5 with free := s5.free + 16384 }

theorem loadImage_eq (s : State) : loadImage s = imageRestored (loadSeq (imageRegs (imageRead s))) := by
  simp only [loadImage, draw, imageRestored, imageRegs, imageRead]

theorem regsJobSame_imageRestored (s : State) : RegsJobSame s (imageRestored s) := by
  unfold imageRestored
  extract_lets ctr s3 s4 s5
  have h3 : RegsJobSame s s3 := regsJobSame_free s _
  have h4 : RegsJobSame s3 s4 := regsJobSame_setCores _ _ s3
  have h5 : RegsJobSame s4 s5 := regsJobSame_loadCes _ _ s4
  clear_value s5 s4 s3
  exact h3.trans (h4.trans (h5.trans ((regsJobSame_free s5 _).trans (regsJobSame_loadSync _))))

/-- A job's image loaded back changes of the job at most the snapshot's step and what a fault changes, and no identity. -/
theorem loadImage_frame (s : State) : (∃ k, unfaulted (loadImage s) = { unfaulted s with snapK := k }) ∧ devId (loadImage s) = devId s := by
  obtain ⟨hregs, hjob⟩ := (regsJobSame_loadSeq (imageRegs (imageRead s))).trans (regsJobSame_imageRestored _)
  obtain ⟨⟨k, hjob'⟩, hfab⟩ := imageRegs_frame (imageRead s)
  obtain ⟨hread, hfab'⟩ := imageRead_frame s
  rw [loadImage_eq]
  refine ⟨⟨k, ?_⟩, devId_congr ?_⟩
  · rw [unfaulted, hjob, hjob', ← hread]
    rfl
  · exact (congrArg (smGet 0 · aFab) hregs).trans (hfab.trans hfab')

/-- The image restored here, before RESTORED goes to the lead. -/
def restoredHere (u : State) : State := u.withJob { u.job with restoredHere := true, wiped := false }

theorem restoreHere_eq {s : State} (hst : s.job.st = .preempted) (hhere : s.job.restoredHere = false) (hwiped : s.job.wiped = false) :
    restoreHere s = toLead (restoredHere (loadImage s)) 2 (ctlMsg (restoredHere (loadImage s)) 7 0 0) (fun s => restoredTake s (devId s)) := by
  unfold restoreHere
  rw [if_neg (by simp [hst, hhere])]
  simp only [hwiped, Bool.false_eq_true, if_false, restoredHere, State.withJob]

/-- What the lead's identity, the state and the flags are of a job whose image was restored. -/
theorem restoredHere_frame {s u : State} (hjob : ∃ k, unfaulted u = { unfaulted s with snapK := k }) (hid : devId u = devId s) :
    (restoredHere u).job.restoredHere = true ∧ (restoredHere u).job.st = s.job.st ∧ jobLead (restoredHere u).job = jobLead s.job ∧
      devId (restoredHere u) = devId s := by
  obtain ⟨k, hjob⟩ := hjob
  have hst : u.job.st = s.job.st := (congrArg Job.st hjob : (unfaulted u).st = _)
  have hleads : u.job.leads = s.job.leads := (congrArg Job.leads hjob : (unfaulted u).leads = _)
  have hgone : u.job.gone = s.job.gone := (congrArg Job.gone hjob : (unfaulted u).gone = _)
  refine ⟨rfl, hst, ?_, hid⟩
  simp only [restoredHere, State.withJob, jobLead, hleads, hgone]

/-- RESUME of a member that is not the lead restores the job here, and RESTORED goes to the lead (R566). -/
theorem restoreHere_restores {s : State} {d : BitVec 14} (hst : s.job.st = .preempted) (hhere : s.job.restoredHere = false) (hwiped : s.job.wiped = false)
    (hlead : jobLead s.job = some d) (hother : d ≠ devId s) : (restoreHere s).job.restoredHere = true ∧ (restoreHere s).job.st = .preempted := by
  obtain ⟨hjob, hid⟩ := loadImage_frame s
  obtain ⟨hflag, hst', hlead', hid'⟩ := restoredHere_frame hjob hid
  rw [restoreHere_eq hst hhere hwiped, toLead_elsewhere (hlead'.trans hlead) (by rwa [hid']), tc0Send_job]
  exact ⟨hflag, hst'.trans hst⟩

/-! ### The commands -/

theorem loadCmd_loads {s t : State} {n cid addr len : Nat} (htake : hostTake s n 1 cid = some t) (hgood : sqBad (sqEntry s n) 1 cid = false)
    (hspells : sqSpells (sqEntry s n) 1 cid [(8, 8, addr), (16, 8, len)] = true) (hst : s.job.st = .empty) (hready : regF s aBoot 8 8 = 1)
    (hwipe : s.sec.wipe = none) (hmove : s.sec.move = none) (hjobs : lcNoJobs s = false) (hload : loadBad t addr len (imgFront t addr) = none) :
    loadCmd s n cid addr len false = hostDone (loadImageFile t addr (imgFront t addr)) n cid 0 0 0 := by
  obtain ⟨p, rfl⟩ := hostTake_host htake
  refine (hostRun_takes htake hgood hspells (stIn_of (by simp [hst])) rfl _).trans ?_
  dsimp only
  have hready' : ¬ regF { s with host := p } aBoot 8 8 = 0 := fun h => by
    have : regF s aBoot 8 8 = 0 := h
    omega
  have hjobs' : lcNoJobs { s with host := p } = false := hjobs
  rw [if_neg hready', if_neg (by simp [hwipe, hmove]), if_neg (by simp [hjobs']), if_neg (by decide), hload]

theorem startCmd_starts {s t : State} {n cid : Nat} (htake : hostTake s n 2 cid = some t) (hgood : sqBad (sqEntry s n) 2 cid = false)
    (hspells : sqSpells (sqEntry s n) 2 cid [] = true) (hst : s.job.st = .loaded) :
    startCmd s n cid = toLead (wardStart (jobTo t .starting)) 2 (ctlMsg t 1 0 0) (fun s => readyTake s (devId s)) :=
  hostRun_takes htake hgood hspells (stIn_of (by simp [hst])) rfl _

/-- The state in which a preempt goes to the members. -/
def preemptSent (t : State) (n cid : Nat) : State :=
  let s1 := hostPost t n cid true 0 0 0
  relayOwn { s1 with ldg := { s1.ldg with segPreempts := s1.ldg.segPreempts + 1 } } 2 (ctlMsg s1 3 0 0)

theorem preemptSent_frame (t : State) (n cid : Nat) :
    (preemptSent t n cid).job = t.job ∧ (preemptSent t n cid).seq = t.seq ∧ (preemptSent t n cid).cores = t.cores ∧
      (preemptSent t n cid).part832 = t.part832 ∧ (preemptSent t n cid).ldg.segPreempts = t.ldg.segPreempts + 1 := by
  refine ⟨by simp [preemptSent, relayOwn], by simp [preemptSent, relayOwn], by simp [preemptSent, relayOwn], by simp [preemptSent, relayOwn], ?_⟩
  have hsent := segPreempts_of_unheld (unheld_tc0SendAll 2 (ctlMsg (hostPost t n cid true 0 0 0) 3 0 0)
    (relayTo { hostPost t n cid true 0 0 0 with ldg := { (hostPost t n cid true 0 0 0).ldg with segPreempts := (hostPost t n cid true 0 0 0).ldg.segPreempts + 1 } }
      (rankOf (hostPost t n cid true 0 0 0).job.members (devId (hostPost t n cid true 0 0 0))))
    { hostPost t n cid true 0 0 0 with ldg := { (hostPost t n cid true 0 0 0).ldg with segPreempts := (hostPost t n cid true 0 0 0).ldg.segPreempts + 1 } })
  refine Eq.trans hsent ?_
  dsimp only
  rw [hostPost_ldg]

theorem preemptCmd_halts {s t : State} {n cid : Nat} (htake : hostTake s n 3 cid = some t) (hgood : sqBad (sqEntry s n) 3 cid = false)
    (hspells : sqSpells (sqEntry s n) 3 cid [] = true) (hst : s.job.st = .running) : preemptCmd s n cid = preemptHere (preemptSent t n cid) := by
  have hjob : t.job = s.job := by obtain ⟨p, rfl⟩ := hostTake_host htake; rfl
  refine (hostRun_takes htake hgood hspells (stIn_of (by simp [hst])) rfl _).trans (if_neg ?_)
  rw [hostPost_job, hjob, hst]
  decide

theorem resumeCmd_restores {s t : State} {n cid : Nat} (htake : hostTake s n 4 cid = some t) (hgood : sqBad (sqEntry s n) 4 cid = false)
    (hspells : sqSpells (sqEntry s n) 4 cid [] = true) (hst : s.job.st = .preempted) :
    resumeCmd s n cid = restoreHere (relayOwn t 2 (ctlMsg t 6 0 0)) := hostRun_takes htake hgood hspells (stIn_of (by simp [hst])) rfl _

theorem unloadCmd_ends {s t : State} {n cid : Nat} (htake : hostTake s n 5 cid = some t) (hgood : sqBad (sqEntry s n) 5 cid = false)
    (hspells : sqSpells (sqEntry s n) 5 cid [] = true) (hst : stIn s [.loaded, .preempted, .done, .faulted, .recovered] = true) :
    unloadCmd s n cid = jobEnd (hostDoneAll t 4 1 0 0) := hostRun_takes htake hgood hspells hst rfl _

theorem restartCmd_loads {s t : State} {n cid addr len b : Nat} (htake : hostTake s n 6 cid = some t) (hgood : sqBad (sqEntry s n) 6 cid = false)
    (hspells : sqSpells (sqEntry s n) 6 cid [(8, 8, addr), (16, 8, len), (24, 8, b)] = true) (hst : s.job.st = .recovered)
    (hclean : memPoisoned s (regF s aMemWtBase 45 16 * 0x10000) wtBytes = false) (hload : restartBad t addr len b (imgFront t addr) = none) :
    restartCmd s n cid addr len b false = hostDone (restartImageFile t addr b (imgFront t addr)) n cid 0 0 0 := by
  obtain ⟨p, rfl⟩ := hostTake_host htake
  refine (hostRun_takes htake hgood hspells (stIn_of (by simp [hst])) rfl _).trans ?_
  have hclean' : memPoisoned { s with host := p } (regF { s with host := p } aMemWtBase 45 16 * 0x10000) wtBytes = false := hclean
  dsimp only
  rw [if_neg (by simp [hclean']), hload]

theorem snapshotCmd_asks {s t : State} {n cid k tab : Nat} (htake : hostTake s n 7 cid = some t) (hgood : sqBad (sqEntry s n) 7 cid = false)
    (hspells : sqSpells (sqEntry s n) 7 cid [(8, 1, tab), (16, 8, k)] = true) (hst : stIn s [.loaded, .starting, .running, .preempted] = true)
    (htab : tab < 8) (hclean : memPoisoned s (snapArea s tab) 128 = false) :
    snapshotCmd s n cid tab k = hostDone (snapAsk (setReg t aTrnSnapStep (BitVec.ofNat 64 k)) tab) n cid 0
      (regF (snapAsk (setReg t aTrnSnapStep (BitVec.ofNat 64 k)) tab) aTrnSnapStatus 9 8) 0 := by
  obtain ⟨p, rfl⟩ := hostTake_host htake
  have hclean' : memPoisoned { s with host := p } (snapArea { s with host := p } tab) 128 = false := hclean
  refine (hostRun_takes htake hgood hspells hst (decide_eq_true htab) _).trans ?_
  dsimp only
  rw [if_neg (by simp [hclean'])]

theorem wipeOndieCmd_wipes {s t : State} {n cid : Nat} (htake : hostTake s n 8 cid = some t) (hgood : sqBad (sqEntry s n) 8 cid = false)
    (hspells : sqSpells (sqEntry s n) 8 cid [] = true) (hst : s.job.st = .empty ∨ s.job.st = .preempted) (hhere : s.job.restoredHere = false) :
    wipeOndieCmd s n cid = wipeStart t 1 (.ondie n cid) := by
  obtain ⟨p, rfl⟩ := hostTake_host htake
  refine (hostRun_takes htake hgood hspells (stIn_of (by rcases hst with h | h <;> simp [h])) rfl _).trans ?_
  dsimp only
  rw [if_neg (by simp [hhere])]

/-- A wipe of the cores alone leaves the job's state. -/
theorem wipeStart_ondie (s : State) (why : WipeWhy) : (wipeStart s 1 why).cores = [] ∧ (wipeStart s 1 why).job.st = s.job.st := by
  obtain ⟨r, c, h⟩ := wipeStart_eq s 1 why
  rw [h]
  simp [wipeClear, wipeDie, draw]

/-- Settles O43. Each command runs on the state that took it, which is the module but for the host port; its own lemma says what it leaves. -/
theorem hostJobResults : Obligations.HostJobResults := by
  intro s s0 q cid
  refine ⟨fun addr len htake hgood hspells hst hready hwipe hmove hjobs hload => ?_, fun d htake hgood hspells hst hlead hother => ?_,
    fun htake hgood hspells hst hseq hopen hdev => ?_, fun d htake hgood hspells hst hhere hwiped hlead hother => ?_,
    fun htake hgood hspells hst => ?_, fun addr len b htake hgood hspells hst hclean hload => ?_,
    fun t k htake hgood hspells hst ht hidle hstep hen hvalid hclean => ?_, fun htake hgood hspells hst hhere => ?_⟩
  · obtain ⟨hloaded, hmembers, hseq⟩ := loadImageFile_loads s0 addr.toNat (imgFront s0 addr.toNat)
    refine ⟨_, congrArg Host.Outcome.next (loadCmd_loads htake hgood hspells hst hready hwipe hmove hjobs hload), hloaded, hmembers, ?_⟩
    rw [hseq]
    exact ⟨rfl, rfl⟩
  · obtain ⟨p, rfl⟩ := hostTake_host htake
    obtain ⟨hst', m, hm, hkind, hdst, hbody⟩ := startHere_sends (s := { s with host := p }) hlead hother (fun s => readyTake s (devId s))
    exact ⟨_, m, congrArg Host.Outcome.next (startCmd_starts htake hgood hspells hst), hst', hm, hkind, hdst, hbody⟩
  · obtain ⟨p, rfl⟩ := hostTake_host htake
    obtain ⟨hjob, hseq', hcores, hpart, hcount⟩ := preemptSent_frame { s with host := p } q.toNat cid.toNat
    have hopen' : allHalted (preemptSent { s with host := p } q.toNat cid.toNat) = false := by
      unfold allHalted nCores
      rw [hcores, hpart]
      exact hopen
    obtain ⟨hst', hhalting, hldg⟩ := preemptHere_running ((congrArg Job.st hjob).trans hst) ((congrArg Seq.st hseq').trans hseq) hopen'
      ((congrArg Job.device hjob).trans hdev)
    exact ⟨_, congrArg Host.Outcome.next (preemptCmd_halts htake hgood hspells hst), hst', hhalting, (segPreempts_of_unheld hldg).trans hcount⟩
  · obtain ⟨p, rfl⟩ := hostTake_host htake
    have hjob : (relayOwn { s with host := p } 2 (ctlMsg { s with host := p } 6 0 0)).job = s.job := by simp [relayOwn]
    have hid : devId (relayOwn { s with host := p } 2 (ctlMsg { s with host := p } 6 0 0)) = devId s :=
      devId_congr (tc0SendAll_reg _ _ _ _ aFab (by decide))
    obtain ⟨hflag, hst'⟩ := restoreHere_restores ((congrArg Job.st hjob).trans hst) ((congrArg Job.restoredHere hjob).trans hhere)
      ((congrArg Job.wiped hjob).trans hwiped) ((congrArg jobLead hjob).trans hlead) (hid ▸ hother)
    exact ⟨_, congrArg Host.Outcome.next (resumeCmd_restores htake hgood hspells hst), hflag, hst'⟩
  · obtain ⟨w, hw, -, hwhy⟩ := wipeStart_wipe (jobTo (hostDoneAll s0 4 1 0 0) .wiping) 2 .jobEnd
    obtain ⟨hcores, -⟩ := wipeStart_clears (jobTo (hostDoneAll s0 4 1 0 0) .wiping) .jobEnd
    have hst' := wipeStart_jobSt (jobTo (hostDoneAll s0 4 1 0 0) .wiping) .jobEnd
    rw [jobTo_job] at hst'
    exact ⟨_, w, congrArg Host.Outcome.next (unloadCmd_ends htake hgood hspells hst), hst', hw, hwhy, hcores⟩
  · obtain ⟨hloaded, hstep, hcores⟩ := restartImageFile_loads s0 addr.toNat b.toNat (imgFront s0 addr.toNat)
    exact ⟨_, congrArg Host.Outcome.next (restartCmd_loads htake hgood hspells hst hclean hload), hloaded, hstep.trans (by simp), hcores⟩
  · have hgo := snapshotCmd_asks htake hgood hspells hst ht hclean
    obtain ⟨p, rfl⟩ := hostTake_host htake
    have hasks := snapshot_asks (s := { s with host := p }) ht hidle hstep hen ((snapValid_withHost s p _).trans hvalid)
    rw [BitVec.ofNat_toNat, BitVec.setWidth_eq] at hgo
    generalize snapAsk (setReg { s with host := p } aTrnSnapStep k) t.toNat = u at hasks hgo
    obtain ⟨hres, hk, hasked, htab⟩ := hasks
    exact ⟨u, congrArg Host.Outcome.next (hgo.trans (by rw [hres])), hk, hasked, htab⟩
  · obtain ⟨p, rfl⟩ := hostTake_host htake
    obtain ⟨w, hw, -, hwhy⟩ := wipeStart_wipe { s with host := p } 1 (.ondie q.toNat cid.toNat)
    obtain ⟨hcores, hst'⟩ := wipeStart_ondie { s with host := p } (.ondie q.toNat cid.toNat)
    exact ⟨_, w, congrArg Host.Outcome.next (wipeOndieCmd_wipes htake hgood hspells hst hhere), hw, hwhy, hcores, hst'⟩

end Sys2Proof.Machine
end

section
/-! PROOFS. O38: the commands under the IAK that their state accepts, and the feed-tag check, whose outcome start-up keeps as it goes on. -/

namespace Sys2Proof.Machine

/-! ### The outcome of the feed-tag check (R542) -/

/-- That the check has run, and the places of the partners that it refused. -/
def feedOf (s : State) : Bool × List Nat := (s.sec.feedDone, s.job.feedBad)

theorem feedOf_congr {s t : State} (hsec : t.sec = s.sec) (hjob : t.job = s.job) : feedOf t = feedOf s := by
  unfold feedOf
  rw [hsec, hjob]

theorem feedOf_stageTo (s : State) (n : Nat) : feedOf (stageTo s n) = feedOf s := rfl

theorem feedOf_record (s : State) (cls : Nat) (source code : Word16) (payload : Nat) : feedOf (record s cls source code payload) = feedOf s :=
  feedOf_congr (by simp) (by simp)

theorem feedOf_readyCheck (s : State) : feedOf (readyCheck s) = feedOf s := by
  rcases readyCheck_eq s with h | h <;> rw [h]
  exact feedOf_congr (by simp) (by simp)

theorem feedOf_mllLoad (s : State) (ok : Bool) : feedOf (mllLoad s ok) = feedOf s := feedOf_congr (by simp) (by simp)

theorem feedOf_wipeAfter (s : State) (why : WipeWhy) : feedOf (wipeAfter s why) = feedOf s := by
  have hsec := wipeAfter_sec s why
  cases why with
  | start => exact feedOf_readyCheck s
  | jobEnd => simp only [feedOf, hsec]; simp [wipeAfter]
  | ondie q cid => exact feedOf_congr hsec (by simp [wipeAfter])
  | move => rfl

theorem feedOf_wipeAfters (l : List WipeWhy) : ∀ s : State, feedOf (l.foldl wipeAfter s) = feedOf s := by
  induction l with
  | nil => exact fun s => rfl
  | cons why l ih => exact fun s => (ih _).trans (feedOf_wipeAfter s why)

theorem feedOf_wipeDone (s : State) (w : Wipe) (us : BitVec 32) (ok : Bool) : feedOf (wipeDone s w us ok) = feedOf s := by
  simp only [wipeDone, feedOf_wipeAfters]
  split <;> simp [feedOf]

theorem feedOf_deviceFatal (s : State) (source code : Word16) (payload : Nat) : feedOf (deviceFatal s source code payload) = feedOf s := by
  simp [feedOf, deviceFatal]

theorem feedOf_wipeFailed (s : State) : feedOf (wipeFailed s) = feedOf s := by
  obtain ⟨mv, h⟩ := wipeFailed_eq s
  rw [h, feedOf_deviceFatal]
  simp [feedOf, wipeFailShown]

theorem feedOf_wipeEnds (s : State) (fails : Bool) (us : BitVec 32) (ok : Bool) : feedOf (wipeEnds s fails us ok) = feedOf s := by
  unfold wipeEnds
  split
  · rfl
  · split
    · rfl
    · split
      · exact feedOf_wipeFailed s
      · exact feedOf_wipeDone s _ us ok

theorem wipeClear_feedBad (s : State) (scope : Nat) : (wipeClear s scope).job.feedBad = s.job.feedBad := by
  unfold wipeClear
  split <;> rfl

theorem feedOf_wipeStart (s : State) (scope : Nat) (why : WipeWhy) : feedOf (wipeStart s scope why) = feedOf s := by
  obtain ⟨w, hw⟩ := wipeStart_sec s scope why
  obtain ⟨r, c, h⟩ := wipeStart_eq s scope why
  refine Prod.ext (by rw [feedOf, hw]; rfl) ?_
  rw [feedOf, h]
  exact wipeClear_feedBad s scope

theorem feedOf_bootWipe (s : State) (o : BootOutcome) : feedOf (bootWipe s o) = feedOf s := by
  have hbegun : feedOf (wipeStart { stageTo s 9 with sec := { (stageTo s 9).sec with wipe := none } } 3 .start) = feedOf s := feedOf_wipeStart _ 3 .start
  simp only [bootWipe]
  split
  · exact (feedOf_congr (by simp) (by simp)).trans ((feedOf_wipeFailed _).trans hbegun)
  · rw [feedOf_mllLoad, feedOf_stageTo]
    split
    · exact (feedOf_wipeEnds ..).trans hbegun
    · exact hbegun

theorem feedOf_bootEnum (s : State) (o : BootOutcome) : feedOf (bootEnum s o) = feedOf s := by
  simp only [bootEnum, feedOf_readyCheck, apply_ite feedOf]
  simp [feedOf, stageTo]

/-- Start-up that goes on keeps the outcome of the check. -/
theorem feedOf_bootOn (s : State) : feedOf (bootOn s) = feedOf s := by
  unfold bootOn
  split
  · rfl
  · next o ho =>
    dsimp only
    split
    · exact feedOf_bootEnum _ o
    · split
      · rw [feedOf_bootEnum, feedOf_bootWipe]; rfl
      · rfl

/-! ### One partner of the check -/

theorem feedOne_cfg (s : State) (d : BitVec 14) (tag : Nat) (strict : Bool) (pos : Nat) : (feedOne s d tag strict pos).cfg = s.cfg := by
  simp only [feedOne]
  repeat' split
  all_goals simp

theorem feedOne_sec (s : State) (d : BitVec 14) (tag : Nat) (strict : Bool) (pos : Nat) : (feedOne s d tag strict pos).sec = s.sec := by
  simp only [feedOne]
  repeat' split
  all_goals simp

/-- The check of a partner takes no other off the list. -/
theorem feedOne_keeps {s : State} {d : BitVec 14} {tag pos k : Nat} {strict : Bool} (h : k ∈ s.job.feedBad) :
    k ∈ (feedOne s d tag strict pos).job.feedBad := by
  simp only [feedOne]
  repeat' split
  all_goals simp [h]

/-- A strict partner of the module's own tag is refused. -/
theorem feedOne_refuses {s : State} {tag : Nat} (d : BitVec 14) (pos : Nat) (h : tag = fieldAt s.cfg 42 2) :
    pos ∈ (feedOne s d tag true pos).job.feedBad := by
  simp [feedOne, h]

/-- The check of one partner of the list with its place. -/
def feedPlace (s : State) (p : (BitVec 14 × Nat × Bool) × Nat) : State := feedOne s p.1.1 p.1.2.1 p.1.2.2 p.2

theorem feedPlaces_frame (l : List ((BitVec 14 × Nat × Bool) × Nat)) :
    ∀ s : State, (l.foldl feedPlace s).cfg = s.cfg ∧ (l.foldl feedPlace s).sec = s.sec ∧ ∀ k ∈ s.job.feedBad, k ∈ (l.foldl feedPlace s).job.feedBad := by
  induction l with
  | nil => exact fun s => ⟨rfl, rfl, fun _ h => h⟩
  | cons p l ih =>
    intro s
    obtain ⟨hcfg, hsec, hbad⟩ := ih (feedPlace s p)
    exact ⟨hcfg.trans (feedOne_cfg ..), hsec.trans (feedOne_sec ..), fun k h => hbad k (feedOne_keeps h)⟩

theorem feedPlaces_refuse {d : BitVec 14} {tag pos : Nat} (l : List ((BitVec 14 × Nat × Bool) × Nat)) (hmem : ((d, tag, true), pos) ∈ l) :
    ∀ s : State, tag = fieldAt s.cfg 42 2 → pos ∈ (l.foldl feedPlace s).job.feedBad := by
  induction l with
  | nil => cases hmem
  | cons p l ih =>
    intro s htag
    rcases List.mem_cons.1 hmem with rfl | hmem
    · exact (feedPlaces_frame l _).2.2 pos (feedOne_refuses d pos htag)
    · exact ih hmem _ (htag.trans (by rw [feedPlace, feedOne_cfg]))

/-- The module with the check of the partners of its board done. -/
def feedNear (s : State) : State := (cfgPartners s).zipIdx.foldl feedPlace { s with sec := { s.sec with feedDone := true } }

/-- The check runs once, where a configuration stands and no link that it uses is still in training. -/
theorem feedCheck_runs {s : State} (hcfg : s.cfg ≠ []) (hdone : s.sec.feedDone = false)
    (hlinks : ∀ k, k < 36 → (cfgLink s.cfg k).1 = true → (getLink s k).st = .up ∨ (getLink s k).st = .failed) :
    feedCheck s = match cfgFar (feedNear s) with
      | some (d, t, st, _) => feedOne (feedNear s) d t st 7
      | none => feedNear s := by
  have hwait : (List.range 36).any (fun k => (cfgLink s.cfg k).1 && (getLink s k).st != .up && (getLink s k).st != .failed) = false := by
    refine List.any_eq_false.2 fun k hk => ?_
    rw [Bool.not_eq_true, Bool.and_assoc, Bool.and_eq_false_imp]
    intro hused
    rcases hlinks k (List.mem_range.1 hk) hused with h | h <;> rw [h] <;> rfl
  refine if_neg ?_
  rw [hwait, hdone]
  simpa using hcfg

/-- What the check leaves. -/
theorem feedCheck_checks {s : State} (hcfg : s.cfg ≠ []) (hdone : s.sec.feedDone = false)
    (hlinks : ∀ k, k < 36 → (cfgLink s.cfg k).1 = true → (getLink s k).st = .up ∨ (getLink s k).st = .failed) :
    (feedCheck s).sec.feedDone = true ∧
      (∀ i d tag, (cfgPartners s)[i]? = some (d, tag, true) → tag = fieldAt s.cfg 42 2 → i ∈ (feedCheck s).job.feedBad) ∧
      ∀ d tag half, cfgFar s = some (d, tag, true, half) → tag = fieldAt s.cfg 42 2 → 7 ∈ (feedCheck s).job.feedBad := by
  obtain ⟨hcfg', hsec, -⟩ := feedPlaces_frame (cfgPartners s).zipIdx { s with sec := { s.sec with feedDone := true } }
  have hnear (i : Nat) (d : BitVec 14) (tag : Nat) (hi : (cfgPartners s)[i]? = some (d, tag, true)) (htag : tag = fieldAt s.cfg 42 2) :
      i ∈ (feedNear s).job.feedBad :=
    feedPlaces_refuse _ (List.mk_mem_zipIdx_iff_getElem?.2 hi) _ htag
  have hfar : cfgFar (feedNear s) = cfgFar s := by
    unfold cfgFar
    rw [show (feedNear s).cfg = s.cfg from hcfg']
  have hrun := feedCheck_runs hcfg hdone hlinks
  rw [hfar] at hrun
  rw [hrun]
  split
  · next d t st half hd =>
    refine ⟨?_, fun i d tag hi htag => feedOne_keeps (hnear i d tag hi htag), fun d' tag half' h htag => ?_⟩
    · rw [feedOne_sec]
      exact congrArg Sec.feedDone hsec
    · rw [hd, Option.some.injEq, Prod.mk.injEq, Prod.mk.injEq, Prod.mk.injEq] at h
      obtain ⟨rfl, rfl, rfl, rfl⟩ := h
      exact feedOne_refuses d 7 (htag.trans (by rw [show (feedNear s).cfg = s.cfg from hcfg']))
  · next hd => exact ⟨congrArg Sec.feedDone hsec, hnear, fun d tag half h => absurd h (by simp [hd])⟩

/-! ### The commands under the IAK (R508 to R510) -/

/-- What a command begins that it is to begin at once: its transition, with its full wipe. -/
def MoveBegun (s : State) (m : LcMove) (t : State) : Prop :=
  ∃ w, t.sec.move = some m ∧ t.sec.wipe = some w ∧ w.scope = 3 ∧ w.why = [.move] ∧ t.cores = [] ∧ t.mem.poison = [] ∧
    t.sec.fuses = s.sec.fuses ∧ t.nor = moveFlash s m

theorem moveStart_begun {s : State} (m : LcMove) (hprov : s.sec.provisioning = false) (hseq : s.seq.st = .idle) (hjob : jobLoaded s = false)
    (hwipe : s.sec.wipe = none) : MoveBegun s m (moveStart s m) := by
  obtain ⟨⟨w, hsec, hscope, hwhy⟩, hcores, hpoison, hnor⟩ := moveStart_leaves m hprov hseq hjob hwipe
  exact ⟨w, by rw [hsec], by rw [hsec], hscope, hwhy, hcores, hpoison, by rw [hsec], hnor⟩

theorem MoveBegun.secNonce {s t : State} {m : LcMove} (h : MoveBegun s m t) : MoveBegun s m (secNonce t) := by
  obtain ⟨w, hmove, hwipe, hscope, hwhy, hcores, hpoison, hfuses, hnor⟩ := h
  obtain ⟨⟨n, n', hsec⟩, hcores', hmem, hnor', -⟩ := secNonce_frame t
  exact ⟨w, by rw [hsec, hmove], by rw [hsec, hwipe], hscope, hwhy, hcores'.trans hcores, by rw [hmem, hpoison], by rw [hsec, hfuses],
    hnor'.trans hnor⟩

/-- A command that its state and its signer allow is accepted. -/
theorem secAccept_moves {s : State} {typ : Nat} {key : List Byte} {m : LcMove} (hearly : cmdEarly s typ key = .ok m) (hsigner : signerBad s = none) :
    secAccept s typ key = secNonce (moveStart s m) := by
  rw [secAccept, hearly, hsigner]

theorem cmdEarly_ok {s : State} {typ : Nat} {key : List Byte} {m : LcMove} (hmove : s.sec.move = none) (hcmd : cmdMove s typ key = some m)
    (hslot : typ = 0x0101 → slotFree s ≠ none) : cmdEarly s typ key = .ok m := by
  unfold cmdEarly
  rw [if_neg (by simp [hmove]), hcmd]
  refine if_neg fun h => hslot h.1 (by simpa using h.2)

/-- What each command is: a command of its type under the IAK, or a relock. -/
theorem exec_moves {s : State} {key : List Byte} {i : Instr} {m : LcMove} (hmove : s.sec.move = none)
    (h : (i = .registration key ∧ m = .register key ∧ lcState s = .provisioned ∧ slotFree s ≠ none ∧ signerBad s = none) ∨
      (i = .unlock ∧ m = .unlock ∧ lcState s = .deployed ∧ signerBad s = none) ∨
      (i = .deregistration ∧ m = .deregister ∧ (lcState s = .deployed ∨ lcState s = .service) ∧ signerBad s = none) ∨
      (i = .retire ∧ m = .retire ∧ (lcState s = .provisioned ∨ lcState s = .deployed ∨ lcState s = .service) ∧ signerBad s = none) ∨
      (i = .secRelock ∧ m = .relock ∧ lcState s = .service)) :
    exec i s = .next (secNonce (moveStart s m)) ∨ exec i s = .next (moveStart s m) := by
  rcases h with ⟨rfl, rfl, hst, hfree, hsigner⟩ | ⟨rfl, rfl, hst, hsigner⟩ | ⟨rfl, rfl, hst, hsigner⟩ | ⟨rfl, rfl, hst, hsigner⟩ | ⟨rfl, rfl, hst⟩
  · exact .inl (congrArg Host.Outcome.next (secAccept_moves (cmdEarly_ok hmove (by simp [cmdMove, hst]) fun _ => hfree) hsigner))
  · exact .inl (congrArg Host.Outcome.next (secAccept_moves (cmdEarly_ok hmove (by simp [cmdMove, hst]) (fun h => absurd h (by decide))) hsigner))
  · have hcmd : cmdMove s 0x0103 [] = some .deregister := by rcases hst with h | h <;> simp [cmdMove, h]
    exact .inl (congrArg Host.Outcome.next (secAccept_moves (cmdEarly_ok hmove hcmd (fun h => absurd h (by decide))) hsigner))
  · have hcmd : cmdMove s 0x0104 [] = some .retire := by rcases hst with h | h | h <;> simp [cmdMove, h]
    exact .inl (congrArg Host.Outcome.next (secAccept_moves (cmdEarly_ok hmove hcmd (fun h => absurd h (by decide))) hsigner))
  · exact .inr (congrArg Host.Outcome.next (if_pos ⟨hst, by simp [hmove]⟩))

/-- Settles O38. The check's outcome is a part of the module that the rest of start-up keeps. -/
theorem securityCommandResults : Obligations.SecurityCommandResults := by
  refine ⟨fun s key i m hcase hmove hprov hseq hjob hwipe => ?_, fun s hcfg hdone hlinks => ?_⟩
  · have hbegun := moveStart_begun m hprov hseq hjob hwipe
    have hgoes : ∃ t, exec i s = .next t ∧ MoveBegun s m t := by
      rcases exec_moves hmove hcase with h | h
      · exact ⟨_, h, hbegun.secNonce⟩
      · exact ⟨_, h, hbegun⟩
    obtain ⟨t, ht, w, hmoved⟩ := hgoes
    exact ⟨t, w, ht, hmoved⟩
  · obtain ⟨hchecked, hnear, hfar⟩ := feedCheck_checks hcfg hdone hlinks
    obtain ⟨hkeepDone, hkeepBad⟩ := Prod.ext_iff.1 (feedOf_bootOn (feedCheck s))
    refine ⟨_, rfl, hkeepDone.trans hchecked, fun i d tag hi htag => ?_, fun d tag half hd htag => ?_⟩
    · exact (congrArg (i ∈ ·) hkeepBad).mpr (hnear i d tag hi htag)
    · exact (congrArg (7 ∈ ·) hkeepBad).mpr (hfar d tag half hd htag)

end Sys2Proof.Machine
end

section
/-! PROOFS. O44 and O50, a reset's start: what goes down with the module (R530, R533, R534) leaves its flash, its fuses and its clock's count. -/

namespace Sys2Proof.Machine

/-! ### Flash and time base -/

/-- The flash and the time base. -/
def norTim (s : State) : Memory × Tim := (s.nor, s.tim)

@[simp] theorem norTim_mk (a b c d e f g h i j k l m n o p q r t u v w) :
    norTim (State.mk a b c d e f g h i j k l m n o p q r t u v w) = (u, p) := Prod.ext rfl rfl

@[simp] theorem norTim_eta (s : State) : (s.nor, s.tim) = norTim s := Prod.ext rfl rfl

@[simp] theorem norTim_ite (c : Prop) [Decidable c] (s t : State) : norTim (if c then s else t) = if c then norTim s else norTim t :=
  apply_ite _ _ _ _

@[simp] theorem norTim_foldl {α : Type} (f : State → α → State) (h : ∀ s x, norTim (f s x) = norTim s) (l : List α) (s : State) :
    norTim (l.foldl f s) = norTim s := by
  induction l generalizing s with
  | nil => rfl
  | cons x l ih => exact (ih _).trans (h s x)

theorem norTim_of_kept {s t : State} (h : kept t = kept s) : norTim t = norTim s :=
  Prod.ext (congrArg Kept.nor h) (congrArg Kept.tim h)

@[simp] theorem setReg_norTim (s a v) : norTim (setReg s a v) = norTim s := Prod.ext rfl rfl

@[simp] theorem setRegF_norTim (s a hi lo x) : norTim (setRegF s a hi lo x) = norTim s := Prod.ext rfl rfl

@[simp] theorem record_norTim (s cls source code payload) : norTim (record s cls source code payload) = norTim s := norTim_of_kept (by simp)

@[simp] theorem ldgDo_norTim (s f) : norTim (ldgDo s f) = norTim s := norTim_of_kept (by simp)

@[simp] theorem devTouch_norTim (write a n s) : norTim (devTouch write a n s) = norTim s := norTim_of_kept (by simp)

@[simp] theorem meetBy_norTim (s reads) : norTim (meetBy s reads) = norTim s := norTim_of_kept (by simp)

@[simp] theorem jobTo_norTim (s j) : norTim (jobTo s j) = norTim s := norTim_of_kept (by simp)

@[simp] theorem hostDoneAll_norTim (s op status r0 r1) : norTim (hostDoneAll s op status r0 r1) = norTim s := norTim_of_kept (by simp)

@[simp] theorem rawPut_norTim (s a bs) : norTim (rawPut s a bs) = norTim s := by simp [rawPut]

@[simp] theorem rawBlit_norTim (s a n m bad) : norTim (rawBlit s a n m bad) = norTim s := by simp [rawBlit]

/-! ### The job of a module that goes down -/

theorem saveCtx_norTim (s) : norTim (saveCtx s) = norTim s := by simp [saveCtx]

@[simp] theorem saveSync_norTim (base s) : norTim (saveSync base s) = norTim s := by simp [saveSync]

@[simp] theorem saveLcu_norTim (base c s) : norTim (saveLcu base c s) = norTim s := by simp [saveLcu]

@[simp] theorem saveCe_norTim (base e s) : norTim (saveCe base e s) = norTim s := by simp [saveCe]

@[simp] theorem saveCore_norTim (base c s) : norTim (saveCore base c s) = norTim s := by simp [saveCore]

@[simp] theorem hiveClean_norTim (s) : norTim (hiveClean s) = norTim s := by
  rw [hiveClean, norTim_foldl _ fun s line => norTim_of_kept (by simp)]
  rfl

@[simp] theorem saveImage_norTim (s) : norTim (saveImage s) = norTim s := by simp [saveImage]

@[simp] theorem jobFatal_norTim (s core idx code source payload) : norTim (jobFatal s core idx code source payload) = norTim s :=
  norTim_of_kept (by simp)

@[simp] theorem noticeSend_norTim (s gone cause code) : norTim (noticeSend s gone cause code) = norTim s := norTim_of_kept (by simp)

@[simp] theorem wipeStart_norTim (s scope why) : norTim (wipeStart s scope why) = norTim s := by
  obtain ⟨r, c, h⟩ := wipeStart_eq s scope why
  have hclear : norTim (wipeClear s scope) = norTim s := by
    unfold wipeClear
    split <;> rfl
  rw [h]
  exact hclear

@[simp] theorem holdZero_norTim (s) : norTim (holdZero s) = norTim s := by simp [holdZero, jobEnd]

@[simp] theorem haltDone_norTim (s) : norTim (haltDone s) = norTim s := by
  unfold haltDone
  split <;> simp [saveCtx_norTim]

@[simp] theorem faultEnd_norTim (s) : norTim (faultEnd s) = norTim s := by simp [faultEnd]

theorem moveJob_norTim (s) : norTim (moveJob s) = norTim s := by
  simp only [moveJob]
  repeat' split
  all_goals simp

/-! ### The Ledger of a module that goes down -/

@[simp] theorem flushNext_norTim (s) : norTim (flushNext s) = norTim s := by simp [flushNext]

@[simp] theorem lostNote_norTim (s) : norTim (lostNote s) = norTim s := by simp [lostNote]

@[simp] theorem flushDone_norTim (s) : norTim (flushDone s) = norTim s := by simp [flushDone]

@[simp] theorem clearApply_norTim (s seq ep cmd iak) : norTim (clearApply s seq ep cmd iak) = norTim s := by simp [clearApply]

@[simp] theorem flushEnd_norTim (s verifies) : norTim (flushEnd s verifies) = norTim s := by
  simp only [flushEnd]
  repeat' split
  all_goals simp

theorem flushAll_norTim (s) : norTim (flushAll s) = norTim s := by simp [flushAll]

theorem thaw_norTim (s cause) : norTim (thaw s cause) = norTim s := norTim_of_kept (by simp)

theorem draw_norTim (s) : norTim (draw s).2 = norTim s := norTim_of_kept (by simp)

theorem ldgSpill_norTim (s) : norTim (ldgSpill s) = norTim s := by simp [ldgSpill]

/-! ### The reset -/

/-- The module as it goes down: its job ends where a lock ends it, its Ledger is written as far as it still works. -/
def goesDown (s : State) (cause : Nat) : State :=
  let s1 := record (if lcState s = .service then moveJob s else s) kEvent srcMgmt cBootReset cause
  let s4 := ldgSpill (thaw (draw (draw s1).2).2 ((Config.freeWord (draw s1).1).toNat % 16))
  if bitOf (Config.freeWord (draw (draw s1).2).1).toNat 0 then flushAll s4 else s4

theorem resetDown_eq (s : State) (cause : Nat) :
    resetDown s cause = causeSet (coldReset (goesDown s cause)) cause (regF s aBootCause 63 32 + 1) := rfl

theorem goesDown_norTim (s : State) (cause : Nat) : norTim (goesDown s cause) = norTim s := by
  simp [goesDown, flushAll_norTim, ldgSpill_norTim, thaw_norTim, draw_norTim, moveJob_norTim]

theorem coldReset_frame (s : State) : (coldReset s).nor = s.nor ∧ (coldReset s).tim.acc = s.tim.acc := ⟨rfl, rfl⟩

/-- What a reset's start leaves: the flash, the fuses and the clock's count. -/
theorem resetDown_keeps (s : State) (cause : Nat) :
    (resetDown s cause).nor = s.nor ∧ (resetDown s cause).sec.fuses = s.sec.fuses ∧ (resetDown s cause).tim.acc = s.tim.acc := by
  obtain ⟨hnor, htim⟩ := Prod.ext_iff.1 (goesDown_norTim s cause)
  obtain ⟨hnor', hacc⟩ := coldReset_frame (goesDown s cause)
  rw [resetDown_eq]
  refine ⟨hnor'.trans hnor, ?_, hacc.trans (congrArg Tim.acc htim)⟩
  rw [← resetDown_eq]
  exact congrArg (fun p => p.2.2) (resetDown_fixedPart s cause)

/-- The cause of the reset stands where the module reads it (R534). -/
theorem resetDown_cause (s : State) {cause : Nat} (hpos : cause ≠ 0) (hle : cause < 8) : regF (resetDown s cause) aBootCause 2 0 = cause := by
  have hbits (n : Nat) : bitsOf (BitVec.ofNat 64 (cause + n % 2 ^ 32 * 2 ^ 32)).toNat 2 0 = cause := by
    simp only [bitsOf, BitVec.toNat_ofNat, Nat.shiftRight_zero]
    omega
  rw [resetDown_eq, causeSet, regF, reg, setReg, smGet_smSet_val _ _ _ _ fun h => ?_, hbits]
  have h0 := hbits (regF s aBootCause 63 32 + 1)
  rw [h] at h0
  exact hpos h0.symm

/-! ### The choice of an image (R521, R522) -/

/-- The choice looks at the flash and the fuses alone. -/
theorem romRun_congr {s t : State} (hnor : t.nor = s.nor) (hfuses : t.sec.fuses = s.sec.fuses) (o : BootOutcome) : romRun t o = romRun s o := by
  have hform : imgForm t = imgForm s := by unfold imgForm; rw [hnor]
  have himg : bootImg t = bootImg s := by unfold bootImg; rw [hnor]
  have hcert : imgCertNamed t = imgCertNamed s := by unfold imgCertNamed; rw [hnor]
  have hdigest : imgDigestOk t = imgDigestOk s := by unfold imgDigestOk; rw [hnor]
  have hrefuse : slotRefuse t = slotRefuse s := by unfold slotRefuse; rw [hform, himg, hfuses]
  have hfails : slotFails t = slotFails s := by unfold slotFails; rw [hcert, hdigest]
  have hpick (l : List Nat) : bootPick t o l = bootPick s o l := by
    induction l with
    | nil => rfl
    | cons i l ih => unfold bootPick; rw [hfails, ih]
  have horder : bootOrder t = bootOrder s := by unfold bootOrder; rw [hrefuse, himg]
  have hroot : rootOk t = rootOk s := by unfold rootOk; rw [hnor, hfuses]
  unfold romRun
  rw [hrefuse, hpick, horder, hroot]

end Sys2Proof.Machine
end

section
/-! PROOFS. O44 and O50, start-up (R535): the stage stands in BOOT_STATUS from the choice of an image to enumeration, or to the wait for the links. -/

namespace Sys2Proof.Machine

/-! ### A module that starts -/

/-- A module in stage n of start-up, with the cause of the reset, the clock's count and the image of r. -/
structure BootAt (n : Nat) (r s : State) : Prop where
  pos : n ≠ 0
  stage : regF s aBoot 3 0 = n
  cause : reg s aBootCause = reg r aBootCause
  acc : s.tim.acc = r.tim.acc
  bslot : s.sec.bslot = r.sec.bslot
  boot : s.sec.boot = none

variable {n : Nat} {r s t : State}

theorem BootAt.of_frame (h : BootAt n r s) (hstage : regF t aBoot 3 0 = regF s aBoot 3 0) (hcause : reg t aBootCause = reg s aBootCause)
    (htim : t.tim = s.tim) (hslot : t.sec.bslot = s.sec.bslot) (hboot : t.sec.boot = s.sec.boot) : BootAt n r t :=
  ⟨h.pos, hstage.trans h.stage, hcause.trans h.cause, (congrArg Tim.acc htim).trans h.acc, hslot.trans h.bslot, hboot.trans h.boot⟩

theorem BootAt.of_regs (h : BootAt n r s) (hreg : ∀ a, a ≠ aLdgLost → reg t a = reg s a) (htim : t.tim = s.tim) (hsec : t.sec = s.sec) : BootAt n r t :=
  h.of_frame (regF_congr (hreg aBoot (by decide)) 3 0) (hreg aBootCause (by decide)) htim (by rw [hsec]) (by rw [hsec])

theorem BootAt.of_same (h : BootAt n r s) (hs : RecSame s t) : BootAt n r t := by
  obtain ⟨_, _, _, _, _, rfl, hreg⟩ := hs
  exact h.of_regs hreg rfl rfl

theorem BootAt.setReg (h : BootAt n r s) {a : Nat} (v : Word64) (hboot : aBoot ≠ a) (hcause : aBootCause ≠ a) : BootAt n r (setReg s a v) :=
  h.of_frame (regF_congr (reg_setReg_ne s v hboot) 3 0) (reg_setReg_ne s v hcause) rfl rfl rfl

theorem BootAt.setRegF (h : BootAt n r s) {a : Nat} (hi lo x : Nat) (hboot : aBoot ≠ a) (hcause : aBootCause ≠ a) :
    BootAt n r (setRegF s a hi lo x) := h.setReg _ hboot hcause

/-- A field of BOOT_STATUS above the stage. -/
theorem BootAt.setBeside (h : BootAt n r s) {hi lo : Nat} (x : Nat) (hle : lo ≤ hi) (hlo : 3 < lo) : BootAt n r (Machine.setRegF s aBoot hi lo x) := by
  have hput := bitsOf_putBits_ne (reg s aBoot) x hle (.inl hlo : 3 < lo ∨ hi < 0)
  have hne : BitVec.ofNat 64 (putBits (reg s aBoot).toNat hi lo x) ≠ 0 := by
    intro h0
    rw [h0] at hput
    exact h.pos (h.stage.symm.trans (by rw [regF, ← hput]; rfl))
  refine h.of_frame ?_ (reg_setRegF_ne s hi lo x (by decide)) rfl rfl rfl
  rw [regF, reg_setRegF hne, hput, regF]

/-- The next stage. -/
theorem BootAt.stageTo (h : BootAt n r s) {m : Nat} (hpos : m ≠ 0) (hlt : m < 16) : BootAt m r (stageTo s m) := by
  have hmod : m % 2 ^ (3 + 1 - 0) = m := Nat.mod_eq_of_lt hlt
  refine ⟨hpos, ?_, (reg_setRegF_ne s 3 0 m (by decide)).trans h.cause, h.acc, h.bslot, h.boot⟩
  exact (regF_setRegF_ne_zero s aBoot (by decide) (by decide) (by rwa [hmod])).trans hmod

theorem BootAt.foldl {α : Type} {f : State → α → State} (l : List α) (hf : ∀ x ∈ l, ∀ s, BootAt n r s → BootAt n r (f s x)) :
    ∀ {s : State}, BootAt n r s → BootAt n r (l.foldl f s) := by
  induction l with
  | nil => exact id
  | cons x l ih =>
    exact fun h => ih (fun y hy => hf y (List.mem_cons_of_mem x hy)) (hf x List.mem_cons_self _ h)

/-! ### Records and faults -/

theorem BootAt.record (h : BootAt n r s) (cls : Nat) (source code : Word16) (payload : Nat) : BootAt n r (record s cls source code payload) :=
  h.of_regs (fun a ha => record_reg s cls source code payload a ha) (record_tim ..) (record_sec ..)

theorem BootAt.hostVector (h : BootAt n r s) (v : Nat) : BootAt n r (hostVector s v) :=
  h.of_regs (fun a _ => hostVector_reg s v a) (hostVector_tim ..) (hostVector_sec ..)

theorem BootAt.readyDrop (h : BootAt n r s) : BootAt n r (readyDrop s) := by
  unfold Machine.readyDrop
  split
  · exact (h.setBeside 0 (by decide) (by decide)).hostVector 5
  · exact h

theorem BootAt.readyCheck (h : BootAt n r s) : BootAt n r (readyCheck s) := by
  rcases readyCheck_eq s with hs | hs <;> rw [hs]
  · exact (h.setBeside 1 (by decide) (by decide)).hostVector 5
  · exact h

theorem BootAt.deviceFatal (h : BootAt n r s) (source code : Word16) (payload : Nat) : BootAt n r (deviceFatal s source code payload) := by
  have hrec := h.record kDeviceFatal source code payload
  refine BootAt.hostVector (BootAt.readyDrop ?_) 4
  refine hrec.of_regs (fun a ha => ?_) ?_ ?_
  · rw [noticeSend_reg _ _ _ _ _ ha, detLeave_reg _ _ ha]; rfl
  · rw [noticeSend_tim, detLeave_tim]
  · rw [noticeSend_sec, detLeave_sec]

theorem BootAt.bootStop (h : BootAt n r s) (source code : Word16) (payload : Nat) : BootAt n r (bootStop s source code payload) :=
  (h.deviceFatal source code payload).setBeside _ (by decide) (by decide)

/-! ### The wipe of start-up (R535, order 9) -/

theorem BootAt.wipeClear (h : BootAt n r s) (scope : Nat) : BootAt n r (wipeClear s scope) := by
  have hkeep (a : Nat) (ha : wipeKeeps a = true) (hdl : a ≠ aSynDl) (hwin : a ≠ aSynDlWin) : smGet 0 (wipeRegs s.regs) a = reg s a := by
    rw [wipeRegs, smGet_smSet_ne _ _ _ _ _ hwin, smGet_smSet_ne _ _ _ _ _ hdl, smGet_filter 0 s.regs wipeKeeps a ha]
    rfl
  have hboot := hkeep aBoot (by decide) (by decide) (by decide)
  have hcause := hkeep aBootCause (by decide) (by decide) (by decide)
  have hsec := (wipeClear_frame s scope).1
  have hdie (t : State) (hregs : t.regs = wipeRegs s.regs) (htim : t.tim = s.tim) (hs : t.sec = s.sec) : BootAt n r t :=
    h.of_frame (regF_congr (by rw [reg, hregs, hboot]) 3 0) (by rw [reg, hregs, hcause]) htim (by rw [hs]) (by rw [hs])
  unfold Machine.wipeClear
  split
  · exact hdie _ rfl rfl rfl
  · exact ((hdie (wipeDie (wipeMem s scope)) rfl rfl rfl).setRegF 16 16 0 (by decide) (by decide)).of_regs (fun _ _ => rfl) rfl rfl

theorem BootAt.withWipe (h : BootAt n r s) (w : Option Wipe) : BootAt n r { s with sec := { s.sec with wipe := w } } :=
  h.of_frame rfl rfl rfl rfl rfl

theorem aCxl_ne_boot {k : Nat} (hk : k < 4) : aBoot ≠ aCxl k ∧ aBootCause ≠ aCxl k := by
  unfold aBoot aBootCause aCxl aBoot
  omega

theorem BootAt.wipeStart (h : BootAt n r s) (scope : Nat) (why : WipeWhy) : BootAt n r (wipeStart s scope why) := by
  have hports : BootAt n r ((wipePorts s scope).foldl (fun s k => Machine.setRegF s (aCxl k) 27 27 0) (Machine.wipeClear s scope)) :=
    BootAt.foldl _ (fun k hk s hs => by
      obtain ⟨hboot, hcause⟩ := aCxl_ne_boot (List.mem_range.1 (List.mem_of_mem_filter hk))
      exact hs.setRegF 27 27 0 hboot hcause) (h.wipeClear scope)
  exact (((hports.withWipe _).setRegF 1 0 1 (by decide) (by decide)).setRegF 3 2 _ (by decide) (by decide)).setRegF 8 5 _ (by decide) (by decide)

theorem BootAt.wipeFailed (h : BootAt n r s) : BootAt n r (wipeFailed s) := by
  have hshown := ((h.setRegF 4 4 1 (by decide : aBoot ≠ aSecWipe) (by decide)).setRegF 1 0 0 (by decide : aBoot ≠ aSecWipe) (by decide)).setRegF 8 5 0
    (by decide : aBoot ≠ aSecWipe) (by decide)
  exact (hshown.of_frame (t := { wipeFailShown s with sec := { (wipeFailShown s).sec with wipe := none, move := _ } }) rfl rfl rfl rfl rfl).deviceFatal ..

theorem BootAt.mllLoad (h : BootAt n r s) (ok : Bool) : BootAt n r (mllLoad s ok) := by
  unfold Machine.mllLoad
  split
  · exact h.setReg _ (by decide) (by decide)
  · exact (h.setRegF 16 16 0 (by decide : aBoot ≠ aVecMll) (by decide)).record ..

theorem BootAt.wipeAfter (h : BootAt n r s) (why : WipeWhy) : BootAt n r (wipeAfter s why) := by
  cases why with
  | start => exact h.readyCheck
  | jobEnd =>
    have hjob : BootAt n r (jobTo (segmentEnd s 0) .empty) :=
      (h.of_same (segmentEnd_same s 0)).of_regs (fun a ha => jobTo_reg _ _ a ha) (jobTo_tim ..) (jobTo_sec ..)
    exact hjob.of_regs (fun a _ => hostDoneAll_reg ..) (hostDoneAll_tim ..) (hostDoneAll_sec ..)
  | ondie q cid => exact h.of_regs (fun a _ => hostDone_reg ..) (hostDone_tim ..) (hostDone_sec ..)
  | move => exact h

theorem BootAt.withSeq (h : BootAt n r s) (x : Word32) : BootAt n r { s with sec := { s.sec with wipeSeq := x } } := h.of_frame rfl rfl rfl rfl rfl

theorem BootAt.wipeDone (h : BootAt n r s) (w : Wipe) (us : BitVec 32) (ok : Bool) : BootAt n r (wipeDone s w us ok) := by
  unfold Machine.wipeDone
  extract_lets fail sec1 s1 s2 sec2 s3 s4
  have h3 : BootAt n r s3 := (((h.withWipe none).setReg (a := aSecWipe) _ (by decide) (by decide)).record ..).withSeq _
  have h4 : BootAt n r s4 := by
    unfold s4
    split
    · exact h3.mllLoad ok
    · exact h3
  exact BootAt.foldl w.why (fun why _ s hs => hs.wipeAfter why) h4

theorem BootAt.wipeEnds (h : BootAt n r s) (fails : Bool) (us : BitVec 32) (ok : Bool) : BootAt n r (wipeEnds s fails us ok) := by
  unfold Machine.wipeEnds
  split
  · exact h
  · split
    · exact h
    · split
      · exact h.wipeFailed
      · exact h.wipeDone _ us ok

/-- The wipe of start-up ends in stage 10, or in stage 9 where it fails. -/
theorem BootAt.bootWipe (h : BootAt n r s) (o : BootOutcome) : ∃ m, BootAt m r (bootWipe s o) := by
  have hbegun : BootAt 9 r (Machine.wipeStart { Machine.stageTo s 9 with sec := { (Machine.stageTo s 9).sec with wipe := none } } 3 .start) :=
    ((h.stageTo (by decide) (by decide)).withWipe none).wipeStart 3 .start
  unfold Machine.bootWipe
  dsimp only
  split
  · exact ⟨9, hbegun.wipeFailed.setBeside _ (by decide) (by decide)⟩
  · refine ⟨10, BootAt.mllLoad (BootAt.stageTo (n := 9) ?_ (by decide) (by decide)) _⟩
    split
    · exact hbegun.wipeEnds ..
    · exact hbegun

/-! ### Enumeration (R535, orders 11 and 12) -/

theorem BootAt.withHost (h : BootAt n r s) (p : HostPort) : BootAt n r { s with host := p } := h.of_frame rfl rfl rfl rfl rfl

theorem BootAt.withFuses (h : BootAt n r s) (f : Fuses) : BootAt n r { s with sec := { s.sec with fuses := f } } := h.of_frame rfl rfl rfl rfl rfl

/-- Start-up that comes to enumeration ends in stage 12. -/
theorem BootAt.bootEnum (h : BootAt n r s) (o : BootOutcome) : BootAt 12 r (bootEnum s o) := by
  have htime : BootAt 11 r (Machine.setReg (Machine.stageTo s 11) aBootTime (BitVec.ofNat 64 o.us.toNat)) :=
    (h.stageTo (by decide) (by decide)).setReg _ (by decide) (by decide)
  unfold Machine.bootEnum
  extract_lets s1 up port s2 s3 old sec fuses s4
  have h3 : BootAt 12 r s3 := ((BootAt.withHost (s := s1) htime _).stageTo (m := 12) (by decide) (by decide)).record ..
  refine BootAt.readyCheck ?_
  unfold s4
  split
  · exact (h3.withFuses _).record ..
  · exact h3

/-! ### Self-test and memory (R535, orders 5 and 6) -/

theorem aMc_ne_boot {k : Nat} (hk : k < 16) : aBoot ≠ aMc k ∧ aBootCause ≠ aMc k := by
  unfold aBoot aBootCause aMc aBoot
  omega

theorem BootAt.bootTest (h : BootAt n r s) (o : BootOutcome) : ∃ m, BootAt m r (bootTest s o) := by
  have hmem (f : Nat → Nat) : BootAt 6 r ((List.range 16).foldl (fun t k => Machine.setRegF t (aMc k) 0 0 (f k)) (Machine.stageTo s 6)) :=
    BootAt.foldl _ (fun k hk s hs => by
      obtain ⟨hboot, hcause⟩ := aMc_ne_boot (List.mem_range.1 hk)
      exact hs.setRegF 0 0 _ hboot hcause) (h.stageTo (by decide) (by decide))
  unfold Machine.bootTest
  split
  · exact ⟨5, (h.stageTo (by decide) (by decide)).bootStop ..⟩
  · dsimp only
    split
    · exact ⟨6, (hmem _).bootStop ..⟩
    · exact ⟨6, hmem _⟩

/-! ### The Ledger and the image (R535, orders 1 to 3) -/

theorem BootAt.withLedger (h : BootAt n r s) (l : Ledger) : BootAt n r { s with ldg := l } := h.of_frame rfl rfl rfl rfl rfl

theorem BootAt.ldgNonce (h : BootAt n r s) : BootAt n r (ldgNonce s) := h.of_frame rfl rfl rfl rfl rfl

theorem BootAt.ldgUp (h : BootAt n r s) : BootAt n r (ldgUp s) := (h.withLedger _).ldgNonce.record ..

theorem BootAt.romRecords (h : BootAt n r s) : BootAt n r (romRecords s) :=
  BootAt.foldl _ (fun _ _ _ hs => hs.record ..) (h.of_frame rfl rfl rfl rfl rfl)

theorem BootAt.laterRecord (h : BootAt n r s) (source code : Word16) (payload : Nat) : BootAt n r (laterRecord s source code payload) :=
  h.of_frame rfl rfl rfl rfl rfl

theorem BootAt.romRejects (h : BootAt n r s) (rs : List (Nat × Nat)) : BootAt n r (romRejects s rs) :=
  BootAt.foldl rs (fun _ _ _ hs => hs.laterRecord ..) h

theorem BootAt.withClosed (h : BootAt n r s) : BootAt n r { s with sec := { s.sec with wipeSeq := lastWipe s, wasOpen := false } } :=
  h.of_frame rfl rfl rfl rfl rfl

theorem BootAt.bootLedger (h : BootAt n r s) (rs : List (Nat × Nat)) : BootAt 3 r (bootLedger s rs) := by
  unfold Machine.bootLedger
  extract_lets s0 sec0 s1 s2 s3
  have h2 : BootAt 3 r s2 := ((h.stageTo (m := 3) (by decide) (by decide)).ldgUp.withClosed.romRejects rs).romRecords
  have h3 : BootAt 3 r s3 := by
    unfold s3
    split
    · exact h2.record ..
    · exact h2
  split
  · exact h3.bootStop ..
  · exact h3

end Sys2Proof.Machine
end

section
/-! PROOFS. O44 and O50, the end of start-up: with a configuration it waits in stage 8 for its links, without one it goes on to enumeration. -/

namespace Sys2Proof.Machine

variable {n : Nat} {r s t : State}

/-! ### The configuration block (R535, order 4) -/

/-- A block that is read has tables of bounded length. -/
theorem groups_le {b : List Byte} (h : cfgRangeOk b = true) : cf b 96 4 ≤ 2 ^ 14 := by
  unfold cfgRangeOk at h
  have hlast := of_decide_eq_true (Bool.and_eq_true_iff.1 h).2
  exact hlast.trans (Nat.pow_le_pow_right (by decide) (Nat.sub_le _ _))

/-- A block that is accepted meets its ranges. -/
theorem rangeOk_of_cfgBad {b : List Byte} {sigOk : Bool} (h : cfgBad s b sigOk = none) : cfgRangeOk b = true := by
  have hfields : cfgFieldsOk s b = true := by
    by_contra hbad
    unfold cfgBad at h
    rw [if_pos (c := (!cfgFieldsOk s b) = true) (by simpa using hbad)] at h
    repeat' split at h
    all_goals cases h
  unfold cfgFieldsOk at hfields
  simp only [Bool.and_eq_true] at hfields
  exact hfields.1.1.1

theorem BootAt.withMeasure (h : BootAt n r s) (x : List Byte) : BootAt n r { s with sec := { s.sec with cfgMeasure := x } } :=
  h.of_frame rfl rfl rfl rfl rfl

theorem BootAt.withCfg (h : BootAt n r s) (b : List Byte) : BootAt n r { s with cfg := b } := h.of_frame rfl rfl rfl rfl rfl

/-- The reading of the block leaves the stage; a block that it takes meets its ranges. -/
theorem BootAt.cfgRead (h : BootAt n r s) (sigOk : Bool) :
    BootAt n r (cfgRead s sigOk).1 ∧ ((cfgRead s sigOk).2 = true → cfgRangeOk (cfgRead s sigOk).1.cfg = true) := by
  unfold Machine.cfgRead
  extract_lets k b s1 sec s2
  have h2 : BootAt n r s2 := (h.setReg (a := aBootCfg) _ (by decide) (by decide)).withMeasure _
  split
  · exact ⟨((h2.setReg (a := aLdgWin) 60 (by decide) (by decide)).record ..).setBeside (hi := 9) 1 (by decide) (by decide), nofun⟩
  · next hok =>
    exact ⟨((h2.withCfg b).setReg (a := aLdgWin) _ (by decide) (by decide)).setReg (a := aPwrCap) _ (by decide) (by decide),
      fun _ => rangeOk_of_cfgBad hok⟩

theorem bootTest_cfg (s : State) (o : BootOutcome) : (bootTest s o).cfg = s.cfg := by
  have hkept : kept (bootTest s o) = kept s := by
    unfold bootTest
    repeat' split
    all_goals simp [bootStop, stageTo]
  exact congrArg Kept.cfg hkept

/-! ### CXL ports and links (R535, orders 7 and 8) -/

theorem BootAt.withCxlWait (h : BootAt n r s) (x : BitVec 4) : BootAt n r { s with sec := { s.sec with cxlWait := x } } :=
  h.of_frame rfl rfl rfl rfl rfl

theorem BootAt.bootPort (h : BootAt n r s) (o : BootOutcome) {k : Nat} (hk : k < 4) : BootAt n r (bootPort o s k) := by
  obtain ⟨hboot, hcause⟩ := aCxl_ne_boot hk
  unfold Machine.bootPort
  split
  · split
    · exact h.record ..
    · exact h.setReg _ hboot hcause
  · split
    · exact h.record ..
    · split
      · exact h.withCxlWait _
      · exact h

theorem aLink_ne_boot {k : Nat} (hk : k < 36) : aBoot ≠ aLink k ∧ aBootCause ≠ aLink k := by
  unfold aBoot aBootCause aLink aBoot
  omega

theorem aRtGroup_ne_boot {i : Nat} (hi : i < 2 ^ 14) : aBoot ≠ aRtGroup i ∧ aBootCause ≠ aRtGroup i := by
  unfold aBoot aBootCause aRtGroup aBoot
  omega

theorem aRtMember_ne_boot {i : Nat} (hi : i < 2 ^ 8) : aBoot ≠ aRtMember i ∧ aBootCause ≠ aRtMember i := by
  unfold aBoot aBootCause aRtMember aBoot
  omega

theorem BootAt.modLink (h : BootAt n r s) (k : Nat) (f : Link → Link) : BootAt n r (modLink s k f) := h.of_frame rfl rfl rfl rfl rfl

theorem BootAt.withStarted (h : BootAt n r s) : BootAt n r { s with tim := { s.tim with started := true } } :=
  ⟨h.pos, h.stage, h.cause, h.acc, h.bslot, h.boot⟩

theorem BootAt.cfgFabric (h : BootAt n r s) (hcfg : cfgRangeOk s.cfg = true) : BootAt n r (cfgFabric s) := by
  unfold Machine.cfgFabric
  extract_lets b s1 s2 valid s3 s4 s5 s6 s7
  have h4 : BootAt n r s4 :=
    (((((h.setReg (a := aFab) _ (by decide) (by decide)).setRegF (a := aFab + 8) 7 0 _ (by decide) (by decide)).setReg (a := aFabArb) _ (by decide)
      (by decide)).setReg (a := aFabRtCfg) _ (by decide) (by decide)).setReg (a := aFabSyncCfg) _ (by decide) (by decide)).setRegF (a := aFabSync) 2 2 _
      (by decide) (by decide)
  have h5 : BootAt n r s5 := BootAt.foldl _ (fun i hi s hs => by
    obtain ⟨hboot, hcause⟩ := aRtGroup_ne_boot ((List.mem_range.1 hi).trans_le (groups_le hcfg))
    exact hs.setReg _ hboot hcause) h4
  have h6 : BootAt n r s6 := BootAt.foldl _ (fun i hi s hs => by
    have hlt : 2 ^ (cf b 36 1 % 8) ≤ 2 ^ 8 := Nat.pow_le_pow_right (by decide) (Nat.mod_lt _ (by decide)).le
    obtain ⟨hboot, hcause⟩ := aRtMember_ne_boot ((List.mem_range.1 hi).trans_le hlt)
    exact hs.setReg _ hboot hcause) h5
  have h7 : BootAt n r s7 := BootAt.foldl _ (fun k hk s hs => by
    obtain ⟨hboot, hcause⟩ := aLink_ne_boot (List.mem_range.1 hk)
    have hlink := hs.setRegF 36 36 (b2n (cfgLink b k).2.1) hboot hcause
    dsimp only
    split
    · exact hlink.modLink _ _
    · exact hlink) h6
  exact h7.withStarted

theorem bootPort_cfg (o : BootOutcome) (s : State) (k : Nat) : (bootPort o s k).cfg = s.cfg := by
  unfold bootPort
  repeat' split
  all_goals simp

theorem bootPorts_cfg (o : BootOutcome) (l : List Nat) : ∀ s : State, (l.foldl (bootPort o) s).cfg = s.cfg := by
  induction l with
  | nil => exact fun s => rfl
  | cons k l ih => exact fun s => (ih _).trans (bootPort_cfg o s k)

/-- Start-up that waits for its links stands in stage 8. -/
theorem BootAt.bootLinks (h : BootAt n r s) (hcfg : cfgRangeOk s.cfg = true) (o : BootOutcome) : BootAt 8 r (bootLinks s o) := by
  have hports : BootAt 7 r ((List.range 4).foldl (Machine.bootPort o) (Machine.stageTo s 7)) :=
    BootAt.foldl _ (fun k hk s hs => hs.bootPort o (List.mem_range.1 hk)) (h.stageTo (by decide) (by decide))
  exact (hports.stageTo (by decide) (by decide)).cfgFabric ((congrArg cfgRangeOk (bootPorts_cfg o _ (Machine.stageTo s 7))).trans hcfg)

/-! ### Where start-up ends -/

/-- A module that has started: enumerated, or waiting for its links. -/
def Booted (r t : State) : Prop :=
  regF t aBoot 3 0 = (if t.sec.boot = none then 12 else 8) ∧ reg t aBootCause = reg r aBootCause ∧ t.tim.acc = r.tim.acc ∧ t.sec.bslot = r.sec.bslot

theorem BootAt.booted (h : BootAt 12 r t) : Booted r t := ⟨by rw [if_pos h.boot, h.stage], h.cause, h.acc, h.bslot⟩

theorem BootAt.waits (h : BootAt 8 r t) (o : BootOutcome) : Booted r { t with sec := { t.sec with boot := some o } } := ⟨h.stage, h.cause, h.acc, h.bslot⟩

/-- From the configuration block on. -/
theorem BootAt.bootRest (h : BootAt n r s) (o : BootOutcome) : Booted r (bootRest s o) := by
  obtain ⟨hread, hrange⟩ := (h.stageTo (m := 4) (by decide) (by decide)).cfgRead o.cfgSigOk
  obtain ⟨m, htest⟩ := hread.bootTest o
  unfold Machine.bootRest
  split
  · exact (h.bootEnum o).booted
  · split
    next s1 ok hr =>
      simp only [hr] at hrange htest
      dsimp only
      split
      · exact (htest.bootEnum o).booted
      · split
        · next hok => exact (htest.bootLinks ((congrArg cfgRangeOk (bootTest_cfg s1 o)).trans (hrange hok)) o).waits o
        · obtain ⟨m', hwiped⟩ := htest.bootWipe o
          exact (hwiped.bootEnum o).booted

/-- The module as the ROM starts (R535, order 2). -/
def romStart (s : State) : State := secNonce (stageTo { s with sec := { s.sec with wdogAt := now s, boot := none, recovery := false } } 2)

theorem romStart_rom (s : State) (o : BootOutcome) : romRun (romStart s) o = romRun s o :=
  romRun_congr (s := s) (t := romStart s) rfl rfl o

theorem romStart_at (s : State) (i : Nat) (o : BootOutcome) :
    BootAt 2 { s with sec := (bootImage (romStart s) i o).sec } (bootImage (romStart s) i o) := by
  have hmod : (2 : Nat) % 2 ^ (3 + 1 - 0) = 2 := rfl
  exact ⟨by decide, (regF_setRegF_ne_zero _ aBoot (by decide) (by decide) (by decide)).trans hmod, reg_setRegF_ne _ 3 0 2 (by decide), rfl, rfl, rfl⟩

theorem bootRun_eq {s : State} {o : BootOutcome} {i : Nat} (hrom : (romRun s o).2 = some i) :
    bootRun s o = bootRest (bootLedger (bootImage (romStart s) i o) (romRun s o).1) o := by
  have hrom' : romRun (romStart s) o = ((romRun s o).1, some i) := by rw [romStart_rom, ← hrom]
  show (match romRun (romStart s) o with
    | (rs, none) => romRecovery (romStart s) rs
    | (rs, some i) => bootRest (bootLedger (bootImage (romStart s) i o) rs) o) = _
  rw [hrom']

/-- The ROM's start on a module whose flash has an image that verifies. -/
theorem bootRun_boots {s : State} {o : BootOutcome} {i : Nat} (hrom : (romRun s o).2 = some i) :
    regF (bootRun s o) aBoot 3 0 = (if (bootRun s o).sec.boot = none then 12 else 8) ∧ reg (bootRun s o) aBootCause = reg s aBootCause ∧
      (bootRun s o).tim.acc = s.tim.acc ∧ (bootRun s o).sec.bslot = (i == 1) := by
  rw [bootRun_eq hrom]
  exact ((romStart_at s i o).bootLedger (romRun s o).1).bootRest o

/-- A reset of a module whose flash has an image that verifies (R534, R535). -/
theorem resetRun_boots {s : State} {o : BootOutcome} {cause i : Nat} (hrails : s.pwr.rails = .up) (hheld : s.pwr.held = false)
    (hrom : (romRun s o).2 = some i) (hpos : cause ≠ 0) (hlt : cause < 8) :
    regF (resetRun s cause o) aBoot 3 0 = (if (resetRun s cause o).sec.boot = none then 12 else 8) ∧ regF (resetRun s cause o) aBootCause 2 0 = cause ∧
      (resetRun s cause o).tim.acc = s.tim.acc ∧ (resetRun s cause o).sec.bslot = (i == 1) := by
  obtain ⟨hnor, hfuses, hacc⟩ := resetDown_keeps s cause
  have hrun : resetRun s cause o = bootRun (resetDown s cause) o := if_pos ⟨hrails, hheld⟩
  obtain ⟨hstage, hcause, htim, hslot⟩ := bootRun_boots ((congrArg Prod.snd (romRun_congr hnor hfuses o)).trans hrom)
  rw [hrun]
  exact ⟨hstage, (regF_congr hcause 2 0).trans (resetDown_cause s hpos hlt), htim.trans hacc, hslot⟩

end Sys2Proof.Machine
end

section
/-! PROOFS. O50: the reset through the debug port (R618). -/

namespace Sys2Proof.Machine

/-- A write of DBG_RESET runs in every life-cycle state (R606, R618). -/
theorem dbgReset_runs {s : State} (hup : s.pwr.rails = .up) (hs : s.dbg.session = true) (f : State → State) :
    dapActs s aDbgReset f = dapResult (f s) 0 0 0 :=
  dapTry_permits hup hs (.inr ((lockedOk_write_iff _).2 (.inr (.inr (.inl rfl))))) (by decide) _

/-- The port's answer where it has neither data nor an error. -/
theorem dapResult_zero (s : State) : dapResult s 0 0 0 = s.withDap 0 := by
  simp [dapResult, State.withDap]

theorem withDap_tim (s : State) (dap : BitVec 112) : (s.withDap dap).tim = s.tim := rfl

/-- Settles O50. The port is open to this register while it is locked, and the reset is the one of the other triggers, with its own cause. -/
theorem debugResetByKey : Obligations.DebugResetByKey := by
  refine ⟨fun s o n hup hsession hheld hrom => ?_, fun s o key hup hsession hkey => ?_⟩
  · have hrun := (dbgReset_runs hup hsession (fun t => if (0x5A : BitVec 8) = 0x5A then resetRun t 4 o else t)).trans (dapResult_zero _)
    rw [if_pos rfl] at hrun
    obtain ⟨hstage, hcause, hacc, hslot⟩ := resetRun_boots (cause := 4) hup hheld hrom (by decide) (by decide)
    refine ⟨_, congrArg Host.Outcome.next hrun, ?_, ?_, ?_, ?_⟩
    · rw [regF, withDap_reg, withDap_sec]; exact hstage
    · rw [regF, withDap_reg]; exact hcause
    · rw [withDap_tim]; exact hacc
    · rw [withDap_sec]; exact hslot
  · have hnext := (dbgReset_runs hup hsession (fun t => if key = 0x5A then resetRun t 4 o else t)).trans (dapResult_zero _)
    rw [if_neg hkey] at hnext
    exact congrArg Host.Outcome.next hnext

end Sys2Proof.Machine
end

section
/-! PROOFS. O44: the Ledger, security and flash commands of the host queues, and a reset that the host asks for. -/

namespace Sys2Proof.Machine

variable {s t : State} {n cid : Nat}

/-! ### Ledger commands (R494 to R502) -/

theorem ledgerReadCmd_reads {seq epoch count buf : Nat} (htake : hostTake s n 0x10 cid = some t) (hgood : sqBad (sqEntry s n) 0x10 cid = false)
    (hspells : sqSpells (sqEntry s n) 0x10 cid [(8, 4, seq), (12, 2, epoch), (16, 4, count), (24, 8, buf)] = true) (hpos : 1 ≤ count)
    (hmax : count ≤ 65536) :
    ledgerReadCmd s n cid seq epoch count buf false =
      hostDone (hostWrite t buf ((ldgRead t.ldg epoch seq count).1.flatMap recBytes)) n cid 0 (ldgRead t.ldg epoch seq count).1.length
        (b2n (ldgRead t.ldg epoch seq count).2) :=
  hostRun_takes htake hgood hspells rfl (by simp [hpos, hmax]) _

theorem ledgerFreezeCmd_freezes {ms : Nat} (htake : hostTake s n 0x11 cid = some t) (hgood : sqBad (sqEntry s n) 0x11 cid = false)
    (hspells : sqSpells (sqEntry s n) 0x11 cid [(8, 1, ms)] = true) (hbit : bitOf (fieldAt (sqEntry s n) 9 1) 0 = false) (hms : ms ≤ 100)
    (hst : s.ldg.st = .recording) (hlast : s.ldg.lastUnfreeze = none) :
    ledgerFreezeCmd s n cid ms false = hostDone { t with ldg := frozenLedger t ms } n cid 0 0 0 := by
  obtain ⟨p, rfl⟩ := hostTake_host htake
  have htry := freezeTry_taken (s := { s with host := p }) hst hlast hms
  unfold ledgerFreezeCmd
  rw [if_neg (by simp [hbit]), hostRun_takes htake hgood hspells rfl (decide_eq_true hms)]
  simp only [Bool.false_eq_true, if_false, htry]
  rfl

theorem ledgerClearCmd_answers {addr : Nat} (sigOk : Bool) (htake : hostTake s n 0x12 cid = some t) (hgood : sqBad (sqEntry s n) 0x12 cid = false)
    (hspells : sqSpells (sqEntry s n) 0x12 cid [(8, 8, addr)] = true) :
    ledgerClearCmd s n cid addr sigOk false = hostAnswer (clearTry t (memReads t.mem.host addr 1410) sigOk).1 n cid cLdgClearRefused
      (clearTry t (memReads t.mem.host addr 1410) sigOk).2 :=
  hostRun_takes htake hgood hspells rfl rfl _

/-- The refusal of a clear touches neither GDDR7 nor the security state. -/
theorem clearRefused_frame (s : State) (r : Nat) : (ldgNonce (record s kRefusal srcLedger cLdgClearRefused r)).mem.gddr = s.mem.gddr ∧
    (ldgNonce (record s kRefusal srcLedger cLdgClearRefused r)).sec = s.sec := ⟨record_gddr .., record_sec ..⟩

/-! ### Security commands (R509, R513, R523) -/

theorem securityCmd_answers {addr len : Nat} (sigOk : Bool) (htake : hostTake s n 0x18 cid = some t) (hgood : sqBad (sqEntry s n) 0x18 cid = false)
    (hspells : sqSpells (sqEntry s n) 0x18 cid [(8, 8, addr), (16, 4, len)] = true) (hlen : len = 1378 ∨ len = 3171) :
    securityCmd s n cid addr len sigOk false = hostAnswer (secTry t (memReads t.mem.host addr len) sigOk).1 n cid cSecCmdRefused
      ((secTry t (memReads t.mem.host addr len) sigOk).2.map (fun r => fieldAt (memReads t.mem.host addr len) 0 2 + r * 2 ^ 16)) :=
  hostRun_takes htake hgood hspells rfl (by rcases hlen with h | h <;> simp [h]) _

/-- With no job a command that is accepted is under way, and has burned nothing yet. -/
theorem moveStart_moves (hjob : jobLoaded s = false) (m : LcMove) : (moveStart s m).sec.move = some m ∧ (moveStart s m).sec.fuses = s.sec.fuses := by
  obtain ⟨w, hw⟩ := moveGo_sec (s := moveTaken s m) hjob
  rw [moveStart_unloaded hjob, hw]
  exact ⟨rfl, rfl⟩

theorem secNonce_moves {m : LcMove} {f : Fuses} (h : s.sec.move = some m ∧ s.sec.fuses = f) :
    (secNonce s).sec.move = some m ∧ (secNonce s).sec.fuses = f := by
  obtain ⟨⟨a, b, hsec⟩, -⟩ := secNonce_frame s
  rw [hsec]
  exact h

/-- A command that is refused leaves the life cycle, its fuses and the flash. -/
theorem secRefused_frame (s : State) (typ r : Nat) : (secNonce (secRefuse s typ r)).sec.move = s.sec.move ∧
    (secNonce (secRefuse s typ r)).sec.fuses = s.sec.fuses ∧ (secNonce (secRefuse s typ r)).nor = s.nor := by
  obtain ⟨⟨a, b, hsec⟩, -, -, hnor, -⟩ := secNonce_frame (secRefuse s typ r)
  have hrec : (secRefuse s typ r).sec = s.sec := record_sec ..
  rw [hsec, hrec, hnor]
  exact ⟨rfl, rfl, record_nor ..⟩

theorem attestCmd_attests {nonce : List Byte} {buf : Nat} (htake : hostTake s n 0x19 cid = some t) (hgood : sqBad (sqEntry s n) 0x19 cid = false)
    (hspells : sqSpells (sqEntry s n) 0x19 cid [(8, 32, leNat (slice nonce 0 32)), (40, 8, buf)] = true) :
    attestCmd s n cid nonce buf false = hostDone (record (hostWrite { t with free := t.free + 1 } buf (attestReport t nonce)) kEvent srcSec cAttestIssued
      (fieldAt nonce 0 8)) n cid 0 0 0 :=
  hostRun_takes htake hgood hspells rfl rfl _

theorem relockCmd_relocks (htake : hostTake s n 0x1C cid = some t) (hgood : sqBad (sqEntry s n) 0x1C cid = false)
    (hspells : sqSpells (sqEntry s n) 0x1C cid [] = true) (hst : lcState s = .service) (hmove : s.sec.move = none) :
    relockCmd s n cid = hostDone (moveStart t .relock) n cid 0 0 0 := by
  obtain ⟨p, rfl⟩ := hostTake_host htake
  have hst' : lcState { s with host := p } = .service := hst
  have hask : relockAsk { s with host := p } = moveStart { s with host := p } .relock := if_pos ⟨hst', by simp [hmove]⟩
  refine (hostRun_takes htake hgood hspells rfl rfl _).trans ?_
  dsimp only
  rw [if_neg (by simp [hst']), if_neg (by simp [hmove]), hask]

/-! ### Flash and reset (R533, R537) -/

theorem flashWriteCmd_writes {region addr len b k : Nat} (htake : hostTake s n 0x1A cid = some t) (hgood : sqBad (sqEntry s n) 0x1A cid = false)
    (hspells : sqSpells (sqEntry s n) 0x1A cid [(8, 1, region), (16, 8, addr), (24, 8, len)] = true) (hst : s.job.st = .empty)
    (hregion : norRegion region = some (b, k)) (hlen : len ≤ k) :
    flashWriteCmd s n cid region addr len false = hostDone { t with nor := memWrites s.nor b (memReads s.mem.host addr len) } n cid 0 0 0 := by
  obtain ⟨p, rfl⟩ := hostTake_host htake
  refine (hostRun_takes htake hgood hspells (stIn_of (by simp [hst])) (by simp [hregion, hlen]) _).trans ?_
  dsimp only
  rw [hregion]

theorem resetCmd_resets (o : BootOutcome) (htake : hostTake s n 0x1B cid = some t) (hgood : sqBad (sqEntry s n) 0x1B cid = false)
    (hspells : sqSpells (sqEntry s n) 0x1B cid [(8, 1, 0x5A)] = true) : resetCmd s n cid 0x5A o = resetRun t 3 o :=
  hostRun_takes htake hgood hspells rfl rfl _

/-- What the host port holds does not bear on a reset's start-up. -/
theorem hostReset_boots {o : BootOutcome} {i : Nat} (p : HostPort) (hrails : s.pwr.rails = .up) (hheld : s.pwr.held = false)
    (hrom : (romRun s o).2 = some i) : ∃ t, resetRun { s with host := p } 3 o = t ∧ regF t aBoot 3 0 = (if t.sec.boot = none then 12 else 8) ∧
      regF t aBootCause 2 0 = 3 ∧ t.tim.acc = s.tim.acc ∧ t.sec.bslot = (i == 1) := by
  have hrom' : (romRun { s with host := p } o).2 = some i := (congrArg Prod.snd (romRun_congr (s := s) (t := { s with host := p }) rfl rfl o)).trans hrom
  exact ⟨_, rfl, resetRun_boots (s := { s with host := p }) (cause := 3) hrails hheld hrom' (by decide) (by decide)⟩

/-- Settles O44. Each command runs on the state that took it, which is the module but for the host port; its own lemma says what it leaves. -/
theorem hostServiceResults : Obligations.HostServiceResults := by
  intro s s0 q cid
  refine ⟨fun seq epoch count buf htake hgood hspells hpos hmax => ?_, fun ms htake hgood hspells hbit hms hst hlast => ?_,
    fun addr sigOk htake hgood hspells => ⟨fun hwhy => ?_, fun r hwhy => ?_⟩,
    fun addr len sigOk htake hgood hspells hlen => ⟨fun m hjudge hjob hseq => ?_, fun r hjudge => ?_⟩,
    fun nonce buf htake hgood hspells => ?_, fun region addr len b k htake hgood hspells hst hregion hlen => ?_,
    fun htake hgood hspells hst hmove hjob => ?_, fun o k i hi hrails hheld hrom => ?_⟩
  · obtain ⟨p, rfl⟩ := hostTake_host htake
    exact congrArg Host.Outcome.next (ledgerReadCmd_reads htake hgood hspells hpos hmax)
  · have hgo := ledgerFreezeCmd_freezes htake hgood hspells hbit hms hst hlast
    obtain ⟨p, rfl⟩ := hostTake_host htake
    exact ⟨_, congrArg Host.Outcome.next hgo, rfl, rfl⟩
  · have hgo := ledgerClearCmd_answers sigOk htake hgood hspells
    obtain ⟨hnone, hst, -⟩ := clearTry_clears hwhy
    rw [hnone] at hgo
    exact ⟨_, congrArg Host.Outcome.next hgo, hst⟩
  · have hgo := ledgerClearCmd_answers sigOk htake hgood hspells
    obtain ⟨p, rfl⟩ := hostTake_host htake
    obtain ⟨hgddr, hsec⟩ := clearRefused_frame { s with host := p } r
    rw [clearTry_refuses hwhy] at hgo
    exact ⟨_, congrArg Host.Outcome.next hgo, hgddr, hsec⟩
  · have hgo := securityCmd_answers sigOk htake hgood hspells hlen
    obtain ⟨p, rfl⟩ := hostTake_host htake
    obtain ⟨hmove, hfuses⟩ := secNonce_moves (moveStart_moves (s := { s with host := p }) hjob m)
    rw [secTry_accepts hjudge] at hgo
    exact ⟨_, congrArg Host.Outcome.next hgo, hmove, hfuses⟩
  · have hgo := securityCmd_answers sigOk htake hgood hspells hlen
    obtain ⟨p, rfl⟩ := hostTake_host htake
    obtain ⟨hmove, hfuses, hnor⟩ := secRefused_frame { s with host := p } (fieldAt (memReads s.mem.host addr.toNat len.toNat) 0 2) r
    rw [secTry_refuses hjudge] at hgo
    exact ⟨_, congrArg Host.Outcome.next hgo, hmove, hfuses, hnor⟩
  · exact congrArg Host.Outcome.next (attestCmd_attests htake hgood hspells)
  · exact congrArg Host.Outcome.next (flashWriteCmd_writes htake hgood hspells hst hregion hlen)
  · have hgo := relockCmd_relocks htake hgood hspells hst hmove
    obtain ⟨p, rfl⟩ := hostTake_host htake
    obtain ⟨hrelock, -⟩ := moveStart_moves (s := { s with host := p }) hjob .relock
    exact ⟨_, congrArg Host.Outcome.next hgo, hrelock⟩
  · rcases hi with ⟨rfl, htake, hgood, hspells⟩ | rfl
    · have hgo := resetCmd_resets o htake hgood hspells
      obtain ⟨p, rfl⟩ := hostTake_host htake
      obtain ⟨t, ht, hboots⟩ := hostReset_boots p hrails hheld hrom
      exact ⟨t, congrArg Host.Outcome.next (hgo.trans ht), hboots⟩
    · obtain ⟨t, ht, hboots⟩ := hostReset_boots s.host hrails hheld hrom
      exact ⟨t, congrArg Host.Outcome.next ((if_pos rfl).trans ht), hboots⟩

end Sys2Proof.Machine
end
